-- ==== Sys2Proof/Word.lean ====
section
/-!
DEFINITION. Sys2Proof/Word.lean: the word types of the module (spec/00_scope.md, Registers and access words).
A byte has 8 bits, a device register 32 (R2), a core register 64, a bundle 128.
-/

namespace Sys2Proof

/-- An octet of memory or of a frame. -/
abbrev Byte := BitVec 8

/-- A device register or an engine register (R2). -/
abbrev Word := BitVec 32

/-- A core register, a comb cell or a 64-bit parameter. -/
abbrev DWord := BitVec 64

end Sys2Proof
end

