-- ==== Sys2Proof/Syntax.lean ====
section
/-!
DEFINITION. Sys2Proof/Syntax.lean: the commands of the block.
One constructor of Instr for each row of spec/opcode_table.json, in the table's order, with the operands the row's
rule gives it.  A command names what comes from outside: a register access with its requester, a frame on a port,
a pin or supply event, an instant that the timebase reaches, or a unit operation with its trigger value.
-/

namespace Sys2Proof

/-- Who makes a register access: the fabric requester port of Table 14.7, its world (0 Open, 1 Sealed, 2 M), the
application core behind it if any, whether that core is at level U, and the PEEK flag of a debug access (R5). -/
structure Req where
  port  : Nat
  world : Nat
  core  : Option Nat := none
  user  : Bool := false
  peek  : Bool := false
  deriving DecidableEq, Repr

/-- Whether a request is the SVP's (Table 14.7). -/
def Req.svp (r : Req) : Bool := decide (r.port = 2)

/-- Whether a request is the debug master's (Table 14.7). -/
def Req.debug (r : Req) : Bool := decide (r.port = 17)

/-- Whether a request carries world w. -/
def Req.ofWorld (r : Req) (w : Nat) : Bool := decide (r.world = w)

/-- Whether a request is made by application core m. -/
def Req.ofCore (r : Req) (m : Nat) : Bool := decide (r.core = some m)

/-- What the firmware takes from a command header beside the opcode (Table 4.1): the ring it stands in, TAG, SEQ,
WORLD and FENCE. -/
structure CmdHdr where
  ring  : Nat
  tag   : Nat
  seq   : Nat
  world : Nat := 0
  fence : Bool := false
  deriving DecidableEq, Repr

/-- A bulk reference (R80, R81): DRAM address, length in bytes and SHA-384 digest. -/
structure BulkRef where
  addr   : Nat
  length : Nat
  digest : BitVec 384
  deriving DecidableEq, Repr

/-- The security extension of a frame (R137): its key identifier, its initialization vector (AES-GMAC) and its tag. -/
structure AuthExt where
  kid   : Word
  iv    : List Byte := []
  tag   : List Byte
  deriving DecidableEq, Repr

/-- A redundancy tag or trailer (R407, R408): PRP (LAN 0 A, 1 B) or HSR (path), and its sequence number. -/
structure RedTag where
  hsr : Bool
  lan : Nat
  seq : Nat
  deriving DecidableEq, Repr

/-- One ASDU of a sampled-value frame (Table 6.1): channel values and 32-bit qualities in order. -/
structure SvAsdu where
  svId     : List Byte
  smpCnt   : Nat
  confRev  : Word
  smpSynch : Nat
  smpRate  : Option Nat := none
  smpMod   : Option Nat := none
  data     : List (Word × Word)
  deriving DecidableEq, Repr

/-- What every frame on a port has: length in octets, FCS, whether a symbol of it was in error, addresses, tag, redundancy. -/
structure FrameHdr where
  len   : Nat
  fcs   : Word
  symErr : Bool := false
  dst   : BitVec 48
  src   : BitVec 48
  vid   : Option Nat := none
  red   : Option RedTag := none
  deriving DecidableEq, Repr

/-- A sampled-value frame (Table 6.1): its fields, and its octets as the host path stores them, which must spell these fields
(R133). -/
structure SvFrame where
  hdr   : FrameHdr
  appid : Nat
  sim   : Bool
  noAsdu : Nat
  asdus : List SvAsdu
  ext   : Option AuthExt := none
  octets : List Byte := []
  deriving DecidableEq, Repr

/-- One member of a GOOSE dataset: type 0 BOOLEAN, 1 BIT STRING (its first bit at bit 31), 2 INTEGER, 3 UNSIGNED,
4 FLOAT32, 5 another. -/
structure GMember where
  ty   : Nat
  val  : Word
  deriving DecidableEq, Repr

/-- A GOOSE frame (Table 6.2), with its octets as the host path stores them. -/
structure GooseFrame where
  hdr   : FrameHdr
  appid : Nat
  gocbRef : List Byte
  datSet  : List Byte
  tal   : Nat
  stNum : Nat
  sqNum : Nat
  sim   : Bool
  confRev : Word
  numEntries : Nat
  ndsCom : Bool
  members : List GMember
  ext   : Option AuthExt := none
  octets : List Byte := []
  deriving DecidableEq, Repr

/-- A PTP message as supervisor firmware reads it (R404, R405): type 0 Sync or Follow_Up, 1 Announce, 2 Pdelay_Req, 3 another;
the domain; and for an Announce whether its clock is better than the module's own and the leap indication it carries: leap61 (true),
leap59 (false) or none (R110). -/
structure PtpMsg where
  ty     : Nat
  domain : Nat
  better : Bool
  leap   : Option Bool := none
  deriving DecidableEq, Repr

/-- What a frame carries, by EtherType. -/
inductive EthPayload
  | sv (f : SvFrame)
  | goose (f : GooseFrame)
  | ptp (m : PtpMsg)
  | supervision
  | pause
  | other (etherType : Nat)
  deriving DecidableEq, Repr

/-- A frame received on a port (R400): its octets as the host path stores them. -/
structure EthFrame where
  hdr     : FrameHdr
  payload : EthPayload
  octets  : List Byte
  deriving DecidableEq, Repr

/-- One event entry of a card frame (Table 15.5): input, new state, SAT, ESEQ, REF and offset. -/
structure CardEvent where
  input  : Nat
  state  : Bool
  sat    : Bool
  eseq   : Nat
  ref    : Nat
  offset : Nat
  deriving DecidableEq, Repr

/-- A frame from an I/O card (Table 15.5): its octets, and the timebase value at which its start symbol arrived. -/
structure CardFrame where
  octets  : List Byte
  arrival : Nat
  deriving DecidableEq, Repr

/-- A received IRIG-B frame (R108): coded expression (0, 1, 4 or 5 for B000, B001, B004, B005), its checks, its
time of year, two-digit year, C37.118.1 fields (utcOfs in seconds: coded time plus it is UTC), and the timebase value at
its reference edge. -/
structure IrigFrame where
  expr     : Nat
  markersOk : Bool
  digitsOk : Bool
  parityOk : Bool
  tq       : Nat
  secOfYear : Nat
  year     : Nat
  lsp      : Bool
  lss      : Bool
  utcOfs   : Int := 0
  edge     : Nat
  deriving DecidableEq, Repr

/-- What port hardware finds of a link (R399): its receiver has block lock or synchronization, and hi_ber is clear (process bus) or
auto-negotiation is complete (station bus). -/
structure LinkCond where
  lock : Bool
  good : Bool
  deriving DecidableEq, Repr

/-- A request that reaches a home slice (R364, R376): requester port, world, kind (0 read shared, 1 read exclusive,
2 uncached read, 3 whole-line write, 4 write-back, 5 partial write), line number, data and byte mask. -/
structure HomeReq where
  port  : Nat
  world : Nat
  kind  : Nat
  line  : Nat
  data  : BitVec 512 := 0
  mask  : BitVec 64 := 0
  deriving DecidableEq, Repr

/-- The commands of the block: one constructor per row of spec/opcode_table.json, those with operands first, each part in
the order of the table. -/
inductive Instr
  /-- PWR_HUACK (R43). -/
  | pwrHuack (rq : Req) (v : Word)
  /-- HOLDUP_DRAIN_WINDOW_END (R43). -/
  | holdupDrainWindowEnd (slow : List Nat)
  /-- MRST_N_PULSE (R42). -/
  | mrstNPulse (ns : Nat)
  /-- PWR_DON (R28). -/
  | pwrDon (rq : Req) (half : Nat) (v : Word)
  /-- PWR_DOFF (R28). -/
  | pwrDoff (rq : Req) (half : Nat) (v : Word)
  /-- LOCKSTEP_MISMATCH (R50). -/
  | lockstepMismatch (cause : Nat)
  /-- BOOT_STEP (R63). -/
  | bootStep (trained : Bool)
  /-- CMD_DB (R74). -/
  | cmdDb (rq : Req) (ring : Nat) (v : Word)
  /-- CMD_PHEAD (R76). -/
  | cmdPhead (rq : Req) (ring : Nat) (v : Word)
  /-- CMD_RSEQ (R79). -/
  | cmdRseq (rq : Req) (ring : Nat) (v : Word)
  /-- CMD_RCTL_RST (R97). -/
  | cmdRctlRst (rq : Req) (ring : Nat) (v : Word)
  /-- LONG_COMMAND_COMPLETION (R87). -/
  | longCommandCompletion (idx : Nat)
  /-- MODE_SET (R37). -/
  | modeSet (h : CmdHdr) (mode : Nat)
  /-- MODE_GET (R89). -/
  | modeGet (h : CmdHdr)
  /-- DOMAIN_ON (R32). -/
  | domainOn (h : CmdHdr) (mask : DWord)
  /-- DOMAIN_OFF (R32). -/
  | domainOff (h : CmdHdr) (mask : DWord)
  /-- WORLD_ASSIGN (R17). -/
  | worldAssign (h : CmdHdr) (cores hives world : Nat)
  /-- WORLD_START (R63). -/
  | worldStart (h : CmdHdr) (core : Nat) (entry : DWord)
  /-- WORLD_REGION (R376). -/
  | worldRegion (h : CmdHdr) (region world : Nat) (base size : DWord)
  /-- WORLD_RINGCFG (R72). -/
  | worldRingcfg (h : CmdHdr) (ring world system : Nat)
  /-- CAST_LOAD (R212). -/
  | castLoad (h : CmdHdr) (engine : Nat) (bulk : BulkRef)
  /-- CAST_HALT (R215). -/
  | castHalt (h : CmdHdr) (engine : Nat)
  /-- CAST_RUN (R92). -/
  | castRun (h : CmdHdr) (engine : Nat)
  /-- BIND_SET (R222). -/
  | bindSet (h : CmdHdr) (engine context cls k policy : Nat)
  /-- BIND_CLEAR (R222). -/
  | bindClear (h : CmdHdr) (engine context : Nat)
  /-- STREAM_TABLE (R156). -/
  | streamTable (h : CmdHdr) (bulk : BulkRef)
  /-- STREAM_ENABLE (R156). -/
  | streamEnable (h : CmdHdr) (stream on : Nat)
  /-- STREAM_SIMSEL (R136). -/
  | streamSimsel (h : CmdHdr) (stream on : Nat)
  /-- COMB_CONFIG (R140). -/
  | combConfig (h : CmdHdr) (channels depth lag fill : Nat)
  /-- SETS_STAGE (R245). -/
  | setsStage (h : CmdHdr) (mask : DWord) (bulk : BulkRef)
  /-- POUR_GROUP (R248). -/
  | pourGroup (h : CmdHdr) (group : Nat) (mask : DWord)
  /-- POUR_ARM (R249). -/
  | pourArm (h : CmdHdr) (group : Nat) (tick : DWord)
  /-- POUR_DISARM (R251). -/
  | pourDisarm (h : CmdHdr) (group : Nat)
  /-- TRIPGATE_PAIR (R252). -/
  | tripgatePair (h : CmdHdr) (pair policy pp enable : Nat)
  /-- TRIPGATE_SOLO (R254). -/
  | tripgateSolo (h : CmdHdr) (pair voter : Nat)
  /-- TRIPGATE_MAP (R259). -/
  | tripgateMap (h : CmdHdr) (bulk : BulkRef)
  /-- PUBLISH_TABLE (R261). -/
  | publishTable (h : CmdHdr) (bulk : BulkRef)
  /-- PUBLISH_ENABLE (R262). -/
  | publishEnable (h : CmdHdr) (block on : Nat)
  /-- TIME_SOURCE (R103). -/
  | timeSource (h : CmdHdr) (prio : List Nat)
  /-- TIME_FREERUN (R38). -/
  | timeFreerun (h : CmdHdr) (permit : Nat)
  /-- TIME_RATE (R117). -/
  | timeRate (h : CmdHdr) (code : Nat)
  /-- TIME_UTCOFS (R110). -/
  | timeUtcofs (h : CmdHdr) (ofs : BitVec 16)
  /-- JOURNAL_MARK (R490). -/
  | journalMark (h : CmdHdr) (text : List Byte)
  /-- JOURNAL_SEAL (R272). -/
  | journalSeal (h : CmdHdr) (record : Nat)
  /-- JOURNAL_TRIGGER (R270). -/
  | journalTrigger (h : CmdHdr) (hives pre : Nat)
  /-- KEYS_REVOKE (R57). -/
  | keysRevoke (h : CmdHdr) (slot : Nat) (bulk : BulkRef)
  /-- KEYS_ARB (R62). -/
  | keysArb (h : CmdHdr) (counter : Nat) (bulk : BulkRef)
  /-- KEYS_SEALPUT (R58). -/
  | keysSealput (h : CmdHdr) (slot : Nat) (bulk : BulkRef)
  /-- LIFE_GO (R65). -/
  | lifeGo (h : CmdHdr) (target : Nat) (bulk : BulkRef)
  /-- HEALTH_THRESH (R466). -/
  | healthThresh (h : CmdHdr) (monitor : Nat) (warn alarm : BitVec 16)
  /-- HEALTH_POLICY (R466). -/
  | healthPolicy (h : CmdHdr) (monitor action : Nat)
  /-- HEALTH_READ (R89). -/
  | healthRead (h : CmdHdr) (monitor : Nat)
  /-- RESET_RING (R97). -/
  | resetRing (h : CmdHdr) (ring : Nat)
  /-- RESET_HIVE (R96). -/
  | resetHive (h : CmdHdr) (hive : Nat)
  /-- RESET_CORE (R358). -/
  | resetCore (h : CmdHdr) (core : Nat)
  /-- RESET_MODULE (R93). -/
  | resetModule (h : CmdHdr)
  /-- DEBUG_ENGBRK (R238). -/
  | debugEngbrk (h : CmdHdr) (engine slot addr enable : Nat)
  /-- DEBUG_STEP (R240). -/
  | debugStep (h : CmdHdr) (hives ticks : Nat)
  /-- TMB_MEAS (R107). -/
  | tmbMeas (rq : Req) (v : Word)
  /-- IRIG_FRAME (R108). -/
  | irigFrame (f : IrigFrame)
  /-- TIME_SOURCE_LOSS (R103). -/
  | timeSourceLoss (src : Nat)
  /-- TKG_CTL_ARM (R117). -/
  | tkgCtlArm (rq : Req) (v : Word)
  /-- TIMER_COUNT (R121). -/
  | timerCount (k : Nat)
  /-- TMR_CNT_READ (R125). -/
  | tmrCntRead (rq : Req) (k : Nat)
  /-- TSU_SWTRIG (R129). -/
  | tsuSwtrig (rq : Req) (half : Nat) (v : Word)
  /-- SV_FRAME (R135). -/
  | svFrame (port : Nat) (f : SvFrame)
  /-- GOOSE_FRAME (R154). -/
  | gooseFrame (port : Nat) (f : GooseFrame)
  /-- VALIDITY_WINDOW_CLOSE (R154). -/
  | validityWindowClose (g : Nat)
  /-- COMB_WINDOW_READ (R153). -/
  | combWindowRead (rq : Req) (off size : Nat)
  /-- E_BUNDLE (R176). -/
  | eBundle (e : Nat)
  /-- OPERATION_COMPLETE (R172). -/
  | operationComplete (proc idx : Nat)
  /-- E_IALU_OP (R197). -/
  | eIaluOp (e u op : Nat) (t : Word)
  /-- E_FMAC_OP (R198). -/
  | eFmacOp (e u op : Nat) (t : Word)
  /-- E_DSQ_DIV (R199). -/
  | eDsqDiv (e : Nat) (t : Word)
  /-- E_DSQ_SQRT (R199). -/
  | eDsqSqrt (e : Nat) (t : Word)
  /-- E_ROT_OP (R199). -/
  | eRotOp (e op : Nat) (t : Word)
  /-- E_SDFT_CFG (R200). -/
  | eSdftCfg (e : Nat) (t : Word)
  /-- E_SDFT_UPD (R200). -/
  | eSdftUpd (e : Nat) (t : Word)
  /-- E_SDFT_RD (R200). -/
  | eSdftRd (e : Nat) (t : Word)
  /-- E_SDFT_LOAD (R200). -/
  | eSdftLoad (e : Nat) (t : Word)
  /-- E_LOOP_ARM (R201). -/
  | eLoopArm (e l : Nat) (t : Word)
  /-- E_LOOP_CLR (R201). -/
  | eLoopClr (e : Nat) (t : Word)
  /-- E_JMP (R202). -/
  | eJmp (e : Nat) (t : Word)
  /-- E_CALL (R202). -/
  | eCall (e : Nat) (t : Word)
  /-- E_BRANCH (R179). -/
  | eBranch (e kind : Nat) (t : Word)
  /-- E_DONE (R202). -/
  | eDone (e : Nat) (t : Word)
  /-- E_TRIP (R203). -/
  | eTrip (e : Nat) (t : Word)
  /-- E_EVT (R203). -/
  | eEvt (e : Nat) (t : Word)
  /-- E_DMA_GET (R204). -/
  | eDmaGet (e : Nat) (t : Word)
  /-- E_DMA_PUT (R204). -/
  | eDmaPut (e : Nat) (t : Word)
  /-- E_DMA_STAT (R205). -/
  | eDmaStat (e : Nat) (t : Word)
  /-- DMA_TRANSFER_END (R205). -/
  | dmaTransferEnd (h : Nat) (err : Bool)
  /-- E_LSU_LOAD (R206). -/
  | eLsuLoad (e size : Nat) (t : Word)
  /-- E_LSU_STORE (R206). -/
  | eLsuStore (e size : Nat) (t : Word)
  /-- E_SET_READ (R246). -/
  | eSetRead (e size : Nat) (t : Word)
  /-- E_HSM_LOAD (R209). -/
  | eHsmLoad (e size : Nat) (t : Word)
  /-- E_HSM_STORE (R209). -/
  | eHsmStore (e size : Nat) (t : Word)
  /-- E_HSM_MAIL (R209). -/
  | eHsmMail (e : Nat) (t : Word)
  /-- E_CMB_READ (R210). -/
  | eCmbRead (e : Nat) (t : Word)
  /-- HIVE_MAIL (R223). -/
  | hiveMail (e : Nat)
  /-- HIV_MAIL (R219). -/
  | hivMail (rq : Req) (h : Nat) (v : Word)
  /-- CONTEXT_SWITCH (R226). -/
  | contextSwitch (e : Nat)
  /-- PE_CTL_HALT (R215). -/
  | peCtlHalt (rq : Req) (e : Nat) (v : Word)
  /-- PE_CTL_RUN (R215). -/
  | peCtlRun (rq : Req) (e : Nat) (v : Word)
  /-- ENGINE_START (R215). -/
  | engineStart (e : Nat)
  /-- PROGRAM_MEMORY_WRITE (R214). -/
  | programMemoryWrite (rq : Req) (e off size : Nat) (data : BitVec 128)
  /-- PE_DBG_RELEASE (R239). -/
  | peDbgRelease (rq : Req) (e : Nat) (v : Word)
  /-- SET_PG_ARM (R249). -/
  | setPgArm (rq : Req) (g : Nat) (v : Word)
  /-- SHADOW_BANK_WRITE (R244). -/
  | shadowBankWrite (rq : Req) (e off size : Nat) (data : DWord)
  /-- SET_VALID (R244). -/
  | setValid (rq : Req) (half : Nat) (v : Word)
  /-- PUBLISH_POINT (R252). -/
  | publishPoint (k : Nat)
  /-- GOOSE_RETRANSMISSION (R262). -/
  | gooseRetransmission (b : Nat)
  /-- MRAM_SCRUB (R269). -/
  | mramScrub (flips : Nat)
  /-- JOURNAL_WINDOW_READ (R266). -/
  | journalWindowRead (rq : Req) (off size : Nat)
  /-- IC_ASSIGN (R425). -/
  | icAssign (n : Nat)
  /-- IC_CLAIM (R427). -/
  | icClaim (rq : Req) (t : Nat)
  /-- IC_QCLAIM (R427). -/
  | icQclaim (rq : Req) (t : Nat)
  /-- IC_COMPL (R428). -/
  | icCompl (rq : Req) (t : Nat) (v : Word)
  /-- IC_REARM (R422). -/
  | icRearm (rq : Req) (v : Word)
  /-- IC_PSET (R423). -/
  | icPset (rq : Req) (w : Nat) (v : Word)
  /-- INTERRUPT_ENTRY (R314). -/
  | interruptEntry (m : Nat)
  /-- QUICK_INTERRUPT_ENTRY (R324). -/
  | quickInterruptEntry (m : Nat)
  /-- WAKE (R429). -/
  | wake (m : Nat)
  /-- WDG_SVC (R431). -/
  | wdgSvc (rq : Req) (w : Nat) (v : Word)
  /-- WDG_WARNING (R432). -/
  | wdgWarning (w : Nat)
  /-- WDG_EXPIRY (R432). -/
  | wdgExpiry (w : Nat)
  /-- WDG_LOCK (R435). -/
  | wdgLock (rq : Req) (w : Nat) (v : Word)
  /-- A_BUNDLE (R298). -/
  | aBundle (m : Nat)
  /-- RUN_AHEAD_END (R302). -/
  | runAheadEnd (m : Nat)
  /-- A_IALU_OP (R276). -/
  | aIaluOp (m u op : Nat) (t : DWord)
  /-- A_MDU_MUL (R277). -/
  | aMduMul (m op : Nat) (t : DWord)
  /-- A_MDU_DIV (R277). -/
  | aMduDiv (m op : Nat) (t : DWord)
  /-- A_FPU_OP (R278). -/
  | aFpuOp (m u op : Nat) (t : DWord)
  /-- A_FPU_DIV_SQRT (R278). -/
  | aFpuDivSqrt (m u op : Nat) (t : DWord)
  /-- A_LOAD (R279). -/
  | aLoad (m u op : Nat) (t : DWord)
  /-- A_STORE (R283). -/
  | aStore (m u op : Nat) (t : DWord)
  /-- A_STNT (R355). -/
  | aStnt (m : Nat) (t : DWord)
  /-- A_LDX (R281). -/
  | aLdx (m : Nat) (t : DWord)
  /-- A_STX (R281). -/
  | aStx (m : Nat) (t : DWord)
  /-- A_ATOMIC (R282). -/
  | aAtomic (m op : Nat) (t : DWord)
  /-- A_LDM (R285). -/
  | aLdm (m : Nat) (t : DWord)
  /-- A_STM (R285). -/
  | aStm (m : Nat) (t : DWord)
  /-- A_FENCE_L (R349). -/
  | aFenceL (m : Nat) (t : DWord)
  /-- A_FENCE_S (R349). -/
  | aFenceS (m : Nat) (t : DWord)
  /-- A_FENCE_LS (R349). -/
  | aFenceLs (m : Nat) (t : DWord)
  /-- A_IFENCE (R305). -/
  | aIfence (m : Nat) (t : DWord)
  /-- A_DCCLN (R362). -/
  | aDccln (m : Nat) (t : DWord)
  /-- A_DCINV (R362). -/
  | aDcinv (m : Nat) (t : DWord)
  /-- A_DCCI (R362). -/
  | aDcci (m : Nat) (t : DWord)
  /-- A_ICINV (R362). -/
  | aIcinv (m : Nat) (t : DWord)
  /-- A_PREF (R284). -/
  | aPref (m : Nat) (t : DWord)
  /-- A_JMP (R288). -/
  | aJmp (m : Nat) (t : DWord)
  /-- A_CALL (R290). -/
  | aCall (m : Nat) (t : DWord)
  /-- A_RET (R290). -/
  | aRet (m : Nat) (t : DWord)
  /-- A_BRANCH (R179). -/
  | aBranch (m kind : Nat) (t : DWord)
  /-- A_SYSCALL (R322). -/
  | aSyscall (m : Nat) (t : DWord)
  /-- A_SYSRET (R323). -/
  | aSysret (m : Nat) (t : DWord)
  /-- A_ERET (R321). -/
  | aEret (m : Nat) (t : DWord)
  /-- A_SRU_RD (R311). -/
  | aSruRd (m : Nat) (t : DWord)
  /-- A_SRU_WR (R312). -/
  | aSruWr (m : Nat) (t : DWord)
  /-- A_SRU_SET (R311). -/
  | aSruSet (m : Nat) (t : DWord)
  /-- A_SRU_CLR (R311). -/
  | aSruClr (m : Nat) (t : DWord)
  /-- A_FLUSHW (R295). -/
  | aFlushw (m : Nat) (t : DWord)
  /-- A_SLEEP (R429). -/
  | aSleep (m : Nat) (t : DWord)
  /-- A_TLBIVA (R339). -/
  | aTlbiva (m : Nat) (t : DWord)
  /-- A_TLBIASID (R339). -/
  | aTlbiasid (m : Nat) (t : DWord)
  /-- A_TLBIALL (R339). -/
  | aTlbiall (m : Nat) (t : DWord)
  /-- FRAME_SPILL (R291). -/
  | frameSpill (m : Nat)
  /-- FRAME_FILL (R292). -/
  | frameFill (m : Nat)
  /-- STORE_PERFORMED (R344). -/
  | storePerformed (m idx : Nat)
  /-- COMBINING_WRITE_OUT (R355). -/
  | combiningWriteOut (m : Nat)
  /-- HOME_SLICE_REQUEST (R364). -/
  | homeSliceRequest (rq : HomeReq)
  /-- SNOOP (R366). -/
  | snoop (cluster line kind : Nat)
  /-- LINE_HOLD_END (R367). -/
  | lineHoldEnd (line : Nat)
  /-- DEAD_AGENT (R368). -/
  | deadAgent (agent : Nat)
  /-- NOC_FW_WRITE (R379). -/
  | nocFwWrite (rq : Req) (r w : Nat) (v : Word)
  /-- DRAM_REQUEST (R390). -/
  | dramRequest (port pa : Nat) (write hintOpen : Bool) (wait : Nat)
  /-- DRAM_COMMAND_ISSUE (R391). -/
  | dramCommandIssue (c idx flips : Nat)
  /-- REFRESH (R393). -/
  | refresh (c : Nat)
  /-- ACTIVATE_TABLE_CLEAR (R394). -/
  | activateTableClear (c : Nat)
  /-- ROW_IDLE_CLOSE (R392). -/
  | rowIdleClose (c b : Nat)
  /-- PATROL_SCRUB (R396). -/
  | patrolScrub (c flips : Nat)
  /-- DMC_MASK_WRITE (R388). -/
  | dmcMaskWrite (rq : Req) (off : Nat) (v : Word)
  /-- ETH_RECEIVE (R400). -/
  | ethReceive (p : Nat) (f : EthFrame)
  /-- ETH_TRANSMIT (R401). -/
  | ethTransmit (p : Nat)
  /-- LINK_CHANGE (R399). -/
  | linkChange (p : Nat) (up : LinkCond)
  /-- ETH_TXTAIL (R402). -/
  | ethTxtail (rq : Req) (p : Nat) (v : Word)
  /-- ETH_RXTAIL (R402). -/
  | ethRxtail (rq : Req) (p : Nat) (v : Word)
  /-- DUPLICATE_ENTRY_EXPIRY (R407). -/
  | duplicateEntryExpiry (pair : Nat)
  /-- SUPERVISION_FRAME (R407). -/
  | supervisionFrame (pair : Nat)
  /-- HSR_FORWARD (R408). -/
  | hsrForward (p : Nat)
  /-- TICK_FRAME (R410). -/
  | tickFrame (l : Nat)
  /-- CARD_FRAME (R413). -/
  | cardFrame (l : Nat) (f : CardFrame)
  /-- LINK_LOSS (R416). -/
  | linkLoss (l : Nat)
  /-- SYMBOL_LOCK_LOSS (R416). -/
  | symbolLockLoss (l : Nat)
  /-- ZDP_READ4 (R443). -/
  | zdpRead4 (peek inc : Bool) (world : Nat) (addr : Nat)
  /-- ZDP_WRITE4 (R443). -/
  | zdpWrite4 (peek inc : Bool) (world : Nat) (addr : Nat) (data : Word)
  /-- ZDP_READ8 (R443). -/
  | zdpRead8 (peek inc : Bool) (world : Nat) (addr : Nat)
  /-- ZDP_WRITE8 (R443). -/
  | zdpWrite8 (peek inc : Bool) (world : Nat) (addr : Nat) (data : DWord)
  /-- ZDP_MBWR (R439). -/
  | zdpMbwr (word : Nat) (data : DWord)
  /-- ZDP_MBRD (R439). -/
  | zdpMbrd (word : Nat)
  /-- ZDP_MBGO (R440). -/
  | zdpMbgo (code : Nat)
  /-- DBG_CREQ_STOP (R451). -/
  | dbgCreqStop (rq : Req) (m : Nat) (v : Word)
  /-- DBG_DTX_WRITE (R452). -/
  | dbgDtxWrite (rq : Req) (m : Nat) (v : Word)
  /-- DBG_DTX_READ (R452). -/
  | dbgDtxRead (rq : Req) (m : Nat)
  /-- DBG_DRX_WRITE (R452). -/
  | dbgDrxWrite (rq : Req) (m : Nat) (v : Word)
  /-- DBG_DRX_READ (R452). -/
  | dbgDrxRead (rq : Req) (m : Nat)
  /-- TRC_CLEAR (R456). -/
  | trcClear (rq : Req) (v : Word)
  /-- TRC_SW (R454). -/
  | trcSw (rq : Req) (m : Nat) (v : Word)
  /-- HLT_SAMPLE (R464). -/
  | hltSample (n : Nat) (v : BitVec 16)
  /-- ERR_VALID_CLEAR (R471). -/
  | errValidClear (rq : Req) (j : Nat) (v : Word)
  /-- REG64_LO_READ (R2). -/
  | reg64LoRead (rq : Req) (addr : Nat)
  /-- REG64_HI_READ (R2). -/
  | reg64HiRead (rq : Req) (addr : Nat)
  /-- READ_CLEARS_READ (R4). -/
  | readClearsRead (rq : Req) (addr : Nat)
  /-- REGISTER_WRITE (R4). -/
  | registerWrite (rq : Req) (addr size : Nat) (v : Word)
  /-- SYMBOL_LOCK_ACQUIRED (R416). -/
  | symbolLockAcquired (l : Nat)
  /-- FRAME_TRANSMISSION_COMPLETE (R402). -/
  | frameTransmissionComplete (p : Nat)
  /-- PTP_INTERVAL (R404). -/
  | ptpInterval (p kind : Nat)
  /-- INPUT_QUALIFICATION (R25). -/
  | inputQualification
  /-- INPUT_LOSS (R25). -/
  | inputLoss
  /-- BULK_WARN (R26). -/
  | bulkWarn
  /-- BULK_LOW (R47). -/
  | bulkLow
  /-- HOLDUP_WRITE_BACK_DONE (R43). -/
  | holdupWriteBackDone
  /-- HOLDUP_JOURNAL_FLUSH_DONE (R43). -/
  | holdupJournalFlushDone
  /-- HOLDUP_RETURN (R45). -/
  | holdupReturn
  /-- SHUTDOWN_DOMAIN_CUTS (R47). -/
  | shutdownDomainCuts
  /-- PD00_STOP (R487). -/
  | pd00Stop
  /-- WAKE_SEQUENCER (R36). -/
  | wakeSequencer
  /-- DOMAIN_POWER_GOOD (R28). -/
  | domainPowerGood
  /-- DOMAIN_DRAIN_DONE (R29). -/
  | domainDrainDone
  /-- DRAIN_LIMIT (R30). -/
  | drainLimit
  /-- SVP_RESTART_COMPLETE (R54). -/
  | svpRestartComplete
  /-- BOOTWAIT_EXPIRY (R64). -/
  | bootwaitExpiry
  /-- RING_SERVICE (R85). -/
  | ringService
  /-- MODE_SWITCH (R37). -/
  | modeSwitch
  /-- PPS_IN_EDGE (R109). -/
  | ppsInEdge
  /-- HOLDOVER_LIMIT (R104). -/
  | holdoverLimit
  /-- LEAP_SECOND (R110). -/
  | leapSecond
  /-- PPS_OUT_PULSE (R111). -/
  | ppsOutPulse
  /-- PPS_OUT_END (R111). -/
  | ppsOutEnd
  /-- TICK (R115). -/
  | tick
  /-- HALF (R115). -/
  | half
  /-- RATE_CHANGE (R117). -/
  | rateChange
  /-- STREAM_SWITCH (R156). -/
  | streamSwitch
  /-- JOURNAL_FLUSH (R268). -/
  | journalFlush
  /-- LOST_RECORD (R490). -/
  | lostRecord
  /-- DISTURBANCE_CAPTURE_START (R270). -/
  | disturbanceCaptureStart
  /-- DISTURBANCE_CAPTURE_END (R271). -/
  | disturbanceCaptureEnd
  /-- TAP_RESET (R438). -/
  | tapReset
  /-- ZDP_NOP (R439). -/
  | zdpNop
  /-- IDENT (R440). -/
  | ident
  /-- CHALLENGE (R441). -/
  | challenge
  /-- UNLOCK (R441). -/
  | unlock
  /-- CLOSE (R69). -/
  | close
  /-- ENGINE_ENGBRK (R440). -/
  | engineEngbrk
  /-- ENGINE_STEP (R440). -/
  | engineStep
  /-- ENGINE_RELEASE (R440). -/
  | engineRelease
  /-- CHALLENGE_EXPIRY (R441). -/
  | challengeExpiry
  /-- LOCKOUT_END (R441). -/
  | lockoutEnd
  deriving DecidableEq, Repr

end Sys2Proof
end

