-- ==== Sys2Proof/WellFormed.lean ====
section
/-!
DEFINITION. Sys2Proof/WellFormed.lean: which commands the module can receive.
Operands name units that exist (13 R13, Table 14.7) and parameters fit the sizes of Table 4.5; what a rule refuses on
its value is a refusal of that command, not a matter of form.
-/

namespace Sys2Proof

/-- A requester port of Table 14.7 and a world: 0 Open, 1 Sealed, 2 M; a named core is one of AC0 to AC7. -/
def Req.ok (r : Req) : Bool :=
  decide (r.port < 18) && decide (r.world < 3) &&
    (match r.core with
     | none => true
     | some m => decide (m < 8))

/-- Ring, TAG and SEQ in their widths (Table 4.1). -/
def CmdHdr.ok (h : CmdHdr) : Bool :=
  decide (h.ring < 16) && decide (h.tag < 65536) && decide (h.seq < 4294967296) && decide (h.world < 2)

/-- Address and length in their 64-bit fields (R80). -/
def BulkRef.ok (b : BulkRef) : Bool := decide (b.addr < 2 ^ 64) && decide (b.length < 2 ^ 64)

/-- A command the module can receive. -/
def wellFormed (i : Instr) : Bool :=
  match i with
  | .inputQualification => true
  | .inputLoss => true
  | .bulkWarn => true
  | .bulkLow => true
  | .pwrHuack rq _ => rq.ok
  | .holdupDrainWindowEnd slow => slow.all (fun x => decide (x < 8))
  | .holdupWriteBackDone => true
  | .holdupJournalFlushDone => true
  | .holdupReturn => true
  | .shutdownDomainCuts => true
  | .pd00Stop => true
  | .mrstNPulse _ => true
  | .wakeSequencer => true
  | .pwrDon rq half _ => rq.ok && decide (half < 2)
  | .pwrDoff rq half _ => rq.ok && decide (half < 2)
  | .domainPowerGood => true
  | .domainDrainDone => true
  | .drainLimit => true
  | .lockstepMismatch cause => decide (cause < 8)
  | .svpRestartComplete => true
  | .bootStep _ => true
  | .bootwaitExpiry => true
  | .cmdDb rq ring _ => rq.ok && decide (ring < 16)
  | .cmdPhead rq ring _ => rq.ok && decide (ring < 16)
  | .cmdRseq rq ring _ => rq.ok && decide (ring < 16)
  | .cmdRctlRst rq ring _ => rq.ok && decide (ring < 16)
  | .ringService => true
  | .longCommandCompletion _ => true
  | .modeSet h mode => h.ok && decide (mode < 256)
  | .modeGet h => h.ok
  | .domainOn h _ => h.ok
  | .domainOff h _ => h.ok
  | .worldAssign h cores hives world => h.ok && decide (cores < 256) && decide (hives < 256) && decide (world < 256)
  | .worldStart h core _ => h.ok && decide (core < 256)
  | .worldRegion h region world _ _ => h.ok && decide (region < 256) && decide (world < 256)
  | .worldRingcfg h ring world system => h.ok && decide (ring < 256) && decide (world < 256) && decide (system < 256)
  | .castLoad h engine bulk => h.ok && decide (engine < 256) && bulk.ok
  | .castHalt h engine => h.ok && decide (engine < 256)
  | .castRun h engine => h.ok && decide (engine < 256)
  | .bindSet h engine context cls k policy => h.ok && decide (engine < 256) && decide (context < 256) && decide (cls < 256) && decide (k < 65536) && decide (policy < 256)
  | .bindClear h engine context => h.ok && decide (engine < 256) && decide (context < 256)
  | .streamTable h bulk => h.ok && bulk.ok
  | .streamEnable h stream on => h.ok && decide (stream < 65536) && decide (on < 256)
  | .streamSimsel h stream on => h.ok && decide (stream < 65536) && decide (on < 256)
  | .combConfig h channels depth lag fill => h.ok && decide (channels < 65536) && decide (depth < 65536) && decide (lag < 256) && decide (fill < 256)
  | .setsStage h _ bulk => h.ok && bulk.ok
  | .pourGroup h group _ => h.ok && decide (group < 256)
  | .pourArm h group _ => h.ok && decide (group < 256)
  | .pourDisarm h group => h.ok && decide (group < 256)
  | .tripgatePair h pair policy pp enable => h.ok && decide (pair < 256) && decide (policy < 256) && decide (pp < 4294967296) && decide (enable < 256)
  | .tripgateSolo h pair voter => h.ok && decide (pair < 256) && decide (voter < 256)
  | .tripgateMap h bulk => h.ok && bulk.ok
  | .publishTable h bulk => h.ok && bulk.ok
  | .publishEnable h block on => h.ok && decide (block < 256) && decide (on < 256)
  | .timeSource h prio => h.ok && decide (prio.length = 8) && prio.all (fun x => decide (x < 256))
  | .timeFreerun h permit => h.ok && decide (permit < 256)
  | .timeRate h code => h.ok && decide (code < 256)
  | .timeUtcofs h _ => h.ok
  | .journalMark h text => h.ok && decide (text.length = 32)
  | .journalSeal h record => h.ok && decide (record < 4294967296)
  | .journalTrigger h hives pre => h.ok && decide (hives < 256) && decide (pre < 65536)
  | .keysRevoke h slot bulk => h.ok && decide (slot < 256) && bulk.ok
  | .keysArb h counter bulk => h.ok && decide (counter < 256) && bulk.ok
  | .keysSealput h slot bulk => h.ok && decide (slot < 256) && bulk.ok
  | .lifeGo h target bulk => h.ok && decide (target < 256) && bulk.ok
  | .healthThresh h monitor _ _ => h.ok && decide (monitor < 256)
  | .healthPolicy h monitor action => h.ok && decide (monitor < 256) && decide (action < 256)
  | .healthRead h monitor => h.ok && decide (monitor < 256)
  | .resetRing h ring => h.ok && decide (ring < 256)
  | .resetHive h hive => h.ok && decide (hive < 256)
  | .resetCore h core => h.ok && decide (core < 256)
  | .resetModule h => h.ok
  | .debugEngbrk h engine slot addr enable => h.ok && decide (engine < 256) && decide (slot < 256) && decide (addr < 65536) && decide (enable < 256)
  | .debugStep h hives ticks => h.ok && decide (hives < 256) && decide (ticks < 65536)
  | .modeSwitch => true
  | .tmbMeas rq _ => rq.ok
  | .irigFrame _ => true
  | .ppsInEdge => true
  | .timeSourceLoss src => decide (src < 256)
  | .holdoverLimit => true
  | .leapSecond => true
  | .ppsOutPulse => true
  | .ppsOutEnd => true
  | .tick => true
  | .half => true
  | .rateChange => true
  | .tkgCtlArm rq _ => rq.ok
  | .timerCount k => decide (k < 16)
  | .tmrCntRead rq k => rq.ok && decide (k < 16)
  | .tsuSwtrig rq half _ => rq.ok && decide (half < 2)
  | .svFrame port _ => decide (port < 4)
  | .gooseFrame port _ => decide (port < 4)
  | .validityWindowClose g => decide (g < 256)
  | .streamSwitch => true
  | .combWindowRead rq off size => rq.ok && decide (off < 4294967296) && decide (size < 33)
  | .eBundle e => decide (e < 64)
  | .operationComplete proc _ => decide (proc < 73)
  | .eIaluOp e u op _ => decide (e < 64) && decide (u < 2) && decide (op < 18)
  | .eFmacOp e u op _ => decide (e < 64) && decide (u < 2) && decide (op < 15)
  | .eDsqDiv e _ => decide (e < 64)
  | .eDsqSqrt e _ => decide (e < 64)
  | .eRotOp e op _ => decide (e < 64) && decide (op < 3)
  | .eSdftCfg e _ => decide (e < 64)
  | .eSdftUpd e _ => decide (e < 64)
  | .eSdftRd e _ => decide (e < 64)
  | .eSdftLoad e _ => decide (e < 64)
  | .eLoopArm e l _ => decide (e < 64) && decide (l < 2)
  | .eLoopClr e _ => decide (e < 64)
  | .eJmp e _ => decide (e < 64)
  | .eCall e _ => decide (e < 64)
  | .eBranch e kind _ => decide (e < 64) && decide (kind < 4)
  | .eDone e _ => decide (e < 64)
  | .eTrip e _ => decide (e < 64)
  | .eEvt e _ => decide (e < 64)
  | .eDmaGet e _ => decide (e < 64)
  | .eDmaPut e _ => decide (e < 64)
  | .eDmaStat e _ => decide (e < 64)
  | .dmaTransferEnd h _ => decide (h < 8)
  | .eLsuLoad e size _ => decide (e < 64) && decide (size < 3)
  | .eLsuStore e size _ => decide (e < 64) && decide (size < 3)
  | .eSetRead e size _ => decide (e < 64) && decide (size < 3)
  | .eHsmLoad e size _ => decide (e < 64) && decide (size < 3)
  | .eHsmStore e size _ => decide (e < 64) && decide (size < 3)
  | .eHsmMail e _ => decide (e < 64)
  | .eCmbRead e _ => decide (e < 64)
  | .hiveMail e => decide (e < 64)
  | .hivMail rq h _ => rq.ok && decide (h < 8)
  | .contextSwitch e => decide (e < 64)
  | .peCtlHalt rq e _ => rq.ok && decide (e < 64)
  | .peCtlRun rq e _ => rq.ok && decide (e < 64)
  | .engineStart e => decide (e < 64)
  | .programMemoryWrite rq e off size _ => rq.ok && decide (e < 64) && decide (off < 4294967296) && decide (size < 33)
  | .peDbgRelease rq e _ => rq.ok && decide (e < 64)
  | .setPgArm rq g _ => rq.ok && decide (g < 16)
  | .shadowBankWrite rq e off size _ => rq.ok && decide (e < 64) && decide (off < 4294967296) && decide (size < 33)
  | .setValid rq half _ => rq.ok && decide (half < 2)
  | .publishPoint k => decide (k < 32)
  | .gooseRetransmission b => decide (b < 128)
  | .journalFlush => true
  | .lostRecord => true
  | .mramScrub flips => decide (flips < 3)
  | .journalWindowRead rq off size => rq.ok && decide (off < 4294967296) && decide (size < 33)
  | .disturbanceCaptureStart => true
  | .disturbanceCaptureEnd => true
  | .icAssign n => decide (n < 1024)
  | .icClaim rq t => rq.ok && decide (t < 9)
  | .icQclaim rq t => rq.ok && decide (t < 9)
  | .icCompl rq t _ => rq.ok && decide (t < 9)
  | .icRearm rq _ => rq.ok
  | .icPset rq w _ => rq.ok && decide (w < 32)
  | .interruptEntry m => decide (m < 9)
  | .quickInterruptEntry m => decide (m < 9)
  | .wake m => decide (m < 9)
  | .wdgSvc rq w _ => rq.ok && decide (w < 10)
  | .wdgWarning w => decide (w < 10)
  | .wdgExpiry w => decide (w < 10)
  | .wdgLock rq w _ => rq.ok && decide (w < 10)
  | .aBundle m => decide (m < 9)
  | .runAheadEnd m => decide (m < 9)
  | .aIaluOp m u op _ => decide (m < 9) && decide (u < 2) && decide (op < 23)
  | .aMduMul m op _ => decide (m < 9) && decide (op < 4)
  | .aMduDiv m op _ => decide (m < 9) && decide (op < 2)
  | .aFpuOp m u op _ => decide (m < 9) && decide (u < 1) && decide (op < 20)
  | .aFpuDivSqrt m u op _ => decide (m < 9) && decide (u < 1) && decide (op < 2)
  | .aLoad m u op _ => decide (m < 9) && decide (u < 1) && decide (op < 7)
  | .aStore m u op _ => decide (m < 9) && decide (u < 1) && decide (op < 4)
  | .aStnt m _ => decide (m < 9)
  | .aLdx m _ => decide (m < 9)
  | .aStx m _ => decide (m < 9)
  | .aAtomic m op _ => decide (m < 9) && decide (op < 8)
  | .aLdm m _ => decide (m < 9)
  | .aStm m _ => decide (m < 9)
  | .aFenceL m _ => decide (m < 9)
  | .aFenceS m _ => decide (m < 9)
  | .aFenceLs m _ => decide (m < 9)
  | .aIfence m _ => decide (m < 9)
  | .aDccln m _ => decide (m < 9)
  | .aDcinv m _ => decide (m < 9)
  | .aDcci m _ => decide (m < 9)
  | .aIcinv m _ => decide (m < 9)
  | .aPref m _ => decide (m < 9)
  | .aJmp m _ => decide (m < 9)
  | .aCall m _ => decide (m < 9)
  | .aRet m _ => decide (m < 9)
  | .aBranch m kind _ => decide (m < 9) && decide (kind < 4)
  | .aSyscall m _ => decide (m < 9)
  | .aSysret m _ => decide (m < 9)
  | .aEret m _ => decide (m < 9)
  | .aSruRd m _ => decide (m < 9)
  | .aSruWr m _ => decide (m < 9)
  | .aSruSet m _ => decide (m < 9)
  | .aSruClr m _ => decide (m < 9)
  | .aFlushw m _ => decide (m < 9)
  | .aSleep m _ => decide (m < 9)
  | .aTlbiva m _ => decide (m < 9)
  | .aTlbiasid m _ => decide (m < 9)
  | .aTlbiall m _ => decide (m < 9)
  | .frameSpill m => decide (m < 9)
  | .frameFill m => decide (m < 9)
  | .storePerformed m _ => decide (m < 9)
  | .combiningWriteOut m => decide (m < 9)
  | .homeSliceRequest rq => decide (rq.port < 18) && decide (rq.world < 3) && decide (rq.kind < 6) && decide (rq.line < 268435456) && (decide (rq.port < 2) || (decide (rq.kind ≠ 0) && decide (rq.kind ≠ 1) && decide (rq.kind ≠ 4)))
  | .snoop cluster line kind => decide (cluster < 2) && decide (line < 268435456) && decide (kind < 2)
  | .lineHoldEnd line => decide (line < 268435456)
  | .deadAgent agent => decide (agent < 10)
  | .nocFwWrite rq r w _ => rq.ok && decide (r < 16) && decide (w < 4)
  | .dramRequest port pa _ _ wait => decide (port < 18) && decide (pa < 17179869184) && decide (wait < 4294967296)
  | .dramCommandIssue c _ flips => decide (c < 2) && decide (flips < 3)
  | .refresh c => decide (c < 2)
  | .activateTableClear c => decide (c < 2)
  | .rowIdleClose c b => decide (c < 2) && decide (b < 16)
  | .patrolScrub c flips => decide (c < 2) && decide (flips < 3)
  | .dmcMaskWrite rq off _ => rq.ok && decide (16 ≤ off) && decide (off < 56) && decide (off % 4 = 0)
  | .ethReceive p _ => decide (p < 4)
  | .ethTransmit p => decide (p < 4)
  | .linkChange p _ => decide (p < 4)
  | .ethTxtail rq p _ => rq.ok && decide (p < 4)
  | .ethRxtail rq p _ => rq.ok && decide (p < 4)
  | .duplicateEntryExpiry pair => decide (pair < 2)
  | .supervisionFrame pair => decide (pair < 2)
  | .hsrForward p => decide (p < 4)
  | .tickFrame l => decide (l < 4)
  | .cardFrame l _ => decide (l < 4)
  | .linkLoss l => decide (l < 4)
  | .symbolLockLoss l => decide (l < 4)
  | .tapReset => true
  | .zdpNop => true
  | .zdpRead4 _ _ world addr => decide (world < 4) && decide (addr < 1099511627776)
  | .zdpWrite4 _ _ world addr _ => decide (world < 4) && decide (addr < 1099511627776)
  | .zdpRead8 _ _ world addr => decide (world < 4) && decide (addr < 1099511627776)
  | .zdpWrite8 _ _ world addr _ => decide (world < 4) && decide (addr < 1099511627776)
  | .zdpMbwr word _ => decide (word < 64)
  | .zdpMbrd word => decide (word < 64)
  | .zdpMbgo code => decide (code < 256)
  | .ident => true
  | .challenge => true
  | .unlock => true
  | .close => true
  | .engineEngbrk => true
  | .engineStep => true
  | .engineRelease => true
  | .challengeExpiry => true
  | .lockoutEnd => true
  | .dbgCreqStop rq m _ => rq.ok && decide (m < 8)
  | .dbgDtxWrite rq m _ => rq.ok && decide (m < 8)
  | .dbgDtxRead rq m => rq.ok && decide (m < 8)
  | .dbgDrxWrite rq m _ => rq.ok && decide (m < 8)
  | .dbgDrxRead rq m => rq.ok && decide (m < 8)
  | .trcClear rq _ => rq.ok
  | .trcSw rq m _ => rq.ok && decide (m < 8)
  | .hltSample n _ => decide (n < 75)
  | .errValidClear rq j _ => rq.ok && decide (j < 42)
  | .reg64LoRead rq addr => rq.ok && decide (addr < 1099511627776)
  | .reg64HiRead rq addr => rq.ok && decide (addr < 1099511627776)
  | .readClearsRead rq addr => rq.ok && decide (addr < 1099511627776)
  | .registerWrite rq addr size _ => rq.ok && decide (addr < 1099511627776) && decide (size < 33)
  | .symbolLockAcquired l => decide (l < 4)
  | .frameTransmissionComplete p => decide (p < 4)
  | .ptpInterval p kind => decide (p < 4) && decide (kind < 5)

end Sys2Proof
end

