-- ==== Sys2Proof/Decode.lean ====
section
/-!
DEFINITION. Sys2Proof/Decode.lean: what the table's bits spell.
spec/opcode_table.json gives none of its rows a bit (its rows are steps and events of the block, not words), so no
word spells a command.  The bundles that the block's processors fetch are decoded in Machine/Bundle.lean.
-/

namespace Sys2Proof

/-- The command that an nbits-bit word spells by the table's bits: the table gives none. -/
def decodeTableWord (nbits w : Nat) : Option Instr :=
  match nbits, w with
  | _, _ => none

end Sys2Proof
end

