-- ==== Sys2Proof/Config.lean ====
section
/-!
DEFINITION. Sys2Proof/Config.lean: what the spec leaves open and the hardware fixes.
Each free value is a constant without a body: nothing can be proved about what it is.  A value that belongs to its
operands is a function of them; one drawn afresh is applied to the counter Dev.freeCtr, which the step advances.
-/

namespace Sys2Proof.Config

/-- Tininess is detected after rounding (IEEE 754 leaves the choice; R278 raises the underflow flag). Log 9. -/
opaque tininessAfter : Bool

/-- cos O1 of ROT.T_SINCOS, and of T_ROT's angle: Table 8.5 states an error bound only. Log 10. -/
opaque rotCos : Word → Word

/-- sin O1 of ROT.T_SINCOS. Log 10. -/
opaque rotSin : Word → Word

/-- atan2(O1, O2) of ROT.T_ATAN2, where Table 8.5 states an error bound only. Log 10. -/
opaque rotAtan2 : Word → Word → Word

/-- The magnitude of ROT.T_ATAN2. Log 10. -/
opaque rotMag : Word → Word → Word

/-- The first component of ROT.T_ROT. Log 10. -/
opaque rotX : Word → Word → Word → Word

/-- The second component of ROT.T_ROT. Log 10. -/
opaque rotY : Word → Word → Word → Word

/-- Real part of the twiddle e^(j 2 pi k / N), k not 0, computed in binary64 and rounded to binary32 (R200); the last
place of the binary64 computation is not stated. Log 11. -/
opaque twiddleRe : Nat → Nat → Word

/-- Imaginary part of that twiddle. Log 11. -/
opaque twiddleIm : Nat → Nat → Word

/-- A random 128-bit value drawn by the LCS hardware: a nonce or a challenge (R58, R441). Log 12. -/
opaque random128 : Nat → BitVec 128

/-- The frequency word the servo writes after a measurement (R107 states its bounds only). Log 13. -/
opaque servoFreq : Nat → BitVec 32

/-- The voltage and temperature readings that PWR_INPUT shows (R48 gives no reset value or law). Log 14. -/
opaque inputReading : Nat → BitVec 32

/-- Contents of the SVP boot ROM by 8-byte word (Table 14.1 gives its size only). Log 17. -/
opaque romWord : Nat → BitVec 64

/-- Bits [3:0] of a SYSCALL's trigger value after a break in its delay bundles: EDLY keeps bits [47:4] (R184, R322). Log 18. -/
opaque lostScode : Nat → BitVec 4

/-- Syndrome of an uncorrectable DRAM word (Table 18.3; the code's matrix is not given, R395). Log 19. -/
opaque dramSyndrome : Nat → BitVec 8

/-- The voted word of a pair whose POLICY field holds the reserved code 3, from the even and the odd word (Table 10.12).
Log 20. -/
opaque reservedPolicy : Word → Word → Word

/-- A DRAM byte of a channel that was cut before its devices were in self-refresh (Table 2.2 says that its contents are
lost), by the number of the loss and the address. Log 21. -/
opaque lostDram : Nat → Nat → BitVec 8

/-- The sealing key that the LCS hardware derives from DUS and EPOCH: R58 names a KDF and does not give it. Log 36. -/
opaque sealKdf : BitVec 256 → Nat → BitVec 256

/-- A number in the header of an image, by field, from the octets of its slot (R60 gives no layout): 0 whether the header is
well formed (1), 1 security version, 2 build, 3 digest, 4 boot core, 5 world, 6 entry point, 7 load address,
8 to 12 DRAM address masks. Log 77. -/
opaque imageNum : Nat → List (Nat × BitVec 8) → Nat

/-- Octets of an image, by part, from the octets of its slot: 0 header, 1 body, 2 key, 3 signature. Log 77. -/
opaque imagePart : Nat → List (Nat × BitVec 8) → List (BitVec 8)

/-- A number of configuration store item `code` from the octets of the store (Table 3.3 gives no layout): 0 whether the item
is stored (1), 1 its stored digest. Log 77. -/
opaque storeNum : Nat → Nat → List (Nat × BitVec 8) → Nat

/-- The octets of configuration store item `code`. Log 77. -/
opaque storeBody : Nat → List (Nat × BitVec 8) → List (BitVec 8)

/-- The register values of item `code`: register number, index, value. Log 77. -/
opaque storeWrites : Nat → List (Nat × BitVec 8) → List (Nat × Nat × Word)

/-- The objects of item `code`, each with the number of what it configures. Log 77. -/
opaque storeBlobs : Nat → List (Nat × BitVec 8) → List (Nat × List (BitVec 8))

/-- Which line of a full set gives way, or which entry of a full TLB (R338, R360, R363 name no replacement). Log 58. -/
opaque victim : Nat → Nat

/-- Which line of the page the L1 stride prefetcher brings after a load at an address, 64 for none (R299 names the prefetcher
only). Log 82. -/
opaque strideLine : Nat → Nat → Nat

/-- Which of the two accesses of a line-crossing load is made at its issue: 0 the first, 1 the second, else none (R189, R343
state no order). Log 56. -/
opaque splitFirst : Nat → Nat

/-- Internal latency, in ns, of frames received on port p (2p) and sent on it (2p + 1), which supervisor firmware's image carries
(R403 gives no figure). Log 83. -/
opaque portLatency : Nat → BitVec 16

/-- Time in ns that a fabric request has taken beyond what the model sees of it (R385). Log 58. -/
opaque waitNs : Nat → Nat

/-- Die revision in the fuses (Table 17.1). Log 84. -/
opaque dieRev : BitVec 4

end Sys2Proof.Config
end

