-- ==== Sys2Proof/Machine/Bits.lean ====
section
/-!
DEFINITION. Sys2Proof/Machine/Bits.lean: bit fields, sign extension and byte order (spec/00_scope.md).
Bit ranges are written hi, lo as the spec writes [hi:lo]; bit 0 is the least significant.
-/

namespace Sys2Proof.Machine

/-- 1 for true, 0 for false. -/
def b2n (b : Bool) : Nat := if b then 1 else 0

/-- Bits [hi:lo] of a natural number. -/
def bits (v hi lo : Nat) : Nat := (v >>> lo) % 2 ^ (hi + 1 - lo)

/-- Bit i of a natural number. -/
def bitAt (v i : Nat) : Bool := v.testBit i

/-- The low w bits read as a two's-complement number. -/
def sext (w v : Nat) : Int :=
  let u := v % 2 ^ w
  if 2 * u < 2 ^ w then (u : Int) else (u : Int) - (2 ^ w : Nat)

/-- An integer as a w-bit pattern. -/
def toBits (w : Nat) (x : Int) : Nat := (x % ((2 ^ w : Nat) : Int)).toNat

/-- n bytes of v, little-endian (spec/00_scope.md: A-profile memory is little-endian). -/
def leBytes : Nat → Nat → List Byte
  | 0, _ => []
  | n + 1, v => BitVec.ofNat 8 v :: leBytes n (v / 256)

/-- The number that little-endian bytes spell. -/
def leNat : List Byte → Nat
  | [] => 0
  | b :: t => b.toNat + 256 * leNat t

/-- The number that big-endian octets spell. -/
def beNat (l : List Byte) : Nat := l.foldl (fun a b => a * 256 + b.toNat) 0

/-- n octets of v, big-endian. -/
def beBytes (n v : Nat) : List Byte := (leBytes n v).reverse

/-- A number with bits [hi:lo] replaced by x. -/
def setBits (v hi lo x : Nat) : Nat :=
  v - (bits v hi lo) * 2 ^ lo + (x % 2 ^ (hi + 1 - lo)) * 2 ^ lo

/-- A number with bit i set to b. -/
def setBit (v i : Nat) (b : Bool) : Nat := setBits v i i (b2n b)

/-- The numbers below n whose bit of v is 1, rising. -/
def onesBelow (n v : Nat) : List Nat := (List.range n).filter (fun i => v.testBit i)

/-- How many bits of v below n are 1. -/
def popCount (n v : Nat) : Nat := (onesBelow n v).length

/-- Round half away from zero of a / b (spec/00_scope.md, Pseudocode: round()), for naturals. -/
def roundDiv (a b : Nat) : Nat := (2 * a + b) / (2 * b)

/-- Round half away from zero of an integer over a positive natural. -/
def roundDivI (a : Int) (b : Nat) : Int :=
  if 0 ≤ a then (roundDiv a.toNat b : Int) else -(roundDiv (-a).toNat b : Int)

/-- A saturating increment at the all-ones value of w bits. -/
def satInc (w v : Nat) : Nat := if v + 1 < 2 ^ w then v + 1 else 2 ^ w - 1

/-- The i-th element of a list of numbers, 0 past its end. -/
def nth (l : List Nat) (i : Nat) : Nat := (l[i]?).getD 0

/-- Replace element i of a list. -/
def replaceAt {α : Type} (l : List α) (i : Nat) (x : α) : List α := l.set i x

/-- Remove element i of a list. -/
def dropAt {α : Type} (l : List α) (i : Nat) : List α := l.take i ++ l.drop (i + 1)

/-- A number put into a rising list. -/
def insNat (a : Nat) : List Nat → List Nat
  | [] => [a]
  | b :: t => if a ≤ b then a :: b :: t else b :: insNat a t

/-- A list of numbers sorted. -/
def sortNat (l : List Nat) : List Nat := l.foldr insNat []

end Sys2Proof.Machine
end

