-- ==== Sys2Proof/Machine/Crypto.lean ====
section
/-!
DEFINITION. Sys2Proof/Machine/Crypto.lean: CRC-32 (IEEE 802.3 polynomial), SHA-384, SHA-256 and HMAC (FIPS 180-4) and ECDSA P-384
verification (FIPS 186-5), the standards that spec/00_scope.md Table 0.2 cites, over natural numbers.
-/

namespace Sys2Proof.Machine

/-- n steps of the reflected CRC-32 register. -/
def crcBits : Nat → Nat → Nat
  | 0, c => c
  | n + 1, c => crcBits n (if c % 2 = 1 then Nat.xor (c / 2) 0xEDB88320 else c / 2)

/-- CRC-32 of octets, IEEE 802.3 polynomial (R133, R267, R409). -/
def crc32 (l : List Byte) : Nat :=
  Nat.xor (l.foldl (fun c b => crcBits 8 (Nat.xor c b.toNat)) 0xFFFFFFFF) 0xFFFFFFFF

/-! ## SHA-2 (FIPS 180-4): SHA-384 for digests, SHA-256 for HMAC -/

/-- Newton's iteration for the k-th root of n, from a value that is not below it, over `fuel` steps. -/
def rootFrom (k n : Nat) : Nat → Nat → Nat
  | 0, x => x
  | fuel + 1, x => rootFrom k n fuel (min x (((k - 1) * x + n / x ^ (k - 1)) / k))

/-- The first 64 bits of the fractional part of the k-th root of p, for p below 8 ^ k. -/
def rootBits (k p : Nat) : Nat := rootFrom k (p * 2 ^ (64 * k)) 16 (2 ^ 67) % 2 ^ 64

/-- The primes below 410, of which there are 80. -/
def shaPrimes : List Nat :=
  (List.range 410).filter (fun n => decide (2 ≤ n) && (List.range 19).all (fun d => decide (n ≤ d + 2) || decide (n % (d + 2) ≠ 0)))

/-- The constant of each round: the cube roots of the first primes (FIPS 180-4, 4.2). -/
def shaKeys : List Nat := shaPrimes.map (rootBits 3)

/-- A member of the family: bits of a word, and the amounts of its four mixing functions: three rotations each of the large
ones, two rotations and a shift each of the small ones. -/
structure ShaKind where
  width : Nat
  big0  : Nat × Nat × Nat
  big1  : Nat × Nat × Nat
  sml0  : Nat × Nat × Nat
  sml1  : Nat × Nat × Nat

/-- The members with words of 64 bits and of 32 bits. -/
def sha64 : ShaKind := ⟨64, (28, 34, 39), (14, 18, 41), (1, 8, 7), (19, 61, 6)⟩
def sha32 : ShaKind := ⟨32, (2, 13, 22), (6, 11, 25), (7, 18, 3), (17, 19, 10)⟩

/-- A word rotated right. -/
def ShaKind.turn (k : ShaKind) (x n : Nat) : Nat := x / 2 ^ n + x % 2 ^ n * 2 ^ (k.width - n)

/-- A large mixing function, and a small one. -/
def ShaKind.mix (k : ShaKind) (r : Nat × Nat × Nat) (x : Nat) : Nat := k.turn x r.1 ^^^ k.turn x r.2.1 ^^^ k.turn x r.2.2
def ShaKind.mixShift (k : ShaKind) (r : Nat × Nat × Nat) (x : Nat) : Nat := k.turn x r.1 ^^^ k.turn x r.2.1 ^^^ x / 2 ^ r.2.2

/-- The hash value while a block is folded in: the eight variables by place, and the last sixteen schedule words, newest
first. -/
structure ShaState where
  vars  : List Nat
  sched : List Nat

/-- One round with a constant and a schedule word. -/
def ShaKind.round (k : ShaKind) (v : List Nat) (key word : Nat) : List Nat :=
  let x := nth v
  let ch := (x 4 &&& x 5) ^^^ ((2 ^ k.width - 1 - x 4) &&& x 6)
  let mj := (x 0 &&& x 1) ^^^ (x 0 &&& x 2) ^^^ (x 1 &&& x 2)
  let t := x 7 + k.mix k.big1 (x 4) + ch + key + word
  (t + k.mix k.big0 (x 0) + mj) % 2 ^ k.width :: x 0 :: x 1 :: x 2 :: (x 3 + t) % 2 ^ k.width :: (v.drop 4).take 3

/-- A round takes the oldest of the sixteen schedule words and appends the next one. -/
def ShaKind.step (k : ShaKind) (s : ShaState) (key : Nat) : ShaState :=
  let w := nth s.sched
  let next := (w 15 + k.mixShift k.sml0 (w 14) + w 6 + k.mixShift k.sml1 (w 1)) % 2 ^ k.width
  { vars := k.round s.vars key (w 15), sched := next :: s.sched.take 15 }

/-- n big-endian words of octets, newest first. -/
def ShaKind.words (k : ShaKind) (l : List Byte) : Nat → List Nat
  | 0 => []
  | n + 1 => beNat ((l.drop (k.width / 8 * n)).take (k.width / 8)) :: k.words l n

/-- A block of sixteen words folded into the hash value. -/
def ShaKind.block (k : ShaKind) (keys h : List Nat) (l : List Byte) : List Nat :=
  let s := keys.foldl k.step { vars := h, sched := k.words l 16 }
  List.zipWith (fun a b => (a + b) % 2 ^ k.width) h s.vars

/-- n blocks folded into the hash value. -/
def ShaKind.blocks (k : ShaKind) (keys : List Nat) : Nat → List Nat → List Byte → List Nat
  | 0, h, _ => h
  | n + 1, h, l => k.blocks keys n (k.block keys h (l.take (2 * k.width))) (l.drop (2 * k.width))

/-- The message with its end mark and its length in bits, in whole blocks. -/
def ShaKind.padded (k : ShaKind) (m : List Byte) : List Byte :=
  let room := 2 * k.width
  let tail := k.width / 4
  m ++ 0x80 :: List.replicate ((2 * room - 1 - tail - m.length % room) % room) 0 ++ beBytes tail (8 * m.length)

/-- The hash value of a message. -/
def ShaKind.hash (k : ShaKind) (keys h : List Nat) (m : List Byte) : List Nat :=
  let p := k.padded m
  k.blocks keys (p.length / (2 * k.width)) h p

/-- SHA-384 of octets, as a number whose first octet stands in its highest bits: words of 64 bits, started from the square
roots of the 9th to the 16th prime, and its first six words. -/
def sha384 (m : List Byte) : Nat :=
  ((sha64.hash shaKeys (((shaPrimes.drop 8).take 8).map (rootBits 2)) m).take 6).foldl (fun a x => a * 2 ^ 64 + x) 0

/-- SHA-256 of octets: words of 32 bits, 64 rounds, started from the square roots of the first eight primes. -/
def sha256 (m : List Byte) : List Byte :=
  let high := fun x => x / 2 ^ 32
  (sha32.hash ((shaKeys.take 64).map high) ((shaPrimes.take 8).map (fun p => high (rootBits 2 p))) m).flatMap (beBytes 4)

/-- HMAC-SHA256 (R137). -/
def hmacSha256 (key m : List Byte) : List Byte :=
  let k := ((if 64 < key.length then sha256 key else key) ++ List.replicate 64 0).take 64
  sha256 (k.map (fun b => b ^^^ 0x5C) ++ sha256 (k.map (fun b => b ^^^ 0x36) ++ m))

/-- a to the power e modulo m, over the n low bits of e. -/
def powMod (m : Nat) : Nat → Nat → Nat → Nat
  | 0, _, _ => 1 % m
  | n + 1, a, e =>
    let r := powMod m n (a * a % m) (e / 2)
    if e % 2 = 1 then r * a % m else r

/-- The field prime of P-384. -/
def p384 : Nat := 2 ^ 384 - 2 ^ 128 - 2 ^ 96 + 2 ^ 32 - 1

/-- The group order of P-384. -/
def n384 : Nat :=
  0xffffffffffffffffffffffffffffffffffffffffffffffffc7634d81f4372ddf581a0db248b0a77aecec196accc52973

/-- The coefficient b of P-384. -/
def b384 : Nat :=
  0xb3312fa7e23ee7e4988e056be3f82d19181d9c6efe8141120314088f5013875ac656398d8a2ed19d2a85c8edd3ec2aef

/-- The base point of P-384. -/
def g384 : Nat × Nat :=
  (0xaa87ca22be8b05378eb1c71ef320ad746e1d3b628ba79b9859f741e082542a385502f25dbf55296c3a545e3872760ab7,
   0x3617de4a96262c6f5d9e98bf9292dc29f8f41dbd289a147ce9da3113b5f0b8c00a60b1ce1d7e819d7a431d7c90ea0e5f)

/-- Sum of two points of P-384; none is the point at infinity. -/
def ecAdd (p q : Option (Nat × Nat)) : Option (Nat × Nat) :=
  match p, q with
  | none, q => q
  | p, none => p
  | some (x1, y1), some (x2, y2) =>
    let m := p384
    if x1 = x2 ∧ (y1 + y2) % m = 0 then none
    else
      let l := if x1 = x2 then
          (3 * x1 * x1 + (m - 3)) * powMod m 384 (2 * y1 % m) (m - 2) % m
        else (y2 + m - y1) * powMod m 384 ((x2 + m - x1) % m) (m - 2) % m
      let x3 := (l * l + (m - x1) + (m - x2)) % m
      some (x3, (l * (x1 + (m - x3)) + (m - y1)) % m)

/-- k times a point, over the n low bits of k. -/
def ecMul : Nat → Nat → Option (Nat × Nat) → Option (Nat × Nat)
  | 0, _, _ => none
  | n + 1, k, p =>
    let r := ecMul n (k / 2) (ecAdd p p)
    if k % 2 = 1 then ecAdd p r else r

/-- Whether r, s is a signature of the digest z under the public key (x, y): ECDSA over P-384. -/
def ecdsaVerify (x y r s z : Nat) : Bool :=
  let onCurve := decide (x < p384) && decide (y < p384) &&
    decide (y * y % p384 = (x * x * x + (p384 - 3) * x + b384) % p384)
  if onCurve && decide (0 < r) && decide (r < n384) && decide (0 < s) && decide (s < n384) then
    let w := powMod n384 384 s (n384 - 2)
    match ecAdd (ecMul 384 (z * w % n384) (some g384)) (ecMul 384 (r * w % n384) (some (x, y))) with
    | none => false
    | some (x1, _) => decide (x1 % n384 = r)
  else false

end Sys2Proof.Machine
end

