-- ==== Sys2Proof/Machine/Cipher.lean ====
section
/-!
DEFINITION. Sys2Proof/Machine/Cipher.lean: AES under a 256-bit key, and its Galois/counter mode: the encryption of sealed
storage (03 R58, 10 R266, R272) and the GMAC of authenticated frames (06 R137).
-/

namespace Sys2Proof.Machine

/-! ## The block cipher -/

/-- Twice x in the field of 256 elements. -/
def gfDouble (x : Nat) : Nat := if x < 128 then 2 * x else Nat.xor (2 * x) 0x11B

/-- Product of two elements of the field, over the n low bits of the second. -/
def gfMul : Nat → Nat → Nat → Nat
  | 0, _, _ => 0
  | n + 1, x, y => Nat.xor (if y % 2 = 1 then x else 0) (gfMul n (gfDouble x) (y / 2))

/-- x to the power 2 ^ (n + 1) - 2: with n = 7 the inverse, and 0 for 0. -/
def gfInv : Nat → Nat → Nat
  | 0, _ => 1
  | n + 1, x => let y := gfMul 8 x x; gfMul 8 y (gfInv n y)

/-- The substitution of one octet: its inverse through the affine map. -/
def aesSub (x : Nat) : Nat :=
  let y := gfInv 7 x * 257
  (Nat.xor (Nat.xor (Nat.xor (Nat.xor y (y / 16)) (y / 32)) (y / 64)) (y / 128) % 256) ^^^ 0x63

/-- Elementwise sum of two lists of octets. -/
def xorList (a b : List Nat) : List Nat := List.zipWith Nat.xor a b

/-- The next eight words of the expanded key from the latest eight, with round constant rc: the fifth is substituted without
rotation. -/
def aesNextKey (rc : Nat) (k : List Nat) : List Nat :=
  let word := fun i => (k.drop (4 * i)).take 4
  let l := (word 7).map aesSub
  let w0 := xorList (word 0) (xorList (l.drop 1 ++ l.take 1) [rc, 0, 0, 0])
  let w1 := xorList (word 1) w0
  let w2 := xorList (word 2) w1
  let w3 := xorList (word 3) w2
  let w4 := xorList (word 4) (w3.map aesSub)
  let w5 := xorList (word 5) w4
  let w6 := xorList (word 6) w5
  w0 ++ w1 ++ w2 ++ w3 ++ w4 ++ w5 ++ w6 ++ xorList (word 7) w6

/-- The expanded key: 16 octets for each of 15 round keys, from the 32 octets of the key, over n expansions. -/
def aesExpand : Nat → Nat → List Nat → List Nat
  | 0, _, k => k
  | n + 1, rc, k => k ++ aesExpand n (gfDouble rc) (aesNextKey rc k)

/-- The octets of a block, columns first, with row r turned left by r columns. -/
def aesShift (b : List Nat) : List Nat := (List.range 16).map (fun i => nth b ((i + 4 * (i % 4)) % 16))

/-- The columns mixed. -/
def aesMix (b : List Nat) : List Nat :=
  (List.range 16).map (fun i =>
    let at' := fun j => nth b (i / 4 * 4 + (i + j) % 4)
    Nat.xor (Nat.xor (gfDouble (at' 0)) (Nat.xor (gfDouble (at' 1)) (at' 1))) (Nat.xor (at' 2) (at' 3)))

/-- Rounds under the remaining round keys; the last one does not mix. -/
def aesRounds : Nat → List Nat → List Nat → List Nat
  | 0, _, b => b
  | n + 1, keys, b =>
    let c := aesShift (b.map aesSub)
    aesRounds n (keys.drop 16) (xorList (if n = 0 then c else aesMix c) (keys.take 16))

/-- AES-256 of a block of 16 octets under an expanded key. -/
def aesBlock (keys b : List Nat) : List Nat := aesRounds 14 (keys.drop 16) (xorList b (keys.take 16))

/-- The expanded key of 32 octets. -/
def aesKey (key : List Byte) : List Nat := aesExpand 7 1 (key.map BitVec.toNat)

/-! ## Galois/counter mode -/

/-- A block as a number, its first octet highest. -/
def blockNat (b : List Nat) : Nat := b.foldl (fun a x => a * 256 + x) 0

/-- A number as the octets of a block. -/
def natBlock (x : Nat) : List Nat := (beBytes 16 x).map BitVec.toNat

/-- Product in the field of 2 ^ 128 elements, bit 127 standing for the power 0: over the n top bits of the first factor. -/
def ghashMul : Nat → Nat → Nat → Nat
  | 0, _, _ => 0
  | n + 1, x, v =>
    Nat.xor (if x.testBit 127 then v else 0)
      (ghashMul n (2 * x) (if v % 2 = 1 then Nat.xor (v / 2) (0xE1 * 2 ^ 120) else v / 2))

/-- Blocks of 16 octets, the last one filled with zeros, as numbers. -/
def gcmBlocks : Nat → List Byte → List Nat
  | 0, _ => []
  | n + 1, l => beNat ((l.take 16 ++ List.replicate 16 0).take 16) :: gcmBlocks n (l.drop 16)

/-- How many blocks octets fill. -/
def gcmCount (l : List Byte) : Nat := (l.length + 15) / 16

/-- The hash of the associated octets and the ciphertext, with their lengths in bits. -/
def ghash (h : Nat) (aad ct : List Byte) : Nat :=
  (gcmBlocks (gcmCount aad) aad ++ gcmBlocks (gcmCount ct) ct ++ [8 * aad.length * 2 ^ 64 + 8 * ct.length]).foldl
    (fun y x => ghashMul 128 (Nat.xor y x) h) 0

/-- The counter block c of a 12-octet IV. -/
def gcmCounter (iv : List Byte) (c : Nat) : List Nat := iv.map BitVec.toNat ++ (beBytes 4 c).map BitVec.toNat

/-- The key stream for n blocks from counter c on. -/
def gcmStream (keys : List Nat) (iv : List Byte) : Nat → Nat → List Byte
  | 0, _ => []
  | n + 1, c => (aesBlock keys (gcmCounter iv c)).map (BitVec.ofNat 8) ++ gcmStream keys iv n (c + 1)

/-- Octets combined with the key stream: encryption and decryption alike. -/
def gcmCrypt (key iv l : List Byte) : List Byte :=
  List.zipWith (fun a b => a ^^^ b) l (gcmStream (aesKey key) iv (gcmCount l) 2)

/-- The authentication tag of associated octets and ciphertext. -/
def gcmTag (key iv aad ct : List Byte) : List Byte :=
  let keys := aesKey key
  let h := blockNat (aesBlock keys (List.replicate 16 0))
  beBytes 16 (Nat.xor (ghash h aad ct) (blockNat (aesBlock keys (gcmCounter iv 1))))

/-- A sealed message: IV, ciphertext and tag. -/
structure Sealed where
  iv  : List Byte := []
  ct  : List Byte := []
  tag : List Byte := []
  deriving DecidableEq, Repr

/-- AES-256-GCM encryption of octets without associated data. -/
def gcmSeal (key iv pt : List Byte) : Sealed :=
  let ct := gcmCrypt key iv pt
  { iv := iv, ct := ct, tag := gcmTag key iv [] ct }

/-- The plaintext of a sealed message whose tag holds. -/
def gcmOpen (key : List Byte) (m : Sealed) : Option (List Byte) :=
  if m.tag = gcmTag key m.iv [] m.ct then some (gcmCrypt key m.iv m.ct) else none

end Sys2Proof.Machine
end

