-- ==== Sys2Proof/Machine/Regs.lean ====
section
/-!
DEFINITION. Sys2Proof/Machine/Regs.lean: the device registers, their fields, places, access words and reset values.
Each chapter of spec/ gives its block's registers in one table; RName names them BLOCK_REGISTER, and the doc of a
name cites the rule that owns its block.  A register that repeats has an index: i, or i * count2 + j for two strides.
-/

namespace Sys2Proof.Machine

/-- The registers of the device windows. -/
inductive RName
  | SVP_STAT
  | SVP_MISCNT
  | SVP_RSTTIME_LO
  | SVP_RSTTIME_HI
  | SVP_CTL
  | SVP_FWVER
  | LCS_STATE
  | LCS_ARB
  | LCS_KEYS
  | LCS_NONCE
  | LCS_DBG
  | LCS_BOOT
  | LCS_DIEID_LO
  | LCS_DIEID_HI
  | PWR_STAT
  | PWR_EVT
  | PWR_IEN
  | PWR_DSTAT0
  | PWR_DSTAT1
  | PWR_DON0
  | PWR_DON1
  | PWR_DOFF0
  | PWR_DOFF1
  | PWR_SEQ
  | PWR_DLLAST
  | PWR_DLCNT
  | PWR_HUCFG
  | PWR_HUACK
  | PWR_HUTIME_LO
  | PWR_HUTIME_HI
  | PWR_INPUT
  | PWR_WAKE
  | CMD_STAT
  | CMD_RBASE_LO
  | CMD_RBASE_HI
  | CMD_PBASE_LO
  | CMD_PBASE_HI
  | CMD_RCFG
  | CMD_RCTL
  | CMD_DB
  | CMD_HEAD
  | CMD_TAIL
  | CMD_PTAIL
  | CMD_PHEAD
  | CMD_RSTAT
  | CMD_RSEQ
  | CMD_OVFCNT
  | TMB_STAT
  | TMB_EVT
  | TMB_IEN
  | TMB_NOW_LO
  | TMB_NOW_HI
  | TMB_OFS
  | TMB_FREQ
  | TMB_SRC0
  | TMB_SRC1
  | TMB_CFG
  | TMB_HOLD
  | TMB_UTCOFS
  | TMB_UTCSEC_LO
  | TMB_UTCSEC_HI
  | TMB_MEAS
  | TMB_IRIGDLY
  | TMB_PPSDLY
  | TMB_PPSOUT
  | TMB_MEASSRC
  | TMB_IRIGST
  | TKG_RATE
  | TKG_CTL
  | TKG_EFFSEC_LO
  | TKG_EFFSEC_HI
  | TKG_STAT
  | TKG_TICK_LO
  | TKG_TICK_HI
  | TKG_BUDGET
  | TMR_CTL
  | TMR_TOP
  | TMR_CNT
  | TMR_STAT
  | TMR_IEN
  | TMR_LATCH
  | TMR_CMP
  | TMR_CDIR
  | TSU_SWTRIG
  | TSU_CCFG
  | TSU_CAP_LO
  | TSU_CAP_HI
  | TSU_CST
  | ING_STAT
  | ING_EVT
  | ING_IEN
  | ING_UNSUB
  | ING_BADPDU
  | ING_AUTHF
  | ING_SIMDROP
  | ING_SD
  | ING_GD
  | ING_KEY_KID
  | ING_KEY_WORLD
  | ING_KEY_KEY
  | ALN_EVT
  | ALN_IEN
  | ALN_SSTAT
  | ALN_SGOOD
  | ALN_SDUP
  | ALN_SLATE
  | ALN_SEARLY
  | ALN_SDROP
  | ALN_SABS
  | ALN_SGAP
  | ALN_GSTAT
  | ALN_STNUM
  | ALN_SQNUM
  | ALN_GDROP
  | CMB_CFG
  | CMB_EVT
  | CMB_IEN
  | CMB_PRES_LO
  | CMB_PRES_HI
  | CMB_ABSCNT
  | CMB_LATECNT
  | CMB_EARLYCNT
  | CMB_FLUSHCNT
  | CMB_CHWORLD
  | HIV_STAT
  | HIV_EVT
  | HIV_IEN
  | HIV_MAIL
  | HIV_CTL
  | HIV_DMAERR
  | SET_EVT
  | SET_IEN
  | SET_VALID
  | SET_PG_MASK_LO
  | SET_PG_MASK_HI
  | SET_PG_TICK_LO
  | SET_PG_TICK_HI
  | SET_PG_CTL
  | SET_PG_SWAP_LO
  | SET_PG_SWAP_HI
  | SET_ESTAT
  | SET_AID
  | SET_SID
  | TRG_EVT
  | TRG_IEN
  | TRG_PCFG
  | TRG_PP
  | TRG_PSOLO
  | TRG_STICK_LO
  | TRG_STICK_HI
  | TRG_PSTAT
  | TRG_VOTED
  | TRG_EVEN
  | TRG_ODD
  | TRG_ALMCNT
  | PUB_EVT
  | PUB_IEN
  | PUB_DROP
  | PUB_CFG
  | PUB_TMIN
  | PUB_TMAX
  | PUB_MKIND0
  | PUB_MKIND1
  | PUB_STNUM
  | PUB_SQNUM
  | PUB_LASTCHG_LO
  | PUB_LASTCHG_HI
  | PUB_VAL
  | JRN_STAT
  | JRN_EVT
  | JRN_IEN
  | JRN_CFG
  | JRN_STGBASE_LO
  | JRN_STGBASE_HI
  | JRN_DRBASE_LO
  | JRN_DRBASE_HI
  | JRN_DRSIZE
  | JRN_ONEXT_LO
  | JRN_ONEXT_HI
  | JRN_SNEXT_LO
  | JRN_SNEXT_HI
  | JRN_UNFL
  | JRN_LOST
  | JRN_WEARO
  | JRN_WEARS
  | JRN_WEARD
  | JRN_DRPOST
  | JRN_DRLAST
  | JRN_DRCH
  | IC_PSET
  | IC_PCLR
  | IC_ESET
  | IC_ECLR
  | IC_ACT
  | IC_REARM
  | IC_CLAIM
  | IC_QCLAIM
  | IC_COMPL
  | IC_TSTAT
  | IC_SRC
  | WDG_CTL
  | WDG_OPEN
  | WDG_CLOSE
  | WDG_GRACE
  | WDG_SVC
  | WDG_STAT
  | WDG_EXPCNT
  | NOC_STAT
  | NOC_FW_BASE_LO
  | NOC_FW_BASE_HI
  | NOC_FW_SIZE
  | NOC_FW_CTL
  | NOC_PQOS
  | NOC_MAXWAIT
  | HN_STAT
  | HN_EVT
  | HN_IEN
  | HN_BACKINV
  | HN_FWCNT
  | DMC_CTL
  | DMC_CFG
  | DMC_HCH_LO
  | DMC_HCH_HI
  | DMC_HBG0_LO
  | DMC_HBG0_HI
  | DMC_HBG1_LO
  | DMC_HBG1_HI
  | DMC_HBA0_LO
  | DMC_HBA0_HI
  | DMC_HBA1_LO
  | DMC_HBA1_HI
  | DMC_PTGT
  | DMC_PCFG
  | DMC_PMISS
  | DMC_PMAX
  | DMC_CSTAT
  | DMC_RH
  | DMC_RHCNT
  | DMC_CECNT
  | DMC_UECNT
  | DMC_SCRUB
  | DMC_SCRUBPOS
  | ETH_STAT
  | ETH_CFG
  | ETH_EVT
  | ETH_IEN
  | ETH_MAC_LO
  | ETH_MAC_HI
  | ETH_TSCORR
  | ETH_ASYM
  | ETH_PTPCFG
  | ETH_PTPPRI
  | ETH_RXBASE_LO
  | ETH_RXBASE_HI
  | ETH_TXBASE_LO
  | ETH_TXBASE_HI
  | ETH_RING
  | ETH_RXHEAD
  | ETH_RXTAIL
  | ETH_TXHEAD
  | ETH_TXTAIL
  | ETH_RXGOOD
  | ETH_RXFCS
  | ETH_RXLEN
  | ETH_RXFILT
  | ETH_RXBUF
  | ETH_RXPAUSE
  | ETH_TXGOOD
  | ETH_DUPDISC
  | ETH_WRONGLAN
  | ETH_HSRFWD
  | ETH_HSRDROP
  | ETH_HSROWN
  | ETH_SUPRX
  | ETH_DUPEVICT
  | ETH_VLAN
  | BLK_EVT
  | BLK_IEN
  | BLK_LCFG
  | BLK_LSTAT
  | BLK_OUT
  | BLK_IN
  | BLK_HSMW
  | BLK_EVBASE_LO
  | BLK_EVBASE_HI
  | BLK_EVCFG
  | BLK_EVWR
  | BLK_EVRD
  | BLK_BADCNT
  | BLK_CMDDROP
  | BLK_EVLOST
  | BLK_LOSSCNT
  | DBG_STAT
  | DBG_EVT
  | DBG_IEN
  | DBG_KEEPPRI
  | DBG_CCTL
  | DBG_CREQ
  | DBG_CSTAT
  | DBG_CM
  | DBG_IAC_ALO_LO
  | DBG_IAC_ALO_HI
  | DBG_IAC_AHI_LO
  | DBG_IAC_AHI_HI
  | DBG_IAC_CTL
  | DBG_DWP_ALO_LO
  | DBG_DWP_ALO_HI
  | DBG_DWP_AHI_LO
  | DBG_DWP_AHI_HI
  | DBG_DWP_CTL
  | DBG_DVC_VAL_LO
  | DBG_DVC_VAL_HI
  | DBG_DVC_MASK_LO
  | DBG_DVC_MASK_HI
  | DBG_DTX
  | DBG_DRX
  | DBG_DCCSTAT
  | TRC_CTL
  | TRC_STAT
  | TRC_EVT
  | TRC_IEN
  | TRC_WPTR
  | TRC_RPAGE
  | TRC_LOST
  | TRC_SW
  | TRC_WIN
  | PMU_CTL
  | PMU_OVF
  | PMU_IEN
  | PMU_EVSEL
  | PMU_CNT_LO
  | PMU_CNT_HI
  | PMU_ECTL
  | PMU_EOVF
  | PMU_EIEN
  | PMU_ESEL
  | PMU_ECNT
  | HLT_EVT
  | HLT_IEN
  | HLT_THR
  | HLT_THRSTAT
  | HLT_TJ
  | HLT_TJMAX
  | HLT_MON_VAL
  | HLT_MON_THRESH
  | HLT_MON_CFG
  | HLT_MON_CNT
  | ERR_SUM0
  | ERR_SUM1
  | ERR_STAT
  | ERR_ADDR_LO
  | ERR_ADDR_HI
  | ERR_INFO
  | ERR_TIME_LO
  | ERR_TIME_HI
  | ERR_OVF
  | ERR_CECNT
  | PE_STAT
  | PE_CTL
  | PE_RUNTICK_LO
  | PE_RUNTICK_HI
  | PE_FAULT0
  | PE_FAULT1
  | PE_FCNT
  | PE_CASTID
  | PE_OUTSTAT
  | PE_LATECNT
  | PE_EVTDROP
  | PE_BRK
  | PE_DBG
  | PE_STEP
  | PE_WCET
  | PE_CTX_BIND
  | PE_CTX_ENTRY
  | PE_CTX_PC
  | PE_CTX_CSTAT
  deriving DecidableEq, Repr

/-- A field of a register: its name as the spec writes it, REGISTER.FIELD with bits [hi:lo]. -/
structure Fld where
  reg : RName
  hi  : Nat
  lo  : Nat
  deriving DecidableEq, Repr

/-- The access words of Table 0.1. -/
inductive Acc
  | r | rw | w1c | w1s | wo | rc
  deriving DecidableEq, Repr

/-- Where a register stands (block base index, offset, strides, counts) and its fields' access words. -/
structure RegInfo where
  blk     : Nat
  off     : Nat
  stride  : Nat
  count   : Nat
  stride2 : Nat
  count2  : Nat
  fields  : List (Nat × Nat × Acc)
  deriving DecidableEq, Repr

/-! Fields of the registers of block SVP (spec/03_supervisor_lifecycle_boot.md R70). -/
def F.SVP_STAT_RUN : Fld := ⟨.SVP_STAT, 0, 0⟩
def F.SVP_STAT_RESTART : Fld := ⟨.SVP_STAT, 1, 1⟩
def F.SVP_STAT_DOWN : Fld := ⟨.SVP_STAT, 2, 2⟩
def F.SVP_STAT_SLOTB : Fld := ⟨.SVP_STAT, 3, 3⟩
def F.SVP_STAT_CAUSE : Fld := ⟨.SVP_STAT, 6, 4⟩
def F.SVP_MISCNT_COUNT : Fld := ⟨.SVP_MISCNT, 15, 0⟩
def F.SVP_RSTTIME_LO_T : Fld := ⟨.SVP_RSTTIME_LO, 31, 0⟩
def F.SVP_RSTTIME_HI_T : Fld := ⟨.SVP_RSTTIME_HI, 31, 0⟩
def F.SVP_CTL_FLTMIS : Fld := ⟨.SVP_CTL, 0, 0⟩
def F.SVP_FWVER_SECVER : Fld := ⟨.SVP_FWVER, 15, 0⟩
def F.SVP_FWVER_BUILD : Fld := ⟨.SVP_FWVER, 31, 16⟩

/-! Fields of the registers of block LCS (spec/03_supervisor_lifecycle_boot.md R70). -/
def F.LCS_STATE_STATE : Fld := ⟨.LCS_STATE, 2, 0⟩
def F.LCS_STATE_RETPEND : Fld := ⟨.LCS_STATE, 3, 3⟩
def F.LCS_STATE_EPOCH : Fld := ⟨.LCS_STATE, 11, 4⟩
def F.LCS_ARB_SVPVER : Fld := ⟨.LCS_ARB, 6, 0⟩
def F.LCS_ARB_FSVER : Fld := ⟨.LCS_ARB, 14, 8⟩
def F.LCS_KEYS_SLOT : Fld := ⟨.LCS_KEYS, 15, 0⟩
def F.LCS_NONCE_NONCE : Fld := ⟨.LCS_NONCE, 31, 0⟩
def F.LCS_DBG_UNLOCK : Fld := ⟨.LCS_DBG, 1, 0⟩
def F.LCS_BOOT_STEP : Fld := ⟨.LCS_BOOT, 3, 0⟩
def F.LCS_BOOT_FAIL : Fld := ⟨.LCS_BOOT, 7, 4⟩
def F.LCS_BOOT_SLOTB : Fld := ⟨.LCS_BOOT, 8, 8⟩
def F.LCS_BOOT_ITEM : Fld := ⟨.LCS_BOOT, 12, 9⟩
def F.LCS_DIEID_LO_ID : Fld := ⟨.LCS_DIEID_LO, 31, 0⟩
def F.LCS_DIEID_HI_ID : Fld := ⟨.LCS_DIEID_HI, 31, 0⟩

/-! Fields of the registers of block PWR (spec/02_power_domains_modes.md R48). -/
def F.PWR_STAT_MODE : Fld := ⟨.PWR_STAT, 2, 0⟩
def F.PWR_STAT_PREV : Fld := ⟨.PWR_STAT, 6, 4⟩
def F.PWR_STAT_INQ : Fld := ⟨.PWR_STAT, 8, 8⟩
def F.PWR_STAT_PF : Fld := ⟨.PWR_STAT, 9, 9⟩
def F.PWR_STAT_BULKOK : Fld := ⟨.PWR_STAT, 10, 10⟩
def F.PWR_STAT_BULKWARN : Fld := ⟨.PWR_STAT, 11, 11⟩
def F.PWR_STAT_HUSTEP : Fld := ⟨.PWR_STAT, 14, 12⟩
def F.PWR_STAT_OTL : Fld := ⟨.PWR_STAT, 15, 15⟩
def F.PWR_EVT_HUSTART : Fld := ⟨.PWR_EVT, 0, 0⟩
def F.PWR_EVT_HURET : Fld := ⟨.PWR_EVT, 1, 1⟩
def F.PWR_EVT_DLOST : Fld := ⟨.PWR_EVT, 2, 2⟩
def F.PWR_EVT_SEQERR : Fld := ⟨.PWR_EVT, 3, 3⟩
def F.PWR_EVT_DEAD : Fld := ⟨.PWR_EVT, 4, 4⟩
def F.PWR_IEN_EN : Fld := ⟨.PWR_IEN, 4, 0⟩
def F.PWR_DSTAT0_ON : Fld := ⟨.PWR_DSTAT0, 31, 0⟩
def F.PWR_DSTAT1_ON32 : Fld := ⟨.PWR_DSTAT1, 0, 0⟩
def F.PWR_DSTAT1_STBY32 : Fld := ⟨.PWR_DSTAT1, 1, 1⟩
def F.PWR_DON0_ON : Fld := ⟨.PWR_DON0, 31, 0⟩
def F.PWR_DON1_ON32 : Fld := ⟨.PWR_DON1, 0, 0⟩
def F.PWR_DOFF0_OFF : Fld := ⟨.PWR_DOFF0, 31, 0⟩
def F.PWR_DOFF1_OFF32 : Fld := ⟨.PWR_DOFF1, 0, 0⟩
def F.PWR_SEQ_DOMAIN : Fld := ⟨.PWR_SEQ, 5, 0⟩
def F.PWR_SEQ_BUSY : Fld := ⟨.PWR_SEQ, 6, 6⟩
def F.PWR_SEQ_QDEPTH : Fld := ⟨.PWR_SEQ, 13, 8⟩
def F.PWR_DLLAST_DOMAIN : Fld := ⟨.PWR_DLLAST, 5, 0⟩
def F.PWR_DLLAST_COUNT : Fld := ⟨.PWR_DLLAST, 23, 8⟩
def F.PWR_DLCNT_EVENTS : Fld := ⟨.PWR_DLCNT, 15, 0⟩
def F.PWR_HUCFG_ACWIN : Fld := ⟨.PWR_HUCFG, 2, 0⟩
def F.PWR_HUACK_ACK : Fld := ⟨.PWR_HUACK, 7, 0⟩
def F.PWR_HUTIME_LO_T : Fld := ⟨.PWR_HUTIME_LO, 31, 0⟩
def F.PWR_HUTIME_HI_T : Fld := ⟨.PWR_HUTIME_HI, 31, 0⟩
def F.PWR_INPUT_VIN : Fld := ⟨.PWR_INPUT, 9, 0⟩
def F.PWR_INPUT_VBULK : Fld := ⟨.PWR_INPUT, 25, 16⟩
def F.PWR_WAKE_CAUSE : Fld := ⟨.PWR_WAKE, 2, 0⟩

/-! Fields of the registers of block CMD (spec/04_command_interface.md R73). -/
def F.CMD_STAT_FW : Fld := ⟨.CMD_STAT, 0, 0⟩
def F.CMD_STAT_PROXY : Fld := ⟨.CMD_STAT, 1, 1⟩
def F.CMD_STAT_DOWN : Fld := ⟨.CMD_STAT, 2, 2⟩
def F.CMD_STAT_LAST : Fld := ⟨.CMD_STAT, 7, 4⟩
def F.CMD_RBASE_LO_BASE : Fld := ⟨.CMD_RBASE_LO, 31, 12⟩
def F.CMD_RBASE_HI_BASE : Fld := ⟨.CMD_RBASE_HI, 7, 0⟩
def F.CMD_PBASE_LO_BASE : Fld := ⟨.CMD_PBASE_LO, 31, 12⟩
def F.CMD_PBASE_HI_BASE : Fld := ⟨.CMD_PBASE_HI, 7, 0⟩
def F.CMD_RCFG_SIZE : Fld := ⟨.CMD_RCFG, 3, 0⟩
def F.CMD_RCFG_WORLD : Fld := ⟨.CMD_RCFG, 8, 8⟩
def F.CMD_RCFG_SYS : Fld := ⟨.CMD_RCFG, 9, 9⟩
def F.CMD_RCTL_EN : Fld := ⟨.CMD_RCTL, 0, 0⟩
def F.CMD_RCTL_RST : Fld := ⟨.CMD_RCTL, 1, 1⟩
def F.CMD_RCTL_RIEN : Fld := ⟨.CMD_RCTL, 2, 2⟩
def F.CMD_RCTL_OVFIEN : Fld := ⟨.CMD_RCTL, 3, 3⟩
def F.CMD_DB_T : Fld := ⟨.CMD_DB, 15, 0⟩
def F.CMD_HEAD_IDX : Fld := ⟨.CMD_HEAD, 15, 0⟩
def F.CMD_TAIL_IDX : Fld := ⟨.CMD_TAIL, 15, 0⟩
def F.CMD_PTAIL_IDX : Fld := ⟨.CMD_PTAIL, 15, 0⟩
def F.CMD_PHEAD_IDX : Fld := ⟨.CMD_PHEAD, 15, 0⟩
def F.CMD_RSTAT_OVF : Fld := ⟨.CMD_RSTAT, 0, 0⟩
def F.CMD_RSTAT_IDLEDB : Fld := ⟨.CMD_RSTAT, 1, 1⟩
def F.CMD_RSTAT_STALL : Fld := ⟨.CMD_RSTAT, 2, 2⟩
def F.CMD_RSTAT_RSTBUSY : Fld := ⟨.CMD_RSTAT, 3, 3⟩
def F.CMD_RSTAT_REPLY : Fld := ⟨.CMD_RSTAT, 4, 4⟩
def F.CMD_RSTAT_LONG : Fld := ⟨.CMD_RSTAT, 10, 8⟩
def F.CMD_RSEQ_SEQ : Fld := ⟨.CMD_RSEQ, 31, 0⟩
def F.CMD_OVFCNT_COUNT : Fld := ⟨.CMD_OVFCNT, 15, 0⟩

/-! Fields of the registers of block TMB (spec/05_timebase_and_tick.md R131). -/
def F.TMB_STAT_STATE : Fld := ⟨.TMB_STAT, 2, 0⟩
def F.TMB_STAT_SECVALID : Fld := ⟨.TMB_STAT, 3, 3⟩
def F.TMB_STAT_SRC : Fld := ⟨.TMB_STAT, 11, 4⟩
def F.TMB_STAT_BIGOFS : Fld := ⟨.TMB_STAT, 12, 12⟩
def F.TMB_STAT_FREEOK : Fld := ⟨.TMB_STAT, 13, 13⟩
def F.TMB_EVT_LOCK : Fld := ⟨.TMB_EVT, 0, 0⟩
def F.TMB_EVT_HOLD : Fld := ⟨.TMB_EVT, 1, 1⟩
def F.TMB_EVT_FREE : Fld := ⟨.TMB_EVT, 2, 2⟩
def F.TMB_EVT_STEP : Fld := ⟨.TMB_EVT, 3, 3⟩
def F.TMB_EVT_SRCCHG : Fld := ⟨.TMB_EVT, 4, 4⟩
def F.TMB_EVT_BIGOFS : Fld := ⟨.TMB_EVT, 5, 5⟩
def F.TMB_EVT_ACQ : Fld := ⟨.TMB_EVT, 6, 6⟩
def F.TMB_IEN_EN : Fld := ⟨.TMB_IEN, 6, 0⟩
def F.TMB_NOW_LO_T : Fld := ⟨.TMB_NOW_LO, 31, 0⟩
def F.TMB_NOW_HI_T : Fld := ⟨.TMB_NOW_HI, 31, 0⟩
def F.TMB_OFS_OFS : Fld := ⟨.TMB_OFS, 31, 0⟩
def F.TMB_FREQ_FREQ : Fld := ⟨.TMB_FREQ, 31, 0⟩
def F.TMB_SRC0_PRIO0 : Fld := ⟨.TMB_SRC0, 7, 0⟩
def F.TMB_SRC0_PRIO1 : Fld := ⟨.TMB_SRC0, 15, 8⟩
def F.TMB_SRC0_PRIO2 : Fld := ⟨.TMB_SRC0, 23, 16⟩
def F.TMB_SRC0_PRIO3 : Fld := ⟨.TMB_SRC0, 31, 24⟩
def F.TMB_SRC1_PRIO4 : Fld := ⟨.TMB_SRC1, 7, 0⟩
def F.TMB_SRC1_PRIO5 : Fld := ⟨.TMB_SRC1, 15, 8⟩
def F.TMB_SRC1_PRIO6 : Fld := ⟨.TMB_SRC1, 23, 16⟩
def F.TMB_SRC1_PRIO7 : Fld := ⟨.TMB_SRC1, 31, 24⟩
def F.TMB_CFG_STEPTHR : Fld := ⟨.TMB_CFG, 15, 0⟩
def F.TMB_CFG_LOSSTO : Fld := ⟨.TMB_CFG, 19, 16⟩
def F.TMB_CFG_IRIGTQ : Fld := ⟨.TMB_CFG, 23, 20⟩
def F.TMB_CFG_SLEWMAX : Fld := ⟨.TMB_CFG, 31, 24⟩
def F.TMB_HOLD_HOLDLIM : Fld := ⟨.TMB_HOLD, 15, 0⟩
def F.TMB_HOLD_HOLDCNT : Fld := ⟨.TMB_HOLD, 31, 16⟩
def F.TMB_UTCOFS_OFS : Fld := ⟨.TMB_UTCOFS, 15, 0⟩
def F.TMB_UTCOFS_NEXT : Fld := ⟨.TMB_UTCOFS, 31, 16⟩
def F.TMB_UTCSEC_LO_SEC : Fld := ⟨.TMB_UTCSEC_LO, 31, 0⟩
def F.TMB_UTCSEC_HI_SEC : Fld := ⟨.TMB_UTCSEC_HI, 1, 0⟩
def F.TMB_MEAS_OFS : Fld := ⟨.TMB_MEAS, 31, 0⟩
def F.TMB_IRIGDLY_DLY : Fld := ⟨.TMB_IRIGDLY, 15, 0⟩
def F.TMB_PPSDLY_DLY : Fld := ⟨.TMB_PPSDLY, 15, 0⟩
def F.TMB_PPSOUT_WIDTH : Fld := ⟨.TMB_PPSOUT, 9, 0⟩
def F.TMB_PPSOUT_FREE : Fld := ⟨.TMB_PPSOUT, 16, 16⟩
def F.TMB_MEASSRC_SRC : Fld := ⟨.TMB_MEASSRC, 7, 0⟩
def F.TMB_IRIGST_TQ : Fld := ⟨.TMB_IRIGST, 3, 0⟩
def F.TMB_IRIGST_LSP : Fld := ⟨.TMB_IRIGST, 4, 4⟩
def F.TMB_IRIGST_LSS : Fld := ⟨.TMB_IRIGST, 5, 5⟩
def F.TMB_IRIGST_BADCNT : Fld := ⟨.TMB_IRIGST, 15, 8⟩

/-! Fields of the registers of block TKG (spec/05_timebase_and_tick.md R131). -/
def F.TKG_RATE_CODE : Fld := ⟨.TKG_RATE, 2, 0⟩
def F.TKG_CTL_ARM : Fld := ⟨.TKG_CTL, 0, 0⟩
def F.TKG_CTL_NEXT : Fld := ⟨.TKG_CTL, 3, 1⟩
def F.TKG_EFFSEC_LO_SEC : Fld := ⟨.TKG_EFFSEC_LO, 31, 0⟩
def F.TKG_EFFSEC_HI_SEC : Fld := ⟨.TKG_EFFSEC_HI, 1, 0⟩
def F.TKG_STAT_IDX : Fld := ⟨.TKG_STAT, 13, 0⟩
def F.TKG_STAT_ARMLATE : Fld := ⟨.TKG_STAT, 16, 16⟩
def F.TKG_STAT_STEPPED : Fld := ⟨.TKG_STAT, 17, 17⟩
def F.TKG_STAT_CHANGED : Fld := ⟨.TKG_STAT, 18, 18⟩
def F.TKG_TICK_LO_N : Fld := ⟨.TKG_TICK_LO, 31, 0⟩
def F.TKG_TICK_HI_N : Fld := ⟨.TKG_TICK_HI, 31, 0⟩
def F.TKG_BUDGET_CYC : Fld := ⟨.TKG_BUDGET, 17, 0⟩

/-! Fields of the registers of block TMR (spec/05_timebase_and_tick.md R130). -/
def F.TMR_CTL_EN : Fld := ⟨.TMR_CTL, 0, 0⟩
def F.TMR_CTL_MODE : Fld := ⟨.TMR_CTL, 1, 1⟩
def F.TMR_CTL_TOPBUF : Fld := ⟨.TMR_CTL, 2, 2⟩
def F.TMR_CTL_CLKSEL : Fld := ⟨.TMR_CTL, 4, 3⟩
def F.TMR_CTL_PRE : Fld := ⟨.TMR_CTL, 8, 5⟩
def F.TMR_CTL_CASC : Fld := ⟨.TMR_CTL, 10, 9⟩
def F.TMR_CTL_WORLD : Fld := ⟨.TMR_CTL, 16, 16⟩
def F.TMR_TOP_TOP : Fld := ⟨.TMR_TOP, 31, 0⟩
def F.TMR_CNT_CNT : Fld := ⟨.TMR_CNT, 31, 0⟩
def F.TMR_STAT_CMP : Fld := ⟨.TMR_STAT, 3, 0⟩
def F.TMR_STAT_WRAP : Fld := ⟨.TMR_STAT, 4, 4⟩
def F.TMR_STAT_TURN : Fld := ⟨.TMR_STAT, 5, 5⟩
def F.TMR_STAT_SHORTTOP : Fld := ⟨.TMR_STAT, 6, 6⟩
def F.TMR_STAT_DIR : Fld := ⟨.TMR_STAT, 7, 7⟩
def F.TMR_STAT_TOPPEND : Fld := ⟨.TMR_STAT, 8, 8⟩
def F.TMR_IEN_EN : Fld := ⟨.TMR_IEN, 6, 0⟩
def F.TMR_LATCH_CNT : Fld := ⟨.TMR_LATCH, 31, 0⟩
def F.TMR_CMP_VAL : Fld := ⟨.TMR_CMP, 31, 0⟩
def F.TMR_CDIR_DIR0 : Fld := ⟨.TMR_CDIR, 1, 0⟩
def F.TMR_CDIR_DIR1 : Fld := ⟨.TMR_CDIR, 3, 2⟩
def F.TMR_CDIR_DIR2 : Fld := ⟨.TMR_CDIR, 5, 4⟩
def F.TMR_CDIR_DIR3 : Fld := ⟨.TMR_CDIR, 7, 6⟩

/-! Fields of the registers of block TSU (spec/05_timebase_and_tick.md R130). -/
def F.TSU_SWTRIG_TRIG : Fld := ⟨.TSU_SWTRIG, 31, 0⟩
def F.TSU_CCFG_SRC : Fld := ⟨.TSU_CCFG, 7, 0⟩
def F.TSU_CCFG_IEN : Fld := ⟨.TSU_CCFG, 8, 8⟩
def F.TSU_CCFG_WORLD : Fld := ⟨.TSU_CCFG, 16, 16⟩
def F.TSU_CAP_LO_T : Fld := ⟨.TSU_CAP_LO, 31, 0⟩
def F.TSU_CAP_HI_T : Fld := ⟨.TSU_CAP_HI, 31, 0⟩
def F.TSU_CST_FULL : Fld := ⟨.TSU_CST, 0, 0⟩
def F.TSU_CST_OVR : Fld := ⟨.TSU_CST, 1, 1⟩
def F.TSU_CST_LOST : Fld := ⟨.TSU_CST, 15, 8⟩

/-! Fields of the registers of block ING (spec/06_sample_ingest_and_comb.md R157). -/
def F.ING_STAT_NSTREAM : Fld := ⟨.ING_STAT, 9, 0⟩
def F.ING_STAT_NGOOSE : Fld := ⟨.ING_STAT, 18, 10⟩
def F.ING_EVT_BADPDU : Fld := ⟨.ING_EVT, 0, 0⟩
def F.ING_EVT_AUTHF : Fld := ⟨.ING_EVT, 1, 1⟩
def F.ING_EVT_OVF : Fld := ⟨.ING_EVT, 2, 2⟩
def F.ING_IEN_EN : Fld := ⟨.ING_IEN, 2, 0⟩
def F.ING_UNSUB_COUNT : Fld := ⟨.ING_UNSUB, 31, 0⟩
def F.ING_BADPDU_COUNT : Fld := ⟨.ING_BADPDU, 31, 0⟩
def F.ING_AUTHF_COUNT : Fld := ⟨.ING_AUTHF, 31, 0⟩
def F.ING_SIMDROP_COUNT : Fld := ⟨.ING_SIMDROP, 31, 0⟩
def F.ING_SD_W : Fld := ⟨.ING_SD, 31, 0⟩
def F.ING_GD_W : Fld := ⟨.ING_GD, 31, 0⟩
def F.ING_KEY_KID_KID : Fld := ⟨.ING_KEY_KID, 31, 0⟩
def F.ING_KEY_WORLD_WORLD : Fld := ⟨.ING_KEY_WORLD, 0, 0⟩
def F.ING_KEY_KEY_KEY : Fld := ⟨.ING_KEY_KEY, 31, 0⟩

/-! Fields of the registers of block ALN (spec/06_sample_ingest_and_comb.md R157). -/
def F.ALN_EVT_GAP : Fld := ⟨.ALN_EVT, 0, 0⟩
def F.ALN_EVT_LATE : Fld := ⟨.ALN_EVT, 1, 1⟩
def F.ALN_EVT_EARLY : Fld := ⟨.ALN_EVT, 2, 2⟩
def F.ALN_EVT_TALEXP : Fld := ⟨.ALN_EVT, 3, 3⟩
def F.ALN_IEN_EN : Fld := ⟨.ALN_IEN, 3, 0⟩
def F.ALN_SSTAT_STATE : Fld := ⟨.ALN_SSTAT, 1, 0⟩
def F.ALN_SSTAT_LATE : Fld := ⟨.ALN_SSTAT, 2, 2⟩
def F.ALN_SSTAT_OVF : Fld := ⟨.ALN_SSTAT, 3, 3⟩
def F.ALN_SSTAT_SIMTAKEN : Fld := ⟨.ALN_SSTAT, 4, 4⟩
def F.ALN_SSTAT_RUN : Fld := ⟨.ALN_SSTAT, 12, 5⟩
def F.ALN_SSTAT_LASTCNT : Fld := ⟨.ALN_SSTAT, 28, 13⟩
def F.ALN_SGOOD_COUNT : Fld := ⟨.ALN_SGOOD, 31, 0⟩
def F.ALN_SDUP_COUNT : Fld := ⟨.ALN_SDUP, 31, 0⟩
def F.ALN_SLATE_COUNT : Fld := ⟨.ALN_SLATE, 31, 0⟩
def F.ALN_SEARLY_COUNT : Fld := ⟨.ALN_SEARLY, 31, 0⟩
def F.ALN_SDROP_COUNT : Fld := ⟨.ALN_SDROP, 31, 0⟩
def F.ALN_SABS_COUNT : Fld := ⟨.ALN_SABS, 31, 0⟩
def F.ALN_SGAP_COUNT : Fld := ⟨.ALN_SGAP, 31, 0⟩
def F.ALN_GSTAT_VALID : Fld := ⟨.ALN_GSTAT, 0, 0⟩
def F.ALN_GSTAT_SIMTAKEN : Fld := ⟨.ALN_GSTAT, 1, 1⟩
def F.ALN_STNUM_NUM : Fld := ⟨.ALN_STNUM, 31, 0⟩
def F.ALN_SQNUM_NUM : Fld := ⟨.ALN_SQNUM, 31, 0⟩
def F.ALN_GDROP_COUNT : Fld := ⟨.ALN_GDROP, 31, 0⟩

/-! Fields of the registers of block CMB (spec/06_sample_ingest_and_comb.md R157). -/
def F.CMB_CFG_CHANS : Fld := ⟨.CMB_CFG, 12, 0⟩
def F.CMB_CFG_DLOG : Fld := ⟨.CMB_CFG, 16, 13⟩
def F.CMB_CFG_LAG : Fld := ⟨.CMB_CFG, 23, 17⟩
def F.CMB_CFG_FILL : Fld := ⟨.CMB_CFG, 24, 24⟩
def F.CMB_EVT_FLUSH : Fld := ⟨.CMB_EVT, 0, 0⟩
def F.CMB_EVT_ABSENT : Fld := ⟨.CMB_EVT, 1, 1⟩
def F.CMB_IEN_EN : Fld := ⟨.CMB_IEN, 1, 0⟩
def F.CMB_PRES_LO_N : Fld := ⟨.CMB_PRES_LO, 31, 0⟩
def F.CMB_PRES_HI_N : Fld := ⟨.CMB_PRES_HI, 31, 0⟩
def F.CMB_ABSCNT_COUNT : Fld := ⟨.CMB_ABSCNT, 31, 0⟩
def F.CMB_LATECNT_COUNT : Fld := ⟨.CMB_LATECNT, 31, 0⟩
def F.CMB_EARLYCNT_COUNT : Fld := ⟨.CMB_EARLYCNT, 31, 0⟩
def F.CMB_FLUSHCNT_COUNT : Fld := ⟨.CMB_FLUSHCNT, 31, 0⟩
def F.CMB_CHWORLD_WORLD : Fld := ⟨.CMB_CHWORLD, 31, 0⟩

/-! Fields of the registers of block HIV (spec/08_engine_units_and_memories.md R219). -/
def F.HIV_STAT_HALTED : Fld := ⟨.HIV_STAT, 7, 0⟩
def F.HIV_STAT_FAULTED : Fld := ⟨.HIV_STAT, 15, 8⟩
def F.HIV_STAT_WORLD : Fld := ⟨.HIV_STAT, 16, 16⟩
def F.HIV_EVT_FAULT : Fld := ⟨.HIV_EVT, 7, 0⟩
def F.HIV_EVT_DMAERR : Fld := ⟨.HIV_EVT, 15, 8⟩
def F.HIV_IEN_EN : Fld := ⟨.HIV_IEN, 15, 0⟩
def F.HIV_MAIL_POST : Fld := ⟨.HIV_MAIL, 7, 0⟩
def F.HIV_CTL_WORLD : Fld := ⟨.HIV_CTL, 0, 0⟩
def F.HIV_DMAERR_COUNT : Fld := ⟨.HIV_DMAERR, 31, 0⟩

/-! Fields of the registers of block SET (spec/10_settings_pour_trip_gate.md R273). -/
def F.SET_EVT_DONE : Fld := ⟨.SET_EVT, 15, 0⟩
def F.SET_EVT_FAIL : Fld := ⟨.SET_EVT, 31, 16⟩
def F.SET_IEN_EN : Fld := ⟨.SET_IEN, 31, 0⟩
def F.SET_VALID_VALID : Fld := ⟨.SET_VALID, 31, 0⟩
def F.SET_PG_MASK_LO_MASK : Fld := ⟨.SET_PG_MASK_LO, 31, 0⟩
def F.SET_PG_MASK_HI_MASK : Fld := ⟨.SET_PG_MASK_HI, 31, 0⟩
def F.SET_PG_TICK_LO_N : Fld := ⟨.SET_PG_TICK_LO, 31, 0⟩
def F.SET_PG_TICK_HI_N : Fld := ⟨.SET_PG_TICK_HI, 31, 0⟩
def F.SET_PG_CTL_ARM : Fld := ⟨.SET_PG_CTL, 0, 0⟩
def F.SET_PG_CTL_LATE : Fld := ⟨.SET_PG_CTL, 1, 1⟩
def F.SET_PG_CTL_INVAL : Fld := ⟨.SET_PG_CTL, 2, 2⟩
def F.SET_PG_CTL_DONE : Fld := ⟨.SET_PG_CTL, 3, 3⟩
def F.SET_PG_CTL_BADENG : Fld := ⟨.SET_PG_CTL, 9, 4⟩
def F.SET_PG_SWAP_LO_N : Fld := ⟨.SET_PG_SWAP_LO, 31, 0⟩
def F.SET_PG_SWAP_HI_N : Fld := ⟨.SET_PG_SWAP_HI, 31, 0⟩
def F.SET_ESTAT_ACTIVE : Fld := ⟨.SET_ESTAT, 0, 0⟩
def F.SET_ESTAT_SHVALID : Fld := ⟨.SET_ESTAT, 1, 1⟩
def F.SET_ESTAT_OLDUSE : Fld := ⟨.SET_ESTAT, 2, 2⟩
def F.SET_ESTAT_INGRP : Fld := ⟨.SET_ESTAT, 3, 3⟩
def F.SET_ESTAT_GROUP : Fld := ⟨.SET_ESTAT, 7, 4⟩
def F.SET_AID_ID : Fld := ⟨.SET_AID, 31, 0⟩
def F.SET_SID_ID : Fld := ⟨.SET_SID, 31, 0⟩

/-! Fields of the registers of block TRG (spec/10_settings_pour_trip_gate.md R273). -/
def F.TRG_EVT_ALM : Fld := ⟨.TRG_EVT, 2, 0⟩
def F.TRG_IEN_EN : Fld := ⟨.TRG_IEN, 2, 0⟩
def F.TRG_PCFG_POLICY : Fld := ⟨.TRG_PCFG, 1, 0⟩
def F.TRG_PCFG_VOTER : Fld := ⟨.TRG_PCFG, 3, 2⟩
def F.TRG_PCFG_EN : Fld := ⟨.TRG_PCFG, 4, 4⟩
def F.TRG_PP_P : Fld := ⟨.TRG_PP, 17, 0⟩
def F.TRG_PSOLO_NVOTER : Fld := ⟨.TRG_PSOLO, 1, 0⟩
def F.TRG_PSOLO_PEND : Fld := ⟨.TRG_PSOLO, 2, 2⟩
def F.TRG_STICK_LO_N : Fld := ⟨.TRG_STICK_LO, 31, 0⟩
def F.TRG_STICK_HI_N : Fld := ⟨.TRG_STICK_HI, 31, 0⟩
def F.TRG_PSTAT_ALM : Fld := ⟨.TRG_PSTAT, 4, 0⟩
def F.TRG_PSTAT_TRIP : Fld := ⟨.TRG_PSTAT, 8, 8⟩
def F.TRG_VOTED_WORD : Fld := ⟨.TRG_VOTED, 31, 0⟩
def F.TRG_EVEN_WORD : Fld := ⟨.TRG_EVEN, 31, 0⟩
def F.TRG_ODD_WORD : Fld := ⟨.TRG_ODD, 31, 0⟩
def F.TRG_ALMCNT_COUNT : Fld := ⟨.TRG_ALMCNT, 31, 0⟩

/-! Fields of the registers of block PUB (spec/10_settings_pour_trip_gate.md R273). -/
def F.PUB_EVT_DROP : Fld := ⟨.PUB_EVT, 3, 0⟩
def F.PUB_IEN_EN : Fld := ⟨.PUB_IEN, 3, 0⟩
def F.PUB_DROP_COUNT : Fld := ⟨.PUB_DROP, 31, 0⟩
def F.PUB_CFG_EN : Fld := ⟨.PUB_CFG, 0, 0⟩
def F.PUB_CFG_PORTS : Fld := ⟨.PUB_CFG, 4, 1⟩
def F.PUB_CFG_PRIO : Fld := ⟨.PUB_CFG, 7, 5⟩
def F.PUB_CFG_NMEM : Fld := ⟨.PUB_CFG, 13, 8⟩
def F.PUB_CFG_TALMUL : Fld := ⟨.PUB_CFG, 16, 14⟩
def F.PUB_CFG_WORLD : Fld := ⟨.PUB_CFG, 17, 17⟩
def F.PUB_CFG_SIM : Fld := ⟨.PUB_CFG, 18, 18⟩
def F.PUB_TMIN_US : Fld := ⟨.PUB_TMIN, 15, 0⟩
def F.PUB_TMAX_MS : Fld := ⟨.PUB_TMAX, 15, 0⟩
def F.PUB_MKIND0_KIND : Fld := ⟨.PUB_MKIND0, 31, 0⟩
def F.PUB_MKIND1_KIND : Fld := ⟨.PUB_MKIND1, 31, 0⟩
def F.PUB_STNUM_NUM : Fld := ⟨.PUB_STNUM, 31, 0⟩
def F.PUB_SQNUM_NUM : Fld := ⟨.PUB_SQNUM, 31, 0⟩
def F.PUB_LASTCHG_LO_T : Fld := ⟨.PUB_LASTCHG_LO, 31, 0⟩
def F.PUB_LASTCHG_HI_T : Fld := ⟨.PUB_LASTCHG_HI, 31, 0⟩
def F.PUB_VAL_VAL : Fld := ⟨.PUB_VAL, 31, 0⟩

/-! Fields of the registers of block JRN (spec/10_settings_pour_trip_gate.md R273). -/
def F.JRN_STAT_DIRECT : Fld := ⟨.JRN_STAT, 0, 0⟩
def F.JRN_STAT_SCRUB : Fld := ⟨.JRN_STAT, 1, 1⟩
def F.JRN_STAT_SCRUBAGE : Fld := ⟨.JRN_STAT, 15, 8⟩
def F.JRN_EVT_LOST : Fld := ⟨.JRN_EVT, 0, 0⟩
def F.JRN_EVT_ECC : Fld := ⟨.JRN_EVT, 1, 1⟩
def F.JRN_EVT_UE : Fld := ⟨.JRN_EVT, 2, 2⟩
def F.JRN_EVT_DRDONE : Fld := ⟨.JRN_EVT, 3, 3⟩
def F.JRN_EVT_INCOMPLETE : Fld := ⟨.JRN_EVT, 4, 4⟩
def F.JRN_IEN_EN : Fld := ⟨.JRN_IEN, 4, 0⟩
def F.JRN_CFG_HUSEAL : Fld := ⟨.JRN_CFG, 0, 0⟩
def F.JRN_CFG_FLUSHMS : Fld := ⟨.JRN_CFG, 15, 8⟩
def F.JRN_STGBASE_LO_BASE : Fld := ⟨.JRN_STGBASE_LO, 31, 22⟩
def F.JRN_STGBASE_HI_BASE : Fld := ⟨.JRN_STGBASE_HI, 7, 0⟩
def F.JRN_DRBASE_LO_BASE : Fld := ⟨.JRN_DRBASE_LO, 31, 22⟩
def F.JRN_DRBASE_HI_BASE : Fld := ⟨.JRN_DRBASE_HI, 7, 0⟩
def F.JRN_DRSIZE_MIB : Fld := ⟨.JRN_DRSIZE, 11, 0⟩
def F.JRN_ONEXT_LO_INDEX : Fld := ⟨.JRN_ONEXT_LO, 31, 0⟩
def F.JRN_ONEXT_HI_INDEX : Fld := ⟨.JRN_ONEXT_HI, 31, 0⟩
def F.JRN_SNEXT_LO_INDEX : Fld := ⟨.JRN_SNEXT_LO, 31, 0⟩
def F.JRN_SNEXT_HI_INDEX : Fld := ⟨.JRN_SNEXT_HI, 31, 0⟩
def F.JRN_UNFL_BYTES : Fld := ⟨.JRN_UNFL, 22, 0⟩
def F.JRN_LOST_COUNT : Fld := ⟨.JRN_LOST, 31, 0⟩
def F.JRN_WEARO_LAPS : Fld := ⟨.JRN_WEARO, 31, 0⟩
def F.JRN_WEARS_LAPS : Fld := ⟨.JRN_WEARS, 31, 0⟩
def F.JRN_WEARD_LAPS : Fld := ⟨.JRN_WEARD, 31, 0⟩
def F.JRN_DRPOST_POST : Fld := ⟨.JRN_DRPOST, 15, 0⟩
def F.JRN_DRLAST_ID : Fld := ⟨.JRN_DRLAST, 31, 0⟩
def F.JRN_DRCH_FIRST : Fld := ⟨.JRN_DRCH, 11, 0⟩
def F.JRN_DRCH_COUNT : Fld := ⟨.JRN_DRCH, 24, 12⟩

/-! Fields of the registers of block IC (spec/16_interrupts_and_watchdogs.md R437). -/
def F.IC_PSET_PEND : Fld := ⟨.IC_PSET, 31, 0⟩
def F.IC_PCLR_PEND : Fld := ⟨.IC_PCLR, 31, 0⟩
def F.IC_ESET_EN : Fld := ⟨.IC_ESET, 31, 0⟩
def F.IC_ECLR_EN : Fld := ⟨.IC_ECLR, 31, 0⟩
def F.IC_ACT_ACT : Fld := ⟨.IC_ACT, 31, 0⟩
def F.IC_REARM_SRC : Fld := ⟨.IC_REARM, 9, 0⟩
def F.IC_CLAIM_SRC : Fld := ⟨.IC_CLAIM, 9, 0⟩
def F.IC_CLAIM_VALID : Fld := ⟨.IC_CLAIM, 31, 31⟩
def F.IC_QCLAIM_SRC : Fld := ⟨.IC_QCLAIM, 9, 0⟩
def F.IC_QCLAIM_VALID : Fld := ⟨.IC_QCLAIM, 31, 31⟩
def F.IC_COMPL_SRC : Fld := ⟨.IC_COMPL, 9, 0⟩
def F.IC_COMPL_REARM : Fld := ⟨.IC_COMPL, 31, 31⟩
def F.IC_TSTAT_LINE : Fld := ⟨.IC_TSTAT, 0, 0⟩
def F.IC_TSTAT_QLINE : Fld := ⟨.IC_TSTAT, 1, 1⟩
def F.IC_TSTAT_SLEEP : Fld := ⟨.IC_TSTAT, 2, 2⟩
def F.IC_SRC_TMASK : Fld := ⟨.IC_SRC, 8, 0⟩
def F.IC_SRC_QUICK : Fld := ⟨.IC_SRC, 9, 9⟩
def F.IC_SRC_PRIO : Fld := ⟨.IC_SRC, 13, 10⟩
def F.IC_SRC_WORLD : Fld := ⟨.IC_SRC, 16, 16⟩
def F.IC_SRC_FIXED : Fld := ⟨.IC_SRC, 17, 17⟩
def F.IC_SRC_CUR : Fld := ⟨.IC_SRC, 21, 18⟩
def F.IC_SRC_LAST : Fld := ⟨.IC_SRC, 25, 22⟩

/-! Fields of the registers of block WDG (spec/16_interrupts_and_watchdogs.md R437). -/
def F.WDG_CTL_EN : Fld := ⟨.WDG_CTL, 0, 0⟩
def F.WDG_CTL_DBGPAUSE : Fld := ⟨.WDG_CTL, 1, 1⟩
def F.WDG_CTL_ACT : Fld := ⟨.WDG_CTL, 2, 2⟩
def F.WDG_CTL_LOCK : Fld := ⟨.WDG_CTL, 3, 3⟩
def F.WDG_CTL_WORLD : Fld := ⟨.WDG_CTL, 4, 4⟩
def F.WDG_OPEN_US : Fld := ⟨.WDG_OPEN, 23, 0⟩
def F.WDG_CLOSE_US : Fld := ⟨.WDG_CLOSE, 23, 0⟩
def F.WDG_GRACE_US : Fld := ⟨.WDG_GRACE, 23, 0⟩
def F.WDG_SVC_KEY : Fld := ⟨.WDG_SVC, 31, 0⟩
def F.WDG_STAT_CNT : Fld := ⟨.WDG_STAT, 23, 0⟩
def F.WDG_STAT_WARN : Fld := ⟨.WDG_STAT, 24, 24⟩
def F.WDG_STAT_PAUSED : Fld := ⟨.WDG_STAT, 25, 25⟩
def F.WDG_STAT_EXP : Fld := ⟨.WDG_STAT, 26, 26⟩
def F.WDG_STAT_BADSVC : Fld := ⟨.WDG_STAT, 27, 27⟩
def F.WDG_STAT_FAULT : Fld := ⟨.WDG_STAT, 28, 28⟩
def F.WDG_EXPCNT_COUNT : Fld := ⟨.WDG_EXPCNT, 15, 0⟩

/-! Fields of the registers of block NOC (spec/14_fabric_dram_address_map.md R397). -/
def F.NOC_STAT_FWBUSY : Fld := ⟨.NOC_STAT, 0, 0⟩
def F.NOC_FW_BASE_LO_BASE : Fld := ⟨.NOC_FW_BASE_LO, 31, 16⟩
def F.NOC_FW_BASE_HI_BASE : Fld := ⟨.NOC_FW_BASE_HI, 1, 0⟩
def F.NOC_FW_SIZE_SIZE : Fld := ⟨.NOC_FW_SIZE, 18, 0⟩
def F.NOC_FW_CTL_WORLD : Fld := ⟨.NOC_FW_CTL, 0, 0⟩
def F.NOC_PQOS_BASE : Fld := ⟨.NOC_PQOS, 2, 0⟩
def F.NOC_PQOS_STEP : Fld := ⟨.NOC_PQOS, 12, 8⟩
def F.NOC_MAXWAIT_NS : Fld := ⟨.NOC_MAXWAIT, 31, 0⟩

/-! Fields of the registers of block HN (spec/14_fabric_dram_address_map.md R397). -/
def F.HN_STAT_DEAD : Fld := ⟨.HN_STAT, 1, 0⟩
def F.HN_STAT_RECLAIM : Fld := ⟨.HN_STAT, 2, 2⟩
def F.HN_EVT_DEAD : Fld := ⟨.HN_EVT, 0, 0⟩
def F.HN_EVT_FWREF : Fld := ⟨.HN_EVT, 1, 1⟩
def F.HN_EVT_POISON : Fld := ⟨.HN_EVT, 2, 2⟩
def F.HN_IEN_EN : Fld := ⟨.HN_IEN, 2, 0⟩
def F.HN_BACKINV_COUNT : Fld := ⟨.HN_BACKINV, 31, 0⟩
def F.HN_FWCNT_COUNT : Fld := ⟨.HN_FWCNT, 31, 0⟩

/-! Fields of the registers of block DMC (spec/14_fabric_dram_address_map.md R397). -/
def F.DMC_CTL_EN : Fld := ⟨.DMC_CTL, 0, 0⟩
def F.DMC_CFG_IDLE : Fld := ⟨.DMC_CFG, 15, 0⟩
def F.DMC_HCH_LO_MASK : Fld := ⟨.DMC_HCH_LO, 31, 0⟩
def F.DMC_HCH_HI_MASK : Fld := ⟨.DMC_HCH_HI, 7, 0⟩
def F.DMC_HBG0_LO_MASK : Fld := ⟨.DMC_HBG0_LO, 31, 0⟩
def F.DMC_HBG0_HI_MASK : Fld := ⟨.DMC_HBG0_HI, 7, 0⟩
def F.DMC_HBG1_LO_MASK : Fld := ⟨.DMC_HBG1_LO, 31, 0⟩
def F.DMC_HBG1_HI_MASK : Fld := ⟨.DMC_HBG1_HI, 7, 0⟩
def F.DMC_HBA0_LO_MASK : Fld := ⟨.DMC_HBA0_LO, 31, 0⟩
def F.DMC_HBA0_HI_MASK : Fld := ⟨.DMC_HBA0_HI, 7, 0⟩
def F.DMC_HBA1_LO_MASK : Fld := ⟨.DMC_HBA1_LO, 31, 0⟩
def F.DMC_HBA1_HI_MASK : Fld := ⟨.DMC_HBA1_HI, 7, 0⟩
def F.DMC_PTGT_NS : Fld := ⟨.DMC_PTGT, 15, 0⟩
def F.DMC_PCFG_PAGE : Fld := ⟨.DMC_PCFG, 1, 0⟩
def F.DMC_PMISS_COUNT : Fld := ⟨.DMC_PMISS, 31, 0⟩
def F.DMC_PMAX_NS : Fld := ⟨.DMC_PMAX, 31, 0⟩
def F.DMC_CSTAT_TRAINED : Fld := ⟨.DMC_CSTAT, 0, 0⟩
def F.DMC_CSTAT_SREF : Fld := ⟨.DMC_CSTAT, 1, 1⟩
def F.DMC_CSTAT_HOT : Fld := ⟨.DMC_CSTAT, 2, 2⟩
def F.DMC_RH_THRESH : Fld := ⟨.DMC_RH, 15, 0⟩
def F.DMC_RH_WINDOW : Fld := ⟨.DMC_RH, 23, 16⟩
def F.DMC_RHCNT_COUNT : Fld := ⟨.DMC_RHCNT, 31, 0⟩
def F.DMC_CECNT_COUNT : Fld := ⟨.DMC_CECNT, 31, 0⟩
def F.DMC_UECNT_COUNT : Fld := ⟨.DMC_UECNT, 31, 0⟩
def F.DMC_SCRUB_HOURS : Fld := ⟨.DMC_SCRUB, 4, 0⟩
def F.DMC_SCRUBPOS_LINE : Fld := ⟨.DMC_SCRUBPOS, 31, 0⟩

/-! Fields of the registers of block ETH (spec/15_ports_and_links.md R420). -/
def F.ETH_STAT_LINK : Fld := ⟨.ETH_STAT, 0, 0⟩
def F.ETH_STAT_LOCK : Fld := ⟨.ETH_STAT, 1, 1⟩
def F.ETH_CFG_EN : Fld := ⟨.ETH_CFG, 0, 0⟩
def F.ETH_CFG_WORLD : Fld := ⟨.ETH_CFG, 1, 1⟩
def F.ETH_CFG_MCAST : Fld := ⟨.ETH_CFG, 2, 2⟩
def F.ETH_CFG_COPYSUB : Fld := ⟨.ETH_CFG, 3, 3⟩
def F.ETH_CFG_VLANF : Fld := ⟨.ETH_CFG, 4, 4⟩
def F.ETH_CFG_ANOFF : Fld := ⟨.ETH_CFG, 5, 5⟩
def F.ETH_CFG_RED : Fld := ⟨.ETH_CFG, 7, 6⟩
def F.ETH_EVT_LINKCHG : Fld := ⟨.ETH_EVT, 0, 0⟩
def F.ETH_EVT_RXBUF : Fld := ⟨.ETH_EVT, 1, 1⟩
def F.ETH_EVT_DMAERR : Fld := ⟨.ETH_EVT, 2, 2⟩
def F.ETH_EVT_WRONGLAN : Fld := ⟨.ETH_EVT, 3, 3⟩
def F.ETH_EVT_HSRDROP : Fld := ⟨.ETH_EVT, 4, 4⟩
def F.ETH_EVT_RX : Fld := ⟨.ETH_EVT, 5, 5⟩
def F.ETH_EVT_TX : Fld := ⟨.ETH_EVT, 6, 6⟩
def F.ETH_IEN_EN : Fld := ⟨.ETH_IEN, 6, 0⟩
def F.ETH_MAC_LO_MAC : Fld := ⟨.ETH_MAC_LO, 31, 0⟩
def F.ETH_MAC_HI_MAC : Fld := ⟨.ETH_MAC_HI, 15, 0⟩
def F.ETH_TSCORR_RX : Fld := ⟨.ETH_TSCORR, 15, 0⟩
def F.ETH_TSCORR_TX : Fld := ⟨.ETH_TSCORR, 31, 16⟩
def F.ETH_ASYM_ASYM : Fld := ⟨.ETH_ASYM, 31, 0⟩
def F.ETH_PTPCFG_ROLE : Fld := ⟨.ETH_PTPCFG, 1, 0⟩
def F.ETH_PTPCFG_DOMAIN : Fld := ⟨.ETH_PTPCFG, 9, 2⟩
def F.ETH_PTPCFG_TAGGED : Fld := ⟨.ETH_PTPCFG, 10, 10⟩
def F.ETH_PTPCFG_VID : Fld := ⟨.ETH_PTPCFG, 22, 11⟩
def F.ETH_PTPPRI_PRIO1 : Fld := ⟨.ETH_PTPPRI, 7, 0⟩
def F.ETH_PTPPRI_PRIO2 : Fld := ⟨.ETH_PTPPRI, 15, 8⟩
def F.ETH_RXBASE_LO_BASE : Fld := ⟨.ETH_RXBASE_LO, 31, 12⟩
def F.ETH_RXBASE_HI_BASE : Fld := ⟨.ETH_RXBASE_HI, 7, 0⟩
def F.ETH_TXBASE_LO_BASE : Fld := ⟨.ETH_TXBASE_LO, 31, 12⟩
def F.ETH_TXBASE_HI_BASE : Fld := ⟨.ETH_TXBASE_HI, 7, 0⟩
def F.ETH_RING_RXSIZE : Fld := ⟨.ETH_RING, 3, 0⟩
def F.ETH_RING_TXSIZE : Fld := ⟨.ETH_RING, 7, 4⟩
def F.ETH_RING_RXEN : Fld := ⟨.ETH_RING, 8, 8⟩
def F.ETH_RING_TXEN : Fld := ⟨.ETH_RING, 9, 9⟩
def F.ETH_RXHEAD_IDX : Fld := ⟨.ETH_RXHEAD, 15, 0⟩
def F.ETH_RXTAIL_IDX : Fld := ⟨.ETH_RXTAIL, 15, 0⟩
def F.ETH_TXHEAD_IDX : Fld := ⟨.ETH_TXHEAD, 15, 0⟩
def F.ETH_TXTAIL_IDX : Fld := ⟨.ETH_TXTAIL, 15, 0⟩
def F.ETH_RXGOOD_COUNT : Fld := ⟨.ETH_RXGOOD, 31, 0⟩
def F.ETH_RXFCS_COUNT : Fld := ⟨.ETH_RXFCS, 31, 0⟩
def F.ETH_RXLEN_COUNT : Fld := ⟨.ETH_RXLEN, 31, 0⟩
def F.ETH_RXFILT_COUNT : Fld := ⟨.ETH_RXFILT, 31, 0⟩
def F.ETH_RXBUF_COUNT : Fld := ⟨.ETH_RXBUF, 31, 0⟩
def F.ETH_RXPAUSE_COUNT : Fld := ⟨.ETH_RXPAUSE, 31, 0⟩
def F.ETH_TXGOOD_COUNT : Fld := ⟨.ETH_TXGOOD, 31, 0⟩
def F.ETH_DUPDISC_COUNT : Fld := ⟨.ETH_DUPDISC, 31, 0⟩
def F.ETH_WRONGLAN_COUNT : Fld := ⟨.ETH_WRONGLAN, 31, 0⟩
def F.ETH_HSRFWD_COUNT : Fld := ⟨.ETH_HSRFWD, 31, 0⟩
def F.ETH_HSRDROP_COUNT : Fld := ⟨.ETH_HSRDROP, 31, 0⟩
def F.ETH_HSROWN_COUNT : Fld := ⟨.ETH_HSROWN, 31, 0⟩
def F.ETH_SUPRX_COUNT : Fld := ⟨.ETH_SUPRX, 31, 0⟩
def F.ETH_DUPEVICT_COUNT : Fld := ⟨.ETH_DUPEVICT, 31, 0⟩
def F.ETH_VLAN_VID : Fld := ⟨.ETH_VLAN, 11, 0⟩
def F.ETH_VLAN_V : Fld := ⟨.ETH_VLAN, 12, 12⟩

/-! Fields of the registers of block BLK (spec/15_ports_and_links.md R420). -/
def F.BLK_EVT_UP : Fld := ⟨.BLK_EVT, 3, 0⟩
def F.BLK_EVT_LOSS : Fld := ⟨.BLK_EVT, 7, 4⟩
def F.BLK_EVT_EVOVF : Fld := ⟨.BLK_EVT, 11, 8⟩
def F.BLK_EVT_OUTF : Fld := ⟨.BLK_EVT, 15, 12⟩
def F.BLK_IEN_EN : Fld := ⟨.BLK_IEN, 15, 0⟩
def F.BLK_LCFG_EN : Fld := ⟨.BLK_LCFG, 0, 0⟩
def F.BLK_LCFG_WORLD : Fld := ⟨.BLK_LCFG, 1, 1⟩
def F.BLK_LCFG_LOSS : Fld := ⟨.BLK_LCFG, 5, 2⟩
def F.BLK_LCFG_TURN : Fld := ⟨.BLK_LCFG, 21, 6⟩
def F.BLK_LCFG_HIVES : Fld := ⟨.BLK_LCFG, 29, 22⟩
def F.BLK_LSTAT_STATE : Fld := ⟨.BLK_LSTAT, 1, 0⟩
def F.BLK_LSTAT_CARD : Fld := ⟨.BLK_LSTAT, 4, 2⟩
def F.BLK_LSTAT_DLY : Fld := ⟨.BLK_LSTAT, 31, 16⟩
def F.BLK_OUT_BITS : Fld := ⟨.BLK_OUT, 31, 0⟩
def F.BLK_IN_BITS : Fld := ⟨.BLK_IN, 31, 0⟩
def F.BLK_HSMW_ADDR : Fld := ⟨.BLK_HSMW, 17, 2⟩
def F.BLK_EVBASE_LO_BASE : Fld := ⟨.BLK_EVBASE_LO, 31, 12⟩
def F.BLK_EVBASE_HI_BASE : Fld := ⟨.BLK_EVBASE_HI, 7, 0⟩
def F.BLK_EVCFG_SIZE : Fld := ⟨.BLK_EVCFG, 3, 0⟩
def F.BLK_EVCFG_EN : Fld := ⟨.BLK_EVCFG, 4, 4⟩
def F.BLK_EVWR_IDX : Fld := ⟨.BLK_EVWR, 15, 0⟩
def F.BLK_EVRD_IDX : Fld := ⟨.BLK_EVRD, 15, 0⟩
def F.BLK_BADCNT_COUNT : Fld := ⟨.BLK_BADCNT, 31, 0⟩
def F.BLK_CMDDROP_COUNT : Fld := ⟨.BLK_CMDDROP, 31, 0⟩
def F.BLK_EVLOST_COUNT : Fld := ⟨.BLK_EVLOST, 31, 0⟩
def F.BLK_LOSSCNT_COUNT : Fld := ⟨.BLK_LOSSCNT, 31, 0⟩

/-! Fields of the registers of block DBG (spec/17_debug_trace_counters.md R462). -/
def F.DBG_STAT_UNLOCK : Fld := ⟨.DBG_STAT, 1, 0⟩
def F.DBG_STAT_BUSY : Fld := ⟨.DBG_STAT, 2, 2⟩
def F.DBG_EVT_DRX : Fld := ⟨.DBG_EVT, 7, 0⟩
def F.DBG_EVT_DTX : Fld := ⟨.DBG_EVT, 15, 8⟩
def F.DBG_EVT_OPEN : Fld := ⟨.DBG_EVT, 16, 16⟩
def F.DBG_EVT_CLOSE : Fld := ⟨.DBG_EVT, 17, 17⟩
def F.DBG_IEN_EN : Fld := ⟨.DBG_IEN, 17, 0⟩
def F.DBG_KEEPPRI_LEVEL : Fld := ⟨.DBG_KEEPPRI, 31, 0⟩
def F.DBG_CCTL_STEP : Fld := ⟨.DBG_CCTL, 0, 0⟩
def F.DBG_CCTL_STEPIRQ : Fld := ⟨.DBG_CCTL, 1, 1⟩
def F.DBG_CREQ_STOP : Fld := ⟨.DBG_CREQ, 0, 0⟩
def F.DBG_CSTAT_MON : Fld := ⟨.DBG_CSTAT, 0, 0⟩
def F.DBG_CSTAT_MDEPTH : Fld := ⟨.DBG_CSTAT, 4, 1⟩
def F.DBG_CSTAT_REASON : Fld := ⟨.DBG_CSTAT, 7, 5⟩
def F.DBG_CSTAT_WHICH : Fld := ⟨.DBG_CSTAT, 11, 8⟩
def F.DBG_CSTAT_SKIP : Fld := ⟨.DBG_CSTAT, 12, 12⟩
def F.DBG_CSTAT_HALTREQ : Fld := ⟨.DBG_CSTAT, 13, 13⟩
def F.DBG_CM_ASID : Fld := ⟨.DBG_CM, 11, 0⟩
def F.DBG_CM_ASIDEN : Fld := ⟨.DBG_CM, 12, 12⟩
def F.DBG_CM_WORLD : Fld := ⟨.DBG_CM, 13, 13⟩
def F.DBG_IAC_ALO_LO_ADDR : Fld := ⟨.DBG_IAC_ALO_LO, 31, 4⟩
def F.DBG_IAC_ALO_HI_ADDR : Fld := ⟨.DBG_IAC_ALO_HI, 15, 0⟩
def F.DBG_IAC_AHI_LO_ADDR : Fld := ⟨.DBG_IAC_AHI_LO, 31, 4⟩
def F.DBG_IAC_AHI_HI_ADDR : Fld := ⟨.DBG_IAC_AHI_HI, 15, 0⟩
def F.DBG_IAC_CTL_EN : Fld := ⟨.DBG_IAC_CTL, 0, 0⟩
def F.DBG_IAC_CTL_ROLE : Fld := ⟨.DBG_IAC_CTL, 1, 1⟩
def F.DBG_IAC_CTL_LVL : Fld := ⟨.DBG_IAC_CTL, 3, 2⟩
def F.DBG_IAC_CTL_USECM : Fld := ⟨.DBG_IAC_CTL, 4, 4⟩
def F.DBG_IAC_CTL_LINK : Fld := ⟨.DBG_IAC_CTL, 8, 5⟩
def F.DBG_DWP_ALO_LO_ADDR : Fld := ⟨.DBG_DWP_ALO_LO, 31, 0⟩
def F.DBG_DWP_ALO_HI_ADDR : Fld := ⟨.DBG_DWP_ALO_HI, 15, 0⟩
def F.DBG_DWP_AHI_LO_ADDR : Fld := ⟨.DBG_DWP_AHI_LO, 31, 0⟩
def F.DBG_DWP_AHI_HI_ADDR : Fld := ⟨.DBG_DWP_AHI_HI, 15, 0⟩
def F.DBG_DWP_CTL_EN : Fld := ⟨.DBG_DWP_CTL, 0, 0⟩
def F.DBG_DWP_CTL_ROLE : Fld := ⟨.DBG_DWP_CTL, 1, 1⟩
def F.DBG_DWP_CTL_LVL : Fld := ⟨.DBG_DWP_CTL, 3, 2⟩
def F.DBG_DWP_CTL_USECM : Fld := ⟨.DBG_DWP_CTL, 4, 4⟩
def F.DBG_DWP_CTL_LINK : Fld := ⟨.DBG_DWP_CTL, 8, 5⟩
def F.DBG_DWP_CTL_TYPE : Fld := ⟨.DBG_DWP_CTL, 10, 9⟩
def F.DBG_DWP_CTL_DVSEL : Fld := ⟨.DBG_DWP_CTL, 12, 11⟩
def F.DBG_DVC_VAL_LO_VAL : Fld := ⟨.DBG_DVC_VAL_LO, 31, 0⟩
def F.DBG_DVC_VAL_HI_VAL : Fld := ⟨.DBG_DVC_VAL_HI, 31, 0⟩
def F.DBG_DVC_MASK_LO_MASK : Fld := ⟨.DBG_DVC_MASK_LO, 31, 0⟩
def F.DBG_DVC_MASK_HI_MASK : Fld := ⟨.DBG_DVC_MASK_HI, 31, 0⟩
def F.DBG_DTX_WORD : Fld := ⟨.DBG_DTX, 31, 0⟩
def F.DBG_DRX_WORD : Fld := ⟨.DBG_DRX, 31, 0⟩
def F.DBG_DCCSTAT_DTXF : Fld := ⟨.DBG_DCCSTAT, 0, 0⟩
def F.DBG_DCCSTAT_DRXF : Fld := ⟨.DBG_DCCSTAT, 1, 1⟩
def F.DBG_DCCSTAT_LOST : Fld := ⟨.DBG_DCCSTAT, 2, 2⟩

/-! Fields of the registers of block TRC (spec/17_debug_trace_counters.md R462). -/
def F.TRC_CTL_EN : Fld := ⟨.TRC_CTL, 0, 0⟩
def F.TRC_CTL_STOPFULL : Fld := ⟨.TRC_CTL, 1, 1⟩
def F.TRC_CTL_STALL : Fld := ⟨.TRC_CTL, 2, 2⟩
def F.TRC_CTL_CLEAR : Fld := ⟨.TRC_CTL, 3, 3⟩
def F.TRC_CTL_SRCEN : Fld := ⟨.TRC_CTL, 12, 4⟩
def F.TRC_STAT_WRAPPED : Fld := ⟨.TRC_STAT, 0, 0⟩
def F.TRC_STAT_STOPPED : Fld := ⟨.TRC_STAT, 1, 1⟩
def F.TRC_STAT_FROZEN : Fld := ⟨.TRC_STAT, 2, 2⟩
def F.TRC_EVT_STOPPED : Fld := ⟨.TRC_EVT, 0, 0⟩
def F.TRC_EVT_LOST : Fld := ⟨.TRC_EVT, 1, 1⟩
def F.TRC_IEN_EN : Fld := ⟨.TRC_IEN, 1, 0⟩
def F.TRC_WPTR_BYTE : Fld := ⟨.TRC_WPTR, 19, 0⟩
def F.TRC_RPAGE_WIN : Fld := ⟨.TRC_RPAGE, 4, 0⟩
def F.TRC_LOST_COUNT : Fld := ⟨.TRC_LOST, 31, 0⟩
def F.TRC_SW_VAL : Fld := ⟨.TRC_SW, 31, 0⟩
def F.TRC_WIN_DATA : Fld := ⟨.TRC_WIN, 31, 0⟩

/-! Fields of the registers of block PMU (spec/17_debug_trace_counters.md R462). -/
def F.PMU_CTL_EN : Fld := ⟨.PMU_CTL, 0, 0⟩
def F.PMU_CTL_UEN : Fld := ⟨.PMU_CTL, 1, 1⟩
def F.PMU_CTL_FRZ : Fld := ⟨.PMU_CTL, 2, 2⟩
def F.PMU_CTL_NOMON : Fld := ⟨.PMU_CTL, 3, 3⟩
def F.PMU_CTL_FROZEN : Fld := ⟨.PMU_CTL, 4, 4⟩
def F.PMU_OVF_OVF : Fld := ⟨.PMU_OVF, 7, 0⟩
def F.PMU_IEN_EN : Fld := ⟨.PMU_IEN, 7, 0⟩
def F.PMU_EVSEL_EVT : Fld := ⟨.PMU_EVSEL, 7, 0⟩
def F.PMU_EVSEL_LVL : Fld := ⟨.PMU_EVSEL, 9, 8⟩
def F.PMU_CNT_LO_CNT : Fld := ⟨.PMU_CNT_LO, 31, 0⟩
def F.PMU_CNT_HI_CNT : Fld := ⟨.PMU_CNT_HI, 15, 0⟩
def F.PMU_ECTL_EN : Fld := ⟨.PMU_ECTL, 0, 0⟩
def F.PMU_EOVF_OVF : Fld := ⟨.PMU_EOVF, 3, 0⟩
def F.PMU_EIEN_EN : Fld := ⟨.PMU_EIEN, 3, 0⟩
def F.PMU_ESEL_EVT : Fld := ⟨.PMU_ESEL, 5, 0⟩
def F.PMU_ESEL_CTX : Fld := ⟨.PMU_ESEL, 8, 6⟩
def F.PMU_ESEL_CTXEN : Fld := ⟨.PMU_ESEL, 9, 9⟩
def F.PMU_ECNT_CNT : Fld := ⟨.PMU_ECNT, 31, 0⟩

/-! Fields of the registers of block HLT (spec/18_health_errors_electrical.md R483). -/
def F.HLT_EVT_WARN : Fld := ⟨.HLT_EVT, 0, 0⟩
def F.HLT_EVT_ALARM : Fld := ⟨.HLT_EVT, 1, 1⟩
def F.HLT_EVT_CLEAR : Fld := ⟨.HLT_EVT, 2, 2⟩
def F.HLT_EVT_THROTTLE : Fld := ⟨.HLT_EVT, 3, 3⟩
def F.HLT_EVT_OT : Fld := ⟨.HLT_EVT, 4, 4⟩
def F.HLT_IEN_EN : Fld := ⟨.HLT_IEN, 4, 0⟩
def F.HLT_THR_START : Fld := ⟨.HLT_THR, 7, 0⟩
def F.HLT_THRSTAT_LEVEL : Fld := ⟨.HLT_THRSTAT, 1, 0⟩
def F.HLT_TJ_TJ : Fld := ⟨.HLT_TJ, 15, 0⟩
def F.HLT_TJMAX_TJ : Fld := ⟨.HLT_TJMAX, 15, 0⟩
def F.HLT_MON_VAL_VALUE : Fld := ⟨.HLT_MON_VAL, 15, 0⟩
def F.HLT_MON_VAL_STATE : Fld := ⟨.HLT_MON_VAL, 17, 16⟩
def F.HLT_MON_VAL_SAMPLED : Fld := ⟨.HLT_MON_VAL, 18, 18⟩
def F.HLT_MON_THRESH_WARN : Fld := ⟨.HLT_MON_THRESH, 15, 0⟩
def F.HLT_MON_THRESH_ALARM : Fld := ⟨.HLT_MON_THRESH, 31, 16⟩
def F.HLT_MON_CFG_ACTION : Fld := ⟨.HLT_MON_CFG, 7, 0⟩
def F.HLT_MON_CFG_NOM : Fld := ⟨.HLT_MON_CFG, 31, 16⟩
def F.HLT_MON_CNT_ALMCNT : Fld := ⟨.HLT_MON_CNT, 15, 0⟩

/-! Fields of the registers of block ERR (spec/18_health_errors_electrical.md R474). -/
def F.ERR_SUM0_VALID : Fld := ⟨.ERR_SUM0, 31, 0⟩
def F.ERR_SUM1_VALID : Fld := ⟨.ERR_SUM1, 9, 0⟩
def F.ERR_STAT_VALID : Fld := ⟨.ERR_STAT, 0, 0⟩
def F.ERR_STAT_RESP : Fld := ⟨.ERR_STAT, 1, 1⟩
def F.ERR_STAT_IEN : Fld := ⟨.ERR_STAT, 2, 2⟩
def F.ERR_STAT_TYPE : Fld := ⟨.ERR_STAT, 15, 8⟩
def F.ERR_STAT_PORT : Fld := ⟨.ERR_STAT, 20, 16⟩
def F.ERR_STAT_WORLD : Fld := ⟨.ERR_STAT, 22, 21⟩
def F.ERR_ADDR_LO_ADDR : Fld := ⟨.ERR_ADDR_LO, 31, 0⟩
def F.ERR_ADDR_HI_ADDR : Fld := ⟨.ERR_ADDR_HI, 7, 0⟩
def F.ERR_INFO_INFO : Fld := ⟨.ERR_INFO, 31, 0⟩
def F.ERR_TIME_LO_T : Fld := ⟨.ERR_TIME_LO, 31, 0⟩
def F.ERR_TIME_HI_T : Fld := ⟨.ERR_TIME_HI, 31, 0⟩
def F.ERR_OVF_COUNT : Fld := ⟨.ERR_OVF, 15, 0⟩
def F.ERR_CECNT_COUNT : Fld := ⟨.ERR_CECNT, 31, 0⟩

/-! Fields of the registers of block PE (spec/08_engine_units_and_memories.md R218). -/
def F.PE_STAT_STATE : Fld := ⟨.PE_STAT, 1, 0⟩
def F.PE_STAT_WORLD : Fld := ⟨.PE_STAT, 3, 3⟩
def F.PE_STAT_RUNLATE : Fld := ⟨.PE_STAT, 4, 4⟩
def F.PE_STAT_MAIL : Fld := ⟨.PE_STAT, 5, 5⟩
def F.PE_STAT_CTX : Fld := ⟨.PE_STAT, 10, 8⟩
def F.PE_STAT_IDLE : Fld := ⟨.PE_STAT, 11, 11⟩
def F.PE_STAT_READY : Fld := ⟨.PE_STAT, 23, 16⟩
def F.PE_CTL_HALT : Fld := ⟨.PE_CTL, 0, 0⟩
def F.PE_CTL_RUN : Fld := ⟨.PE_CTL, 1, 1⟩
def F.PE_CTL_ADMIT : Fld := ⟨.PE_CTL, 2, 2⟩
def F.PE_RUNTICK_LO_N : Fld := ⟨.PE_RUNTICK_LO, 31, 0⟩
def F.PE_RUNTICK_HI_N : Fld := ⟨.PE_RUNTICK_HI, 31, 0⟩
def F.PE_FAULT0_CAUSE : Fld := ⟨.PE_FAULT0, 3, 0⟩
def F.PE_FAULT0_CTX : Fld := ⟨.PE_FAULT0, 6, 4⟩
def F.PE_FAULT0_INFAULT : Fld := ⟨.PE_FAULT0, 7, 7⟩
def F.PE_FAULT0_SLOT : Fld := ⟨.PE_FAULT0, 10, 8⟩
def F.PE_FAULT0_BUNDLE : Fld := ⟨.PE_FAULT0, 24, 12⟩
def F.PE_FAULT1_INFO : Fld := ⟨.PE_FAULT1, 31, 0⟩
def F.PE_FCNT_COUNT : Fld := ⟨.PE_FCNT, 15, 0⟩
def F.PE_CASTID_ID : Fld := ⟨.PE_CASTID, 31, 0⟩
def F.PE_OUTSTAT_OUT : Fld := ⟨.PE_OUTSTAT, 6, 0⟩
def F.PE_LATECNT_COUNT : Fld := ⟨.PE_LATECNT, 31, 0⟩
def F.PE_EVTDROP_COUNT : Fld := ⟨.PE_EVTDROP, 31, 0⟩
def F.PE_BRK_ADDR : Fld := ⟨.PE_BRK, 12, 0⟩
def F.PE_BRK_EN : Fld := ⟨.PE_BRK, 16, 16⟩
def F.PE_DBG_HELD : Fld := ⟨.PE_DBG, 7, 0⟩
def F.PE_DBG_RELEASE : Fld := ⟨.PE_DBG, 15, 8⟩
def F.PE_DBG_BRKHIT : Fld := ⟨.PE_DBG, 16, 16⟩
def F.PE_DBG_WHICH : Fld := ⟨.PE_DBG, 17, 17⟩
def F.PE_STEP_REMAIN : Fld := ⟨.PE_STEP, 15, 0⟩
def F.PE_STEP_MODE : Fld := ⟨.PE_STEP, 16, 16⟩
def F.PE_WCET_WCET : Fld := ⟨.PE_WCET, 17, 0⟩
def F.PE_CTX_BIND_CLASS : Fld := ⟨.PE_CTX_BIND, 2, 0⟩
def F.PE_CTX_BIND_POLICY : Fld := ⟨.PE_CTX_BIND, 3, 3⟩
def F.PE_CTX_BIND_BOUND : Fld := ⟨.PE_CTX_BIND, 4, 4⟩
def F.PE_CTX_BIND_K : Fld := ⟨.PE_CTX_BIND, 16, 8⟩
def F.PE_CTX_ENTRY_ADDR : Fld := ⟨.PE_CTX_ENTRY, 12, 0⟩
def F.PE_CTX_PC_ADDR : Fld := ⟨.PE_CTX_PC, 12, 0⟩
def F.PE_CTX_CSTAT_STATE : Fld := ⟨.PE_CTX_CSTAT, 1, 0⟩
def F.PE_CTX_CSTAT_OVRCNT : Fld := ⟨.PE_CTX_CSTAT, 31, 16⟩

/-- The registers of each block, by the index of its window (Table 14.2; 99: the engine control view). -/
def RName.ofBlock : Nat → List RName
  | 0 => [.SVP_STAT, .SVP_MISCNT, .SVP_RSTTIME_LO, .SVP_RSTTIME_HI, .SVP_CTL, .SVP_FWVER]
  | 1 => [.LCS_STATE, .LCS_ARB, .LCS_KEYS, .LCS_NONCE, .LCS_DBG, .LCS_BOOT, .LCS_DIEID_LO, .LCS_DIEID_HI]
  | 2 => [.PWR_STAT, .PWR_EVT, .PWR_IEN, .PWR_DSTAT0, .PWR_DSTAT1, .PWR_DON0, .PWR_DON1, .PWR_DOFF0, .PWR_DOFF1, .PWR_SEQ, .PWR_DLLAST, .PWR_DLCNT, .PWR_HUCFG, .PWR_HUACK, .PWR_HUTIME_LO, .PWR_HUTIME_HI, .PWR_INPUT, .PWR_WAKE]
  | 3 => [.CMD_STAT, .CMD_RBASE_LO, .CMD_RBASE_HI, .CMD_PBASE_LO, .CMD_PBASE_HI, .CMD_RCFG, .CMD_RCTL, .CMD_DB, .CMD_HEAD, .CMD_TAIL, .CMD_PTAIL, .CMD_PHEAD, .CMD_RSTAT, .CMD_RSEQ, .CMD_OVFCNT]
  | 4 => [.TMB_STAT, .TMB_EVT, .TMB_IEN, .TMB_NOW_LO, .TMB_NOW_HI, .TMB_OFS, .TMB_FREQ, .TMB_SRC0, .TMB_SRC1, .TMB_CFG, .TMB_HOLD, .TMB_UTCOFS, .TMB_UTCSEC_LO, .TMB_UTCSEC_HI, .TMB_MEAS, .TMB_IRIGDLY, .TMB_PPSDLY, .TMB_PPSOUT, .TMB_MEASSRC, .TMB_IRIGST]
  | 5 => [.TKG_RATE, .TKG_CTL, .TKG_EFFSEC_LO, .TKG_EFFSEC_HI, .TKG_STAT, .TKG_TICK_LO, .TKG_TICK_HI, .TKG_BUDGET]
  | 6 => [.TMR_CTL, .TMR_TOP, .TMR_CNT, .TMR_STAT, .TMR_IEN, .TMR_LATCH, .TMR_CMP, .TMR_CDIR]
  | 7 => [.TSU_SWTRIG, .TSU_CCFG, .TSU_CAP_LO, .TSU_CAP_HI, .TSU_CST]
  | 8 => [.ING_STAT, .ING_EVT, .ING_IEN, .ING_UNSUB, .ING_BADPDU, .ING_AUTHF, .ING_SIMDROP, .ING_SD, .ING_GD, .ING_KEY_KID, .ING_KEY_WORLD, .ING_KEY_KEY]
  | 9 => [.ALN_EVT, .ALN_IEN, .ALN_SSTAT, .ALN_SGOOD, .ALN_SDUP, .ALN_SLATE, .ALN_SEARLY, .ALN_SDROP, .ALN_SABS, .ALN_SGAP, .ALN_GSTAT, .ALN_STNUM, .ALN_SQNUM, .ALN_GDROP]
  | 10 => [.CMB_CFG, .CMB_EVT, .CMB_IEN, .CMB_PRES_LO, .CMB_PRES_HI, .CMB_ABSCNT, .CMB_LATECNT, .CMB_EARLYCNT, .CMB_FLUSHCNT, .CMB_CHWORLD]
  | 11 => [.HIV_STAT, .HIV_EVT, .HIV_IEN, .HIV_MAIL, .HIV_CTL, .HIV_DMAERR]
  | 12 => [.SET_EVT, .SET_IEN, .SET_VALID, .SET_PG_MASK_LO, .SET_PG_MASK_HI, .SET_PG_TICK_LO, .SET_PG_TICK_HI, .SET_PG_CTL, .SET_PG_SWAP_LO, .SET_PG_SWAP_HI, .SET_ESTAT, .SET_AID, .SET_SID]
  | 13 => [.TRG_EVT, .TRG_IEN, .TRG_PCFG, .TRG_PP, .TRG_PSOLO, .TRG_STICK_LO, .TRG_STICK_HI, .TRG_PSTAT, .TRG_VOTED, .TRG_EVEN, .TRG_ODD, .TRG_ALMCNT]
  | 14 => [.PUB_EVT, .PUB_IEN, .PUB_DROP, .PUB_CFG, .PUB_TMIN, .PUB_TMAX, .PUB_MKIND0, .PUB_MKIND1, .PUB_STNUM, .PUB_SQNUM, .PUB_LASTCHG_LO, .PUB_LASTCHG_HI, .PUB_VAL]
  | 15 => [.JRN_STAT, .JRN_EVT, .JRN_IEN, .JRN_CFG, .JRN_STGBASE_LO, .JRN_STGBASE_HI, .JRN_DRBASE_LO, .JRN_DRBASE_HI, .JRN_DRSIZE, .JRN_ONEXT_LO, .JRN_ONEXT_HI, .JRN_SNEXT_LO, .JRN_SNEXT_HI, .JRN_UNFL, .JRN_LOST, .JRN_WEARO, .JRN_WEARS, .JRN_WEARD, .JRN_DRPOST, .JRN_DRLAST, .JRN_DRCH]
  | 16 => [.IC_PSET, .IC_PCLR, .IC_ESET, .IC_ECLR, .IC_ACT, .IC_REARM, .IC_CLAIM, .IC_QCLAIM, .IC_COMPL, .IC_TSTAT, .IC_SRC]
  | 17 => [.WDG_CTL, .WDG_OPEN, .WDG_CLOSE, .WDG_GRACE, .WDG_SVC, .WDG_STAT, .WDG_EXPCNT]
  | 18 => [.NOC_STAT, .NOC_FW_BASE_LO, .NOC_FW_BASE_HI, .NOC_FW_SIZE, .NOC_FW_CTL, .NOC_PQOS, .NOC_MAXWAIT]
  | 19 => [.HN_STAT, .HN_EVT, .HN_IEN, .HN_BACKINV, .HN_FWCNT]
  | 20 => [.DMC_CTL, .DMC_CFG, .DMC_HCH_LO, .DMC_HCH_HI, .DMC_HBG0_LO, .DMC_HBG0_HI, .DMC_HBG1_LO, .DMC_HBG1_HI, .DMC_HBA0_LO, .DMC_HBA0_HI, .DMC_HBA1_LO, .DMC_HBA1_HI, .DMC_PTGT, .DMC_PCFG, .DMC_PMISS, .DMC_PMAX, .DMC_CSTAT, .DMC_RH, .DMC_RHCNT, .DMC_CECNT, .DMC_UECNT, .DMC_SCRUB, .DMC_SCRUBPOS]
  | 21 => [.ETH_STAT, .ETH_CFG, .ETH_EVT, .ETH_IEN, .ETH_MAC_LO, .ETH_MAC_HI, .ETH_TSCORR, .ETH_ASYM, .ETH_PTPCFG, .ETH_PTPPRI, .ETH_RXBASE_LO, .ETH_RXBASE_HI, .ETH_TXBASE_LO, .ETH_TXBASE_HI, .ETH_RING, .ETH_RXHEAD, .ETH_RXTAIL, .ETH_TXHEAD, .ETH_TXTAIL, .ETH_RXGOOD, .ETH_RXFCS, .ETH_RXLEN, .ETH_RXFILT, .ETH_RXBUF, .ETH_RXPAUSE, .ETH_TXGOOD, .ETH_DUPDISC, .ETH_WRONGLAN, .ETH_HSRFWD, .ETH_HSRDROP, .ETH_HSROWN, .ETH_SUPRX, .ETH_DUPEVICT, .ETH_VLAN]
  | 25 => [.BLK_EVT, .BLK_IEN, .BLK_LCFG, .BLK_LSTAT, .BLK_OUT, .BLK_IN, .BLK_HSMW, .BLK_EVBASE_LO, .BLK_EVBASE_HI, .BLK_EVCFG, .BLK_EVWR, .BLK_EVRD, .BLK_BADCNT, .BLK_CMDDROP, .BLK_EVLOST, .BLK_LOSSCNT]
  | 26 => [.DBG_STAT, .DBG_EVT, .DBG_IEN, .DBG_KEEPPRI, .DBG_CCTL, .DBG_CREQ, .DBG_CSTAT, .DBG_CM, .DBG_IAC_ALO_LO, .DBG_IAC_ALO_HI, .DBG_IAC_AHI_LO, .DBG_IAC_AHI_HI, .DBG_IAC_CTL, .DBG_DWP_ALO_LO, .DBG_DWP_ALO_HI, .DBG_DWP_AHI_LO, .DBG_DWP_AHI_HI, .DBG_DWP_CTL, .DBG_DVC_VAL_LO, .DBG_DVC_VAL_HI, .DBG_DVC_MASK_LO, .DBG_DVC_MASK_HI, .DBG_DTX, .DBG_DRX, .DBG_DCCSTAT]
  | 27 => [.TRC_CTL, .TRC_STAT, .TRC_EVT, .TRC_IEN, .TRC_WPTR, .TRC_RPAGE, .TRC_LOST, .TRC_SW, .TRC_WIN]
  | 28 => [.PMU_CTL, .PMU_OVF, .PMU_IEN, .PMU_EVSEL, .PMU_CNT_LO, .PMU_CNT_HI, .PMU_ECTL, .PMU_EOVF, .PMU_EIEN, .PMU_ESEL, .PMU_ECNT]
  | 29 => [.HLT_EVT, .HLT_IEN, .HLT_THR, .HLT_THRSTAT, .HLT_TJ, .HLT_TJMAX, .HLT_MON_VAL, .HLT_MON_THRESH, .HLT_MON_CFG, .HLT_MON_CNT]
  | 30 => [.ERR_SUM0, .ERR_SUM1, .ERR_STAT, .ERR_ADDR_LO, .ERR_ADDR_HI, .ERR_INFO, .ERR_TIME_LO, .ERR_TIME_HI, .ERR_OVF, .ERR_CECNT]
  | 99 => [.PE_STAT, .PE_CTL, .PE_RUNTICK_LO, .PE_RUNTICK_HI, .PE_FAULT0, .PE_FAULT1, .PE_FCNT, .PE_CASTID, .PE_OUTSTAT, .PE_LATECNT, .PE_EVTDROP, .PE_BRK, .PE_DBG, .PE_STEP, .PE_WCET, .PE_CTX_BIND, .PE_CTX_ENTRY, .PE_CTX_PC, .PE_CTX_CSTAT]
  | _ => []

/-- Place and fields of each register. -/
def RName.info : RName → RegInfo
  | .SVP_STAT => ⟨0, 0x0, 0x0, 1, 0x0, 1, [(0, 0, .r), (1, 1, .r), (2, 2, .r), (3, 3, .r), (6, 4, .r)]⟩
  | .SVP_MISCNT => ⟨0, 0x4, 0x0, 1, 0x0, 1, [(15, 0, .r)]⟩
  | .SVP_RSTTIME_LO => ⟨0, 0x8, 0x0, 1, 0x0, 1, [(31, 0, .r)]⟩
  | .SVP_RSTTIME_HI => ⟨0, 0xc, 0x0, 1, 0x0, 1, [(31, 0, .r)]⟩
  | .SVP_CTL => ⟨0, 0x10, 0x0, 1, 0x0, 1, [(0, 0, .rw)]⟩
  | .SVP_FWVER => ⟨0, 0x14, 0x0, 1, 0x0, 1, [(15, 0, .r), (31, 16, .r)]⟩
  | .LCS_STATE => ⟨1, 0x0, 0x0, 1, 0x0, 1, [(2, 0, .r), (3, 3, .r), (11, 4, .r)]⟩
  | .LCS_ARB => ⟨1, 0x4, 0x0, 1, 0x0, 1, [(6, 0, .r), (14, 8, .r)]⟩
  | .LCS_KEYS => ⟨1, 0x8, 0x0, 1, 0x0, 1, [(15, 0, .r)]⟩
  | .LCS_NONCE => ⟨1, 0x10, 0x4, 4, 0x0, 1, [(31, 0, .r)]⟩
  | .LCS_DBG => ⟨1, 0x20, 0x0, 1, 0x0, 1, [(1, 0, .r)]⟩
  | .LCS_BOOT => ⟨1, 0x24, 0x0, 1, 0x0, 1, [(3, 0, .r), (7, 4, .r), (8, 8, .r), (12, 9, .r)]⟩
  | .LCS_DIEID_LO => ⟨1, 0x28, 0x0, 1, 0x0, 1, [(31, 0, .r)]⟩
  | .LCS_DIEID_HI => ⟨1, 0x2c, 0x0, 1, 0x0, 1, [(31, 0, .r)]⟩
  | .PWR_STAT => ⟨2, 0x0, 0x0, 1, 0x0, 1, [(2, 0, .r), (6, 4, .r), (8, 8, .r), (9, 9, .r), (10, 10, .r), (11, 11, .r), (14, 12, .r), (15, 15, .r)]⟩
  | .PWR_EVT => ⟨2, 0x4, 0x0, 1, 0x0, 1, [(0, 0, .w1c), (1, 1, .w1c), (2, 2, .w1c), (3, 3, .w1c), (4, 4, .w1c)]⟩
  | .PWR_IEN => ⟨2, 0x8, 0x0, 1, 0x0, 1, [(4, 0, .rw)]⟩
  | .PWR_DSTAT0 => ⟨2, 0x10, 0x0, 1, 0x0, 1, [(31, 0, .r)]⟩
  | .PWR_DSTAT1 => ⟨2, 0x14, 0x0, 1, 0x0, 1, [(0, 0, .r), (1, 1, .r)]⟩
  | .PWR_DON0 => ⟨2, 0x18, 0x0, 1, 0x0, 1, [(31, 0, .wo)]⟩
  | .PWR_DON1 => ⟨2, 0x1c, 0x0, 1, 0x0, 1, [(0, 0, .wo)]⟩
  | .PWR_DOFF0 => ⟨2, 0x20, 0x0, 1, 0x0, 1, [(31, 0, .wo)]⟩
  | .PWR_DOFF1 => ⟨2, 0x24, 0x0, 1, 0x0, 1, [(0, 0, .wo)]⟩
  | .PWR_SEQ => ⟨2, 0x28, 0x0, 1, 0x0, 1, [(5, 0, .r), (6, 6, .r), (13, 8, .r)]⟩
  | .PWR_DLLAST => ⟨2, 0x30, 0x0, 1, 0x0, 1, [(5, 0, .r), (23, 8, .r)]⟩
  | .PWR_DLCNT => ⟨2, 0x34, 0x0, 1, 0x0, 1, [(15, 0, .rc)]⟩
  | .PWR_HUCFG => ⟨2, 0x40, 0x0, 1, 0x0, 1, [(2, 0, .rw)]⟩
  | .PWR_HUACK => ⟨2, 0x44, 0x0, 1, 0x0, 1, [(7, 0, .wo)]⟩
  | .PWR_HUTIME_LO => ⟨2, 0x48, 0x0, 1, 0x0, 1, [(31, 0, .r)]⟩
  | .PWR_HUTIME_HI => ⟨2, 0x4c, 0x0, 1, 0x0, 1, [(31, 0, .r)]⟩
  | .PWR_INPUT => ⟨2, 0x50, 0x0, 1, 0x0, 1, [(9, 0, .r), (25, 16, .r)]⟩
  | .PWR_WAKE => ⟨2, 0x58, 0x0, 1, 0x0, 1, [(2, 0, .r)]⟩
  | .CMD_STAT => ⟨3, 0x0, 0x0, 1, 0x0, 1, [(0, 0, .r), (1, 1, .r), (2, 2, .r), (7, 4, .r)]⟩
  | .CMD_RBASE_LO => ⟨3, 0x100, 0x40, 16, 0x0, 1, [(31, 12, .rw)]⟩
  | .CMD_RBASE_HI => ⟨3, 0x104, 0x40, 16, 0x0, 1, [(7, 0, .rw)]⟩
  | .CMD_PBASE_LO => ⟨3, 0x108, 0x40, 16, 0x0, 1, [(31, 12, .rw)]⟩
  | .CMD_PBASE_HI => ⟨3, 0x10c, 0x40, 16, 0x0, 1, [(7, 0, .rw)]⟩
  | .CMD_RCFG => ⟨3, 0x110, 0x40, 16, 0x0, 1, [(3, 0, .rw), (8, 8, .r), (9, 9, .r)]⟩
  | .CMD_RCTL => ⟨3, 0x114, 0x40, 16, 0x0, 1, [(0, 0, .rw), (1, 1, .wo), (2, 2, .rw), (3, 3, .rw)]⟩
  | .CMD_DB => ⟨3, 0x118, 0x40, 16, 0x0, 1, [(15, 0, .wo)]⟩
  | .CMD_HEAD => ⟨3, 0x11c, 0x40, 16, 0x0, 1, [(15, 0, .r)]⟩
  | .CMD_TAIL => ⟨3, 0x120, 0x40, 16, 0x0, 1, [(15, 0, .r)]⟩
  | .CMD_PTAIL => ⟨3, 0x124, 0x40, 16, 0x0, 1, [(15, 0, .r)]⟩
  | .CMD_PHEAD => ⟨3, 0x128, 0x40, 16, 0x0, 1, [(15, 0, .rw)]⟩
  | .CMD_RSTAT => ⟨3, 0x12c, 0x40, 16, 0x0, 1, [(0, 0, .w1c), (1, 1, .w1c), (2, 2, .r), (3, 3, .r), (4, 4, .w1c), (10, 8, .r)]⟩
  | .CMD_RSEQ => ⟨3, 0x130, 0x40, 16, 0x0, 1, [(31, 0, .rw)]⟩
  | .CMD_OVFCNT => ⟨3, 0x134, 0x40, 16, 0x0, 1, [(15, 0, .rc)]⟩
  | .TMB_STAT => ⟨4, 0x0, 0x0, 1, 0x0, 1, [(2, 0, .r), (3, 3, .r), (11, 4, .r), (12, 12, .r), (13, 13, .rw)]⟩
  | .TMB_EVT => ⟨4, 0x4, 0x0, 1, 0x0, 1, [(0, 0, .w1c), (1, 1, .w1c), (2, 2, .w1c), (3, 3, .w1c), (4, 4, .w1c), (5, 5, .w1c), (6, 6, .w1c)]⟩
  | .TMB_IEN => ⟨4, 0x8, 0x0, 1, 0x0, 1, [(6, 0, .rw)]⟩
  | .TMB_NOW_LO => ⟨4, 0x10, 0x0, 1, 0x0, 1, [(31, 0, .r)]⟩
  | .TMB_NOW_HI => ⟨4, 0x14, 0x0, 1, 0x0, 1, [(31, 0, .r)]⟩
  | .TMB_OFS => ⟨4, 0x18, 0x0, 1, 0x0, 1, [(31, 0, .r)]⟩
  | .TMB_FREQ => ⟨4, 0x1c, 0x0, 1, 0x0, 1, [(31, 0, .r)]⟩
  | .TMB_SRC0 => ⟨4, 0x20, 0x0, 1, 0x0, 1, [(7, 0, .rw), (15, 8, .rw), (23, 16, .rw), (31, 24, .rw)]⟩
  | .TMB_SRC1 => ⟨4, 0x24, 0x0, 1, 0x0, 1, [(7, 0, .rw), (15, 8, .rw), (23, 16, .rw), (31, 24, .rw)]⟩
  | .TMB_CFG => ⟨4, 0x28, 0x0, 1, 0x0, 1, [(15, 0, .rw), (19, 16, .rw), (23, 20, .rw), (31, 24, .rw)]⟩
  | .TMB_HOLD => ⟨4, 0x2c, 0x0, 1, 0x0, 1, [(15, 0, .rw), (31, 16, .r)]⟩
  | .TMB_UTCOFS => ⟨4, 0x30, 0x0, 1, 0x0, 1, [(15, 0, .rw), (31, 16, .rw)]⟩
  | .TMB_UTCSEC_LO => ⟨4, 0x34, 0x0, 1, 0x0, 1, [(31, 0, .rw)]⟩
  | .TMB_UTCSEC_HI => ⟨4, 0x38, 0x0, 1, 0x0, 1, [(1, 0, .rw)]⟩
  | .TMB_MEAS => ⟨4, 0x3c, 0x0, 1, 0x0, 1, [(31, 0, .wo)]⟩
  | .TMB_IRIGDLY => ⟨4, 0x40, 0x0, 1, 0x0, 1, [(15, 0, .rw)]⟩
  | .TMB_PPSDLY => ⟨4, 0x44, 0x0, 1, 0x0, 1, [(15, 0, .rw)]⟩
  | .TMB_PPSOUT => ⟨4, 0x48, 0x0, 1, 0x0, 1, [(9, 0, .rw), (16, 16, .rw)]⟩
  | .TMB_MEASSRC => ⟨4, 0x4c, 0x0, 1, 0x0, 1, [(7, 0, .rw)]⟩
  | .TMB_IRIGST => ⟨4, 0x50, 0x0, 1, 0x0, 1, [(3, 0, .r), (4, 4, .r), (5, 5, .r), (15, 8, .rc)]⟩
  | .TKG_RATE => ⟨5, 0x0, 0x0, 1, 0x0, 1, [(2, 0, .r)]⟩
  | .TKG_CTL => ⟨5, 0x4, 0x0, 1, 0x0, 1, [(0, 0, .rw), (3, 1, .rw)]⟩
  | .TKG_EFFSEC_LO => ⟨5, 0x8, 0x0, 1, 0x0, 1, [(31, 0, .rw)]⟩
  | .TKG_EFFSEC_HI => ⟨5, 0xc, 0x0, 1, 0x0, 1, [(1, 0, .rw)]⟩
  | .TKG_STAT => ⟨5, 0x10, 0x0, 1, 0x0, 1, [(13, 0, .r), (16, 16, .w1c), (17, 17, .w1c), (18, 18, .w1c)]⟩
  | .TKG_TICK_LO => ⟨5, 0x18, 0x0, 1, 0x0, 1, [(31, 0, .r)]⟩
  | .TKG_TICK_HI => ⟨5, 0x1c, 0x0, 1, 0x0, 1, [(31, 0, .r)]⟩
  | .TKG_BUDGET => ⟨5, 0x20, 0x0, 1, 0x0, 1, [(17, 0, .r)]⟩
  | .TMR_CTL => ⟨6, 0x100, 0x40, 16, 0x0, 1, [(0, 0, .rw), (1, 1, .rw), (2, 2, .rw), (4, 3, .rw), (8, 5, .rw), (10, 9, .rw), (16, 16, .r)]⟩
  | .TMR_TOP => ⟨6, 0x104, 0x40, 16, 0x0, 1, [(31, 0, .rw)]⟩
  | .TMR_CNT => ⟨6, 0x108, 0x40, 16, 0x0, 1, [(31, 0, .rw)]⟩
  | .TMR_STAT => ⟨6, 0x10c, 0x40, 16, 0x0, 1, [(3, 0, .w1c), (4, 4, .w1c), (5, 5, .w1c), (6, 6, .w1c), (7, 7, .r), (8, 8, .r)]⟩
  | .TMR_IEN => ⟨6, 0x110, 0x40, 16, 0x0, 1, [(6, 0, .rw)]⟩
  | .TMR_LATCH => ⟨6, 0x114, 0x40, 16, 0x0, 1, [(31, 0, .r)]⟩
  | .TMR_CMP => ⟨6, 0x120, 0x40, 16, 0x4, 4, [(31, 0, .rw)]⟩
  | .TMR_CDIR => ⟨6, 0x130, 0x40, 16, 0x0, 1, [(1, 0, .rw), (3, 2, .rw), (5, 4, .rw), (7, 6, .rw)]⟩
  | .TSU_SWTRIG => ⟨7, 0x0, 0x4, 2, 0x0, 1, [(31, 0, .wo)]⟩
  | .TSU_CCFG => ⟨7, 0x100, 0x10, 64, 0x0, 1, [(7, 0, .rw), (8, 8, .rw), (16, 16, .r)]⟩
  | .TSU_CAP_LO => ⟨7, 0x104, 0x10, 64, 0x0, 1, [(31, 0, .r)]⟩
  | .TSU_CAP_HI => ⟨7, 0x108, 0x10, 64, 0x0, 1, [(31, 0, .r)]⟩
  | .TSU_CST => ⟨7, 0x10c, 0x10, 64, 0x0, 1, [(0, 0, .w1c), (1, 1, .w1c), (15, 8, .r)]⟩
  | .ING_STAT => ⟨8, 0x0, 0x0, 1, 0x0, 1, [(9, 0, .r), (18, 10, .r)]⟩
  | .ING_EVT => ⟨8, 0x4, 0x0, 1, 0x0, 1, [(0, 0, .w1c), (1, 1, .w1c), (2, 2, .w1c)]⟩
  | .ING_IEN => ⟨8, 0x8, 0x0, 1, 0x0, 1, [(2, 0, .rw)]⟩
  | .ING_UNSUB => ⟨8, 0x10, 0x0, 1, 0x0, 1, [(31, 0, .rc)]⟩
  | .ING_BADPDU => ⟨8, 0x14, 0x0, 1, 0x0, 1, [(31, 0, .rc)]⟩
  | .ING_AUTHF => ⟨8, 0x18, 0x0, 1, 0x0, 1, [(31, 0, .rc)]⟩
  | .ING_SIMDROP => ⟨8, 0x1c, 0x0, 1, 0x0, 1, [(31, 0, .rc)]⟩
  | .ING_SD => ⟨8, 0x1000, 0x40, 512, 0x4, 16, [(31, 0, .rw)]⟩
  | .ING_GD => ⟨8, 0x9000, 0x40, 256, 0x4, 16, [(31, 0, .rw)]⟩
  | .ING_KEY_KID => ⟨8, 0xd000, 0x40, 32, 0x0, 1, [(31, 0, .wo)]⟩
  | .ING_KEY_WORLD => ⟨8, 0xd004, 0x40, 32, 0x0, 1, [(0, 0, .wo)]⟩
  | .ING_KEY_KEY => ⟨8, 0xd020, 0x40, 32, 0x4, 8, [(31, 0, .wo)]⟩
  | .ALN_EVT => ⟨9, 0x4, 0x0, 1, 0x0, 1, [(0, 0, .w1c), (1, 1, .w1c), (2, 2, .w1c), (3, 3, .w1c)]⟩
  | .ALN_IEN => ⟨9, 0x8, 0x0, 1, 0x0, 1, [(3, 0, .rw)]⟩
  | .ALN_SSTAT => ⟨9, 0x1000, 0x20, 512, 0x0, 1, [(1, 0, .r), (2, 2, .r), (3, 3, .w1c), (4, 4, .r), (12, 5, .r), (28, 13, .r)]⟩
  | .ALN_SGOOD => ⟨9, 0x1004, 0x20, 512, 0x0, 1, [(31, 0, .rc)]⟩
  | .ALN_SDUP => ⟨9, 0x1008, 0x20, 512, 0x0, 1, [(31, 0, .rc)]⟩
  | .ALN_SLATE => ⟨9, 0x100c, 0x20, 512, 0x0, 1, [(31, 0, .rc)]⟩
  | .ALN_SEARLY => ⟨9, 0x1010, 0x20, 512, 0x0, 1, [(31, 0, .rc)]⟩
  | .ALN_SDROP => ⟨9, 0x1014, 0x20, 512, 0x0, 1, [(31, 0, .rc)]⟩
  | .ALN_SABS => ⟨9, 0x1018, 0x20, 512, 0x0, 1, [(31, 0, .rc)]⟩
  | .ALN_SGAP => ⟨9, 0x101c, 0x20, 512, 0x0, 1, [(31, 0, .rc)]⟩
  | .ALN_GSTAT => ⟨9, 0x5000, 0x10, 256, 0x0, 1, [(0, 0, .r), (1, 1, .r)]⟩
  | .ALN_STNUM => ⟨9, 0x5004, 0x10, 256, 0x0, 1, [(31, 0, .r)]⟩
  | .ALN_SQNUM => ⟨9, 0x5008, 0x10, 256, 0x0, 1, [(31, 0, .r)]⟩
  | .ALN_GDROP => ⟨9, 0x500c, 0x10, 256, 0x0, 1, [(31, 0, .rc)]⟩
  | .CMB_CFG => ⟨10, 0x0, 0x0, 1, 0x0, 1, [(12, 0, .rw), (16, 13, .rw), (23, 17, .rw), (24, 24, .rw)]⟩
  | .CMB_EVT => ⟨10, 0x8, 0x0, 1, 0x0, 1, [(0, 0, .w1c), (1, 1, .w1c)]⟩
  | .CMB_IEN => ⟨10, 0xc, 0x0, 1, 0x0, 1, [(1, 0, .rw)]⟩
  | .CMB_PRES_LO => ⟨10, 0x10, 0x0, 1, 0x0, 1, [(31, 0, .r)]⟩
  | .CMB_PRES_HI => ⟨10, 0x14, 0x0, 1, 0x0, 1, [(31, 0, .r)]⟩
  | .CMB_ABSCNT => ⟨10, 0x18, 0x0, 1, 0x0, 1, [(31, 0, .rc)]⟩
  | .CMB_LATECNT => ⟨10, 0x1c, 0x0, 1, 0x0, 1, [(31, 0, .rc)]⟩
  | .CMB_EARLYCNT => ⟨10, 0x20, 0x0, 1, 0x0, 1, [(31, 0, .rc)]⟩
  | .CMB_FLUSHCNT => ⟨10, 0x24, 0x0, 1, 0x0, 1, [(31, 0, .rc)]⟩
  | .CMB_CHWORLD => ⟨10, 0x100, 0x4, 128, 0x0, 1, [(31, 0, .rw)]⟩
  | .HIV_STAT => ⟨11, 0x0, 0x100, 8, 0x0, 1, [(7, 0, .r), (15, 8, .r), (16, 16, .r)]⟩
  | .HIV_EVT => ⟨11, 0x4, 0x100, 8, 0x0, 1, [(7, 0, .w1c), (15, 8, .w1c)]⟩
  | .HIV_IEN => ⟨11, 0x8, 0x100, 8, 0x0, 1, [(15, 0, .rw)]⟩
  | .HIV_MAIL => ⟨11, 0xc, 0x100, 8, 0x0, 1, [(7, 0, .wo)]⟩
  | .HIV_CTL => ⟨11, 0x10, 0x100, 8, 0x0, 1, [(0, 0, .rw)]⟩
  | .HIV_DMAERR => ⟨11, 0x14, 0x100, 8, 0x0, 1, [(31, 0, .rc)]⟩
  | .SET_EVT => ⟨12, 0x0, 0x0, 1, 0x0, 1, [(15, 0, .w1c), (31, 16, .w1c)]⟩
  | .SET_IEN => ⟨12, 0x4, 0x0, 1, 0x0, 1, [(31, 0, .rw)]⟩
  | .SET_VALID => ⟨12, 0x8, 0x4, 2, 0x0, 1, [(31, 0, .w1s)]⟩
  | .SET_PG_MASK_LO => ⟨12, 0x100, 0x20, 16, 0x0, 1, [(31, 0, .rw)]⟩
  | .SET_PG_MASK_HI => ⟨12, 0x104, 0x20, 16, 0x0, 1, [(31, 0, .rw)]⟩
  | .SET_PG_TICK_LO => ⟨12, 0x108, 0x20, 16, 0x0, 1, [(31, 0, .rw)]⟩
  | .SET_PG_TICK_HI => ⟨12, 0x10c, 0x20, 16, 0x0, 1, [(31, 0, .rw)]⟩
  | .SET_PG_CTL => ⟨12, 0x110, 0x20, 16, 0x0, 1, [(0, 0, .rw), (1, 1, .w1c), (2, 2, .w1c), (3, 3, .w1c), (9, 4, .r)]⟩
  | .SET_PG_SWAP_LO => ⟨12, 0x114, 0x20, 16, 0x0, 1, [(31, 0, .r)]⟩
  | .SET_PG_SWAP_HI => ⟨12, 0x118, 0x20, 16, 0x0, 1, [(31, 0, .r)]⟩
  | .SET_ESTAT => ⟨12, 0x400, 0x10, 64, 0x0, 1, [(0, 0, .r), (1, 1, .r), (2, 2, .r), (3, 3, .r), (7, 4, .r)]⟩
  | .SET_AID => ⟨12, 0x404, 0x10, 64, 0x0, 1, [(31, 0, .r)]⟩
  | .SET_SID => ⟨12, 0x408, 0x10, 64, 0x0, 1, [(31, 0, .r)]⟩
  | .TRG_EVT => ⟨13, 0x0, 0x0, 1, 0x0, 1, [(2, 0, .w1c)]⟩
  | .TRG_IEN => ⟨13, 0x4, 0x0, 1, 0x0, 1, [(2, 0, .rw)]⟩
  | .TRG_PCFG => ⟨13, 0x100, 0x40, 32, 0x0, 1, [(1, 0, .rw), (3, 2, .r), (4, 4, .rw)]⟩
  | .TRG_PP => ⟨13, 0x104, 0x40, 32, 0x0, 1, [(17, 0, .rw)]⟩
  | .TRG_PSOLO => ⟨13, 0x108, 0x40, 32, 0x0, 1, [(1, 0, .rw), (2, 2, .rw)]⟩
  | .TRG_STICK_LO => ⟨13, 0x10c, 0x40, 32, 0x0, 1, [(31, 0, .rw)]⟩
  | .TRG_STICK_HI => ⟨13, 0x110, 0x40, 32, 0x0, 1, [(31, 0, .rw)]⟩
  | .TRG_PSTAT => ⟨13, 0x114, 0x40, 32, 0x0, 1, [(4, 0, .w1c), (8, 8, .r)]⟩
  | .TRG_VOTED => ⟨13, 0x118, 0x40, 32, 0x0, 1, [(31, 0, .r)]⟩
  | .TRG_EVEN => ⟨13, 0x11c, 0x40, 32, 0x0, 1, [(31, 0, .r)]⟩
  | .TRG_ODD => ⟨13, 0x120, 0x40, 32, 0x0, 1, [(31, 0, .r)]⟩
  | .TRG_ALMCNT => ⟨13, 0x124, 0x40, 32, 0x0, 1, [(31, 0, .rc)]⟩
  | .PUB_EVT => ⟨14, 0x0, 0x0, 1, 0x0, 1, [(3, 0, .w1c)]⟩
  | .PUB_IEN => ⟨14, 0x4, 0x0, 1, 0x0, 1, [(3, 0, .rw)]⟩
  | .PUB_DROP => ⟨14, 0x10, 0x4, 4, 0x0, 1, [(31, 0, .rc)]⟩
  | .PUB_CFG => ⟨14, 0x1000, 0x40, 128, 0x0, 1, [(0, 0, .rw), (4, 1, .rw), (7, 5, .rw), (13, 8, .rw), (16, 14, .rw), (17, 17, .r), (18, 18, .r)]⟩
  | .PUB_TMIN => ⟨14, 0x1004, 0x40, 128, 0x0, 1, [(15, 0, .rw)]⟩
  | .PUB_TMAX => ⟨14, 0x1008, 0x40, 128, 0x0, 1, [(15, 0, .rw)]⟩
  | .PUB_MKIND0 => ⟨14, 0x100c, 0x40, 128, 0x0, 1, [(31, 0, .rw)]⟩
  | .PUB_MKIND1 => ⟨14, 0x1010, 0x40, 128, 0x0, 1, [(31, 0, .rw)]⟩
  | .PUB_STNUM => ⟨14, 0x1014, 0x40, 128, 0x0, 1, [(31, 0, .r)]⟩
  | .PUB_SQNUM => ⟨14, 0x1018, 0x40, 128, 0x0, 1, [(31, 0, .r)]⟩
  | .PUB_LASTCHG_LO => ⟨14, 0x101c, 0x40, 128, 0x0, 1, [(31, 0, .r)]⟩
  | .PUB_LASTCHG_HI => ⟨14, 0x1020, 0x40, 128, 0x0, 1, [(31, 0, .r)]⟩
  | .PUB_VAL => ⟨14, 0x1024, 0x40, 128, 0x0, 1, [(31, 0, .r)]⟩
  | .JRN_STAT => ⟨15, 0x0, 0x0, 1, 0x0, 1, [(0, 0, .r), (1, 1, .r), (15, 8, .r)]⟩
  | .JRN_EVT => ⟨15, 0x4, 0x0, 1, 0x0, 1, [(0, 0, .w1c), (1, 1, .w1c), (2, 2, .w1c), (3, 3, .w1c), (4, 4, .w1c)]⟩
  | .JRN_IEN => ⟨15, 0x8, 0x0, 1, 0x0, 1, [(4, 0, .rw)]⟩
  | .JRN_CFG => ⟨15, 0xc, 0x0, 1, 0x0, 1, [(0, 0, .rw), (15, 8, .rw)]⟩
  | .JRN_STGBASE_LO => ⟨15, 0x10, 0x0, 1, 0x0, 1, [(31, 22, .rw)]⟩
  | .JRN_STGBASE_HI => ⟨15, 0x14, 0x0, 1, 0x0, 1, [(7, 0, .rw)]⟩
  | .JRN_DRBASE_LO => ⟨15, 0x18, 0x0, 1, 0x0, 1, [(31, 22, .rw)]⟩
  | .JRN_DRBASE_HI => ⟨15, 0x1c, 0x0, 1, 0x0, 1, [(7, 0, .rw)]⟩
  | .JRN_DRSIZE => ⟨15, 0x20, 0x0, 1, 0x0, 1, [(11, 0, .rw)]⟩
  | .JRN_ONEXT_LO => ⟨15, 0x28, 0x0, 1, 0x0, 1, [(31, 0, .r)]⟩
  | .JRN_ONEXT_HI => ⟨15, 0x2c, 0x0, 1, 0x0, 1, [(31, 0, .r)]⟩
  | .JRN_SNEXT_LO => ⟨15, 0x30, 0x0, 1, 0x0, 1, [(31, 0, .r)]⟩
  | .JRN_SNEXT_HI => ⟨15, 0x34, 0x0, 1, 0x0, 1, [(31, 0, .r)]⟩
  | .JRN_UNFL => ⟨15, 0x38, 0x0, 1, 0x0, 1, [(22, 0, .r)]⟩
  | .JRN_LOST => ⟨15, 0x3c, 0x0, 1, 0x0, 1, [(31, 0, .rc)]⟩
  | .JRN_WEARO => ⟨15, 0x40, 0x0, 1, 0x0, 1, [(31, 0, .r)]⟩
  | .JRN_WEARS => ⟨15, 0x44, 0x0, 1, 0x0, 1, [(31, 0, .r)]⟩
  | .JRN_WEARD => ⟨15, 0x48, 0x0, 1, 0x0, 1, [(31, 0, .r)]⟩
  | .JRN_DRPOST => ⟨15, 0x50, 0x0, 1, 0x0, 1, [(15, 0, .rw)]⟩
  | .JRN_DRLAST => ⟨15, 0x54, 0x0, 1, 0x0, 1, [(31, 0, .r)]⟩
  | .JRN_DRCH => ⟨15, 0x100, 0x4, 8, 0x0, 1, [(11, 0, .rw), (24, 12, .rw)]⟩
  | .IC_PSET => ⟨16, 0x0, 0x4, 32, 0x0, 1, [(31, 0, .w1s)]⟩
  | .IC_PCLR => ⟨16, 0x80, 0x4, 32, 0x0, 1, [(31, 0, .w1c)]⟩
  | .IC_ESET => ⟨16, 0x100, 0x4, 32, 0x0, 1, [(31, 0, .w1s)]⟩
  | .IC_ECLR => ⟨16, 0x180, 0x4, 32, 0x0, 1, [(31, 0, .w1c)]⟩
  | .IC_ACT => ⟨16, 0x200, 0x4, 32, 0x0, 1, [(31, 0, .r)]⟩
  | .IC_REARM => ⟨16, 0x280, 0x0, 1, 0x0, 1, [(9, 0, .wo)]⟩
  | .IC_CLAIM => ⟨16, 0x400, 0x10, 9, 0x0, 1, [(9, 0, .rc), (31, 31, .rc)]⟩
  | .IC_QCLAIM => ⟨16, 0x404, 0x10, 9, 0x0, 1, [(9, 0, .rc), (31, 31, .rc)]⟩
  | .IC_COMPL => ⟨16, 0x408, 0x10, 9, 0x0, 1, [(9, 0, .wo), (31, 31, .wo)]⟩
  | .IC_TSTAT => ⟨16, 0x40c, 0x10, 9, 0x0, 1, [(0, 0, .r), (1, 1, .r), (2, 2, .r)]⟩
  | .IC_SRC => ⟨16, 0x1000, 0x4, 1024, 0x0, 1, [(8, 0, .rw), (9, 9, .rw), (13, 10, .rw), (16, 16, .rw), (17, 17, .r), (21, 18, .r), (25, 22, .r)]⟩
  | .WDG_CTL => ⟨17, 0x0, 0x20, 10, 0x0, 1, [(0, 0, .rw), (1, 1, .rw), (2, 2, .rw), (3, 3, .w1s), (4, 4, .rw)]⟩
  | .WDG_OPEN => ⟨17, 0x4, 0x20, 10, 0x0, 1, [(23, 0, .rw)]⟩
  | .WDG_CLOSE => ⟨17, 0x8, 0x20, 10, 0x0, 1, [(23, 0, .rw)]⟩
  | .WDG_GRACE => ⟨17, 0xc, 0x20, 10, 0x0, 1, [(23, 0, .rw)]⟩
  | .WDG_SVC => ⟨17, 0x10, 0x20, 10, 0x0, 1, [(31, 0, .wo)]⟩
  | .WDG_STAT => ⟨17, 0x14, 0x20, 10, 0x0, 1, [(23, 0, .r), (24, 24, .r), (25, 25, .r), (26, 26, .w1c), (27, 27, .w1c), (28, 28, .r)]⟩
  | .WDG_EXPCNT => ⟨17, 0x18, 0x20, 10, 0x0, 1, [(15, 0, .rc)]⟩
  | .NOC_STAT => ⟨18, 0x0, 0x0, 1, 0x0, 1, [(0, 0, .r)]⟩
  | .NOC_FW_BASE_LO => ⟨18, 0x100, 0x10, 16, 0x0, 1, [(31, 16, .rw)]⟩
  | .NOC_FW_BASE_HI => ⟨18, 0x104, 0x10, 16, 0x0, 1, [(1, 0, .rw)]⟩
  | .NOC_FW_SIZE => ⟨18, 0x108, 0x10, 16, 0x0, 1, [(18, 0, .rw)]⟩
  | .NOC_FW_CTL => ⟨18, 0x10c, 0x10, 16, 0x0, 1, [(0, 0, .rw)]⟩
  | .NOC_PQOS => ⟨18, 0x200, 0x4, 18, 0x0, 1, [(2, 0, .rw), (12, 8, .rw)]⟩
  | .NOC_MAXWAIT => ⟨18, 0x300, 0x4, 18, 0x0, 1, [(31, 0, .rc)]⟩
  | .HN_STAT => ⟨19, 0x0, 0x2000, 8, 0x0, 1, [(1, 0, .r), (2, 2, .r)]⟩
  | .HN_EVT => ⟨19, 0x4, 0x2000, 8, 0x0, 1, [(0, 0, .w1c), (1, 1, .w1c), (2, 2, .w1c)]⟩
  | .HN_IEN => ⟨19, 0x8, 0x2000, 8, 0x0, 1, [(2, 0, .rw)]⟩
  | .HN_BACKINV => ⟨19, 0x10, 0x2000, 8, 0x0, 1, [(31, 0, .rc)]⟩
  | .HN_FWCNT => ⟨19, 0x14, 0x2000, 8, 0x0, 1, [(31, 0, .rc)]⟩
  | .DMC_CTL => ⟨20, 0x0, 0x0, 1, 0x0, 1, [(0, 0, .rw)]⟩
  | .DMC_CFG => ⟨20, 0x4, 0x0, 1, 0x0, 1, [(15, 0, .rw)]⟩
  | .DMC_HCH_LO => ⟨20, 0x10, 0x0, 1, 0x0, 1, [(31, 0, .rw)]⟩
  | .DMC_HCH_HI => ⟨20, 0x14, 0x0, 1, 0x0, 1, [(7, 0, .rw)]⟩
  | .DMC_HBG0_LO => ⟨20, 0x18, 0x0, 1, 0x0, 1, [(31, 0, .rw)]⟩
  | .DMC_HBG0_HI => ⟨20, 0x1c, 0x0, 1, 0x0, 1, [(7, 0, .rw)]⟩
  | .DMC_HBG1_LO => ⟨20, 0x20, 0x0, 1, 0x0, 1, [(31, 0, .rw)]⟩
  | .DMC_HBG1_HI => ⟨20, 0x24, 0x0, 1, 0x0, 1, [(7, 0, .rw)]⟩
  | .DMC_HBA0_LO => ⟨20, 0x28, 0x0, 1, 0x0, 1, [(31, 0, .rw)]⟩
  | .DMC_HBA0_HI => ⟨20, 0x2c, 0x0, 1, 0x0, 1, [(7, 0, .rw)]⟩
  | .DMC_HBA1_LO => ⟨20, 0x30, 0x0, 1, 0x0, 1, [(31, 0, .rw)]⟩
  | .DMC_HBA1_HI => ⟨20, 0x34, 0x0, 1, 0x0, 1, [(7, 0, .rw)]⟩
  | .DMC_PTGT => ⟨20, 0x100, 0x10, 18, 0x0, 1, [(15, 0, .rw)]⟩
  | .DMC_PCFG => ⟨20, 0x104, 0x10, 18, 0x0, 1, [(1, 0, .rw)]⟩
  | .DMC_PMISS => ⟨20, 0x108, 0x10, 18, 0x0, 1, [(31, 0, .rc)]⟩
  | .DMC_PMAX => ⟨20, 0x10c, 0x10, 18, 0x0, 1, [(31, 0, .rc)]⟩
  | .DMC_CSTAT => ⟨20, 0x1000, 0x100, 2, 0x0, 1, [(0, 0, .r), (1, 1, .r), (2, 2, .r)]⟩
  | .DMC_RH => ⟨20, 0x1004, 0x100, 2, 0x0, 1, [(15, 0, .rw), (23, 16, .rw)]⟩
  | .DMC_RHCNT => ⟨20, 0x1008, 0x100, 2, 0x0, 1, [(31, 0, .rc)]⟩
  | .DMC_CECNT => ⟨20, 0x100c, 0x100, 2, 0x0, 1, [(31, 0, .rc)]⟩
  | .DMC_UECNT => ⟨20, 0x1010, 0x100, 2, 0x0, 1, [(31, 0, .rc)]⟩
  | .DMC_SCRUB => ⟨20, 0x1014, 0x100, 2, 0x0, 1, [(4, 0, .rw)]⟩
  | .DMC_SCRUBPOS => ⟨20, 0x1018, 0x100, 2, 0x0, 1, [(31, 0, .r)]⟩
  | .ETH_STAT => ⟨21, 0x0, 0x10000, 4, 0x0, 1, [(0, 0, .r), (1, 1, .r)]⟩
  | .ETH_CFG => ⟨21, 0x4, 0x10000, 4, 0x0, 1, [(0, 0, .rw), (1, 1, .rw), (2, 2, .rw), (3, 3, .rw), (4, 4, .rw), (5, 5, .rw), (7, 6, .rw)]⟩
  | .ETH_EVT => ⟨21, 0x8, 0x10000, 4, 0x0, 1, [(0, 0, .w1c), (1, 1, .w1c), (2, 2, .w1c), (3, 3, .w1c), (4, 4, .w1c), (5, 5, .w1c), (6, 6, .w1c)]⟩
  | .ETH_IEN => ⟨21, 0xc, 0x10000, 4, 0x0, 1, [(6, 0, .rw)]⟩
  | .ETH_MAC_LO => ⟨21, 0x10, 0x10000, 4, 0x0, 1, [(31, 0, .rw)]⟩
  | .ETH_MAC_HI => ⟨21, 0x14, 0x10000, 4, 0x0, 1, [(15, 0, .rw)]⟩
  | .ETH_TSCORR => ⟨21, 0x18, 0x10000, 4, 0x0, 1, [(15, 0, .rw), (31, 16, .rw)]⟩
  | .ETH_ASYM => ⟨21, 0x1c, 0x10000, 4, 0x0, 1, [(31, 0, .rw)]⟩
  | .ETH_PTPCFG => ⟨21, 0x20, 0x10000, 4, 0x0, 1, [(1, 0, .rw), (9, 2, .rw), (10, 10, .rw), (22, 11, .rw)]⟩
  | .ETH_PTPPRI => ⟨21, 0x24, 0x10000, 4, 0x0, 1, [(7, 0, .rw), (15, 8, .rw)]⟩
  | .ETH_RXBASE_LO => ⟨21, 0x40, 0x10000, 4, 0x0, 1, [(31, 12, .rw)]⟩
  | .ETH_RXBASE_HI => ⟨21, 0x44, 0x10000, 4, 0x0, 1, [(7, 0, .rw)]⟩
  | .ETH_TXBASE_LO => ⟨21, 0x48, 0x10000, 4, 0x0, 1, [(31, 12, .rw)]⟩
  | .ETH_TXBASE_HI => ⟨21, 0x4c, 0x10000, 4, 0x0, 1, [(7, 0, .rw)]⟩
  | .ETH_RING => ⟨21, 0x50, 0x10000, 4, 0x0, 1, [(3, 0, .rw), (7, 4, .rw), (8, 8, .rw), (9, 9, .rw)]⟩
  | .ETH_RXHEAD => ⟨21, 0x54, 0x10000, 4, 0x0, 1, [(15, 0, .r)]⟩
  | .ETH_RXTAIL => ⟨21, 0x58, 0x10000, 4, 0x0, 1, [(15, 0, .rw)]⟩
  | .ETH_TXHEAD => ⟨21, 0x5c, 0x10000, 4, 0x0, 1, [(15, 0, .r)]⟩
  | .ETH_TXTAIL => ⟨21, 0x60, 0x10000, 4, 0x0, 1, [(15, 0, .rw)]⟩
  | .ETH_RXGOOD => ⟨21, 0x100, 0x10000, 4, 0x0, 1, [(31, 0, .rc)]⟩
  | .ETH_RXFCS => ⟨21, 0x104, 0x10000, 4, 0x0, 1, [(31, 0, .rc)]⟩
  | .ETH_RXLEN => ⟨21, 0x108, 0x10000, 4, 0x0, 1, [(31, 0, .rc)]⟩
  | .ETH_RXFILT => ⟨21, 0x10c, 0x10000, 4, 0x0, 1, [(31, 0, .rc)]⟩
  | .ETH_RXBUF => ⟨21, 0x110, 0x10000, 4, 0x0, 1, [(31, 0, .rc)]⟩
  | .ETH_RXPAUSE => ⟨21, 0x114, 0x10000, 4, 0x0, 1, [(31, 0, .rc)]⟩
  | .ETH_TXGOOD => ⟨21, 0x118, 0x10000, 4, 0x0, 1, [(31, 0, .rc)]⟩
  | .ETH_DUPDISC => ⟨21, 0x11c, 0x10000, 4, 0x0, 1, [(31, 0, .rc)]⟩
  | .ETH_WRONGLAN => ⟨21, 0x120, 0x10000, 4, 0x0, 1, [(31, 0, .rc)]⟩
  | .ETH_HSRFWD => ⟨21, 0x124, 0x10000, 4, 0x0, 1, [(31, 0, .rc)]⟩
  | .ETH_HSRDROP => ⟨21, 0x128, 0x10000, 4, 0x0, 1, [(31, 0, .rc)]⟩
  | .ETH_HSROWN => ⟨21, 0x12c, 0x10000, 4, 0x0, 1, [(31, 0, .rc)]⟩
  | .ETH_SUPRX => ⟨21, 0x130, 0x10000, 4, 0x0, 1, [(31, 0, .rc)]⟩
  | .ETH_DUPEVICT => ⟨21, 0x134, 0x10000, 4, 0x0, 1, [(31, 0, .rc)]⟩
  | .ETH_VLAN => ⟨21, 0x400, 0x10000, 4, 0x4, 64, [(11, 0, .rw), (12, 12, .rw)]⟩
  | .BLK_EVT => ⟨25, 0x0, 0x0, 1, 0x0, 1, [(3, 0, .w1c), (7, 4, .w1c), (11, 8, .w1c), (15, 12, .w1c)]⟩
  | .BLK_IEN => ⟨25, 0x4, 0x0, 1, 0x0, 1, [(15, 0, .rw)]⟩
  | .BLK_LCFG => ⟨25, 0x100, 0x40, 4, 0x0, 1, [(0, 0, .rw), (1, 1, .rw), (5, 2, .rw), (21, 6, .rw), (29, 22, .rw)]⟩
  | .BLK_LSTAT => ⟨25, 0x104, 0x40, 4, 0x0, 1, [(1, 0, .r), (4, 2, .r), (31, 16, .r)]⟩
  | .BLK_OUT => ⟨25, 0x108, 0x40, 4, 0x0, 1, [(31, 0, .r)]⟩
  | .BLK_IN => ⟨25, 0x10c, 0x40, 4, 0x0, 1, [(31, 0, .r)]⟩
  | .BLK_HSMW => ⟨25, 0x110, 0x40, 4, 0x0, 1, [(17, 2, .rw)]⟩
  | .BLK_EVBASE_LO => ⟨25, 0x114, 0x40, 4, 0x0, 1, [(31, 12, .rw)]⟩
  | .BLK_EVBASE_HI => ⟨25, 0x118, 0x40, 4, 0x0, 1, [(7, 0, .rw)]⟩
  | .BLK_EVCFG => ⟨25, 0x11c, 0x40, 4, 0x0, 1, [(3, 0, .rw), (4, 4, .rw)]⟩
  | .BLK_EVWR => ⟨25, 0x120, 0x40, 4, 0x0, 1, [(15, 0, .r)]⟩
  | .BLK_EVRD => ⟨25, 0x124, 0x40, 4, 0x0, 1, [(15, 0, .rw)]⟩
  | .BLK_BADCNT => ⟨25, 0x128, 0x40, 4, 0x0, 1, [(31, 0, .rc)]⟩
  | .BLK_CMDDROP => ⟨25, 0x12c, 0x40, 4, 0x0, 1, [(31, 0, .rc)]⟩
  | .BLK_EVLOST => ⟨25, 0x130, 0x40, 4, 0x0, 1, [(31, 0, .rc)]⟩
  | .BLK_LOSSCNT => ⟨25, 0x134, 0x40, 4, 0x0, 1, [(31, 0, .rc)]⟩
  | .DBG_STAT => ⟨26, 0x0, 0x0, 1, 0x0, 1, [(1, 0, .r), (2, 2, .r)]⟩
  | .DBG_EVT => ⟨26, 0x4, 0x0, 1, 0x0, 1, [(7, 0, .w1c), (15, 8, .w1c), (16, 16, .w1c), (17, 17, .w1c)]⟩
  | .DBG_IEN => ⟨26, 0x8, 0x0, 1, 0x0, 1, [(17, 0, .rw)]⟩
  | .DBG_KEEPPRI => ⟨26, 0xc, 0x0, 1, 0x0, 1, [(31, 0, .rw)]⟩
  | .DBG_CCTL => ⟨26, 0x1000, 0x200, 8, 0x0, 1, [(0, 0, .rw), (1, 1, .rw)]⟩
  | .DBG_CREQ => ⟨26, 0x1004, 0x200, 8, 0x0, 1, [(0, 0, .wo)]⟩
  | .DBG_CSTAT => ⟨26, 0x1008, 0x200, 8, 0x0, 1, [(0, 0, .w1c), (4, 1, .r), (7, 5, .r), (11, 8, .r), (12, 12, .r), (13, 13, .r)]⟩
  | .DBG_CM => ⟨26, 0x1010, 0x200, 8, 0x0, 1, [(11, 0, .rw), (12, 12, .rw), (13, 13, .rw)]⟩
  | .DBG_IAC_ALO_LO => ⟨26, 0x1040, 0x200, 8, 0x20, 8, [(31, 4, .rw)]⟩
  | .DBG_IAC_ALO_HI => ⟨26, 0x1044, 0x200, 8, 0x20, 8, [(15, 0, .rw)]⟩
  | .DBG_IAC_AHI_LO => ⟨26, 0x1048, 0x200, 8, 0x20, 8, [(31, 4, .rw)]⟩
  | .DBG_IAC_AHI_HI => ⟨26, 0x104c, 0x200, 8, 0x20, 8, [(15, 0, .rw)]⟩
  | .DBG_IAC_CTL => ⟨26, 0x1050, 0x200, 8, 0x20, 8, [(0, 0, .rw), (1, 1, .rw), (3, 2, .rw), (4, 4, .rw), (8, 5, .rw)]⟩
  | .DBG_DWP_ALO_LO => ⟨26, 0x1140, 0x200, 8, 0x20, 4, [(31, 0, .rw)]⟩
  | .DBG_DWP_ALO_HI => ⟨26, 0x1144, 0x200, 8, 0x20, 4, [(15, 0, .rw)]⟩
  | .DBG_DWP_AHI_LO => ⟨26, 0x1148, 0x200, 8, 0x20, 4, [(31, 0, .rw)]⟩
  | .DBG_DWP_AHI_HI => ⟨26, 0x114c, 0x200, 8, 0x20, 4, [(15, 0, .rw)]⟩
  | .DBG_DWP_CTL => ⟨26, 0x1150, 0x200, 8, 0x20, 4, [(0, 0, .rw), (1, 1, .rw), (3, 2, .rw), (4, 4, .rw), (8, 5, .rw), (10, 9, .rw), (12, 11, .rw)]⟩
  | .DBG_DVC_VAL_LO => ⟨26, 0x11c0, 0x200, 8, 0x10, 2, [(31, 0, .rw)]⟩
  | .DBG_DVC_VAL_HI => ⟨26, 0x11c4, 0x200, 8, 0x10, 2, [(31, 0, .rw)]⟩
  | .DBG_DVC_MASK_LO => ⟨26, 0x11c8, 0x200, 8, 0x10, 2, [(31, 0, .rw)]⟩
  | .DBG_DVC_MASK_HI => ⟨26, 0x11cc, 0x200, 8, 0x10, 2, [(31, 0, .rw)]⟩
  | .DBG_DTX => ⟨26, 0x11e0, 0x200, 8, 0x0, 1, [(31, 0, .rc)]⟩
  | .DBG_DRX => ⟨26, 0x11e4, 0x200, 8, 0x0, 1, [(31, 0, .rc)]⟩
  | .DBG_DCCSTAT => ⟨26, 0x11e8, 0x200, 8, 0x0, 1, [(0, 0, .r), (1, 1, .r), (2, 2, .w1c)]⟩
  | .TRC_CTL => ⟨27, 0x0, 0x0, 1, 0x0, 1, [(0, 0, .rw), (1, 1, .rw), (2, 2, .rw), (3, 3, .wo), (12, 4, .rw)]⟩
  | .TRC_STAT => ⟨27, 0x4, 0x0, 1, 0x0, 1, [(0, 0, .r), (1, 1, .r), (2, 2, .r)]⟩
  | .TRC_EVT => ⟨27, 0x8, 0x0, 1, 0x0, 1, [(0, 0, .w1c), (1, 1, .w1c)]⟩
  | .TRC_IEN => ⟨27, 0xc, 0x0, 1, 0x0, 1, [(1, 0, .rw)]⟩
  | .TRC_WPTR => ⟨27, 0x10, 0x0, 1, 0x0, 1, [(19, 0, .r)]⟩
  | .TRC_RPAGE => ⟨27, 0x14, 0x0, 1, 0x0, 1, [(4, 0, .rw)]⟩
  | .TRC_LOST => ⟨27, 0x18, 0x0, 1, 0x0, 1, [(31, 0, .rc)]⟩
  | .TRC_SW => ⟨27, 0x100, 0x4, 8, 0x0, 1, [(31, 0, .wo)]⟩
  | .TRC_WIN => ⟨27, 0x8000, 0x4, 8192, 0x0, 1, [(31, 0, .r)]⟩
  | .PMU_CTL => ⟨28, 0x0, 0x100, 8, 0x0, 1, [(0, 0, .rw), (1, 1, .rw), (2, 2, .rw), (3, 3, .rw), (4, 4, .w1c)]⟩
  | .PMU_OVF => ⟨28, 0x4, 0x100, 8, 0x0, 1, [(7, 0, .w1c)]⟩
  | .PMU_IEN => ⟨28, 0x8, 0x100, 8, 0x0, 1, [(7, 0, .rw)]⟩
  | .PMU_EVSEL => ⟨28, 0x10, 0x100, 8, 0x4, 8, [(7, 0, .rw), (9, 8, .rw)]⟩
  | .PMU_CNT_LO => ⟨28, 0x40, 0x100, 8, 0x8, 8, [(31, 0, .rw)]⟩
  | .PMU_CNT_HI => ⟨28, 0x44, 0x100, 8, 0x8, 8, [(15, 0, .rw)]⟩
  | .PMU_ECTL => ⟨28, 0x1000, 0x40, 64, 0x0, 1, [(0, 0, .rw)]⟩
  | .PMU_EOVF => ⟨28, 0x1004, 0x40, 64, 0x0, 1, [(3, 0, .w1c)]⟩
  | .PMU_EIEN => ⟨28, 0x1008, 0x40, 64, 0x0, 1, [(3, 0, .rw)]⟩
  | .PMU_ESEL => ⟨28, 0x1010, 0x40, 64, 0x4, 4, [(5, 0, .rw), (8, 6, .rw), (9, 9, .rw)]⟩
  | .PMU_ECNT => ⟨28, 0x1020, 0x40, 64, 0x4, 4, [(31, 0, .rw)]⟩
  | .HLT_EVT => ⟨29, 0x0, 0x0, 1, 0x0, 1, [(0, 0, .w1c), (1, 1, .w1c), (2, 2, .w1c), (3, 3, .w1c), (4, 4, .w1c)]⟩
  | .HLT_IEN => ⟨29, 0x4, 0x0, 1, 0x0, 1, [(4, 0, .rw)]⟩
  | .HLT_THR => ⟨29, 0x8, 0x0, 1, 0x0, 1, [(7, 0, .rw)]⟩
  | .HLT_THRSTAT => ⟨29, 0xc, 0x0, 1, 0x0, 1, [(1, 0, .r)]⟩
  | .HLT_TJ => ⟨29, 0x10, 0x0, 1, 0x0, 1, [(15, 0, .r)]⟩
  | .HLT_TJMAX => ⟨29, 0x14, 0x0, 1, 0x0, 1, [(15, 0, .rc)]⟩
  | .HLT_MON_VAL => ⟨29, 0x100, 0x10, 75, 0x0, 1, [(15, 0, .r), (17, 16, .r), (18, 18, .r)]⟩
  | .HLT_MON_THRESH => ⟨29, 0x104, 0x10, 75, 0x0, 1, [(15, 0, .rw), (31, 16, .rw)]⟩
  | .HLT_MON_CFG => ⟨29, 0x108, 0x10, 75, 0x0, 1, [(7, 0, .rw), (31, 16, .r)]⟩
  | .HLT_MON_CNT => ⟨29, 0x10c, 0x10, 75, 0x0, 1, [(15, 0, .rc)]⟩
  | .ERR_SUM0 => ⟨30, 0x0, 0x0, 1, 0x0, 1, [(31, 0, .r)]⟩
  | .ERR_SUM1 => ⟨30, 0x4, 0x0, 1, 0x0, 1, [(9, 0, .r)]⟩
  | .ERR_STAT => ⟨30, 0x100, 0x20, 42, 0x0, 1, [(0, 0, .w1c), (1, 1, .r), (2, 2, .rw), (15, 8, .r), (20, 16, .r), (22, 21, .r)]⟩
  | .ERR_ADDR_LO => ⟨30, 0x104, 0x20, 42, 0x0, 1, [(31, 0, .r)]⟩
  | .ERR_ADDR_HI => ⟨30, 0x108, 0x20, 42, 0x0, 1, [(7, 0, .r)]⟩
  | .ERR_INFO => ⟨30, 0x10c, 0x20, 42, 0x0, 1, [(31, 0, .r)]⟩
  | .ERR_TIME_LO => ⟨30, 0x110, 0x20, 42, 0x0, 1, [(31, 0, .r)]⟩
  | .ERR_TIME_HI => ⟨30, 0x114, 0x20, 42, 0x0, 1, [(31, 0, .r)]⟩
  | .ERR_OVF => ⟨30, 0x118, 0x20, 42, 0x0, 1, [(15, 0, .rc)]⟩
  | .ERR_CECNT => ⟨30, 0x11c, 0x20, 42, 0x0, 1, [(31, 0, .rc)]⟩
  | .PE_STAT => ⟨99, 0x0, 0x100000, 64, 0x0, 1, [(1, 0, .r), (3, 3, .r), (4, 4, .w1c), (5, 5, .r), (10, 8, .r), (11, 11, .r), (23, 16, .r)]⟩
  | .PE_CTL => ⟨99, 0x4, 0x100000, 64, 0x0, 1, [(0, 0, .wo), (1, 1, .wo), (2, 2, .rw)]⟩
  | .PE_RUNTICK_LO => ⟨99, 0x8, 0x100000, 64, 0x0, 1, [(31, 0, .rw)]⟩
  | .PE_RUNTICK_HI => ⟨99, 0xc, 0x100000, 64, 0x0, 1, [(31, 0, .rw)]⟩
  | .PE_FAULT0 => ⟨99, 0x10, 0x100000, 64, 0x0, 1, [(3, 0, .r), (6, 4, .r), (7, 7, .r), (10, 8, .r), (24, 12, .r)]⟩
  | .PE_FAULT1 => ⟨99, 0x14, 0x100000, 64, 0x0, 1, [(31, 0, .r)]⟩
  | .PE_FCNT => ⟨99, 0x18, 0x100000, 64, 0x0, 1, [(15, 0, .rc)]⟩
  | .PE_CASTID => ⟨99, 0x20, 0x100000, 64, 0x0, 1, [(31, 0, .rw)]⟩
  | .PE_OUTSTAT => ⟨99, 0x24, 0x100000, 64, 0x0, 1, [(6, 0, .r)]⟩
  | .PE_LATECNT => ⟨99, 0x28, 0x100000, 64, 0x0, 1, [(31, 0, .rc)]⟩
  | .PE_EVTDROP => ⟨99, 0x2c, 0x100000, 64, 0x0, 1, [(31, 0, .rc)]⟩
  | .PE_BRK => ⟨99, 0x30, 0x100000, 64, 0x4, 2, [(12, 0, .rw), (16, 16, .rw)]⟩
  | .PE_DBG => ⟨99, 0x38, 0x100000, 64, 0x0, 1, [(7, 0, .r), (15, 8, .wo), (16, 16, .w1c), (17, 17, .r)]⟩
  | .PE_STEP => ⟨99, 0x3c, 0x100000, 64, 0x0, 1, [(15, 0, .rw), (16, 16, .rw)]⟩
  | .PE_WCET => ⟨99, 0x40, 0x100000, 64, 0x4, 8, [(17, 0, .rw)]⟩
  | .PE_CTX_BIND => ⟨99, 0x100, 0x100000, 64, 0x10, 8, [(2, 0, .rw), (3, 3, .rw), (4, 4, .rw), (16, 8, .rw)]⟩
  | .PE_CTX_ENTRY => ⟨99, 0x104, 0x100000, 64, 0x10, 8, [(12, 0, .rw)]⟩
  | .PE_CTX_PC => ⟨99, 0x108, 0x100000, 64, 0x10, 8, [(12, 0, .r)]⟩
  | .PE_CTX_CSTAT => ⟨99, 0x10c, 0x100000, 64, 0x10, 8, [(1, 0, .r), (31, 16, .rc)]⟩

/-- The _HI half of each 64-bit pair, by its _LO half (00 R2). -/
def RName.hiHalf : RName → Option RName
  | .SVP_RSTTIME_LO => some .SVP_RSTTIME_HI
  | .LCS_DIEID_LO => some .LCS_DIEID_HI
  | .PWR_HUTIME_LO => some .PWR_HUTIME_HI
  | .CMD_RBASE_LO => some .CMD_RBASE_HI
  | .CMD_PBASE_LO => some .CMD_PBASE_HI
  | .TMB_NOW_LO => some .TMB_NOW_HI
  | .TMB_UTCSEC_LO => some .TMB_UTCSEC_HI
  | .TKG_EFFSEC_LO => some .TKG_EFFSEC_HI
  | .TKG_TICK_LO => some .TKG_TICK_HI
  | .TSU_CAP_LO => some .TSU_CAP_HI
  | .CMB_PRES_LO => some .CMB_PRES_HI
  | .SET_PG_MASK_LO => some .SET_PG_MASK_HI
  | .SET_PG_TICK_LO => some .SET_PG_TICK_HI
  | .SET_PG_SWAP_LO => some .SET_PG_SWAP_HI
  | .TRG_STICK_LO => some .TRG_STICK_HI
  | .PUB_LASTCHG_LO => some .PUB_LASTCHG_HI
  | .JRN_STGBASE_LO => some .JRN_STGBASE_HI
  | .JRN_DRBASE_LO => some .JRN_DRBASE_HI
  | .JRN_ONEXT_LO => some .JRN_ONEXT_HI
  | .JRN_SNEXT_LO => some .JRN_SNEXT_HI
  | .NOC_FW_BASE_LO => some .NOC_FW_BASE_HI
  | .DMC_HCH_LO => some .DMC_HCH_HI
  | .DMC_HBG0_LO => some .DMC_HBG0_HI
  | .DMC_HBG1_LO => some .DMC_HBG1_HI
  | .DMC_HBA0_LO => some .DMC_HBA0_HI
  | .DMC_HBA1_LO => some .DMC_HBA1_HI
  | .ETH_MAC_LO => some .ETH_MAC_HI
  | .ETH_RXBASE_LO => some .ETH_RXBASE_HI
  | .ETH_TXBASE_LO => some .ETH_TXBASE_HI
  | .BLK_EVBASE_LO => some .BLK_EVBASE_HI
  | .DBG_IAC_ALO_LO => some .DBG_IAC_ALO_HI
  | .DBG_IAC_AHI_LO => some .DBG_IAC_AHI_HI
  | .DBG_DWP_ALO_LO => some .DBG_DWP_ALO_HI
  | .DBG_DWP_AHI_LO => some .DBG_DWP_AHI_HI
  | .DBG_DVC_VAL_LO => some .DBG_DVC_VAL_HI
  | .DBG_DVC_MASK_LO => some .DBG_DVC_MASK_HI
  | .PMU_CNT_LO => some .PMU_CNT_HI
  | .ERR_ADDR_LO => some .ERR_ADDR_HI
  | .ERR_TIME_LO => some .ERR_TIME_HI
  | .PE_RUNTICK_LO => some .PE_RUNTICK_HI
  | _ => none

/-- The _LO half of each pair, by its _HI half. -/
def RName.loHalf : RName → Option RName
  | .SVP_RSTTIME_HI => some .SVP_RSTTIME_LO
  | .LCS_DIEID_HI => some .LCS_DIEID_LO
  | .PWR_HUTIME_HI => some .PWR_HUTIME_LO
  | .CMD_RBASE_HI => some .CMD_RBASE_LO
  | .CMD_PBASE_HI => some .CMD_PBASE_LO
  | .TMB_NOW_HI => some .TMB_NOW_LO
  | .TMB_UTCSEC_HI => some .TMB_UTCSEC_LO
  | .TKG_EFFSEC_HI => some .TKG_EFFSEC_LO
  | .TKG_TICK_HI => some .TKG_TICK_LO
  | .TSU_CAP_HI => some .TSU_CAP_LO
  | .CMB_PRES_HI => some .CMB_PRES_LO
  | .SET_PG_MASK_HI => some .SET_PG_MASK_LO
  | .SET_PG_TICK_HI => some .SET_PG_TICK_LO
  | .SET_PG_SWAP_HI => some .SET_PG_SWAP_LO
  | .TRG_STICK_HI => some .TRG_STICK_LO
  | .PUB_LASTCHG_HI => some .PUB_LASTCHG_LO
  | .JRN_STGBASE_HI => some .JRN_STGBASE_LO
  | .JRN_DRBASE_HI => some .JRN_DRBASE_LO
  | .JRN_ONEXT_HI => some .JRN_ONEXT_LO
  | .JRN_SNEXT_HI => some .JRN_SNEXT_LO
  | .NOC_FW_BASE_HI => some .NOC_FW_BASE_LO
  | .DMC_HCH_HI => some .DMC_HCH_LO
  | .DMC_HBG0_HI => some .DMC_HBG0_LO
  | .DMC_HBG1_HI => some .DMC_HBG1_LO
  | .DMC_HBA0_HI => some .DMC_HBA0_LO
  | .DMC_HBA1_HI => some .DMC_HBA1_LO
  | .ETH_MAC_HI => some .ETH_MAC_LO
  | .ETH_RXBASE_HI => some .ETH_RXBASE_LO
  | .ETH_TXBASE_HI => some .ETH_TXBASE_LO
  | .BLK_EVBASE_HI => some .BLK_EVBASE_LO
  | .DBG_IAC_ALO_HI => some .DBG_IAC_ALO_LO
  | .DBG_IAC_AHI_HI => some .DBG_IAC_AHI_LO
  | .DBG_DWP_ALO_HI => some .DBG_DWP_ALO_LO
  | .DBG_DWP_AHI_HI => some .DBG_DWP_AHI_LO
  | .DBG_DVC_VAL_HI => some .DBG_DVC_VAL_LO
  | .DBG_DVC_MASK_HI => some .DBG_DVC_MASK_LO
  | .PMU_CNT_HI => some .PMU_CNT_LO
  | .ERR_ADDR_HI => some .ERR_ADDR_LO
  | .ERR_TIME_HI => some .ERR_TIME_LO
  | .PE_RUNTICK_HI => some .PE_RUNTICK_LO
  | _ => none

/-- Nominal voltage of a voltage monitor in mV (Table 18.1; fixed at manufacture, log row 5 for the domains). -/
def hltNom (i : Nat) : Nat :=
  if i < 16 then 0 else if i ≤ 48 then 800
  else match i with
    | 49 => 12000 | 50 => 3300 | 51 => 1800 | 52 => 1200 | 53 => 2500 | 54 => 600 | _ => 0

/-- Default NOM (Table 18.11). -/
def hltResetNom (i : Nat) : Nat := hltNom i

/-- Default WARN (Table 18.2), in VALUE units. -/
def hltResetWarn (i : Nat) : Nat :=
  if i ≤ 11 then 115 * 8 else if i ≤ 13 then 85 * 8 else if i = 14 then 100 * 8 else if i = 15 then 95 * 8
  else if i ≤ 54 then hltNom i * 3 / 100 else if i ≤ 66 then 40 else 0

/-- Default ALARM (Table 18.2), in VALUE units. -/
def hltResetAlarm (i : Nat) : Nat :=
  if i ≤ 11 then 125 * 8 else if i ≤ 13 then 95 * 8 else if i = 14 then 110 * 8 else if i = 15 then 105 * 8
  else if i ≤ 54 then hltNom i * 5 / 100 else if i ≤ 66 then 15 else 0

/-- Default ACTION (Table 18.2). -/
def hltResetAction (i : Nat) : Nat := if i ≤ 66 then 1 else 3

/-- Whether the target of an interrupt source is fixed (Table 16.1): 1 or 0. -/
def icFixed (n : Nat) : Nat :=
  if n ≤ 7 ∨ (145 ≤ n ∧ n ≤ 152) ∨ n = 168 ∨ (176 ≤ n ∧ n ≤ 183) then 1 else 0

/-- TMASK of a source at reset (Table 16.5). -/
def icTmask (n : Nat) : Nat :=
  if n ≤ 7 then 2 ^ n
  else if (145 ≤ n ∧ n ≤ 152) ∨ n = 168 ∨ (176 ≤ n ∧ n ≤ 183) ∨ (192 ≤ n ∧ n ≤ 233) then 0x100 else 0

/-- PRIO of a source at reset (Table 16.5). -/
def icPrio (n : Nat) : Nat := if n ≤ 7 then 15 else 0

/-- The reset value of a register (the Reset column of its table; dashes and fuse values are 0, log rows 4 to 6). -/
def RName.reset (r : RName) (i : Nat) : Word :=
  BitVec.ofNat 32 (match r with
  | .PWR_STAT => (1) * 256 + (1) * 1024
  | .PWR_IEN => 1
  | .PWR_DSTAT1 => 1
  | .PWR_HUCFG => 7
  | .CMD_RCFG => (if i = 0 then 1 else 0) * 512
  | .TMB_CFG => 1000 + (3) * 65536 + (4) * 1048576 + (100) * 16777216
  | .TMB_HOLD => 20
  | .TMB_PPSOUT => 100
  | .TMB_IRIGST => 15
  | .TKG_BUDGET => 250000
  | .TMR_TOP => 4294967295
  | .CMB_CFG => (7) * 8192 + (1) * 131072
  | .HIV_STAT => 255
  | .TRG_PP => 2000
  | .TRG_PSOLO => 2
  | .PUB_CFG => (2) * 16384
  | .PUB_TMIN => 1000
  | .PUB_TMAX => 1000
  | .JRN_CFG => (10) * 256
  | .IC_ESET => (if i = 0 then 0xFF else 0)
  | .IC_ECLR => (if i = 0 then 0xFF else 0)
  | .IC_SRC => icTmask i + (icPrio i) * 1024 + (icFixed i) * 131072 + (15) * 262144 + (8) * 4194304
  | .WDG_CTL => (if i = 8 then 1 else 0)
  | .WDG_CLOSE => 1000000
  | .WDG_GRACE => 100000
  | .NOC_PQOS => (8) * 256
  | .DMC_CFG => 200
  | .DMC_HCH_LO => 1145323584
  | .DMC_HBG0_LO => 2290614400
  | .DMC_HBG1_LO => 286261504
  | .DMC_HBG1_HI => 1
  | .DMC_HBA0_LO => 572523008
  | .DMC_HBA0_HI => 2
  | .DMC_HBA1_LO => 67372032
  | .DMC_RH => 2000 + (64) * 65536
  | .DMC_SCRUB => 12
  | .ETH_PTPPRI => 128 + (128) * 256
  | .BLK_LCFG => (3) * 4 + (2000) * 64
  | .DBG_KEEPPRI => 4008636142
  | .HLT_THR => 123
  | .HLT_TJMAX => 32768
  | .HLT_MON_THRESH => hltResetWarn i + (hltResetAlarm i) * 65536
  | .HLT_MON_CFG => hltResetAction i + (hltResetNom i) * 65536
  | .ERR_STAT => (1) * 4
  | .PE_STAT => (1) * 2048
  | _ => 0)

end Sys2Proof.Machine
end

