-- ==== Sys2Proof/Machine/SMap.lean ====
section
/-!
DEFINITION. Sys2Proof/Machine/SMap.lean: sparse maps in one canonical form.
A map from Nat is a list of (key, value) pairs with strictly rising keys and no value equal to what an unlisted
key reads as (the default `d`).  Equal maps are then equal lists.  Memory is the case of bytes (Host.Cell).
-/

namespace Sys2Proof.Machine

/-- A sparse map: pairs with rising keys. -/
abbrev SMap (α : Type) := List (Nat × α)

/-- The value at key `k`; an unlisted key reads as `d k`. -/
def SMap.get {α : Type} (d : Nat → α) : SMap α → Nat → α
  | [], k => d k
  | (k', v) :: t, k => if k = k' then v else if k < k' then d k else SMap.get d t k

/-- Every pair whose key is at most `k`, at the head, removed (nothing in a canonical map once `k` itself is gone). -/
def SMap.dropLe {α : Type} (k : Nat) : SMap α → SMap α
  | [] => []
  | (k', v) :: t => if k' ≤ k then SMap.dropLe k t else (k', v) :: t

/-- The map with key `k` set to `v`; writing the default removes the entry. -/
def SMap.set {α : Type} [DecidableEq α] (d : Nat → α) : SMap α → Nat → α → SMap α
  | [], k, v => if v = d k then [] else [(k, v)]
  | (k', v') :: t, k, v =>
    if k < k' then (if v = d k then (k', v') :: t else (k, v) :: (k', v') :: t)
    else if k = k' then (if v = d k then SMap.dropLe k t else (k, v) :: t)
    else (k', v') :: SMap.set d t k v

/-- Every key of the map is above `k`. -/
def SMap.above {α : Type} (k : Nat) : SMap α → Bool
  | [] => true
  | (k', _) :: _ => decide (k < k')

/-- The canonical form: strictly rising keys, no default value listed. -/
def SMap.wf {α : Type} [DecidableEq α] (d : Nat → α) : SMap α → Bool
  | [] => true
  | (k, v) :: t => SMap.above k t && decide (v ≠ d k) && SMap.wf d t

/-- The map with the value at `k` changed by `f`. -/
def SMap.mod {α : Type} [DecidableEq α] (d : Nat → α) (m : SMap α) (k : Nat) (f : α → α) : SMap α :=
  SMap.set d m k (f (SMap.get d m k))

/-- The map with every key of the list set by `f`. -/
def SMap.setMany {α : Type} [DecidableEq α] (d : Nat → α) (m : SMap α) (ks : List Nat) (f : Nat → α) : SMap α :=
  ks.foldl (fun m k => SMap.set d m k (f k)) m

end Sys2Proof.Machine
end

