-- ==== Sys2Proof/Machine/State.lean ====
section
/-!
DEFINITION. Sys2Proof/Machine/State.lean: the state of the module as plain data.
Registers of the device windows stand in one sparse map (regs); state that is no register stands in the structures
below, one per unit; each field names the file and rule of spec/ it comes from.  Sparse maps read their default where
nothing is listed, so State.reset lists nothing that equals its reset value.
-/

namespace Sys2Proof.Machine

/-- The faults of the block.  No rule of the spec stops the module. -/
inductive Fault
  /-- Raised by any command whose operand names a unit, index or port that the module does not have (engine 64, core
  9, ring 16): an ill-formed command (WellFormed).  Safe: the module receives no such command. -/
  | noUnit
  deriving DecidableEq, Repr

/-- The refusals of the block. -/
inductive Refusal
  /-- Raised by the dispatcher for a command without a meaning.  Safe. -/
  | notModelled (mnemonic : String)
  deriving DecidableEq, Repr

/-- One unit operation that has started and has not completed (R172). -/
structure InFlight where
  /-- The unit, in the order of Table 8.2 or 11.1 (07 R172). -/
  unit : Nat := 0
  /-- Engine context that triggered it (0 on a core) (09 R221). -/
  ctx : Nat := 0
  /-- Result port source codes with the values they will show (07 R172). -/
  outs : List (Nat × Nat) := []
  /-- Clock at which the result is readable (08 R195). -/
  ready : Nat := 0
  /-- 0 result known, 1 hive shared memory load, 2 store, 3 comb read, 4 core load, 5 core atomic, 6 STX (08 R209). -/
  kind : Nat := 0
  /-- Words still to be served: clock of the slot, word address, position (a core access: physical address, bytes) (08 R209). -/
  want : List (Nat × Nat × Nat) := []
  /-- Words served so far, or store data (08 R209). -/
  data : Nat := 0
  /-- Operation of a core access, by destination code (11 R279). -/
  op : Nat := 0
  /-- World of a core access (14 R375). -/
  world : Nat := 0
  /-- Order of issue (13 R345). -/
  seqno : Nat := 0
  /-- FPCTL flags raised at completion (11 R278). -/
  flags : Nat := 0
  /-- Register that a slot of an LDM loads, by code (11 R285). -/
  reg : Option Nat := none
  deriving DecidableEq, Repr

/-- A pending control transfer (R184). -/
structure PendXfer where
  /-- Its target (07 R184). -/
  target : Nat := 0
  /-- Delay bundles remaining, 2 or 1 (07 R184). -/
  left : Nat := 0
  /-- Whether it was taken (07 R184). -/
  taken : Bool := false
  /-- The remaining delay bundles are squashed (07 R180). -/
  squash : Bool := false
  /-- 0 jump or branch, 1 T_CALL, 2 T_RET, 3 SYSCALL, 4 SYSRET, 5 ERET, 6 T_DONE (12 Table 12.5). -/
  kind : Nat := 0
  /-- Address of the bundle after the delay bundles, or the SYSCALL link (11 R290). -/
  link : Nat := 0
  /-- Trigger value bits [15:0] of a SYSCALL (12 R322). -/
  data : Nat := 0
  /-- Core cycle at which the branch bundle issued (12 R331). -/
  issued : Nat := 0
  deriving DecidableEq, Repr

/-- One hardware loop (R201). -/
structure LoopSt where
  /-- First bundle (08 R201). -/
  start : Nat := 0
  /-- End bundle (08 R201). -/
  fin : Nat := 0
  /-- Remaining count; 0 disarmed (08 R201). -/
  count : Nat := 0
  deriving DecidableEq, Repr

/-- One engine context (Table 9.1). -/
structure ECtx where
  /-- E0 to E63 (09 R220). -/
  e : SMap (BitVec 32) := []
  /-- Guards g1 (bit 0), g2, g3 (09 R220). -/
  g : BitVec 3 := 0
  /-- Next bundle (PE_CTX_PC) (09 R220). -/
  pc : Nat := 0
  /-- Pending transfer (09 R220). -/
  xfer : Option PendXfer := none
  /-- Loop 0 (09 R220). -/
  l0 : LoopSt := {}
  /-- Loop 1 (09 R220). -/
  l1 : LoopSt := {}
  /-- Result port copies by source code (09 R220). -/
  res : SMap (BitVec 32) := []
  /-- Absolute tick number at the wake (09 R222). -/
  wakeTick : Nat := 0
  /-- Engine clock of the wake (09 R222). -/
  wakeClk : Nat := 0
  /-- CTL.FINFO (08 R202). -/
  finfo : BitVec 32 := 0
  /-- Pending-event flag (09 R223). -/
  evPend : Bool := false
  /-- Held at a breakpoint (PE_DBG.HELD) (09 R238). -/
  held : Bool := false
  /-- Suspended by a fault (08 R216). -/
  faulted : Bool := false
  /-- PE_FAULT0 of the fault waiting for the FAULT context (09 R236). -/
  faultWord : BitVec 32 := 0
  /-- That fault has not been handed over yet (09 R236). -/
  faultWait : Bool := false
  /-- 0 waiting, 1 ready, 2 active, 3 suspended (CSTAT.STATE) (08 Table 8.19). -/
  st : Nat := 0
  /-- The next issue fires no breakpoint (09 R239). -/
  skipBrk : Bool := false
  deriving DecidableEq, Repr

/-- One sliding DFT slot (R200). -/
structure SdftBin where
  /-- Real state (08 R200). -/
  xr : BitVec 32 := 0
  /-- Imaginary state (08 R200). -/
  xi : BitVec 32 := 0
  /-- Twiddle real part (NaN after load and switch-on) (08 R200). -/
  wr : BitVec 32 := 0x7FC00000
  /-- Twiddle imaginary part (08 R200). -/
  wi : BitVec 32 := 0x7FC00000
  deriving DecidableEq, Repr

/-- One queued hive DMA transfer (R204). -/
structure DmaXfer where
  /-- Engine (08 R205). -/
  eng : Nat := 0
  /-- Slot 0 to 3 (08 R205). -/
  slot : Nat := 0
  /-- DRAM to local (08 R204). -/
  get : Bool := true
  /-- Local region (08 R204). -/
  region : Nat := 0
  /-- Local word address (08 R204). -/
  laddr : Nat := 0
  /-- DRAM byte address (08 R204). -/
  daddr : Nat := 0
  /-- Words (08 R204). -/
  len : Nat := 0
  deriving DecidableEq, Repr

/-- One protection engine. -/
structure Engine where
  /-- Program memory, unwritten bundles all ones (08 R33). -/
  prog : SMap (BitVec 128) := []
  /-- Data memory words (08 Table 8.1). -/
  data : SMap (BitVec 16) := []
  /-- Clock of the latest store of the engine, and its words (08 R192). -/
  stored : Nat × List Nat := (0, [])
  /-- Clock of the latest second-port write, and the words before it (08 R192). -/
  second : Nat × List (Nat × BitVec 16) := (0, [])
  /-- Settings bank 0 (10 R243). -/
  bank0 : SMap (BitVec 16) := []
  /-- Settings bank 1 (10 R243). -/
  bank1 : SMap (BitVec 16) := []
  /-- Operand and trigger latches by destination code (07 R171). -/
  latch : SMap (BitVec 32) := []
  /-- Contexts 0 to 7 (09 R220). -/
  ctx : SMap ECtx := []
  /-- Operations in flight (07 R172). -/
  fly : List InFlight := []
  /-- Context that issues bundles (09 R226). -/
  cur : Option Nat := none
  /-- Open switch window: incoming context, clock of its first bundle (09 R226). -/
  sel : Option (Option Nat × Nat) := none
  /-- Bin slots 0 to 63 (08 R200). -/
  sdft : SMap SdftBin := []
  /-- Slot status 0 never used, 1 pending, 2 done, 3 error (08 R205). -/
  dmaStat : SMap Nat := []
  /-- Trip word of the tick (08 R203). -/
  tripWord : BitVec 32 := 0
  /-- Trip word written (08 R203). -/
  tripWritten : Bool := false
  /-- Event queue of the tick (08 R203). -/
  evq : List (BitVec 32) := []
  /-- Publish point of this tick passed (08 R203). -/
  pubPassed : Bool := false
  /-- A context overran under ABORT in this tick before the publish point (10 R253). -/
  abortTick : Bool := false
  /-- Last pour tick (10 R246). -/
  lastPour : Option Nat := none
  /-- Clock of the latest issue plus one (09 R241). -/
  lastIssue : Nat := 0
  /-- Clock from which the LSU accepts a trigger (08 R207). -/
  lsuFree : Nat := 0
  /-- Clock from which a non-pipelined unit or port accepts a trigger (07 R173). -/
  busy : SMap Nat := []
  /-- RUN accepted, waits for its start tick (08 R215). -/
  runArmed : Bool := false
  /-- PE_RUNTICK at the accepted RUN (08 R215). -/
  startTick : Nat := 0
  /-- Clock up to which the clock events have been counted (09 R242). -/
  pmuClk : Nat := 0
  /-- HIVE-MAIL posts under way, clocks of arrival, earliest first (08 R209). -/
  mailAt : List Nat := []
  /-- Bundle of the latest fault (08 R217). -/
  faultBundle : Nat := 0
  /-- IDLE context that ran last (09 R224). -/
  idleLast : Nat := 7
  deriving DecidableEq, Repr

/-- One hive. -/
structure Hive where
  /-- Clock of the switch-on (rotation phase 0) (08 R193). -/
  on : Nat := 0
  /-- Hive shared memory words (08 R209). -/
  hsm : SMap (BitVec 16) := []
  /-- Clock of the latest engine store, and the words that engines stored in it (08 R192). -/
  stored : Nat × List Nat := (0, [])
  /-- Clock of the latest second-port write, and the words before it (08 R192). -/
  second : Nat × List (Nat × BitVec 16) := (0, [])
  /-- Transfers in order of issue (08 R205). -/
  dmaQ : List DmaXfer := []
  /-- DEBUG STEP start tick and ticks (09 R240). -/
  stepStart : Option (Nat × Nat) := none
  deriving DecidableEq, Repr

/-- One on-chip register frame (R290). -/
structure Frame where
  /-- W0 to W15 (11 R289). -/
  w : SMap (BitVec 64) := []
  /-- Link (11 R290). -/
  link : BitVec 64 := 0
  /-- Level tag (11 R290). -/
  lvl : Nat := 1
  /-- BND (11 R290). -/
  bnd : Bool := false
  deriving DecidableEq, Repr

/-- One store buffer entry (R354). -/
structure SbEntry where
  /-- Bytes stored, with their physical addresses (13 R354). -/
  cells : List (Nat × BitVec 8) := []
  /-- 0 cacheable store, 1 non-cacheable store, 2 device store, 3 DCCLN, 4 DCINV, 5 DCCI (13 R354). -/
  kind : Nat := 0
  /-- No later store merges into it (13 R356). -/
  closed : Bool := false
  /-- The store of an STX that stored (13 R354). -/
  stx : Bool := false
  /-- World of the request (14 R375). -/
  world : Nat := 0
  deriving DecidableEq, Repr

/-- One combining buffer line (R355). -/
structure CbLine where
  /-- Line number (13 R355). -/
  line : Nat := 0
  /-- Bytes by offset (13 R355). -/
  bytes : SMap (BitVec 8) := []
  /-- Offsets written (13 R355). -/
  mask : List Nat := []
  /-- World of the request (14 R375). -/
  world : Nat := 0
  deriving DecidableEq, Repr

/-- One TLB entry (R338). -/
structure TlbEntry where
  /-- Virtual page base (12 R338). -/
  vpage : Nat := 0
  /-- Page size (12 R333). -/
  size : Nat := 4096
  /-- Tag (12 R338). -/
  asid : Nat := 0
  /-- G (12 R338). -/
  glob : Bool := false
  /-- Physical page base (12 R333). -/
  ppage : Nat := 0
  /-- Leaf bits [11:0] (12 Table 12.8). -/
  perm : BitVec 12 := 0
  /-- Address of the leaf (12 R336). -/
  leafAddr : Nat := 0
  deriving DecidableEq, Repr

/-- One slot of an LDM or STM that is still to be transferred (R285). -/
structure MultiSlot where
  /-- Register by code; none: a later bundle has written it (11 R285). -/
  reg : Option Nat := none
  /-- Virtual address of the slot (11 R287). -/
  addr : Nat := 0
  /-- Physical addresses of its bytes (11 R285). -/
  pas : List Nat := []
  /-- Memory type (12 R342). -/
  mt : Nat := 0
  /-- Value stored, or a value read without the caches (11 R285). -/
  val : Option Nat := none
  /-- How far the load reaches: 0 L1, 1 L2, 2 beyond, 3 DRAM (11 R306). -/
  reach : Nat := 0
  deriving DecidableEq, Repr

/-- An LDM or STM in progress (R285 to R287). -/
structure MultiRun where
  /-- Address of its bundle (11 R287). -/
  pc : Nat := 0
  /-- Pending transfer before its bundle (11 R287). -/
  xfer : Option PendXfer := none
  /-- True: STM (11 R285). -/
  stm : Bool := false
  /-- 0 W, 1 X (11 R285). -/
  bank : Nat := 0
  /-- Core cycle at which the first slot of the list starts (11 R306). -/
  start : Nat := 0
  /-- Slots still to start, in order (11 R285). -/
  slots : List MultiSlot := []
  /-- No later bundle has issued (11 R287). -/
  alone : Bool := true
  deriving DecidableEq, Repr

/-- One snoop that has been sent and not answered (R367, R368). -/
structure SnoopOut where
  /-- Cluster of the L2 (13 R365). -/
  cluster : Nat := 0
  /-- Takes the line away (13 R363). -/
  inv : Bool := false
  /-- Clock at which it was sent (13 R368). -/
  sent : Nat := 0
  deriving DecidableEq, Repr

/-- Run-ahead checkpoint (R300). -/
structure Snap where
  /-- Current frame and older frames with tags (11 R300). -/
  frames : List Frame := []
  /-- X0 to X15 (11 R300). -/
  x : SMap (BitVec 64) := []
  /-- Q0 to Q15 (11 R300). -/
  q : SMap (BitVec 64) := []
  /-- Guards (11 R300). -/
  g : BitVec 3 := 0
  /-- Result ports (11 R300). -/
  res : SMap (BitVec 64) := []
  /-- Pending transfer (11 R300). -/
  xfer : Option PendXfer := none
  /-- Stalled bundle (11 R300). -/
  pc : BitVec 64 := 0
  /-- FSPTR of each level, FPCTL flags (11 R300). -/
  sys : SMap (BitVec 64) := []
  /-- Reservation (11 R303). -/
  resv : Option Nat := none
  /-- Operand latches (11 R303). -/
  latch : SMap (BitVec 64) := []
  /-- Operations in flight (11 R300). -/
  fly : List InFlight := []
  deriving DecidableEq, Repr

/-- One A-profile processor: AC0 to AC7, and 8 for the SVP. -/
structure ACore where
  /-- World of an application core (12 R309). -/
  world : Nat := 0
  /-- Runs; false: held at reset (03 R63). -/
  released : Bool := false
  /-- Locked up (12 R328). -/
  lockup : Bool := false
  /-- Declared dead (13 R371). -/
  dead : Bool := false
  /-- Sleeping (16 R429). -/
  asleep : Bool := false
  /-- Stopped at a bundle boundary for a drain (02 R30). -/
  stopped : Bool := false
  /-- Entry address of the last WORLD START (12 R330). -/
  entry : BitVec 64 := 0
  /-- Address of the next bundle (07 R167). -/
  pc : BitVec 64 := 0
  /-- On-chip frames, current first (11 R290). -/
  frames : List Frame := [{}]
  /-- X0 to X15 (11 R169). -/
  x : SMap (BitVec 64) := []
  /-- Q0 to Q15 (11 R297). -/
  q : SMap (BitVec 64) := []
  /-- Guards (07 R163). -/
  g : BitVec 3 := 0
  /-- Operand and trigger latches by destination code (07 R171). -/
  latch : SMap (BitVec 64) := []
  /-- Result ports by source code (07 R172). -/
  res : SMap (BitVec 64) := []
  /-- Operations in flight (07 R172). -/
  fly : List InFlight := []
  /-- Issue counter of accesses (13 R345). -/
  seqno : Nat := 0
  /-- Pending transfer (07 R184). -/
  xfer : Option PendXfer := none
  /-- System registers by number (12 R311). -/
  sys : SMap (BitVec 64) := []
  /-- Spill in progress (11 R291). -/
  spill : Bool := false
  /-- A FLUSHW waits until one frame is left (11 R295). -/
  flush : Bool := false
  /-- Translations checked for spills and fills: virtual page to physical page plus 1 (11 R293). -/
  fsMap : SMap Nat := []
  /-- Fill in progress (11 R292). -/
  fill : Bool := false
  /-- Store buffer, oldest first (13 R354). -/
  sb : List SbEntry := []
  /-- Combining buffer, oldest first (13 R355). -/
  cb : List CbLine := []
  /-- Merge setting of the entries held (13 R357). -/
  mergeMode : Bool := false
  /-- The next bundle waits for earlier loads (13 R349). -/
  loadFence : Bool := false
  /-- The next bundle waits for earlier stores (13 R349). -/
  storeFence : Bool := false
  /-- The next bundle waits for every earlier operation (11 R307). -/
  opFence : Bool := false
  /-- Reservation: line number (11 R281). -/
  resv : Option Nat := none
  /-- L2 TLB entries (12 R338). -/
  tlb : List TlbEntry := []
  /-- Instruction L1 TLB entries (12 R338). -/
  itlb : List TlbEntry := []
  /-- Data L1 TLB entries (12 R338). -/
  dtlb : List TlbEntry := []
  /-- L1 TLB misses of the access that is checked (11 R306). -/
  tlbMiss : Nat := 0
  /-- L1 instruction cache lines (13 R360). -/
  l1i : SMap (Option (BitVec 512)) := []
  /-- L1 data cache lines: 0 not held, 1 held, 2 modified (13 R360). -/
  l1d : SMap Nat := []
  /-- Run-ahead checkpoint (11 R300). -/
  ra : Option Snap := none
  /-- Bundles issued in run-ahead (11 R302). -/
  raCount : Nat := 0
  /-- Poisoned registers, ports and guards by source code, operand latches by destination code + 4096 (11 R301). -/
  raPoison : List Nat := []
  /-- Run-ahead under the present miss has ended (11 R302). -/
  raOver : Bool := false
  /-- Core cycle at which the span started (11 R302). -/
  raCyc : Nat := 0
  /-- A stepped bundle has been issued under SKIP (17 R451). -/
  stepBundle : Bool := false
  /-- Core cycle of the next issue (11 R298). -/
  cyc : Nat := 0
  /-- Instant of that cycle, in 1/24 ns (11 R298). -/
  nextAt : Nat := 0
  /-- Core cycle from which a unit accepts a trigger (07 R173). -/
  busy : SMap Nat := []
  /-- Bundles fetched before a store, by address (11 R305). -/
  fq : List (Nat × BitVec 128) := []
  /-- Bundles still to be taken from them (11 R305). -/
  fqN : Nat := 0
  /-- LDM or STM in progress (11 R285). -/
  multi : Option MultiRun := none
  /-- Bundle that continues the transfer of EPROG after a return (11 R287). -/
  progPc : Option (BitVec 64) := none
  /-- Level that the latest entry to the top level left (11 R290). -/
  leftLvl : Nat := 0
  deriving DecidableEq, Repr

/-- One line of a cluster L2 (Table 13.4). -/
structure L2Line where
  /-- 0 I, 1 S, 2 E, 3 M (13 R360). -/
  st : Nat := 0
  /-- World tag (14 R378). -/
  world : Nat := 0
  /-- The line (13 R360). -/
  data : BitVec 512 := 0
  /-- Poisoned (13 R369). -/
  poison : Bool := false
  deriving DecidableEq, Repr

/-- One system cache line. -/
structure SysLine where
  /-- Held (13 R360). -/
  held : Bool := false
  /-- The line (13 R360). -/
  data : BitVec 512 := 0
  /-- Newer than DRAM (13 R360). -/
  dirty : Bool := false
  /-- World tag (14 R378). -/
  world : Nat := 0
  deriving DecidableEq, Repr

/-- One directory entry (Table 13.6). -/
structure DirEntry where
  /-- 0 Uncached, 1 Shared, 2 Exclusive (13 R363). -/
  st : Nat := 0
  /-- Presence by cluster (13 R363). -/
  pres : BitVec 2 := 0
  /-- Transaction in progress (13 R364). -/
  busy : Option HomeReq := none
  /-- Waiting requests in order (13 R364). -/
  waitq : List HomeReq := []
  /-- Clock at which a hold ends, by holder: 0 to 7 a core's L1, 8 the home slice for the SVP, 9 and 10 an L2 (13 R367). -/
  hold : SMap Nat := []
  /-- Snoops that wait for an answer (13 R367). -/
  snoops : List SnoopOut := []
  deriving DecidableEq, Repr

/-- One request queued at a DRAM controller (R390). -/
structure DramReq where
  /-- Requester port (14 R390). -/
  port : Nat := 0
  /-- Physical address (14 R387). -/
  pa : Nat := 0
  /-- Write (14 R390). -/
  write : Bool := false
  /-- Page hint (14 R392). -/
  hintOpen : Bool := false
  /-- Clock of arrival (14 R390). -/
  at0 : Nat := 0
  /-- Clock of injection into the fabric (14 R384). -/
  born : Nat := 0
  deriving DecidableEq, Repr

/-- One DRAM channel. -/
structure DramCh where
  /-- Queued requests, oldest first (14 R390). -/
  queue : List DramReq := []
  /-- Open row and clock of its latest column command, by bank (14 R392). -/
  rows : SMap (Option (Nat × Nat)) := []
  /-- Activate table by bank: row, count (14 R394). -/
  acts : SMap (List (Nat × Nat)) := []
  /-- Refreshes done (14 R393). -/
  refreshes : Nat := 0
  /-- Clock of the latest refresh (14 R393). -/
  refAt : Nat := 0
  /-- Clock at which the window of the activate tables began (14 R394). -/
  winAt : Nat := 0
  deriving DecidableEq, Repr

/-- One long command outstanding (R85). -/
structure LongCmd where
  /-- Ring (04 R83). -/
  ring : Nat := 0
  /-- TAG (04 R83). -/
  tag : Nat := 0
  /-- SEQ (04 R83). -/
  seq : Nat := 0
  /-- Opcode (04 R83). -/
  opcode : Nat := 0
  /-- Resources named (04 R86). -/
  res : List Nat := []
  /-- Main argument (04 R87). -/
  arg : Nat := 0
  /-- Second argument (04 R87). -/
  arg2 : Nat := 0
  /-- Its completion is discarded (04 R97). -/
  discard : Bool := false
  /-- The firmware's copy of the bulk object (04 R81). -/
  data : List (BitVec 8) := []
  deriving DecidableEq, Repr

/-- One reply or completion (Table 4.3). -/
structure Reply where
  /-- Ring (04 R83). -/
  ring : Nat := 0
  /-- STATUS (04 R84). -/
  status : Nat := 0
  /-- TAG (04 R83). -/
  tag : Nat := 0
  /-- SEQ (04 R83). -/
  seq : Nat := 0
  /-- KIND (04 R83). -/
  completion : Bool := false
  /-- OPCODE (04 R83). -/
  opcode : Nat := 0
  /-- DETAIL (04 R83). -/
  detail : Nat := 0
  /-- RESULT bytes (04 R80). -/
  result : List (BitVec 8) := []
  deriving DecidableEq, Repr

/-- One image slot of the image region (R60). -/
structure Image where
  /-- Header well formed (03 R60). -/
  wellFormed : Bool := false
  /-- Security version (03 R60). -/
  secver : Nat := 0
  /-- Build number (03 Table 3.9). -/
  build : Nat := 0
  /-- Octets of the header that the signature covers (03 R60). -/
  header : List (BitVec 8) := []
  /-- Octets of the body (03 R60). -/
  body : List (BitVec 8) := []
  /-- SHA-384 digest that the header gives for the body (03 R60). -/
  digest : BitVec 384 := 0
  /-- P-384 key in the header, an uncompressed point (03 R60). -/
  key : List (BitVec 8) := []
  /-- Signature over the header (03 R60). -/
  sig : List (BitVec 8) := []
  /-- Boot core (first-stage) (03 R63). -/
  core : Nat := 0
  /-- World (first-stage) (03 R63). -/
  world : Nat := 0
  /-- Entry point (first-stage) (03 R63). -/
  entry : BitVec 64 := 0
  /-- DRAM address to which step 4 copies it (first-stage) (03 Table 3.4). -/
  load : Nat := 0
  /-- DRAM address masks that it carries, in the order of their registers (SVP firmware) (14 R388). -/
  masks : List Nat := []
  deriving DecidableEq, Repr

/-- One item of the configuration store (Table 3.3). -/
structure CfgItem where
  /-- The item is stored (03 R64). -/
  present : Bool := false
  /-- Its octets (03 Table 3.3). -/
  body : List (BitVec 8) := []
  /-- The SHA-384 digest stored with it (03 Table 3.3). -/
  digest : BitVec 384 := 0
  /-- The register values it restores (03 R64). -/
  writes : List (RName × Nat × BitVec 32) := []
  /-- Castings, settings images and templates it restores, by engine or block (03 R64). -/
  blobs : List (Nat × List (BitVec 8)) := []
  deriving DecidableEq, Repr

/-- One key slot (Table 3.2). -/
structure KeySlot where
  /-- Programmed (03 Table 3.11). -/
  programmed : Bool := false
  /-- Revoke fuse (03 R57). -/
  revoked : Bool := false
  /-- Key hash (03 Table 3.2). -/
  hash : BitVec 384 := 0
  deriving DecidableEq, Repr

/-- One journal record (Table 10.9). -/
structure JRec where
  /-- TIME (10 R267). -/
  time : Nat := 0
  /-- TICK (10 R267). -/
  tick : Nat := 0
  /-- INDEX (10 R267). -/
  index : Nat := 0
  /-- TYPE (10 R267). -/
  type : Nat := 0
  /-- SRC (10 R267). -/
  src : Nat := 0
  /-- Partition and FLAGS [0] (10 R266). -/
  world : Nat := 0
  /-- FLAGS [1] (10 R268). -/
  direct : Bool := false
  /-- PAYLOAD (10 R267). -/
  payload : List (BitVec 8) := []
  deriving DecidableEq, Repr

/-- One disturbance record (R270). -/
structure Capture where
  /-- Identifier (10 R270). -/
  id : Nat := 0
  /-- Hive mask (10 R270). -/
  hives : Nat := 0
  /-- Pre-trigger ticks (10 R270). -/
  pre : Nat := 0
  /-- Post-trigger ticks (10 R270). -/
  post : Nat := 0
  /-- N_t (10 R270). -/
  startTick : Nat := 0
  /-- Tick of the first row (10 R271). -/
  firstTick : Nat := 0
  /-- 0 scheduled, 1 capturing, 2 finished (10 R271). -/
  st : Nat := 0
  /-- Status INCOMPLETE (10 R271). -/
  incomplete : Bool := false
  /-- Copied into the disturbance area (10 R272). -/
  sealedDone : Bool := false
  /-- DRAM address (10 R270). -/
  base : Nat := 0
  /-- FIRST and COUNT of each hive of the mask (10 R271). -/
  chans : List (Nat × Nat) := []
  /-- Rows copied (10 R271). -/
  rowsDone : Nat := 0
  /-- World of the hives (10 R272). -/
  world : Nat := 0
  deriving DecidableEq, Repr

/-- One aligner tap (R145). -/
structure Tap where
  /-- Instant (06 R145). -/
  tau : Int := 0
  /-- Scaled value and QUAL by channel (06 R145). -/
  vals : List (BitVec 32 × BitVec 16) := []
  deriving DecidableEq, Repr

/-- Run-time state of a sampled-value stream. -/
structure StreamSt where
  /-- Latest first, at most 4 (06 R145). -/
  taps : List Tap := []
  /-- Synchronized class of the previous sample (06 R143). -/
  syn : Bool := false
  /-- A previous sample of the stream exists (06 R143). -/
  hasLast : Bool := false
  /-- Policer credit in 1e-9 frames (06 R138). -/
  credit : Nat := 4000000000
  /-- Clock at which it was computed (06 R138). -/
  creditAt : Nat := 0
  deriving DecidableEq, Repr

/-- Run-time state of a GOOSE subscription (R154). -/
structure GooseSt where
  /-- A frame has been accepted since enable or flush (06 R154). -/
  got : Bool := false
  /-- The next accepted frame replaces the state whatever its numbers (06 R154). -/
  force : Bool := true
  /-- The validity window has closed (06 R154). -/
  closed : Bool := true
  /-- Close of the window (06 R154). -/
  closeAt : Nat := 0
  /-- Cell VAL and QUAL of each mapping (06 R154). -/
  vals : SMap (BitVec 64) := []
  /-- Mappings whose member has had a value that can be mapped (06 R134). -/
  has : List Nat := []
  /-- Policer credit (06 R138). -/
  credit : Nat := 4000000000
  /-- Clock at which it was computed (06 R138). -/
  creditAt : Nat := 0
  deriving DecidableEq, Repr

/-- One comb row slot. -/
structure Row where
  /-- Absolute tick number of the row (06 R140). -/
  tick : Nat := 0
  /-- Opened since the latest flush (06 R149). -/
  opened : Bool := false
  /-- Presented (06 R150). -/
  presented : Bool := false
  /-- TQ flag (06 R149). -/
  tq : Bool := false
  /-- Cells by channel; a channel not written is pending (06 R141). -/
  cells : SMap (BitVec 64) := []
  /-- Channels written, ascending (06 R149). -/
  written : List Nat := []
  deriving DecidableEq, Repr

/-- One scheduled stream change (R156). -/
structure StreamSwitch where
  /-- Timebase instant from which it takes effect: at the first tick instant at or after it (06 R156). -/
  due : Nat := 0
  /-- 0 table, 1 enable, 2 simsel (06 R156). -/
  kind : Nat := 0
  /-- Subscription (06 R156). -/
  stream : Nat := 0
  /-- Value (06 R156). -/
  on : Bool := false
  /-- Table bytes (06 R157). -/
  table : List (BitVec 8) := []
  deriving DecidableEq, Repr

/-- Run-time state of a control block (R262). -/
structure PubBlk where
  /-- Frame template (10 R261). -/
  template : List (BitVec 8) := []
  /-- Loaded by a table (10 R261). -/
  loaded : Bool := false
  /-- Timebase instant of the next scheduled frame (10 R262). -/
  next : Option Nat := none
  /-- Present retransmission interval, ns (10 R262). -/
  interval : Nat := 0
  /-- Member values as last sent (10 R262). -/
  members : SMap (BitVec 64) := []
  /-- Instant of the latest change (10 R262). -/
  chgAt : Nat := 0
  deriving DecidableEq, Repr

/-- One frame waiting for or on a port. -/
structure TxFrame where
  /-- Rank class: 0 trip-carrying, 1 PTP event, 2 HSR-forwarded, 3 retransmission, 4 firmware, 5 host (15 R401). -/
  kind : Nat := 0
  /-- Control block (10 R262). -/
  block : Nat := 0
  /-- PRIO (10 R263). -/
  prio : Nat := 0
  /-- StNum (10 R262). -/
  stNum : Nat := 0
  /-- SqNum (10 R262). -/
  sqNum : Nat := 0
  /-- TimeAllowedtoLive, ms (10 R262). -/
  tal : Nat := 0
  /-- Test (10 R262). -/
  test : Bool := false
  /-- Simulation (10 R262). -/
  sim : Bool := false
  /-- T, UTC as ns (10 R262). -/
  t : Nat := 0
  /-- Time-quality octet fields (10 R262). -/
  tq : Nat := 0
  /-- Member values (10 R262). -/
  members : List (BitVec 64) := []
  /-- Octets of a host or forwarded frame (15 R402). -/
  octets : List (BitVec 8) := []
  /-- Descriptor index (15 R402). -/
  desc : Nat := 0
  /-- Redundancy trailer sequence (15 R407). -/
  prpSeq : Option Nat := none
  /-- Order of queuing (10 R264). -/
  born : Nat := 0
  /-- Destination (15 R401). -/
  dst : BitVec 48 := 0
  /-- Source (15 R408). -/
  src : BitVec 48 := 0
  /-- Octets (15 R401). -/
  len : Nat := 0
  deriving DecidableEq, Repr

/-- Run-time state of a port. -/
structure EthPort where
  /-- Publisher queue (10 R264). -/
  pubq : List TxFrame := []
  /-- HSR forward queue (15 R408). -/
  fwdq : List TxFrame := []
  /-- Frames of supervisor firmware (15 R401). -/
  fwq : List TxFrame := []
  /-- Frame being transmitted (15 R401). -/
  tx : Option TxFrame := none
  /-- PTP state: 0 off, 1 listening, 2 slave, 3 master, 4 passive (15 R405). -/
  ptp : Nat := 0
  /-- An announce arrived in the receipt timeout (15 R404). -/
  announceSeen : Bool := false
  /-- Octets waiting for supervisor firmware in the receive buffer (15 R400). -/
  rxbufUsed : Nat := 0
  /-- Frame identities passed to supervisor firmware, EtherType (15 R400). -/
  fwRx : List Nat := []
  /-- Internal latency of received frames, ns, as supervisor firmware's image gives it (15 R403). -/
  latRx : Nat := 0
  /-- Internal latency of sent frames, ns (15 R403). -/
  latTx : Nat := 0
  /-- Hi_ber clear (process bus), or auto-negotiation complete (station bus) (15 R399). -/
  linkOk : Bool := false
  deriving DecidableEq, Repr

/-- Duplicate table of a pair (R407). -/
structure DupPair where
  /-- Source MAC, sequence, clock at which the first copy arrived; oldest first (15 R407). -/
  entries : List (Nat × Nat × Nat) := []
  /-- Source and sequence already forwarded (15 R408). -/
  fwd : List (Nat × Nat) := []
  /-- Transmit sequence counter (15 R407). -/
  seq : Nat := 0
  /-- Clock of the latest supervision frames (15 R407). -/
  supAt : Nat := 0
  deriving DecidableEq, Repr

/-- Run-time state of a bay link. -/
structure BlkLink where
  /-- Expected event number (15 R413). -/
  eack : Nat := 0
  /-- Consecutive good ticks (15 R416). -/
  good : Nat := 0
  /-- Consecutive ticks without a good frame (15 R416). -/
  miss : Nat := 0
  /-- A good frame for the tick in progress (15 R416). -/
  goodThis : Bool := false
  /-- Latest declaration of loss (15 R414). -/
  lostAt : Option Nat := none
  /-- COMMAND frames queued: OUT, CHG, publish point time (15 R410). -/
  cmdq : List (Nat × Nat × Nat) := []
  /-- Output bits in force (15 R410). -/
  out : BitVec 32 := 0
  /-- Tick number and OUT of the latest TICK frame sent (15 R410). -/
  lastTick : Option (Nat × Nat) := none
  /-- FLAGS of the latest frame sent (15 R410). -/
  flags : Nat := 0
  /-- Octets of the latest frame sent (Table 15.4) (15 R410). -/
  sent : List (BitVec 8) := []
  deriving DecidableEq, Repr

/-- One trace source. -/
structure TrcSrc where
  /-- Current position, bundle number (17 R454). -/
  pos : Nat := 0
  /-- Reference cycle (17 R454). -/
  ref : Nat := 0
  /-- Bundles passed since the position (17 R454). -/
  n : Nat := 0
  /-- A SYNC comes first (17 R455). -/
  needSync : Bool := true
  /-- Context of the code at the position, as bits [59:44] of a SYNC: level, world, QB, ASID (17 R454). -/
  ctx : Nat := 0
  /-- Bytes queued, at most 64 (17 R456). -/
  q : Nat := 0
  /-- Packets lost since the last OVF (17 R456). -/
  lostN : Nat := 0
  deriving DecidableEq, Repr

/-- Timebase and tick generator. -/
structure TimeSt where
  /-- Timebase value in ns since the TAI epoch (05 R100). -/
  now : Nat := 1000000000
  /-- TAI second of the tick in progress (05 R112). -/
  tickS : Nat := 1
  /-- N of the tick in progress (TKG_STAT.IDX) (05 R112). -/
  tickN : Nat := 0
  /-- Some tick has been raised since reset (05 R115). -/
  tickRaised : Bool := false
  /-- Mode in force at the instant of the tick in progress (02 R37). -/
  tickMode : Nat := 0
  /-- HALF of the tick in progress has been raised (05 R115). -/
  halfDone : Bool := true
  /-- Consecutive valid measurements by source (05 R103). -/
  cnt : SMap Nat := []
  /-- Consecutive measurements of the selected source below 100 ns (05 R102). -/
  cnt100 : Nat := 0
  /-- Clock of the last valid measurement by source (05 R103). -/
  lastMeas : SMap (Option Nat) := []
  /-- Offset still to be removed by slewing, ns (05 R106). -/
  slew : Int := 0
  /-- Fraction of a nanosecond of slew accumulated, in 1e-6 ns (05 R106). -/
  slewAcc : Nat := 0
  /-- Fraction of a nanosecond of the frequency correction accumulated, in 1/256 of 1e-9 ns (05 R100). -/
  freqAcc : Int := 0
  /-- A step asks for a comb flush at the next tick (05 R155). -/
  flushDue : Bool := false
  /-- A rate change took effect (06 R155). -/
  rateDue : Bool := false
  /-- Rate code that the tick in progress is numbered with while rateDue (05 R116). -/
  oldRate : Nat := 0
  /-- Frequency corrections of the last 16 s in LOCKED: clocks in force and value, latest first (05 R104). -/
  lockSegs : List (Nat × Int) := []
  /-- Clock since which the present correction has been in force in LOCKED (05 R104). -/
  segAt : Nat := 0
  /-- A stream switch asks for a comb flush at the tick in hand (06 R155). -/
  combDue : Bool := false
  /-- Clock of the last accepted PPS_IN edge (05 R109). -/
  lastPps : Option Nat := none
  /-- PPS_OUT pin (05 R111). -/
  ppsHigh : Bool := false
  /-- Rise of the present pulse (05 R111). -/
  ppsAt : Nat := 0
  /-- Clock at which the present HOLDOVER started (05 R104). -/
  holdAt : Nat := 0
  deriving DecidableEq, Repr

/-- Run-time state of a timer. -/
structure TmrSt where
  /-- TOP written and not yet in effect (05 R126). -/
  pTop : Option (BitVec 32) := none
  /-- TOP in effect (05 R121). -/
  top : BitVec 32 := 0xFFFFFFFF
  /-- Compare values not yet in effect (05 R121). -/
  pCmp : SMap (Option (BitVec 32)) := []
  /-- Compare values in effect (05 R121). -/
  cmp : SMap (BitVec 32) := []
  /-- Directions not yet in effect (05 R121). -/
  pDir : Option (BitVec 32) := none
  /-- Directions in effect (05 R121). -/
  dir : BitVec 32 := 0
  /-- The next step counts up (05 R128). -/
  startUp : Bool := true
  /-- Clock of the latest counter clock from the divider (05 R120). -/
  lastClk : Nat := 0
  deriving DecidableEq, Repr

/-- Supply, sequencer and HOLDUP. -/
structure PowerSt where
  /-- PD00 runs (02 R487). -/
  powered : Bool := true
  /-- MRST_N held low (02 R42). -/
  mrstLow : Bool := false
  /-- PF_N pin high (02 R27). -/
  pfN : Bool := true
  /-- Queued requests: on, domain (02 R28). -/
  seqQ : List (Bool × Nat) := []
  /-- Switch or drain in progress (02 R28). -/
  act : Option (Bool × Nat) := none
  /-- Mode before the latest change of mode (04 Table 4.5). -/
  lastMode : Nat := 0
  /-- Transfers of the latest hive cut at its drain limit that it left incomplete: engine, slot (02 Table 2.2). -/
  dmaCut : List (Nat × Nat) := []
  /-- Ports whose frame in transmission the latest cut of their domain truncated (02 Table 2.2). -/
  truncated : List Nat := []
  /-- Pending mode and switch tick (02 R37). -/
  pend : Option (Nat × Nat) := none
  /-- Core domains on before HOLDUP (02 R45). -/
  coresBefore : Nat := 0
  /-- Domains on before HOLDUP (02 R45). -/
  domsBefore : Nat := 0
  /-- Cores that ran before HOLDUP (02 R45). -/
  relBefore : Nat := 0
  /-- Every core has acknowledged: the drain window has ended (02 R43). -/
  winEnd : Bool := false
  /-- Disturbance records of the JOURNAL SEAL commands outstanding when HOLDUP started (10 R272). -/
  sealFirst : List Nat := []
  /-- PWR_HUACK bits (02 R43). -/
  ack : Nat := 0
  /-- HOLDUP cause: 0 input loss, 1 BULK_WARN, 2 over-temperature (10 Table 10.10). -/
  cause : Nat := 0
  /-- HOLDUP started or marked by over-temperature (02 R47). -/
  ot : Bool := false
  /-- Shutdown cause (02 R47). -/
  shutCause : Nat := 0
  /-- Tick in progress when the shutdown started (02 R47). -/
  shutTick : Option Nat := none
  /-- DORMANT until MRST_N pulse or input lost and qualified again (02 R41). -/
  stay : Bool := false
  /-- The input was lost since the module entered that DORMANT (02 R41). -/
  inputSeen : Bool := true
  /-- Cause the next wake will record (02 Table 2.18). -/
  wakeCause : Nat := 0
  /-- Domains cut uncleanly and their undrained entries (02 R31). -/
  undrained : List (Nat × Nat) := []
  /-- Monitors 0 to 11 whose last sample was at or above 130 C, bit mask (18 R468). -/
  otSeen : Nat := 0
  deriving DecidableEq, Repr

/-- Supervisor pair. -/
structure SvpSt where
  /-- Time of the latest restart cause (03 R56). -/
  lastCause : Option Nat := none
  /-- A restart is under way (03 R52). -/
  restarting : Bool := false
  /-- FAULT_N held for this restart (03 R56). -/
  fltMis : Bool := false
  /-- Failed boot holds FAULT_N (03 R61). -/
  bootFail : Bool := false
  /-- Start of the BOOTWAIT wait (03 R64). -/
  waitAt : Option Nat := none
  /-- Boot target mode (03 R64). -/
  target : Nat := 2
  /-- BOOTWAIT, s (03 R64). -/
  wait : Nat := 0
  /-- This boot is one restarted under R492 (03 R492). -/
  restarted : Bool := false
  /-- Boot core (03 R63). -/
  bootCore : Nat := 0
  /-- Its world (03 R63). -/
  bootWorld : Nat := 0
  /-- Its entry point (03 R63). -/
  bootEntry : BitVec 64 := 0
  /-- SVP RAM bytes (14 Table 14.1). -/
  ram : SMap (BitVec 8) := []
  deriving DecidableEq, Repr

/-- Life-cycle and key store (fuses, image region, debug session). -/
structure LcsSt where
  /-- Life-cycle state in force (03 Table 3.10). -/
  state : Nat := 0
  /-- Highest state fuse blown: in force from the next module reset (04 R93). -/
  stateFuse : Nat := 0
  /-- RETPEND fuse (03 R66). -/
  retpend : Bool := false
  /-- Sealing epoch counter (03 R58). -/
  epoch : Nat := 0
  /-- SVPARB fuses blown (03 R62). -/
  svpArb : Nat := 0
  /-- FSARB fuses blown (03 R62). -/
  fsArb : Nat := 0
  /-- Key slots 0 to 7 (03 Table 3.2). -/
  keys : SMap KeySlot := []
  /-- Die identifier (03 Table 3.14). -/
  dieId : BitVec 64 := 0
  /-- SVP firmware slots A, B (03 R60). -/
  svpImg : SMap Image := []
  /-- First-stage slots A, B (03 R60). -/
  fsImg : SMap Image := []
  /-- Configuration store items by code of LCS_BOOT.ITEM (03 R64). -/
  store : SMap CfgItem := []
  /-- Sealed-world secrets, encrypted under the sealing key (03 R58). -/
  secrets : SMap Sealed := []
  /-- Secrets encrypted so far, from which their IVs are made (03 R58). -/
  secretN : Nat := 0
  /-- Die-unique secret (03 Table 3.2). -/
  dus : BitVec 256 := 0
  /-- Image region bytes (03 R59). -/
  mramImage : SMap (BitVec 8) := []
  /-- Challenge, clock of its issue (17 R441). -/
  chal : Option (BitVec 128 × Nat) := none
  /-- Consecutive refusals (17 R441). -/
  refusals : Nat := 0
  /-- Start of the lockout (17 R441). -/
  lockAt : Option Nat := none
  /-- MBI (17 R440). -/
  mbi : SMap (BitVec 8) := []
  /-- MBO (17 R440). -/
  mbo : SMap (BitVec 8) := []
  /-- Message in progress: its code (17 R439). -/
  mbBusy : Option Nat := none
  /-- Reply waiting in MBO (17 R438). -/
  mboWait : Bool := false
  deriving DecidableEq, Repr

/-- Command rings. -/
structure CmdSt where
  /-- Long commands outstanding, in order of taking (04 R85). -/
  long : List LongCmd := []
  /-- Latest reply or completion written (04 R83). -/
  last : Option Reply := none
  deriving DecidableEq, Repr

/-- Ingest and aligner. -/
structure IngSt where
  /-- By stream (06 R143). -/
  streams : SMap StreamSt := []
  /-- By subscription (06 R154). -/
  gooses : SMap GooseSt := []
  /-- Scheduled changes (06 R156). -/
  switches : List StreamSwitch := []
  /-- Key slots that an entry has loaded (06 R137). -/
  keys : List Nat := []
  deriving DecidableEq, Repr

/-- Comb. -/
structure CombSt where
  /-- Lowest row opened since the latest flush (06 R155). -/
  first : Option Nat := none
  /-- By slot (06 R140). -/
  rows : SMap Row := []
  /-- Tick of the row presented last (06 R150). -/
  pres : Option Nat := none
  deriving DecidableEq, Repr

/-- Trip gate. -/
structure TrgSt where
  /-- Previous voted word by pair (10 R257). -/
  prev : SMap (BitVec 32) := []
  /-- Publish points since the last record (10 R257). -/
  rep : SMap Nat := []
  /-- Alarms at the latest decision (10 Table 10.6). -/
  alarms : SMap Nat := []
  /-- Trip map entries (10 R259). -/
  map : List (BitVec 32) := []
  /-- Map to take effect, instant (10 R259). -/
  mapNext : Option (Nat × List (BitVec 32)) := none
  deriving DecidableEq, Repr

/-- Journal. -/
structure JrnSt where
  /-- Open partition records in MRAM by slot (10 R265). -/
  openP : SMap JRec := []
  /-- Sealed partition in MRAM by block: IV, ciphertext and tag (10 R266). -/
  sealB : SMap Sealed := []
  /-- Staged records in order of happening (10 R268). -/
  staged : List JRec := []
  /-- Open records lost since the previous LOST record (10 R490). -/
  lostO : Nat := 0
  /-- Sealed records lost since the previous LOST record (10 R490). -/
  lostS : Nat := 0
  /-- Clock at which the rate window started (10 R268). -/
  winAt : Nat := 0
  /-- Records accepted in the rate window (10 R268). -/
  winN : Nat := 0
  /-- Disturbance records (10 R270). -/
  caps : List Capture := []
  /-- Disturbance area: bytes of the records of Open hives (10 R272). -/
  area : SMap (BitVec 8) := []
  /-- The records of Sealed hives in it, by offset: IV, ciphertext and tag (10 R272). -/
  areaSeal : SMap Sealed := []
  /-- Records written into the staging ring since the journal last started (10 R268). -/
  stagePos : Nat := 0
  /-- Records in it: offset, length, identifier, world (10 R272). -/
  areaRecs : List (Nat × Nat × Nat × Nat) := []
  /-- Next offset in the disturbance area (10 R272). -/
  areaNext : Nat := 0
  /-- Scrub position, 64-bit word index (10 R269). -/
  scrubAt : Nat := 0
  /-- Clock at which the latest complete scrub pass ended (10 R269). -/
  scrubDone : Nat := 0
  /-- MRAM words with uncorrectable errors (10 R269). -/
  ueWords : List Nat := []
  deriving DecidableEq, Repr

/-- Interrupt controller. -/
structure IcSt where
  /-- Owner of an active source (16 R427). -/
  owner : SMap Nat := []
  deriving DecidableEq, Repr

/-- Watchdogs. -/
structure WdgSt where
  /-- First key of a service received (16 R431). -/
  first : SMap Bool := []
  /-- WDG9 stopped by HOLDUP (16 R434). -/
  wdg9Stop : Bool := false
  /-- 1 MHz phase in clocks (16 R430). -/
  us : SMap Nat := []
  deriving DecidableEq, Repr

/-- DRAM, caches and directory. -/
structure MemSt where
  /-- DRAM bytes (14 Table 14.1). -/
  dram : SMap (BitVec 8) := []
  /-- Poisoned lines (13 R372). -/
  poison : SMap Bool := []
  /-- By cluster, line (13 R360). -/
  l2 : SMap (SMap L2Line) := []
  /-- System cache lines (13 R360). -/
  sysc : SMap SysLine := []
  /-- Directory by line (13 R363). -/
  dir : SMap DirEntry := []
  /-- DRAM channels (14 R386). -/
  ch : SMap DramCh := []
  /-- Channels that lost their contents, latest first: channel mask, channel, number of the loss (02 Table 2.2). -/
  lost : List (Nat × Nat × Nat) := []
  /-- Words holding an uncorrectable error: memory code of Table 18.4, unit, word (18 R473). -/
  ue : List (Nat × Nat × Nat) := []
  /-- Clusters declared dead (13 R368). -/
  deadL2 : List Nat := []
  /-- Clock at which the latest reclaim ends (13 R369). -/
  reclaimTo : Nat := 0
  deriving DecidableEq, Repr

/-- Test access port and debug master. -/
structure ZdpSt where
  /-- Instruction register (IDCODE after reset) (17 R438). -/
  instr : Nat := 2
  /-- Response STATUS (17 R439). -/
  status : Nat := 0
  /-- Address of the request answered (17 R439). -/
  addr : Nat := 0
  /-- Read data (17 R439). -/
  data : BitVec 64 := 0
  /-- Address following the previous completed access (17 R439). -/
  next : Nat := 0
  deriving DecidableEq, Repr

/-- Trace unit. -/
structure TrcSt where
  /-- Buffer bytes (17 R455). -/
  buf : SMap (BitVec 8) := []
  /-- Sources (17 R454). -/
  src : SMap TrcSrc := []
  /-- Worlds of sources enabled since the buffer was cleared, bit mask (17 R462). -/
  worlds : Nat := 0
  /-- The next packet opens a page (17 R455). -/
  pageNew : Bool := true
  /-- Clock up to which the queues have been written out (17 R456). -/
  drained : Nat := 0
  deriving DecidableEq, Repr

/-- Result of the latest bus access or command answer. -/
structure Resp where
  /-- Error response (00 R3). -/
  err : Bool := false
  /-- Value read (00 R4). -/
  val : BitVec 64 := 0
  deriving DecidableEq, Repr

/-- Everything the spec gives the module, beside the queue of commands. -/
structure Dev where
  /-- Device registers: by register (RName order), then by index (00 R2). -/
  regs : SMap (SMap Word) := []
  /-- The _HI latches: by requester port, then by register and index of the _HI half (00 R2). -/
  latch : SMap (SMap (Option Word)) := []
  /-- Answer of the latest access (00 R3, R4). -/
  resp : Resp := {}
  /-- The MODEL's own counter of free values drawn (log 8); no rule of the spec names it. -/
  freeCtr : Nat := 0
  /-- 1 GHz clock count since reset (01 Table 1.4). -/
  clk : Nat := 0
  /-- Timebase and tick generator (05). -/
  time : TimeSt := {}
  /-- Supply, sequencer and HOLDUP (02). -/
  pwr : PowerSt := {}
  /-- Supervisor pair (03). -/
  svp : SvpSt := {}
  /-- Life-cycle and key store (03). -/
  lcs : LcsSt := {}
  /-- Command rings (04). -/
  cmd : CmdSt := {}
  /-- Timers 0 to 15 (05). -/
  timers : SMap TmrSt := []
  /-- Ingest and aligner (06). -/
  ing : IngSt := {}
  /-- Comb (06). -/
  comb : CombSt := {}
  /-- Engines PE00 to PE63 (08, 09). -/
  engines : SMap Engine := []
  /-- Hives H0 to H7 (08). -/
  hives : SMap Hive := []
  /-- A-profile processors AC0 to AC7, and 8 for the SVP (11, 12). -/
  cores : SMap ACore := []
  /-- DRAM, caches, directory (13, 14). -/
  mem : MemSt := {}
  /-- Trip gate (10). -/
  trg : TrgSt := {}
  /-- Control blocks 0 to 127 (10). -/
  pub : SMap PubBlk := []
  /-- Journal (10). -/
  jrn : JrnSt := {}
  /-- Interrupt controller (16). -/
  ic : IcSt := {}
  /-- Watchdogs (16). -/
  wdg : WdgSt := {}
  /-- Ethernet ports PB-A, PB-B, SB-A, SB-B (15). -/
  eth : SMap EthPort := []
  /-- Duplicate tables of the process-bus and station-bus pairs (15). -/
  dup : SMap DupPair := []
  /-- Bay links BL0 to BL3 (15). -/
  blk : SMap BlkLink := []
  /-- Test access port and debug master (17). -/
  zdp : ZdpSt := {}
  /-- Trace unit (17). -/
  trc : TrcSt := {}
  deriving DecidableEq, Repr

/-- The state of the block: the waiting commands, first in first out, and the module. -/
structure State where
  pending : List Instr
  dev     : Dev
  deriving DecidableEq, Repr

/-- The module right after reset: nothing listed, so every register reads its reset value; the queue is empty. -/
def State.reset : State := { pending := [], dev := {} }

/-- Value of register r, index i, as stored. -/
def Dev.rd (s : Dev) (r : RName) (i : Nat) : Word :=
  SMap.get (RName.reset r) (SMap.get (fun _ => []) s.regs r.ctorIdx) i

/-- Register r, index i, set to v. -/
def Dev.wr (s : Dev) (r : RName) (i : Nat) (v : Word) : Dev :=
  let bank := SMap.set (RName.reset r) (SMap.get (fun _ => []) s.regs r.ctorIdx) i v
  { s with regs := SMap.set (fun _ => []) s.regs r.ctorIdx bank }

/-- Field f of index i. -/
def Dev.fg (s : Dev) (f : Fld) (i : Nat) : Nat := ((s.rd f.reg i).toNat >>> f.lo) % 2 ^ (f.hi + 1 - f.lo)

/-- Field f of index i set to v (its low bits). -/
def Dev.fs (s : Dev) (f : Fld) (i v : Nat) : Dev :=
  s.wr f.reg i ((s.rd f.reg i &&& ~~~(BitVec.ofNat 32 ((2 ^ (f.hi + 1 - f.lo) - 1) * 2 ^ f.lo))) |||
    BitVec.ofNat 32 ((v % 2 ^ (f.hi + 1 - f.lo)) * 2 ^ f.lo))

/-- The effect of a well-formed command on the module, and the fault of an ill-formed one. -/
def run (ok : Bool) (f : Dev → Dev) (s : State) : Host.Outcome State Fault Refusal :=
  if ok then .next { s with dev := f s.dev } else .fault .noUnit

end Sys2Proof.Machine
end

