-- ==== Sys2Proof/Machine/Ops.lean ====
section
/-!
DEFINITION. Sys2Proof/Machine/Ops.lean: the named operations that every family of commands shares: fields and counters,
the answer of an access, tick instants, interrupt edges (R422), error logs (R470) and journal records (R268).
-/

namespace Sys2Proof.Machine

/-! ## Fields, counters, answers -/

/-- The largest value of a field. -/
def Fld.max (f : Fld) : Nat := 2 ^ (f.hi + 1 - f.lo) - 1

/-- A count incremented, saturating at the field's largest value. -/
def Dev.inc (s : Dev) (f : Fld) (i : Nat) : Dev :=
  if s.fg f i < f.max then s.fs f i (s.fg f i + 1) else s

/-- A count increased by n, saturating. -/
def Dev.addc (s : Dev) (f : Fld) (i n : Nat) : Dev := s.fs f i (min (s.fg f i + n) f.max)

/-- The 64-bit value in a _LO and a _HI register (R2). -/
def Dev.rd64 (s : Dev) (lo hi : RName) (i : Nat) : Nat := (s.rd lo i).toNat + (s.rd hi i).toNat * 2 ^ 32

/-- A 64-bit value stored by the hardware into a _LO and a _HI register. -/
def Dev.wr64 (s : Dev) (lo hi : RName) (i v : Nat) : Dev :=
  (s.wr lo i (BitVec.ofNat 32 v)).wr hi i (BitVec.ofNat 32 (v / 2 ^ 32))

/-- The access is answered with a value. -/
def Dev.ok (s : Dev) (v : Nat) : Dev := { s with resp := { err := false, val := BitVec.ofNat 64 v } }

/-- The access is answered with an error response. -/
def Dev.bad (s : Dev) : Dev := { s with resp := { err := true, val := 0 } }

/-- Engine e. -/
def Dev.eng (s : Dev) (e : Nat) : Engine := SMap.get (fun _ => {}) s.engines e

/-- Engine e changed by f. -/
def Dev.onEng (s : Dev) (e : Nat) (f : Engine → Engine) : Dev :=
  { s with engines := SMap.mod (fun _ => {}) s.engines e f }

/-- Hive h. -/
def Dev.hive (s : Dev) (h : Nat) : Hive := SMap.get (fun _ => {}) s.hives h

/-- Hive h changed by f. -/
def Dev.onHive (s : Dev) (h : Nat) (f : Hive → Hive) : Dev :=
  { s with hives := SMap.mod (fun _ => {}) s.hives h f }

/-- Processor m of the A-profile: AC0 to AC7, 8 the SVP. -/
def Dev.core (s : Dev) (m : Nat) : ACore := SMap.get (fun _ => {}) s.cores m

/-- Processor m changed by f. -/
def Dev.onCore (s : Dev) (m : Nat) (f : ACore → ACore) : Dev :=
  { s with cores := SMap.mod (fun _ => {}) s.cores m f }

/-! ## Free values -/

/-- The counter of free values advanced: the next draw is another. -/
def Dev.draw (s : Dev) : Dev := { s with freeCtr := s.freeCtr + 1 }

/-! ## Modes, domains and worlds -/

/-- The mode in force (Table 2.3): 0 DORMANT, 1 BOOT, 2 COMMISSION, 3 SERVICE, 4 TEST, 5 HOLDUP. -/
def Dev.mode (s : Dev) : Nat := s.fg F.PWR_STAT_MODE 0

/-- The mode in force, in HOLDUP the previous one (R40). -/
def Dev.liveMode (s : Dev) : Nat := if s.mode = 5 then s.fg F.PWR_STAT_PREV 0 else s.mode

/-- The mode in force taken for the tick that begins (R37). -/
def Dev.takeMode (s : Dev) : Dev :=
  let m := s.liveMode
  { s with time := { s.time with tickMode := m } }

/-- Whether domain PDd is on (PWR_DSTAT0, PWR_DSTAT1); PD00 runs while the module is powered (R487). -/
def Dev.domOn (s : Dev) (d : Nat) : Bool :=
  if d = 0 then s.pwr.powered
  else if d = 32 then decide (s.fg F.PWR_DSTAT1_ON32 0 = 1) && decide (s.mode ≠ 0)
  else (s.rd .PWR_DSTAT0 0).toNat.testBit d

/-- The voltage monitor of domain d has no sample since the domain was switched (R464, Table 18.11). -/
def Dev.monFresh (s : Dev) (d : Nat) : Dev := (s.fs F.HLT_MON_VAL_VALUE (16 + d) 0).fs F.HLT_MON_VAL_SAMPLED (16 + d) 0

/-- Domain d marked on or off. -/
def Dev.setDom (s : Dev) (d : Nat) (on : Bool) : Dev :=
  let s := s.monFresh d
  if d = 32 then s.fs F.PWR_DSTAT1_ON32 0 (b2n on)
  else s.wr .PWR_DSTAT0 0 (BitVec.ofNat 32 (setBit (s.rd .PWR_DSTAT0 0).toNat d on))

/-- The world of hive h (R17): 0 Open, 1 Sealed. -/
def Dev.hiveWorld (s : Dev) (h : Nat) : Nat := s.fg F.HIV_CTL_WORLD h

/-- The world of engine e. -/
def Dev.engWorld (s : Dev) (e : Nat) : Nat := s.hiveWorld (e / 8)

/-! ## Tick instants (R112 to R116) -/

/-- Tick rate of a code (Table 5.2); codes 6 and 7 name no rate. -/
def rateHz : Nat → Nat
  | 0 => 4000 | 1 => 4800 | 2 => 12000 | 3 => 12800 | 4 => 14400 | 5 => 15360 | _ => 0

/-- The tick rate in force. -/
def Dev.F (s : Dev) : Nat := rateHz (s.fg F.TKG_RATE_CODE 0)

/-- Nanoseconds in a second. -/
def nsPerSec : Nat := 1000000000

/-- A timebase value as a timestamp: seconds in bits [63:30], nanoseconds in bits [29:0] (R100). -/
def stamp (x : Nat) : Nat := (x / nsPerSec) * 2 ^ 30 + x % nsPerSec

/-- The instant of absolute tick N at rate F, from the TAI epoch (R112, R116). -/
def tickAt (F N : Nat) : Nat := (N / F) * nsPerSec + roundDiv ((N % F) * nsPerSec) F

/-- The instant of the half-tick of absolute tick N at rate F (R114). -/
def halfAt (F N : Nat) : Nat := (N / F) * nsPerSec + roundDiv ((2 * (N % F) + 1) * nsPerSec) (2 * F)

/-- The rate at which the tick in progress is numbered: the old one from a rate change until its first tick (R116). -/
def Dev.tickF (s : Dev) : Nat := if s.time.rateDue then rateHz s.time.oldRate else s.F

/-- Absolute number of the tick in progress (R116). -/
def Dev.tickNo (s : Dev) : Nat := s.time.tickS * s.tickF + s.time.tickN

/-- The instant of the tick in progress. -/
def Dev.tickTime (s : Dev) : Nat := tickAt s.tickF s.tickNo

/-- The latest absolute tick whose instant is at most x, at the rate in force. -/
def tickBefore (F x : Nat) : Nat :=
  let n := x * F / nsPerSec + 1
  if tickAt F n ≤ x then n else if tickAt F (n - 1) ≤ x then n - 1 else n - 2

/-- The first absolute tick whose instant is at least x. -/
def tickFrom (F x : Nat) : Nat :=
  let n := tickBefore F x
  if tickAt F n = x then n else n + 1

/-- The first tick instant at least 20 us after now (R37, R92). -/
def Dev.tickIn20us (s : Dev) : Nat := max (tickFrom s.F (s.time.now + 20000)) (s.tickNo + 1)

/-- The slew limit in ppm: 0 acts as 1, values above 200 as 200 (Table 5.10). -/
def Dev.slewMax (s : Dev) : Nat := min 200 (max 1 (s.fg F.TMB_CFG_SLEWMAX 0))

/-- What the servo adds to the timebase over d clocks of the PLL: the slew still due at the slew limit, and the frequency
correction, with the fractions of a nanosecond carried on.  One clock advances the value by 0 to 2 ns: a nanosecond of slew
that would go beyond waits for the next clock (R100, R106). -/
def Dev.correct (s : Dev) (d : Nat) : Dev × Int :=
  let t := s.time
  let n := t.slewAcc + d * s.slewMax
  let f := t.freqAcc + (d : Int) * sext 32 (s.rd .TMB_FREQ 0).toNat
  let fr := f / 256000000000
  let due := min t.slew.natAbs (n / 1000000)
  let sgn : Int := if 0 ≤ t.slew then 1 else -1
  let m := if d < (sgn * due + fr).natAbs then due - 1 else due
  let sl : Int := sgn * m
  let left := t.slew - sl
  ({ s with time := { t with
      slew := left, slewAcc := if left = 0 then 0 else n - 1000000 * m, freqAcc := f - fr * 256000000000 } }, sl + fr)

/-- The clock and the timebase moved on to timebase value x, if it lies ahead. -/
def Dev.moveTo (s : Dev) (x : Nat) : Dev :=
  if s.time.now < x then
    let d := x - s.time.now
    let (s, c) := s.correct d
    { s with clk := s.clk + ((d : Int) - c).toNat, time := { s.time with now := x } }
  else s

/-- The clock and the timebase moved on to 1 GHz clock c, if it lies ahead. -/
def Dev.moveClk (s : Dev) (c : Nat) : Dev :=
  if s.clk < c then
    let d := c - s.clk
    let (s, a) := s.correct d
    { s with clk := c, time := { s.time with now := ((s.time.now : Int) + d + a).toNat } }
  else s

/-! ## The latches of 64-bit pairs (R2) -/

/-- Key of a _HI half's latch. -/
def latchKey (h : RName) (i : Nat) : Nat := h.ctorIdx * 65536 + i

/-- The latch of a _HI half for a requester port. -/
def Dev.latchOf (s : Dev) (port : Nat) (h : RName) (i : Nat) : Option Word :=
  SMap.get (fun _ => none) (SMap.get (fun _ => []) s.latch port) (latchKey h i)

/-- That latch set, or ended. -/
def Dev.setLatch (s : Dev) (port : Nat) (h : RName) (i : Nat) (v : Option Word) : Dev :=
  let m := SMap.get (fun _ => []) s.latch port
  { s with latch := SMap.set (fun _ => []) s.latch port (SMap.set (fun _ => none) m (latchKey h i) v) }

/-- Every port's latch of the pair that a register belongs to ended by a write of either half. -/
def Dev.endLatches (s : Dev) (r : RName) (i : Nat) : Dev :=
  let h := if r.hiHalf.isSome then r.hiHalf else r.loHalf.map (fun _ => r)
  match h with
  | some h => (List.range 18).foldl (fun s p => s.setLatch p h i none) s
  | none => s

/-! ## Interrupt edges (R422) -/

/-- An event register and an enable register have a bit in common. -/
def Dev.evtCond (s : Dev) (evt ien : RName) (i : Nat) : Bool := decide (s.rd evt i &&& s.rd ien i ≠ 0)

/-- Some engine of hive h has an overflowed and enabled counter (source 268 + h). -/
def Dev.pmuHive (s : Dev) (h : Nat) : Bool :=
  (List.range 8).any (fun j => s.evtCond .PMU_EOVF .PMU_EIEN (8 * h + j))

/-- The condition of a source with a level condition (Table 16.1); sources that pulse have none. -/
def Dev.icCond (s : Dev) (n : Nat) : Bool :=
  if n = 8 then s.evtCond .PWR_EVT .PWR_IEN 0
  else if n = 9 then s.evtCond .TMB_EVT .TMB_IEN 0
  else if n = 10 then decide ((s.rd .TKG_STAT 0).toNat / 65536 % 8 ≠ 0)
  else if 16 ≤ n ∧ n ≤ 31 then
    decide ((s.rd .TMR_STAT (n - 16) &&& s.rd .TMR_IEN (n - 16)).toNat % 128 ≠ 0)
  else if 32 ≤ n ∧ n ≤ 95 then
    decide (s.fg F.TSU_CST_FULL (n - 32) = 1) && decide (s.fg F.TSU_CCFG_IEN (n - 32) = 1)
  else if 96 ≤ n ∧ n ≤ 111 then
    (decide (s.fg F.CMD_RSTAT_REPLY (n - 96) = 1) && decide (s.fg F.CMD_RCTL_RIEN (n - 96) = 1)) ||
      (decide (s.fg F.CMD_RSTAT_OVF (n - 96) = 1) && decide (s.fg F.CMD_RCTL_OVFIEN (n - 96) = 1))
  else if n = 112 then s.evtCond .ING_EVT .ING_IEN 0
  else if n = 113 then s.evtCond .ALN_EVT .ALN_IEN 0
  else if n = 114 then s.evtCond .CMB_EVT .CMB_IEN 0
  else if 120 ≤ n ∧ n ≤ 127 then s.evtCond .HIV_EVT .HIV_IEN (n - 120)
  else if n = 128 then s.evtCond .SET_EVT .SET_IEN 0
  else if n = 129 then s.evtCond .TRG_EVT .TRG_IEN 0
  else if n = 130 then s.evtCond .PUB_EVT .PUB_IEN 0
  else if n = 131 then s.evtCond .JRN_EVT .JRN_IEN 0
  else if 136 ≤ n ∧ n ≤ 139 then s.evtCond .ETH_EVT .ETH_IEN (n - 136)
  else if n = 140 then s.evtCond .BLK_EVT .BLK_IEN 0
  else if 145 ≤ n ∧ n ≤ 152 then s.evtCond .HN_EVT .HN_IEN (n - 145)
  else if 160 ≤ n ∧ n ≤ 169 then decide (s.fg F.WDG_STAT_WARN (n - 160) = 1)
  else if 176 ≤ n ∧ n ≤ 183 then (s.core (n - 176)).lockup
  else if 192 ≤ n ∧ n ≤ 233 then
    decide (s.fg F.ERR_STAT_VALID (n - 192) = 1) && decide (s.fg F.ERR_STAT_IEN (n - 192) = 1)
  else if n = 256 then s.evtCond .HLT_EVT .HLT_IEN 0
  else if n = 257 then s.evtCond .DBG_EVT .DBG_IEN 0
  else if n = 258 then s.evtCond .TRC_EVT .TRC_IEN 0
  else if 260 ≤ n ∧ n ≤ 267 then s.evtCond .PMU_OVF .PMU_IEN (n - 260)
  else if 268 ≤ n ∧ n ≤ 275 then s.pmuHive (n - 268)
  else false

/-- Source n made pending (IC_PSET, Table 16.4). -/
def Dev.icPend (s : Dev) (n : Nat) : Dev :=
  s.wr .IC_PSET (n / 32) (s.rd .IC_PSET (n / 32) ||| BitVec.ofNat 32 (2 ^ (n % 32)))

/-- An effect, and the pending bit of source n set if its condition rises with it (R422). -/
def Dev.edge (s : Dev) (n : Nat) (f : Dev → Dev) : Dev :=
  let t := f s
  if !s.icCond n && t.icCond n then t.icPend n else t

/-- An event bit set, with the edge of source n. -/
def Dev.setEvt (s : Dev) (n : Nat) (f : Fld) (i : Nat) : Dev := s.edge n (fun s => s.fs f i 1)

/-- An event bit that is one of a field of bits set (bit b of field f). -/
def Dev.setEvtBit (s : Dev) (n : Nat) (f : Fld) (i b : Nat) : Dev :=
  s.edge n (fun s => s.fs f i (setBit (s.fg f i) b true))

/-! ## Error logs (R470) -/

/-- What a unit reports of an error: type of Table 18.3, address, requester port (31 none), world (3 none), INFO, and
whether an error response was returned. -/
structure ErrInfo where
  ty    : Nat
  addr  : Nat := 0
  port  : Nat := 31
  world : Nat := 3
  info  : Nat := 0
  resp  : Bool := false
  deriving DecidableEq, Repr

/-- The word that ERR_STATj takes from a capture, IEN kept. -/
def ErrInfo.stat (e : ErrInfo) (ien : Nat) : Nat :=
  1 + b2n e.resp * 2 + ien * 4 + (e.ty % 256) * 256 + (e.port % 32) * 65536 + (e.world % 4) * 2097152

/-- Log j captures a first error, or counts one that finds VALID set (R470). -/
def Dev.errCap (s : Dev) (j : Nat) (e : ErrInfo) : Dev :=
  if s.fg F.ERR_STAT_VALID j = 1 then s.inc F.ERR_OVF_COUNT j
  else s.edge (192 + j) (fun s =>
    ((((s.wr .ERR_STAT j (BitVec.ofNat 32 (e.stat (s.fg F.ERR_STAT_IEN j)))).wr .ERR_ADDR_LO j
      (BitVec.ofNat 32 e.addr)).wr .ERR_ADDR_HI j (BitVec.ofNat 32 (e.addr / 2 ^ 32 % 256))).wr .ERR_INFO j
      (BitVec.ofNat 32 e.info)).wr64 .ERR_TIME_LO .ERR_TIME_HI j (stamp s.time.now))

/-- Two errors of one unit in one clock: the lower type is captured, the other counts (R471). -/
def Dev.errCap2 (s : Dev) (j : Nat) (a b : ErrInfo) : Dev :=
  if a.ty ≤ b.ty then (s.errCap j a).errCap j b else (s.errCap j b).errCap j a

/-- A corrected error of unit j (R470). -/
def Dev.errCe (s : Dev) (j : Nat) : Dev := s.inc F.ERR_CECNT_COUNT j

/-- The error response to a request, captured by log j. -/
def Dev.errResp (s : Dev) (j : Nat) (rq : Req) (ty addr info : Nat) : Dev :=
  (s.errCap j { ty := ty, addr := addr, port := rq.port, world := rq.world, info := info, resp := true }).bad

/-! ## Reserved bits of the descriptor tables (R7) -/

/-- The bits of word i of a table of words that no table marks reserved: word 5 of a stream descriptor ends at bit 29, and
of a GOOSE descriptor at bit 19, its mapping entries at bit 24 (Tables 6.9 and 6.10). -/
def RName.wordBits (r : RName) (i : Nat) : Word :=
  match r with
  | .ING_SD => if i % 16 = 5 then 0x3FFFFFFF else 0xFFFFFFFF
  | .ING_GD => if i % 16 = 5 then 0x000FFFFF else if 6 ≤ i % 16 then 0x01FFFFFF else 0xFFFFFFFF
  | _ => 0xFFFFFFFF

/-! ## Requests to device blocks (R3, R34, R48 and its counterparts) -/

/-- Physical address of an offset in device block i (Table 14.2). -/
def devAddr (i off : Nat) : Nat := 0x4100000000 + i * 0x10000 + off

/-- Whether a requester is fenced: a dead L2, and what its cores ask through it, and a dead core (R371). -/
def Dev.fenced (s : Dev) (rq : Req) : Bool :=
  (decide (rq.port < 2) && s.mem.deadL2.contains rq.port) ||
    (match rq.core with
     | some m => decide (m < 8) && (s.core m).dead
     | none => false)

/-- What a requester asks, served; an error response if it is fenced (R371). -/
def Dev.byFence (s : Dev) (rq : Req) (f : Dev → Dev) : Dev := if s.fenced rq then s.bad else f s

/-- Whether a requester reaches the registers of domain d: the domain is on (R34) and the requester is not fenced (R371). -/
def Dev.reaches (s : Dev) (rq : Req) (d : Nat) : Bool := s.domOn d && !s.fenced rq

/-- A register access of block i, whose domain is d: an error response to a fenced requester; refused while the domain is off (R34) or where the block's rule does
not admit the requester, and made otherwise. -/
def Dev.gate (s : Dev) (rq : Req) (i off d : Nat) (admitted : Bool) (f : Dev → Dev) : Dev :=
  if s.fenced rq then s.bad
  else if !s.domOn d then s.errResp 18 rq 0x11 (devAddr i off) d
  else if !admitted then s.errResp i rq 0x01 (devAddr i off) off
  else f s

/-! ## Bytes of DRAM (Table 14.1) -/

/-- What a DRAM byte that nothing has written reads as: 0, since boot step 3 clears DRAM (Table 18.5); a free value in a
channel that has lost its contents (Table 2.2, log 21). -/
def dramBlank (lost : List (Nat × Nat × Nat)) (a : Nat) : Byte :=
  match lost.find? (fun x => decide (popCount 40 (Nat.land a x.1) % 2 = x.2.1)) with
  | some x => Config.lostDram x.2.2 a
  | none => 0

/-- A DRAM byte. -/
def Dev.dramByte (s : Dev) (a : Nat) : Byte := SMap.get (dramBlank s.mem.lost) s.mem.dram a

/-- A DRAM byte written. -/
def Dev.setDramByte (s : Dev) (a : Nat) (b : Byte) : Dev :=
  { s with mem := { s.mem with dram := SMap.set (dramBlank s.mem.lost) s.mem.dram a b } }

/-- Bytes written to DRAM from address a on. -/
def Dev.setDramBytes (s : Dev) : Nat → List Byte → Dev
  | _, [] => s
  | a, b :: l => (s.setDramByte a b).setDramBytes (a + 1) l

/-! ## Journal records (R265 to R268, R489, R490) -/

/-- Records that the 4 MiB staging ring holds (R268). -/
def stagingRecords : Nat := 65536

/-- The next index of the partition of world w (R489). -/
def Dev.jrnNext (s : Dev) (w : Nat) : Nat :=
  if w = 1 then s.rd64 .JRN_SNEXT_LO .JRN_SNEXT_HI 0 else s.rd64 .JRN_ONEXT_LO .JRN_ONEXT_HI 0

/-- The next index of the partition of world w set. -/
def Dev.setJrnNext (s : Dev) (w v : Nat) : Dev :=
  if w = 1 then s.wr64 .JRN_SNEXT_LO .JRN_SNEXT_HI 0 v else s.wr64 .JRN_ONEXT_LO .JRN_ONEXT_HI 0 v

/-- The 60 octets of a record before its CRC (Table 10.9). -/
def JRec.body (r : JRec) : List Byte :=
  leBytes 8 (stamp r.time) ++ leBytes 8 r.tick ++ leBytes 8 r.index ++ leBytes 2 r.type ++ leBytes 1 r.src ++
    leBytes 1 (r.world % 2 + 2 * b2n r.direct) ++ (r.payload ++ List.replicate 32 0).take 32

/-- The 64 octets of a record (Table 10.9). -/
def JRec.bytes (r : JRec) : List Byte := r.body ++ leBytes 4 (crc32 r.body)

/-- Words w0 to w0 + n - 1 of MRAM rewritten: none of them holds an uncorrectable error any more (R269). -/
def Dev.mramFresh (s : Dev) (w0 n : Nat) : Dev :=
  { s with jrn := { s.jrn with ueWords := s.jrn.ueWords.filter (fun w => decide (w < w0) || decide (w0 + n ≤ w)) } }

/-- 64-bit word of MRAM at which the Open and the Sealed partition start (Table 10.8). -/
def openWord0 : Nat := 0x1000000 / 8
def sealedWord0 : Nat := 0x2000000 / 8

/-- The sealing key (R58), its first octet lowest. -/
def Dev.sealKey (s : Dev) : List Byte := leBytes 32 (Config.sealKdf s.lcs.dus s.lcs.epoch).toNat

/-- The 12-octet IV made of a count and EPOCH (R266): the count in octets 0 to 7. -/
def Dev.sealIv (s : Dev) (count : Nat) : List Byte := leBytes 8 count ++ leBytes 4 s.lcs.epoch

/-- The octets of the 63 records of Sealed block b, if its tag holds. -/
def Dev.sealBlock (s : Dev) (b : Nat) : Option (List Byte) := gcmOpen s.sealKey (SMap.get (fun _ => {}) s.jrn.sealB b)

/-- The block that a Sealed record of index i goes into, with that record in its place: the block of the same count as it
stands, or a new one of zeros. -/
def Dev.sealWith (s : Dev) (i : Nat) (r : List Byte) : Sealed :=
  let b := i / 63 % 2048
  let iv := s.sealIv (i / 63)
  let blank := List.replicate 4032 0
  let old := if (SMap.get (fun _ => {}) s.jrn.sealB b).iv = iv then (s.sealBlock b).getD blank else blank
  let at' := 64 * (i % 63)
  gcmSeal s.sealKey iv (old.take at' ++ r ++ old.drop (at' + 64))

/-- A record placed in MRAM: the Open slot i mod 262,144, or the Sealed block floor(i / 63) mod 2,048 (R266).  The record
in a partition's last place completes a lap (R269). -/
def Dev.jrnPlace (s : Dev) (r : JRec) : Dev :=
  if r.world = 1 then
    let k := r.index % (63 * 2048)
    let m := s.sealWith r.index r.bytes
    let s := { s with jrn := { s.jrn with sealB := SMap.set (fun _ => {}) s.jrn.sealB (k / 63) m } }
    let s := s.mramFresh (sealedWord0 + k / 63 * 512) 512
    if k + 1 = 63 * 2048 then s.inc F.JRN_WEARS_LAPS 0 else s
  else
    let k := r.index % 262144
    let s := { s with jrn := { s.jrn with openP := SMap.set (fun _ => {}) s.jrn.openP k r } }
    let s := s.mramFresh (openWord0 + 8 * k) 8
    if k + 1 = 262144 then s.inc F.JRN_WEARO_LAPS 0 else s

/-- Records accepted in the second that started at winAt; the window moves on with the clock (R268, log 16). -/
def Dev.jrnWindow (s : Dev) : Dev :=
  if s.jrn.winAt + nsPerSec ≤ s.clk then
    { s with jrn := { s.jrn with winAt := s.clk, winN := 0 } }
  else s

/-- Whether JRN can accept n more records now (R268). -/
def Dev.jrnRoom (s : Dev) (n : Nat) : Bool :=
  decide ((s.jrnWindow).jrn.winN + n ≤ 2000000) &&
    (decide (s.fg F.JRN_STAT_DIRECT 0 = 1) || decide (s.jrn.staged.length + n ≤ stagingRecords))

/-- The bytes not yet flushed (JRN_UNFL). -/
def Dev.jrnUnfl (s : Dev) : Dev := s.fs F.JRN_UNFL_BYTES 0 (64 * s.jrn.staged.length)

/-- The place in DRAM of the n-th record that the staging ring takes (R268). -/
def Dev.stageAt (s : Dev) (n : Nat) : Nat :=
  s.rd64 .JRN_STGBASE_LO .JRN_STGBASE_HI 0 + 64 * (n % stagingRecords)

/-- A record put into the staging ring: it stands in the list of records not yet flushed, and its octets in DRAM. -/
def Dev.jrnStage (s : Dev) (r : JRec) : Dev :=
  let a := s.stageAt s.jrn.stagePos
  let s := if s.domOn 29 && s.domOn 30 && decide (a + 64 ≤ 2 ^ 34) then s.setDramBytes a r.bytes else s
  Dev.jrnUnfl { s with jrn := { s.jrn with staged := s.jrn.staged ++ [r], stagePos := s.jrn.stagePos + 1 } }

/-- JRN accepts a record: it takes the partition's next index, into staging or directly into MRAM (R268, R489). -/
def Dev.jrnAccept (s : Dev) (ty src w time : Nat) (payload : List Byte) : Dev :=
  let s := s.jrnWindow
  let direct := decide (s.fg F.JRN_STAT_DIRECT 0 = 1)
  let i := s.jrnNext w
  let r : JRec := { time := time, tick := s.tickNo, index := i, type := ty, src := src, world := w,
                    direct := direct, payload := payload }
  let s := (s.setJrnNext w (i + 1))
  let s := { s with jrn := { s.jrn with winN := s.jrn.winN + 1 } }
  if direct then s.jrnPlace r
  else s.jrnStage r

/-- A record that JRN cannot accept is lost and counted (R268, R490). -/
def Dev.jrnLose (s : Dev) (w : Nat) : Dev :=
  let s := if w = 1 then { s with jrn := { s.jrn with lostS := s.jrn.lostS + 1 } }
    else { s with jrn := { s.jrn with lostO := s.jrn.lostO + 1 } }
  (s.inc F.JRN_LOST_COUNT 0).setEvt 131 F.JRN_EVT_LOST 0

/-- A record of a happening at timebase value `time`. -/
def Dev.recordAt (s : Dev) (ty src w time : Nat) (payload : List Byte) : Dev :=
  if s.jrnRoom 1 then s.jrnAccept ty src w time payload else s.jrnLose w

/-- A record of a happening now. -/
def Dev.record (s : Dev) (ty src w : Nat) (payload : List Byte) : Dev := s.recordAt ty src w s.time.now payload

/-! ## Lists of effects -/

/-- An effect for each number of a list, in order. -/
def Dev.each (s : Dev) (l : List Nat) (f : Dev → Nat → Dev) : Dev := l.foldl f s

/-- An effect under a condition. -/
def Dev.cond (s : Dev) (b : Bool) (f : Dev → Dev) : Dev := if b then f s else s

/-- A new nonce (R65). -/
def Dev.newNonce (s : Dev) : Dev :=
  let n := (Config.random128 s.freeCtr).toNat
  (s.each (List.range 4) (fun s i => s.wr .LCS_NONCE i (BitVec.ofNat 32 (n / 2 ^ (32 * i))))).draw

end Sys2Proof.Machine
end

