-- ==== Sys2Proof/Machine/Interrupts.lean ====
section
/-!
DEFINITION. Sys2Proof/Machine/Interrupts.lean: the interrupt controller (16 R421 to R428, R437).
-/

namespace Sys2Proof.Machine

/-! ## Bits of a source -/

/-- Whether a source number is reserved (Table 16.1). -/
def icReserved (n : Nat) : Bool :=
  (decide (13 ≤ n) && decide (n ≤ 15)) || (decide (115 ≤ n) && decide (n ≤ 119)) ||
  (decide (132 ≤ n) && decide (n ≤ 135)) || (decide (141 ≤ n) && decide (n ≤ 144)) ||
  (decide (153 ≤ n) && decide (n ≤ 159)) || (decide (170 ≤ n) && decide (n ≤ 175)) ||
  (decide (184 ≤ n) && decide (n ≤ 191)) || decide (n = 223) || (decide (234 ≤ n) && decide (n ≤ 255)) ||
  decide (n = 259) || (decide (276 ≤ n) && decide (n ≤ 511))

/-- A bit of source n in a bank of 32 registers. -/
def Dev.icBit (s : Dev) (r : RName) (n : Nat) : Bool := (s.rd r (n / 32)).toNat.testBit (n % 32)

/-- That bit set or cleared. -/
def Dev.setIcBit (s : Dev) (r : RName) (n : Nat) (b : Bool) : Dev :=
  s.wr r (n / 32) (BitVec.ofNat 32 (setBit (s.rd r (n / 32)).toNat (n % 32) b))

def Dev.icPending (s : Dev) (n : Nat) : Bool := s.icBit .IC_PSET n
def Dev.icEnabled (s : Dev) (n : Nat) : Bool := s.icBit .IC_ESET n
def Dev.icActive (s : Dev) (n : Nat) : Bool := s.icBit .IC_ACT n

/-- A source waits for a target's service: pending, enabled, not active. -/
def Dev.icWaits (s : Dev) (n : Nat) : Bool := s.icPending n && s.icEnabled n && !s.icActive n

/-! ## Delivery (R424, R425) -/

/-- Whether target t is able to take source n (R424). -/
def Dev.icAble (s : Dev) (n t : Nat) : Bool :=
  if t = 8 then true
  else
    let c := s.core t
    s.domOn (18 + t) && c.released && !c.lockup && !c.dead && decide (c.world = s.fg F.IC_SRC_WORLD n)

/-- Whether target t is eligible for source n (R424). -/
def Dev.icEligible (s : Dev) (n t : Nat) : Bool := (s.fg F.IC_SRC_TMASK n).testBit t && s.icAble n t

/-- The first eligible target after LAST, in the order AC0 to AC7, SVP, wrapping around (R425). -/
def Dev.icNext (s : Dev) (n : Nat) : Option Nat :=
  ((List.range 9).map (fun i => (s.fg F.IC_SRC_LAST n + 1 + i) % 9)).find? (fun t => s.icEligible n t)

/-- A source whose target is no longer eligible, or whose enable is cleared, is unassigned again (R425). -/
def Dev.icRefresh (s : Dev) (n : Nat) : Dev :=
  let t := s.fg F.IC_SRC_CUR n
  if t = 15 then s
  else if s.icEnabled n && s.icEligible n t then s
  else s.fs F.IC_SRC_CUR n 15

/-- A waiting and unassigned source is assigned (R425). -/
def Dev.icAssignNow (s : Dev) (n : Nat) : Dev :=
  let s := s.icRefresh n
  if s.icWaits n && decide (s.fg F.IC_SRC_CUR n = 15) then
    match s.icNext n with
    | some t => s.fs F.IC_SRC_CUR n t
    | none => s
  else s

/-- While core t is in its monitor, only sources of a priority above its KEEPPRI field assert its lines (R449). -/
def Dev.icKept (s : Dev) (n t : Nat) : Bool :=
  if t < 8 ∧ s.fg F.DBG_CSTAT_MON t = 1 then
    decide (bits (s.fg F.DBG_KEEPPRI_LEVEL 0) (4 * t + 3) (4 * t) < s.fg F.IC_SRC_PRIO n)
  else true

/-- Whether source n asserts target t's ordinary (false) or quick (true) line (R426). -/
def Dev.icAsserts (s : Dev) (t : Nat) (quick : Bool) (n : Nat) : Bool :=
  s.icWaits n && decide (s.fg F.IC_SRC_CUR n = t) && s.icEligible n t &&
    (decide (s.fg F.IC_SRC_QUICK n = 1) == quick) && s.icKept n t

/-- The numbers of the sources that wait. -/
def Dev.icWaiting (s : Dev) : List Nat :=
  ((List.range 32).filter (fun w => decide (s.rd .IC_PSET w ≠ 0))).flatMap (fun w =>
    ((List.range 32).map (fun b => 32 * w + b)).filter (fun n => s.icWaits n))

/-- The better of two sources: the higher PRIO, the lower number among equals (R427). -/
def Dev.icBetter (s : Dev) (a b : Nat) : Nat :=
  if s.fg F.IC_SRC_PRIO b < s.fg F.IC_SRC_PRIO a then a
  else if s.fg F.IC_SRC_PRIO a < s.fg F.IC_SRC_PRIO b then b
  else min a b

/-- The source that target t's line gives a claim, if the line is asserted (R427). -/
def Dev.icLine (s : Dev) (t : Nat) (quick : Bool) : Option Nat :=
  (s.icWaiting.filter (fun n => s.icAsserts t quick n)).foldl (fun o n =>
    match o with
    | none => some n
    | some a => some (s.icBetter a n)) none

/-- Some source wakes a sleeping core: assigned to it, pending, enabled and not active (R429). -/
def Dev.icWakes (s : Dev) (t : Nat) : Bool :=
  s.icWaiting.any (fun n => decide (s.fg F.IC_SRC_CUR n = t))

/-- A warm reset or a cut of core t clears the active bits it owns, and its sources are assigned again (R428). -/
def Dev.icDrop (s : Dev) (t : Nat) : Dev :=
  s.each (List.range 1024) (fun s n =>
    if s.icActive n && decide (SMap.get (fun _ => 15) s.ic.owner n = t) then s.setIcBit .IC_ACT n false else s.icRefresh n)

/-! ## Claims and completions (R427, R428) -/

/-- The value of a claim register. -/
def claimValue : Option Nat → Nat
  | none => 0
  | some n => n + 2 ^ 31

/-- A claim of source n by target t. -/
def Dev.icTake (s : Dev) (t n : Nat) : Dev :=
  let s := (s.setIcBit .IC_PSET n false).setIcBit .IC_ACT n true
  let s := (s.fs F.IC_SRC_LAST n t).fs F.IC_SRC_CUR n 15
  { s with ic := { s.ic with owner := SMap.set (fun _ => 15) s.ic.owner n t } }

/-- Whether a request is the target's own. -/
def claimOwner (rq : Req) (t : Nat) : Bool := if t = 8 then rq.svp else rq.ofCore t

/-- A read of IC_CLAIMt or IC_QCLAIMt (R427). -/
def Dev.icClaimRead (s : Dev) (rq : Req) (t : Nat) (quick : Bool) : Dev :=
  let off := 0x400 + 0x10 * t + 4 * b2n quick
  let line := s.icLine t quick
  if rq.debug && rq.peek then s.ok (claimValue line)
  else if !claimOwner rq t then s.errResp 16 rq 0x05 (devAddr 16 off) 0
  else match line with
    | none => s.ok 0
    | some n => (s.icTake t n).ok (claimValue line)

/-- The re-arm of R422: pending if the condition is 1 now. -/
def Dev.icRearmNow (s : Dev) (n : Nat) : Dev := if s.icCond n then s.icPend n else s

/-- A write of IC_COMPLt (R428). -/
def Dev.icComplete (s : Dev) (rq : Req) (t : Nat) (v : Word) : Dev :=
  let n := v.toNat % 1024
  if s.icActive n && decide (SMap.get (fun _ => 15) s.ic.owner n = t) then
    let s := s.setIcBit .IC_ACT n false
    s.cond (v.getLsbD 31) (fun s => s.icRearmNow n)
  else s.errCap 16 { ty := 0x10, addr := devAddr 16 (0x408 + 0x10 * t), port := rq.port, world := rq.world, info := v.toNat }

/-! ## Writes under R423 -/

/-- Whether a requester may write the bits of source n. -/
def Dev.icMay (s : Dev) (rq : Req) (n : Nat) : Bool := rq.svp || rq.ofWorld (s.fg F.IC_SRC_WORLD n)

/-- The bits of a word that name assignable sources of register w which the requester may change. -/
def Dev.icBitsOf (s : Dev) (rq : Req) (w : Nat) (v : Word) : List Nat :=
  ((onesBelow 32 v.toNat).map (fun b => 32 * w + b)).filter (fun n => !icReserved n && s.icMay rq n)

/-- A write of IC_PSET, IC_PCLR, IC_ESET or IC_ECLR, register w (Table 16.4). -/
def Dev.icBankWrite (s : Dev) (rq : Req) (bank : RName) (set : Bool) (w : Nat) (v : Word) : Dev :=
  s.each (s.icBitsOf rq w v) (fun s n => (s.setIcBit bank n set).icRefresh n)

/-- A write of IC_REARM. -/
def Dev.icRearmWrite (s : Dev) (rq : Req) (v : Word) : Dev :=
  let n := v.toNat % 1024
  if !icReserved n && s.icMay rq n then s.icRearmNow n else s

/-- A write of IC_SRCn (R423): the SVP writes WORLD, TMASK[8] and the fields of fixed sources. -/
def Dev.icSrcWrite (s : Dev) (rq : Req) (n : Nat) (v : Word) : Dev :=
  let fixed := decide (s.fg F.IC_SRC_FIXED n = 1)
  let x := v.toNat
  let own := s.icMay rq n
  if !rq.svp && (fixed || !own) then s
  else
    let s := if fixed then s
      else if rq.svp then s.fs F.IC_SRC_TMASK n (x % 512)
      else s.fs F.IC_SRC_TMASK n (x % 256 + 256 * (s.fg F.IC_SRC_TMASK n / 256))
    let s := (s.fs F.IC_SRC_QUICK n (bits x 9 9)).fs F.IC_SRC_PRIO n (bits x 13 10)
    let s := s.cond rq.svp (fun s => s.fs F.IC_SRC_WORLD n (bits x 16 16))
    s.icRefresh n

/-- IC_TSTATt (Table 16.4). -/
def Dev.icTstat (s : Dev) (t : Nat) : Nat :=
  b2n (s.icLine t false).isSome + 2 * b2n (s.icLine t true).isSome + 4 * b2n (s.core t).asleep

/-! ## The commands -/

/-- IC_ASSIGN: source n at the next fabric clock (R425). -/
def execIcAssign (n : Nat) (s : State) : Host.Outcome State Fault Refusal :=
  run (wellFormed (.icAssign n)) (fun s => s.icAssignNow n) s

/-- IC_CLAIM (R427). -/
def execIcClaim (rq : Req) (t : Nat) (s : State) : Host.Outcome State Fault Refusal :=
  run (wellFormed (.icClaim rq t)) (fun s => s.gate rq 16 (0x400 + 0x10 * t) 28 true (fun s => s.icClaimRead rq t false)) s

/-- IC_QCLAIM (R427). -/
def execIcQclaim (rq : Req) (t : Nat) (s : State) : Host.Outcome State Fault Refusal :=
  run (wellFormed (.icQclaim rq t)) (fun s => s.gate rq 16 (0x404 + 0x10 * t) 28 true (fun s => s.icClaimRead rq t true)) s

/-- IC_COMPL (R428). -/
def execIcCompl (rq : Req) (t : Nat) (v : Word) (s : State) : Host.Outcome State Fault Refusal :=
  run (wellFormed (.icCompl rq t v)) (fun s =>
    s.gate rq 16 (0x408 + 0x10 * t) 28 true (fun s => (s.icComplete rq t v).ok 0)) s

/-- IC_REARM (R422). -/
def execIcRearm (rq : Req) (v : Word) (s : State) : Host.Outcome State Fault Refusal :=
  run (wellFormed (.icRearm rq v)) (fun s => s.gate rq 16 0x280 28 true (fun s => (s.icRearmWrite rq v).ok 0)) s

/-- IC_PSET: software sources and every other made pending by a write (R421, R423). -/
def execIcPset (rq : Req) (w : Nat) (v : Word) (s : State) : Host.Outcome State Fault Refusal :=
  run (wellFormed (.icPset rq w v)) (fun s => s.gate rq 16 (4 * w) 28 true (fun s => (s.icBankWrite rq .IC_PSET true w v).ok 0)) s

end Sys2Proof.Machine
end

