-- ==== Sys2Proof/Machine/Mem.lean ====
section
/-!
DEFINITION. Sys2Proof/Machine/Mem.lean: DRAM, the world firewall, poison, the two L2s, the system cache and the home
slices' transactions (13 R341 to R372, 14 R373 to R396).  The data of a line that an L1 holds stands in its cluster's L2,
which is inclusive (Table 13.4).  What a core holds in its L1s, and its reservation, stand in the core.
-/

namespace Sys2Proof.Machine

/-! ## DRAM -/

/-- Bytes of DRAM (Table 14.1). -/
def dramSize : Nat := 2 ^ 34

/-- n bytes of DRAM as it stands, without the caches. -/
def Dev.dramBytes (s : Dev) (a n : Nat) : List Byte := (List.range n).map (fun i => s.dramByte (a + i))

/-- The 64 bytes of line l as a number. -/
def Dev.dramLine (s : Dev) (l : Nat) : Nat := leNat (s.dramBytes (64 * l) 64)

/-- The 64 bytes of line l written. -/
def Dev.setDramLine (s : Dev) (l v : Nat) : Dev :=
  s.each (List.range 64) (fun s i => s.setDramByte (64 * l + i) (BitVec.ofNat 8 (v / 2 ^ (8 * i))))

/-- Whether line l is poisoned in DRAM (R372). -/
def Dev.poisoned (s : Dev) (l : Nat) : Bool := SMap.get (fun _ => false) s.mem.poison l

/-- Poison of line l set or cleared. -/
def Dev.setPoison (s : Dev) (l : Nat) (b : Bool) : Dev :=
  { s with mem := { s.mem with poison := SMap.set (fun _ => false) s.mem.poison l b } }

/-- Parity of the bits of pa that a mask selects (R387). -/
def parityOf (pa mask : Nat) : Nat := popCount 40 (Nat.land pa mask) % 2

/-- Channel of an address (R387). -/
def Dev.dramChan (s : Dev) (pa : Nat) : Nat := parityOf pa (s.rd64 .DMC_HCH_LO .DMC_HCH_HI 0)

/-- Bank of an address: 4 x bank group + bank (R387). -/
def Dev.dramBank (s : Dev) (pa : Nat) : Nat :=
  4 * (parityOf pa (s.rd64 .DMC_HBG0_LO .DMC_HBG0_HI 0) + 2 * parityOf pa (s.rd64 .DMC_HBG1_LO .DMC_HBG1_HI 0)) +
    parityOf pa (s.rd64 .DMC_HBA0_LO .DMC_HBA0_HI 0) + 2 * parityOf pa (s.rd64 .DMC_HBA1_LO .DMC_HBA1_HI 0)

/-- Row of an address. -/
def dramRow (pa : Nat) : Nat := pa / 2 ^ 18 % 2 ^ 16

/-- Home slice of an address (R389). -/
def homeSlice (pa : Nat) : Nat :=
  Nat.xor (bits pa 8 6) (Nat.xor (bits pa 11 9) (Nat.xor (bits pa 14 12) (Nat.xor (bits pa 17 15) (bits pa 20 18))))

/-! ## The firewall (R376) -/

/-- Base and size in bytes, and world, of firewall region r. -/
def Dev.fwBase (s : Dev) (r : Nat) : Nat := s.fg F.NOC_FW_BASE_LO_BASE r * 2 ^ 16 + s.fg F.NOC_FW_BASE_HI_BASE r * 2 ^ 32
def Dev.fwSize (s : Dev) (r : Nat) : Nat := s.fg F.NOC_FW_SIZE_SIZE r * 2 ^ 16
def Dev.fwWorld (s : Dev) (r : Nat) : Nat := s.fg F.NOC_FW_CTL_WORLD r

/-- Whether region r is enabled and contains an address. -/
def Dev.fwHas (s : Dev) (r pa : Nat) : Bool :=
  decide (s.fwSize r ≠ 0) && decide (s.fwBase r ≤ pa) && decide (pa < s.fwBase r + s.fwSize r)

/-- World of the enabled region that contains an address. -/
def Dev.regionWorld (s : Dev) (pa : Nat) : Option Nat := ((List.range 16).find? (fun r => s.fwHas r pa)).map s.fwWorld

/-- Whether the firewall admits a request of world w (2 is M) to a DRAM address. -/
def Dev.admits (s : Dev) (w pa : Nat) : Bool := decide (w = 2) || decide (s.regionWorld pa = some w)

/-! ## Refusals at a home slice -/

/-- An event of home slice sl. -/
def Dev.hnEvt (s : Dev) (sl : Nat) (f : Fld) : Dev := s.setEvt (145 + sl) f sl

/-- A request refused by the firewall (R376). -/
def Dev.fwRefuse (s : Dev) (port w pa : Nat) : Dev :=
  let sl := homeSlice pa
  ((s.errCap 19 { ty := 0x04, addr := pa, port := port, world := w, info := sl * 256, resp := true }).inc
    F.HN_FWCNT_COUNT sl).hnEvt sl F.HN_EVT_FWREF

/-- A dirty write-back discarded by the firewall (R379). -/
def Dev.fwDiscard (s : Dev) (port w pa : Nat) : Dev :=
  let sl := homeSlice pa
  ((s.errCap 19 { ty := 0x04, addr := pa, port := port, world := w, info := sl * 256 + 1 }).inc
    F.HN_FWCNT_COUNT sl).hnEvt sl F.HN_EVT_FWREF

/-- An access to a poisoned line refused (R372). -/
def Dev.poisonRefuse (s : Dev) (port w pa : Nat) : Dev :=
  let sl := homeSlice pa
  (s.errCap 19 { ty := 0x06, addr := pa, port := port, world := w, info := sl, resp := true }).hnEvt sl F.HN_EVT_POISON

/-- A DRAM request while its channel's domain is off (R34, R46). -/
def Dev.dramOffRefuse (s : Dev) (port w pa : Nat) : Dev :=
  s.errCap 19 { ty := 0x11, addr := pa, port := port, world := w, info := 29 + s.dramChan pa, resp := true }

/-- Why a home slice refuses a request: none, or the state with the refusal logged; a dead L2 is fenced (R371). -/
def Dev.homeRefuse (s : Dev) (port w pa : Nat) : Option Dev :=
  if port < 2 ∧ s.mem.deadL2.contains port then some s
  else if !s.domOn (29 + s.dramChan pa) then some (s.dramOffRefuse port w pa)
  else if !s.admits w pa then some (s.fwRefuse port w pa)
  else none

/-! ## L2 lines, L1 presence, reservations -/

/-- Line l of cluster c's L2. -/
def Dev.l2line (s : Dev) (c l : Nat) : L2Line := SMap.get (fun _ => {}) (SMap.get (fun _ => []) s.mem.l2 c) l

/-- Line l of cluster c's L2 replaced. -/
def Dev.setL2 (s : Dev) (c l : Nat) (x : L2Line) : Dev :=
  { s with mem := { s.mem with
      l2 := SMap.set (fun _ => []) s.mem.l2 c (SMap.set (fun _ => {}) (SMap.get (fun _ => []) s.mem.l2 c) l x) } }

/-- The system cache's copy of line l; the data of a clean copy are those of DRAM. -/
def Dev.sysLine (s : Dev) (l : Nat) : SysLine := SMap.get (fun _ => {}) s.mem.sysc l

/-- The system cache's copy of line l replaced. -/
def Dev.setSys (s : Dev) (l : Nat) (x : SysLine) : Dev :=
  { s with mem := { s.mem with sysc := SMap.set (fun _ => {}) s.mem.sysc l x } }

/-- Directory entry of line l. -/
def Dev.dirAt (s : Dev) (l : Nat) : DirEntry := SMap.get (fun _ => {}) s.mem.dir l

/-- Directory entry of line l changed. -/
def Dev.onDir (s : Dev) (l : Nat) (f : DirEntry → DirEntry) : Dev :=
  { s with mem := { s.mem with dir := SMap.mod (fun _ => {}) s.mem.dir l f } }

/-- The directory state that the L2s' copies give (Table 13.6). -/
def Dev.syncDir (s : Dev) (l : Nat) : Dev :=
  let a := (s.l2line 0 l).st
  let b := (s.l2line 1 l).st
  let st := if 2 ≤ a ∨ 2 ≤ b then 2 else if a = 1 ∨ b = 1 then 1 else 0
  s.onDir l (fun d => { d with st := st, pres := BitVec.ofNat 2 (b2n (decide (a ≠ 0)) + 2 * b2n (decide (b ≠ 0))) })

/-- The lines that an access in flight has still to read. -/
def InFlight.lines (f : InFlight) : List Nat := (f.want.filter (fun w => decide (w.1 = 0))).map (fun w => w.2.1 / 64)

/-- An LDX whose line comes from beyond the L2 has not won it yet. -/
def ACore.awaits (c : ACore) (l : Nat) : Bool :=
  c.fly.any (fun f => decide (f.op = 0xAF) && decide (5 ≤ f.kind) && f.lines.contains l)

/-- A processor's reservation of line l lost; one whose line is still to be won stays (R352). -/
def ACore.loseResv (c : ACore) (l : Nat) : ACore := if c.resv = some l ∧ !c.awaits l then { c with resv := none } else c

/-- Every reservation of line l lost, but that of processor `keep` (9: none kept). -/
def Dev.loseResvs (s : Dev) (l keep : Nat) : Dev :=
  s.each ((List.range 9).filter (fun m => decide (m ≠ keep))) (fun s m => s.onCore m (fun c => c.loseResv l))

/-- What core m's L1 data cache holds of line l: 0 nothing, 1 a copy, 2 a modified one. -/
def ACore.l1 (c : ACore) (l : Nat) : Nat := SMap.get (fun _ => 0) c.l1d l

/-- A core's L1 data copy of line l invalidated: its reservation goes with it. -/
def Dev.dropL1 (s : Dev) (m l : Nat) : Dev :=
  s.onCore m (fun c => { c.loseResv l with l1d := SMap.set (fun _ => 0) c.l1d l 0 })

/-- A core's L1 instruction copy of line l invalidated. -/
def Dev.dropL1i (s : Dev) (m l : Nat) : Dev := s.onCore m (fun c => { c with l1i := SMap.set (fun _ => none) c.l1i l none })

/-- An L1 data copy of line l that another agent shares: it stays, unmodified. -/
def ACore.shareL1 (c : ACore) (l : Nat) : ACore :=
  { c with l1d := SMap.set (fun _ => 0) c.l1d l (min 1 (SMap.get (fun _ => 0) c.l1d l)) }

/-- Cluster of an application core. -/
def clusterOf (m : Nat) : Nat := m / 4

/-- The four cores of a cluster. -/
def coresOf (c : Nat) : List Nat := (List.range 4).map (fun i => 4 * c + i)

/-- A dirty line reaches its home slice as a snoop's answer: it goes to DRAM, or is discarded by the firewall (R379); a
poisoned one makes DRAM poisoned (R369). -/
def Dev.writeBack (s : Dev) (c l : Nat) (x : L2Line) : Dev :=
  if x.poison then s.setPoison l true
  else if s.admits x.world (64 * l) then (s.setDramLine l x.data.toNat).setSys l {}
  else s.fwDiscard c x.world (64 * l)

/-- Cluster c answers a snoop of line l: it gives its copy up (inv) or keeps a shared one (R363, R365). -/
def Dev.snoopL2 (s : Dev) (c l : Nat) (inv : Bool) : Dev :=
  let x := s.l2line c l
  if x.st = 0 then s
  else
    let s := if x.st = 3 then s.writeBack c l x else s
    let s := s.setL2 c l (if inv || x.poison then {} else { x with st := 1 })
    let s := if inv then s.each (coresOf c) (fun s m => s.dropL1 m l)
      else s.each (coresOf c) (fun s m => s.onCore m (fun k => k.shareL1 l))
    s.syncDir l

/-- The line as its home slice holds it, when no L2 is newer. -/
def Dev.homeData (s : Dev) (l : Nat) : Nat :=
  if (s.sysLine l).dirty then (s.sysLine l).data.toNat else s.dramLine l

/-- The newest copy of line l: what a coherent read returns. -/
def Dev.newest (s : Dev) (l : Nat) : Nat :=
  if (s.l2line 0 l).st = 3 then (s.l2line 0 l).data.toNat
  else if (s.l2line 1 l).st = 3 then (s.l2line 1 l).data.toNat
  else s.homeData l

/-- The byte at address a as a coherent observer sees it. -/
def Dev.memByte (s : Dev) (a : Nat) : Byte :=
  let l := a / 64
  let of := fun (v : BitVec 512) => BitVec.ofNat 8 (v.toNat / 2 ^ (8 * (a % 64)))
  if (s.l2line 0 l).st = 3 then of (s.l2line 0 l).data
  else if (s.l2line 1 l).st = 3 then of (s.l2line 1 l).data
  else if (s.sysLine l).dirty then of (s.sysLine l).data
  else s.dramByte a

/-- n bytes at address a as a coherent observer sees them. -/
def Dev.memBytes (s : Dev) (a n : Nat) : List Byte := (List.range n).map (fun i => s.memByte (a + i))

/-- Bytes of a line replaced where a mask has a bit. -/
def mergeLine (old new mask : Nat) : Nat :=
  (List.range 64).foldl (fun v i => if mask.testBit i then setBits v (8 * i + 7) (8 * i) (bits new (8 * i + 7) (8 * i)) else v) old

/-! ## Holds (R353, R367)

Holders of a line: 0 to 7 the L1 of a core, 8 the home slice for the SVP, 9 and 10 the L2 of a cluster.  Requesters: 0 to 7 a
core, 8 the SVP, 9 and 10 a cluster's L2, 11 any other. -/

/-- Clock at which holder k's hold of line l ends. -/
def Dev.holdAt (s : Dev) (l k : Nat) : Nat := SMap.get (fun _ => 0) (s.dirAt l).hold k

/-- Holder k holds line l until clock c at least. -/
def Dev.holdTo (s : Dev) (l k c : Nat) : Dev :=
  s.onDir l (fun d => { d with hold := SMap.mod (fun _ => 0) d.hold k (fun h => max h c) })

/-- A line just won is held for 32 fabric cycles. -/
def Dev.win (s : Dev) (l k : Nat) : Dev := s.holdTo l k (s.clk + 32)

/-- The holders in a cluster: its L2 and its cores' L1s. -/
def clusterHolders (c : Nat) : List Nat := (9 + c) :: coresOf c

/-- The sibling cores whose L1 an access of core m to line l snoops (R365). -/
def Dev.sibs (s : Dev) (m l : Nat) (excl : Bool) : List Nat :=
  (coresOf (clusterOf m)).filter (fun k => decide (k ≠ m) && (if excl then decide ((s.core k).l1 l ≠ 0) else decide ((s.core k).l1 l = 2)))

/-- The holders that a requester's access to line l has to snoop. -/
def Dev.holders (s : Dev) (who l : Nat) (excl : Bool) : List Nat :=
  let own := if who < 8 then clusterOf who else if who = 9 ∨ who = 10 then who - 9 else 2
  (if who = 8 then [] else [8]) ++ (if who < 8 then s.sibs who l excl else []) ++
    ([0, 1].filter (fun c => decide (c ≠ own) && decide ((if excl then 1 else 2) ≤ (s.l2line c l).st))).flatMap clusterHolders

/-- The clock at which the last of some holds of line l ends. -/
def Dev.holdEnd (s : Dev) (l : Nat) (ks : List Nat) : Nat := ks.foldl (fun h k => max h (s.holdAt l k)) 0

/-- Whether some hold of line l runs now. -/
def Dev.heldNow (s : Dev) (l : Nat) : Bool := (s.dirAt l).hold.any (fun x => decide (s.clk < x.2))

/-! ## Room in the caches and the directory (R360, R363) -/

/-- Sets of the caches: L1 by line, L2 by line, system cache and directory by home slice and line (log 58). -/
def l1Set (l : Nat) : Nat := l % 256
def l2Set (l : Nat) : Nat := l % 4096
def sysSet (l : Nat) : Nat := homeSlice (64 * l) + 8 * (l / 8 % 1024)
def dirSet (l : Nat) : Nat := homeSlice (64 * l) + 8 * (l / 8 % 2048)

/-- The lines of a list that share l's set. -/
def setMates (f : Nat → Nat) (l : Nat) (ls : List Nat) : List Nat := ls.filter (fun k => decide (f k = f l) && decide (k ≠ l))

/-- The line of a full set that gives way: which one is free, but for one under a hold, whose eviction waits (R367). -/
def Dev.victim (s : Dev) (ways : Nat) (mates : List Nat) : Dev × Option Nat :=
  if mates.length < ways then (s, none)
  else
    let free := mates.filter (fun l => !s.heldNow l)
    let cs := if free = [] then mates else free
    let v := cs[Config.victim s.freeCtr % max 1 cs.length]?
    let t := match v with
      | some l => s.holdEnd l ((s.dirAt l).hold.map (fun x => x.1))
      | none => 0
    (s.draw.moveClk t, v)

/-- A line leaves the system cache: newer data go to DRAM. -/
def Dev.sysEvict (s : Dev) (l : Nat) : Dev :=
  let y := s.sysLine l
  (if y.dirty then s.setDramLine l y.data.toNat else s).setSys l {}

/-- A line allocated in its home slice's system cache (Table 13.4). -/
def Dev.sysPut (s : Dev) (l : Nat) (x : SysLine) : Dev :=
  let s := if (s.sysLine l).held then s
    else match s.victim 16 (setMates sysSet l (s.mem.sysc.map (fun x => x.1))) with
      | (s, some v) => s.sysEvict v
      | (s, none) => s
  s.setSys l x

/-- A line leaves cluster c's L2: its L1 copies go (inclusion), and the home slice allocates it in the system cache; newer
data that the firewall refuses are discarded (R379), and poison goes to DRAM. -/
def Dev.l2Evict (s : Dev) (c l : Nat) : Dev :=
  let x := s.l2line c l
  let s := s.each (coresOf c) (fun s m => (s.dropL1 m l).dropL1i m l)
  let s :=
    if x.poison then s.setPoison l true
    else if s.admits x.world (64 * l) then
      (if x.st = 3 then s.sysPut l { held := true, data := x.data, dirty := true, world := x.world }
       else if (s.sysLine l).held then s else s.sysPut l { held := true, world := x.world })
    else if x.st = 3 then s.fwDiscard c x.world (64 * l)
    else s
  (s.setL2 c l {}).syncDir l

/-- A directory entry freed for room: its line is back-invalidated in the L2s (R363). -/
def Dev.backInv (s : Dev) (l : Nat) : Dev :=
  let s := ((s.snoopL2 0 l true).snoopL2 1 l true).inc F.HN_BACKINV_COUNT (homeSlice (64 * l))
  s.each (List.range 8) (fun s m => s.dropL1i m l)

/-- Room made for line l in the directory and in cluster c's L2. -/
def Dev.makeRoom (s : Dev) (c l : Nat) : Dev :=
  let s := if (s.dirAt l).st ≠ 0 then s
    else match s.victim 16 (setMates dirSet l ((s.mem.dir.filter (fun x => decide (x.2.st ≠ 0))).map (fun x => x.1))) with
      | (s, some v) => s.backInv v
      | (s, none) => s
  if (s.l2line c l).st ≠ 0 then s
  else match s.victim 16 (setMates l2Set l ((SMap.get (fun _ => []) s.mem.l2 c).map (fun x => x.1))) with
    | (s, some v) => s.l2Evict c v
    | (s, none) => s

/-- Core m's L1 data cache takes line l, unmodified (1) or modified (2). -/
def Dev.l1Put (s : Dev) (m l v : Nat) : Dev :=
  let s := if (s.core m).l1 l ≠ 0 then s
    else match s.victim 4 (setMates l1Set l ((s.core m).l1d.map (fun x => x.1))) with
      | (s, some v) => s.dropL1 m v
      | (s, none) => s
  s.onCore m (fun c => { c with l1d := SMap.set (fun _ => 0) c.l1d l (max v (c.l1 l)) })

/-- Core m's L1 instruction cache takes line l. -/
def Dev.l1iPut (s : Dev) (m l : Nat) (v : BitVec 512) : Dev :=
  let s := match s.victim 4 (setMates l1Set l ((s.core m).l1i.map (fun x => x.1))) with
    | (s, some v) => s.dropL1i m v
    | (s, none) => s
  s.onCore m (fun c => { c with l1i := SMap.set (fun _ => none) c.l1i l (some v) })

/-! ## Transactions -/

/-- A read by a requester without a cache (R341): the state, and the line if it was answered with data.  The system cache
allocates the line. -/
def Dev.uncRead (s : Dev) (port w l : Nat) : Dev × Option Nat :=
  match s.homeRefuse port w (64 * l) with
  | some s => (s, none)
  | none =>
    let s := (s.snoopL2 0 l false).snoopL2 1 l false
    if s.poisoned l then (s.poisonRefuse port w (64 * l), none)
    else
      let v := s.homeData l
      (if (s.sysLine l).held then s else s.sysPut l { held := true, world := w }, some v)

/-- A write by a requester without a cache; `keep` is the processor whose reservation stays.  A whole-line write clears
poison, a partial one is refused on a poisoned line (R372). -/
def Dev.uncWrite (s : Dev) (port w l data mask keep : Nat) : Dev × Bool :=
  match s.homeRefuse port w (64 * l) with
  | some s => (s, false)
  | none =>
    let whole := decide (mask % 2 ^ 64 = 2 ^ 64 - 1)
    let s := (((s.snoopL2 0 l true).snoopL2 1 l true).loseResvs l keep)
    if s.poisoned l && !whole then (s.poisonRefuse port w (64 * l), false)
    else
      let v := mergeLine (s.homeData l) data mask
      (((s.setPoison l false).setSys l {}).setDramLine l v, true)

/-- The L2s snooped for cluster c's request of line l: a copy of its own under another world (R378) or a poisoned one goes to
the home slice first. -/
def Dev.l2Snoop (s : Dev) (c w l : Nat) (excl : Bool) : Dev :=
  (if (s.l2line c l).world = w ∧ !(s.l2line c l).poison then s else s.snoopL2 c l true).snoopL2 (1 - c) l excl

/-- Cluster c's L2 takes line l under world w, with newer data of the system cache where it may change the line, and holds it
(R367). -/
def Dev.l2Take (s : Dev) (c w l : Nat) (excl : Bool) : Dev :=
  let s := s.makeRoom c l
  let x := s.l2line c l
  let data := if x.st ≠ 0 then x.data else BitVec.ofNat 512 (s.homeData l)
  let st := if excl ∨ (s.l2line (1 - c) l).st = 0 then max x.st 2 else max x.st 1
  let dirty := decide (x.st = 0) && (s.sysLine l).dirty && decide (2 ≤ st)
  let s := (s.setL2 c l { st := if dirty then 3 else st, world := w, data := data }).cond dirty (fun s => s.setSys l {})
  (s.syncDir l).win l (9 + c)

/-- Cluster c's L2 is given line l under world w, shared or exclusive (R363): the state, and whether it was. -/
def Dev.l2Fill (s : Dev) (c w l : Nat) (excl : Bool) : Dev × Bool :=
  if s.mem.deadL2.contains c then (s, false)
  else
    match s.homeRefuse c w (64 * l) with
    | some s => (s, false)
    | none =>
      let s := s.l2Snoop c w l excl
      if s.poisoned l then (s.poisonRefuse c w (64 * l), false) else (s.l2Take c w l excl, true)

/-! ## Requests at the home slices (R364, R366) -/

/-- The store of an STX that has stored, entry e of processor m, reaches its line before any other agent's write (R281). -/
def Dev.stxLand (s : Dev) (m : Nat) (e : SbEntry) : Dev :=
  let l := match e.cells with
    | x :: _ => x.1 / 64
    | [] => 0
  let d := e.cells.foldl (fun v x => setBits v (8 * (x.1 % 64) + 7) (8 * (x.1 % 64)) x.2.toNat) 0
  let k := e.cells.foldl (fun v x => setBit v (x.1 % 64) true) 0
  let c := clusterOf m
  let x := s.l2line c l
  let s := s.dropL1i m l
  if m < 8 ∧ 2 ≤ x.st ∧ x.world = e.world ∧ !x.poison then
    s.setL2 c l { x with st := 3, data := BitVec.ofNat 512 (mergeLine x.data.toNat d k) }
  else (s.uncWrite (if m = 8 then 2 else c) e.world l d k m).1

/-- Every such store to line l performed. -/
def Dev.stxSettle (s : Dev) (l : Nat) : Dev :=
  s.each (List.range 9) (fun s m =>
    let p := fun (e : SbEntry) => e.stx && e.cells.any (fun x => decide (x.1 / 64 = l))
    match (s.core m).sb.find? p with
    | none => s
    | some e => (s.onCore m (fun c => { c with sb := c.sb.filter (fun e => !p e) })).stxLand m e)

/-- Requester of a request at a home slice, as the holds know it, and whether the request takes the line from every other. -/
def reqWho (r : HomeReq) : Nat := if r.kind = 0 ∨ r.kind = 1 then 9 + r.port else 11
def reqTakes (r : HomeReq) : Bool := decide (r.kind ≠ 0) && decide (r.kind ≠ 2)

/-- A request's transaction carried out: 0 read shared, 1 read exclusive, 2 uncached read, 3 whole-line write,
4 write-back, 5 partial write. -/
def Dev.serveHome (s : Dev) (r : HomeReq) : Dev :=
  let answer := fun (s : Dev) (ok : Bool) => if ok then s.ok (s.newest r.line % 2 ^ 64) else s.bad
  match r.kind with
  | 0 => let (s, ok) := s.l2Fill r.port r.world r.line false; answer s ok
  | 1 => let (s, ok) := s.l2Fill r.port r.world r.line true; answer s ok
  | 2 => let (s, d) := s.uncRead r.port r.world r.line; answer s d.isSome
  | 3 => let (s, ok) := s.uncWrite r.port r.world r.line r.data.toNat (2 ^ 64 - 1) 9; answer s ok
  | 4 => ((s.setL2 r.port r.line { s.l2line r.port r.line with st := 3, data := r.data, world := r.world }).l2Evict r.port r.line).ok 0
  | _ => let (s, ok) := s.uncWrite r.port r.world r.line r.data.toNat r.mask.toNat 9; answer s ok

/-- The clock at which the holds that keep a request waiting end: of the caches to be snooped, or, for a write-back, of the
cache that gives the line up (R367). -/
def Dev.reqHold (s : Dev) (r : HomeReq) : Nat :=
  s.holdEnd r.line (if r.kind = 4 then clusterHolders r.port else s.holders (reqWho r) r.line (reqTakes r))

/-- The snoops that a request sends and that wait. -/
def Dev.snoopsFor (s : Dev) (r : HomeReq) : List SnoopOut :=
  if r.kind = 4 then []
  else ([0, 1].filter (fun c => decide (s.clk < s.holdEnd r.line (clusterHolders c)) &&
      (s.holders (reqWho r) r.line (reqTakes r)).contains (9 + c))).map (fun c => { cluster := c, inv := reqTakes r, sent := s.clk })

/-- A request that finds its line free is served, or waits for a held snoop with its line Busy. -/
def Dev.startHome (s : Dev) (r : HomeReq) : Dev :=
  let s := s.cond (reqTakes r) (fun s => s.stxSettle r.line)
  if s.clk < s.reqHold r then
    let out := s.snoopsFor r
    s.onDir r.line (fun d => { d with busy := some r, snoops := d.snoops ++ out })
  else s.serveHome r

/-- Waiting requests of a line served in order, while the line is free (R364). -/
def Dev.drainHome (s : Dev) (l : Nat) : Nat → Dev
  | 0 => s
  | n + 1 =>
    let d := s.dirAt l
    if d.busy.isSome then s
    else match d.waitq with
      | [] => s
      | r :: t => ((s.onDir l (fun d => { d with waitq := t })).startHome r).drainHome l n

/-- Requests that a port may have outstanding (Table 14.7). -/
def portLimit (p : Nat) : Nat := if p < 2 then 64 else if p = 2 ∨ p = 16 then 8 else if p < 16 then 16 else 1

/-- Requests of port p that wait at the home slices. -/
def Dev.homeOut (s : Dev) (p : Nat) : Nat :=
  ((s.mem.dir.flatMap (fun x => x.2.busy.toList ++ x.2.waitq)).filter (fun r => decide (r.port = p))).length

/-- A request arrives at its home slice: it waits, or it is started.  A port with as many outstanding as it may have sends no
other (R383). -/
def Dev.homeArrive (s : Dev) (r : HomeReq) : Dev :=
  if portLimit r.port ≤ s.homeOut r.port then s
  else if (s.dirAt r.line).busy.isSome then s.onDir r.line (fun d => { d with waitq := d.waitq ++ [r] })
  else s.startHome r

/-- The transaction that keeps a line Busy completes, and the queue follows.  A write-back of the line that waits is the
snoop's answer: it comes first (R366). -/
def Dev.finishHome (s : Dev) (l : Nat) : Dev :=
  let d := s.dirAt l
  match d.busy with
  | none => s
  | some r =>
    let back := d.waitq.filter (fun x => decide (x.kind = 4))
    let rest := d.waitq.filter (fun x => decide (x.kind ≠ 4))
    let s := s.onDir l (fun d => { d with busy := none, snoops := [], waitq := rest })
    ((back.foldl (fun s x => s.serveHome x) s).serveHome r).drainHome l rest.length

/-- The transactions of line l that came first completed, each at the end of the holds that it waits for. -/
def Dev.clearLine (s : Dev) (l : Nat) : Nat → Dev
  | 0 => s
  | n + 1 =>
    match (s.dirAt l).busy with
    | none => s
    | some r => ((s.moveClk (s.reqHold r)).finishHome l).clearLine l n

/-- A requester's own transaction on line l waits its turn: transactions that came first complete, and holds of caches that
must give the line up or share it end (R364, R367). -/
def Dev.freeLine (s : Dev) (who l : Nat) (excl : Bool) : Dev :=
  let s := s.cond excl (fun s => s.stxSettle l)
  let s := if (s.dirAt l).busy.isSome then s.clearLine l ((s.dirAt l).waitq.length + 1) else s
  s.moveClk (s.holdEnd l (s.holders who l excl))

/-! ## Accesses of the processors to lines -/

/-- Whether core m's L2 copy of line l serves an access of world w. -/
def Dev.l2Hit (s : Dev) (m w l : Nat) (excl : Bool) : Bool :=
  let x := s.l2line (clusterOf m) l
  decide ((if excl then 2 else 1) ≤ x.st) && decide (x.world = w) && !x.poison

/-- The siblings' L1 copies of line l as an access of core m leaves them (R365): gone, or unmodified. -/
def Dev.snoopSibs (s : Dev) (m l : Nat) (excl : Bool) : Dev :=
  s.each (s.sibs m l excl) (fun s k => if excl then s.dropL1 k l else s.onCore k (fun c => c.shareL1 l))

/-- Cluster of core m gets line l for it, shared or exclusive: from its L2, or from the home slice. -/
def Dev.l2Get (s : Dev) (m w l : Nat) (excl : Bool) : Dev × Bool :=
  if s.l2Hit m w l excl then
    let s := s.cond excl (fun s => s.stxSettle l)
    let s := s.moveClk (s.holdEnd l (s.sibs m l excl))
    (s.snoopSibs m l excl, true)
  else
    let s := s.freeLine m l excl
    match s.l2Fill (clusterOf m) w l excl with
    | (s, true) => (s.snoopSibs m l excl, true)
    | r => r

/-- Whether an access of processor m to line l has to wait: for a transaction of the line at its home slice, or for a hold
(R364, R367). -/
def Dev.lineWaits (s : Dev) (m w l : Nat) (excl : Bool) : Bool :=
  if m < 8 ∧ s.l2Hit m w l excl then decide (s.clk < s.holdEnd l (s.sibs m l excl))
  else (s.dirAt l).busy.isSome || decide (s.clk < s.holdEnd l (s.holders m l excl))

/-- A read of processor m at the home slice, past the caches (R341, R342). -/
def Dev.homeRead (s : Dev) (m w l : Nat) : Dev × Option Nat :=
  (s.freeLine (if m = 8 then 8 else 11) l false).uncRead (if m = 8 then 2 else clusterOf m) w l

/-- A core's copy of line l: a hit under its world's tag, or a fill (R378).  The SVP reads at the home slice. -/
def Dev.coreRead (s : Dev) (m w l : Nat) : Dev × Option Nat :=
  if m = 8 then s.homeRead 8 w l
  else
    let (s, ok) := s.l2Get m w l false
    (s, if ok then some (s.l2line (clusterOf m) l).data.toNat else none)

/-- A write of processor m at the home slice, past the caches (R341, R342); its own reservation stays.  Its L1 instruction
copy goes (R361). -/
def Dev.homeWrite (s : Dev) (m w l data mask keep : Nat) : Dev × Bool :=
  ((s.dropL1i m l).freeLine (if m = 8 then 8 else 11) l true).uncWrite (if m = 8 then 2 else clusterOf m) w l data mask keep

/-- A core's store of the masked bytes of line l: it wins the line exclusively, every other copy goes, and the L2 holds
it modified (R348).  An L1 instruction copy of the same core goes too (R361). -/
def Dev.coreWrite (s : Dev) (m w l data mask : Nat) : Dev × Bool :=
  if m = 8 then s.homeWrite 8 w l data mask 8
  else
    match (s.dropL1i m l).l2Get m w l true with
    | (s, false) => (s, false)
    | (s, true) =>
      let x := s.l2line (clusterOf m) l
      let s := s.setL2 (clusterOf m) l { x with st := 3, data := BitVec.ofNat 512 (mergeLine x.data.toNat data mask) }
      (((s.loseResvs l m).l1Put m l 2).syncDir l, true)

/-- A dirty copy of line l in any cache written to DRAM; every copy stays, clean (Table 13.5, DCCLN). -/
def Dev.cleanLine (s : Dev) (l : Nat) : Dev :=
  let s := s.each [0, 1] (fun s c =>
    let x := s.l2line c l
    if x.st = 3 then
      ((s.writeBack c l x).setL2 c l (if x.poison then {} else { x with st := 2 })).each (coresOf c)
        (fun s m => s.onCore m (fun k => k.shareL1 l))
    else s)
  let y := s.sysLine l
  (if y.dirty then (s.setDramLine l y.data.toNat).setSys l { y with dirty := false, data := 0 } else s).syncDir l

/-- Every copy of line l discarded without write-back (Table 13.5, DCINV); poison stays (R372), and so does the reservation of
processor `keep` (R352). -/
def Dev.discardLine (s : Dev) (l keep : Nat) : Dev :=
  let poison := (s.l2line 0 l).poison || (s.l2line 1 l).poison
  let s := s.each [0, 1] (fun s c => s.setL2 c l {})
  let s := s.each (List.range 8) (fun s m => s.onCore m (fun c => { c with l1d := SMap.set (fun _ => 0) c.l1d l 0 }))
  let s := s.each (List.range 8) (fun s m => s.dropL1i m l)
  let s := ((s.setSys l {}).syncDir l).loseResvs l keep
  if poison then s.setPoison l true else s

/-! ## Byte ranges by requesters without a cache -/

/-- The lines that n bytes at a touch. -/
def linesOf (a n : Nat) : List Nat := if n = 0 then [] else (List.range ((a + n - 1) / 64 - a / 64 + 1)).map (fun i => a / 64 + i)

/-- The transactions of every line of a list that came first completed. -/
def Dev.freeLines (s : Dev) (ls : List Nat) (excl : Bool) : Dev := ls.foldl (fun s l => s.freeLine 11 l excl) s

/-- n bytes at a read by a requester without a cache; none if any line drew an error response. -/
def Dev.dmaRead (s : Dev) (port w a n : Nat) : Dev × Option (List Byte) :=
  let (s, ok) := (linesOf a n).foldl (fun (p : Dev × Bool) l =>
    if p.2 then (let (s, r) := p.1.uncRead port w l; (s, r.isSome)) else p) (s.freeLines (linesOf a n) false, true)
  (s, if ok then some (s.memBytes a n) else none)

/-- The data and mask that bytes at address a put into line l. -/
def lineSlice (a : Nat) (bs : List Byte) (l : Nat) : Nat × Nat :=
  ((List.range bs.length).zip bs).foldl (fun p x =>
    let i := a + x.1
    if i / 64 = l then (p.1 + x.2.toNat * 2 ^ (8 * (i % 64)), p.2 + 2 ^ (i % 64)) else p) (0, 0)

/-- Bytes written at a by a requester without a cache, up to the first line that draws an error response. -/
def Dev.dmaWrite (s : Dev) (port w a : Nat) (bs : List Byte) : Dev × Bool :=
  (linesOf a bs.length).foldl (fun (p : Dev × Bool) l =>
    if p.2 then (let (d, k) := lineSlice a bs l; p.1.uncWrite port w l d k 9) else p) (s.freeLines (linesOf a bs.length) true, true)

end Sys2Proof.Machine
end

