-- ==== Sys2Proof/Machine/Trace.lean ====
section
/-!
DEFINITION. Sys2Proof/Machine/Trace.lean: the trace buffer, its packets and the sources' queues (17 R453 to R456).
-/

namespace Sys2Proof.Machine

/-- Trace source m. -/
def Dev.trcSrc (s : Dev) (m : Nat) : TrcSrc := SMap.get (fun _ => {}) s.trc.src m

/-- Trace source m changed by f. -/
def Dev.onTrc (s : Dev) (m : Nat) (f : TrcSrc → TrcSrc) : Dev :=
  { s with trc := { s.trc with src := SMap.mod (fun _ => {}) s.trc.src m f } }

/-- Whether source m is enabled. -/
def Dev.trcEnabled (s : Dev) (m : Nat) : Bool := (s.fg F.TRC_CTL_SRCEN 0).testBit m

/-- Whether the unit takes packets of source m now. -/
def Dev.trcOn (s : Dev) (m : Nat) : Bool :=
  decide (s.fg F.TRC_CTL_EN 0 = 1) && s.trcEnabled m && s.domOn 31 &&
    decide (s.fg F.TRC_STAT_STOPPED 0 = 0) && decide (s.fg F.TRC_STAT_FROZEN 0 = 0)

/-- Unsigned LEB128 (R454). -/
def leb128 : Nat → Nat → List Byte
  | 0, _ => []
  | n + 1, v => if v < 128 then [BitVec.ofNat 8 v] else BitVec.ofNat 8 (v % 128 + 128) :: leb128 n (v / 128)

/-- DELTA from one bundle position to another (R454). -/
def traceDelta (fr dest : Nat) : Nat := if fr ≤ dest then 2 * (dest - fr) else 2 * (fr - dest) - 1

/-- A packet's header byte. -/
def traceHead (type src : Nat) : Byte := BitVec.ofNat 8 (16 * type + src)

/-- The unit stops at the wrap under STOPFULL, or marks the buffer as wrapped (R456). -/
def Dev.trcWrap (s : Dev) : Dev :=
  if s.fg F.TRC_CTL_STOPFULL 0 = 1 then
    (s.fs F.TRC_STAT_STOPPED 0 1).setEvt 258 F.TRC_EVT_STOPPED 0
  else s.fs F.TRC_STAT_WRAPPED 0 1

/-- One byte written at the write pointer. -/
def Dev.trcByte (s : Dev) (b : Byte) : Dev :=
  if s.fg F.TRC_STAT_STOPPED 0 = 1 then s
  else
    let p := s.fg F.TRC_WPTR_BYTE 0
    let s := { s with trc := { s.trc with buf := SMap.set (fun _ => 0) s.trc.buf p b } }
    let s := s.fs F.TRC_WPTR_BYTE 0 (p + 1)
    if p + 1 = 2 ^ 20 then s.trcWrap else s

/-- Bytes written at the write pointer. -/
def Dev.trcBytes (s : Dev) (l : List Byte) : Dev := l.foldl (fun s b => s.trcByte b) s

/-- Bytes left in the page being written. -/
def Dev.trcLeft (s : Dev) : Nat := 4096 - s.fg F.TRC_WPTR_BYTE 0 % 4096

/-- A page opened: every source starts it with a SYNC (R455). -/
def Dev.trcPage (s : Dev) : Dev :=
  let s := s.trcBytes (traceHead 8 15 :: leBytes 8 (stamp s.time.now))
  let s := s.each (List.range 9) (fun s m => s.onTrc m (fun x => { x with needSync := true }))
  { s with trc := { s.trc with pageNew := false } }

/-- Room for n bytes made in one page: the rest of a page too short is padded, and the next page opened (R455). -/
def Dev.trcRoom (s : Dev) (n : Nat) : Dev :=
  let s := if !s.trc.pageNew && decide (s.trcLeft < n) then s.trcBytes (List.replicate s.trcLeft 0) else s
  if s.trc.pageNew || decide (s.trcLeft = 4096) then s.trcPage else s

/-- What the queues have written out since the latest look: 16 bytes at each clock, source 0 first (R456). -/
def Dev.trcDrain (s : Dev) : Dev :=
  let k := s.clk
  let n := 16 * (k - s.trc.drained)
  let s := ((List.range 9).foldl (fun (p : Dev × Nat) m =>
    let q := (p.1.trcSrc m).q
    let d := min q p.2
    (if d = 0 then p.1 else p.1.onTrc m (fun x => { x with q := q - d }), p.2 - d)) (s, n)).1
  { s with trc := { s.trc with drained := k } }

/-- The longest packet sequence of a source: OVF, SYNC and the packet. -/
def traceMost : Nat := 32

/-- Whether TRC_CTL.STALL acts: only in BOOT, COMMISSION and TEST (R456). -/
def Dev.trcStalls (s : Dev) (m : Nat) : Bool :=
  decide (s.fg F.TRC_CTL_STALL 0 = 1) && (decide (s.mode = 1) || decide (s.mode = 2) || decide (s.mode = 4)) &&
    s.trcOn m && decide (64 < (s.trcSrc m).q + traceMost)

/-- A SYNC of source m, in a page with room for it. -/
def Dev.trcSync (s : Dev) (m : Nat) (sync : List Byte) : Dev :=
  ((s.trcRoom sync.length).trcBytes sync).onTrc m (fun x => { x with needSync := false })

/-- A packet of source m written whole into one page, after the SYNC that its place asks for (R455). -/
def Dev.trcPut (s : Dev) (m : Nat) (sync pkt : List Byte) : Dev :=
  let ready := fun (s : Dev) (n : Nat) =>
    let s := s.trcRoom n
    if (s.trcSrc m).needSync then s.trcSync m sync else s
  (ready (ready s 1) pkt.length).trcBytes pkt

/-- A packet of source m, with the OVF and the SYNC (given as bytes) that a loss asks for before it; dropped and counted
when the queue has no room (R456). -/
def Dev.trcEmit (s : Dev) (m : Nat) (sync pkt : List Byte) : Dev :=
  if !s.trcOn m then s
  else
    let s := s.trcDrain
    let x := s.trcSrc m
    let lost := decide (x.lostN ≠ 0)
    let n := 3 * b2n lost + (if x.needSync || lost then sync.length else 0) + pkt.length
    if 64 < x.q + n then
      ((s.onTrc m (fun x => { x with lostN := x.lostN + 1 })).inc F.TRC_LOST_COUNT 0).setEvt 258 F.TRC_EVT_LOST 0
    else
      let s := s.cond lost (fun s =>
        (s.trcPut m sync (traceHead 10 m :: leBytes 2 (min x.lostN 65535))).onTrc m (fun x => { x with needSync := true }))
      (s.trcPut m sync pkt).onTrc m (fun x => { x with q := x.q + n, lostN := 0 })

/-- The worlds of the sources that a mask enables: bit 0 Open, bit 1 Sealed, bit 2 the SVP's. -/
def Dev.srcWorlds (s : Dev) (en : Nat) : Nat :=
  (List.range 9).foldl (fun a m =>
    if en.testBit m then setBit a (if m = 8 then 2 else (s.core m).world % 2) true else a) 0

/-- The buffer cleared, and the write pointer (TRC_CTL.CLEAR). -/
def Dev.trcClearBuf (s : Dev) : Dev :=
  let en := s.srcWorlds (s.fg F.TRC_CTL_SRCEN 0)
  let k := s.clk
  let s := ((s.wr .TRC_WPTR 0 0).fs F.TRC_STAT_WRAPPED 0 0).fs F.TRC_STAT_STOPPED 0 0
  { s with trc := { buf := [], src := [], worlds := en, pageNew := true, drained := k } }

end Sys2Proof.Machine
end

