-- ==== Sys2Proof/Machine/CoreBase.lean ====
section
/-!
DEFINITION. Sys2Proof/Machine/CoreBase.lean: system registers, cycles, counters, trace positions and resets of the
A-profile processors AC0 to AC7 and, as number 8, the SVP (11 R296 to R299, 12 R308 to R313, 17 R454 to R458, 18 R475).
-/

namespace Sys2Proof.Machine

/-! ## System registers (Table 12.1) -/

/-- The registers that hold a saved copy of STATUS: ESTAT, XST, QST, DFST. -/
def savedRegs : List Nat := [0x21, 0x31, 0x41, 0x51]

/-- Reset value of system register n of processor m (Tables 12.2 and 12.3): LVL of STATUS and its saved copies is 1, on the
SVP M (R310). -/
def sysReset (m n : Nat) : BitVec 64 :=
  if n = 0 ∨ savedRegs.contains n then (if m = 8 then 2 else 1) else if n = 1 then 1 else 0

/-- System register n of processor m, as stored. -/
def Dev.sr (s : Dev) (m n : Nat) : Nat := (SMap.get (sysReset m) (s.core m).sys n).toNat

/-- System register n of processor m set. -/
def Dev.setSr (s : Dev) (m n v : Nat) : Dev :=
  s.onCore m (fun c => { c with sys := SMap.set (sysReset m) c.sys n (BitVec.ofNat 64 v) })

/-- A field of a system register, and one set. -/
def Dev.srf (s : Dev) (m n hi lo : Nat) : Nat := bits (s.sr m n) hi lo
def Dev.setSrf (s : Dev) (m n hi lo v : Nat) : Dev := s.setSr m n (setBits (s.sr m n) hi lo v)

/-- Level in force: 0 U, 1 S, 2 M (R308). -/
def Dev.lvl (s : Dev) (m : Nat) : Nat := s.srf m 0 1 0

/-- The level that entries take: S, on the SVP M (R310). -/
def topLvl (m : Nat) : Nat := if m = 8 then 2 else 1

/-- Bits of STATUS (Table 12.2). -/
def Dev.stIE (s : Dev) (m : Nat) : Bool := (s.sr m 0).testBit 2
def Dev.stQIE (s : Dev) (m : Nat) : Bool := (s.sr m 0).testBit 3
def Dev.stEXL (s : Dev) (m : Nat) : Bool := (s.sr m 0).testBit 4
def Dev.stQB (s : Dev) (m : Nat) : Bool := (s.sr m 0).testBit 5
def Dev.stDFL (s : Dev) (m : Nat) : Bool := (s.sr m 0).testBit 6
def Dev.stTE (s : Dev) (m : Nat) : Bool := (s.sr m 0).testBit 7

/-- A bit of STATUS set. -/
def Dev.setSt (s : Dev) (m b : Nat) (v : Bool) : Dev := s.setSrf m 0 b b (b2n v)

/-- CFG.DET in force: the SVP always behaves as with DET = 1 (R299). -/
def Dev.det (s : Dev) (m : Nat) : Bool := decide (m = 8) || (s.sr m 1).testBit 0

/-- World of a processor's requests: its own, M for the SVP (Table 14.7). -/
def Dev.coreWorld (s : Dev) (m : Nat) : Nat := if m = 8 then 2 else (s.core m).world

/-- Requester port of a processor (Table 14.7). -/
def corePort (m : Nat) : Nat := if m = 8 then 2 else clusterOf m

/-- A processor's request. -/
def Dev.coreReq (s : Dev) (m : Nat) : Req :=
  { port := corePort m, world := s.coreWorld m, core := if m = 8 then none else some m, user := decide (s.lvl m = 0) }

/-! ## Cycles (R298, R467) -/

/-- Length of a cycle in 1/24 ns: 1.6 GHz x (4 - k) / 4 at throttle level k; the SVP's 800 MHz. -/
def Dev.cycLen (s : Dev) (m : Nat) : Nat :=
  if m = 8 then 30
  else match s.fg F.HLT_THRSTAT_LEVEL 0 with
    | 0 => 15 | 1 => 20 | 2 => 30 | _ => 60

/-! ## Counters of an application core (R457, R458) -/

/-- Whether counter k of core m counts event ev now. -/
def Dev.cPmuHas (s : Dev) (m ev k : Nat) : Bool :=
  decide (s.fg F.PMU_EVSEL_EVT (8 * m + k) = ev) &&
    (s.fg F.PMU_EVSEL_LVL (8 * m + k)).testBit (if s.lvl m = 0 then 0 else 1)

/-- Counter k of core m advanced by n: it wraps from 2^48 - 1 to 0, sets its sticky bit, and freezes the core's counters
with FRZ. -/
def Dev.cPmuStep (s : Dev) (m k n : Nat) : Dev :=
  let i := 8 * m + k
  let v := s.rd64 .PMU_CNT_LO .PMU_CNT_HI i + n
  let s := s.wr64 .PMU_CNT_LO .PMU_CNT_HI i (v % 2 ^ 48)
  if 2 ^ 48 ≤ v then
    let s := s.setEvtBit (260 + m) F.PMU_OVF_OVF m k
    s.cond (decide (s.fg F.PMU_CTL_FRZ m = 1)) (fun s => s.fs F.PMU_CTL_FROZEN m 1)
  else s

/-- In run-ahead only cycles, result stalls and the run-ahead events count (R458). -/
def Dev.raCounts (s : Dev) (m ev : Nat) : Bool :=
  decide ((s.core m).ra = none) || decide (ev = 0x01) || decide (ev = 0x07) || (decide (0x20 ≤ ev) && decide (ev ≤ 0x23))

/-- Event ev of core m counted n times. -/
def Dev.cPmu (s : Dev) (m ev n : Nat) : Dev :=
  if m < 8 ∧ 0 < n ∧ s.raCounts m ev ∧ s.fg F.PMU_CTL_EN m = 1 ∧ s.fg F.PMU_CTL_FROZEN m = 0 ∧
      ¬(s.fg F.PMU_CTL_NOMON m = 1 ∧ s.fg F.DBG_CSTAT_MON m = 1) then
    s.each (List.range 8) (fun s k => if s.cPmuHas m ev k then s.cPmuStep m k n else s)
  else s

/-- The cycles that have passed since the latest issue, counted, and the clock moved on to the next issue's cycle. -/
def Dev.coreClock (s : Dev) (m : Nat) : Dev :=
  let c := s.core m
  let len := s.cycLen m
  let idle := (24 * s.clk - c.nextAt) / len
  let at1 := c.nextAt + idle * len
  let s := s.onCore m (fun c => { c with cyc := c.cyc + idle, nextAt := at1 })
  let s := (s.cPmu m 0x01 idle).cond c.asleep (fun s => s.cPmu m 0x1C idle)
  s.moveClk ((at1 + 23) / 24)

/-- n cycles of processor m pass. -/
def Dev.coreTick (s : Dev) (m n : Nat) : Dev :=
  let len := s.cycLen m
  let s := (s.onCore m (fun c => { c with cyc := c.cyc + n, nextAt := c.nextAt + n * len })).cPmu m 0x01 n
  s.cond (s.core m).ra.isSome (fun s => s.cPmu m 0x07 n)

/-- A cycle in which nothing issues, counted under event ev. -/
def Dev.coreStall (s : Dev) (m ev : Nat) : Dev :=
  if (s.core m).ra.isSome then s.coreTick m 1 else (s.coreTick m 1).cPmu m ev 1

/-! ## Trace of a core (R454) -/

/-- Bundle number of a code address. -/
def bundleNo (pc : Nat) : Nat := pc % 2 ^ 48 / 16

/-- The context of a core as a CONTEXT packet gives it, and bits [59:44] of a SYNC: level, world, QB, ASID. -/
def Dev.traceCtx (s : Dev) (m : Nat) : Nat :=
  s.lvl m + 4 * (if m = 8 then 0 else (s.core m).world) + 8 * b2n (s.stQB m) + 16 * s.srf m 0x70 51 40

/-- SYNC at a position of source m, with the context of the code there (Table 17.5). -/
def Dev.syncBytes (s : Dev) (m pos : Nat) : List Byte := traceHead 1 m :: leBytes 8 (pos + (s.trcSrc m).ctx * 2 ^ 44)

/-- Whether packets of processor m are made now: none inside a run-ahead span (Table 11.10). -/
def Dev.tracing (s : Dev) (m : Nat) : Bool := s.trcOn m && decide ((s.core m).ra = none)

/-- A packet that moves core m's position to bundle `dest`: type, bytes after the header, and whether DELTA follows. -/
def Dev.traceMove (s : Dev) (m type dest : Nat) (head : List Byte) (delta : Bool) : Dev :=
  if !s.tracing m then s
  else
    let x := s.trcSrc m
    let cyc := (s.core m).cyc
    let body := head ++ leb128 10 (cyc - x.ref) ++ leb128 10 x.n ++
      (if delta then leb128 10 (traceDelta x.pos dest) else [])
    let s := s.trcEmit m (s.syncBytes m x.pos) (traceHead type m :: body)
    s.onTrc m (fun x => { x with pos := dest, ref := cyc, n := 0 })

/-- A transfer takes effect: BRANCH. -/
def Dev.traceBranch (s : Dev) (m dest : Nat) : Dev := s.traceMove m 2 (bundleNo dest) [] true

/-- An entry with a cause: EXC. -/
def Dev.traceExc (s : Dev) (m cause dest : Nat) : Dev := s.traceMove m 3 (bundleNo dest) [BitVec.ofNat 8 cause] true

/-- The context has changed: CONTEXT. -/
def Dev.traceContext (s : Dev) (m : Nat) : Dev :=
  if !s.tracing m then s
  else
    let x := s.trcSrc m
    let ctx := s.traceCtx m
    let cyc := (s.core m).cyc
    let here := x.pos + x.n
    let s := s.trcEmit m (s.syncBytes m x.pos)
      (traceHead 4 m :: (leb128 10 (cyc - x.ref) ++ leb128 10 x.n ++ leBytes 3 ctx))
    s.onTrc m (fun x => { x with pos := here, ref := cyc, n := 0, ctx := ctx })

/-- A CONTEXT after a packet whose new position runs under another context than the one before (Table 17.5). -/
def Dev.traceChange (s : Dev) (m : Nat) : Dev := if s.traceCtx m = (s.trcSrc m).ctx then s else s.traceContext m

/-- A bundle passed in address order: the first one that a source traces, and the first after a wake, sets the position and
the reference cycle that the SYNC before it gives. -/
def Dev.tracePass (s : Dev) (m pc : Nat) : Dev :=
  if !s.tracing m then s
  else
    let cyc := (s.core m).cyc
    let ctx := s.traceCtx m
    s.onTrc m (fun x => if x.needSync && decide (x.n = 0) then { x with pos := bundleNo pc, ref := cyc, n := 1, ctx := ctx }
      else { x with n := x.n + 1, ctx := ctx })

/-! ## Frames at reset, warm resets -/

/-- The current frame after a reset. -/
def frame0 (m : Nat) : Frame := { w := [], link := 0, lvl := topLvl m, bnd := false }

/-- A processor after a reset: held, its frame of zeros; world, entry address and cycle count stay. -/
def ACore.reset (c : ACore) (m : Nat) : ACore :=
  { world := c.world, entry := c.entry, frames := [frame0 m], cyc := c.cyc, nextAt := c.nextAt }

/-- Entries of a core's buffers that have not been performed. -/
def ACore.undrained (c : ACore) : Nat := c.sb.length + c.cb.length

/-- The warm reset of RESET CORE, a third fault and a watchdog expiry (Table 18.5): stores not performed are discarded and
counted (R358), FSPTR and DFCNT stay (R296, R330), the core is held at reset, its sources are assigned again (R428), and
its watchdog is at C = 0 without a warning (R432). -/
def Dev.coreReset (s : Dev) (m : Nat) : Dev :=
  let c := s.core m
  let keep := [0x54, 0x61, 0x65, 0x69].map (fun n => (n, s.sr m n))
  let s := s.cond (decide (c.undrained ≠ 0) && decide (m < 8)) (fun s =>
    s.errCap (32 + m) { ty := 0x0D, port := corePort m, world := s.coreWorld m, info := c.undrained })
  let s := s.onCore m (fun c => c.reset m)
  let s := keep.foldl (fun s x => s.setSr m x.1 x.2) s
  let k := s.clk
  let s := (s.fs F.WDG_STAT_CNT m 0).fs F.WDG_STAT_WARN m 0
  let s := { s with wdg := { s.wdg with us := SMap.set (fun _ => 0) s.wdg.us m k, first := SMap.set (fun _ => false) s.wdg.first m false } }
  s.icDrop m

/-- A core whose domain is switched on (Table 18.5): reset, held, its memories empty (R33). -/
def Dev.coreFresh (s : Dev) (m : Nat) : Dev :=
  let s := s.onCore m (fun c => { world := c.world, entry := c.entry, frames := [frame0 m] })
  s.icDrop m

/-- A core released at an address (R63, R330). -/
def Dev.coreRelease (s : Dev) (m : Nat) (pc : BitVec 64) : Dev :=
  let k := s.clk
  s.onCore m (fun c => { c with released := true, pc := pc, entry := pc, nextAt := max c.nextAt (24 * k) })

/-- A core declared dead or cut: its modified lines become poisoned in the L2 (R369). -/
def Dev.poisonCore (s : Dev) (m : Nat) : Dev :=
  let dirty := ((s.core m).l1d.filter (fun x => decide (x.2 = 2))).map (fun x => x.1)
  let s := s.each dirty (fun s l =>
    let x := s.l2line (clusterOf m) l
    if x.st = 3 then s.setL2 (clusterOf m) l { x with poison := true } else s)
  s.onCore m (fun c => { c with l1d := [], resv := none })

end Sys2Proof.Machine
end

