-- ==== Sys2Proof/Machine/WdgBase.lean ====
section
/-!
DEFINITION. Sys2Proof/Machine/WdgBase.lean: the count of a watchdog (16 R430, R433, R434).
-/

namespace Sys2Proof.Machine

/-- Whether the condition under which DBGPAUSE pauses watchdog w holds (R433). -/
def Dev.wdgPauseCond (s : Dev) (w : Nat) : Bool :=
  if w < 8 then decide (s.fg F.DBG_CSTAT_MON w = 1)
  else if w = 9 then decide (s.fg F.LCS_DBG_UNLOCK 0 ≠ 0)
  else false

/-- Whether watchdog w is paused: never in SERVICE (R433). -/
def Dev.wdgPaused (s : Dev) (w : Nat) : Bool :=
  decide (s.fg F.WDG_CTL_DBGPAUSE w = 1) && s.wdgPauseCond w && decide (s.mode ≠ 3)

/-- Whether C of watchdog w advances (R430, R434). -/
def Dev.wdgCounts (s : Dev) (w : Nat) : Bool :=
  decide (s.fg F.WDG_CTL_EN w = 1) && !s.wdgPaused w &&
    (if w < 8 then s.domOn (18 + w) && (s.core w).released
     else if w = 9 then !s.wdg.wdg9Stop else true)

/-- C of watchdog w brought up to clock k, before anything that its advance depends on changes. -/
def Dev.wdgSyncTo (s : Dev) (w k : Nat) : Dev :=
  let u := SMap.get (fun _ => 0) s.wdg.us w
  if s.wdgCounts w then
    let n := (k - u) / 1000
    let s := s.addc F.WDG_STAT_CNT w n
    { s with wdg := { s.wdg with us := SMap.set (fun _ => 0) s.wdg.us w (u + 1000 * n) } }
  else { s with wdg := { s.wdg with us := SMap.set (fun _ => 0) s.wdg.us w k } }

/-- C of watchdog w brought up to the present clock. -/
def Dev.wdgSync (s : Dev) (w : Nat) : Dev := s.wdgSyncTo w s.clk

/-- Every watchdog brought up to the present clock. -/
def Dev.wdgSyncAll (s : Dev) : Dev := s.each (List.range 10) (fun s w => s.wdgSync w)

/-- C of watchdog w restarted at 0. -/
def Dev.wdgZero (s : Dev) (w : Nat) : Dev :=
  let k := s.clk
  let s := s.fs F.WDG_STAT_CNT w 0
  { s with wdg := { s.wdg with us := SMap.set (fun _ => 0) s.wdg.us w k } }

/-! ## The end of a debug monitor (R449, R450) -/

/-- MON clears: SKIP is set, and the watchdog counts again. -/
def Dev.monClear (s : Dev) (m : Nat) : Dev :=
  if s.fg F.DBG_CSTAT_MON m = 1 then
    (((s.wdgSync m).fs F.DBG_CSTAT_MON m 0).fs F.DBG_CSTAT_MDEPTH m 0).fs F.DBG_CSTAT_SKIP m 1
  else s

end Sys2Proof.Machine
end

