-- ==== Sys2Proof/Machine/Coherence.lean ====
section
/-!
DEFINITION. Sys2Proof/Machine/Coherence.lean: snoops and the ends of holds, dead agents, and the commands of the home slices (13
R363 to R372).
-/

namespace Sys2Proof.Machine

/-! ## Snoops (R365 to R367) -/

/-- Cluster c has answered a snoop of line l: the next one that the same slice has for it is sent (R383). -/
def Dev.snoopNext (s : Dev) (c l : Nat) : Dev :=
  let k := s.clk
  (s.mem.dir.filter (fun x => decide (homeSlice (64 * x.1) = homeSlice (64 * l)) && x.2.snoops.any (fun y => decide (y.cluster = c)))).foldl
    (fun s x => s.onDir x.1 (fun d => { d with snoops := d.snoops.map (fun y => if y.cluster = c then { y with sent := k } else y) })) s

/-- Cluster c answers a snoop: with its write-back of the line, if that is on its way (R366), else from its L2 and L1s. -/
def Dev.answerSnoop (s : Dev) (c l : Nat) (inv : Bool) : Dev :=
  let s := (s.cond inv (fun s => s.stxSettle l)).onDir l (fun d => { d with snoops := d.snoops.filter (fun x => decide (x.cluster ≠ c)) })
  let s := s.snoopNext c l
  let back := fun (r : HomeReq) => decide (r.kind = 4) && decide (r.port = c)
  match (s.dirAt l).waitq.find? back with
  | some r => (s.onDir l (fun d => { d with waitq := d.waitq.filter (fun r => !back r) })).serveHome r
  | none => s.snoopL2 c l inv

/-- The transaction that waits on line l completes once no hold keeps it. -/
def Dev.resumeHome (s : Dev) (l : Nat) : Dev :=
  match (s.dirAt l).busy with
  | none => s
  | some r => if s.clk < s.reqHold r then s else s.finishHome l

/-- A snoop reaches cluster c: deferred while the line is held there, answered otherwise. -/
def Dev.snoopArrive (s : Dev) (c l : Nat) (inv : Bool) : Dev :=
  if s.mem.deadL2.contains c then s
  else if decide ((s.l2line c l).st ≠ 0) && decide (s.clk < s.holdEnd l (clusterHolders c)) then
    let k := s.clk
    s.onDir l (fun d => { d with snoops := d.snoops ++ [{ cluster := c, inv := inv, sent := k }] })
  else (s.answerSnoop c l inv).resumeHome l

/-- Deferred snoops answered in order, where no hold keeps them. -/
def Dev.answerAll (s : Dev) (l : Nat) (xs : List SnoopOut) : Dev :=
  xs.foldl (fun s x => if s.clk < s.holdEnd l (clusterHolders x.cluster) then s else s.answerSnoop x.cluster l x.inv) s

/-- The earliest hold of line l that has not ended, if there is one. -/
def Dev.nextHold (s : Dev) (l : Nat) : Option Nat :=
  (((s.dirAt l).hold.map (fun x => x.2)).filter (fun h => decide (s.clk < h))).min?

/-- The earliest hold of line l ends: the snoops and the transaction that it kept waiting are answered (R367). -/
def Dev.holdOver (s : Dev) (l : Nat) : Dev :=
  match s.nextHold l with
  | none => s
  | some h =>
    let s := s.moveClk h
    let s := if (s.dirAt l).busy.isSome then s else s.answerAll l (s.dirAt l).snoops
    s.resumeHome l

/-! ## Dead agents (R368 to R371) -/

/-- One line of a dead L2 reclaimed: Exclusive ones become poisoned and Uncached, shared copies go (R369, R370). -/
def Dev.reclaimLine (s : Dev) (c l : Nat) : Dev :=
  let x := s.l2line c l
  let s := if 2 ≤ x.st then (s.setPoison l true).setSys l {} else s
  let s := s.each (coresOf c) (fun s m => (s.dropL1 m l).dropL1i m l)
  (s.setL2 c l {}).syncDir l

/-- The transactions that wait on a line of a dead agent complete as if they had read a poisoned line (R369). -/
def Dev.failHome (s : Dev) (l : Nat) : Dev :=
  let d := s.dirAt l
  match d.busy with
  | none => s
  | some r =>
    let s := (s.onDir l (fun d => { d with busy := none, snoops := [] })).poisonRefuse r.port r.world (64 * l)
    (s.bad).drainHome l (d.waitq.length)

/-- The L2 of cluster c declared dead: logged, fenced, reclaimed. -/
def Dev.deadL2 (s : Dev) (c : Nat) : Dev :=
  if s.mem.deadL2.contains c then s
  else
    let lines := (SMap.get (fun _ => []) s.mem.l2 c).map (fun x => x.1)
    let s := { s with mem := { s.mem with deadL2 := insNat c s.mem.deadL2 } }
    let s := s.errCap 19 { ty := 0x0B, info := c }
    let s := s.each (List.range 8) (fun s k =>
      (s.fs F.HN_STAT_DEAD k (setBit (s.fg F.HN_STAT_DEAD k) c true)).hnEvt k F.HN_EVT_DEAD)
    let t := s.clk + 32784
    let s := { s with mem := { s.mem with reclaimTo := t } }
    let s := lines.foldl (fun s l => s.reclaimLine c l) s
    let busy := (s.mem.dir.filter (fun x => x.2.busy.isSome)).map (fun x => x.1)
    (busy.filter (fun l => lines.contains l)).foldl (fun s l => s.failHome l) s

/-- A dead L2 lives again when its domain is switched on: it starts empty (R371). -/
def Dev.liveL2 (s : Dev) (c : Nat) : Dev :=
  let s := { s with mem := { s.mem with deadL2 := s.mem.deadL2.filter (fun x => decide (x ≠ c)),
                                        l2 := SMap.set (fun _ => []) s.mem.l2 c [] } }
  s.each (List.range 8) (fun s k => s.fs F.HN_STAT_DEAD k (setBit (s.fg F.HN_STAT_DEAD k) c false))

/-- Core m declared dead by its L2: logged, fenced, its modified lines poisoned in the L2 (R369, R371). -/
def Dev.deadCore (s : Dev) (m : Nat) : Dev :=
  if (s.core m).dead then s
  else
    let s := (s.poisonCore m).errCap (40 + clusterOf m) { ty := 0x0B, info := m }
    (s.onCore m (fun c => { c with dead := true })).icDrop m

/-- When the snoop was sent that an agent (0 or 1 an L2, 2 to 9 a core) leaves without an answer: the earliest that waits, or
one sent now for a line that the agent holds; none where it holds no line (R368). -/
def Dev.snoopSent (s : Dev) (a : Nat) : Option Nat :=
  let c := if a < 2 then a else clusterOf (a - 2)
  let holds := fun l => if a < 2 then decide ((s.l2line a l).st ≠ 0) else decide ((s.core (a - 2)).l1 l ≠ 0)
  let sent := s.mem.dir.flatMap (fun x =>
    if holds x.1 then (x.2.snoops.filter (fun y => decide (y.cluster = c))).map (fun y => y.sent) else [])
  match sent.min? with
  | some t => some t
  | none => if s.mem.dir.any (fun x => holds x.1) then some s.clk else none

/-- An agent has left a snoop 4,096 fabric cycles without an answer: it is declared dead (R368). -/
def Dev.declareDead (s : Dev) (a : Nat) : Dev :=
  match s.snoopSent a with
  | none => s
  | some t =>
    let s := s.moveClk (t + 4096)
    if a < 2 then s.deadL2 a else s.deadCore (a - 2)

/-! ## The commands -/

/-- HOME_SLICE_REQUEST (R364, R376). -/
def execHomeSliceRequest (rq : HomeReq) (s : State) : Host.Outcome State Fault Refusal :=
  run (wellFormed (.homeSliceRequest rq)) (fun s => s.homeArrive rq) s

/-- SNOOP: a home slice's snoop reaches an L2: kind 0 takes a shared copy, 1 invalidates (R363, R366, R367). -/
def execSnoop (cluster line kind : Nat) (s : State) : Host.Outcome State Fault Refusal :=
  run (wellFormed (.snoop cluster line kind)) (fun s => s.snoopArrive cluster line (decide (kind = 1))) s

/-- LINE_HOLD_END: the end of a hold, at which the first deferred snoop is answered (R367). -/
def execLineHoldEnd (line : Nat) (s : State) : Host.Outcome State Fault Refusal :=
  run (wellFormed (.lineHoldEnd line)) (fun s => s.holdOver line) s

/-- DEAD_AGENT: 4,096 fabric cycles without an answer: agent 0 or 1 an L2, 2 to 9 a core (R368). -/
def execDeadAgent (agent : Nat) (s : State) : Host.Outcome State Fault Refusal :=
  run (wellFormed (.deadAgent agent)) (fun s => s.declareDead agent) s

end Sys2Proof.Machine
end

