-- ==== Sys2Proof/Machine/FrameText.lean ====
section
/-!
DEFINITION. Sys2Proof/Machine/FrameText.lean: the octets of sampled-value and GOOSE frames: their header, their APDU in BER with
definite lengths and known tags in order, and the octets that an authentication tag covers (06 R133, R134, R137).
The tag octets are those of the standards that the rules name (IEC 61850-9-2, IEC 61850-8-1; PRESUMED, log 46).
-/

namespace Sys2Proof.Machine

/-! ## BER -/

/-- An element: its tag octet and its content. -/
abbrev BerElem := Nat × List Byte

/-- A definite length: short form, or long form of one to four octets; the octets behind it. -/
def berLen : List Byte → Option (Nat × List Byte)
  | [] => none
  | b :: t =>
    let n := b.toNat
    if n < 128 then some (n, t)
    else if 129 ≤ n ∧ n ≤ 132 ∧ n - 128 ≤ t.length then some (beNat (t.take (n - 128)), t.drop (n - 128))
    else none

/-- The first element of octets, and what follows it; tags of more than one octet are unknown. -/
def berElem : List Byte → Option (BerElem × List Byte)
  | [] => none
  | b :: t =>
    if b.toNat % 32 = 31 then none
    else (berLen t).bind (fun x => if x.1 ≤ x.2.length then some ((b.toNat, x.2.take x.1), x.2.drop x.1) else none)

/-- Octets as a sequence of at most n elements. -/
def berSeq : Nat → List Byte → Option (List BerElem)
  | _, [] => some []
  | 0, _ => none
  | n + 1, l => (berElem l).bind (fun x => (berSeq n x.2).map (fun t => x.1 :: t))

/-- The elements of octets. -/
def berAll (l : List Byte) : Option (List BerElem) := berSeq l.length l

/-- The one element that octets are, if it has this tag. -/
def berOne (tag : Nat) (l : List Byte) : Option (List Byte) :=
  (berElem l).bind (fun x => if x.1.1 = tag ∧ x.2 = [] then some x.1.2 else none)

/-- The content of the next element, which must have this tag. -/
def need (tag : Nat) : List BerElem → Option (List Byte × List BerElem)
  | x :: t => if x.1 = tag then some (x.2, t) else none
  | [] => none

/-- The content of the next element if it has this tag. -/
def maybe (tag : Nat) : List BerElem → Option (List Byte) × List BerElem
  | x :: t => if x.1 = tag then (some x.2, t) else (none, x :: t)
  | [] => (none, [])

/-- An unsigned number of at most n octets, one leading zero octet apart. -/
def berNat (n : Nat) (l : List Byte) : Option Nat :=
  if l = [] then none
  else if l.length ≤ n ∨ (l.length = n + 1 ∧ l.head? = some 0) then some (beNat l)
  else none

/-- A truth value of one octet. -/
def berBool (l : List Byte) : Option Bool := if l.length = 1 then some (decide (beNat l ≠ 0)) else none

/-! ## The frame around an APDU -/

/-- What a frame of IEC 61850 holds from its EtherType on. -/
structure FrameText where
  etherType : Nat
  appid     : Nat
  res1      : Nat
  apdu      : List Byte
  covered   : List Byte
  deriving DecidableEq, Repr

/-- Two octets as a number. -/
def be16 (l : List Byte) : Nat := beNat (l.take 2)

/-- The octets of a frame read from its EtherType on, past a VLAN tag and an HSR tag: Length counts the octets from APPID to the
end of the APDU. -/
def frameText (octets : List Byte) : Option FrameText :=
  let l := octets.drop 12
  let l := if be16 l = 0x8100 then l.drop 4 else l
  let l := if be16 l = 0x892F then l.drop 6 else l
  let p := l.drop 2
  let n := be16 (p.drop 2)
  if 8 ≤ n ∧ n ≤ p.length then
    some { etherType := be16 l, appid := be16 p, res1 := be16 (p.drop 4), apdu := (p.take n).drop 8, covered := p.take n }
  else none

/-- Whether a frame arrived whole: no symbol in error, and its FCS that of its octets (R135). -/
def fcsOk (h : FrameHdr) (octets : List Byte) : Bool := !h.symErr && decide (h.fcs.toNat = crc32 octets)

/-! ## Frames of the bay links (Tables 15.4 and 15.5) -/

/-- A frame from the module to a card; multi-byte fields and the CRC stand low octet first (PRESUMED, log 85). -/
def linkFrame (type flags eack tick out chg time : Nat) : List Byte :=
  let b := leBytes 1 type ++ leBytes 1 flags ++ leBytes 1 eack ++ leBytes 1 0 ++ leBytes 8 tick ++ leBytes 4 out ++ leBytes 4 chg ++
    leBytes 8 time ++ leBytes 4 0
  b ++ leBytes 4 (crc32 b)

/-- What a frame from a card holds. -/
structure CardText where
  ok     : Bool
  type   : Nat
  flags  : Nat
  ans    : Nat
  inp    : Word
  echo   : Word
  events : List CardEvent
  deriving DecidableEq, Repr

/-- A number of n octets from offset o on, low octet first. -/
def octNat (l : List Byte) (o n : Nat) : Nat := leNat ((l.drop o).take n)

/-- An event entry of a card frame. -/
def cardEvent (v : Nat) : CardEvent :=
  { input := bits v 4 0, state := bitAt v 5, sat := bitAt v 6, eseq := bits v 23 16, ref := bits v 15 8, offset := bits v 63 32 }

/-- The octets of a card frame read: whole and with its CRC when `ok`, and its first NEV events. -/
def cardText (l : List Byte) : CardText :=
  { ok := decide (l.length = 84) && decide (octNat l 80 4 = crc32 (l.take 80))
    type := octNat l 0 1, flags := octNat l 1 1, ans := octNat l 2 1
    inp := BitVec.ofNat 32 (octNat l 4 4), echo := BitVec.ofNat 32 (octNat l 8 4)
    events := (List.range (min 8 (octNat l 3 1))).map (fun i => cardEvent (octNat l (16 + 8 * i) 8)) }

/-! ## Sampled values (Table 6.1) -/

/-- Channel values and qualities: 8 octets each. -/
def svChannels : Nat → List Byte → List (Word × Word)
  | 0, _ => []
  | n + 1, l => (BitVec.ofNat 32 (beNat (l.take 4)), BitVec.ofNat 32 (beNat ((l.drop 4).take 4))) :: svChannels n (l.drop 8)

/-- A number of exactly n octets. -/
def fixedNat (n : Nat) (l : List Byte) : Option Nat := if l.length = n then some (beNat l) else none

/-- A number of n octets that may be absent. -/
def fixedOpt (n : Nat) : Option (List Byte) → Option (Option Nat)
  | none => some none
  | some l => (fixedNat n l).map some

/-- One ASDU. -/
def svAsduText (l : List Byte) : Option SvAsdu := do
  let e ← berAll l
  let (svId, e) ← need 0x80 e
  let (_, e) := maybe 0x81 e
  let (cnt, e) ← need 0x82 e
  let (rev, e) ← need 0x83 e
  let (_, e) := maybe 0x84 e
  let (syn, e) ← need 0x85 e
  let (rate, e) := maybe 0x86 e
  let (data, e) ← need 0x87 e
  let (mod, e) := maybe 0x88 e
  let (_, e) := maybe 0x89 e
  let smpCnt ← fixedNat 2 cnt
  let confRev ← fixedNat 4 rev
  let smpSynch ← fixedNat 1 syn
  let smpRate ← fixedOpt 2 rate
  let smpMod ← fixedOpt 2 mod
  if e = [] ∧ data.length % 8 = 0 then
    some { svId := svId, smpCnt := smpCnt, confRev := BitVec.ofNat 32 confRev, smpSynch := smpSynch, smpRate := smpRate,
           smpMod := smpMod, data := svChannels (data.length / 8) data }
  else none

/-- The elements of a list, each with this tag, read. -/
def readAll {α : Type} (tag : Nat) (f : List Byte → Option α) : List BerElem → Option (List α)
  | [] => some []
  | x :: t => if x.1 = tag then (f x.2).bind (fun a => (readAll tag f t).map (fun l => a :: l)) else none

/-- noASDU and the ASDUs of a sampled-value APDU. -/
def svApdu (l : List Byte) : Option (Nat × List SvAsdu) := do
  let b ← berOne 0x60 l
  let e ← berAll b
  let (n, e) ← need 0x80 e
  let (_, e) := maybe 0x81 e
  let (a, e) ← need 0xA2 e
  let n ← berNat 2 n
  let x ← berAll a
  let asdus ← readAll 0x30 svAsduText x
  if e = [] then some (n, asdus) else none

/-- Whether the octets of a sampled-value frame follow R133 and spell the fields of the frame. -/
def svSpelled (f : SvFrame) : Bool :=
  match frameText f.octets with
  | none => false
  | some t => decide (t.etherType = 0x88BA) && decide (t.appid = f.appid) && decide (bitAt t.res1 15 = f.sim) &&
      decide (svApdu t.apdu = some (f.noAsdu, f.asdus))

/-! ## GOOSE (Table 6.2) -/

/-- An INTEGER of up to 32 bits as a word. -/
def berInt (l : List Byte) : Option Word :=
  let v := sext (8 * l.length) (beNat l)
  if l ≠ [] ∧ l.length ≤ 5 ∧ -(2147483648 : Int) ≤ v ∧ v < 2147483648 then some (BitVec.ofNat 32 (toBits 32 v)) else none

/-- A BIT STRING of up to 32 bits, its first bit at bit 31: the first octet gives the unused bits of the last. -/
def berBits (l : List Byte) : Option Word :=
  let n := l.length - 1
  if l = [] ∨ 4 < n ∨ 8 ≤ beNat (l.take 1) then none
  else
    let v := beNat (l.drop 1)
    let v := v - v % 2 ^ beNat (l.take 1)
    some (BitVec.ofNat 32 (v * 2 ^ (8 * (4 - n))))

/-- A FLOAT32: its exponent width 8, then 4 octets. -/
def berFloat (l : List Byte) : Option Word :=
  if l.length = 5 ∧ l.head? = some 8 then some (BitVec.ofNat 32 (beNat (l.drop 1))) else none

/-- One dataset member: a type that can be mapped with its value, or another (R134). -/
def gooseMember (x : BerElem) : GMember :=
  let of := fun (ty : Nat) (v : Option Word) => match v with
    | some w => { ty := ty, val := w }
    | none => ({ ty := 5, val := 0 } : GMember)
  match x.1 with
  | 0x83 => of 0 ((berBool x.2).map (fun b => BitVec.ofNat 32 (b2n b)))
  | 0x84 => of 1 (berBits x.2)
  | 0x85 => of 2 (berInt x.2)
  | 0x86 => of 3 ((berNat 4 x.2).map (BitVec.ofNat 32))
  | 0x87 => of 4 (berFloat x.2)
  | _ => { ty := 5, val := 0 }

/-- A truth value that may be absent, and is then false. -/
def boolOpt : Option (List Byte) → Option Bool
  | none => some false
  | some l => berBool l

/-- The fields of a GOOSE APDU put into a frame. -/
def gooseApdu (f : GooseFrame) (l : List Byte) : Option GooseFrame := do
  let b ← berOne 0x61 l
  let e ← berAll b
  let (ref, e) ← need 0x80 e
  let (tal, e) ← need 0x81 e
  let (ds, e) ← need 0x82 e
  let (_, e) := maybe 0x83 e
  let (_, e) ← need 0x84 e
  let (st, e) ← need 0x85 e
  let (sq, e) ← need 0x86 e
  let (sim, e) := maybe 0x87 e
  let (rev, e) ← need 0x88 e
  let (nds, e) := maybe 0x89 e
  let (num, e) ← need 0x8A e
  let (data, e) ← need 0xAB e
  let tal ← berNat 4 tal
  let st ← berNat 4 st
  let sq ← berNat 4 sq
  let sim ← boolOpt sim
  let rev ← berNat 4 rev
  let nds ← boolOpt nds
  let num ← berNat 4 num
  let data ← berAll data
  if e = [] then
    some { f with gocbRef := ref, datSet := ds, tal := tal, stNum := st, sqNum := sq, sim := sim, confRev := BitVec.ofNat 32 rev,
                  ndsCom := nds, numEntries := num, members := data.map gooseMember }
  else none

/-- Whether the octets of a GOOSE frame follow R134 and spell the fields of the frame. -/
def gooseSpelled (f : GooseFrame) : Bool :=
  match frameText f.octets with
  | none => false
  | some t => decide (t.etherType = 0x88B8) && decide (t.appid = f.appid) && decide (gooseApdu f t.apdu = some f)

/-! ## A published frame (R261) -/

/-- Octets with the content of each of their elements, at most n, replaced by g of its place, tag and content. -/
def berMap (g : Nat → Nat → List Byte → List Byte) : Nat → Nat → List Byte → List Byte
  | 0, _, l => l
  | n + 1, i, l =>
    match berElem l with
    | none => l
    | some (x, t) => l.take (l.length - t.length - x.2.length) ++ g i x.1 x.2 ++ berMap g n (i + 1) t

/-- A member's content in its fixed length: BOOLEAN, UtcTime as a number, Quality as a bit string whose first bit is bit 0. -/
def memberOctets (kind v : Nat) (c : List Byte) : List Byte :=
  if kind = 1 then 3 :: beBytes 2 ((List.range 13).foldl (fun a i => if v.testBit i then a + 2 ^ (15 - i) else a) 0)
  else beBytes c.length v

/-- The content of an element of a GOOSE PDU: the fields given by tag, and the members of allData, each with its kind. -/
def gooseField (fields members : List (Nat × Nat)) (tag : Nat) (c : List Byte) : List Byte :=
  if tag = 0xAB then
    berMap (fun i _ c => match members[i]? with
      | some (k, v) => memberOctets k v c
      | none => c) 32 0 c
  else match fields.find? (fun x => decide (x.1 = tag)) with
    | some x => beBytes c.length x.2
    | none => c

/-- A template from its destination MAC on with the fields that the publisher rewrites: the simulation bit of Reserved 1, and
the elements of the PDU (log 49). -/
def gooseRewrite (t : List Byte) (sim : Bool) (fields members : List (Nat × Nat)) : List Byte :=
  let o := if be16 (t.drop 12) = 0x8100 then 22 else 18
  let r := leNat ((t.drop o).take 1)
  t.take o ++ leBytes 1 (r % 128 + 128 * b2n sim) ++ (t.drop (o + 1)).take 3 ++
    berMap (fun _ tag c => if tag = 0x61 then berMap (fun _ tag c => gooseField fields members tag c) 16 0 c else c) 1 0
      (t.drop (o + 4))

/-! ## Authentication (R137) -/

/-- The octets that a tag covers: from APPID to the end of the APDU (PRESUMED, log 46). -/
def coveredOctets (octets : List Byte) : List Byte := ((frameText octets).map FrameText.covered).getD []

/-- Whether the tag of an extension is the one that its algorithm gives under a key: HMAC-SHA256 cut to its length (1), or
AES-GMAC (2). -/
def authTagOk (a : AuthExt) (auth : Nat) (key octets : List Byte) : Bool :=
  let m := coveredOctets octets
  if auth = 1 then
    (decide (a.tag.length = 16) || decide (a.tag.length = 32)) && decide (a.tag = (hmacSha256 key m).take a.tag.length)
  else decide (auth = 2) && decide (a.tag.length = 16) && decide (a.tag = gcmTag key a.iv m [])

end Sys2Proof.Machine
end

