-- ==== Sys2Proof/Machine/Bundle.lean ====
section
/-!
DEFINITION. Sys2Proof/Machine/Bundle.lean: the bundle of the Chejo move set (07 R158 to R168): decoding, encoding, and
the encoding and conflict conditions of Table 7.7, for both profiles.
-/

namespace Sys2Proof.Machine

/-- One move (Table 7.2). -/
structure Move where
  guard : BitVec 3
  src   : BitVec 9
  dst   : BitVec 9
  deriving DecidableEq, Repr

/-- A bundle: its header code, the moves its header gives it (Table 7.3), and its immediate field. -/
structure Bundle where
  hdr   : BitVec 2
  moves : List Move
  imm   : BitVec 42
  deriving DecidableEq, Repr

/-- The 21 bits of a slot (Table 7.2). -/
def Move.enc (m : Move) : BitVec 21 := m.guard ++ m.src ++ m.dst

/-- A slot's 21 bits as a move. -/
def Move.dec (b : BitVec 21) : Move := ⟨b.extractLsb' 18 3, b.extractLsb' 9 9, b.extractLsb' 0 9⟩

/-- Slot s of a bundle, bits [125 - 21 s : 105 - 21 s] (R159). -/
def slotBits (w : BitVec 128) (s : Nat) : BitVec 21 := w.extractLsb' (105 - 21 * s) 21

/-- How many slots hold moves under a header code (Table 7.3). -/
def slotsOf (hdr : BitVec 2) : Nat :=
  match hdr.toNat with
  | 0 => 6 | 1 => 5 | 2 => 4 | _ => 0

/-- The bundle that 128 bits spell. -/
def Bundle.dec (w : BitVec 128) : Bundle :=
  let hdr : BitVec 2 := w.extractLsb' 126 2
  { hdr := hdr
    moves := (List.range (slotsOf hdr)).map (fun s => Move.dec (slotBits w s))
    imm := match hdr.toNat with
      | 1 => (w.extractLsb' 0 21).setWidth 42
      | 2 => w.extractLsb' 0 42
      | _ => 0 }

/-- The slot's bits of move s of a list, zero past its end. -/
def slotOf (l : List Move) (s : Nat) : BitVec 21 :=
  match l[s]? with
  | some m => m.enc
  | none => 0

/-- The 128 bits of a bundle. -/
def Bundle.enc (b : Bundle) : BitVec 128 :=
  let up := b.hdr ++ slotOf b.moves 0 ++ slotOf b.moves 1 ++ slotOf b.moves 2 ++ slotOf b.moves 3
  match b.hdr.toNat with
  | 0 => up ++ slotOf b.moves 4 ++ slotOf b.moves 5
  | 1 => up ++ slotOf b.moves 4 ++ (b.imm.setWidth 21)
  | _ => up ++ b.imm

/-- A bundle that its header allows: as many moves as Table 7.3 says, and an immediate of the header's width. -/
def Bundle.wf (b : Bundle) : Bool :=
  decide (b.moves.length = slotsOf b.hdr) &&
    (match b.hdr.toNat with
     | 1 => decide (b.imm.toNat < 2 ^ 21)
     | 2 => true
     | _ => decide (b.imm = 0))

/-- Whether a slot is empty (guard code 100, R163). -/
def Move.empty (m : Move) : Bool := decide (m.guard = 4)

/-- Whether a move executes under guards g (bit 0 g1, bit 1 g2, bit 2 g3) (Table 7.6). -/
def Move.runs (m : Move) (g : BitVec 3) : Bool :=
  match m.guard.toNat with
  | 0 => true
  | 1 => g.getLsbD 0 | 2 => g.getLsbD 1 | 3 => g.getLsbD 2
  | 5 => !g.getLsbD 0 | 6 => !g.getLsbD 1 | 7 => !g.getLsbD 2
  | _ => false

/-- The value of LIMM (R161): 32 bits on the E-profile. -/
def Bundle.limmE (b : Bundle) : BitVec 32 :=
  if b.hdr = 1 then (b.imm.setWidth 21).signExtend 32 else b.imm.setWidth 32

/-- The value of LIMM on the A-profile. -/
def Bundle.limmA (b : Bundle) : BitVec 64 :=
  if b.hdr = 1 then (b.imm.setWidth 21).signExtend 64 else b.imm.signExtend 64

/-- The slots, with their numbers, that hold a move. -/
def Bundle.slots (b : Bundle) : List (Nat × Move) :=
  ((List.range b.moves.length).zip b.moves).filter (fun x => !x.2.empty)

/-- The slots whose moves execute. -/
def Bundle.live (b : Bundle) (g : BitVec 3) : List (Nat × Move) := b.slots.filter (fun x => x.2.runs g)

/-- A profile's catalogue, as the encoding and conflict conditions see it: which source and destination codes name
something, which unit a trigger code belongs to, and which trigger codes start a control transfer. -/
structure Profile where
  srcOk   : Nat → Bool
  dstOk   : Nat → Bool
  trigger : Nat → Option Nat
  control : Nat → Bool
  eForm   : Bool

/-- The lowest number of a list. -/
def lowest : List Nat → Option Nat
  | [] => none
  | a :: t =>
    match lowest t with
    | none => some a
    | some b => some (min a b)

/-- Slot numbers of moves that meet an encoding condition (Table 7.7). -/
def Bundle.encSlots (p : Profile) (b : Bundle) : List Nat :=
  (if b.hdr = 3 then [0] else []) ++
  (if p.eForm && decide (b.hdr = 2) && decide (2 ^ 32 ≤ b.imm.toNat) then [0] else []) ++
  (b.slots.filter (fun x =>
    !p.srcOk x.2.src.toNat || !p.dstOk x.2.dst.toNat || (decide (b.hdr = 0) && decide (x.2.src = 0xFF)))).map
    (fun x => x.1)

/-- Two destinations that may not both be written in a bundle (Table 7.7). -/
def dstClash (p : Profile) (a b : Nat) : Bool :=
  (decide (a = b) && decide (a ≠ 0xFF)) ||
  (decide (a = 0xF0) && decide (0xF1 ≤ b) && decide (b ≤ 0xF3)) ||
  (decide (b = 0xF0) && decide (0xF1 ≤ a) && decide (a ≤ 0xF3)) ||
  (match p.trigger a, p.trigger b with
   | some u, some v => decide (u = v)
   | _, _ => false)

/-- Slot numbers of executing moves that meet a conflict with a later slot. -/
def clashSlots (p : Profile) : List (Nat × Move) → List Nat
  | [] => []
  | x :: t =>
    (if t.any (fun y => dstClash p x.2.dst.toNat y.2.dst.toNat) then [x.1] else []) ++ clashSlots p t

/-- Slot numbers of executing moves that trigger a control transfer. -/
def ctlSlots (p : Profile) (l : List (Nat × Move)) : List Nat :=
  (l.filter (fun x => p.control x.2.dst.toNat)).map (fun x => x.1)

/-- The slot that a report of an illegal bundle gives, if the bundle is illegal (R177), delay-bundle transfers apart. -/
def Bundle.illegal (p : Profile) (b : Bundle) (g : BitVec 3) : Option Nat :=
  lowest (b.encSlots p ++ clashSlots p (b.live g))

/-- The slot of a control transfer triggered in a delay bundle, if there is one (R177, last row). -/
def Bundle.delayCtl (p : Profile) (b : Bundle) (g : BitVec 3) (inDelay : Bool) : Option Nat :=
  if inDelay then lowest (ctlSlots p (b.live g)) else none

/-- The 16 bytes of a bundle, byte k holding bits [8k+7:8k] (R162). -/
def bundleBytes (w : BitVec 128) : List Byte := leBytes 16 w.toNat

/-- The value of a short immediate source code (R168), as a number of w bits. -/
def shortImm (w src : Nat) : Nat := toBits w (sext 8 src)

/-! ## The E-profile's codes (Table 8.2) -/

/-- Unit of an E-profile trigger port, in the order of Table 8.2 (IALU0 0, IALU1 1, FMAC0 2, FMAC1 3, DSQ 4, ROT 5,
SDFT 6, LSU 7, CMB 8, SET 9, HSM 10, LOOP 11, CTL 12, OUT 13, DMA 14). -/
def eTrigUnit (c : Nat) : Option Nat :=
  if 0x41 ≤ c ∧ c ≤ 0x52 then some 0
  else if 0x59 ≤ c ∧ c ≤ 0x6A then some 1
  else if 0x73 ≤ c ∧ c ≤ 0x81 then some 2
  else if 0x8B ≤ c ∧ c ≤ 0x99 then some 3
  else if 0xA2 ≤ c ∧ c ≤ 0xA3 then some 4
  else if 0xA7 ≤ c ∧ c ≤ 0xA9 then some 5
  else if 0xAC ≤ c ∧ c ≤ 0xAF then some 6
  else if 0xB3 ≤ c ∧ c ≤ 0xB8 then some 7
  else if c = 0xBA then some 8
  else if 0xBC ≤ c ∧ c ≤ 0xBE then some 9
  else if 0xC3 ≤ c ∧ c ≤ 0xC9 then some 10
  else if 0xCB ≤ c ∧ c ≤ 0xCD then some 11
  else if 0xD1 ≤ c ∧ c ≤ 0xD7 then some 12
  else if 0xD8 ≤ c ∧ c ≤ 0xD9 then some 13
  else if 0xE3 ≤ c ∧ c ≤ 0xE5 then some 14
  else none

/-- Operand ports of the E-profile. -/
def eOperand (c : Nat) : Bool :=
  decide (c = 0x40) || decide (c = 0x58) || (decide (0x70 ≤ c) && decide (c ≤ 0x72)) ||
  (decide (0x88 ≤ c) && decide (c ≤ 0x8A)) || (decide (0xA0 ≤ c) && decide (c ≤ 0xA1)) ||
  (decide (0xA4 ≤ c) && decide (c ≤ 0xA6)) || (decide (0xAA ≤ c) && decide (c ≤ 0xAB)) ||
  (decide (0xB0 ≤ c) && decide (c ≤ 0xB2)) || decide (c = 0xB9) || decide (c = 0xBB) ||
  (decide (0xC0 ≤ c) && decide (c ≤ 0xC2)) || decide (c = 0xCA) || decide (c = 0xD0) ||
  (decide (0xE0 ≤ c) && decide (c ≤ 0xE2))

/-- Common destination codes: guards and NULL (Table 7.4). -/
def commonDst (c : Nat) : Bool := (decide (0xF0 ≤ c) && decide (c ≤ 0xF3)) || decide (c = 0xFF)

/-- Common source codes: guards, BPC, LIMM and short immediates (Table 7.4). -/
def commonSrc (c : Nat) : Bool :=
  (decide (0xF0 ≤ c) && decide (c ≤ 0xF4)) || decide (c = 0xFF) || (decide (0x100 ≤ c) && decide (c ≤ 0x1FF))

/-- The E-profile (Table 8.2, R194). -/
def profileE : Profile :=
  { srcOk := fun c => decide (c ≤ 0x5A) || commonSrc c
    dstOk := fun c => decide (c ≤ 0x3F) || (eTrigUnit c).isSome || eOperand c || commonDst c
    trigger := eTrigUnit
    control := fun c => decide (0xD1 ≤ c) && decide (c ≤ 0xD7)
    eForm := true }

/-! ## The A-profile's codes (Table 11.1) -/

/-- Unit of an A-profile trigger port (IALU0 0, IALU1 1, MDU 2, FPU 3, LSU 4, CTL 5, SRU 6). -/
def aTrigUnit (c : Nat) : Option Nat :=
  if 0x41 ≤ c ∧ c ≤ 0x57 then some 0
  else if 0x59 ≤ c ∧ c ≤ 0x6F then some 1
  else if 0x71 ≤ c ∧ c ≤ 0x76 then some 2
  else if 0x83 ≤ c ∧ c ≤ 0x96 then some 3
  else if 0xA3 ≤ c ∧ c ≤ 0xC3 then some 4
  else if 0xD1 ≤ c ∧ c ≤ 0xDA then some 5
  else if 0xE1 ≤ c ∧ c ≤ 0xE9 then some 6
  else none

/-- Operand ports of the A-profile. -/
def aOperand (c : Nat) : Bool :=
  decide (c = 0x40) || decide (c = 0x58) || decide (c = 0x70) || (decide (0x80 ≤ c) && decide (c ≤ 0x82)) ||
  (decide (0xA0 ≤ c) && decide (c ≤ 0xA2)) || decide (c = 0xD0) || decide (c = 0xE0)

/-- The A-profile (Table 11.1, R274); codes 0x030 to 0x03F name no register (Table 7.5). -/
def profileA : Profile :=
  { srcOk := fun c => decide (c ≤ 0x2F) || (decide (0x40 ≤ c) && decide (c ≤ 0x48)) || commonSrc c
    dstOk := fun c => decide (c ≤ 0x2F) || (aTrigUnit c).isSome || aOperand c || commonDst c
    trigger := aTrigUnit
    control := fun c => decide (0xD1 ≤ c) && decide (c ≤ 0xDA)
    eForm := false }

end Sys2Proof.Machine
end

