-- ==== Sys2Proof/Machine/Float.lean ====
section
/-!
DEFINITION. Sys2Proof/Machine/Float.lean: IEEE 754 binary32 and binary64 over exact dyadic numbers (R196, R278).
A finite value is (-1)^s * m * 2^e; every operation computes exactly and rounds once.
-/

namespace Sys2Proof.Machine

/-- A binary format: exponent bits and fraction bits. -/
structure Fmt where
  eb : Nat
  mb : Nat
  deriving DecidableEq, Repr

/-- binary32. -/
def f32 : Fmt := ⟨8, 23⟩

/-- binary64. -/
def f64 : Fmt := ⟨11, 52⟩

/-- Bits of an encoding. -/
def Fmt.width (f : Fmt) : Nat := 1 + f.eb + f.mb

/-- The exponent of the last place of a subnormal. -/
def Fmt.emin (f : Fmt) : Int := 2 - (2 ^ (f.eb - 1) : Nat) - (f.mb : Nat)

/-- The encoding of infinity without a sign. -/
def Fmt.infBits (f : Fmt) : Nat := (2 ^ f.eb - 1) * 2 ^ f.mb

/-- The one NaN that operations produce: quiet, positive, no payload (R196, R278). -/
def Fmt.qnan (f : Fmt) : Nat := f.infBits + 2 ^ (f.mb - 1)

/-- A decoded value. -/
inductive FVal
  | nan (signalling : Bool)
  | inf (s : Bool)
  | fin (s : Bool) (m : Nat) (e : Int)
  deriving DecidableEq, Repr

/-- The value of an encoding. -/
def fDec (f : Fmt) (b : Nat) : FVal :=
  let s := b.testBit (f.eb + f.mb)
  let x := bits b (f.eb + f.mb - 1) f.mb
  let m := b % 2 ^ f.mb
  if x = 2 ^ f.eb - 1 then
    (if m = 0 then .inf s else .nan (!m.testBit (f.mb - 1)))
  else if x = 0 then .fin s m f.emin
  else .fin s (m + 2 ^ f.mb) (f.emin + ((x : Int) - 1))

/-- Flags of FPCTL in their order (Table 12.3): invalid, divide-by-zero, overflow, underflow, inexact. -/
def flInvalid : Nat := 1
def flDivZero : Nat := 2
def flOverflow : Nat := 4
def flUnderflow : Nat := 8
def flInexact : Nat := 16

/-- A result: its encoding and the flags it raises. -/
structure FRes where
  bits  : Nat
  flags : Nat := 0
  deriving DecidableEq, Repr

/-- The sign bit of an encoding. -/
def Fmt.sgn (f : Fmt) (s : Bool) : Nat := b2n s * 2 ^ (f.eb + f.mb)

/-- Whether a magnitude is rounded up: mode 0 nearest even, 1 toward zero, 2 toward minus, 3 toward plus infinity; odd:
the kept last bit is 1; c compares what is cut off with half a unit (0 none, 1 below, 2 equal, 3 above). -/
def roundUp (rm : Nat) (s odd : Bool) (c : Nat) : Bool :=
  match rm with
  | 0 => decide (c = 3) || (decide (c = 2) && odd)
  | 1 => false
  | 2 => s && decide (c ≠ 0)
  | _ => !s && decide (c ≠ 0)

/-- Bits in a natural number. -/
def bitLen (m : Nat) : Nat := if m = 0 then 0 else Nat.log2 m + 1

/-- How the part below bit d of m compares with half of 2^d, with more below it when sticky. -/
def cutCmp (m d : Nat) (sticky : Bool) : Nat :=
  let r := m % 2 ^ d
  if d = 0 then (if sticky then 1 else 0)
  else if r < 2 ^ (d - 1) then (if r = 0 && !sticky then 0 else 1)
  else if r = 2 ^ (d - 1) && !sticky then 2 else 3

/-- m * 2^e kept at exponent q, rounded. -/
def keepAt (rm : Nat) (s : Bool) (m : Nat) (e q : Int) (sticky : Bool) : Nat × Nat :=
  if q ≤ e then (m * 2 ^ (e - q).toNat, if sticky then 1 else 0)
  else
    let d := (q - e).toNat
    let c := cutCmp m d sticky
    let k := m / 2 ^ d
    (if roundUp rm s (k % 2 = 1) c then k + 1 else k, c)

/-- The encoding of (-1)^s * m * 2^e (a little more when sticky), rounded in mode rm, with its flags. -/
def fRound (f : Fmt) (rm : Nat) (s : Bool) (m : Nat) (e : Int) (sticky : Bool) : FRes :=
  if m = 0 && !sticky then ⟨f.sgn s, 0⟩
  else
    let l : Int := e + (bitLen m : Nat)
    let free := l - ((f.mb : Nat) + 1)
    let q := if free < f.emin then f.emin else free
    let (k, c) := keepAt rm s m e q sticky
    let top : Int := f.emin + (2 ^ f.eb : Nat) - 3
    let ovf := decide (2 ^ (f.mb + 1) ≤ k)
    let q' := if ovf then q + 1 else q
    if top < q' then
      let big := match rm with
        | 0 => true | 1 => false | 2 => s | _ => !s
      ⟨f.sgn s + (if big then f.infBits else f.infBits - 1), flOverflow + flInexact⟩
    else
      let code := if k < 2 ^ f.mb then k else (q - f.emin).toNat * 2 ^ f.mb + k
      let inexact := decide (c ≠ 0)
      let unb := keepAt rm s m e free sticky
      let tinyAfter := decide (free < f.emin) && !(decide (free + 1 = f.emin) && decide (2 ^ (f.mb + 1) ≤ unb.1))
      let tiny := if Config.tininessAfter then tinyAfter else decide (free < f.emin)
      ⟨f.sgn s + code, if inexact then flInexact + (if tiny then flUnderflow else 0) else 0⟩

/-- A NaN result, with the invalid flag when an operand signals or the operation is invalid. -/
def fNaN (f : Fmt) (invalid : Bool) : FRes := ⟨f.qnan, if invalid then flInvalid else 0⟩

/-- Whether a value is a signalling NaN. -/
def FVal.sig : FVal → Bool
  | .nan s => s
  | _ => false

/-- Whether a value is a NaN. -/
def FVal.isNaN : FVal → Bool
  | .nan _ => true
  | _ => false

/-- The value with its sign inverted. -/
def FVal.neg : FVal → FVal
  | .nan s => .nan s
  | .inf s => .inf (!s)
  | .fin s m e => .fin (!s) m e

/-- A signed magnitude as an integer. -/
def sgnInt (s : Bool) (m : Nat) : Int := if s then -(m : Int) else (m : Int)

/-- The exact sum of two finite values, rounded; an exact zero of unlike signs is +0, or -0 toward minus infinity. -/
def fSumFin (f : Fmt) (rm : Nat) (s1 : Bool) (m1 : Nat) (e1 : Int) (s2 : Bool) (m2 : Nat) (e2 : Int) : FRes :=
  let e := if e1 ≤ e2 then e1 else e2
  let a := sgnInt s1 (m1 * 2 ^ (e1 - e).toNat)
  let b := sgnInt s2 (m2 * 2 ^ (e2 - e).toNat)
  let x := a + b
  if x = 0 then ⟨f.sgn (if s1 = s2 then s1 else decide (rm = 2)), 0⟩
  else fRound f rm (decide (x < 0)) x.natAbs e false

/-- The sum of two values. -/
def fAddV (f : Fmt) (rm : Nat) (a b : FVal) : FRes :=
  match a, b with
  | .nan s, b => fNaN f (s || b.sig)
  | a, .nan s => fNaN f (s || a.sig)
  | .inf s, .inf t => if s = t then ⟨f.sgn s + f.infBits, 0⟩ else fNaN f true
  | .inf s, _ => ⟨f.sgn s + f.infBits, 0⟩
  | _, .inf t => ⟨f.sgn t + f.infBits, 0⟩
  | .fin s m e, .fin t n g => fSumFin f rm s m e t n g

/-- The product of two values plus a third, rounded once. -/
def fFmaV (f : Fmt) (rm : Nat) (a b c : FVal) : FRes :=
  match a, b with
  | .nan s, b => fNaN f (s || b.sig || c.sig)
  | a, .nan s => fNaN f (s || a.sig || c.sig)
  | .inf s, .inf t => fAddInf (xor s t) c
  | .inf s, .fin t m _ => if m = 0 then fNaN f true else fAddInf (xor s t) c
  | .fin s m _, .inf t => if m = 0 then fNaN f true else fAddInf (xor s t) c
  | .fin s m e, .fin t n g =>
    match c with
    | .nan q => fNaN f q
    | .inf q => ⟨f.sgn q + f.infBits, 0⟩
    | .fin q k h => fSumFin f rm (xor s t) (m * n) (e + g) q k h
where
  /-- An infinite product plus c. -/
  fAddInf (p : Bool) (c : FVal) : FRes :=
    match c with
    | .nan q => fNaN f q
    | .inf q => if p = q then ⟨f.sgn p + f.infBits, 0⟩ else fNaN f true
    | .fin _ _ _ => ⟨f.sgn p + f.infBits, 0⟩

/-- The product of two values. -/
def fMulV (f : Fmt) (rm : Nat) (a b : FVal) : FRes :=
  match a, b with
  | .nan s, b => fNaN f (s || b.sig)
  | a, .nan s => fNaN f (s || a.sig)
  | .inf s, .inf t => ⟨f.sgn (xor s t) + f.infBits, 0⟩
  | .inf s, .fin t m _ => if m = 0 then fNaN f true else ⟨f.sgn (xor s t) + f.infBits, 0⟩
  | .fin s m _, .inf t => if m = 0 then fNaN f true else ⟨f.sgn (xor s t) + f.infBits, 0⟩
  | .fin s m e, .fin t n g => fRound f rm (xor s t) (m * n) (e + g) false

/-- The quotient of two values. -/
def fDivV (f : Fmt) (rm : Nat) (a b : FVal) : FRes :=
  match a, b with
  | .nan s, b => fNaN f (s || b.sig)
  | a, .nan s => fNaN f (s || a.sig)
  | .inf _, .inf _ => fNaN f true
  | .inf s, .fin t _ _ => ⟨f.sgn (xor s t) + f.infBits, 0⟩
  | .fin s _ _, .inf t => ⟨f.sgn (xor s t), 0⟩
  | .fin s m e, .fin t n g =>
    if n = 0 then (if m = 0 then fNaN f true else ⟨f.sgn (xor s t) + f.infBits, flDivZero⟩)
    else if m = 0 then ⟨f.sgn (xor s t), 0⟩
    else
      let k := 2 * f.mb + 8
      let x := m * 2 ^ k
      fRound f rm (xor s t) (x / n) (e - g - (k : Nat)) (decide (x % n ≠ 0))

/-- The integer square root, from bits of the root tried from the highest down. -/
def isqrtFrom : Nat → Nat → Nat → Nat
  | 0, _, r => r
  | n + 1, x, r =>
    let t := r + 2 ^ n
    isqrtFrom n x (if t * t ≤ x then t else r)

/-- The square root of a value. -/
def fSqrtV (f : Fmt) (rm : Nat) (a : FVal) : FRes :=
  match a with
  | .nan s => fNaN f s
  | .inf s => if s then fNaN f true else ⟨f.infBits, 0⟩
  | .fin s m e =>
    if m = 0 then ⟨f.sgn s, 0⟩
    else if s then fNaN f true
    else
      let k := 2 * f.mb + 8 + (if (e % 2) = 0 then 0 else 1)
      let x := m * 2 ^ k
      let r := isqrtFrom (bitLen x / 2 + 1) x 0
      fRound f rm false r ((e - (k : Nat)) / 2) (decide (r * r ≠ x))

/-- The exact comparison of two finite values: a < b. -/
def finLt (s : Bool) (m : Nat) (e : Int) (t : Bool) (n : Nat) (g : Int) : Bool :=
  let q := if e ≤ g then e else g
  decide (sgnInt s (m * 2 ^ (e - q).toNat) < sgnInt t (n * 2 ^ (g - q).toNat))

/-- a < b; false with a NaN. -/
def fLtV (a b : FVal) : Bool :=
  match a, b with
  | .nan _, _ => false
  | _, .nan _ => false
  | .inf s, .inf t => s && !t
  | .inf s, .fin _ _ _ => s
  | .fin _ _ _, .inf t => !t
  | .fin s m e, .fin t n g => finLt s m e t n g

/-- a = b as numbers; false with a NaN. -/
def fEqV (a b : FVal) : Bool := !a.isNaN && !b.isNaN && !fLtV a b && !fLtV b a

/-- The sign of a value that is no NaN. -/
def FVal.sign : FVal → Bool
  | .nan _ => false
  | .inf s => s
  | .fin s _ _ => s

/-- minimumNumber (max = false) or maximumNumber of two encodings: a NaN operand yields the other, two yield NaN, and
-0 is below +0. -/
def fMinMax (f : Fmt) (max : Bool) (x y : Nat) : FRes :=
  let a := fDec f x
  let b := fDec f y
  let fl := if a.sig || b.sig then flInvalid else 0
  if a.isNaN then (if b.isNaN then ⟨f.qnan, fl⟩ else ⟨y, fl⟩)
  else if b.isNaN then ⟨x, fl⟩
  else
    let xFirst := if fLtV a b then true else if fLtV b a then false else a.sign
    ⟨if xFirst != max then x else y, fl⟩

/-- An operation on the sign of an encoding: cleared (neg = false) or inverted; a NaN gives the quiet NaN (R196); IEEE 754
abs and negate signal nothing. -/
def fSignOp (f : Fmt) (neg : Bool) (x : Nat) : FRes :=
  if (fDec f x).isNaN then ⟨f.qnan, 0⟩
  else
    let m := x % 2 ^ (f.eb + f.mb)
    ⟨m + f.sgn (neg && !x.testBit (f.eb + f.mb)), 0⟩

/-- A signed integer in a format. -/
def fOfInt (f : Fmt) (rm : Nat) (x : Int) : FRes := fRound f rm (decide (x < 0)) x.natAbs 0 false

/-- A value as a signed w-bit integer, rounded, saturating; NaN gives 0 with the invalid flag. -/
def fToInt (f : Fmt) (rm w x : Nat) : Int × Nat :=
  let hi : Int := (2 ^ (w - 1) : Nat) - 1
  let lo : Int := -((2 ^ (w - 1) : Nat) : Int)
  match fDec f x with
  | .nan _ => (0, flInvalid)
  | .inf s => (if s then lo else hi, flInvalid)
  | .fin s m e =>
    let (k, c) := keepAt rm s m e 0 false
    let v := sgnInt s k
    if v < lo then (lo, flInvalid) else if hi < v then (hi, flInvalid)
    else (v, if c ≠ 0 then flInexact else 0)

/-- An encoding of one format in another. -/
def fCvt (a b : Fmt) (rm x : Nat) : FRes :=
  match fDec a x with
  | .nan s => fNaN b s
  | .inf s => ⟨b.sgn s + b.infBits, 0⟩
  | .fin s m e => fRound b rm s m e false

/-- The IEEE 754 class of an encoding as a bit (Table 11.4, T_CLASS). -/
def fClass (f : Fmt) (x : Nat) : Nat :=
  match fDec f x with
  | .nan s => if s then 2 ^ 8 else 2 ^ 9
  | .inf s => if s then 2 ^ 0 else 2 ^ 7
  | .fin s m _ =>
    if m = 0 then (if s then 2 ^ 3 else 2 ^ 4)
    else if m < 2 ^ f.mb then (if s then 2 ^ 2 else 2 ^ 5)
    else (if s then 2 ^ 1 else 2 ^ 6)

/-- Sum, difference, product, quotient and fused product-sum of encodings. -/
def fAdd (f : Fmt) (rm x y : Nat) : FRes := fAddV f rm (fDec f x) (fDec f y)
def fSub (f : Fmt) (rm x y : Nat) : FRes := fAddV f rm (fDec f x) (fDec f y).neg
def fMul (f : Fmt) (rm x y : Nat) : FRes := fMulV f rm (fDec f x) (fDec f y)
def fDiv (f : Fmt) (rm x y : Nat) : FRes := fDivV f rm (fDec f x) (fDec f y)
def fSqrt (f : Fmt) (rm x : Nat) : FRes := fSqrtV f rm (fDec f x)
def fMadd (f : Fmt) (rm x y z : Nat) : FRes := fFmaV f rm (fDec f x) (fDec f y) (fDec f z)
def fMsub (f : Fmt) (rm x y z : Nat) : FRes := fFmaV f rm (fDec f x) (fDec f y) (fDec f z).neg
def fNmadd (f : Fmt) (rm x y z : Nat) : FRes := fFmaV f rm (fDec f x).neg (fDec f y) (fDec f z)

/-- A quotient of two naturals in binary64, correctly rounded (interpolation, R146). -/
def f64OfRatio (a b : Nat) : Nat := (fDiv f64 0 (fOfInt f64 0 a).bits (fOfInt f64 0 b).bits).bits

end Sys2Proof.Machine
end

