-- ==== Sys2Proof/Machine/Comb.lean ====
section
/-!
DEFINITION. Sys2Proof/Machine/Comb.lean: the stream table as registers, the comb's rows and cells, opening, presentation,
flush and the comb read window (06 R140 to R156).
-/

namespace Sys2Proof.Machine

/-! ## Stream and GOOSE descriptors (Tables 6.9, 6.10) -/

/-- Word w of stream s's descriptor. -/
def Dev.sdw (s : Dev) (st w : Nat) : Nat := (s.rd .ING_SD (st * 16 + w)).toNat

/-- Word w of GOOSE subscription g's descriptor. -/
def Dev.gdw (s : Dev) (g w : Nat) : Nat := (s.rd .ING_GD (g * 16 + w)).toNat

def Dev.sdMac (s : Dev) (st : Nat) : Nat := s.sdw st 0 + bits (s.sdw st 1) 15 0 * 2 ^ 32
def Dev.sdAppid (s : Dev) (st : Nat) : Nat := bits (s.sdw st 1) 31 16
def Dev.sdCrc (s : Dev) (st : Nat) : Nat := s.sdw st 2
def Dev.sdConfRev (s : Dev) (st : Nat) : Nat := s.sdw st 3
def Dev.sdRate (s : Dev) (st : Nat) : Nat := bits (s.sdw st 4) 15 0
def Dev.sdNasdu (s : Dev) (st : Nat) : Nat := bits (s.sdw st 4) 19 16
def Dev.sdNch (s : Dev) (st : Nat) : Nat := bits (s.sdw st 4) 24 20
def Dev.sdSyncreq (s : Dev) (st : Nat) : Nat := bits (s.sdw st 4) 26 25
def Dev.sdUnsync (s : Dev) (st : Nat) : Bool := bitAt (s.sdw st 4) 27
def Dev.sdInterp (s : Dev) (st : Nat) : Bool := bitAt (s.sdw st 4) 28
def Dev.sdVlanreq (s : Dev) (st : Nat) : Bool := bitAt (s.sdw st 4) 29
def Dev.sdPorts (s : Dev) (st : Nat) : Nat := bits (s.sdw st 4) 31 30
def Dev.sdReacq (s : Dev) (st : Nat) : Nat := bits (s.sdw st 5) 7 0
def Dev.sdKey (s : Dev) (st : Nat) : Nat := bits (s.sdw st 5) 12 8
def Dev.sdAuth (s : Dev) (st : Nat) : Nat := bits (s.sdw st 5) 14 13
def Dev.sdWorld (s : Dev) (st : Nat) : Nat := bits (s.sdw st 5) 15 15
def Dev.sdSimsel (s : Dev) (st : Nat) : Bool := bitAt (s.sdw st 5) 16
def Dev.sdEn (s : Dev) (st : Nat) : Bool := bitAt (s.sdw st 5) 17
def Dev.sdVid (s : Dev) (st : Nat) : Nat := bits (s.sdw st 5) 29 18
def Dev.sdDcorr (s : Dev) (st : Nat) : Int := sext 32 (s.sdw st 6)
def Dev.sdScale (s : Dev) (st ch : Nat) : Nat := if bitAt (s.sdw st 9) ch then s.sdw st 8 else s.sdw st 7
def Dev.sdChen (s : Dev) (st ch : Nat) : Bool := bitAt (s.sdw st 9) (16 + ch)

/-- The 192-bit channel map of a stream, w10 lowest. -/
def Dev.sdChanField (s : Dev) (st : Nat) : Nat :=
  (List.range 6).foldl (fun a i => a + s.sdw st (10 + i) * 2 ^ (32 * i)) 0

/-- Comb channel of channel ch of a stream. -/
def Dev.sdChan (s : Dev) (st ch : Nat) : Nat := bits (s.sdChanField st) (12 * ch + 11) (12 * ch)

/-- The channels of a stream that are mapped. -/
def Dev.sdMapped (s : Dev) (st : Nat) : List Nat := (List.range 16).filter (s.sdChen st)

def Dev.gdMac (s : Dev) (g : Nat) : Nat := s.gdw g 0 + bits (s.gdw g 1) 15 0 * 2 ^ 32
def Dev.gdAppid (s : Dev) (g : Nat) : Nat := bits (s.gdw g 1) 31 16
def Dev.gdNmem (s : Dev) (g : Nat) : Nat := bits (s.gdw g 5) 5 0
def Dev.gdKey (s : Dev) (g : Nat) : Nat := bits (s.gdw g 5) 10 6
def Dev.gdAuth (s : Dev) (g : Nat) : Nat := bits (s.gdw g 5) 12 11
def Dev.gdWorld (s : Dev) (g : Nat) : Nat := bits (s.gdw g 5) 13 13
def Dev.gdSimsel (s : Dev) (g : Nat) : Bool := bitAt (s.gdw g 5) 14
def Dev.gdEn (s : Dev) (g : Nat) : Bool := bitAt (s.gdw g 5) 15
def Dev.gdPorts (s : Dev) (g : Nat) : Nat := bits (s.gdw g 5) 19 16

/-- Entry e of a GOOSE subscription's mappings. -/
def Dev.gdEntry (s : Dev) (g e : Nat) : Nat := s.gdw g (6 + e)

/-- The entries in use. -/
def Dev.gdMaps (s : Dev) (g : Nat) : List Nat := (List.range 10).filter (fun e => bitAt (s.gdEntry g e) 24)

/-- Streams and GOOSE subscriptions of the active table. -/
def Dev.nStream (s : Dev) : Nat := s.fg F.ING_STAT_NSTREAM 0
def Dev.nGoose (s : Dev) : Nat := s.fg F.ING_STAT_NGOOSE 0

/-! ## Geometry and cells -/

def Dev.cmbC (s : Dev) : Nat := s.fg F.CMB_CFG_CHANS 0
def Dev.cmbD (s : Dev) : Nat := 2 ^ s.fg F.CMB_CFG_DLOG 0
def Dev.cmbL (s : Dev) : Nat := s.fg F.CMB_CFG_LAG 0

/-- Flags of a cell (Table 6.5). -/
def flAbsent : Nat := 2 ^ 0
def flLateFill : Nat := 2 ^ 1
def flInterp : Nat := 2 ^ 2
def flHeld : Nat := 2 ^ 3
def flTest : Nat := 2 ^ 4
def flInvSrc : Nat := 2 ^ 5
def flSim : Nat := 2 ^ 6
def flPort : Nat := 2 ^ 9
def flTq : Nat := 2 ^ 10
def flPending : Nat := 2 ^ 11

/-- A cell (Table 6.4). -/
def mkCell (flags qual val : Nat) : DWord :=
  BitVec.ofNat 64 ((flags % 65536) * 2 ^ 48 + (qual % 65536) * 2 ^ 32 + val % 2 ^ 32)

def cellVal (c : DWord) : Nat := c.toNat % 2 ^ 32
def cellQual (c : DWord) : Nat := bits c.toNat 47 32
def cellFlags (c : DWord) : Nat := bits c.toNat 63 48

/-- The stream that maps comb channel c, if one does. -/
def Dev.chanStream (s : Dev) (c : Nat) : Option Nat :=
  (List.range s.nStream).find? (fun st => (s.sdMapped st).any (fun ch => decide (s.sdChan st ch = c)))

/-- The GOOSE subscription and mapping that map comb channel c, if one does. -/
def Dev.chanGoose (s : Dev) (c : Nat) : Option (Nat × Nat) :=
  (List.range s.nGoose).findSome? (fun g =>
    ((s.gdMaps g).find? (fun e => decide (s.gdEntry g e % 4096 = c))).map (fun e => (g, e)))

/-- Whether a subscription maps channel c. -/
def Dev.chanMapped (s : Dev) (c : Nat) : Bool := (s.chanStream c).isSome || (s.chanGoose c).isSome

/-- World of channel c (CMB_CHWORLD). -/
def Dev.chanWorld (s : Dev) (c : Nat) : Nat := b2n ((s.rd .CMB_CHWORLD (c / 32)).toNat.testBit (c % 32))

/-- The row in a slot. -/
def Dev.row (s : Dev) (slot : Nat) : Row := SMap.get (fun _ => {}) s.comb.rows slot

/-- The row in a slot replaced. -/
def Dev.setRow (s : Dev) (slot : Nat) (r : Row) : Dev :=
  { s with comb := { s.comb with rows := SMap.set (fun _ => {}) s.comb.rows slot r } }

/-- Cell of channel c of a row. -/
def Row.cell (r : Row) (c : Nat) : DWord := SMap.get (fun _ => 0) r.cells c

/-- Cell of channel c written. -/
def Row.put (r : Row) (c : Nat) (v : DWord) : Row :=
  { r with cells := SMap.set (fun _ => 0) r.cells c v
           written := if r.written.contains c then r.written else r.written ++ [c] }

/-- Whether row m stands in its slot and has been opened since the latest flush. -/
def Dev.rowHas (s : Dev) (m : Nat) : Bool :=
  let r := s.row (m % s.cmbD)
  r.opened && decide (r.tick = m)

/-- Whether row m has been opened since the latest flush (R149, R155). -/
def Dev.rowWasOpened (s : Dev) (m : Nat) : Bool :=
  match s.comb.first with
  | none => false
  | some f => decide (f ≤ m) && decide (m ≤ s.tickNo + 1)

/-! ## Stream and GOOSE run-time state -/

def Dev.strm (s : Dev) (st : Nat) : StreamSt := SMap.get (fun _ => {}) s.ing.streams st
def Dev.onStrm (s : Dev) (st : Nat) (f : StreamSt → StreamSt) : Dev :=
  { s with ing := { s.ing with streams := SMap.mod (fun _ => {}) s.ing.streams st f } }
def Dev.gst (s : Dev) (g : Nat) : GooseSt := SMap.get (fun _ => {}) s.ing.gooses g
def Dev.onGst (s : Dev) (g : Nat) (f : GooseSt → GooseSt) : Dev :=
  { s with ing := { s.ing with gooses := SMap.mod (fun _ => {}) s.ing.gooses g f } }

/-- A stream starts a new run (R143): run length 0, taps emptied; STATE shows ACQ while it is enabled. -/
def Dev.newRun (s : Dev) (st : Nat) : Dev :=
  ((s.onStrm st (fun x => { x with taps := [], hasLast := false })).fs F.ALN_SSTAT_RUN st 0).fs
    F.ALN_SSTAT_STATE st (if s.sdEn st then 1 else 0)

/-- A new run by enabling, flush or stream table also clears the LATE indicator (R147). -/
def Dev.restartRun (s : Dev) (st : Nat) : Dev := (s.newRun st).fs F.ALN_SSTAT_LATE st 0

/-- A gap is counted (R143). -/
def Dev.countGap (s : Dev) (st : Nat) : Dev := (s.inc F.ALN_SGAP_COUNT st).setEvt 113 F.ALN_EVT_GAP 0

/-! ## Flush, opening, presentation -/

/-- The comb is flushed (R155). -/
def Dev.combFlush (s : Dev) : Dev :=
  let s := { s with comb := { s.comb with rows := [], first := none } }
  let s := s.each (List.range s.nStream) Dev.restartRun
  let s := s.each (List.range s.nGoose) (fun s g => s.onGst g (fun x => { x with force := true }))
  (s.inc F.CMB_FLUSHCNT_COUNT 0).setEvt 114 F.CMB_EVT_FLUSH 0

/-- Whether the timebase is LOCKED. -/
def Dev.locked (s : Dev) : Bool := decide (s.fg F.TMB_STAT_STATE 0 = 2)

/-- The cell that a GOOSE mapping's current state gives to a row opened at timebase value x (R154). -/
def gooseCell (g : GooseSt) (e x : Nat) (tq : Bool) : DWord :=
  let v := SMap.get (fun _ => 0) g.vals e
  mkCell (Nat.lor (cellFlags v) (flHeld + (if g.closed || decide (g.closeAt ≤ x) then flInvSrc else 0) +
    (if tq then flTq else 0))) (cellQual v) (cellVal v)

/-- Every GOOSE mapping whose member has a value carried into a row (R149, R154). -/
def Dev.carryGoose (s : Dev) (r : Row) (x : Nat) : Row :=
  (List.range s.nGoose).foldl (fun r g =>
    if (s.gst g).got then
      ((s.gdMaps g).filter (fun e => (s.gst g).has.contains e)).foldl (fun r e =>
        r.put (s.gdEntry g e % 4096) (gooseCell (s.gst g) e x r.tq)) r
    else r) r

/-- Row m opened at tick n = m - 1 (R149). -/
def Dev.openRow (s : Dev) (m : Nat) : Dev :=
  let r := s.carryGoose { tick := m, opened := true, tq := !s.locked } s.time.now
  let s := s.setRow (m % s.cmbD) r
  { s with comb := { s.comb with first := some (s.comb.first.getD m) } }

/-- The cell that fills a pending cell of channel c of row m: hold-last copies only from a row opened since the flush
(R150, R151). -/
def Dev.fillCell (s : Dev) (m c : Nat) (tq : Bool) : DWord :=
  let late := match s.chanStream c with
    | some st => decide (s.fg F.ALN_SSTAT_LATE st = 1)
    | none => false
  let fl := flAbsent + (if late then flLateFill else 0) + (if tq then flTq else 0)
  if s.fg F.CMB_CFG_FILL 0 = 1 ∧ 1 ≤ m ∧ s.rowWasOpened (m - 1) ∧ s.rowHas (m - 1) then
    let p := (s.row ((m - 1) % s.cmbD)).cell c
    mkCell (fl + flHeld + (if (cellQual p).testBit 11 then flTest else 0)) (cellQual p) (cellVal p)
  else mkCell fl 0x0041 0

/-- The counts and the event of an absent cell of a mapped channel (R150). -/
def Dev.countAbsent (s : Dev) (c : Nat) : Dev :=
  if s.chanMapped c then
    let s := match s.chanStream c with
      | some st => s.inc F.ALN_SABS_COUNT st
      | none => s
    (s.inc F.CMB_ABSCNT_COUNT 0).setEvt 114 F.CMB_EVT_ABSENT 0
  else s

/-- Row m presented (R150): a row not opened since the latest flush is made now, absent but for GOOSE state (R155). -/
def Dev.present (s : Dev) (m : Nat) : Dev :=
  let s := if s.rowHas m then s
    else s.setRow (m % s.cmbD) (s.carryGoose { tick := m, opened := true, tq := !s.locked } s.time.now)
  let r := s.row (m % s.cmbD)
  let absent := (List.range s.cmbC).filter (fun c => !r.written.contains c)
  let r' := absent.foldl (fun r c => r.put c (s.fillCell m c r.tq)) r
  let s := s.setRow (m % s.cmbD) { r' with presented := true }
  let s := s.each absent Dev.countAbsent
  let s := { s with comb := { s.comb with pres := some m } }
  s.wr64 .CMB_PRES_LO .CMB_PRES_HI 0 m

/-- What the comb does at tick n: a due flush, the row of n - L presented, row n + 1 opened (R148 to R150, R155). -/
def Dev.combTick (s : Dev) (n : Nat) (flush : Bool) : Dev :=
  let s := s.cond flush Dev.combFlush
  let s := s.cond (decide (s.cmbL ≤ n)) (fun s => s.present (n - s.cmbL))
  s.openRow (n + 1)

/-! ## Reads -/

/-- The cell a read of slot j, channel c sees (R153): none for a slot neither opened nor presented since the flush. -/
def Dev.windowCell (s : Dev) (j c : Nat) : DWord :=
  let r := s.row j
  if !r.opened then 0
  else if r.written.contains c || r.presented then r.cell c
  else mkCell flPending 0 0

/-- The comb port's cell for row m (R152, R210), with the result of an uncorrectable error (Table 18.4, code 5). -/
def Dev.portCell (s : Dev) (m c : Nat) : DWord :=
  if s.mem.ue.contains (5, m % s.cmbD, c) then mkCell flAbsent 0x0041 0
  else if s.rowHas m then s.windowCell (m % s.cmbD) c else 0

/-- A read of the comb window at byte offset off (R153): size 8 or 4 bytes, naturally aligned. -/
def Dev.combWindow (s : Dev) (rq : Req) (off size : Nat) : Dev :=
  let cell := off / 8
  let addr := 0x4000000000 + off
  if s.domOn 8 = false then s.errResp 18 rq 0x11 addr 8
  else if size ≠ 4 ∧ size ≠ 8 ∨ off % size ≠ 0 then s.errResp 10 rq 0x02 addr size
  else if s.cmbC = 0 ∨ s.cmbC * s.cmbD ≤ cell then s.ok 0
  else
    let j := cell / s.cmbC
    let c := cell % s.cmbC
    if rq.world < 2 ∧ s.chanWorld c ≠ rq.world then s.errResp 10 rq 0x05 addr 0
    else
      let v := (if s.mem.ue.contains (5, j, c) then mkCell flAbsent 0x0041 0 else s.windowCell j c).toNat
      s.ok (if size = 8 then v else if off % 8 = 0 then v % 2 ^ 32 else v / 2 ^ 32)

end Sys2Proof.Machine
end

