-- ==== Sys2Proof/Machine/EngineBase.lean ====
section
/-!
DEFINITION. Sys2Proof/Machine/EngineBase.lean: contexts, wakes, switch windows, overruns, faults, halts, the served words
of hive shared memory and the comb port (08 R191 to R219, 09 R220 to R242).
-/

namespace Sys2Proof.Machine

/-! ## Contexts -/

/-- Context c of engine e. -/
def Engine.context (x : Engine) (c : Nat) : ECtx := SMap.get (fun _ => {}) x.ctx c

/-- Context c of an engine changed. -/
def Engine.onContext (x : Engine) (c : Nat) (f : ECtx → ECtx) : Engine :=
  { x with ctx := SMap.mod (fun _ => {}) x.ctx c f }

def Dev.ectx (s : Dev) (e c : Nat) : ECtx := (s.eng e).context c
def Dev.onCtx (s : Dev) (e c : Nat) (f : ECtx → ECtx) : Dev := s.onEng e (fun x => x.onContext c f)

/-- Binding of context c of engine e (Table 8.19). -/
def Dev.bound (s : Dev) (e c : Nat) : Bool := decide (s.fg F.PE_CTX_BIND_BOUND (8 * e + c) = 1)
def Dev.cls (s : Dev) (e c : Nat) : Nat := s.fg F.PE_CTX_BIND_CLASS (8 * e + c)
def Dev.isCls (s : Dev) (e c k : Nat) : Bool := s.bound e c && decide (s.cls e c = k)
def Dev.entry (s : Dev) (e c : Nat) : Nat := s.fg F.PE_CTX_ENTRY_ADDR (8 * e + c)

/-- PE_STAT.STATE: 0 HALTED, 1 RUNNING, 2 FAULTED. -/
def Dev.peState (s : Dev) (e : Nat) : Nat := s.fg F.PE_STAT_STATE e
def Dev.running (s : Dev) (e : Nat) : Bool := decide (s.peState e = 1)

/-- A pending transfer, loops and PC put back to the entry (R231). -/
def ECtx.rewind (c : ECtx) (entry : Nat) : ECtx := { c with pc := entry, xfer := none, l0 := {}, l1 := {} }

/-! ## Performance counters of an engine (R242, R460) -/

/-- Counter j of engine e advanced by n, wrapping with its sticky bit. -/
def Dev.ePmuStep (s : Dev) (e j n : Nat) : Dev :=
  let v := (s.rd .PMU_ECNT (4 * e + j)).toNat + n
  let s := s.wr .PMU_ECNT (4 * e + j) (BitVec.ofNat 32 v)
  if 2 ^ 32 ≤ v then s.setEvtBit (268 + e / 8) F.PMU_EOVF_OVF e j else s

/-- Event ev of context c counted n times on every counter that selects it. -/
def Dev.ePmu (s : Dev) (e ev c n : Nat) : Dev :=
  if s.fg F.PMU_ECTL_EN e = 1 then
    s.each (List.range 4) (fun s j =>
      if s.fg F.PMU_ESEL_EVT (4 * e + j) = ev ∧ ev ≠ 0 ∧
          (s.fg F.PMU_ESEL_CTXEN (4 * e + j) = 0 ∨ s.fg F.PMU_ESEL_CTX (4 * e + j) = c)
      then s.ePmuStep e j n else s)
  else s

/-- No context of engine e is ready or active. -/
def Dev.engIdle (s : Dev) (e : Nat) : Bool :=
  !(List.range 8).any (fun c => decide ((s.ectx e c).st = 1 ∨ (s.ectx e c).st = 2))

/-- The incoming context of an open switch window. -/
def Engine.incoming (x : Engine) : Option Nat :=
  match x.sel with
  | some (some i, _) => some i
  | _ => none

/-- The context that a clock counts for: in a switch window the incoming one, outside one the running one (R242). -/
def Engine.pmuCtx (x : Engine) : Nat := (x.incoming.orElse (fun _ => x.cur)).getD 8

/-- n clocks in which no bundle issues: engine clocks, clocks of a switch window, and clocks with no context (R242). -/
def Dev.ePmuQuiet (s : Dev) (e n : Nat) : Dev :=
  let c := (s.eng e).pmuCtx
  let s := s.ePmu e 0x01 c n
  let s := s.cond (s.eng e).incoming.isSome (fun s => s.ePmu e 0x08 c n)
  s.cond (s.engIdle e) (fun s => s.ePmu e 0x09 c n)

/-- The clocks since the last count, none of which issued a bundle, brought onto the clock events. -/
def Dev.ePmuClocks (s : Dev) (e : Nat) : Dev :=
  let k := s.clk
  let n := k - (s.eng e).pmuClk
  if n = 0 then s else (s.ePmuQuiet e n).onEng e (fun x => { x with pmuClk := k })

/-- The present clock of engine e counted for context o, or for the incoming context of a window that opened in it when no
bundle took it (R242). -/
def Dev.ePmuClock (s : Dev) (e o : Nat) (took : Bool) : Dev :=
  let k := s.clk
  let c := if took then o else (s.eng e).incoming.getD o
  let s := s.ePmu e 0x01 c 1
  let s := s.cond (!took && (s.eng e).incoming.isSome) (fun s => s.ePmu e 0x08 c 1)
  s.onEng e (fun x => { x with pmuClk := k + 1 })

/-! ## Priority and switch windows (R224 to R228) -/

/-- Rank of a context: IDLE contexts below every other. -/
def Dev.rank (s : Dev) (e c : Nat) : Nat := if s.isCls e c 6 then c + 8 else c

/-- The ready context of highest priority. -/
def Dev.bestReady (s : Dev) (e : Nat) : Option Nat :=
  let rdy := (List.range 8).filter (fun c => decide ((s.ectx e c).st = 1))
  match rdy.find? (fun c => !s.isCls e c 6) with
  | some c => some c
  | none => rdy.head?

/-- Context c restarted by an event at clock k (R222, R231): its wake tick is the tick in progress; a fault of it that waits
for the FAULT context still waits (R236). -/
def Dev.makeReady (s : Dev) (e c k : Nat) : Dev :=
  let en := s.entry e c
  let n := s.tickNo
  s.onCtx e c (fun x =>
    { x.rewind en with st := 1, wakeTick := n, wakeClk := k, faulted := false, evPend := false, skipBrk := false })

/-- A waiting context made ready keeps its loops (R231 clears them only at a restart); its run starts at the entry. -/
def Dev.wakeWaiting (s : Dev) (e c k : Nat) : Dev :=
  let en := s.entry e c
  let n := s.tickNo
  s.onCtx e c (fun x => { x with pc := en, xfer := none, st := 1, wakeTick := n, wakeClk := k, skipBrk := false })

/-- The next IDLE context in turn becomes ready when no context of another class is ready or active (R224). -/
def Dev.idleWake (s : Dev) (e k : Nat) : Dev :=
  let busy := (List.range 8).any (fun c => decide ((s.ectx e c).st = 1 ∨ (s.ectx e c).st = 2))
  if busy || !s.running e then s
  else
    let l := (s.eng e).idleLast
    let order := (List.range 8).map (fun i => (l + 1 + i) % 8)
    match order.find? (fun c => s.isCls e c 6 && decide ((s.ectx e c).st = 0 ∨ (s.ectx e c).faulted)) with
    | some c =>
      (if (s.ectx e c).faulted then s.makeReady e c k else s.wakeWaiting e c k).onEng e (fun x => { x with idleLast := c })
    | none => s

/-- A switch window opened or retargeted by an event at clock k (R226, R227). -/
def Dev.schedEvent (s : Dev) (e k : Nat) : Dev :=
  match s.bestReady e with
  | none => s
  | some b =>
    match (s.eng e).sel, (s.eng e).cur with
    | some (some i, f), _ =>
      if s.rank e b < s.rank e i ∧ k < f then s.onEng e (fun x => { x with sel := some (some b, k + 23) }) else s
    | some (none, _), _ => s.onEng e (fun x => { x with sel := some (some b, k + 23) })
    | none, none => s.onEng e (fun x => { x with sel := some (some b, k + 23) })
    | none, some r =>
      if s.rank e b < s.rank e r then s.onEng e (fun x => { x with sel := some (some b, k + 23) }) else s

/-- The running context stops issuing at deciding clock d (R228): the next ready context follows 23 cycles later, or
within a window that is already open, which a context made ready at d may retarget (R227). -/
def Dev.runEnds (s : Dev) (e d : Nat) : Dev :=
  let s := s.onEng e (fun x => { x with cur := none })
  match (s.eng e).sel with
  | some _ => s.schedEvent e d
  | none => (s.idleWake e d).schedEvent e d

/-! ## Events (R222, R223, R230 to R233) -/

/-- The journal record of a first overrun (R230). -/
def Dev.overrunRecord (s : Dev) (e c : Nat) : Dev :=
  s.record 0x0022 e (s.engWorld e)
    (leBytes 1 c ++ leBytes 7 0 ++ leBytes 8 (s.ectx e c).wakeTick ++ leBytes 1 (s.fg F.PE_CTX_BIND_POLICY (8 * e + c)))

/-- A context restarts under R231: it stops issuing if it runs, and is ready from its entry at clock k. -/
def Dev.restartCtx (s : Dev) (e c k : Nat) : Dev :=
  let s := s.makeReady e c k
  if (s.eng e).cur = some c then s.onEng e (fun x => { x with cur := none }) else s

/-- A context that is busy at its next tick-class event overruns (R230 to R232). -/
def Dev.overrun (s : Dev) (e c k : Nat) : Dev :=
  let s := s.cond (decide (s.fg F.PE_CTX_CSTAT_OVRCNT (8 * e + c) = 0)) (fun s => s.overrunRecord e c)
  let s := (s.inc F.PE_CTX_CSTAT_OVRCNT (8 * e + c)).ePmu e 0x0B c 1
  if s.fg F.PE_CTX_BIND_POLICY (8 * e + c) = 1 then s.onCtx e c (fun x => { x with evPend := true })
  else (s.restartCtx e c k).onEng e (fun x => { x with abortTick := true })

/-- An event of a tick class reaches context c (R222, R230, R233). -/
def Dev.tickEvent (s : Dev) (e c k : Nat) : Dev :=
  let x := s.ectx e c
  if x.held then s.inc F.PE_CTX_CSTAT_OVRCNT (8 * e + c)
  else if x.faulted then s.restartCtx e c k
  else if x.st = 0 then s.wakeWaiting e c k
  else s.overrun e c k

/-- An event of another class reaches context c (R222, R223, R237). -/
def Dev.plainEvent (s : Dev) (e c k : Nat) : Dev :=
  let x := s.ectx e c
  if x.held then s.inc F.PE_CTX_CSTAT_OVRCNT (8 * e + c)
  else if x.faulted then s.restartCtx e c k
  else if x.st = 0 then s.wakeWaiting e c k
  else s.onCtx e c (fun x => { x with evPend := true })

/-- Every context of engine e that `p` selects meets the event, and the scheduler looks again (R226). -/
def Dev.raise (s : Dev) (e k : Nat) (tickClass : Bool) (p : Dev → Nat → Bool) : Dev :=
  if s.running e then
    let s := s.ePmuClocks e
    let s := s.each ((List.range 8).filter (p s)) (fun s c => if tickClass then s.tickEvent e c k else s.plainEvent e c k)
    s.schedEvent e k
  else s

/-- Whether the tick classes are raised in engine e's hive: always outside step mode (R240). -/
def Dev.tickRaised (s : Dev) (e : Nat) : Bool :=
  decide (s.fg F.PE_STEP_MODE e = 0) || decide (0 < s.fg F.PE_STEP_REMAIN e)

/-- TICK and TICK/k of tick n at engine e (R222). -/
def Dev.engTick (s : Dev) (e n k : Nat) : Dev :=
  if s.tickRaised e then
    s.raise e k true (fun s c => s.isCls e c 0 ||
      (s.isCls e c 2 && (let m := s.fg F.PE_CTX_BIND_K (8 * e + c); decide (m ≠ 0) && decide (n % m = 0))))
  else s

/-- HALF at engine e (R222). -/
def Dev.engHalf (s : Dev) (e k : Nat) : Dev :=
  if s.tickRaised e then s.raise e k true (fun s c => s.isCls e c 1) else s

/-- A HIVE-MAIL post reaches engine e (R223). -/
def Dev.engMail (s : Dev) (e k : Nat) : Dev := s.raise e k false (fun s c => s.isCls e c 3)

/-! ## Operations in flight -/

/-- Rotation phase of hive h (R193). -/
def Dev.phi (s : Dev) (h : Nat) : Nat := (s.clk - (s.hive h).on) % 8

/-- A 16-bit word of hive shared memory. -/
def Dev.hsmWord (s : Dev) (h a : Nat) : BitVec 16 := SMap.get (fun _ => 0) (s.hive h).hsm a

/-- A word of hive shared memory written. -/
def Dev.setHsmWord (s : Dev) (h a : Nat) (v : BitVec 16) : Dev :=
  s.onHive h (fun x => { x with hsm := SMap.set (fun _ => 0) x.hsm a v })

/-- Word a stored at clock k, noted beside the other words of that clock. -/
def noteStore (p : Nat × List Nat) (k a : Nat) : Nat × List Nat := if p.1 = k then (k, a :: p.2) else (k, [a])

/-- A word of hive shared memory stored by an engine at clock k. -/
def Dev.engHsmStore (s : Dev) (h k a : Nat) (v : BitVec 16) : Dev :=
  (s.setHsmWord h a v).onHive h (fun x => { x with stored := noteStore x.stored k a })

/-- The value of word a that an engine reads at clock k, `v` being the present one: a second-port write of that clock is not
seen (R192). -/
def overSeen (p : Nat × List (Nat × BitVec 16)) (k a : Nat) (v : BitVec 16) : BitVec 16 :=
  if p.1 = k then ((p.2.find? (fun x => decide (x.1 = a))).map (fun x => x.2)).getD v else v

/-- The value `old` that word a had before the second-port writes of clock k, noted. -/
def noteOver (p : Nat × List (Nat × BitVec 16)) (k a : Nat) (old : BitVec 16) : Nat × List (Nat × BitVec 16) :=
  if p.1 = k then (if p.2.any (fun x => decide (x.1 = a)) then p else (k, (a, old) :: p.2)) else (k, [(a, old)])

/-- A word of hive shared memory written at the second port: the engine's value of this clock remains (R192). -/
def Dev.port2Hsm (s : Dev) (h a : Nat) (v : BitVec 16) : Dev :=
  let k := s.clk
  let x := s.hive h
  if x.stored.1 = k ∧ a ∈ x.stored.2 then s
  else
    let old := s.hsmWord h a
    (s.setHsmWord h a v).onHive h (fun x => { x with second := noteOver x.second k a old })

/-- One word of an operation in flight served: a load takes it, a store writes it, a comb read takes its cell. -/
def Dev.serveWord (s : Dev) (e k : Nat) (f : InFlight) (a pos : Nat) : Dev × InFlight :=
  match f.kind with
  | 1 => (s, { f with data := setBits f.data (16 * pos + 15) (16 * pos) (overSeen (s.hive (e / 8)).second k a (s.hsmWord (e / 8) a)).toNat })
  | 2 => (s.engHsmStore (e / 8) k a (BitVec.ofNat 16 (bits f.data (16 * pos + 15) (16 * pos))), f)
  | 3 => (s, { f with data := (s.portCell a pos).toNat })
  | _ => (s, f)

/-- The words of operation f whose clock is k, served (R209). -/
def Dev.serveOne (s : Dev) (e k : Nat) (f : InFlight) : Dev × InFlight :=
  let (s, f) := (f.want.filter (fun w => decide (w.1 = k))).foldl (fun p w => p.1.serveWord e k p.2 w.2.1 w.2.2) (s, f)
  (s, { f with want := f.want.filter (fun w => decide (w.1 ≠ k)) })

/-- The result ports that a served operation will show: a cell's VAL and FLAGS, QUAL, or up to four words. -/
def InFlight.result (f : InFlight) : List (Nat × Nat) :=
  match f.kind, f.outs with
  | 1, [(p, _), (q, _)] => [(p, f.data % 2 ^ 32), (q, f.data / 2 ^ 32)]
  | 1, [(p, _)] => [(p, f.data % 2 ^ 32)]
  | 3, [(p, _), (q, _)] => [(p, f.data % 2 ^ 32), (q, f.data / 2 ^ 32)]
  | _, o => o

/-- Every operation of engine e served at clock k. -/
def Dev.serve (s : Dev) (e k : Nat) : Dev :=
  let (s, l) := (s.eng e).fly.foldl (fun p f => let (s, f) := p.1.serveOne e k f; (s, p.2 ++ [f])) (s, [])
  s.onEng e (fun x => { x with fly := l })

/-- The clocks of the slots that the engines of hive h still wait for and that have come, rising. -/
def Dev.slotClocks (s : Dev) (h : Nat) : List Nat :=
  sortNat (((List.range 8).flatMap (fun p => (s.eng (8 * h + p)).fly.flatMap (fun f => f.want.map (fun w => w.1)))).filter
    (fun k => decide (k ≤ s.clk)))

/-- The engines of a hive served clock after clock; in one clock every bank serves one engine (R193), so their order
within it does not matter. -/
def Dev.serveHive (s : Dev) (h : Nat) : Dev :=
  s.each (s.slotClocks h) (fun s k => s.each (List.range 8) (fun s p => s.serve (8 * h + p) k))

/-- A completed operation's results in the result port copies of its context (R172, R221). -/
def Engine.commit (x : Engine) (f : InFlight) : Engine :=
  x.onContext f.ctx (fun c =>
    { c with res := f.result.foldl (fun r o => SMap.set (fun _ => 0) r o.1 (BitVec.ofNat 32 o.2)) c.res })

/-- Every operation of engine e whose time has come completes. -/
def Dev.commitDue (s : Dev) (e : Nat) : Dev :=
  let s := s.serveHive (e / 8)
  let k := s.clk
  s.onEng e (fun x =>
    let due := x.fly.filter (fun f => decide (f.ready ≤ k) && f.want.isEmpty)
    let x := due.foldl Engine.commit x
    { x with fly := x.fly.filter (fun f => !(decide (f.ready ≤ k) && f.want.isEmpty)) })

/-! ## Loops and squashed delay bundles -/

/-- A loop disarmed. -/
def LoopSt.off (l : LoopSt) : LoopSt := { l with count := 0 }

/-- The loops at the commit of bundle b (R201): loop 1 first, loop 0 only when loop 1 does not loop back. -/
def ECtx.loopBack (k : ECtx) (b : Nat) : ECtx :=
  let outer := fun (k : ECtx) =>
    if k.l0.count ≠ 0 ∧ k.l0.fin = b then
      (if 1 < k.l0.count then { k with l0 := { k.l0 with count := k.l0.count - 1 }, pc := k.l0.start }
       else { k with l0 := k.l0.off })
    else k
  if k.l1.count ≠ 0 ∧ k.l1.fin = b then
    (if 1 < k.l1.count then { k with l1 := { k.l1 with count := k.l1.count - 1 }, pc := k.l1.start }
     else outer { k with l1 := k.l1.off })
  else outer k

/-- Squashed delay bundles that remain. -/
def ECtx.squashed (k : ECtx) : Nat := ((k.xfer.filter (fun x => x.squash)).map (fun x => x.left)).getD 0

/-- The squashed delay bundles that remain passed over: no break falls between them, and they have no effect (R180, R184). -/
def ECtx.passSquashed (k : ECtx) : ECtx :=
  if k.squashed = 0 then k
  else
    let last := (k.pc + k.squashed - 1) % 8192
    { k with pc := (last + 1) % 8192, xfer := none }.loopBack last

/-- Engine e leaves context c: it stops at a boundary that is none between squashed delay bundles (R184, log 80). -/
def Dev.leaveCtx (s : Dev) (e c : Nat) : Dev :=
  (s.ePmu e 0x0E c (s.ectx e c).squashed).onCtx e c ECtx.passSquashed

/-! ## Halts and faults (R215 to R217) -/

/-- The runs of every context end (R215). -/
def Engine.endRuns (x : Engine) : Engine :=
  (List.range 8).foldl (fun x c => x.onContext c (fun c =>
    { c with st := 0, evPend := false, held := false, faulted := false, faultWait := false, skipBrk := false, finfo := 0 })) x

/-- The engine stops in a state: 0 HALTED, 2 FAULTED (R215); operations in flight complete at their own clocks (log 80). -/
def Dev.stopEngine (s : Dev) (e st : Nat) : Dev :=
  let s := (s.commitDue e).ePmuClocks e
  let s := match (s.eng e).cur with
    | some c => s.leaveCtx e c
    | none => s
  let s := s.onEng e (fun x => { x.endRuns with cur := none, sel := none, runArmed := false })
  (s.fs F.PE_STAT_STATE e st).fs F.PE_DBG_HELD e 0

/-- The word that PE_FAULT0 takes (Table 8.16). -/
def faultWord (cause c infault slot bundle : Nat) : Nat :=
  cause % 16 + (c % 8) * 16 + infault * 128 + (slot % 8) * 256 + (bundle % 8192) * 4096

/-- The FAULT context of an engine: the lowest-numbered context bound to FAULT (R216). -/
def Dev.faultCtx (s : Dev) (e : Nat) : Option Nat := (List.range 8).find? (fun c => s.isCls e c 4)

/-- A fault handed to the FAULT context fc at clock k. -/
def Dev.handFault (s : Dev) (e fc c k : Nat) : Dev :=
  let w := (s.ectx e c).faultWord
  let s := s.onCtx e c (fun x => { x with faultWait := false })
  (s.wakeWaiting e fc k).onCtx e fc (fun x => { x with finfo := w })

/-- The engine stops by a fault (R216): STATE, the event, the journal, the error log, the halt. -/
def Dev.faultStop (s : Dev) (e : Nat) : Dev :=
  let w := (s.rd .PE_FAULT0 e).toNat
  let s := s.record 0x0021 e (s.engWorld e) (leBytes 4 w ++ leBytes 4 (s.rd .PE_FAULT1 e).toNat)
  let s := s.errCap 11 { ty := 0x0A, info := bits w 24 0 + (e % 64) * 2 ^ 25, world := s.engWorld e }
  (s.stopEngine e 2).setEvtBit (120 + e / 8) F.HIV_EVT_FAULT (e / 8) (e % 8)

/-- Context c of engine e faults at its bundle (R216, R217, R236). -/
def Dev.engineFault (s : Dev) (e c cause slot info : Nat) : Dev :=
  let inf := s.isCls e c 4
  let w := faultWord cause c (b2n inf) slot (s.ectx e c).pc
  let s := ((s.wr .PE_FAULT0 e (BitVec.ofNat 32 w)).wr .PE_FAULT1 e (BitVec.ofNat 32 info)).inc F.PE_FCNT_COUNT e
  let s := s.ePmu e 0x0C c 1
  let s := s.onCtx e c (fun x => { x with st := 3, faulted := true, faultWord := BitVec.ofNat 32 w, faultWait := true })
  match inf, s.faultCtx e with
  | false, some fc =>
    let s := if (s.ectx e fc).st = 0 then s.handFault e fc c s.clk else s
    s.runEnds e s.clk
  | _, _ => s.faultStop e

/-- An uncorrectable error in an engine's own memory stops it with cause 0 (Table 18.4, code 3). -/
def Dev.engineUe (s : Dev) (e c mem : Nat) : Dev :=
  let w := faultWord 0 c (b2n (s.isCls e c 4)) 0 (s.ectx e c).pc
  let s := ((s.wr .PE_FAULT0 e (BitVec.ofNat 32 w)).wr .PE_FAULT1 e 0).inc F.PE_FCNT_COUNT e
  let s := s.errCap 11 { ty := 0x08, info := mem, world := s.engWorld e }
  (s.onCtx e c (fun x => { x with st := 3, faulted := true })).faultStop e

/-- Context c's run ends at clock d (R223, R228, R232, R236): a pending event makes it ready again at once, and the
FAULT context takes the next fault that waits. -/
def Dev.endRun (s : Dev) (e c d : Nat) : Dev :=
  let pend := (s.ectx e c).evPend
  let en := s.entry e c
  let s := s.onCtx e c (fun x => { x with st := 0, evPend := false, pc := en, xfer := none, finfo := 0 })
  let s := if pend then s.wakeWaiting e c d else s
  let s := if s.faultCtx e = some c then
      match (List.range 8).find? (fun i => (s.ectx e i).faultWait) with
      | some i => s.handFault e c i d
      | none => s
    else s
  s.runEnds e d

/-! ## Reset of a hive (R33, R96, R98) -/

/-- Registers of an engine as its domain's switch-on leaves them; PE_STAT keeps only the world, which HIV_CTL holds. -/
def Dev.resetEngineRegs (s : Dev) (e : Nat) : Dev :=
  let one := fun (s : Dev) (r : RName) => s.wr r e (RName.reset r e)
  let s := [RName.PE_STAT, .PE_CTL, .PE_RUNTICK_LO, .PE_RUNTICK_HI, .PE_FAULT0, .PE_FAULT1, .PE_FCNT, .PE_CASTID,
    .PE_LATECNT, .PE_EVTDROP, .PE_DBG, .PE_STEP].foldl one s
  let s := s.each [0, 1] (fun s j => s.wr .PE_BRK (2 * e + j) 0)
  s.each (List.range 8) (fun s c =>
    (((s.wr .PE_WCET (8 * e + c) 0).wr .PE_CTX_BIND (8 * e + c) 0).wr .PE_CTX_ENTRY (8 * e + c) 0).wr .PE_CTX_CSTAT
      (8 * e + c) 0)

/-- Hive h as a hive domain just switched on is left (R33): engines halted and empty, memories zero, counters zero. -/
def Dev.resetHiveState (s : Dev) (h : Nat) : Dev :=
  let k := s.clk
  let s := s.each (List.range 8) (fun s p =>
    let e := 8 * h + p
    let s := (s.onEng e (fun _ => { pmuClk := k })).resetEngineRegs e
    let s := s.each (List.range 4) (fun s j => (s.wr .PMU_ECNT (4 * e + j) 0).wr .PMU_ESEL (4 * e + j) 0)
    ((s.wr .PMU_ECTL e 0).wr .PMU_EOVF e 0).wr .PMU_EIEN e 0)
  let s := s.onHive h (fun _ => { hsm := [], on := k, dmaQ := [], stepStart := none })
  ((s.wr .HIV_EVT h 0).wr .HIV_IEN h 0).wr .HIV_DMAERR h 0

/-- The SET registers of hive h's engines as a switch-on of the hive domain leaves them (R493). -/
def Dev.freshSets (s : Dev) (h : Nat) : Dev :=
  s.each (List.range 8) (fun s p =>
    let e := 8 * h + p
    (((s.fs F.SET_ESTAT_ACTIVE e 0).fs F.SET_ESTAT_SHVALID e 0).wr .SET_AID e 0).wr .SET_SID e 0)

/-- SET_ESTAT.OLDUSE of engine e (R247). -/
def Dev.oldUse (s : Dev) (e : Nat) : Bool :=
  match (s.eng e).lastPour with
  | none => false
  | some n => (List.range 8).any (fun c => s.bound e c && decide ((s.ectx e c).st ≠ 0) && decide ((s.ectx e c).wakeTick < n))

end Sys2Proof.Machine
end

