-- ==== Sys2Proof/Machine/Trig.lean ====
section
/-!
DEFINITION. Sys2Proof/Machine/Trig.lean: sine, cosine, angle and magnitude in fixed point, the error bounds of the rotation
unit (Table 8.5), and the twiddle that binary64 arithmetic leaves (R200).
An angle is a number of 320 binary places, a sine or cosine one of 128; both are within 2^-100 of the exact value.
-/

namespace Sys2Proof.Machine

/-! ## Sine and cosine -/

/-- Half of pi, of 320 binary places. -/
def halfPi : Int := 0x1921fb54442d18469898cc51701b839a252049c1114cf98e804177d4c76273644a29410f31c6809bc

/-- n further terms of the series of cosine and sine at r, from term k, whose size is t; 128 binary places. -/
def trigTerms (r : Int) : Nat → Nat → Int → Int × Int → Int × Int
  | 0, _, _, a => a
  | n + 1, k, t, a =>
    trigTerms r n (k + 1) (t * r / 2 ^ 128 / ((k : Int) + 1))
      (match k % 4 with
       | 0 => (a.1 + t, a.2)
       | 1 => (a.1, a.2 + t)
       | 2 => (a.1 - t, a.2)
       | _ => (a.1, a.2 - t))

/-- Cosine and sine of an angle: reduced to the nearest quarter turn, then the series. -/
def cosSin (x : Int) : Int × Int :=
  let q := (2 * x + halfPi) / (2 * halfPi)
  let r := (x - q * halfPi) / 2 ^ 192
  let (c, s) := trigTerms r 40 0 (2 ^ 128) (0, 0)
  if q % 4 = 0 then (c, s) else if q % 4 = 1 then (-s, c) else if q % 4 = 2 then (-c, -s) else (s, -c)

/-! ## binary32 values -/

/-- A finite binary32 as an exact number of 160 binary places. -/
def fix160 (a : Word) : Int :=
  match fDec f32 a.toNat with
  | .fin s m e => sgnInt s (m * 2 ^ (e + 160).toNat)
  | _ => 0

/-- A finite binary32 as an angle. -/
def angleOf (a : Word) : Int := fix160 a * 2 ^ 160

/-- A number of n binary places rounded to a format. -/
def fixRound (f : Fmt) (n : Nat) (x : Int) : Nat := (fRound f 0 (decide (x < 0)) x.natAbs (-(n : Int)) false).bits

/-- A number of n binary places as the nearest binary32. -/
def word32 (n : Nat) (x : Int) : Word := BitVec.ofNat 32 (fixRound f32 n x)

/-- An infinite or NaN binary32. -/
def notFinite (a : Word) : Bool := decide (bits a.toNat 30 23 = 255)

/-- The free value v where it meets a stated bound, else the rounded exact value w; v again where no binary32 near the
exact value meets the bound, which then states nothing. -/
def bounded (ok : Word → Bool) (v w : Word) : Word := if ok v || !ok w then v else w

/-! ## The bounds of Table 8.5 -/

/-- |y - x| is at most 2^-22, for x of 128 binary places. -/
def near22 (x : Int) (y : Word) : Bool :=
  !notFinite y && decide ((fix160 y - x * 2 ^ 32).natAbs ≤ 2 ^ 138 + 2 ^ 60)

/-- cos O1 (`sin` false) or sin O1, bounded for |O1| up to 2^16. -/
def sinCos (sin : Bool) (a v : Word) : Word :=
  if 2 ^ 176 < (fix160 a).natAbs then v
  else
    let x := cosSin (angleOf a)
    let x := if sin then x.2 else x.1
    bounded (near22 x) v (word32 128 x)

/-- (a, b) turned by an angle: both components, of 288 binary places. -/
def turned (a b : Word) (angle : Int) : Int × Int :=
  let (c, s) := cosSin angle
  (fix160 a * c - fix160 b * s, fix160 a * s + fix160 b * c)

/-- |y - x| is at most 2^-21 sqrt(a^2 + b^2), for x of 288 binary places. -/
def near21 (a b : Word) (x : Int) (y : Word) : Bool :=
  let d := fix160 y * 2 ^ 128 - x
  !notFinite y && decide (d * d * 2 ^ 100 ≤ (fix160 a * fix160 a + fix160 b * fix160 b) * 2 ^ 256 * (2 ^ 58 + 1))

/-- A component of (a, b) turned by c, its second when `snd`. -/
def rotated (snd : Bool) (a b c v : Word) : Word :=
  let x := turned a b (angleOf c)
  let x := if snd then x.2 else x.1
  bounded (near21 a b x) v (word32 288 x)

/-- The magnitude of (a, b), its relative error at most 2^-21. -/
def magnitude (a b v : Word) : Word :=
  let m := fix160 a * fix160 a + fix160 b * fix160 b
  let ok := fun (y : Word) =>
    let z := fix160 y * 2 ^ 21
    !notFinite y && decide (0 ≤ z) && decide (z * z ≤ (2 ^ 21 + 1) ^ 2 * m) && decide ((2 ^ 21 - 1) ^ 2 * m ≤ z * z)
  bounded ok v (BitVec.ofNat 32 (fSqrtV f32 0 (.fin false m.natAbs (-320))).bits)

/-! ## Angles -/

/-- One step from an angle towards that of (a, b) = (y, x): by q - q^3/3 for the remaining slope q. -/
def angleStep (a b : Word) (t : Int) : Int :=
  let (y, x) := turned a b (t * 2 ^ 192)
  if x = 0 then t
  else
    let q := y * 2 ^ 128 / x
    t + q - q * q * q / (3 * 2 ^ 256)

/-- The angle of (a, b) = (y, x), of 128 binary places, from a first guess by octants. -/
def angle (a b : Word) : Int :=
  let y := fix160 a
  let x := fix160 b
  let pi := halfPi / 2 ^ 191
  let turn := fun (n d : Int) => if d = 0 then 0 else n * 2 ^ 128 * 17 / (20 * d)
  let t :=
    if y.natAbs ≤ x.natAbs then turn y x + (if 0 < x then 0 else if y < 0 then -pi else pi)
    else (if y < 0 then -pi else pi) / 2 - turn x y
  angleStep a b (angleStep a b (angleStep a b t))

/-- The binary32 value nearest pi. -/
def pi32 : Word := 0x40490FDB

/-- A binary32 in (-pi, pi]. -/
def inHalfTurns (y : Word) : Bool :=
  decide ((fix160 y).natAbs < (fix160 pi32).natAbs) && !notFinite y || decide (y = pi32)

/-- y is within 2^-22 of the angle of (a, b): turned back by y, the remaining slope is that small; and y lies in (-pi, pi]
on the side of a. -/
def nearAngle (a b y : Word) : Bool :=
  let (r, x) := turned a b (angleOf y)
  let side := decide ((fix160 y).natAbs ≤ 2 * 2 ^ 160) || decide (decide (fix160 y < 0) = decide (fix160 a < 0))
  inHalfTurns y && side && decide (0 < x) && decide ((r.natAbs : Int) * 2 ^ 62 ≤ x * (2 ^ 40 + 1))

/-- atan2(a, b): exactly the binary32 nearest pi on the negative axis, bounded elsewhere, always in (-pi, pi]. -/
def atan2 (a b v : Word) : Word :=
  let v := if inHalfTurns v then v else 0
  if fix160 a = 0 ∧ fix160 b < 0 then pi32
  else
    let w := word32 128 (angle a b)
    bounded (nearAngle a b) v (if inHalfTurns w then w else if fix160 a < 0 then 0xC0490FDA else pi32)

/-! ## Twiddles (R200) -/

/-- A twiddle's part x, of 128 binary places, computed in binary64 and rounded to binary32: fixed where every value within
2^-51 of x rounds alike, else v if it lies among those values. -/
def twiddlePart (x : Int) (v : Word) : Word :=
  let lo := word32 128 (x - 2 ^ 77)
  let hi := word32 128 (x + 2 ^ 77)
  let ok := !notFinite v && decide (fix160 lo ≤ fix160 v) && decide (fix160 v ≤ fix160 hi)
  if lo = hi then lo else if ok then v else word32 128 x

/-- The twiddle e^(j 2 pi k / n) with the free parts v where binary64 leaves them open; k = 0 is exactly 1. -/
def twiddleOf (k n : Nat) (v : Word × Word) : Word × Word :=
  let (c, s) := cosSin (4 * halfPi * (k : Int) / (n : Int))
  if k = 0 then (0x3F800000, 0) else (twiddlePart c v.1, twiddlePart s v.2)

end Sys2Proof.Machine
end

