-- ==== Sys2Proof/Machine/EngineUnits.lean ====
section
/-!
DEFINITION. Sys2Proof/Machine/EngineUnits.lean: the engine's arithmetic, SDFT, loop, control and output units
(08 R197 to R203).  Each meaning starts one operation of the running context with the latches as they stand.
-/

namespace Sys2Proof.Machine

/-! ## Starting operations -/

/-- The latch at a destination code. -/
def Engine.lat (x : Engine) (code : Nat) : Word := SMap.get (fun _ => 0) x.latch code

/-- Clock from which a unit accepts a trigger. -/
def Engine.freeAt (x : Engine) (u : Nat) : Nat := SMap.get (fun _ => 0) x.busy u

/-- A unit held until clock k. -/
def Engine.hold (x : Engine) (u k : Nat) : Engine := { x with busy := SMap.set (fun _ => 0) x.busy u k }

/-- An operation put in flight: it supersedes an earlier result of the same unit and context (R172, R195). -/
def Engine.push (x : Engine) (f : InFlight) : Engine :=
  { x with fly := x.fly.filter (fun g => !(decide (g.unit = f.unit) && decide (g.ctx = f.ctx) && decide (g.kind ≠ 2))) ++ [f] }

/-- An operation of unit u whose results are known, readable after lat cycles. -/
def Dev.launch (s : Dev) (e c u : Nat) (outs : List (Nat × Nat)) (lat : Nat) : Dev :=
  let k := s.clk
  s.onEng e (fun x => x.push { unit := u, ctx := c, outs := outs, ready := k + lat })

/-- An operation of a unit that is not pipelined (R173). -/
def Dev.launchHeld (s : Dev) (e c u : Nat) (outs : List (Nat × Nat)) (lat : Nat) : Dev :=
  let k := s.clk
  (s.launch e c u outs lat).onEng e (fun x => x.hold u (k + lat))

/-! ## Integer units (R197) -/

/-- The result of integer operation op (0 ADD ... 17 LTU, in code order) on O1 and T. -/
def ialu (op : Nat) (a t : Word) : Word :=
  let sh := t.toNat % 32
  match op with
  | 0 => a + t
  | 1 => a - t
  | 2 => a &&& t
  | 3 => a ||| t
  | 4 => a ^^^ t
  | 5 => a <<< sh
  | 6 => a >>> sh
  | 7 => a.sshiftRight sh
  | 8 => a * t
  | 9 => BitVec.ofInt 32 ((a.toInt * t.toInt) / 2 ^ 32)
  | 10 => BitVec.ofNat 32 ((a.toNat * t.toNat) / 2 ^ 32)
  | 11 => if a.toInt ≤ t.toInt then a else t
  | 12 => if a.toInt ≤ t.toInt then t else a
  | 13 => if a.toNat ≤ t.toNat then a else t
  | 14 => if a.toNat ≤ t.toNat then t else a
  | 15 => if a = t then 1 else 0
  | 16 => if a.toInt < t.toInt then 1 else 0
  | _ => if a.toNat < t.toNat then 1 else 0

/-- Latency of an integer operation (Table 8.3). -/
def ialuLat (op : Nat) : Nat := if 8 ≤ op ∧ op ≤ 10 then 3 else 1

/-- Integer unit u starts operation op. -/
def Dev.ialuStart (s : Dev) (e c u op : Nat) (t : Word) : Dev :=
  s.launch e c u [(0x40 + u, (ialu op ((s.eng e).lat (0x40 + 0x18 * u)) t).toNat)] (ialuLat op)

/-! ## Multiply-add units (R198) -/

/-- The result of multiply-add operation op (0 MADD ... 14 CVTFI, in code order) on O1, O2, O3. -/
def fmac (op : Nat) (a b c : Nat) : Nat :=
  match op with
  | 0 => (fMadd f32 0 a b c).bits
  | 1 => (fMsub f32 0 a b c).bits
  | 2 => (fNmadd f32 0 a b c).bits
  | 3 => (fMul f32 0 a b).bits
  | 4 => (fAdd f32 0 a b).bits
  | 5 => (fSub f32 0 a b).bits
  | 6 => (fMinMax f32 false a b).bits
  | 7 => (fMinMax f32 true a b).bits
  | 8 => (fSignOp f32 false a).bits
  | 9 => (fSignOp f32 true a).bits
  | 10 => b2n (fLtV (fDec f32 a) (fDec f32 b))
  | 11 => b2n (fLtV (fDec f32 a) (fDec f32 b) || fEqV (fDec f32 a) (fDec f32 b))
  | 12 => b2n (fEqV (fDec f32 a) (fDec f32 b))
  | 13 => (fOfInt f32 0 (sext 32 a)).bits
  | _ => toBits 32 (fToInt f32 0 32 a).1

/-- Multiply-add unit u starts operation op. -/
def Dev.fmacStart (s : Dev) (e c u op : Nat) : Dev :=
  let x := s.eng e
  let o := 0x70 + 0x18 * u
  s.launch e c (2 + u) [(0x42 + u, fmac op (x.lat o).toNat (x.lat (o + 1)).toNat (x.lat (o + 2)).toNat)] 4

/-! ## Divide, square root, rotation (R199) -/

def Dev.divStart (s : Dev) (e c : Nat) : Dev :=
  let x := s.eng e
  s.launchHeld e c 4 [(0x44, (fDiv f32 0 (x.lat 0xA0).toNat (x.lat 0xA1).toNat).bits)] 14

def Dev.sqrtStart (s : Dev) (e c : Nat) : Dev :=
  s.launchHeld e c 4 [(0x44, (fSqrt f32 0 ((s.eng e).lat 0xA0).toNat).bits)] 18

/-- The quiet NaN (R196). -/
def nan32 : Word := 0x7FC00000

/-- Y and Y2 of rotation operation op: 0 SINCOS, 1 ATAN2, 2 ROT (Table 8.5); a finite result is the unit's own within the
stated error (log 10). -/
def rot (op : Nat) (a b c : Word) : Word × Word :=
  match op with
  | 0 => if notFinite a then (nan32, nan32) else (sinCos false a (Config.rotCos a), sinCos true a (Config.rotSin a))
  | 1 =>
    if notFinite a || notFinite b then (nan32, nan32)
    else (atan2 a b (Config.rotAtan2 a b), magnitude a b (Config.rotMag a b))
  | _ =>
    if notFinite a || notFinite b || notFinite c then (nan32, nan32)
    else (rotated false a b c (Config.rotX a b c), rotated true a b c (Config.rotY a b c))

def Dev.rotStart (s : Dev) (e c op : Nat) : Dev :=
  let x := s.eng e
  let r := rot op (x.lat 0xA4) (x.lat 0xA5) (x.lat 0xA6)
  s.launchHeld e c 5 [(0x45, r.1.toNat), (0x46, r.2.toNat)] 12

/-! ## Sliding DFT (R200) -/

/-- Slot k of an engine. -/
def Engine.bin (x : Engine) (k : Nat) : SdftBin := SMap.get (fun _ => {}) x.sdft k

/-- Slot k of engine e replaced, and shown in Y and Y2 after lat cycles. -/
def Dev.setBin (s : Dev) (e c k : Nat) (b : SdftBin) (lat : Nat) : Dev :=
  (s.onEng e (fun x => { x with sdft := SMap.set (fun _ => {}) x.sdft k b })).launch e c 6
    [(0x47, b.xr.toNat), (0x48, b.xi.toNat)] lat

/-- The twiddle of frequency k of N (Table 8.6), computed in binary64 and rounded to binary32 (log 11). -/
def twiddle (k n : Nat) : Word × Word :=
  if n < 4 ∨ 4096 < n ∨ n ≤ k then (nan32, nan32) else twiddleOf k n (Config.twiddleRe k n, Config.twiddleIm k n)

def Dev.sdftCfg (s : Dev) (e c : Nat) (t : Word) : Dev :=
  let x := s.eng e
  let w := twiddle (x.lat 0xAA).toNat (x.lat 0xAB).toNat
  let k := s.clk
  (s.setBin e c (t.toNat % 64) { xr := 0, xi := 0, wr := w.1, wi := w.2 } 12).onEng e (fun x => x.hold 6 (k + 12))

/-- (X + (O1 - O2)) x W, each operation rounded to binary32 (R196, log 15). -/
def sdftStep (b : SdftBin) (o1 o2 : Nat) : SdftBin :=
  let r := (fAdd f32 0 b.xr.toNat (fSub f32 0 o1 o2).bits).bits
  let i := b.xi.toNat
  let wr := b.wr.toNat
  let wi := b.wi.toNat
  { b with
    xr := BitVec.ofNat 32 (fSub f32 0 (fMul f32 0 r wr).bits (fMul f32 0 i wi).bits).bits
    xi := BitVec.ofNat 32 (fAdd f32 0 (fMul f32 0 r wi).bits (fMul f32 0 i wr).bits).bits }

def Dev.sdftUpd (s : Dev) (e c : Nat) (t : Word) : Dev :=
  let x := s.eng e
  let k := t.toNat % 64
  s.setBin e c k (sdftStep (x.bin k) (x.lat 0xAA).toNat (x.lat 0xAB).toNat) 6

def Dev.sdftRd (s : Dev) (e c : Nat) (t : Word) : Dev :=
  let k := t.toNat % 64
  s.setBin e c k ((s.eng e).bin k) 2

/-- A binary32 with every NaN written as the quiet NaN (R196). -/
def canonNaN (a : Word) : Word := if notFinite a ∧ bits a.toNat 22 0 ≠ 0 then nan32 else a

def Dev.sdftLoad (s : Dev) (e c : Nat) (t : Word) : Dev :=
  let x := s.eng e
  let k := t.toNat % 64
  s.setBin e c k { x.bin k with xr := canonNaN (x.lat 0xAA), xi := canonNaN (x.lat 0xAB) } 2

/-! ## Loops and control (R201, R202): the triggering bundle is the one before PC -/

/-- The end bundle that LOOP.O1 names. -/
def Engine.loopEnd (x : Engine) : Nat := (x.lat 0xCA).toNat % 8192

/-- Loop l armed: start is the bundle after the triggering one; a count of 0 skips the body. -/
def Dev.loopArm (s : Dev) (e c l : Nat) (t : Word) : Dev :=
  let fin := (s.eng e).loopEnd
  let n := t.toNat % 65536
  s.onCtx e c (fun k =>
    let lp : LoopSt := { start := k.pc, fin := fin, count := n }
    let k := if l = 0 then { k with l0 := lp } else { k with l1 := lp }
    if n = 0 then { k with pc := (fin + 1) % 8192 } else k)

def Dev.loopClr (s : Dev) (e c : Nat) (t : Word) : Dev :=
  s.onCtx e c (fun k =>
    { k with l0 := if t.getLsbD 0 then k.l0.off else k.l0
             l1 := if t.getLsbD 1 then k.l1.off else k.l1 })

/-- A transfer of context c: two delay bundles follow (R179). -/
def Dev.transfer (s : Dev) (e c : Nat) (x : PendXfer) : Dev := s.onCtx e c (fun k => { k with xfer := some x })

def Dev.eJmpStart (s : Dev) (e c : Nat) (t : Word) : Dev :=
  s.transfer e c { target := t.toNat % 8192, left := 2, taken := true }

/-- A call also writes CTL.Y with the branch bundle's address + 3. -/
def Dev.eCallStart (s : Dev) (e c : Nat) (t : Word) : Dev :=
  (s.transfer e c { target := t.toNat % 8192, left := 2, taken := true, kind := 1 }).onCtx e c (fun k =>
    { k with res := SMap.set (fun _ => 0) k.res 0x53 (BitVec.ofNat 32 ((k.pc + 2) % 8192)) })

/-- A conditional branch: 0 BZ, 1 BZA, 2 BNZ, 3 BNZA; one that is not taken under the annulling port squashes (R180). -/
def Dev.eBranchStart (s : Dev) (e c kind : Nat) (t : Word) : Dev :=
  let z := decide ((s.eng e).lat 0xD0 = 0)
  let taken := if kind < 2 then z else !z
  s.transfer e c { target := t.toNat % 8192, left := 2, taken := taken, squash := !taken && decide (kind % 2 = 1) }

def Dev.eDoneStart (s : Dev) (e c : Nat) : Dev := s.transfer e c { left := 2, taken := true, kind := 6 }

/-! ## Output unit (R203, R255) -/

/-- The publish point of engine e's pair in tick n, a timebase value. -/
def Dev.pubPoint (s : Dev) (e n : Nat) : Nat := tickAt s.F n + s.fg F.TRG_PP_P (e / 2)

/-- Whether an output write of context c is late now. -/
def Dev.lateNow (s : Dev) (e c : Nat) : Bool :=
  decide ((s.ectx e c).wakeTick ≠ s.tickNo) || decide (s.pubPoint e s.tickNo ≤ s.time.now)

/-- An alarm of pair k: bit of PSTAT.ALM and of TRG_EVT.ALM (R255); a pair that is off raises none (R256). -/
def Dev.pairAlarm (s : Dev) (k bit evt : Nat) : Dev :=
  if s.fg F.TRG_PCFG_EN k = 1 then
    (s.fs F.TRG_PSTAT_ALM k (setBit (s.fg F.TRG_PSTAT_ALM k) bit true)).setEvtBit 129 F.TRG_EVT_ALM 0 evt
  else s

/-- A late output: kind 0 trip, 1 event. -/
def Dev.lateOutput (s : Dev) (e c kind : Nat) (v : Word) : Dev :=
  let p := s.pubPoint e (s.ectx e c).wakeTick
  let s := (s.inc F.PE_LATECNT_COUNT e).ePmu e 0x0D c 1
  let s := s.pairAlarm (e / 2) (3 + e % 2) 2
  s.recordAt 0x0033 e (s.engWorld e) p
    (leBytes 1 e ++ leBytes 1 kind ++ leBytes 2 0 ++ leBytes 4 v.toNat ++ leBytes 4 (s.time.now - p))

def Dev.tripStart (s : Dev) (e c : Nat) (t : Word) : Dev :=
  if s.lateNow e c then s.lateOutput e c 0 t
  else s.onEng e (fun x => { x with tripWord := x.tripWord ||| t, tripWritten := true })

def Dev.evtStart (s : Dev) (e c : Nat) (t : Word) : Dev :=
  if s.lateNow e c then s.lateOutput e c 1 t
  else if (s.eng e).evq.length < 16 then s.onEng e (fun x => { x with evq := x.evq ++ [t] })
  else s.inc F.PE_EVTDROP_COUNT e

/-- OUT.Y: written, publish point passed, event words queued (Table 8.8). -/
def Dev.outStat (s : Dev) (e : Nat) : Nat :=
  let x := s.eng e
  b2n x.tripWritten + 2 * b2n (decide (s.pubPoint e s.tickNo ≤ s.time.now)) + 4 * x.evq.length

/-! ## One operation of the running context, as a command -/

/-- An operation of engine e's running context starts; with no running context nothing can start. -/
def Dev.unitOp (s : Dev) (e u : Nat) (f : Dev → Nat → Dev) : Dev :=
  match (s.eng e).cur with
  | some c => if s.running e && decide ((s.eng e).freeAt u ≤ s.clk) then f s c else s
  | none => s

/-- A fault of the bundle before PC (R216): it is put back to that bundle and suspended. -/
def Dev.opFault (s : Dev) (e c cause info : Nat) : Dev :=
  (s.onCtx e c (fun k => { k with pc := (k.pc + 8191) % 8192 })).engineFault e c cause 0 info

/-- E_IALU_OP: operation op of integer unit u (R197). -/
def execEIaluOp (e u op : Nat) (t : Word) (s : State) : Host.Outcome State Fault Refusal :=
  run (wellFormed (.eIaluOp e u op t)) (fun s => s.unitOp e u (fun s c => s.ialuStart e c u op t)) s

/-- E_FMAC_OP: operation op of multiply-add unit u (R198). -/
def execEFmacOp (e u op : Nat) (t : Word) (s : State) : Host.Outcome State Fault Refusal :=
  run (wellFormed (.eFmacOp e u op t)) (fun s => s.unitOp e (2 + u) (fun s c => s.fmacStart e c u op)) s

/-- E_DSQ_DIV: divide (R199). -/
def execEDsqDiv (e : Nat) (t : Word) (s : State) : Host.Outcome State Fault Refusal :=
  run (wellFormed (.eDsqDiv e t)) (fun s => s.unitOp e 4 (fun s c => s.divStart e c)) s

/-- E_DSQ_SQRT: square root (R199). -/
def execEDsqSqrt (e : Nat) (t : Word) (s : State) : Host.Outcome State Fault Refusal :=
  run (wellFormed (.eDsqSqrt e t)) (fun s => s.unitOp e 4 (fun s c => s.sqrtStart e c)) s

/-- E_ROT_OP: rotation (R199). -/
def execERotOp (e op : Nat) (t : Word) (s : State) : Host.Outcome State Fault Refusal :=
  run (wellFormed (.eRotOp e op t)) (fun s => s.unitOp e 5 (fun s c => s.rotStart e c op)) s

/-- E_SDFT_CFG: a slot configured (R200). -/
def execESdftCfg (e : Nat) (t : Word) (s : State) : Host.Outcome State Fault Refusal :=
  run (wellFormed (.eSdftCfg e t)) (fun s => s.unitOp e 6 (fun s c => s.sdftCfg e c t)) s

/-- E_SDFT_UPD: a slot updated (R200). -/
def execESdftUpd (e : Nat) (t : Word) (s : State) : Host.Outcome State Fault Refusal :=
  run (wellFormed (.eSdftUpd e t)) (fun s => s.unitOp e 6 (fun s c => s.sdftUpd e c t)) s

/-- E_SDFT_RD: a slot read (R200). -/
def execESdftRd (e : Nat) (t : Word) (s : State) : Host.Outcome State Fault Refusal :=
  run (wellFormed (.eSdftRd e t)) (fun s => s.unitOp e 6 (fun s c => s.sdftRd e c t)) s

/-- E_SDFT_LOAD: a slot loaded (R200). -/
def execESdftLoad (e : Nat) (t : Word) (s : State) : Host.Outcome State Fault Refusal :=
  run (wellFormed (.eSdftLoad e t)) (fun s => s.unitOp e 6 (fun s c => s.sdftLoad e c t)) s

/-- Whether a loop trigger at the bundle before PC faults: in a branch or delay bundle, or end before start (R201). -/
def Dev.loopBad (s : Dev) (e c : Nat) : Bool :=
  (s.ectx e c).xfer.isSome || decide ((s.eng e).loopEnd < (s.ectx e c).pc)

/-- E_LOOP_ARM: loop l armed (R201). -/
def execELoopArm (e l : Nat) (t : Word) (s : State) : Host.Outcome State Fault Refusal :=
  run (wellFormed (.eLoopArm e l t)) (fun s => s.unitOp e 11 (fun s c =>
    if s.loopBad e c then s.opFault e c 1 0 else s.loopArm e c l t)) s

/-- E_LOOP_CLR: loops disarmed (R201). -/
def execELoopClr (e : Nat) (t : Word) (s : State) : Host.Outcome State Fault Refusal :=
  run (wellFormed (.eLoopClr e t)) (fun s => s.unitOp e 11 (fun s c => s.loopClr e c t)) s

/-- A transfer triggered while one is pending is an illegal bundle (Table 7.7). -/
def Dev.ctlOp (s : Dev) (e : Nat) (f : Dev → Nat → Dev) : Dev :=
  s.unitOp e 12 (fun s c => if (s.ectx e c).xfer.isSome then s.opFault e c 1 0 else f s c)

/-- E_JMP (R202). -/
def execEJmp (e : Nat) (t : Word) (s : State) : Host.Outcome State Fault Refusal :=
  run (wellFormed (.eJmp e t)) (fun s => s.ctlOp e (fun s c => s.eJmpStart e c t)) s

/-- E_CALL (R202). -/
def execECall (e : Nat) (t : Word) (s : State) : Host.Outcome State Fault Refusal :=
  run (wellFormed (.eCall e t)) (fun s => s.ctlOp e (fun s c => s.eCallStart e c t)) s

/-- E_BRANCH: BZ, BZA, BNZ, BNZA (R179, R180). -/
def execEBranch (e kind : Nat) (t : Word) (s : State) : Host.Outcome State Fault Refusal :=
  run (wellFormed (.eBranch e kind t)) (fun s => s.ctlOp e (fun s c => s.eBranchStart e c kind t)) s

/-- E_DONE: the run ends after two delay bundles (R202). -/
def execEDone (e : Nat) (t : Word) (s : State) : Host.Outcome State Fault Refusal :=
  run (wellFormed (.eDone e t)) (fun s => s.ctlOp e (fun s c => s.eDoneStart e c)) s

/-- E_TRIP: the trip word of the tick, or a late output (R203). -/
def execETrip (e : Nat) (t : Word) (s : State) : Host.Outcome State Fault Refusal :=
  run (wellFormed (.eTrip e t)) (fun s => s.unitOp e 13 (fun s c => s.tripStart e c t)) s

/-- E_EVT: an event word (R203). -/
def execEEvt (e : Nat) (t : Word) (s : State) : Host.Outcome State Fault Refusal :=
  run (wellFormed (.eEvt e t)) (fun s => s.unitOp e 13 (fun s c => s.evtStart e c t)) s

end Sys2Proof.Machine
end

