-- ==== Sys2Proof/Machine/EngineMem.lean ====
section
/-!
DEFINITION. Sys2Proof/Machine/EngineMem.lean: the engine's memory ports and DMA unit (08 R204 to R210, 07 R187, R188).
Sizes are 0 word, 1 pair, 2 quad.
-/

namespace Sys2Proof.Machine

/-- Words of an access size. -/
def words (size : Nat) : Nat := 2 ^ size

/-- The address of a memory port: O1 + T, a 32-bit sum (R206). -/
def Engine.addr (x : Engine) (o1 : Nat) (t : Word) : Nat := (x.lat o1 + t).toNat

/-- Whether an access is aligned (R187). -/
def aligned (a size : Nat) : Bool := decide (a % words size = 0)

/-- Words a, a + 1, ... of a memory as one value, lowest first. -/
def gather (f : Nat → BitVec 16) (a size : Nat) : Nat :=
  (List.range (words size)).foldl (fun v i => v + (f (a + i)).toNat * 2 ^ (16 * i)) 0

/-- Store data of an access: O2, and O3 for the upper half of a quad. -/
def Engine.storeData (x : Engine) (o2 size : Nat) : Nat :=
  ((x.lat o2).toNat + (x.lat (o2 + 1)).toNat * 2 ^ 32) % 2 ^ (16 * words size)

/-- Result ports of a load: Y, and Y2 for a quad. -/
def loadOuts (y size v : Nat) : List (Nat × Nat) :=
  if size = 2 then [(y, v % 2 ^ 32), (y + 1, v / 2 ^ 32)] else [(y, v)]

/-- The memories of Table 8.1 in words. -/
def dataWords : Nat := 65536
def bankWords : Nat := 8192
def hsmWords : Nat := 262144

/-! ## Data memory (LSU) -/

def Engine.dataWord (x : Engine) (a : Nat) : BitVec 16 := SMap.get (fun _ => 0) x.data a
def Engine.setData (x : Engine) (a : Nat) (v : BitVec 16) : Engine := { x with data := SMap.set (fun _ => 0) x.data a v }

/-- A word of data memory stored by the engine at clock k. -/
def Engine.storeWord (x : Engine) (k a : Nat) (v : BitVec 16) : Engine :=
  { x.setData a v with stored := noteStore x.stored k a }

/-- A word of data memory as the engine reads it at clock k (R192). -/
def Engine.dataSeen (x : Engine) (k a : Nat) : BitVec 16 := overSeen x.second k a (x.dataWord a)

/-- A word of engine e's data memory written at the second port: the engine's value of this clock remains (R192). -/
def Dev.port2Data (s : Dev) (e a : Nat) (v : BitVec 16) : Dev :=
  let k := s.clk
  s.onEng e (fun x =>
    if x.stored.1 = k ∧ a ∈ x.stored.2 then x
    else { x.setData a v with second := noteOver x.second k a (x.dataWord a) })

/-- Some word of an access holds an uncorrectable error (Table 18.4). -/
def Dev.ueIn (s : Dev) (mem unit a n : Nat) : Bool := (List.range n).any (fun i => s.mem.ue.contains (mem, unit, a + i))

/-- The fault of a memory port access: its words beyond the memory (R206). -/
def rangeFault (cause a size limit : Nat) : Option (Nat × Nat) := if limit < a + words size then some (cause, a) else none

/-- A load of data memory; an unaligned pair or quad takes one cycle more and holds the port (R207). -/
def Dev.lsuLoad (s : Dev) (e c size : Nat) (t : Word) : Dev :=
  let x := s.eng e
  let a := x.addr 0xB0 t
  let k := s.clk
  let late := b2n (!aligned a size)
  if s.ueIn 3 (4 * e + 1) a (words size) then s.engineUe e c 3
  else (s.launch e c 7 (loadOuts 0x49 size (gather (x.dataSeen k) a size)) (2 + late)).onEng e (fun x => x.hold 7 (k + 1 + late))

/-- A store to data memory. -/
def Dev.lsuStore (s : Dev) (e size : Nat) (t : Word) : Dev :=
  let k := s.clk
  s.onEng e (fun x =>
    let a := x.addr 0xB0 t
    let v := x.storeData 0xB1 size
    let x := (List.range (words size)).foldl (fun x i => x.storeWord k (a + i) (BitVec.ofNat 16 (v / 2 ^ (16 * i)))) x
    x.hold 7 (k + 1 + b2n (!aligned a size)))

/-! ## Settings (SET, R208, R246) -/

/-- The bank that a context with this wake tick reads: the active one, or the other before the last pour. -/
def Dev.readBank (s : Dev) (e wake : Nat) : Nat :=
  let act := s.fg F.SET_ESTAT_ACTIVE e
  match (s.eng e).lastPour with
  | none => act
  | some n => if wake < n then 1 - act else act

/-- Word a of bank b of an engine. -/
def Engine.bankWord (x : Engine) (b a : Nat) : BitVec 16 :=
  if b = 1 then SMap.get (fun _ => 0) x.bank1 a else SMap.get (fun _ => 0) x.bank0 a

/-- Word a of bank b written. -/
def Engine.setBank (x : Engine) (b a : Nat) (v : BitVec 16) : Engine :=
  if b = 1 then { x with bank1 := SMap.set (fun _ => 0) x.bank1 a v } else { x with bank0 := SMap.set (fun _ => 0) x.bank0 a v }

def Dev.setRead (s : Dev) (e c size : Nat) (t : Word) : Dev :=
  let x := s.eng e
  let a := x.addr 0xBB t
  let b := s.readBank e (s.ectx e c).wakeTick
  let k := s.clk
  let late := b2n (!aligned a size)
  if s.ueIn 3 (4 * e + 2 + b) a (words size) then s.engineUe e c 3
  else (s.launch e c 9 (loadOuts 0x4D size (gather (x.bankWord b) a size)) (2 + late)).onEng e (fun x => x.hold 9 (k + 1 + late))

/-! ## Hive shared memory (HSM, R209) -/

/-- Cycles until bank b serves position p at phase phi (R193). -/
def hsmWait (b p phi : Nat) : Nat := (b + 16 - p - phi) % 8

/-- The words of an access with the clock of each one's slot, word address and position. -/
def hsmWant (k w a size : Nat) : List (Nat × Nat × Nat) :=
  (List.range (words size)).map (fun i => (k + w + ((a + i) / 4 - a / 4), a + i, i))

/-- Whether an access spans two groups of four words. -/
def spansGroups (a size : Nat) : Bool := decide (a / 4 ≠ (a + words size - 1) / 4)

/-- A request of the HSM port: kind 1 a load, 2 a store. -/
def Dev.hsmStart (s : Dev) (e c size kind : Nat) (t : Word) : Dev :=
  let x := s.eng e
  let a := x.addr 0xC0 t
  let k := s.clk
  let w := hsmWait (a / 4 % 8) (e % 8) (s.phi (e / 8))
  let two := b2n (spansGroups a size)
  let f : InFlight :=
    { unit := 10, ctx := c, kind := kind, want := hsmWant k w a size, ready := k + w + two + (if kind = 1 then 3 else 0)
      outs := if kind = 1 then loadOuts 0x4F size 0 else []
      data := if kind = 1 then 0 else x.storeData 0xC1 size }
  let s := s.ePmu e 0x06 c w
  s.onEng e (fun x =>
    if kind = 1 then (x.push f).hold 10 (k + w + 1 + two)
    else { x with fly := x.fly ++ [f] }.hold 10 (k + w + 1 + two))

def Dev.hsmLoad (s : Dev) (e c size : Nat) (t : Word) : Dev :=
  if s.ueIn 4 (e / 8) ((s.eng e).addr 0xC0 t) (words size) then s.engineUe e c 4 else s.hsmStart e c size 1 t

/-- A HIVE-MAIL post to the positions of a mask, arriving after two clocks (R209, R219). -/
def Dev.postMail (s : Dev) (h mask : Nat) : Dev :=
  let k := s.clk + 2
  s.each (onesBelow 8 mask) (fun s p =>
    s.onEng (8 * h + p) (fun x => if x.mailAt.contains k then x else { x with mailAt := x.mailAt ++ [k] }))

/-! ## Comb port (CMB, R210) -/

/-- The fault of a comb read (R152, R210). -/
def Dev.combFault (s : Dev) (e c : Nat) (t : Word) : Option (Nat × Nat) :=
  let ch := ((s.eng e).lat 0xB9).toNat % 4096
  let o := t.toNat % 4096
  let wake := (s.ectx e c).wakeTick
  if s.cmbC ≤ ch ∨ s.chanMapped ch = false ∨ s.chanWorld ch ≠ s.engWorld e ∨ s.cmbD < o + s.cmbL + 2 ∨
      s.cmbD < (s.tickNo - wake) + o + s.cmbL + 2 then some (3, ch + o * 65536)
  else none

/-- A read of the comb at the engine's slot. -/
def Dev.cmbStart (s : Dev) (e c : Nat) (t : Word) : Dev :=
  let ch := ((s.eng e).lat 0xB9).toNat % 4096
  let back := s.cmbL + t.toNat % 4096
  let wake := (s.ectx e c).wakeTick
  let row := if back ≤ wake then wake - back else 2 ^ 64
  let k := s.clk
  let w := (e % 8 + 8 - s.phi (e / 8)) % 8
  let f : InFlight :=
    { unit := 8, ctx := c, kind := 3, outs := [(0x4B, 0), (0x4C, 0)], want := [(k + w, row, ch)], ready := k + w + 6 }
  (s.ePmu e 0x07 c w).onEng e (fun x => (x.push f).hold 8 (k + w + 1))

/-! ## Hive DMA (R204, R205) -/

/-- The fault of a DMA trigger. -/
def Engine.dmaFault (x : Engine) (get : Bool) (t : Word) : Option (Nat × Nat) :=
  let o1 := (x.lat 0xE0).toNat
  let region := bits o1 19 18
  let a := o1 % 2 ^ 18
  let n := t.toNat % 8192
  let limit := if region = 1 then hsmWords else dataWords
  if get ∧ region = 2 then some (5, o1)
  else if region = 3 ∨ n = 0 ∨ 4096 < n ∨ limit < a + n then some (2, (x.lat 0xE0 + t).toNat)
  else none

/-- Status of a transfer slot: 0 never used, 1 pending, 2 done, 3 error. -/
def Engine.dmaSlot (x : Engine) (i : Nat) : Nat := SMap.get (fun _ => 0) x.dmaStat i

/-- A transfer queued in the lowest free slot; Y gives the slot, or all ones when all four are busy. -/
def Dev.dmaStart (s : Dev) (e c : Nat) (get : Bool) (t : Word) : Dev :=
  let x := s.eng e
  match (List.range 4).find? (fun i => decide (x.dmaSlot i ≠ 1)) with
  | none => s.launch e c 14 [(0x5A, 0xFFFFFFFF)] 1
  | some i =>
    let o1 := (x.lat 0xE0).toNat
    let da := ((x.lat 0xE1).toNat + (x.lat 0xE2).toNat % 256 * 2 ^ 32)
    let tr : DmaXfer := { eng := e, slot := i, get := get, region := bits o1 19 18, laddr := o1 % 2 ^ 18,
                          daddr := da - da % 2, len := t.toNat % 8192 }
    let s := s.onEng e (fun x => { x with dmaStat := SMap.set (fun _ => 0) x.dmaStat i 1 })
    (s.onHive (e / 8) (fun h => { h with dmaQ := h.dmaQ ++ [tr] })).launch e c 14 [(0x5A, i)] 1

/-- Bundle b of an engine's program memory; one never written reads as all ones (R33). -/
def Engine.bundle (x : Engine) (b : Nat) : BitVec 128 := SMap.get (fun _ => BitVec.allOnes 128) x.prog b

/-- A word of a transfer's local region. -/
def Dev.localWord (s : Dev) (e region a : Nat) : BitVec 16 :=
  match region with
  | 0 => (s.eng e).dataWord a
  | 1 => s.hsmWord (e / 8) a
  | _ => BitVec.ofNat 16 (((s.eng e).bundle (a / 8)).toNat / 2 ^ (16 * (a % 8)))

/-- A word of a transfer's local region written. -/
def Dev.setLocalWord (s : Dev) (e region a : Nat) (v : BitVec 16) : Dev :=
  if region = 0 then s.port2Data e a v else s.port2Hsm (e / 8) a v

/-- Pairs of bytes as 16-bit words. -/
def wordsOf : List Byte → List (BitVec 16)
  | a :: b :: t => (b ++ a) :: wordsOf t
  | _ => []

/-- The data of a transfer moved: the state, and whether it ended without error. -/
def Dev.dmaMove (s : Dev) (tr : DmaXfer) : Dev × Bool :=
  let s := s.serveHive (tr.eng / 8)
  let port := 4 + tr.eng / 8
  let w := s.engWorld tr.eng
  if dramSize < tr.daddr + 2 * tr.len then (s.errCap 18 { ty := 0x03, addr := tr.daddr, port := port, world := w, resp := true }, false)
  else if tr.get then
    match s.dmaRead port w tr.daddr (2 * tr.len) with
    | (s, none) => (s, false)
    | (s, some bs) =>
      (((List.range tr.len).zip (wordsOf bs)).foldl (fun s x => s.setLocalWord tr.eng tr.region (tr.laddr + x.1) x.2) s, true)
  else
    let bs := (List.range tr.len).flatMap (fun i => leBytes 2 (s.localWord tr.eng tr.region (tr.laddr + i)).toNat)
    s.dmaWrite port w tr.daddr bs

/-- The hive's first transfer ends, in error when `err` says that DRAM returned an error (R205). -/
def Dev.dmaEnd (s : Dev) (h : Nat) (err : Bool) : Dev :=
  match (s.hive h).dmaQ with
  | [] => s
  | tr :: rest =>
    let s := s.onHive h (fun x => { x with dmaQ := rest })
    let (s, ok) := if err then (s, false) else s.dmaMove tr
    let s := s.onEng tr.eng (fun x => { x with dmaStat := SMap.set (fun _ => 0) x.dmaStat tr.slot (if ok then 2 else 3) })
    let s := s.ePmu tr.eng 0x0F 8 1
    if ok then s else (s.inc F.HIV_DMAERR_COUNT h).setEvtBit (120 + h) F.HIV_EVT_DMAERR h (tr.eng % 8)

/-! ## The commands -/

/-- A memory port operation of the running context, or its fault. -/
def Dev.portOp (s : Dev) (e u : Nat) (bad : Dev → Nat → Option (Nat × Nat)) (f : Dev → Nat → Dev) : Dev :=
  s.unitOp e u (fun s c =>
    match bad s c with
    | some (cause, info) => s.opFault e c cause info
    | none => f s c)

/-- E_DMA_GET (R204). -/
def execEDmaGet (e : Nat) (t : Word) (s : State) : Host.Outcome State Fault Refusal :=
  run (wellFormed (.eDmaGet e t)) (fun s => s.portOp e 14 (fun s _ => (s.eng e).dmaFault true t) (fun s c => s.dmaStart e c true t)) s

/-- E_DMA_PUT (R204). -/
def execEDmaPut (e : Nat) (t : Word) (s : State) : Host.Outcome State Fault Refusal :=
  run (wellFormed (.eDmaPut e t)) (fun s => s.portOp e 14 (fun s _ => (s.eng e).dmaFault false t) (fun s c => s.dmaStart e c false t)) s

/-- DMA.T_STAT: Y gives the status of slot T[1:0]. -/
def Dev.dmaStatStart (s : Dev) (e c : Nat) (t : Word) : Dev := s.launch e c 14 [(0x5A, (s.eng e).dmaSlot (t.toNat % 4))] 2

/-- E_DMA_STAT (R205). -/
def execEDmaStat (e : Nat) (t : Word) (s : State) : Host.Outcome State Fault Refusal :=
  run (wellFormed (.eDmaStat e t)) (fun s => s.unitOp e 14 (fun s c => s.dmaStatStart e c t)) s

/-- DMA_TRANSFER_END (R205). -/
def execDmaTransferEnd (h : Nat) (err : Bool) (s : State) : Host.Outcome State Fault Refusal :=
  run (wellFormed (.dmaTransferEnd h err)) (fun s => s.dmaEnd h err) s

/-- E_LSU_LOAD (R206, R207). -/
def execELsuLoad (e size : Nat) (t : Word) (s : State) : Host.Outcome State Fault Refusal :=
  run (wellFormed (.eLsuLoad e size t)) (fun s => s.portOp e 7
    (fun s _ => rangeFault 2 ((s.eng e).addr 0xB0 t) size dataWords) (fun s c => s.lsuLoad e c size t)) s

/-- E_LSU_STORE (R206, R207). -/
def execELsuStore (e size : Nat) (t : Word) (s : State) : Host.Outcome State Fault Refusal :=
  run (wellFormed (.eLsuStore e size t)) (fun s => s.portOp e 7
    (fun s _ => rangeFault 2 ((s.eng e).addr 0xB0 t) size dataWords) (fun s _ => s.lsuStore e size t)) s

/-- E_SET_READ (R208, R246). -/
def execESetRead (e size : Nat) (t : Word) (s : State) : Host.Outcome State Fault Refusal :=
  run (wellFormed (.eSetRead e size t)) (fun s => s.portOp e 9
    (fun s _ => rangeFault 4 ((s.eng e).addr 0xBB t) size bankWords) (fun s c => s.setRead e c size t)) s

/-- E_HSM_LOAD (R209). -/
def execEHsmLoad (e size : Nat) (t : Word) (s : State) : Host.Outcome State Fault Refusal :=
  run (wellFormed (.eHsmLoad e size t)) (fun s => s.portOp e 10
    (fun s _ => rangeFault 2 ((s.eng e).addr 0xC0 t) size hsmWords) (fun s c => s.hsmLoad e c size t)) s

/-- E_HSM_STORE (R209). -/
def execEHsmStore (e size : Nat) (t : Word) (s : State) : Host.Outcome State Fault Refusal :=
  run (wellFormed (.eHsmStore e size t)) (fun s => s.portOp e 10
    (fun s _ => rangeFault 2 ((s.eng e).addr 0xC0 t) size hsmWords) (fun s c => s.hsmStart e c size 2 t)) s

/-- E_HSM_MAIL: a post that needs no slot and waits for no request of the port (R209). -/
def execEHsmMail (e : Nat) (t : Word) (s : State) : Host.Outcome State Fault Refusal :=
  run (wellFormed (.eHsmMail e t)) (fun s =>
    if s.running e && (s.eng e).cur.isSome then s.postMail (e / 8) (t.toNat % 256) else s) s

/-- E_CMB_READ (R210). -/
def execECmbRead (e : Nat) (t : Word) (s : State) : Host.Outcome State Fault Refusal :=
  run (wellFormed (.eCmbRead e t)) (fun s => s.portOp e 8 (fun s c => s.combFault e c t) (fun s c => s.cmbStart e c t)) s

end Sys2Proof.Machine
end

