-- ==== Sys2Proof/Machine/EngineIssue.lean ====
section
/-!
DEFINITION. Sys2Proof/Machine/EngineIssue.lean: an engine issues a bundle (07 R170 to R184, 08 R201, R216, 09 R226 to
R228, R238, R241).
-/

namespace Sys2Proof.Machine

/-! ## Reading sources -/

/-- The value of GSET: g3, g2, g1 in bits [2:0] (R165). -/
def gsetOf (g : BitVec 3) : Nat := g.toNat

/-- CTL.CTX (Table 8.7). -/
def Dev.ctlCtx (s : Dev) (e c : Nat) : Nat := c + s.cls e c * 16 + e % 8 * 256 + s.phi (e / 8) * 4096

/-- What a source code reads in context c of engine e, in a bundle at address b. -/
def Dev.eSource (s : Dev) (e c b : Nat) (bun : Bundle) (src : Nat) : Word :=
  let k := s.ectx e c
  if src < 64 then SMap.get (fun _ => 0) k.e src
  else BitVec.ofNat 32 (
    if src = 0x51 then k.l0.count
    else if src = 0x52 then k.l1.count
    else if src = 0x54 then k.wakeTick
    else if src = 0x55 then k.wakeTick / 2 ^ 32
    else if src = 0x56 then min (s.clk - k.wakeClk) 0xFFFFFFFF
    else if src = 0x57 then s.ctlCtx e c
    else if src = 0x58 then (if s.faultCtx e = some c then k.finfo.toNat else 0)
    else if src = 0x59 then s.outStat e
    else if src ≤ 0x5A then (SMap.get (fun _ => 0) k.res src).toNat
    else if src = 0xF0 then gsetOf k.g
    else if src = 0xF1 then b2n (k.g.getLsbD 0)
    else if src = 0xF2 then b2n (k.g.getLsbD 1)
    else if src = 0xF3 then b2n (k.g.getLsbD 2)
    else if src = 0xF4 then b
    else if src = 0xFF then bun.limmE.toNat
    else shortImm 32 src)

/-- The unit whose result a source code reads, where the read can stall. -/
def eResUnit (src : Nat) : Option Nat :=
  if src < 0x40 then none
  else if src ≤ 0x44 then some (src - 0x40)
  else if src ≤ 0x50 then some (5 + (src - 0x45) / 2)
  else if src = 0x5A then some 14
  else none

/-- Some source of a live move waits for an operation of this context (R172). -/
def Engine.resStall (x : Engine) (c : Nat) (l : List (Nat × Move)) : Bool :=
  l.any (fun m => x.fly.any (fun f => decide (some f.unit = eResUnit m.2.src.toNat) && decide (f.ctx = c) && decide (f.kind ≠ 2)))

/-- Some trigger of a live move waits for its unit or port (R173, R209). -/
def Engine.unitStall (x : Engine) (k : Nat) (l : List (Nat × Move)) : Bool :=
  l.any (fun m => match eTrigUnit m.2.dst.toNat with
    | some u => decide (m.2.dst ≠ 0xC9) && decide (k < x.freeAt u)
    | none => false)

/-! ## Writing destinations -/

/-- One guard set (R165). -/
def setGuard (g : BitVec 3) (i : Nat) (b : Bool) : BitVec 3 := BitVec.ofNat 3 (setBit g.toNat i b)

/-- A move's value written into a register, a guard or a latch. -/
def Dev.eWrite (s : Dev) (e c dst : Nat) (v : Word) : Dev :=
  if dst < 64 then s.onCtx e c (fun k => { k with e := SMap.set (fun _ => 0) k.e dst v })
  else if dst < 0xF0 then s.onEng e (fun x => { x with latch := SMap.set (fun _ => 0) x.latch dst v })
  else if dst = 0xF0 then s.onCtx e c (fun k => { k with g := BitVec.ofNat 3 v.toNat })
  else if dst ≤ 0xF3 then s.onCtx e c (fun k => { k with g := setGuard k.g (dst - 0xF1) (decide (v ≠ 0)) })
  else s

/-! ## Faults and starts of triggered operations -/

/-- The fault that a trigger raises with the latches of `s`: cause and PE_FAULT1. `start` is the bundle after it. -/
def Dev.trigFault (s : Dev) (e c start : Nat) (noLoop : Bool) (code : Nat) (t : Word) : Option (Nat × Nat) :=
  let x := s.eng e
  if code = 0xCB ∨ code = 0xCC then (if noLoop || decide (x.loopEnd < start) then some (1, 0) else none)
  else if 0xB3 ≤ code ∧ code ≤ 0xB8 then rangeFault 2 (x.addr 0xB0 t) ((code - 0xB3) % 3) dataWords
  else if 0xBC ≤ code ∧ code ≤ 0xBE then rangeFault 4 (x.addr 0xBB t) (code - 0xBC) bankWords
  else if 0xC3 ≤ code ∧ code ≤ 0xC8 then rangeFault 2 (x.addr 0xC0 t) ((code - 0xC3) % 3) hsmWords
  else if code = 0xBA then s.combFault e c t
  else if code = 0xE3 then x.dmaFault true t
  else if code = 0xE4 then x.dmaFault false t
  else none

/-- The fault reported for a bundle (R217): an illegal port fault first, then the lowest slot. -/
def firstFault (l : List (Nat × Nat × Nat)) : Option (Nat × Nat × Nat) :=
  match l.find? (fun f => decide (f.2.1 = 1)) with
  | some f => some f
  | none => l.head?

/-- A triggered operation starts (R176, step 3). -/
def Dev.trigStart (s : Dev) (e c code : Nat) (t : Word) : Dev :=
  if code < 0x58 then s.ialuStart e c 0 (code - 0x41) t
  else if code < 0x70 then s.ialuStart e c 1 (code - 0x59) t
  else if code < 0x88 then s.fmacStart e c 0 (code - 0x73)
  else if code < 0xA0 then s.fmacStart e c 1 (code - 0x8B)
  else match code with
    | 0xA2 => s.divStart e c
    | 0xA3 => s.sqrtStart e c
    | 0xA7 => s.rotStart e c 0
    | 0xA8 => s.rotStart e c 1
    | 0xA9 => s.rotStart e c 2
    | 0xAC => s.sdftCfg e c t
    | 0xAD => s.sdftUpd e c t
    | 0xAE => s.sdftRd e c t
    | 0xAF => s.sdftLoad e c t
    | 0xB3 => s.lsuLoad e c 0 t
    | 0xB4 => s.lsuLoad e c 1 t
    | 0xB5 => s.lsuLoad e c 2 t
    | 0xB6 => s.lsuStore e 0 t
    | 0xB7 => s.lsuStore e 1 t
    | 0xB8 => s.lsuStore e 2 t
    | 0xBA => s.cmbStart e c t
    | 0xBC => s.setRead e c 0 t
    | 0xBD => s.setRead e c 1 t
    | 0xBE => s.setRead e c 2 t
    | 0xC3 => s.hsmLoad e c 0 t
    | 0xC4 => s.hsmLoad e c 1 t
    | 0xC5 => s.hsmLoad e c 2 t
    | 0xC6 => s.hsmStart e c 0 2 t
    | 0xC7 => s.hsmStart e c 1 2 t
    | 0xC8 => s.hsmStart e c 2 2 t
    | 0xC9 => s.postMail (e / 8) (t.toNat % 256)
    | 0xCB => s.loopArm e c 0 t
    | 0xCC => s.loopArm e c 1 t
    | 0xCD => s.loopClr e c t
    | 0xD1 => s.eJmpStart e c t
    | 0xD2 => s.eCallStart e c t
    | 0xD3 => s.eBranchStart e c 0 t
    | 0xD4 => s.eBranchStart e c 1 t
    | 0xD5 => s.eBranchStart e c 2 t
    | 0xD6 => s.eBranchStart e c 3 t
    | 0xD7 => s.eDoneStart e c
    | 0xD8 => s.tripStart e c t
    | 0xD9 => s.evtStart e c t
    | 0xE3 => s.dmaStart e c true t
    | 0xE4 => s.dmaStart e c false t
    | 0xE5 => s.dmaStatStart e c t
    | _ => s

/-! ## Delay bundles and loop ends -/

/-- What follows the commit of bundle b: a branch bundle evaluates no loop, a delay bundle counts down, the last one
takes the transfer (R179, R201); a T_DONE ends the run at the clock after (R228). -/
def Dev.afterBundle (s : Dev) (e c b : Nat) (before : Option PendXfer) : Dev :=
  match before with
  | none => if (s.ectx e c).xfer.isSome then s else s.onCtx e c (fun k => k.loopBack b)
  | some x =>
    if 1 < x.left then s.onCtx e c (fun k => { k with xfer := some { x with left := 1 } })
    else if !x.taken then s.onCtx e c (fun k => { k with xfer := none }.loopBack b)
    else if x.kind = 6 then s.endRun e c (s.clk + 1)
    else s.onCtx e c (fun k => { k with xfer := none, pc := x.target })

/-! ## Breakpoints (R238) -/

/-- The armed breakpoint at bundle b, if one is. -/
def Dev.brkAt (s : Dev) (e b : Nat) : Option Nat :=
  [0, 1].find? (fun j => decide (s.fg F.PE_BRK_EN (2 * e + j) = 1) && decide (s.fg F.PE_BRK_ADDR (2 * e + j) = b))

/-- Whether a breakpoint fires on context c's bundle. -/
def Dev.brkFires (s : Dev) (e c : Nat) : Option Nat :=
  let k := s.ectx e c
  if k.skipBrk || s.isCls e c 5 || decide (s.faultCtx e = some c) then none else s.brkAt e k.pc

/-- Context c held at breakpoint j: the DEBUG context becomes ready and the next context follows. -/
def Dev.holdCtx (s : Dev) (e c j : Nat) : Dev :=
  let s := s.onCtx e c (fun k => { k with st := 3, held := true })
  let s := ((s.fs F.PE_DBG_HELD e (setBit (s.fg F.PE_DBG_HELD e) c true)).fs F.PE_DBG_BRKHIT e 1).fs F.PE_DBG_WHICH e j
  let k := s.clk
  let s := s.each ((List.range 8).filter (fun d => s.isCls e d 5)) (fun s d => s.plainEvent e d k)
  s.runEnds e k

/-! ## Switches (R226) -/

/-- The incoming context of an open window takes the engine: latches zeroed, the outgoing one stays ready (R174, R221). -/
def Dev.switchNow (s : Dev) (e : Nat) : Dev :=
  match (s.eng e).sel with
  | some (some i, _) =>
    let s := match (s.eng e).cur with
      | some o => (s.leaveCtx e o).onCtx e o (fun k => if k.st = 2 then { k with st := 1 } else k)
      | none => s
    (s.onEng e (fun x => { (x.onContext i (fun k => { k with st := 2 })) with latch := [], cur := some i, sel := none })).ePmu e 0x0A i 1
  | _ => s

/-- Clock of the first bundle of an open window's incoming context. -/
def Engine.windowAt (x : Engine) : Option Nat :=
  match x.sel with
  | some (some _, f) => some f
  | _ => none

/-! ## The issue of a bundle (R176) -/

/-- The bundle at PC takes effect: moves, operations, delay and loop control; false when it faults. -/
def Dev.commitBundle (s : Dev) (e c b : Nat) (bun : Bundle) (live : List (Nat × Move)) : Dev × Bool :=
  let before := (s.ectx e c).xfer
  let vals := live.map (fun m => (m.1, m.2.dst.toNat, s.eSource e c b bun m.2.src.toNat))
  let written := vals.foldl (fun s v => s.eWrite e c v.2.1 v.2.2) s
  let trig := vals.filter (fun v => (eTrigUnit v.2.1).isSome)
  let branch := live.any (fun m => profileE.control m.2.dst.toNat)
  let faults := trig.filterMap (fun v =>
    (written.trigFault e c ((b + 1) % 8192) (branch || before.isSome) v.2.1 v.2.2).map (fun f => (v.1, f.1, f.2)))
  match firstFault faults with
  | some (slot, cause, info) => (s.engineFault e c cause slot info, false)
  | none =>
    let s := written.onCtx e c (fun k => { k with pc := (b + 1) % 8192, skipBrk := false })
    let s := (s.ePmu e 0x02 c 1).ePmu e 0x03 c live.length
    let s := trig.foldl (fun s v => s.trigStart e c v.2.1 v.2.2) s
    (if s.running e then s.afterBundle e c b before else s, true)

/-- Context c of engine e attempts the bundle at its PC; whether a bundle, or a squashed one, takes the clock. -/
def Dev.issueCtx (s : Dev) (e c : Nat) : Dev × Bool :=
  let k := s.ectx e c
  let b := k.pc
  if k.xfer.any (fun x => x.squash) then
    let s := (s.onCtx e c (fun k => { k with pc := (b + 1) % 8192 })).ePmu e 0x0E c 1
    (s.afterBundle e c b k.xfer, true)
  else match s.brkFires e c with
  | some j => (s.holdCtx e c j, false)
  | none =>
    if s.mem.ue.contains (3, 4 * e, b) then (s.engineUe e c 3, false)
    else
      let bun := Bundle.dec ((s.eng e).bundle b)
      let live := bun.live k.g
      match lowest ((bun.illegal profileE k.g).toList ++ (bun.delayCtl profileE k.g k.xfer.isSome).toList) with
      | some slot => (s.engineFault e c 1 slot 0, false)
      | none =>
        if (s.eng e).resStall c live then (s.ePmu e 0x04 c 1, false)
        else if (s.eng e).unitStall s.clk live then (s.ePmu e 0x05 c 1, false)
        else s.commitBundle e c b bun live

/-- Engine e at the clock of its next issue: a due switch is made, then the running context issues (R241). -/
def Dev.issue (s : Dev) (e : Nat) : Dev :=
  let s := s.moveClk (s.eng e).lastIssue
  let s := (s.commitDue e).ePmuClocks e
  let s := match (s.eng e).windowAt with
    | some f => if f ≤ s.clk then s.switchNow e else s
    | none => s
  let k := s.clk
  let s := match (s.eng e).cur with
    | some c =>
      let o := (s.eng e).incoming.getD c
      let (s, took) := s.issueCtx e c
      s.ePmuClock e o took
    | none => s
  s.onEng e (fun x => { x with lastIssue := k + 1 })

/-- E_BUNDLE: engine e issues a bundle while it runs (R176). -/
def execEBundle (e : Nat) (s : State) : Host.Outcome State Fault Refusal :=
  run (wellFormed (.eBundle e)) (fun s => if s.domOn (9 + e / 8) && s.running e then s.issue e else s) s

/-- CONTEXT_SWITCH: at the clock of an open window's first bundle the switch is made and that bundle issues (R226). -/
def execContextSwitch (e : Nat) (s : State) : Host.Outcome State Fault Refusal :=
  run (wellFormed (.contextSwitch e)) (fun s =>
    match (s.eng e).windowAt with
    | some f => if s.running e then (s.moveClk f).issue e else s
    | none => s) s

end Sys2Proof.Machine
end

