-- ==== Sys2Proof/Machine/EngineSched.lean ====
section
/-!
DEFINITION. Sys2Proof/Machine/EngineSched.lean: posts, halts, starts, program memory writes and releases (08 R209, R214,
R215, R219, 09 R223, R239).
-/

namespace Sys2Proof.Machine

/-! ## Access to a hive's registers and windows -/

/-- Address of an offset in engine e's window (Table 14.1). -/
def engAddr (e off : Nat) : Nat := 0x4020000000 + e * 0x100000 + off

/-- A write to engine e's window: hive domain on, and the SVP (R34, R191, R218). -/
def Dev.engWriteGate (s : Dev) (rq : Req) (e off : Nat) (f : Dev → Dev) : Dev :=
  if !s.domOn (9 + e / 8) then s.errResp 18 rq 0x11 (engAddr e off) (9 + e / 8)
  else if rq.debug then s.errResp 11 rq 0x01 (engAddr e off) off
  else if !rq.svp then s.errResp 11 rq 0x05 (engAddr e off) 0
  else f s

/-! ## Halt and run (R215) -/

/-- PE_CTL.HALT: a running engine halts, an armed start is dropped. -/
def Dev.peHalt (s : Dev) (e : Nat) : Dev :=
  if s.running e then s.stopEngine e 0 else s.onEng e (fun x => { x with runArmed := false })

/-- The tick in PE_RUNTICK. -/
def Dev.runTick (s : Dev) (e : Nat) : Nat := s.rd64 .PE_RUNTICK_LO .PE_RUNTICK_HI e

/-- PE_CTL.RUN: ignored without ADMIT or while running; it takes the present PE_RUNTICK, and is late, with no start, once that
tick's instant has passed. -/
def Dev.peRun (s : Dev) (e : Nat) : Dev :=
  let n := s.runTick e
  let late := decide (tickAt s.F n ≤ s.time.now)
  if s.fg F.PE_CTL_ADMIT e = 0 ∨ s.running e then s
  else (s.onEng e (fun x => { x with runArmed := !late, startTick := n })).cond late (fun s => s.fs F.PE_STAT_RUNLATE e 1)

/-- A write of PE_CTL: ADMIT takes its bit, then HALT acts, then RUN. -/
def Dev.peCtlWrite (s : Dev) (e : Nat) (v : Word) : Dev :=
  let s := s.fs F.PE_CTL_ADMIT e (b2n (v.getLsbD 2))
  let s := s.cond (v.getLsbD 0) (fun s => s.peHalt e)
  s.cond (v.getLsbD 1) (fun s => s.peRun e)

/-- The engine starts: every bound context waits at its entry, transfers and loops cleared. -/
def Dev.engineStartNow (s : Dev) (e : Nat) : Dev :=
  let s := (s.moveTo (tickAt s.F (s.eng e).startTick)).commitDue e
  let s := (s.ePmuClocks e).fs F.PE_STAT_STATE e 1
  let s := s.onEng e (fun x => { x with runArmed := false, cur := none, sel := none })
  let s := s.each (List.range 8) (fun s c =>
    let en := s.entry e c
    let on := s.bound e c
    s.onCtx e c (fun k => { (if on then k.rewind en else k) with st := 0, evPend := false, held := false,
                                                                      faulted := false, faultWait := false }))
  let k := s.clk
  (s.idleWake e k).schedEvent e k

/-! ## The commands -/

/-- HIVE_MAIL: the earliest post under way reaches engine e (R223). -/
def execHiveMail (e : Nat) (s : State) : Host.Outcome State Fault Refusal :=
  run (wellFormed (.hiveMail e)) (fun s =>
    match (s.eng e).mailAt with
    | [] => s
    | k :: rest => ((s.moveClk k).onEng e (fun x => { x with mailAt := rest })).engMail e (max k s.clk)) s

/-- A write of HIV_MAIL: from the SVP or the hive's world (R219). -/
def Dev.hivMailWrite (s : Dev) (rq : Req) (h : Nat) (v : Word) : Dev :=
  let addr := 0x41000B000C + h * 0x100
  if !s.domOn (9 + h) then s.errResp 18 rq 0x11 addr (9 + h)
  else if rq.port ≠ 2 ∧ rq.world ≠ s.hiveWorld h then s.errResp 11 rq 0x01 addr (h * 0x100 + 0xC)
  else (s.postMail h (v.toNat % 256)).ok 0

/-- HIV_MAIL (R219). -/
def execHivMail (rq : Req) (h : Nat) (v : Word) (s : State) : Host.Outcome State Fault Refusal :=
  run (wellFormed (.hivMail rq h v)) (fun s => s.byFence rq (fun s => s.hivMailWrite rq h v)) s

/-- PE_CTL_HALT: a write of PE_CTL with HALT (R215). -/
def execPeCtlHalt (rq : Req) (e : Nat) (v : Word) (s : State) : Host.Outcome State Fault Refusal :=
  run (wellFormed (.peCtlHalt rq e v)) (fun s => s.byFence rq (fun s => s.engWriteGate rq e 0xC0004 (fun s => (s.peCtlWrite e (v ||| 1)).ok 0))) s

/-- PE_CTL_RUN: a write of PE_CTL with RUN (R215). -/
def execPeCtlRun (rq : Req) (e : Nat) (v : Word) (s : State) : Host.Outcome State Fault Refusal :=
  run (wellFormed (.peCtlRun rq e v)) (fun s => s.byFence rq (fun s => s.engWriteGate rq e 0xC0004 (fun s => (s.peCtlWrite e (v ||| 2)).ok 0))) s

/-- ENGINE_START: the instant of PE_RUNTICK of an engine whose RUN was accepted (R215). -/
def execEngineStart (e : Nat) (s : State) : Host.Outcome State Fault Refusal :=
  run (wellFormed (.engineStart e)) (fun s => if (s.eng e).runArmed then s.engineStartNow e else s) s

/-- Whether a width and an offset suit a window of 16-bit words (Table 14.1). -/
def wordWidth (off size : Nat) : Bool := (decide (size = 2) || decide (size = 4) || decide (size = 8)) && decide (off % size = 0)

/-- Bytes off to off + size - 1 of program memory replaced. -/
def Engine.setProg (x : Engine) (off size v : Nat) : Engine :=
  let b := off / 16
  let lo := 8 * (off % 16)
  let w := BitVec.ofNat 128 (setBits (x.bundle b).toNat (lo + 8 * size - 1) lo v)
  { x with prog := SMap.set (fun _ => BitVec.allOnes 128) x.prog b w }

/-- A write of program memory: accepted while the engine is not running, and it clears ADMIT (R214). -/
def Dev.progWrite (s : Dev) (rq : Req) (e off size : Nat) (data : Nat) : Dev :=
  s.engWriteGate rq e off (fun s =>
    if 0x20000 ≤ off then s.errResp 18 rq 0x03 (engAddr e off) 0
    else if !wordWidth off size then s.errResp 11 rq 0x02 (engAddr e off) size
    else if s.running e then s.errResp 11 rq 0x01 (engAddr e off) off
    else ((s.fs F.PE_CTL_ADMIT e 0).onEng e (fun x => x.setProg off size data)).ok 0)

/-- PROGRAM_MEMORY_WRITE (R214). -/
def execProgramMemoryWrite (rq : Req) (e off size : Nat) (data : BitVec 128) (s : State) :
    Host.Outcome State Fault Refusal :=
  run (wellFormed (.programMemoryWrite rq e off size data)) (fun s => s.byFence rq (fun s => s.progWrite rq e off size data.toNat)) s

/-- Context c released from its breakpoint: it is ready, and its next issue fires none (R239). -/
def Dev.releaseCtx (s : Dev) (e c : Nat) : Dev :=
  if (s.ectx e c).held then
    let s := (s.ePmuClocks e).onCtx e c (fun k => { k with held := false, skipBrk := true, st := 1 })
    let s := s.fs F.PE_DBG_HELD e (setBit (s.fg F.PE_DBG_HELD e) c false)
    s.schedEvent e s.clk
  else s

/-- A write of PE_DBG: RELEASE bits, and BRKHIT cleared by a 1. -/
def Dev.peDbgWrite (s : Dev) (e : Nat) (v : Word) : Dev :=
  let s := s.each (onesBelow 8 (v.toNat / 256)) (fun s c => s.releaseCtx e c)
  s.cond (v.getLsbD 16) (fun s => s.fs F.PE_DBG_BRKHIT e 0)

/-- PE_DBG_RELEASE (R239). -/
def execPeDbgRelease (rq : Req) (e : Nat) (v : Word) (s : State) : Host.Outcome State Fault Refusal :=
  run (wellFormed (.peDbgRelease rq e v)) (fun s => s.byFence rq (fun s => s.engWriteGate rq e 0xC0038 (fun s => (s.peDbgWrite e v).ok 0))) s

/-- Breakpoints of an engine disarmed and every held context released (R69, R239). -/
def Dev.disarmEngine (s : Dev) (e : Nat) : Dev :=
  let s := (s.fs F.PE_BRK_EN (2 * e) 0).fs F.PE_BRK_EN (2 * e + 1) 0
  s.each (List.range 8) (fun s c => s.releaseCtx e c)

end Sys2Proof.Machine
end

