-- ==== Sys2Proof/Machine/Pour.lean ====
section
/-!
DEFINITION. Sys2Proof/Machine/Pour.lean: settings banks and the pour (10 R243 to R251).
-/

namespace Sys2Proof.Machine

/-! ## Groups -/

/-- The 64-bit engine mask of group c. -/
def Dev.pgMask (s : Dev) (c : Nat) : Nat := s.rd64 .SET_PG_MASK_LO .SET_PG_MASK_HI c

/-- The engines of group c, rising. -/
def Dev.pgEngines (s : Dev) (c : Nat) : List Nat := onesBelow 64 (s.pgMask c)

/-- Whether group c is armed. -/
def Dev.pgArmed (s : Dev) (c : Nat) : Bool := decide (s.fg F.SET_PG_CTL_ARM c = 1)

/-- Some group is armed. -/
def Dev.pourArmed (s : Dev) : Bool := (List.range 16).any s.pgArmed

/-- The group an engine belongs to. -/
def Dev.engGroup (s : Dev) (e : Nat) : Option Nat := (List.range 16).find? (fun c => (s.pgMask c).testBit e)

/-- Whether an engine belongs to an armed group. -/
def Dev.engArmed (s : Dev) (e : Nat) : Bool := (List.range 16).any (fun c => s.pgArmed c && (s.pgMask c).testBit e)

/-- The tick of group c. -/
def Dev.pgTick (s : Dev) (c : Nat) : Nat := s.rd64 .SET_PG_TICK_LO .SET_PG_TICK_HI c

/-- The group ends LATE or INVAL: SET_EVT.FAIL. -/
def Dev.pgFail (s : Dev) (c : Nat) : Dev := s.setEvtBit 128 F.SET_EVT_FAIL 0 c

/-- ARM set: late at once if the timebase has reached t(N) (R249). -/
def Dev.pgArm (s : Dev) (c : Nat) : Dev :=
  if tickAt s.F (s.pgTick c) ≤ s.time.now then ((s.fs F.SET_PG_CTL_ARM c 0).fs F.SET_PG_CTL_LATE c 1).pgFail c
  else s.fs F.SET_PG_CTL_ARM c 1

/-- A write of SET_PGc_CTL. -/
def Dev.pgCtlWrite (s : Dev) (c : Nat) (v : Word) : Dev :=
  let s := s.cond (v.getLsbD 1) (fun s => s.fs F.SET_PG_CTL_LATE c 0)
  let s := s.cond (v.getLsbD 2) (fun s => s.fs F.SET_PG_CTL_INVAL c 0)
  let s := s.cond (v.getLsbD 3) (fun s => s.fs F.SET_PG_CTL_DONE c 0)
  if v.getLsbD 0 then s.pgArm c else s.fs F.SET_PG_CTL_ARM c 0

/-- Offset of SET_PGc_CTL. -/
def pgCtlOff (c : Nat) : Nat := 0x110 + 0x20 * c

/-- SET_PG_ARM: a write of SET_PGc_CTL with ARM (R249). -/
def execSetPgArm (rq : Req) (g : Nat) (v : Word) (s : State) : Host.Outcome State Fault Refusal :=
  run (wellFormed (.setPgArm rq g v)) (fun s => s.gate rq 12 (pgCtlOff g) 17 rq.svp (fun s => (s.pgCtlWrite g (v ||| 1)).ok 0)) s

/-! ## The pour (R250) -/

/-- Engine e swaps its banks at tick n. -/
def Dev.swapBank (s : Dev) (n e : Nat) : Dev :=
  let s := s.fs F.SET_ESTAT_ACTIVE e (1 - s.fg F.SET_ESTAT_ACTIVE e)
  let s := (s.fs F.SET_ESTAT_SHVALID e 0).wr .SET_AID e (s.rd .SET_SID e)
  s.onEng e (fun x => { x with lastPour := some n })

/-- The journal record of a pour: group, result, engine mask; it concerns a Sealed resource if one engine is Sealed (R266). -/
def Dev.pourRecord (s : Dev) (c result : Nat) : Dev :=
  let w := b2n ((s.pgEngines c).any (fun e => decide (s.engWorld e = 1)))
  s.record 0x0030 c w (leBytes 4 c ++ leBytes 4 result ++ leBytes 8 (s.pgMask c))

/-- Group c at the clock of its tick N. -/
def Dev.pourGroup (s : Dev) (n c : Nat) : Dev :=
  let s := s.fs F.SET_PG_CTL_ARM c 0
  match (s.pgEngines c).find? (fun e => decide (s.fg F.SET_ESTAT_SHVALID e = 0)) with
  | some e => (((s.fs F.SET_PG_CTL_INVAL c 1).fs F.SET_PG_CTL_BADENG c e).pgFail c).pourRecord c 1
  | none =>
    let s := s.each (s.pgEngines c) (fun s e => s.swapBank n e)
    let s := (s.fs F.SET_PG_CTL_DONE c 1).wr64 .SET_PG_SWAP_LO .SET_PG_SWAP_HI c n
    (s.setEvtBit 128 F.SET_EVT_DONE 0 c).pourRecord c 0

/-- Every group armed for tick n. -/
def Dev.pourTick (s : Dev) (n : Nat) : Dev :=
  s.each ((List.range 16).filter (fun c => s.pgArmed c && decide (s.pgTick c = n))) (fun s c => s.pourGroup n c)

/-! ## The settings-bank view (R243, R244, R247) -/

/-- Bytes of a bank in the view. -/
def bankBytes : Nat := 0x4000

/-- Words of a value from address a on written to bank b. -/
def Engine.setBankBytes (x : Engine) (b off size v : Nat) : Engine :=
  (List.range (size / 2)).foldl (fun x i => x.setBank b (off / 2 + i) (BitVec.ofNat 16 (v / 2 ^ (16 * i)))) x

/-- A write of the shadow bank view at byte offset off: the SVP's, while no context reads the bank. -/
def Dev.shadowWrite (s : Dev) (rq : Req) (e off size v : Nat) : Dev :=
  let addr := engAddr e (0x80000 + off)
  let d := 9 + e / 8
  if !s.domOn d then s.errResp 18 rq 0x11 addr d
  else if bankBytes ≤ off then s.errResp 18 rq 0x03 addr 0
  else if !wordWidth off size then s.errResp 12 rq 0x02 addr size
  else if !rq.svp || s.oldUse e then s.errResp 12 rq 0x01 addr (0x80000 + off)
  else
    let b := 1 - s.fg F.SET_ESTAT_ACTIVE e
    ((s.fs F.SET_ESTAT_SHVALID e 0).onEng e (fun x => x.setBankBytes b off size v)).ok 0

/-- A write of the active bank view: refused to everyone (R243). -/
def Dev.activeWrite (s : Dev) (rq : Req) (e off : Nat) : Dev :=
  let d := 9 + e / 8
  if !s.domOn d then s.errResp 18 rq 0x11 (engAddr e (0x84000 + off)) d
  else s.errResp 12 rq 0x01 (engAddr e (0x84000 + off)) (0x84000 + off)

/-- SHADOW_BANK_WRITE: a byte offset in the shadow view (R243, R244). -/
def execShadowBankWrite (rq : Req) (e off size : Nat) (data : DWord) (s : State) : Host.Outcome State Fault Refusal :=
  run (wellFormed (.shadowBankWrite rq e off size data)) (fun s => s.byFence rq (fun s => s.shadowWrite rq e off size data.toNat)) s

/-- A write of SET_VALID0 or SET_VALID1: SHVALID of each engine named. -/
def Dev.setValidWrite (s : Dev) (half : Nat) (v : Word) : Dev :=
  s.each (onesBelow 32 v.toNat) (fun s b => s.fs F.SET_ESTAT_SHVALID (32 * half + b) 1)

/-- SET_VALID (R244). -/
def execSetValid (rq : Req) (half : Nat) (v : Word) (s : State) : Host.Outcome State Fault Refusal :=
  run (wellFormed (.setValid rq half v)) (fun s =>
    s.gate rq 12 (8 + 4 * half) 17 rq.svp (fun s => (s.setValidWrite half v).ok 0)) s

/-- What SET_VALID0 or SET_VALID1 reads. -/
def Dev.setValidRead (s : Dev) (half : Nat) : Nat :=
  (List.range 32).foldl (fun a b => a + s.fg F.SET_ESTAT_SHVALID (32 * half + b) * 2 ^ b) 0

/-- SET_ESTATe as it reads now. -/
def Dev.setEstat (s : Dev) (e : Nat) : Nat :=
  s.fg F.SET_ESTAT_ACTIVE e + 2 * s.fg F.SET_ESTAT_SHVALID e + 4 * b2n (s.oldUse e) +
    (match s.engGroup e with
     | some c => 8 + 16 * c
     | none => 0)

end Sys2Proof.Machine
end

