-- ==== Sys2Proof/Machine/TripGate.lean ====
section
/-!
DEFINITION. Sys2Proof/Machine/TripGate.lean: votes, trip map, bay-link outputs and GOOSE publication (10 R252 to R264,
15 R410, R411).
-/

namespace Sys2Proof.Machine

/-! ## Mode in effect (R40, R256) -/

/-- The mode that the trip gate, the publisher and ingest act under: the one in force at the instant of the tick in progress
(R37), in HOLDUP the previous one. -/
def Dev.effMode (s : Dev) : Nat := s.time.tickMode

/-- Whether bay-link outputs carry the voted bits: in SERVICE and TEST (R256). -/
def Dev.outputsLive (s : Dev) : Bool := decide (s.effMode = 3) || decide (s.effMode = 4)

/-- Whether the test flag is set: in COMMISSION and TEST. -/
def Dev.testFlag (s : Dev) : Bool := decide (s.effMode = 2) || decide (s.effMode = 4)

/-! ## Votes (R253, R254) -/

/-- Engine e casts a present vote: it runs, has written its trip word, and did not overrun under ABORT. -/
def Dev.votePresent (s : Dev) (e : Nat) : Bool :=
  s.running e && (s.eng e).tripWritten && !(s.eng e).abortTick

/-- A vote: its word, 0 when absent. -/
def Dev.voteWord (s : Dev) (e : Nat) : Word := if s.votePresent e then (s.eng e).tripWord else 0

/-- What a decision gives: voted word, and the alarm bits ABSE, ABSO, MISM. -/
structure Vote where
  word   : Word
  alarms : Nat
  deriving DecidableEq, Repr

/-- Table 10.3, for a voter (0 even, 1 odd, 2 both), a policy, and the two votes with their presence. -/
def vote (voter policy : Nat) (pe po : Bool) (e o : Word) : Vote :=
  let abs := b2n (!pe) + 2 * b2n (!po)
  let mism := 4 * b2n (pe && po && decide (e ≠ o))
  if voter = 0 then ⟨if pe then e else 0, b2n (!pe)⟩
  else if voter = 1 then ⟨if po then o else 0, 2 * b2n (!po)⟩
  else match policy with
    | 0 => ⟨if pe then e else 0, b2n (!pe)⟩
    | 1 => ⟨(if pe then e else 0) ||| (if po then o else 0), abs + mism⟩
    | 2 => ⟨if pe && po then e &&& o else 0, abs + mism⟩
    | _ => ⟨Config.reservedPolicy (if pe then e else 0) (if po then o else 0), abs + mism⟩

/-- A voter change whose tick has come takes effect (R254). -/
def Dev.soloApply (s : Dev) (k : Nat) : Dev :=
  if s.fg F.TRG_PSOLO_PEND k = 1 ∧ s.rd64 .TRG_STICK_LO .TRG_STICK_HI k ≤ s.tickNo then
    (s.fs F.TRG_PCFG_VOTER k (s.fg F.TRG_PSOLO_NVOTER k)).fs F.TRG_PSOLO_PEND k 0
  else s

/-- The world of pair k: its engines' hive's. -/
def Dev.pairWorld (s : Dev) (k : Nat) : Nat := s.engWorld (2 * k)

/-- The publish point of pair k in the tick in progress. -/
def Dev.pairPoint (s : Dev) (k : Nat) : Nat := s.tickTime + s.fg F.TRG_PP_P k

/-- The decision's words, alarms and counts in the registers (R255). -/
def Dev.voteRegs (s : Dev) (k : Nat) (v : Vote) : Dev :=
  let s := ((s.wr .TRG_VOTED k v.word).wr .TRG_EVEN k (s.voteWord (2 * k))).wr .TRG_ODD k (s.voteWord (2 * k + 1))
  let s := s.fs F.TRG_PSTAT_TRIP k (b2n (decide (v.word ≠ 0)))
  let s := s.cond (v.alarms.testBit 0) (fun s => s.pairAlarm k 0 0)
  let s := s.cond (v.alarms.testBit 1) (fun s => s.pairAlarm k 1 0)
  let s := s.cond (v.alarms.testBit 2) (fun s => s.pairAlarm k 2 1)
  s.cond (decide (v.alarms ≠ 0)) (fun s => s.inc F.TRG_ALMCNT_COUNT k)

/-- The TRIP_DECISION record of a changed word or an alarm, and the count of decisions without one (R257). -/
def Dev.decisionRecord (s : Dev) (k : Nat) (v : Vote) : Dev :=
  let rep := SMap.get (fun _ => 0) s.trg.rep k
  if v.word ≠ SMap.get (fun _ => 0) s.trg.prev k ∨ v.alarms ≠ 0 then
    let voter := s.fg F.TRG_PCFG_VOTER k
    let pol := if voter < 2 then 0 else s.fg F.TRG_PCFG_POLICY k
    let s := s.recordAt 0x0031 k (s.pairWorld k) (s.pairPoint k)
      (leBytes 1 k ++ leBytes 1 pol ++ leBytes 1 (b2n (s.votePresent (2 * k)) + 2 * b2n (s.votePresent (2 * k + 1))) ++
        leBytes 1 v.alarms ++ leBytes 4 v.word.toNat ++ leBytes 4 (s.voteWord (2 * k)).toNat ++
        leBytes 4 (s.voteWord (2 * k + 1)).toNat ++ leBytes 4 rep)
    { s with trg := { s.trg with prev := SMap.set (fun _ => 0) s.trg.prev k v.word, rep := SMap.set (fun _ => 0) s.trg.rep k 0 } }
  else { s with trg := { s.trg with rep := SMap.set (fun _ => 0) s.trg.rep k (rep + 1) } }

/-- Pair k is enabled by f: its previous word is 0 again (R257). -/
def Dev.pairRises (s : Dev) (k : Nat) (f : Dev → Dev) : Dev :=
  let old := s.fg F.TRG_PCFG_EN k
  let s := f s
  if old = 0 ∧ s.fg F.TRG_PCFG_EN k = 1 then { s with trg := { s.trg with prev := SMap.set (fun _ => 0) s.trg.prev k 0 } } else s

/-- Pair k decides. -/
def Dev.decide1 (s : Dev) (k : Nat) : Dev :=
  let v := vote (s.fg F.TRG_PCFG_VOTER k) (s.fg F.TRG_PCFG_POLICY k) (s.votePresent (2 * k)) (s.votePresent (2 * k + 1))
    (s.voteWord (2 * k)) (s.voteWord (2 * k + 1))
  let s := (s.voteRegs k v).decisionRecord k v
  { s with trg := { s.trg with alarms := SMap.set (fun _ => 0) s.trg.alarms k v.alarms } }

/-- ENGINE_EVENT records of an engine's queue, seven words each, filler left out (R258). -/
def Dev.eventRecords (s : Dev) (e : Nat) (l : List Word) : Nat → Dev
  | 0 => s
  | n + 1 =>
    if l.isEmpty then s
    else
      let x := l.take 7
      (s.recordAt 0x0032 e (s.engWorld e) (s.pairPoint (e / 2))
        (leBytes 1 e ++ leBytes 1 x.length ++ leBytes 2 0 ++ x.flatMap (fun w => leBytes 4 w.toNat))).eventRecords e (l.drop 7) n

/-- The event queue of engine e taken and journaled; its publish point has passed, and the queue stays until the tick instant
(Table 9.1). -/
def Dev.takeEvents (s : Dev) (e : Nat) : Dev :=
  let l := (s.eng e).evq.filter (fun w => decide (w.toNat / 2 ^ 24 ≠ 0))
  (s.eventRecords e l 3).onEng e (fun x => { x with pubPassed := true })

/-! ## Trip map (R259) -/

/-- Fields of a trip map entry (Table 10.5). -/
def tmPair (w : Word) : Nat := bits w.toNat 4 0
def tmBit (w : Word) : Nat := bits w.toNat 9 5
def tmKind (w : Word) : Nat := bits w.toNat 10 10
def tmBlock (w : Word) : Nat := bits w.toNat 17 11
def tmLink (w : Word) : Nat := bits w.toNat 12 11
def tmOut (w : Word) : Nat := bits w.toNat 17 13
def tmMember (w : Word) : Nat := bits w.toNat 22 18

/-- A map whose instant has come takes effect. -/
def Dev.mapApply (s : Dev) : Dev :=
  match s.trg.mapNext with
  | some (x, l) => if x ≤ s.time.now then { s with trg := { s.trg with map := l, mapNext := none } } else s
  | none => s

/-- The voted bit that an entry maps: 0 from a pair that is off (R256). -/
def Dev.mapBit (s : Dev) (w : Word) : Bool :=
  decide (s.fg F.TRG_PCFG_EN (tmPair w) = 1) && (s.rd .TRG_VOTED (tmPair w)).getLsbD (tmBit w)

/-- OR of the voted bits mapped to member m of block b. -/
def Dev.memberBit (s : Dev) (b m : Nat) : Bool :=
  s.trg.map.any (fun w => decide (tmKind w = 0) && decide (tmBlock w = b) && decide (tmMember w = m) && s.mapBit w)

/-- OR of the voted bits mapped to the outputs of link l. -/
def Dev.linkBits (s : Dev) (l : Nat) : Word :=
  s.trg.map.foldl (fun a w =>
    if tmKind w = 1 ∧ tmLink w = l ∧ s.mapBit w then a ||| BitVec.ofNat 32 (2 ^ tmOut w) else a) 0

/-- Pairs mapped to block b. -/
def Dev.blockPairs (s : Dev) (b : Nat) : List Nat :=
  (s.trg.map.filter (fun w => decide (tmKind w = 0) && decide (tmBlock w = b))).map tmPair

/-! ## Bay-link outputs (R260, R410, R411) -/

/-- Bay link l. -/
def Dev.lnk (s : Dev) (l : Nat) : BlkLink := SMap.get (fun _ => {}) s.blk l
/-- Bay link l changed. -/
def Dev.onLnk (s : Dev) (l : Nat) (f : BlkLink → BlkLink) : Dev := { s with blk := SMap.mod (fun _ => {}) s.blk l f }

/-- Whether link l sends: PD06 on and EN = 1 (R416). -/
def Dev.lnkOn (s : Dev) (l : Nat) : Bool := s.domOn 6 && decide (s.fg F.BLK_LCFG_EN l = 1)

/-- The latest start of the COMMAND frame queued at place i: 1,000 ns after its publish point and 152 ns for each ahead. -/
def commandStart (c : Nat × Nat × Nat) (i : Nat) : Nat := c.2.2 + 1000 + 152 * i

/-- FLAGS octet of the frames sent now (Table 15.4). -/
def Dev.lnkFlags (s : Dev) : Nat :=
  b2n (decide (s.effMode = 4)) + 2 * b2n (!s.outputsLive) + 4 * b2n (!s.locked) + 8 * s.fg F.TKG_RATE_CODE 0

/-- The COMMAND frame of a queue entry, sent now. -/
def Dev.commandText (s : Dev) (l : Nat) (c : Nat × Nat × Nat) : List Byte :=
  linkFrame 2 s.lnkFlags (s.lnk l).eack s.tickNo c.1 c.2.1 (stamp c.2.2)

/-- COMMAND frames whose start has come leave the queue. -/
def Dev.commandDrain (s : Dev) (l : Nat) : Dev :=
  match (s.lnk l).cmdq with
  | [] => s
  | q =>
    let n := ((List.range q.length).takeWhile (fun i =>
      match q[i]? with
      | some c => decide (commandStart c i ≤ s.time.now)
      | none => false)).length
    match q[n - 1]? with
    | some c =>
      if n = 0 then s
      else
        let fl := s.lnkFlags
        let b := s.commandText l c
        (s.wr .BLK_OUT l (BitVec.ofNat 32 c.1)).onLnk l (fun x => { x with cmdq := x.cmdq.drop n, flags := fl, sent := b })
    | none => s

/-- The outputs of link l after the publish point at x: a changed word queues a COMMAND frame. -/
def Dev.linkOutput (s : Dev) (x l : Nat) : Dev :=
  let new := if s.outputsLive then s.linkBits l else 0
  let old := (s.lnk l).out
  if new = old then s
  else
    let s := s.commandDrain l
    let send := s.lnkOn l
    s.onLnk l (fun b => { b with out := new, cmdq := if send then b.cmdq ++ [(new.toNat, (new ^^^ old).toNat, x)] else b.cmdq })

/-! ## The publisher (R261 to R264) -/

/-- Control block b. -/
def Dev.pblk (s : Dev) (b : Nat) : PubBlk := SMap.get (fun _ => {}) s.pub b
/-- Control block b changed. -/
def Dev.onPub (s : Dev) (b : Nat) (f : PubBlk → PubBlk) : Dev := { s with pub := SMap.mod (fun _ => {}) s.pub b f }
/-- Port p. -/
def Dev.port (s : Dev) (p : Nat) : EthPort := SMap.get (fun _ => {}) s.eth p
/-- Port p changed. -/
def Dev.onPort (s : Dev) (p : Nat) (f : EthPort → EthPort) : Dev := { s with eth := SMap.mod (fun _ => {}) s.eth p f }

/-- Redundancy of a pair of ports, 0 process bus and 1 station bus: 0 independent, 1 PRP, 2 HSR (R406). -/
def Dev.redOf (s : Dev) (pair : Nat) : Nat :=
  let r := s.fg F.ETH_CFG_RED (2 * pair)
  if r = 1 then 1 else if r = 2 ∧ pair = 0 then 2 else 0

/-- The ports that send a block's frames (R261). -/
def Dev.sendPorts (s : Dev) (ports : Nat) : List Nat :=
  (List.range 4).filter (fun p =>
    ports.testBit p || (decide (s.redOf (p / 2) ≠ 0) && ports.testBit (2 * (p / 2) + (1 - p % 2))))

/-- Kind of member m of block b. -/
def Dev.memberKind (s : Dev) (b m : Nat) : Nat :=
  bits (s.rd (if m < 16 then .PUB_MKIND0 else .PUB_MKIND1) b).toNat (2 * (m % 16) + 1) (2 * (m % 16))

/-- Some subscription of world w takes simulated frames (R136, R262). -/
def Dev.simTaken (s : Dev) (w : Nat) : Bool :=
  (List.range s.nStream).any (fun i => decide (s.sdWorld i = w) && decide (s.fg F.ALN_SSTAT_SIMTAKEN i = 1)) ||
    (List.range s.nGoose).any (fun i => decide (s.gdWorld i = w) && decide (s.fg F.ALN_GSTAT_SIMTAKEN i = 1))

/-- The time-quality octet (Table 10.7): LeapSecondsKnown, ClockFailure, ClockNotSynchronized, accuracy. -/
def Dev.timeQuality (s : Dev) : Nat :=
  let st := s.fg F.TMB_STAT_STATE 0
  128 * s.fg F.TMB_STAT_SECVALID 0 + (if st = 0 then 32 else 0) + (if st = 2 then 24 else if st = 0 then 31 else 19)

/-- A timebase value as UTC (R110). -/
def Dev.toUtc (s : Dev) (x : Nat) : Nat :=
  ((x : Int) - sext 16 (s.fg F.TMB_UTCOFS_OFS 0) * (nsPerSec : Int)).toNat

/-- A UTC time in ns as the eight octets of a UtcTime: seconds, fraction of a second, time quality (log 49). -/
def Dev.utcTime (s : Dev) (t : Nat) : Nat := t / nsPerSec * 2 ^ 32 + t % nsPerSec * 2 ^ 24 / nsPerSec * 2 ^ 8 + s.timeQuality

/-- The value of member m of block b whose state changed last at x (Table 10.6): the quality's bits stand as in Table 6.4. -/
def Dev.memberValue (s : Dev) (x b m : Nat) : DWord :=
  match s.memberKind b m with
  | 0 => BitVec.ofNat 64 (b2n (s.memberBit b m))
  | 1 =>
    let bad := (s.blockPairs b).any (fun k => decide (SMap.get (fun _ => 0) s.trg.alarms k % 8 ≠ 0))
    BitVec.ofNat 64 ((if bad then 3 else 0) + (if s.testFlag then 2 ^ 11 else 0))
  | 2 => BitVec.ofNat 64 (s.utcTime (s.toUtc x))
  | _ => 0

/-- The members of block b, its state changed last at x. -/
def Dev.memberValues (s : Dev) (x b : Nat) : List DWord := (List.range (s.fg F.PUB_CFG_NMEM b)).map (s.memberValue x b)

/-- The members as a block keeps them. -/
def memberMap (l : List DWord) : SMap DWord :=
  (List.range l.length).foldl (fun m i => SMap.set (fun _ => 0) m i ((l[i]?).getD 0)) []

/-- Intervals of block b in ns. -/
def Dev.tmin (s : Dev) (b : Nat) : Nat := s.fg F.PUB_TMIN_US b * 1000
def Dev.tmax (s : Dev) (b : Nat) : Nat := s.fg F.PUB_TMAX_MS b * 1000000

/-- timeAllowedtoLive: TALMUL x the interval, in ms rounded up. -/
def Dev.talOf (s : Dev) (b iv : Nat) : Nat := (s.fg F.PUB_CFG_TALMUL b * iv + 999999) / 1000000

/-- Rank of a queued publisher frame: a trip-carrying one above every retransmission, then PRIO (R264). -/
def TxFrame.pubRank (f : TxFrame) : Nat := (if f.kind = 0 then 8 else 0) + f.prio

/-- A dropped publisher frame of port p. -/
def Dev.pubDrop (s : Dev) (p : Nat) : Dev := (s.inc F.PUB_DROP_COUNT p).setEvtBit 130 F.PUB_EVT_DROP 0 p

/-- Position of the frame that a full queue gives up first: lowest rank, the oldest among equals. -/
def weakest (q : List TxFrame) : Option Nat :=
  (List.range q.length).find? (fun i =>
    match q[i]? with
    | some f => q.all (fun g => decide (f.pubRank ≤ g.pubRank))
    | none => false)

/-- A frame enters the publisher queue of port p, or is dropped, or displaces another (R264, R399). -/
def Dev.pubQueue (s : Dev) (f : TxFrame) (p : Nat) : Dev :=
  if s.fg F.ETH_CFG_EN p = 0 then s.pubDrop p
  else
    let q := (s.port p).pubq
    if q.length < 32 then s.onPort p (fun x => { x with pubq := q ++ [f] })
    else match weakest q with
      | some i =>
        if ((q[i]?).map TxFrame.pubRank).getD 0 < f.pubRank then
          (s.onPort p (fun x => { x with pubq := dropAt q i ++ [f] })).pubDrop p
        else s.pubDrop p
      | none => s.pubDrop p

/-- The pair's next sequence number, taken. -/
def Dev.redSeq (s : Dev) (pair : Nat) : Dev × Nat :=
  let d := SMap.get (fun _ => ({} : DupPair)) s.dup pair
  ({ s with dup := SMap.set (fun _ => {}) s.dup pair { d with seq := (d.seq + 1) % 65536 } }, d.seq)

/-- A frame sent on the named ports: on a redundant pair both copies carry one sequence number (R407, R408). -/
def Dev.sendPub (s : Dev) (f : TxFrame) (ports : Nat) : Dev :=
  let l := s.sendPorts ports
  let one := fun (s : Dev) (pair : Nat) =>
    let mine := l.filter (fun p => decide (p / 2 = pair))
    if mine.isEmpty then s
    else if s.redOf pair = 0 then s.each mine (fun s p => s.pubQueue f p)
    else
      let (s, n) := s.redSeq pair
      s.each mine (fun s p => s.pubQueue { f with prpSeq := some n } p)
  one (one s 0) 1

/-- The frame of block b as its state stands: kind 0 on a change, 3 otherwise; the template's octets but for the fields that
R261 names. -/
def Dev.pubFrame (s : Dev) (b kind : Nat) : TxFrame :=
  let x := s.pblk b
  let members := (List.range (s.fg F.PUB_CFG_NMEM b)).map (fun m => SMap.get (fun _ => 0) x.members m)
  let sim := decide (s.fg F.PUB_CFG_SIM b = 1)
  let tal := s.talOf b x.interval
  let t := s.toUtc x.chgAt
  let stNum := (s.rd .PUB_STNUM b).toNat
  let sqNum := (s.rd .PUB_SQNUM b).toNat
  { kind := kind, block := b, prio := s.fg F.PUB_CFG_PRIO b, stNum := stNum, sqNum := sqNum, tal := tal, test := s.testFlag
    sim := sim, t := t, tq := s.timeQuality, members := members
    octets := gooseRewrite x.template sim [(0x81, tal), (0x84, s.utcTime t), (0x85, stNum), (0x86, sqNum), (0x87, b2n sim)]
      ((List.range members.length).map (fun m => (s.memberKind b m, ((members[m]?).getD 0).toNat)))
    born := s.time.now
    dst := BitVec.ofNat 48 (beNat (x.template.take 6)), src := BitVec.ofNat 48 (beNat ((x.template.drop 6).take 6))
    len := x.template.length + 4 }

/-- The simulation flag of block b brought up to date, and the frame sent. -/
def Dev.pubSend (s : Dev) (b kind : Nat) : Dev :=
  let sim := decide (s.effMode = 4) && s.simTaken (s.fg F.PUB_CFG_WORLD b)
  let s := s.fs F.PUB_CFG_SIM b (b2n sim)
  s.sendPub (s.pubFrame b kind) (s.fg F.PUB_CFG_PORTS b)

/-- The bits of the BOOLEAN members as sent (PUB_CBb.VAL). -/
def Dev.valBits (s : Dev) (b : Nat) (l : List DWord) : Nat :=
  (List.range l.length).foldl (fun a m =>
    if s.memberKind b m = 0 ∧ (l[m]?).getD 0 ≠ 0 then a + 2 ^ m else a) 0

/-- The next state or sequence number: 2^32 - 1 is followed by 1. -/
def nextNum (n : Nat) : Nat := if n + 1 = 2 ^ 32 then 1 else n + 1

/-- Block b takes new member values, at publish point x: a new state, sent at once (R262). -/
def Dev.pubChange (s : Dev) (x b : Nat) : Dev :=
  let l := s.memberValues x b
  let s := (s.wr .PUB_STNUM b (BitVec.ofNat 32 (nextNum (s.rd .PUB_STNUM b).toNat))).wr .PUB_SQNUM b 0
  let s := (s.wr64 .PUB_LASTCHG_LO .PUB_LASTCHG_HI b (stamp x)).wr .PUB_VAL b (BitVec.ofNat 32 (s.valBits b l))
  let iv := s.tmin b
  (s.onPub b (fun p => { p with members := memberMap l, interval := iv, next := some (x + iv), chgAt := x })).pubSend b 0

/-- Some member of block b other than a time has another value than the one sent last. -/
def Dev.membersChanged (s : Dev) (b : Nat) : Bool :=
  (List.range (s.fg F.PUB_CFG_NMEM b)).any (fun m =>
    decide (s.memberKind b m ≠ 2) && decide (s.memberValue 0 b m ≠ SMap.get (fun _ => 0) (s.pblk b).members m))

/-- Block b recomputed at publish point x. -/
def Dev.pubRecompute (s : Dev) (x b : Nat) : Dev :=
  if s.fg F.PUB_CFG_EN b = 0 then s else if s.membersChanged b then s.pubChange x b else s

/-- PUBLISH ENABLE of block b: stNum 1, sqNum 0, and the first frame of its schedule (R262). -/
def Dev.pubEnable (s : Dev) (b : Nat) : Dev :=
  let s := ((s.fs F.PUB_CFG_EN b 1).wr .PUB_STNUM b 1).wr .PUB_SQNUM b 0
  let iv := s.tmin b
  let x := s.time.now
  let l := s.memberValues x b
  let s := (s.wr64 .PUB_LASTCHG_LO .PUB_LASTCHG_HI b (stamp x)).wr .PUB_VAL b (BitVec.ofNat 32 (s.valBits b l))
  (s.onPub b (fun p => { p with members := memberMap l, interval := iv, next := some (x + iv), chgAt := x })).pubSend b 3

/-- PUBLISH ENABLE with 0: the block sends no more. -/
def Dev.pubDisable (s : Dev) (b : Nat) : Dev :=
  (s.fs F.PUB_CFG_EN b 0).onPub b (fun p => { p with next := none, interval := 0 })

/-- A write of PUB_CBb.CFG by f: EN that rises starts the block, EN that falls ends its frames (R262, Table 10.13). -/
def Dev.pubCfgWrite (s : Dev) (b : Nat) (f : Dev → Dev) : Dev :=
  let old := s.fg F.PUB_CFG_EN b
  let s := f s
  let new := s.fg F.PUB_CFG_EN b
  if old = new then s else if new = 1 then s.pubEnable b else s.pubDisable b

/-- A retransmission of block b: sqNum advances, and the interval doubles up to TMAX (R262). -/
def Dev.pubRetransmit (s : Dev) (b : Nat) : Dev :=
  match (s.pblk b).next with
  | none => s
  | some x =>
    if s.fg F.PUB_CFG_EN b = 0 ∨ !s.domOn 17 then s
    else
      let s := s.moveTo x
      let iv := min (2 * (s.pblk b).interval) (max (s.tmax b) (s.tmin b))
      let s := s.wr .PUB_SQNUM b (BitVec.ofNat 32 (nextNum (s.rd .PUB_SQNUM b).toNat))
      (s.onPub b (fun p => { p with interval := iv, next := some (x + iv) })).pubSend b 3

/-- GOOSE_RETRANSMISSION (R262). -/
def execGooseRetransmission (b : Nat) (s : State) : Host.Outcome State Fault Refusal :=
  run (wellFormed (.gooseRetransmission b)) (fun s => s.pubRetransmit b) s

/-! ## The publish point (R252) -/

/-- Whether the publish point of pair k in this tick is still to come, and the shutdown lets it act (R47, R256). -/
def Dev.pointDue (s : Dev) (k : Nat) : Bool :=
  s.time.tickRaised && !(s.eng (2 * k)).pubPassed && s.domOn 17 &&
    (decide (s.fg F.PWR_STAT_HUSTEP 0 ≠ 6) || decide (s.pwr.shutTick = some s.tickNo))

/-- The pairs whose publish points fall in one clock with pair k's. -/
def Dev.pointPairs (s : Dev) (k : Nat) : List Nat :=
  (List.range 32).filter (fun j => s.pointDue j && decide (s.fg F.TRG_PP_P j = s.fg F.TRG_PP_P k))

/-- The publish point of pair k and of every pair that shares its clock: votes, events, blocks and links. -/
def Dev.publishPoint (s : Dev) (k : Nat) : Dev :=
  if !s.pointDue k then s
  else
    let x := s.pairPoint k
    let s := s.moveTo x
    let fresh := match s.trg.mapNext with
      | some (y, _) => decide (y ≤ s.time.now)
      | none => false
    let s := s.mapApply
    let l := s.pointPairs k
    let s := s.each l Dev.soloApply
    let s := s.each (l.filter (fun j => decide (s.fg F.TRG_PCFG_EN j = 1))) Dev.decide1
    let s := s.each l (fun s j => (s.takeEvents (2 * j)).takeEvents (2 * j + 1))
    let touched := fun (w : Word) => l.contains (tmPair w)
    let blocks := (List.range 128).filter (fun b =>
      fresh || s.trg.map.any (fun w => touched w && decide (tmKind w = 0) && decide (tmBlock w = b)))
    let s := s.each blocks (fun s b => s.pubRecompute x b)
    s.each ((List.range 4).filter (fun i => fresh || s.trg.map.any (fun w => touched w && decide (tmKind w = 1) && decide (tmLink w = i))))
      (fun s i => s.linkOutput x i)

/-- PUBLISH_POINT (R252). -/
def execPublishPoint (k : Nat) (s : State) : Host.Outcome State Fault Refusal :=
  run (wellFormed (.publishPoint k)) (fun s => s.publishPoint k) s

end Sys2Proof.Machine
end

