-- ==== Sys2Proof/Machine/PortBase.lean ====
section
/-!
DEFINITION. Sys2Proof/Machine/PortBase.lean: a port's checks of a received frame and the duplicate table (06 R135, 01 R15,
15 R399, R400, R407, R408).
-/

namespace Sys2Proof.Machine

/-- Domain of port p: PB-A, PB-B, SB-A, SB-B (Table 15.1). -/
def portDom (p : Nat) : Nat := if p < 2 then 3 + p else 5

/-- Whether port p receives: its domain on and EN = 1 (R399). -/
def Dev.portOn (s : Dev) (p : Nat) : Bool := s.domOn (portDom p) && decide (s.fg F.ETH_CFG_EN p = 1)

/-- MAC address of port p: on a redundant pair that of the A port (R406). -/
def Dev.portMac (s : Dev) (p : Nat) : Nat :=
  let a := if s.redOf (p / 2) = 0 then p else 2 * (p / 2)
  (s.rd .ETH_MAC_LO a).toNat + s.fg F.ETH_MAC_HI_MAC a * 2 ^ 32

/-- The arrival stamp of a frame whose last octet is at the reference plane of port p now: the stamp is taken behind the port's
latency, which ETH_TSCORR removes (R139, R403). -/
def Dev.rxStamp (s : Dev) (p : Nat) : Nat := s.time.now + (s.port p).latRx - s.fg F.ETH_TSCORR_RX p

/-- The stamp of a frame whose start-of-frame delimiter was at the reference plane of port p at x: it is taken before the port's
latency, which ETH_TSCORR adds (R403). -/
def Dev.txStamp (s : Dev) (p x : Nat) : Nat := x + s.fg F.ETH_TSCORR_TX p - (s.port p).latTx

/-- World of port p's host path: on a redundant pair that of the A port (R406). -/
def Dev.portWorld (s : Dev) (p : Nat) : Nat := s.fg F.ETH_CFG_WORLD (if s.redOf (p / 2) = 0 then p else 2 * (p / 2))

/-- The duplicate table of a pair. -/
def Dev.dupOf (s : Dev) (pair : Nat) : DupPair := SMap.get (fun _ => {}) s.dup pair
/-- The duplicate table changed. -/
def Dev.onDup (s : Dev) (pair : Nat) (f : DupPair → DupPair) : Dev := { s with dup := SMap.mod (fun _ => {}) s.dup pair f }

/-- How long an entry is kept, in clocks (R407). -/
def dupKeep : Nat := 400000000

/-- The entries of a pair that are forgotten by now taken out. -/
def Dev.dupPurge (s : Dev) (pair : Nat) : Dev :=
  let k := s.clk
  s.onDup pair (fun d =>
    let e := d.entries.filter (fun x => decide (k < x.2.2 + dupKeep))
    { d with entries := e, fwd := d.fwd.filter (fun x => e.any (fun y => decide (y.1 = x.1) && decide (y.2.1 = x.2))) })

/-- Whether a copy of the frame is known already. -/
def Dev.dupKnown (s : Dev) (pair src seq : Nat) : Bool :=
  (s.dupOf pair).entries.any (fun x => decide (x.1 = src) && decide (x.2.1 = seq))

/-- A first copy takes an entry, the earliest one's when all 1,024 are in use. -/
def Dev.dupEnter (s : Dev) (pair src seq : Nat) : Dev :=
  let k := s.clk
  let full := decide (1024 ≤ (s.dupOf pair).entries.length)
  let s := s.cond full (fun s => s.inc F.ETH_DUPEVICT_COUNT (2 * pair))
  s.onDup pair (fun d => { d with entries := (if full then d.entries.drop 1 else d.entries) ++ [(src, seq, k)] })

/-- What the port's checks say of a frame: dropped, a duplicate that only HSR may still forward, or a first copy. -/
inductive RxCheck
  | drop
  | dup
  | take
  deriving DecidableEq, Repr

/-- Steps 1 and 2 of Table 6.3 at port p; `ptp` names a PTP frame, which carries no redundancy tag and is no duplicate. -/
def Dev.rxCheck (s : Dev) (p : Nat) (h : FrameHdr) (octets : List Byte) (ptp : Bool) : Dev × RxCheck :=
  if h.len < 64 ∨ 1522 < h.len then (s.inc F.ETH_RXLEN_COUNT p, .drop)
  else if !fcsOk h octets then (s.inc F.ETH_RXFCS_COUNT p, .drop)
  else
    let good := fun (s : Dev) => s.inc F.ETH_RXGOOD_COUNT p
    let pair := p / 2
    let red := s.redOf pair
    if ptp ∨ red = 0 then (good s, .take)
    else match h.red with
      | none => if red = 2 then (s.inc F.ETH_RXFILT_COUNT p, .drop) else (good s, .take)
      | some t =>
        if t.hsr ≠ decide (red = 2) then (if red = 2 then (s.inc F.ETH_RXFILT_COUNT p, .drop) else (good s, .take))
        else if red = 2 ∧ h.src.toNat = s.portMac p then (s.inc F.ETH_HSROWN_COUNT p, .drop)
        else
          let s := if red = 1 ∧ t.lan ≠ p % 2 then
              (s.inc F.ETH_WRONGLAN_COUNT p).setEvtBit (136 + p) F.ETH_EVT_WRONGLAN p 0
            else s
          let s := s.dupPurge pair
          if s.dupKnown pair h.src.toNat t.seq then (s.inc F.ETH_DUPDISC_COUNT p, .dup)
          else (good (s.dupEnter pair h.src.toNat t.seq), .take)

end Sys2Proof.Machine
end

