-- ==== Sys2Proof/Machine/HostPath.lean ====
section
/-!
DEFINITION. Sys2Proof/Machine/HostPath.lean: where a received frame goes beside ingest: the host path's receive ring,
supervisor firmware and the HSR forward queue (15 R400 to R405, R408).
-/

namespace Sys2Proof.Machine

/-! ## Host receive ring (R402) -/

/-- Tenths of a nanosecond that an octet takes on port p's line (Table 15.1). -/
def octetTime (p : Nat) : Nat := if p < 2 then 8 else 80

/-- Timestamp of the start-of-frame delimiter of a frame of len octets whose last octet arrives now (R403). -/
def Dev.sfdStamp (s : Dev) (p len : Nat) : Nat := s.rxStamp p - roundDiv (len * octetTime p) 10

/-- Base address, and number of descriptors, of the receive and the transmit ring of port p. -/
def Dev.rxBase (s : Dev) (p : Nat) : Nat := s.fg F.ETH_RXBASE_LO_BASE p * 2 ^ 12 + s.fg F.ETH_RXBASE_HI_BASE p * 2 ^ 32
def Dev.txBase (s : Dev) (p : Nat) : Nat := s.fg F.ETH_TXBASE_LO_BASE p * 2 ^ 12 + s.fg F.ETH_TXBASE_HI_BASE p * 2 ^ 32
def Dev.rxSlots (s : Dev) (p : Nat) : Nat := 2 ^ (s.fg F.ETH_RING_RXSIZE p + 4)
def Dev.txSlots (s : Dev) (p : Nat) : Nat := 2 ^ (s.fg F.ETH_RING_TXSIZE p + 4)

/-- A frame that finds no descriptor or no room (R400, R402). -/
def Dev.rxNoBuf (s : Dev) (p : Nat) : Dev := (s.inc F.ETH_RXBUF_COUNT p).setEvt (136 + p) F.ETH_EVT_RXBUF p

/-- An access of port p's receive ring drew an error response: the ring stops, and the frame is dropped (R402, R46). -/
def Dev.rxDmaErr (s : Dev) (p : Nat) : Dev :=
  ((s.fs F.ETH_RING_RXEN p 0).setEvt (136 + p) F.ETH_EVT_DMAERR p).rxNoBuf p

/-- Octets of a port's receive buffer (Table 15.1). -/
def rxBufSize (p : Nat) : Nat := if p < 2 then 320 * 1024 else 96 * 1024

/-- Octets of the receive buffer of port p that are in use: frames for firmware, and those it forwards. -/
def Dev.rxBufUsed (s : Dev) (p : Nat) : Nat :=
  (s.port p).rxbufUsed + ((s.port (2 * (p / 2) + (1 - p % 2))).fwdq.foldl (fun a f => a + f.len) 0)

/-- STAMP, LEN and FLAGS of a receive descriptor (Table 15.2). -/
def Dev.rxDesc (s : Dev) (p : Nat) (h : FrameHdr) (n : Nat) : List Byte :=
  leBytes 8 (stamp (s.sfdStamp p h.len)) ++ leBytes 2 n ++
    leBytes 1 (1 + 4 * b2n h.vid.isSome + 8 * b2n (decide (p % 2 = 1) && decide (s.redOf (p / 2) ≠ 0)))

/-- A frame written to the next receive descriptor of port p. -/
def Dev.hostRx (s : Dev) (p : Nat) (h : FrameHdr) (octets : List Byte) : Dev :=
  let head := s.fg F.ETH_RXHEAD_IDX p
  if s.fg F.ETH_RING_RXEN p = 0 ∨ head = s.fg F.ETH_RXTAIL_IDX p ∨ rxBufSize p < s.rxBufUsed p + h.len then s.rxNoBuf p
  else
    let w := s.portWorld p
    let a := s.rxBase p + 32 * (head % s.rxSlots p)
    match s.dmaRead (12 + p) w a 32 with
    | (s, none) => s.rxDmaErr p
    | (s, some d) =>
      match s.dmaWrite (12 + p) w (leNat (d.take 8) / 64 * 64) octets with
      | (s, false) => s.rxDmaErr p
      | (s, true) =>
        match s.dmaWrite (12 + p) w (a + 8) (s.rxDesc p h octets.length) with
        | (s, false) => s.rxDmaErr p
        | (s, true) => (s.fs F.ETH_RXHEAD_IDX p ((head + 1) % 65536)).setEvt (136 + p) F.ETH_EVT_RX p

/-! ## Filters (R400) -/

/-- The MAC filter. -/
def Dev.macFilter (s : Dev) (p : Nat) (h : FrameHdr) : Bool :=
  decide (h.dst.toNat = s.portMac p) || decide (h.dst.toNat = 2 ^ 48 - 1) ||
    (h.dst.getLsbD 40 && decide (s.fg F.ETH_CFG_MCAST p = 1))

/-- The VLAN filter. -/
def Dev.vlanFilter (s : Dev) (p : Nat) (h : FrameHdr) : Bool :=
  match h.vid with
  | none => true
  | some v =>
    decide (s.fg F.ETH_CFG_VLANF p = 0) ||
      (List.range 64).any (fun i =>
        decide (s.fg F.ETH_VLAN_V (64 * p + i) = 1) && decide (s.fg F.ETH_VLAN_VID (64 * p + i) = v))

/-- A remaining frame: to the host path, or discarded. -/
def Dev.hostOrFilt (s : Dev) (p : Nat) (h : FrameHdr) (octets : List Byte) : Dev :=
  if s.macFilter p h && s.vlanFilter p h then s.hostRx p h octets else s.inc F.ETH_RXFILT_COUNT p

/-! ## Supervisor firmware's frames (R400, R404, R405) -/

/-- Whether a port runs PTP, and whether it may be a master (R404, R405). -/
def Dev.ptpRole (s : Dev) (p : Nat) : Nat :=
  let r := s.fg F.ETH_PTPCFG_ROLE p
  if r = 3 then 0 else if r = 2 ∧ p < 2 then 1 else r

/-- The state that a master-capable port takes in place of MASTER while a PTP port is the selected source (R405). -/
def Dev.masterState (s : Dev) : Nat :=
  let src := s.fg F.TMB_STAT_SRC 0
  if 1 ≤ src ∧ src ≤ 4 then 4 else 3

/-- A frame of supervisor firmware, waiting on port p: rank class 1 for a PTP event message, 4 for another (R401). -/
def Dev.fwSend (s : Dev) (p kind len : Nat) (dst : BitVec 48) (octets : List Byte) : Dev :=
  let k := s.time.now
  let src := BitVec.ofNat 48 (s.portMac p)
  s.onPort p (fun x => { x with fwq := x.fwq ++
    [{ kind := kind, octets := octets, len := len, dst := dst, src := src, born := k }] })

/-- Destinations of PTP messages: peer-delay ones, and all others (Table 15.3). -/
def ptpPeerDst : BitVec 48 := 0x0180C200000E
def ptpDst : BitVec 48 := 0x011B19000000

/-- Octets that the VLAN tag of port p's PTP frames takes (Table 15.3). -/
def Dev.ptpTag (s : Dev) (p : Nat) : Nat := 4 * s.fg F.ETH_PTPCFG_TAGGED p

/-- The answer to a peer-delay request, an event message and its follow-up: two-step (Table 15.3). -/
def Dev.pdelayAnswer (s : Dev) (p : Nat) : Dev :=
  (s.fwSend p 1 (72 + s.ptpTag p) ptpPeerDst []).fwSend p 4 (72 + s.ptpTag p) ptpPeerDst []

/-- Firmware loads the pending change of TAI - UTC that a leap indication announces, with the TAI second from which it
applies: that of the UTC second `utc` after the change (R110). -/
def Dev.leapLoad (s : Dev) (up : Bool) (utc : Int) : Dev :=
  let ofs := sext 16 (s.fg F.TMB_UTCOFS_OFS 0)
  let next := if up then ofs + 1 else ofs - 1
  let sec := (utc + next).toNat
  ((s.fs F.TMB_UTCOFS_NEXT 0 (toBits 16 next)).fs F.TMB_UTCSEC_LO_SEC 0 sec).fs F.TMB_UTCSEC_HI_SEC 0 (sec / 2 ^ 32)

/-- The end of the present UTC day, where the leap second of a PTP indication stands (PRESUMED, log 68). -/
def Dev.utcDayEnd (s : Dev) : Int := ((s.toUtc s.time.now / nsPerSec / 86400 + 1) * 86400 : Nat)

/-- Firmware reads one PTP message of port p's domain: what 0 nothing of note, 1 an Announce of a better clock, which
makes the port a slave, 2 a peer-delay request, which it answers, 3 and 4 such an Announce with leap61 and with leap59. -/
def Dev.ptpTake (s : Dev) (p what : Nat) : Dev :=
  if s.ptpRole p = 0 then s
  else
    let master := decide (what = 1) || decide (3 ≤ what)
    let s := s.onPort p (fun x => { x with
      announceSeen := x.announceSeen || master
      ptp := if master then 2 else if x.ptp = 0 then 1 else x.ptp })
    if what = 2 then s.pdelayAnswer p
    else if 3 ≤ what then s.leapLoad (decide (what = 3)) s.utcDayEnd
    else s

/-- What a PTP message means to firmware, as `ptpTake` codes it. -/
def ptpWhat (m : PtpMsg) : Nat :=
  if m.ty = 1 ∧ m.better then (match m.leap with | none => 1 | some true => 3 | some false => 4)
  else if m.ty = 2 then 2 else 0

/-- Whether supervisor firmware runs. -/
def Dev.fwRuns (s : Dev) : Bool := decide (s.fg F.SVP_STAT_RUN 0 = 1) && !s.svp.restarting

/-- A PTP message arrives for firmware, if the receive buffer has room: read at once while firmware runs, kept otherwise. -/
def Dev.ptpArrive (s : Dev) (p len : Nat) (m : PtpMsg) : Dev :=
  if rxBufSize p < s.rxBufUsed p + len then s.rxNoBuf p
  else if s.ptpRole p = 0 ∨ m.domain ≠ s.fg F.ETH_PTPCFG_DOMAIN p then s
  else
    if s.fwRuns then s.ptpTake p (ptpWhat m)
    else s.onPort p (fun x => { x with rxbufUsed := x.rxbufUsed + len, fwRx := x.fwRx ++ [ptpWhat m] })

/-- Firmware reads what has been waiting on every port. -/
def Dev.ptpDrain (s : Dev) : Dev :=
  s.each (List.range 4) (fun s p =>
    let l := (s.port p).fwRx
    let s := s.each l (fun s w => s.ptpTake p w)
    s.onPort p (fun x => { x with fwRx := [], rxbufUsed := 0 }))

/-! ## HSR forwarding (R408) -/

/-- A tagged frame offered to the other port of the ring, each source and sequence number at most once. -/
def Dev.hsrOffer (s : Dev) (p : Nat) (h : FrameHdr) (octets : List Byte) : Dev :=
  match h.red with
  | none => s
  | some t =>
    let o := 1 - p
    let pair := p / 2
    let key := (h.src.toNat, t.seq)
    if pair ≠ 0 ∨ s.redOf 0 ≠ 2 ∨ !t.hsr ∨ h.dst.toNat = s.portMac p ∨ (s.dupOf 0).fwd.contains key ∨ !s.portOn o then s
    else if rxBufSize p < s.rxBufUsed p + h.len then s.rxNoBuf p
    else if 64 ≤ (s.port o).fwdq.length then (s.inc F.ETH_HSRDROP_COUNT o).setEvt (136 + o) F.ETH_EVT_HSRDROP o
    else
      let k := s.time.now
      let s := s.onDup 0 (fun d => { d with fwd := d.fwd ++ [key] })
      s.onPort o (fun x => { x with fwdq := x.fwdq ++
        [{ kind := 2, octets := octets, len := h.len, dst := h.dst, src := h.src, prpSeq := some t.seq, born := k }] })

/-- What the port does with a frame whose checks say `c`: HSR forwards a copy, and `take` has a first copy. -/
def Dev.portTake (s : Dev) (p : Nat) (h : FrameHdr) (octets : List Byte) (c : RxCheck) (take : Dev → Dev) : Dev :=
  match c with
  | .drop => s
  | .dup => s.hsrOffer p h octets
  | .take => take (s.hsrOffer p h octets)

end Sys2Proof.Machine
end

