-- ==== Sys2Proof/Machine/Images.lean ====
section
/-!
DEFINITION. Sys2Proof/Machine/Images.lean: the key slots, signatures under them, and the image region: image slots, their checks
and the configuration store (03 R57 to R61, Tables 3.2 and 3.3).
-/

namespace Sys2Proof.Machine

/-! ## Key slots (Table 3.2) -/

/-- A slot as manufacture leaves it: the JRK slots are programmed. -/
def keyDefault (i : Nat) : KeySlot := if i < 2 then { programmed := true } else {}

/-- Key slot i: 0, 1 JRK; 2, 3 OIK; 4, 5 ODK; 6, 7 OSK. -/
def Dev.keySlot (s : Dev) (i : Nat) : KeySlot := SMap.get keyDefault s.lcs.keys i

/-- Key slot i changed. -/
def Dev.onKey (s : Dev) (i : Nat) (f : KeySlot → KeySlot) : Dev :=
  { s with lcs := { s.lcs with keys := SMap.mod keyDefault s.lcs.keys i f } }

/-- Whether slot i can authenticate. -/
def Dev.keyLive (s : Dev) (i : Nat) : Bool := (s.keySlot i).programmed && !(s.keySlot i).revoked

/-- Whether 96 octets are the signature of a body under an uncompressed point of 97 octets. -/
def sigOk (key sig body : List Byte) : Bool :=
  decide (key.length = 97) && decide (key.head? = some 4) &&
    ecdsaVerify (beNat ((key.drop 1).take 48)) (beNat ((key.drop 49).take 48)) (beNat (sig.take 48)) (beNat ((sig.drop 48).take 48))
      (sha384 body)

/-- The SHA-384 hash of octets. -/
def hash384 (l : List Byte) : BitVec 384 := BitVec.ofNat 384 (sha384 l)

/-! ## Images (R60, R61) -/

/-- Slots of the kind of key that an image needs: JRK for SVP firmware, and for the first stage in BLANK and RETURN; OIK for the
first stage in OEM and FIELD. -/
def Dev.imageSlots (s : Dev) (first : Bool) : List Nat := if first ∧ (s.lcs.state = 1 ∨ s.lcs.state = 2) then [2, 3] else [0, 1]

/-- Whether an image is accepted (R60): its header, its security version, its digest, its key and its signature. -/
def Dev.imageOk (s : Dev) (first : Bool) (x : Image) : Bool :=
  x.wellFormed && decide ((if first then s.lcs.fsArb else s.lcs.svpArb) ≤ x.secver) && decide (hash384 x.body = x.digest) &&
    (s.imageSlots first).any (fun i => s.keyLive i && decide ((s.keySlot i).hash = hash384 x.key)) && sigOk x.key x.sig x.header

/-- Slot A, then slot B: the number and the image of the first accepted one (R61). -/
def Dev.imagePick (s : Dev) (first : Bool) : Option (Nat × Image) :=
  [0, 1].findSome? (fun i =>
    let x := SMap.get (fun _ => {}) (if first then s.lcs.fsImg else s.lcs.svpImg) i
    if s.imageOk first x then some (i, x) else none)

/-! ## The image region (Table 3.3) -/

/-- The octets of the region in [a, a + n), with their offsets from a. -/
def Dev.regionPart (s : Dev) (a n : Nat) : SMap Byte :=
  (s.lcs.mramImage.filter (fun x => decide (a ≤ x.1) && decide (x.1 < a + n))).map (fun x => (x.1 - a, x.2))

/-- The image that the octets of a slot spell; its layout is not stated (log 77). -/
def imageFrom (m : SMap Byte) : Image :=
  let num := fun k => Config.imageNum k m
  { wellFormed := decide (num 0 = 1), secver := num 1 % 65536, build := num 2 % 65536, digest := BitVec.ofNat 384 (num 3)
    header := Config.imagePart 0 m, body := Config.imagePart 1 m, key := Config.imagePart 2 m, sig := Config.imagePart 3 m
    core := num 4 % 8, world := num 5 % 2, entry := BitVec.ofNat 64 (num 6), load := num 7
    masks := (List.range 5).map (fun k => num (8 + k)) }

/-- The register that a number names. -/
def regNumbered (k : Nat) : Option RName :=
  (List.range 31).findSome? (fun b => (RName.ofBlock b).find? (fun r => decide (r.ctorIdx = k)))

/-- The configuration store item that the octets of the store spell; its layout is not stated (log 77). -/
def itemFrom (code : Nat) (m : SMap Byte) : CfgItem :=
  { present := decide (Config.storeNum code 0 m = 1), digest := BitVec.ofNat 384 (Config.storeNum code 1 m)
    body := Config.storeBody code m
    writes := (Config.storeWrites code m).filterMap (fun x => (regNumbered x.1).map (fun r => (r, x.2.1, x.2.2)))
    blobs := Config.storeBlobs code m }

/-- Whether an item's stored digest is that of its octets (R64). -/
def CfgItem.digestOk (x : CfgItem) : Bool := decide (hash384 x.body = x.digest)

/-- Offset and size of the slots of Table 3.3: SVP firmware A and B, first stage A and B. -/
def slotPlace (first : Bool) (i : Nat) : Nat × Nat :=
  if first then (0x100000 + i * 0x200000, 0x200000) else (i * 0x80000, 0x80000)

/-- An image slot read anew after octets of it were written. -/
def Dev.slotRead (s : Dev) (first : Bool) (i : Nat) : Dev :=
  let p := slotPlace first i
  let x := imageFrom (s.regionPart p.1 p.2)
  if first then { s with lcs := { s.lcs with fsImg := SMap.set (fun _ => {}) s.lcs.fsImg i x } }
  else { s with lcs := { s.lcs with svpImg := SMap.set (fun _ => {}) s.lcs.svpImg i x } }

/-- Every item of the store read anew. -/
def Dev.storeRead (s : Dev) : Dev :=
  let m := s.regionPart 0x600000 0xA00000
  s.each (List.range 13) (fun s c => { s with lcs := { s.lcs with store := SMap.set (fun _ => {}) s.lcs.store c (itemFrom c m) } })

/-- What an octet at an offset of the region belongs to, read anew. -/
def Dev.regionRead (s : Dev) (off : Nat) : Dev :=
  if off < 0x100000 then s.slotRead false (off / 0x80000)
  else if off < 0x500000 then s.slotRead true ((off - 0x100000) / 0x200000)
  else if 0x600000 ≤ off then s.storeRead
  else s

/-- The octets of an SVP firmware slot copied into SVP RAM (Table 3.1). -/
def Dev.loadRam (s : Dev) (i : Nat) : Dev :=
  let p := slotPlace false i
  let m := s.regionPart p.1 p.2
  { s with svp := { s.svp with ram := m } }

end Sys2Proof.Machine
end

