-- ==== Sys2Proof/Machine/Journal.lean ====
section
/-!
DEFINITION. Sys2Proof/Machine/Journal.lean: flush, lost records, scrub, the MRAM window and the disturbance records
(10 R265 to R272, R489, R490; 03 R59).
-/

namespace Sys2Proof.Machine

/-! ## Flush and lost records -/

/-- The staged records written to MRAM in index order (R268). -/
def Dev.jrnFlush (s : Dev) : Dev :=
  let l := s.jrn.staged
  let s := l.foldl Dev.jrnPlace { s with jrn := { s.jrn with staged := [] } }
  s.jrnUnfl

/-- Time that a staged record may wait, in ns: FLUSHMS, 0 acting as 1. -/
def Dev.flushNs (s : Dev) : Nat := max 1 (s.fg F.JRN_CFG_FLUSHMS 0) * 1000000

/-- JRN flushes: at once when 64 KiB are staged, and otherwise when the oldest record has waited its time. -/
def Dev.jrnFlushEvent (s : Dev) : Dev :=
  match s.jrn.staged with
  | [] => s
  | r :: _ => (if 1024 ≤ s.jrn.staged.length then s else s.moveTo (r.time + s.flushNs)).jrnFlush

/-- JOURNAL_FLUSH (R268). -/
def execJournalFlush (s : State) : Host.Outcome State Fault Refusal :=
  run (wellFormed .journalFlush) (fun s => if s.domOn 32 then s.jrnFlushEvent else s) s

/-- The LOST record of one partition, if it has lost records and there is room (R490). -/
def Dev.lostRecord (s : Dev) (w : Nat) : Dev :=
  let n := if w = 1 then s.jrn.lostS else s.jrn.lostO
  if n = 0 ∨ !s.jrnRoom 1 then s
  else
    let s := s.jrnAccept 0x0052 0 w s.time.now (leBytes 4 n)
    if w = 1 then { s with jrn := { s.jrn with lostS := 0 } } else { s with jrn := { s.jrn with lostO := 0 } }

/-- LOST_RECORD: room has returned (R490). -/
def execLostRecord (s : State) : Host.Outcome State Fault Refusal :=
  run (wellFormed .lostRecord) (fun s => if s.domOn 32 then (s.lostRecord 0).lostRecord 1 else s) s

/-! ## Scrub (R269) -/

/-- 64-bit words of the MRAM. -/
def mramWords : Nat := 2 ^ 23

/-- The error report of an uncorrectable MRAM word: address, and 1 for a GCM tag failure. -/
def Dev.mramUe (s : Dev) (rq : Option Req) (off tag : Nat) : Dev :=
  let s := s.setEvt 131 F.JRN_EVT_UE 0
  match rq with
  | some r => s.errResp 15 r 0x09 (0x4400000000 + off) tag
  | none => s.errCap 15 { ty := 0x09, addr := 0x4400000000 + off, info := tag }

/-- The scrub rewrites its next word, in which `flips` bits have flipped: one is corrected, more are uncorrectable. -/
def Dev.mramScrubWord (s : Dev) (flips : Nat) : Dev :=
  let w := s.jrn.scrubAt
  let s := if flips = 1 then (s.errCe 15).setEvt 131 F.JRN_EVT_ECC 0
    else if 2 ≤ flips ∨ w ∈ s.jrn.ueWords then
      let l := if w ∈ s.jrn.ueWords then s.jrn.ueWords else s.jrn.ueWords ++ [w]
      Dev.mramUe { s with jrn := { s.jrn with ueWords := l } } none (8 * w) 0
    else s
  if w + 1 < mramWords then ({ s with jrn := { s.jrn with scrubAt := w + 1 } } : Dev).fs F.JRN_STAT_SCRUB 0 1
  else
    let k := s.clk
    ({ s with jrn := { s.jrn with scrubAt := 0, scrubDone := k } } : Dev).fs F.JRN_STAT_SCRUB 0 0

/-- MRAM_SCRUB (R269). -/
def execMramScrub (flips : Nat) (s : State) : Host.Outcome State Fault Refusal :=
  run (wellFormed (.mramScrub flips)) (fun s => if s.domOn 32 then s.mramScrubWord flips else s) s

/-- JRN_STAT.SCRUBAGE: whole days since the latest complete scrub pass. -/
def Dev.scrubAge (s : Dev) : Nat := min 255 ((s.clk - s.jrn.scrubDone) / (86400 * nsPerSec))

/-! ## The MRAM window -/

/-- The latest record of world w in a slot of its partition: staged, or placed in the Open partition; none if nothing was
ever written, or the record stands in a Sealed block. -/
def Dev.jrnAt (s : Dev) (w slot : Nat) : Option JRec :=
  let n := if w = 1 then 63 * 2048 else 262144
  match s.jrn.staged.reverse.find? (fun r => decide (r.world = w) && decide (r.index % n = slot)) with
  | some r => some r
  | none =>
    if w = 1 then none
    else
      let r := SMap.get (fun _ => {}) s.jrn.openP slot
      if r.type = 0 then none else some r

/-- A byte of a record slot: of the staged record where it has not been flushed, else of the Open record or of the Sealed
block deciphered (R266, R268). -/
def Dev.jrnByte (s : Dev) (w slot i : Nat) : Byte :=
  match s.jrnAt w slot with
  | some r => (r.bytes[i]?).getD 0
  | none => if w = 1 then ((s.sealBlock (slot / 63)).getD []).getD (64 * (slot % 63) + i) 0 else 0

/-- The disturbance record that a byte of the disturbance area belongs to: offset, length, identifier, world. -/
def Dev.areaRec (s : Dev) (a : Nat) : Option (Nat × Nat × Nat × Nat) :=
  s.jrn.areaRecs.find? (fun r => decide (r.1 ≤ a) && decide (a < r.1 + r.2.1))

/-- World of that record. -/
def Dev.areaWorld (s : Dev) (a : Nat) : Option Nat := (s.areaRec a).map (fun r => r.2.2.2)

/-- The Sealed record at an offset of the disturbance area deciphered, if its tag holds. -/
def Dev.areaOpen (s : Dev) (off : Nat) : Option (List Byte) := gcmOpen s.sealKey (SMap.get (fun _ => {}) s.jrn.areaSeal off)

/-- A byte of the disturbance area, deciphered. -/
def Dev.areaByte (s : Dev) (a : Nat) : Byte :=
  match s.areaRec a with
  | some r => if r.2.2.2 = 1 then ((s.areaOpen r.1).getD []).getD (a - r.1) 0 else SMap.get (fun _ => 0) s.jrn.area a
  | none => SMap.get (fun _ => 0) s.jrn.area a

/-- A byte of the MRAM as a read sees it: image region, Open partition, Sealed partition deciphered, disturbance area. -/
def Dev.mramByte (s : Dev) (off : Nat) : Byte :=
  if off < 0x1000000 then SMap.get (fun _ => 0) s.lcs.mramImage off
  else if off < 0x2000000 then s.jrnByte 0 ((off - 0x1000000) / 64) (off % 64)
  else if off < 0x2800000 then
    let b := (off - 0x2000000) / 4096
    let o := off % 4096
    if o < 4032 then s.jrnByte 1 (63 * b + o / 64) (o % 64) else 0
  else s.areaByte (off - 0x2800000)

/-- Whether a requester of world w may read the MRAM at an offset (Table 10.8). -/
def Dev.mramMay (s : Dev) (w off : Nat) : Bool :=
  decide (w = 2) ||
    (if off < 0x2000000 then true
     else if off < 0x2800000 then decide (w = 1)
     else match s.areaWorld (off - 0x2800000) with
       | some v => decide (v = w)
       | none => true)

/-- Whether a read of the word at an offset meets an uncorrectable word: its own, or any of its Sealed block. -/
def Dev.mramBad (s : Dev) (off : Nat) : Bool :=
  if 0x2000000 ≤ off ∧ off < 0x2800000 then s.jrn.ueWords.any (fun w => decide (w / 512 = off / 4096))
  else s.jrn.ueWords.contains (off / 8)

/-- Whether the word at an offset of the window belongs to a record not yet flushed (R268). -/
def Dev.mramStaged (s : Dev) (off : Nat) : Bool :=
  if off < 0x1000000 then false
  else if off < 0x2000000 then s.jrn.staged.any (fun r => decide (r.world ≠ 1) && decide (r.index % 262144 = (off - 0x1000000) / 64))
  else if off < 0x2800000 then
    decide (off % 4096 < 4032) && s.jrn.staged.any (fun r => decide (r.world = 1) &&
      decide (r.index % (63 * 2048) = 63 * ((off - 0x2000000) / 4096) + off % 4096 / 64))
  else false

/-- Whether the word at an offset belongs to an encrypted message whose tag fails: a Sealed block, or a Sealed record of the
disturbance area (R266, R272). -/
def Dev.mramTag (s : Dev) (off : Nat) : Bool :=
  if 0x2000000 ≤ off ∧ off < 0x2800000 then (s.sealBlock ((off - 0x2000000) / 4096)).isNone
  else if 0x2800000 ≤ off then
    match s.areaRec (off - 0x2800000) with
    | some r => decide (r.2.2.2 = 1) && (s.areaOpen r.1).isNone
    | none => false
  else false

/-- A read of the MRAM window: 4 or 8 bytes, naturally aligned; a record not yet flushed reads as it is staged, whatever MRAM
holds in its place (R59, R266, R268, R269). -/
def Dev.mramRead (s : Dev) (rq : Req) (off size : Nat) : Dev :=
  let addr := 0x4400000000 + off
  if !s.domOn 32 then s.errResp 18 rq 0x11 addr 32
  else if (size ≠ 4 ∧ size ≠ 8) ∨ off % size ≠ 0 then s.errResp 15 rq 0x02 addr size
  else if !s.mramMay rq.world off then s.errResp 15 rq 0x05 addr 0
  else if !s.mramStaged off && s.mramBad off then s.mramUe (some rq) off 0
  else if !s.mramStaged off && s.mramTag off then s.mramUe (some rq) off 1
  else s.ok (leNat ((List.range size).map (fun i => s.mramByte (off + i))))

/-- A write of the MRAM window: the SVP writes the image region, nobody writes the journal (R59, R266). -/
def Dev.mramWrite (s : Dev) (rq : Req) (off size v : Nat) : Dev :=
  let addr := 0x4400000000 + off
  if !s.domOn 32 then s.errResp 18 rq 0x11 addr 32
  else if (size ≠ 4 ∧ size ≠ 8) ∨ off % size ≠ 0 then s.errResp 15 rq 0x02 addr size
  else if 0x1000000 ≤ off ∨ !rq.svp then s.errResp 15 rq 0x01 addr off
  else
    let m := (List.range size).foldl (fun m i => SMap.set (fun _ => 0) m (off + i) (BitVec.ofNat 8 (v / 2 ^ (8 * i)))) s.lcs.mramImage
    ((({ s with lcs := { s.lcs with mramImage := m } } : Dev).regionRead off).mramFresh (off / 8) 1).ok 0

/-- JOURNAL_WINDOW_READ: an offset from the start of the MRAM window (R266). -/
def execJournalWindowRead (rq : Req) (off size : Nat) (s : State) : Host.Outcome State Fault Refusal :=
  run (wellFormed (.journalWindowRead rq off size)) (fun s => s.byFence rq (fun s => s.mramRead rq off size)) s

/-! ## Disturbance records (R270, R271) -/

/-- Hives of a record's mask, with FIRST and COUNT of each. -/
def Capture.hiveChans (c : Capture) : List (Nat × Nat × Nat) := (onesBelow 8 c.hives).zip c.chans

/-- Bytes of one row of a record. -/
def Capture.rowBytes (c : Capture) : Nat := 8 * (c.chans.foldl (fun a x => a + x.2) 0)

/-- Rows of a record. -/
def Capture.rows (c : Capture) : Nat := c.pre + c.post

/-- Bytes of a record: header and rows. -/
def Capture.size (c : Capture) : Nat := 64 + c.rows * c.rowBytes

/-- Header of a record (R271), its fields in the order of the rule. -/
def Capture.header (c : Capture) : List Byte :=
  (leBytes 4 c.id ++ leBytes 8 c.firstTick ++ leBytes 4 c.rows ++ leBytes 4 c.hives ++
    c.chans.flatMap (fun (x : Nat × Nat) => leBytes 4 (x.1 + x.2 * 2 ^ 12)) ++ leBytes 4 (b2n c.incomplete) ++ List.replicate 64 0).take 64

/-- Bytes that the hive DMA writes for a capture, at world M (R381). -/
def Dev.capWrite (s : Dev) (h a : Nat) (bs : List Byte) : Dev := (s.dmaWrite (4 + h) 2 a bs).1

/-- The next row copied: its cells, or zeros with INCOMPLETE when its slot has been opened again (R271). -/
def Dev.capRow (s : Dev) (c : Capture) : Dev × Capture :=
  let m := c.firstTick + c.rowsDone
  let slot := m % s.cmbD
  let held := decide ((s.row slot).tick ≤ m)
  let at0 := c.base + 64 + c.rowsDone * c.rowBytes
  let s := (c.hiveChans.foldl (fun (p : Dev × Nat) x =>
    let cells := (List.range x.2.2).flatMap (fun i =>
      leBytes 8 (if held then (s.windowCell slot (x.2.1 + i)).toNat else 0))
    (p.1.capWrite x.1 p.2 cells, p.2 + 8 * x.2.2)) (s, at0)).1
  (s, { c with rowsDone := c.rowsDone + 1, incomplete := c.incomplete || !held })

/-- Every row that has been presented by now copied, at most n of them. -/
def Dev.capRows (s : Dev) (c : Capture) : Nat → Dev × Capture
  | 0 => (s, c)
  | n + 1 =>
    if c.rowsDone < c.rows ∧ c.firstTick + c.rowsDone + s.cmbL ≤ s.tickNo then
      let (s, c) := s.capRow c
      s.capRows c n
    else (s, c)

/-- Record i of the list replaced. -/
def Dev.setCap (s : Dev) (i : Nat) (c : Capture) : Dev := { s with jrn := { s.jrn with caps := replaceAt s.jrn.caps i c } }

/-- Every record being captured takes the rows presented by now. -/
def Dev.capTick (s : Dev) : Dev :=
  s.each (List.range s.jrn.caps.length) (fun s i =>
    match s.jrn.caps[i]? with
    | some c => if c.st = 1 then let (s, c) := s.capRows c (c.rows - c.rowsDone); s.setCap i c else s
    | none => s)

/-- The record that `p` selects first. -/
def Dev.findCap (s : Dev) (p : Capture → Bool) : Option (Nat × Capture) :=
  (List.range s.jrn.caps.length).findSome? (fun i => (s.jrn.caps[i]?).bind (fun c => if p c then some (i, c) else none))

/-- Capture starts at the record's tick: the rows presented before come first (R270). -/
def Dev.capStart (s : Dev) : Dev :=
  match s.findCap (fun c => decide (c.st = 0) && decide (c.startTick ≤ s.tickNo)) with
  | some (i, c) =>
    let c := { c with st := 1, firstTick := c.startTick - s.cmbL - (c.pre - 1) }
    let (s, c) := s.capRows c c.rows
    s.setCap i c
  | none => s

/-- A capture ends: its header is written, and DRDONE rises (R271). -/
def Dev.capFinish (s : Dev) (i : Nat) (c : Capture) : Dev :=
  let c := { c with st := 2 }
  let h := ((onesBelow 8 c.hives).head?).getD 0
  let s := (s.capWrite h c.base c.header).setCap i c
  let s := s.setEvt 131 F.JRN_EVT_DRDONE 0
  s.cond c.incomplete (fun s => s.setEvt 131 F.JRN_EVT_INCOMPLETE 0)

/-- The first capture whose rows are all copied ends. -/
def Dev.capEnd (s : Dev) : Dev :=
  match s.findCap (fun c => decide (c.st = 1) && decide (c.rowsDone = c.rows)) with
  | some (i, c) => s.capFinish i c
  | none => s

/-- Captures still running when HOLDUP step 4 begins stop there (R271); one that has not started holds no row. -/
def Dev.capStop (s : Dev) : Dev :=
  s.each (List.range s.jrn.caps.length) (fun s i =>
    match s.jrn.caps[i]? with
    | some c => if c.st = 2 then s else s.capFinish i { c with incomplete := true }
    | none => s)

/-- DISTURBANCE_CAPTURE_START (R270). -/
def execDisturbanceCaptureStart (s : State) : Host.Outcome State Fault Refusal :=
  run (wellFormed .disturbanceCaptureStart) Dev.capStart s

/-- DISTURBANCE_CAPTURE_END (R271). -/
def execDisturbanceCaptureEnd (s : State) : Host.Outcome State Fault Refusal :=
  run (wellFormed .disturbanceCaptureEnd) Dev.capEnd s

/-- Largest record that can be sealed. -/
def sealMost : Nat := 4 * 2 ^ 20

/-- Bytes of the disturbance area (Table 10.8). -/
def areaBytes : Nat := 24 * 2 ^ 20

/-- Whether record id can be sealed: finished, and of at most 4 MiB (R272). -/
def Dev.sealable (s : Dev) (id : Nat) : Bool :=
  s.jrn.caps.any (fun c => decide (c.id = id) && decide (c.st = 2) && decide (c.size ≤ sealMost))

/-- A finished record copied into the disturbance area, at the next place that holds it whole, and its DR_INDEX record
(R272).  What stood there before is gone. -/
def Dev.sealRecord (s : Dev) (id : Nat) : Dev :=
  match s.findCap (fun c => decide (c.id = id)) with
  | none => s
  | some (i, c) =>
    let n := c.size
    let wraps := decide (areaBytes < s.jrn.areaNext + n)
    let off := if wraps then 0 else s.jrn.areaNext
    let bs := s.memBytes c.base n
    let msg := gcmSeal s.sealKey (s.sealIv (2 ^ 63 + id)) bs
    let area := ((if c.world = 1 then List.replicate n 0 else bs).foldl
      (fun (p : SMap Byte × Nat) b => (SMap.set (fun _ => 0) p.1 p.2 b, p.2 + 1)) (s.jrn.area, off)).1
    let recs := s.jrn.areaRecs.filter (fun r => decide (r.1 + r.2.1 ≤ off) || decide (off + n ≤ r.1))
    let sealed := s.jrn.areaSeal.filter (fun x => recs.any (fun r => decide (r.1 = x.1)))
    let s := { s with jrn := { s.jrn with
      area := area, areaSeal := if c.world = 1 then SMap.set (fun _ => {}) sealed off msg else sealed, areaRecs := recs ++ [(off, n, id, c.world)], areaNext := off + n } }
    let s := s.mramFresh ((0x2800000 + off) / 8) (n / 8)
    let s := s.cond wraps (fun s => s.inc F.JRN_WEARD_LAPS 0)
    let s := s.setCap i { c with sealedDone := true }
    s.record 0x0051 (((onesBelow 8 c.hives).head?).getD 0) c.world
      (leBytes 4 id ++ leBytes 4 off ++ leBytes 4 n ++ leBytes 4 (b2n c.incomplete))

/-- Address of the next record in the capture area, and what of the area is left for it: records stand one behind the
other, from the base again once every one has been sealed (R270). -/
def Dev.capRoom (s : Dev) : Nat × Nat :=
  let base := s.fg F.JRN_DRBASE_LO_BASE 0 * 2 ^ 22 + s.fg F.JRN_DRBASE_HI_BASE 0 * 2 ^ 32
  let used := (s.jrn.caps.filter (fun c => !c.sealedDone)).foldl (fun a c => max a (c.base + c.size - base)) 0
  let used := (used + 63) / 64 * 64
  (base + used, s.fg F.JRN_DRSIZE_MIB 0 * 2 ^ 20 - used)

end Sys2Proof.Machine
end

