-- ==== Sys2Proof/Machine/RingBase.lean ====
section
/-!
DEFINITION. Sys2Proof/Machine/RingBase.lean: rings, replies, completions and the answers that the CMD block gives for
firmware (03 R52, R56, 04 R71 to R88, R94 to R97).
-/

namespace Sys2Proof.Machine

/-! ## Geometry (R71, R74) -/

/-- Entries of ring r's command part. -/
def Dev.ringN (s : Dev) (r : Nat) : Nat := 2 ^ (s.fg F.CMD_RCFG_SIZE r + 4)

/-- World of ring r. -/
def Dev.ringWorld (s : Dev) (r : Nat) : Nat := s.fg F.CMD_RCFG_WORLD r

/-- Bases of ring r's command and reply parts. -/
def Dev.ringRBase (s : Dev) (r : Nat) : Nat := s.fg F.CMD_RBASE_LO_BASE r * 2 ^ 12 + s.fg F.CMD_RBASE_HI_BASE r * 2 ^ 32
def Dev.ringPBase (s : Dev) (r : Nat) : Nat := s.fg F.CMD_PBASE_LO_BASE r * 2 ^ 12 + s.fg F.CMD_PBASE_HI_BASE r * 2 ^ 32

/-- Difference of two free-running 16-bit indices. -/
def idxDiff (a b : Nat) : Nat := (a + 65536 - b) % 65536

/-- Address of command entry i and of reply entry j of ring r. -/
def Dev.cmdEntry (s : Dev) (r i : Nat) : Nat := s.ringRBase r + i % s.ringN r * 64
def Dev.replyEntry (s : Dev) (r j : Nat) : Nat := s.ringPBase r + j % (2 * s.ringN r) * 32

/-! ## Status codes (Table 4.4) -/

def stOK : Nat := 0x0000
def stAccepted : Nat := 0x0001
def stBadOpcode : Nat := 0x0100
def stBadParam : Nat := 0x0101
def stBadLen : Nat := 0x0102
def stBadSeq : Nat := 0x0103
def stBadWorld : Nat := 0x0104
def stBadAddr : Nat := 0x0105
def stBadDigest : Nat := 0x0106
def stBadImage : Nat := 0x0107
def stOverBudget : Nat := 0x0108
def stDenied : Nat := 0x0109
def stBadMode : Nat := 0x0200
def stBadLife : Nat := 0x0201
def stNotReady : Nat := 0x0202
def stBusy : Nat := 0x0203
def stTooLate : Nat := 0x0204
def stAuthFail : Nat := 0x0300
def stBadKey : Nat := 0x0301
def stSvpRestart : Nat := 0x0400
def stSvpDown : Nat := 0x0401
def stAbortedHoldup : Nat := 0x0402
def stAbortedReset : Nat := 0x0403
def stDisarmed : Nat := 0x0404

/-! ## Long commands (R85, R86) -/

/-- Opcode of MODE SET: its entry waits for the switch instant and is no long command (R39). -/
def opModeSet : Nat := 0x0101

/-- Whether an entry counts among the ring's long commands: one whose completion a ring reset discards (R97) no longer counts in
L, RSTAT.LONG, the limit of 4 and FENCE, since the ring starts again empty (DESIGN CHOICE, log 34). -/
def LongCmd.counts (c : LongCmd) (r : Nat) : Bool := decide (c.ring = r) && !c.discard && decide (c.opcode ≠ opModeSet)

/-- L of ring r. -/
def Dev.ringLongs (s : Dev) (r : Nat) : Nat := (s.cmd.long.filter (fun c => c.counts r)).length

/-- RSTAT.LONG of every ring brought up to date. -/
def Dev.syncLongs (s : Dev) : Dev := s.each (List.range 16) (fun s r => s.fs F.CMD_RSTAT_LONG r (min 4 (s.ringLongs r)))

/-- The list of outstanding entries replaced. -/
def Dev.setLong (s : Dev) (l : List LongCmd) : Dev := ({ s with cmd := { s.cmd with long := l } } : Dev).syncLongs

/-- Free entries of ring r's reply part. -/
def Dev.replyRoom (s : Dev) (r : Nat) : Nat := 2 * s.ringN r - idxDiff (s.fg F.CMD_PTAIL_IDX r) (s.fg F.CMD_PHEAD_IDX r)

/-! ## Replies (R76, R83) -/

/-- The 32 bytes of a reply entry (Table 4.3). -/
def Reply.bytes (x : Reply) : List Byte :=
  leBytes 2 x.status ++ leBytes 2 x.tag ++ leBytes 4 x.seq ++ leBytes 1 (b2n x.completion) ++ leBytes 1 0 ++
    leBytes 2 x.opcode ++ leBytes 4 x.detail ++ (x.result ++ List.replicate 16 0).take 16

/-- A reply or completion written at PTAIL, which then advances. -/
def Dev.putReply (s : Dev) (x : Reply) : Dev :=
  let j := s.fg F.CMD_PTAIL_IDX x.ring
  let s := (s.dmaWrite 2 (s.ringWorld x.ring) (s.replyEntry x.ring j) x.bytes).1
  let s := s.fs F.CMD_PTAIL_IDX x.ring ((j + 1) % 65536)
  let s := s.edge (96 + x.ring) (fun s => s.fs F.CMD_RSTAT_REPLY x.ring 1)
  { s with cmd := { s.cmd with last := some x } }

/-- The completion of an outstanding entry, unless a ring reset has discarded it. -/
def Dev.putCompletion (s : Dev) (c : LongCmd) (status : Nat) (result : List Byte) (detail : Nat := 0) : Dev :=
  if c.discard then s
  else s.putReply { ring := c.ring, status := status, tag := c.tag, seq := c.seq, completion := true, opcode := c.opcode,
                    detail := detail, result := result }

/-- Entry idx of the outstanding list completes. -/
def Dev.finishLong (s : Dev) (idx status : Nat) (result : List Byte) (detail : Nat := 0) : Dev :=
  match s.cmd.long[idx]? with
  | none => s
  | some c => (s.putCompletion c status result detail).setLong (dropAt s.cmd.long idx)

/-- Whether an opcode is one of KEYS or LIFE, after which the nonce is renewed (R65). -/
def keyOp (op : Nat) : Bool := decide (op = 0x0E01) || decide (op = 0x0E02) || decide (op = 0x0E03) || decide (op = 0x0F01)

/-- Every outstanding entry that `p` names completes with one status (R52, R95, R96). -/
def Dev.abortLongs (s : Dev) (p : LongCmd → Bool) (status : Nat) : Dev :=
  let l := s.cmd.long.filter p
  let s := l.foldl (fun s c => s.putCompletion c status []) s
  let s := s.setLong (s.cmd.long.filter (fun c => !p c))
  s.cond (l.any (fun c => keyOp c.opcode)) Dev.newNonce

/-- Whether an entry is a long command. -/
def LongCmd.long (c : LongCmd) : Bool := decide (c.opcode ≠ opModeSet)

/-! ## Taking entries (R75 to R79) -/

/-- Entries that a command of this LENGTH occupies (R77). -/
def cmdEntries (len : Nat) : Nat := if 48 < len ∧ len ≤ 112 then 2 else 1

/-- The header of the command at ring r's HEAD, when the ring is enabled and holds a whole command.  An entry whose read draws
an error response is no command that firmware can take: the ring counts as holding none, and its service stalls there
(DESIGN CHOICE, log 31). -/
def Dev.ringPeek (s : Dev) (r : Nat) : Dev × Option (List Byte) :=
  let head := s.fg F.CMD_HEAD_IDX r
  let avail := idxDiff (s.fg F.CMD_TAIL_IDX r) head
  if s.fg F.CMD_RCTL_EN r = 0 ∨ avail = 0 then (s, none)
  else match s.dmaRead 2 (s.ringWorld r) (s.cmdEntry r head) 64 with
    | (s, none) => (s, none)
    | (s, some b) => if avail < cmdEntries (leNat ((b.drop 6).take 2)) then (s, none) else (s, some b)

/-- HEAD of ring r advanced past a command of this LENGTH. -/
def Dev.ringAdvance (s : Dev) (r len : Nat) : Dev :=
  s.fs F.CMD_HEAD_IDX r ((s.fg F.CMD_HEAD_IDX r + cmdEntries len) % 65536)

/-- Whether ring r has the reply entries that its next command needs (R85). -/
def Dev.ringHasRoom (s : Dev) (r : Nat) : Bool := decide (1 + s.ringLongs r ≤ s.replyRoom r)

/-! ## Answers without firmware (R52, R56) -/

/-- The status that the CMD block answers with, if it answers for firmware. -/
def Dev.proxyStatus (s : Dev) : Option Nat :=
  if s.fg F.SVP_STAT_DOWN 0 = 1 then some stSvpDown
  else if s.svp.restarting then some stSvpRestart
  else none

/-- One command at the head of ring r answered: the expected SEQ follows the one answered. -/
def Dev.proxyOne (s : Dev) (st r : Nat) : Dev × Bool :=
  match s.ringPeek r with
  | (s, none) => (s, false)
  | (s, some b) =>
    if s.ringHasRoom r then
      let seq := leNat ((b.drop 8).take 4)
      let s := ((s.ringAdvance r (leNat ((b.drop 6).take 2))).wr .CMD_RSEQ r (BitVec.ofNat 32 (seq + 1))).fs F.CMD_RSTAT_STALL r 0
      (s.putReply { ring := r, status := st, tag := leNat ((b.drop 2).take 2), seq := seq, opcode := leNat (b.take 2) }, true)
    else (s.fs F.CMD_RSTAT_STALL r 1, false)

/-- Every waiting command of ring r answered. -/
def Dev.proxyRing (s : Dev) (st r : Nat) : Nat → Dev
  | 0 => s
  | n + 1 =>
    match s.proxyOne st r with
    | (s, true) => s.proxyRing st r n
    | (s, false) => s

/-- Every command rung in answered while firmware does not serve. -/
def Dev.proxyAll (s : Dev) : Dev :=
  match s.proxyStatus with
  | some st => if s.domOn 1 then s.each (List.range 16) (fun s r => s.proxyRing st r 4096) else s
  | none => s

/-! ## Ring resets (R95, R97) -/

/-- A ring reset under R97: commands not taken are discarded, completions to come too. -/
def Dev.ringReset (s : Dev) (r : Nat) : Dev :=
  let s := (s.fs F.CMD_RCTL_EN r 0).fs F.CMD_RSTAT_STALL r 0
  let s := (((s.fs F.CMD_HEAD_IDX r 0).fs F.CMD_TAIL_IDX r 0).fs F.CMD_PTAIL_IDX r 0).fs F.CMD_PHEAD_IDX r 0
  s.setLong (s.cmd.long.map (fun c => if c.ring = r then { c with discard := true } else c))

/-- Ring r as a module reset leaves it (R95): registers at their reset values. -/
def Dev.ringInitial (s : Dev) (r : Nat) : Dev :=
  [RName.CMD_RBASE_LO, .CMD_RBASE_HI, .CMD_PBASE_LO, .CMD_PBASE_HI, .CMD_RCFG, .CMD_RCTL, .CMD_HEAD, .CMD_TAIL, .CMD_PTAIL,
    .CMD_PHEAD, .CMD_RSTAT, .CMD_RSEQ, .CMD_OVFCNT].foldl (fun s n => s.wr n r (RName.reset n r)) s

end Sys2Proof.Machine
end

