-- ==== Sys2Proof/Machine/Unlock.lean ====
section
/-!
DEFINITION. Sys2Proof/Machine/Unlock.lean: which debug access a life-cycle state and a mode grant, and the end of an unlock
(03 R68, R69; 09 R239; 17 R453).
-/

namespace Sys2Proof.Machine

/-- The highest level of LCS_DBG.UNLOCK that Table 3.6 grants in a life-cycle state and a mode; 0: a dash. -/
def debugGrant (life mode : Nat) : Nat :=
  if mode = 0 ∨ 5 ≤ mode then 0
  else match life with
    | 0 | 3 => if mode = 3 then 2 else 3
    | 1 => 2
    | 2 => if mode = 2 ∨ mode = 4 then 2 else 0
    | _ => 0

/-- Key slots that Table 3.6 names for a level: JRK 0 and 1, ODK 4 and 5, OSK 6 and 7. -/
def debugSlots (life level : Nat) : List Nat :=
  match life with
  | 1 => [4, 5]
  | 2 => if level = 1 then [4, 5] else [6, 7]
  | _ => [0, 1]

/-- Whether an unlock covers a world: 1 Open, 2 or 3 both, 3 the SVP. -/
def Dev.unlockReach (s : Dev) (w : Nat) : Bool := decide (w + 1 ≤ s.fg F.LCS_DBG_UNLOCK 0)

/-- Every comparator of every core disarmed. -/
def Dev.disarmCores (s : Dev) : Dev :=
  let s := s.each (List.range 64) (fun s i => s.fs F.DBG_IAC_CTL_EN i 0)
  s.each (List.range 32) (fun s i => s.fs F.DBG_DWP_CTL_EN i 0)

/-- The trace unit stops and clears its buffer. -/
def Dev.trcEnd (s : Dev) : Dev := ((s.fs F.TRC_CTL_EN 0 0).fs F.TRC_CTL_SRCEN 0 0).trcClearBuf

/-- Breakpoints, watchpoints and engine bundle breakpoints disarmed, held engines released (R69). -/
def Dev.disarmAll (s : Dev) : Dev := (s.each (List.range 64) (fun s e => s.disarmEngine e)).disarmCores

/-- The end of an unlock (R69), by the LCS hardware alone. -/
def Dev.endUnlock (s : Dev) : Dev :=
  if s.fg F.LCS_DBG_UNLOCK 0 = 0 then s
  else
    let s := (s.wdgSyncAll.fs F.LCS_DBG_UNLOCK 0 0).disarmAll
    let s := s.trcEnd
    if s.domOn 31 then s.setEvt 257 F.DBG_EVT_CLOSE 0 else s

/-- The unlock ends where the mode in force no longer permits it. -/
def Dev.checkUnlock (s : Dev) : Dev :=
  if debugGrant s.lcs.state s.mode < s.fg F.LCS_DBG_UNLOCK 0 then s.endUnlock else s

/-! ## The mailbox (R439, R440, R442) -/

/-- Bytes put into a mailbox buffer from an offset on. -/
def mbPut (m : SMap Byte) (off : Nat) (l : List Byte) : SMap Byte :=
  ((List.range l.length).zip l).foldl (fun m x => SMap.set (fun _ => 0) m ((off + x.1) % 256) x.2) m

/-- n bytes of MBI. -/
def Dev.mbiBytes (s : Dev) (off n : Nat) : List Byte := (List.range n).map (fun i => SMap.get (fun _ => 0) s.lcs.mbi (off + i))

/-- The reply to the message in progress: status, message code, payload. -/
def Dev.mbReply (s : Dev) (code status : Nat) (payload : List Byte) : Dev :=
  { s with lcs := { s.lcs with
      mbo := mbPut s.lcs.mbo 0 (leBytes 2 status ++ leBytes 2 code ++ payload), mbBusy := none, mboWait := true } }

/-- A message in progress when the firmware stops is answered by the LCS hardware; the challenge is forgotten. -/
def Dev.mbStop (s : Dev) (status : Nat) : Dev :=
  let s := match s.lcs.mbBusy with
    | some code => s.mbReply code status []
    | none => s
  { s with lcs := { s.lcs with chal := none } }

end Sys2Proof.Machine
end

