-- ==== Sys2Proof/Machine/Domains.lean ====
section
/-!
DEFINITION. Sys2Proof/Machine/Domains.lean: the domains' requirements, their contents at switch-on and their cuts, the module
reset and the DORMANT state (02 R28 to R35, R42, R47; 18 R475).
-/

namespace Sys2Proof.Machine

/-! ## Requirements (Table 2.2) -/

/-- The domains that domain d requires. -/
def domNeeds (d : Nat) : List Nat :=
  if d = 0 then []
  else if d = 1 ∨ d = 32 then [0]
  else if d = 2 then [1]
  else if d = 28 then [1, 2]
  else if d = 29 ∨ d = 30 ∨ d = 26 ∨ d = 27 ∨ d = 31 then [28]
  else if d = 7 ∨ d = 8 then [2, 28]
  else if d = 17 then [2, 8]
  else if 9 ≤ d ∧ d ≤ 16 then [8, 17]
  else if d = 3 ∨ d = 4 then [7]
  else if d = 5 ∨ d = 6 then [17]
  else [26 + (d - 18) / 4]

/-- The domains but PD00 in the order of Table 2.2, which no domain of it precedes what it requires. -/
def domOrder : List Nat :=
  [1, 2, 32, 28, 29, 30, 7, 8, 17, 9, 10, 11, 12, 13, 14, 15, 16, 3, 4, 5, 6, 26, 27, 18, 19, 20, 21, 22, 23, 24, 25, 31]

/-- Whether a switch-on of d finds every requirement on. -/
def Dev.domReady (s : Dev) (d : Nat) : Bool := (domNeeds d).all s.domOn

/-- Whether some domain that requires d is on. -/
def Dev.domUsed (s : Dev) (d : Nat) : Bool := domOrder.any (fun x => (domNeeds x).contains d && s.domOn x)

/-- The domain of error log j (R469, R494; Tables 1.3 and 14.2). -/
def errDom (j : Nat) : Nat :=
  if j = 0 ∨ j = 1 ∨ j = 3 then 1
  else if j = 2 ∨ j = 17 ∨ j = 29 then 0
  else if j ≤ 7 then 2
  else if j ≤ 9 then 7
  else if j = 10 then 8
  else if j = 13 ∨ j = 14 then 17
  else if j = 15 then 32
  else if j ≤ 20 then 28
  else if j ≤ 22 then j - 18
  else if j ≤ 24 then 5
  else if j = 25 then 6
  else if j = 26 ∨ j = 27 then 31
  else if j ≤ 31 then 28
  else if j ≤ 39 then j - 14
  else j - 14

/-! ## Registers put back to their reset values -/

/-- Every index of register r. -/
def Dev.resetReg (s : Dev) (r : RName) : Dev := { s with regs := SMap.set (fun _ => []) s.regs r.ctorIdx [] }

/-- Every register of block b. -/
def Dev.resetBlock (s : Dev) (b : Nat) : Dev := (RName.ofBlock b).foldl Dev.resetReg s

/-- The indices of register r that `p` selects. -/
def Dev.resetIdx (s : Dev) (p : Nat → Bool) (r : RName) : Dev :=
  let bank := (SMap.get (fun _ => []) s.regs r.ctorIdx).filter (fun x => !p x.1)
  { s with regs := SMap.set (fun _ => []) s.regs r.ctorIdx bank }

/-- The indices of register r that `p` selects taken over from an older state. -/
def Dev.keepIdx (s old : Dev) (p : Nat → Bool) (r : RName) : Dev :=
  let bank := (SMap.get (fun _ => []) old.regs r.ctorIdx).filter (fun x => p x.1)
  { s with regs := SMap.set (fun _ => []) s.regs r.ctorIdx bank }

/-- The registers of an error log. -/
def errRegs : List RName := [.ERR_STAT, .ERR_ADDR_LO, .ERR_ADDR_HI, .ERR_INFO, .ERR_TIME_LO, .ERR_TIME_HI, .ERR_OVF, .ERR_CECNT]

/-- The error logs that lie in domain d. -/
def Dev.resetErr (s : Dev) (d : Nat) : Dev := errRegs.foldl (fun s r => s.resetIdx (fun j => decide (errDom j = d)) r) s

/-- The counters of core m at zero (R461). -/
def Dev.resetPmu (s : Dev) (m : Nat) : Dev :=
  let s := [RName.PMU_CTL, .PMU_OVF, .PMU_IEN].foldl (fun s r => s.resetIdx (fun i => decide (i = m)) r) s
  [RName.PMU_EVSEL, .PMU_CNT_LO, .PMU_CNT_HI].foldl (fun s r => s.resetIdx (fun i => decide (i / 8 = m)) r) s

/-- The debug registers of core m. -/
def Dev.resetDbg (s : Dev) (m : Nat) : Dev :=
  let by1 := [RName.DBG_CCTL, .DBG_CREQ, .DBG_CSTAT, .DBG_CM, .DBG_DTX, .DBG_DRX, .DBG_DCCSTAT]
  let by8 := [RName.DBG_IAC_ALO_LO, .DBG_IAC_ALO_HI, .DBG_IAC_AHI_LO, .DBG_IAC_AHI_HI, .DBG_IAC_CTL]
  let by4 := [RName.DBG_DWP_ALO_LO, .DBG_DWP_ALO_HI, .DBG_DWP_AHI_LO, .DBG_DWP_AHI_HI, .DBG_DWP_CTL]
  let by2 := [RName.DBG_DVC_VAL_LO, .DBG_DVC_VAL_HI, .DBG_DVC_MASK_LO, .DBG_DVC_MASK_HI]
  let s := by1.foldl (fun s r => s.resetIdx (fun i => decide (i = m)) r) s
  let s := by8.foldl (fun s r => s.resetIdx (fun i => decide (i / 8 = m)) r) s
  let s := by4.foldl (fun s r => s.resetIdx (fun i => decide (i / 4 = m)) r) s
  by2.foldl (fun s r => s.resetIdx (fun i => decide (i / 2 = m)) r) s

/-- The registers of watchdog w, and its count at 0 (R434). -/
def Dev.resetWdg (s : Dev) (w : Nat) : Dev :=
  let k := s.clk
  let s := (RName.ofBlock 17).foldl (fun s r => s.resetIdx (fun i => decide (i = w)) r) s
  { s with wdg := { s.wdg with us := SMap.set (fun _ => 0) s.wdg.us w k, first := SMap.set (fun _ => false) s.wdg.first w false } }

/-- Port p: registers and run-time state. -/
def Dev.resetPort (s : Dev) (p : Nat) : Dev :=
  let s := (RName.ofBlock 21).foldl (fun s r => s.resetIdx (fun i => decide ((if r = RName.ETH_VLAN then i / 64 else i) = p)) r) s
  let s := s.onPort p (fun _ => {})
  let k := s.clk
  if p % 2 = 0 then s.onDup (p / 2) (fun _ => { supAt := k }) else s

/-- Registers of DRAM channel c (R494). -/
def Dev.resetChan (s : Dev) (c : Nat) : Dev :=
  let s := [RName.DMC_CSTAT, .DMC_RH, .DMC_RHCNT, .DMC_CECNT, .DMC_UECNT, .DMC_SCRUB, .DMC_SCRUBPOS].foldl
    (fun s r => s.resetIdx (fun i => decide (i = c)) r) s
  let k := s.clk
  { s with mem := { s.mem with ch := SMap.set (fun _ => {}) s.mem.ch c { refAt := k, winAt := k } } }

/-- A timestamp as nanoseconds (R100). -/
def stampNs (t : Nat) : Nat := t / 2 ^ 30 * nsPerSec + t % 2 ^ 30

/-- INDEX and TIME of the records among octets of 64 each: a record has a type (Table 10.10 gives none the number 0). -/
def recTimes (n : Nat) (bs : List Byte) : List (Nat × Nat) :=
  (List.range n).filterMap (fun i =>
    let r := (bs.drop (64 * i)).take 64
    if leNat ((r.drop 24).take 2) = 0 then none else some (leNat ((r.drop 16).take 8), stampNs (leNat (r.take 8))))

/-- INDEX and TIME of the records of a partition that stand in MRAM; a Sealed block whose tag fails gives none. -/
def Dev.mramRecs (s : Dev) (w : Nat) : List (Nat × Nat) :=
  if w = 1 then s.jrn.sealB.flatMap (fun b => recTimes 63 ((s.sealBlock b.1).getD []))
  else s.jrn.openP.map (fun x => (x.2.index, x.2.time))

/-- TIME of the record of the highest index. -/
def lastTime (l : List (Nat × Nat)) : Nat := (l.foldl (fun p x => if p.1 ≤ x.1 then x else p) (0, 0)).2

/-- Where the timebase starts afresh: 1 s after the latest journal record, in MRAM or staged since PD32 woke (R105); 1 s
after the epoch where there is none (DESIGN CHOICE, log 4). -/
def Dev.timeStart (s : Dev) : Nat :=
  let staged := s.jrn.staged.foldl (fun a r => max a r.time) 0
  max (max (lastTime (s.mramRecs 0)) (lastTime (s.mramRecs 1))) staged + nsPerSec

/-- The next index of a partition after what its MRAM holds (R489). -/
def Dev.nextIndex (s : Dev) (w : Nat) : Nat := (s.mramRecs w).foldl (fun a x => max a (x.1 + 1)) 0

/-- The journal as it starts at a boot: the next indices, and an empty staging ring (R489). -/
def Dev.jrnRecover (s : Dev) : Dev :=
  let s := (s.setJrnNext 0 (s.nextIndex 0)).setJrnNext 1 (s.nextIndex 1)
  Dev.jrnUnfl { s with jrn := { s.jrn with staged := [], stagePos := 0 } }

/-! ## A domain at switch-on (R33, Table 18.5) -/

/-- What lies in domain d as its switch-on leaves it. -/
def Dev.domFresh (s : Dev) (d : Nat) : Dev :=
  let s := s.resetErr d
  if d = 1 then
    let s := ((s.resetBlock 0).resetBlock 3).resetWdg 8
    let s := s.onCore 8 (fun _ => { frames := [frame0 8] })
    { s with cmd := {}, zdp := {}, svp := { restarted := s.svp.restarted } }
  else if d = 2 then
    let s := (((s.resetBlock 4).resetBlock 5).resetBlock 6).resetBlock 7
    let x := s.timeStart
    { s with timers := [], time := { now := x, tickS := x / nsPerSec, tickMode := s.liveMode } }
  else if d = 3 ∨ d = 4 then s.resetPort (d - 3)
  else if d = 5 then (s.resetPort 2).resetPort 3
  else if d = 6 then { s.resetBlock 25 with blk := [] }
  else if d = 7 then
    let s := (s.resetBlock 8).resetBlock 9
    { s with ing := {} }
  else if d = 8 then { s.resetBlock 10 with comb := {} }
  else if 9 ≤ d ∧ d ≤ 16 then s.resetHiveState (d - 9)
  else if d = 17 then
    let s := ((s.resetBlock 12).resetBlock 13).resetBlock 14
    { s with trg := {}, pub := [] }
  else if 18 ≤ d ∧ d ≤ 25 then (((s.coreFresh (d - 18)).resetPmu (d - 18)).resetDbg (d - 18)).resetWdg (d - 18)
  else if d = 26 ∨ d = 27 then s.liveL2 (d - 26)
  else if d = 28 then
    let s := ((s.resetBlock 16).resetBlock 18).resetBlock 19
    let s := [RName.DMC_CTL, .DMC_CFG, .DMC_HCH_LO, .DMC_HCH_HI, .DMC_HBG0_LO, .DMC_HBG0_HI, .DMC_HBG1_LO, .DMC_HBG1_HI,
      .DMC_HBA0_LO, .DMC_HBA0_HI, .DMC_HBA1_LO, .DMC_HBA1_HI, .DMC_PTGT, .DMC_PCFG, .DMC_PMISS, .DMC_PMAX].foldl Dev.resetReg s
    { s with ic := {}, mem := { s.mem with sysc := [], dir := [], reclaimTo := 0 } }
  else if d = 29 ∨ d = 30 then s.resetChan (d - 29)
  else if d = 31 then
    let s := s.resetBlock 27
    let s := [RName.DBG_STAT, .DBG_EVT, .DBG_IEN, .DBG_KEEPPRI].foldl Dev.resetReg s
    { s with trc := {} }
  else s

/-- PWR_DSTAT1 for PD32: on, or in standby. -/
def Dev.setDom32 (s : Dev) (on : Bool) : Dev :=
  ((s.monFresh 32).fs F.PWR_DSTAT1_ON32 0 (b2n on)).fs F.PWR_DSTAT1_STBY32 0 (b2n (!on))

/-- Domain d on, with its contents at their reset values; PD32 leaves standby as it stood. -/
def Dev.switchOn (s : Dev) (d : Nat) : Dev :=
  if d = 32 then s.setDom32 true
  else ((s.domFresh d).cond (decide (9 ≤ d) && decide (d ≤ 16)) (fun s => s.freshSets (d - 9))).setDom d true

/-! ## Cuts (R30, R31) -/

/-- A DRAIN-LOST of domain d, with n entries not drained. -/
def Dev.drainLost (s : Dev) (d n : Nat) : Dev :=
  let s := ((s.fs F.PWR_DLLAST_DOMAIN 0 d).fs F.PWR_DLLAST_COUNT 0 (min n 65535)).inc F.PWR_DLCNT_EVENTS 0
  let s := { s with pwr := { s.pwr with undrained := s.pwr.undrained ++ [(d, n)] } }
  (s.setEvt 8 F.PWR_EVT_DLOST 0).record 0x0005 0 0 (leBytes 4 d ++ leBytes 4 n)

/-- The modified lines of a core whose domain is cut cleanly are in its L2 already. -/
def Dev.cutCore (s : Dev) (m : Nat) (clean : Bool) : Dev :=
  let s := s.wdgSync m
  let n := (s.core m).undrained
  let s := if clean then s.onCore m (fun c => { c with l1d := [], resv := none })
    else (s.drainLost (18 + m) n).deadCore m
  let s := s.onCore m (fun c => { world := c.world, entry := c.entry, dead := c.dead, frames := [frame0 m] })
  s.icDrop m

/-- An L2 cut cleanly has written its dirty lines back; one cut uncleanly is declared dead. -/
def Dev.cutL2 (s : Dev) (c : Nat) (clean : Bool) : Dev :=
  if clean then
    let lines := (SMap.get (fun _ => []) s.mem.l2 c).map (fun x => x.1)
    lines.foldl (fun s l => s.snoopL2 c l true) s
  else (s.deadL2 c).setEvt 8 F.PWR_EVT_DEAD 0

/-- A DRAM channel cut before its devices were in self-refresh loses its contents. -/
def Dev.loseChan (s : Dev) (c : Nat) : Dev :=
  let m := s.rd64 .DMC_HCH_LO .DMC_HCH_HI 0
  let k := s.freeCtr
  let s := s.draw
  { s with mem := { s.mem with
      lost := (m, c, k) :: s.mem.lost
      dram := s.mem.dram.filter (fun x => decide (parityOf x.1 m ≠ c))
      poison := s.mem.poison.filter (fun x => decide (parityOf (64 * x.1) m ≠ c)) } }

/-- Domain d cut; clean: its drain has completed. -/
def Dev.cutDom (s : Dev) (d : Nat) (clean : Bool) : Dev :=
  let s :=
    if d = 31 then s.endUnlock
    else if 18 ≤ d ∧ d ≤ 25 then s.cutCore (d - 18) clean
    else if d = 26 ∨ d = 27 then s.cutL2 (d - 26) clean
    else if (d = 29 ∨ d = 30) ∧ !clean then (s.loseChan (d - 29)).drainLost d 0
    else s
  if d = 32 then s.setDom32 false
  else
    let s := s.setDom d false
    if 18 ≤ d ∧ d ≤ 27 then s.resetErr d else s.domFresh d

/-! ## Module reset and DORMANT (R42, R47, Table 18.5) -/

/-- What MRAM keeps through a reset: the records, the disturbance area and the counts of laps.  JRN's other registers stay
where `all` (PD32 in standby); the next boot takes the next indices from MRAM (R489). -/
def Dev.keepJrn (s old : Dev) (all : Bool) : Dev :=
  let s := (if all then RName.ofBlock 15 else [.JRN_WEARO, .JRN_WEARS, .JRN_WEARD]).foldl
    (fun s r => s.keepIdx old (fun _ => true) r) s
  let j := old.jrn
  let s := { s with jrn := { openP := j.openP, sealB := j.sealB, area := j.area, areaSeal := j.areaSeal, areaRecs := j.areaRecs,
                             areaNext := j.areaNext, scrubAt := j.scrubAt, scrubDone := j.scrubDone, ueWords := j.ueWords } }
  (s.fs F.JRN_STAT_DIRECT 0 0).jrnUnfl

/-- The module with every domain but PD00 and PD32 off: nothing of them is left.  Without a module reset (`pd00`) PD00's own
registers stay, and so does the world of every hive (R33); after one, PWR_STAT shows the input and the bulk as they are (R27). -/
def Dev.bare (s : Dev) (pd00 : Bool) : Dev :=
  let x := ({ s with jrn := { s.jrn with staged := [] } } : Dev).timeStart
  let l := s.lcs
  let t : Dev := {
    resp := s.resp, freeCtr := s.freeCtr, clk := s.clk, pwr := s.pwr
    time := { now := x, tickS := x / nsPerSec }
    lcs := { l with state := l.stateFuse, chal := none, refusals := 0, lockAt := none, mbi := [], mbo := [], mbBusy := none, mboWait := false } }
  let t := t.keepJrn s pd00
  let t := (RName.ofBlock 1).foldl (fun t r => t.keepIdx s (fun _ => decide (r = RName.LCS_NONCE)) r) t
  if pd00 then
    let t := (RName.ofBlock 2 ++ RName.ofBlock 29).foldl (fun t r => t.keepIdx s (fun _ => true) r) t
    let t := (RName.ofBlock 17).foldl (fun t r => t.keepIdx s (fun i => decide (i = 9)) r) t
    let t := errRegs.foldl (fun t r => t.keepIdx s (fun j => decide (errDom j = 0) || decide (errDom j = 32)) r) t
    let t := t.each (List.range 8) (fun t h => t.fs F.HIV_CTL_WORLD h (s.hiveWorld h))
    { t with wdg := { s.wdg with first := [], us := s.wdg.us.filter (fun x => decide (x.1 = 9)) } }
  else
    let keep := [F.PWR_STAT_INQ, F.PWR_STAT_PF, F.PWR_STAT_BULKOK, F.PWR_STAT_BULKWARN]
    keep.foldl (fun t f => t.fs f 0 (s.fg f 0)) t

/-- A module reset (R42): cause 0 power-up, 1 MRST_N, 2 RESET MODULE. -/
def Dev.moduleReset (s : Dev) (cause : Nat) : Dev :=
  let hot := s.fg F.PWR_STAT_OTL 0
  let dormant := decide (s.mode = 0)
  let t := (s.bare false).newNonce
  let t := t.fs F.PWR_STAT_OTL 0 (if dormant ∧ cause ≠ 0 then hot else 0)
  let pf := decide (t.fg F.PWR_STAT_PF 0 = 1)
  { t with pwr := { pfN := !pf, mrstLow := s.pwr.mrstLow, wakeCause := cause } }

/-- Mode, status and domains as DORMANT has them, PD00's other registers kept. -/
def Dev.dormantRegs (s : Dev) : Dev :=
  let t := ((s.bare true).fs F.PWR_STAT_MODE 0 0).fs F.PWR_STAT_PREV 0 0
  (((t.fs F.PWR_STAT_HUSTEP 0 0).wr .PWR_DSTAT0 0 0).setDom32 false).wr .PWR_SEQ 0 0

/-- The module in DORMANT (R41, R47). -/
def Dev.toDormant (s : Dev) : Dev :=
  { s.dormantRegs with
    pwr := { pfN := s.pwr.pfN, mrstLow := s.pwr.mrstLow, stay := s.pwr.stay, inputSeen := s.pwr.inputSeen,
             wakeCause := s.pwr.wakeCause, otSeen := s.pwr.otSeen } }

end Sys2Proof.Machine
end

