-- ==== Sys2Proof/Machine/Timers.lean ====
section
/-!
DEFINITION. Sys2Proof/Machine/Timers.lean: captures, the FAULT_N pin and the timers (05 R120 to R130, 16 R436).
-/

namespace Sys2Proof.Machine

/-! ## Timestamp unit (R129) -/

/-- Channel n meets its event, with the timebase value x. -/
def Dev.tsuChannel (s : Dev) (x n : Nat) : Dev :=
  if s.fg F.TSU_CST_FULL n = 1 then (s.fs F.TSU_CST_OVR n 1).inc F.TSU_CST_LOST n
  else s.edge (32 + n) (fun s => (s.wr64 .TSU_CAP_LO .TSU_CAP_HI n (stamp x)).fs F.TSU_CST_FULL n 1)

/-- Every channel that selects event `code` (Table 5.5) captures x. -/
def Dev.tsuCap (s : Dev) (code x : Nat) : Dev :=
  if s.domOn 2 then
    s.each ((List.range 64).filter (fun n => decide (s.fg F.TSU_CCFG_SRC n = code))) (fun s n => s.tsuChannel x n)
  else s

/-- A write of TSU_SWTRIG: a bit of the other world's channel is ignored (R130). -/
def Dev.swTrig (s : Dev) (rq : Req) (half : Nat) (v : Word) : Dev :=
  let x := s.time.now
  s.each ((onesBelow 32 v.toNat).map (fun b => 32 * half + b)) (fun s n =>
    if s.fg F.TSU_CCFG_SRC n = 8 ∧ (rq.svp ∨ rq.ofWorld (s.fg F.TSU_CCFG_WORLD n)) then s.tsuChannel x n else s)

/-- TSU_SWTRIG (R129, R130). -/
def execTsuSwtrig (rq : Req) (half : Nat) (v : Word) (s : State) : Host.Outcome State Fault Refusal :=
  run (wellFormed (.tsuSwtrig rq half v)) (fun s => s.gate rq 7 (4 * half) 2 true (fun s => (s.swTrig rq half v).ok 0)) s

/-! ## FAULT_N (R436) -/

/-- Some driver holds FAULT_N low, or PD00 has stopped (R478). -/
def Dev.faultLow (s : Dev) : Bool :=
  !s.pwr.powered || s.svp.bootFail || decide (s.lcs.state = 4) || decide (s.fg F.SVP_STAT_DOWN 0 = 1) || s.svp.fltMis ||
    (List.range 8).any (fun m =>
      decide (s.fg F.HLT_MON_VAL_STATE (67 + m) = 2) && (s.fg F.HLT_MON_CFG_ACTION (67 + m)).testBit 1) ||
    decide (s.fg F.WDG_STAT_FAULT 9 = 1)

/-- An effect, with the capture of event 0x81 when FAULT_N falls with it. -/
def Dev.faultEdge (s : Dev) (f : Dev → Dev) : Dev :=
  let t := f s
  if !s.faultLow && t.faultLow then t.tsuCap 0x81 t.time.now else t

/-! ## Timers (R120 to R128) -/

/-- Run-time state of timer k. -/
def Dev.tmr (s : Dev) (k : Nat) : TmrSt := SMap.get (fun _ => {}) s.timers k
/-- Timer k changed. -/
def Dev.onTmr (s : Dev) (k : Nat) (f : TmrSt → TmrSt) : Dev := { s with timers := SMap.mod (fun _ => {}) s.timers k f }

/-- A bit of TMR_STAT set by an event, and the captures that select it. -/
def Dev.tmrEvt (s : Dev) (k bit code : Nat) : Dev :=
  (s.edge (16 + k) (fun s => s.wr .TMR_STAT k (s.rd .TMR_STAT k ||| BitVec.ofNat 32 (2 ^ bit)))).tsuCap code s.time.now

/-- Step 1 of R121: what was written since the previous counter clock takes effect. -/
def Dev.tmrPending (s : Dev) (k : Nat) : Dev :=
  let buf := decide (s.fg F.TMR_CTL_TOPBUF k = 1)
  let s := s.cond (!buf) (fun s => s.fs F.TMR_STAT_TOPPEND k 0)
  s.onTmr k (fun x =>
    { x with
      top := if buf then x.top else x.pTop.getD x.top
      pTop := if buf then x.pTop else none
      cmp := (List.range 4).foldl (fun m c =>
        match SMap.get (fun _ => none) x.pCmp c with
        | some v => SMap.set (fun _ => 0) m c v
        | none => m) x.cmp
      pCmp := []
      dir := x.pDir.getD x.dir
      pDir := none })

/-- What a step of the count gives: count, direction of the step (down is true), whether the next step is down, wrap or
bottom, top-turn, SHORTTOP, and whether the count moved. -/
structure TmrStep where
  cnt   : Nat
  down  : Bool := false
  nextDown : Bool := false
  wrap  : Bool := false
  turn  : Bool := false
  short : Bool := false
  moved : Bool := true
  deriving DecidableEq, Repr

/-- Step 2 of R121 in up-wrap mode (R122, R127). -/
def upStep (imm : Bool) (cnt top : Nat) : TmrStep :=
  if imm && decide (top < cnt) then { cnt := 0, wrap := true, short := true }
  else if cnt = top then { cnt := 0, wrap := true }
  else { cnt := (cnt + 1) % 2 ^ 32 }

/-- Step 2 of R121 in up/down mode (R123, R127). -/
def upDownStep (imm down : Bool) (cnt top : Nat) : TmrStep :=
  if down then
    if cnt ≤ 1 then { cnt := 0, down := true, wrap := decide (top ≠ 0), moved := decide (cnt = 1) }
    else { cnt := cnt - 1, down := true, nextDown := true }
  else if imm && decide (top < cnt) then { cnt := cnt - 1, down := true, nextDown := decide (1 < cnt), turn := true, short := true }
  else if top = 0 then { cnt := 0, moved := false }
  else if cnt = top then { cnt := cnt - 1, down := true, nextDown := decide (1 < cnt), wrap := decide (cnt = 1) }
  else
    let c := (cnt + 1) % 2 ^ 32
    { cnt := c, nextDown := decide (c = top), turn := decide (c = top) }

/-- Compare unit c of timer k against the new count and the direction of the step (R124). -/
def Dev.tmrCompare (s : Dev) (k : Nat) (st : TmrStep) (c : Nat) : Dev :=
  let x := s.tmr k
  let d := bits x.dir.toNat (2 * c + 1) (2 * c)
  let sel := decide (d = 3) || decide (d = (if st.down then 2 else 1))
  if st.moved && sel && decide ((SMap.get (fun _ => 0) x.cmp c).toNat = st.cnt) then s.tmrEvt k c (0x40 + 4 * k + c) else s

/-- A counter clock of timer k, and of the timers above it that count its events (R121, R125). -/
def Dev.tmrClock (s : Dev) (k : Nat) : Nat → Dev
  | 0 => s
  | n + 1 =>
    let s := s.tmrPending k
    let x := s.tmr k
    let imm := decide (s.fg F.TMR_CTL_TOPBUF k = 0)
    let cnt := (s.rd .TMR_CNT k).toNat
    let st := if s.fg F.TMR_CTL_MODE k = 0 then upStep imm cnt x.top.toNat
      else upDownStep imm (!x.startUp && decide (s.fg F.TMR_STAT_DIR k = 1)) cnt x.top.toNat
    let s := (s.wr .TMR_CNT k (BitVec.ofNat 32 st.cnt)).fs F.TMR_STAT_DIR k (b2n st.nextDown)
    let s := s.onTmr k (fun x => { x with startUp := false })
    let s := s.each (List.range 4) (fun s c => s.tmrCompare k st c)
    let s := s.cond st.wrap (fun s => s.tmrEvt k 4 (0x10 + k))
    let s := s.cond st.turn (fun s => s.tmrEvt k 5 (0x20 + k))
    let s := s.cond st.short (fun s => s.tmrEvt k 6 0xFFFF)
    let s := if st.wrap && !imm then
        (s.onTmr k (fun x => { x with top := x.pTop.getD x.top, pTop := none })).fs F.TMR_STAT_TOPPEND k 0
      else s
    let j := k + 1
    let casc := s.fg F.TMR_CTL_CASC j
    let event := decide (casc = 0) && st.wrap || decide (casc = 1) && st.turn || decide (casc = 2) && (st.wrap || st.turn)
    if j < 16 ∧ s.fg F.TMR_CTL_EN j = 1 ∧ s.fg F.TMR_CTL_CLKSEL j = 3 ∧ event then s.tmrClock j n else s

/-- The next edge of timer k's divided clock: the first multiple of 2 ^ PRE clocks not yet counted (log 45). -/
def Dev.tmrEdge (s : Dev) (k : Nat) : Nat :=
  let p := 2 ^ s.fg F.TMR_CTL_PRE k
  (max s.clk ((s.tmr k).lastClk + 1) + p - 1) / p * p

/-- A counter clock of timer k from the divider (CLKSEL 0): the clock passes on to it. -/
def Dev.tmrDivided (s : Dev) (k : Nat) : Dev :=
  let e := s.tmrEdge k
  (((s.moveClk e).onTmr k (fun x => { x with lastClk := e })).tmrClock k 16)

/-- Whether timer k runs on a counter clock of this CLKSEL. -/
def Dev.tmrOn (s : Dev) (sel k : Nat) : Bool :=
  decide (s.fg F.TMR_CTL_EN k = 1) && decide (s.fg F.TMR_CTL_CLKSEL k = sel)

/-- Every timer whose counter clock is TICK (1) or HALF (2) counts. -/
def Dev.tmrAll (s : Dev) (sel : Nat) : Dev := s.each ((List.range 16).filter (s.tmrOn sel)) (fun s k => s.tmrClock k 16)

/-- TIMER_COUNT: a counter clock of timer k from the divider; TICK, HALF and another timer's event clock the timers that
select them (R120, R121). -/
def execTimerCount (k : Nat) (s : State) : Host.Outcome State Fault Refusal :=
  run (wellFormed (.timerCount k)) (fun s => if s.domOn 2 && s.tmrOn 0 k then s.tmrDivided k else s) s

/-- A read of TMR_CNT: the count, and the count of the next timer latched with it (R125). -/
def Dev.tmrCntRead (s : Dev) (k : Nat) : Dev :=
  let v := (s.rd .TMR_CNT k).toNat
  (if k < 15 then s.wr .TMR_LATCH (k + 1) (s.rd .TMR_CNT (k + 1)) else s).ok v

/-- TMR_CNT_READ (R125). -/
def execTmrCntRead (rq : Req) (k : Nat) (s : State) : Host.Outcome State Fault Refusal :=
  run (wellFormed (.tmrCntRead rq k)) (fun s => s.gate rq 6 (0x108 + 0x40 * k) 2 true (fun s => s.tmrCntRead k)) s

/-- Whether a requester may write timer k's registers: its world, or the SVP (R130). -/
def Dev.tmrMay (s : Dev) (rq : Req) (k : Nat) : Bool := rq.svp || rq.ofWorld (s.fg F.TMR_CTL_WORLD k)

/-- A write of TMR_CTL: setting EN starts the timer counting up (R128). -/
def Dev.tmrCtlWrite (s : Dev) (k : Nat) (v : Word) : Dev :=
  let on := v.getLsbD 0 && decide (s.fg F.TMR_CTL_EN k = 0)
  let s := s.wr .TMR_CTL k (BitVec.ofNat 32 (v.toNat % 2 ^ 11 + 2 ^ 16 * s.fg F.TMR_CTL_WORLD k))
  s.cond on (fun s => (s.onTmr k (fun x => { x with startUp := true })).fs F.TMR_STAT_DIR k 0)

/-- A write of TMR_TOP: pending until the next counter clock, or, buffered, until the next wrap or bottom (R126). -/
def Dev.tmrTopWrite (s : Dev) (k : Nat) (v : Word) : Dev :=
  ((s.wr .TMR_TOP k v).onTmr k (fun x => { x with pTop := some v })).fs F.TMR_STAT_TOPPEND k (s.fg F.TMR_CTL_TOPBUF k)

/-- A write of TMR_CMPc. -/
def Dev.tmrCmpWrite (s : Dev) (k c : Nat) (v : Word) : Dev :=
  (s.wr .TMR_CMP (4 * k + c) v).onTmr k (fun x => { x with pCmp := SMap.set (fun _ => none) x.pCmp c (some v) })

/-- A write of TMR_CDIR. -/
def Dev.tmrCdirWrite (s : Dev) (k : Nat) (v : Word) : Dev :=
  let v := BitVec.ofNat 32 (v.toNat % 256)
  (s.wr .TMR_CDIR k v).onTmr k (fun x => { x with pDir := some v })

/-- Timers and channels as a reset leaves them. -/
def Dev.tmrReset (s : Dev) : Dev := { s with timers := [] }

end Sys2Proof.Machine
end

