-- ==== Sys2Proof/Machine/Supervisor.lean ====
section
/-!
DEFINITION. Sys2Proof/Machine/Supervisor.lean: restarts of the supervisor pair (03 R50 to R56).
-/

namespace Sys2Proof.Machine

/-- What an interrupted long command leaves: a casting load leaves its engine halted and not admitted, a staging leaves the
shadow banks invalid (R53). -/
def Dev.interruptLong (s : Dev) (c : LongCmd) : Dev :=
  if c.opcode = 0x0401 then s.fs F.PE_CTL_ADMIT c.arg 0
  else if c.opcode = 0x0801 then s.each (onesBelow 64 c.arg) (fun s e => s.fs F.SET_ESTAT_SHVALID e 0)
  else s

/-- Every outstanding long command ended by the supervisor's stop, with one status (R52, R56). -/
def Dev.dropLongs (s : Dev) (status : Nat) : Dev :=
  let s := (s.cmd.long.filter LongCmd.long).foldl Dev.interruptLong s
  s.abortLongs LongCmd.long status

/-- What every restart cause records (R50, R51): the count, the cause, the time and a journal record. -/
def Dev.restartNote (s : Dev) (cause : Nat) : Dev :=
  let s := (s.inc F.SVP_MISCNT_COUNT 0).fs F.SVP_STAT_CAUSE 0 cause
  let s := s.wr64 .SVP_RSTTIME_LO .SVP_RSTTIME_HI 0 (stamp s.time.now)
  s.record 0x0006 0 0 (leBytes 4 cause)

/-- The pair stopped, its cores at reset and its RAM cleared (R50, R54). -/
def Dev.svpStop (s : Dev) : Dev :=
  let s := (s.fs F.SVP_STAT_RUN 0 0).onCore 8 (fun c => c.reset 8)
  { s with svp := { s.svp with ram := [] } }

/-- The second cause within 10 s: no restart, the DOWN state (R56). -/
def Dev.svpDown (s : Dev) : Dev :=
  let s := (s.fs F.SVP_STAT_DOWN 0 1).fs F.SVP_STAT_RESTART 0 0
  let s := { s with svp := { s.svp with restarting := false, fltMis := false } }
  ((s.dropLongs stSvpDown).mbStop stSvpDown).proxyAll

/-- A restart begins: the CMD block answers, the unlock ends, the nonce is new (R52, R65, R69); a boot starts again from its
first step and keeps its nonce (R492). -/
def Dev.svpBegin (s : Dev) : Dev :=
  let s := s.fs F.SVP_STAT_RESTART 0 1
  let s := { s with svp := { s.svp with restarting := true, fltMis := decide (s.fg F.SVP_CTL_FLTMIS 0 = 1) } }
  let s := s.endUnlock.disarmAll
  let s := ((s.dropLongs stSvpRestart).mbStop stSvpRestart).proxyAll
  if s.mode = 1 then
    let s := ((s.fs F.LCS_BOOT_STEP 0 1).fs F.LCS_BOOT_FAIL 0 0).fs F.LCS_BOOT_ITEM 0 0
    { s with svp := { s.svp with restarted := true, bootFail := false, waitAt := none } }
  else s.newNonce

/-- Whether a cause falls in the 10 s after the latest one (R56). -/
def Dev.secondCause (s : Dev) : Bool :=
  match s.svp.lastCause with
  | none => false
  | some k => decide (s.clk < k + 10 * nsPerSec)

/-- A restart cause: 1 mismatch, 2 SVP watchdog, 3 fault in M-level entry, 4 SVP RAM uncorrectable (R50, Table 3.7). -/
def Dev.svpRestart (s : Dev) (cause : Nat) : Dev :=
  if !s.domOn 1 || decide (s.fg F.SVP_STAT_DOWN 0 = 1) then s
  else s.faultEdge (fun s =>
    let second := s.secondCause
    let k := s.clk
    let s := (s.restartNote cause).svpStop
    let s := { s with svp := { s.svp with lastCause := some k } }
    if second then s.svpDown else s.svpBegin)

/-- The restart completes (R54): firmware serves rings again. -/
def Dev.svpUp (s : Dev) : Dev :=
  let s := (s.fs F.SVP_STAT_RESTART 0 0).fs F.SVP_STAT_RUN 0 1
  let s := { s with svp := { s.svp with restarting := false, fltMis := false } }
  s.ptpDrain

/-- Accepted firmware of slot i copied into SVP RAM and running (Table 3.1, R60, R61). -/
def Dev.fwStart (s : Dev) (i : Nat) (x : Image) : Dev :=
  let s := ((s.fs F.SVP_STAT_SLOTB 0 i).fs F.SVP_FWVER_SECVER 0 x.secver).fs F.SVP_FWVER_BUILD 0 x.build
  (s.loadRam i).svpUp

/-- The end of a restart (Table 3.1): a firmware slot is accepted again and runs; with none, the restart does not complete
(DEDUCED, log 29). -/
def Dev.svpAgain (s : Dev) : Dev :=
  match s.imagePick false with
  | some (i, x) => s.fwStart i x
  | none => s

/-- LOCKSTEP_MISMATCH, or another restart cause by its code (R50). -/
def execLockstepMismatch (cause : Nat) (s : State) : Host.Outcome State Fault Refusal :=
  run (wellFormed (.lockstepMismatch cause)) (fun s => if 1 ≤ cause ∧ cause ≤ 4 then s.svpRestart cause else s) s

/-- SVP_RESTART_COMPLETE (R54); a restart in BOOT completes with boot step 2 (R492). -/
def execSvpRestartComplete (s : State) : Host.Outcome State Fault Refusal :=
  run (wellFormed .svpRestartComplete) (fun s => if s.svp.restarting && decide (s.mode ≠ 1) then s.svpAgain else s) s

end Sys2Proof.Machine
end

