-- ==== Sys2Proof/Machine/Power.lean ====
section
/-!
DEFINITION. Sys2Proof/Machine/Power.lean: the supply, the changes of mode, the wake sequencer and the HOLDUP sequence up to
its drain window and from its write-back on (02 R25 to R49, R486 to R488; 05 Table 5.5).
-/

namespace Sys2Proof.Machine

/-! ## Changes of mode -/

/-- Triggers of a change of mode, as the MODE record codes them: 0 wake sequencer, 1 end of boot, 2 MODE command, 3 PD00. -/
def trigWake : Nat := 0
def trigBoot : Nat := 1
def trigCommand : Nat := 2
def trigPd00 : Nat := 3

/-- The mode in force changes; a watchdog pause and an unlock follow it (R69, R433).  The end of BOOT is no tick instant: an
unlock that the new mode does not permit ends at that change itself, since SVP debug is never available in SERVICE (R69;
DESIGN CHOICE, log 79). -/
def Dev.setMode (s : Dev) (new : Nat) : Dev :=
  let s := s.wdgSyncAll
  let old := s.mode
  let s := s.fs F.PWR_STAT_MODE 0 new
  let s := { s with pwr := { s.pwr with lastMode := old } }
  s.cond (s.domOn 1) Dev.checkUnlock

/-- A MODE record. -/
def Dev.modeRecord (s : Dev) (old new trig : Nat) : Dev := s.record 0x0001 0 0 (leBytes 4 old ++ leBytes 4 new ++ leBytes 4 trig)

/-- A change of mode with its record. -/
def Dev.changeMode (s : Dev) (new trig : Nat) : Dev :=
  let old := s.mode
  (s.setMode new).modeRecord old new trig

/-! ## HOLDUP (R43, R44) -/

/-- HOLDUP reaches a step: HUSTEP and its record. -/
def Dev.huStep (s : Dev) (n : Nat) : Dev := (s.fs F.PWR_STAT_HUSTEP 0 n).record 0x0002 0 0 (leBytes 4 n ++ leBytes 4 s.pwr.cause)

/-- Numbers of the core domains that are on. -/
def Dev.coresOn (s : Dev) : List Nat := (List.range 8).filter (fun m => s.domOn (18 + m))

/-- A set of numbers as a bit mask. -/
def maskOf (l : List Nat) : Nat := l.foldl (fun a m => a + 2 ^ m) 0

/-- What HOLDUP keeps for the return, and the JOURNAL SEAL commands that it serves first (R45, R272). -/
def Dev.huKeep (s : Dev) (cause : Nat) : Dev :=
  let on := s.coresOn
  let doms := (s.rd .PWR_DSTAT0 0).toNat
  let seals := (s.cmd.long.filter (fun c => decide (c.opcode = 0x0D02))).map (fun c => c.arg)
  { s with pwr := { s.pwr with
      coresBefore := maskOf on, relBefore := maskOf (on.filter (fun m => (s.core m).released)), domsBefore := doms
      winEnd := on.isEmpty, ack := 0, cause := cause, ot := decide (cause = 2), pend := none, sealFirst := seals
      pfN := s.pwr.pfN && decide (cause = 2) } }

/-- DEBUG STEP ends with TEST (R240): no hive steps, and a command that waits for a later tick ends here. -/
def Dev.stepEnd (s : Dev) (n : Nat) : Dev :=
  let s := s.each (List.range 64) (fun s e => s.wr .PE_STEP e 0)
  let s := s.each (List.range 8) (fun s h => s.onHive h (fun x => { x with stepStart := none }))
  s.setLong (s.cmd.long.map (fun c => if c.opcode = 0x1202 then { c with arg2 := min c.arg2 (n - 1) } else c))

/-- HOLDUP starts, with cause 0 input loss, 1 BULK_WARN, 2 over-temperature: step 1 whole, then step 2 (R27, R39, R43). -/
def Dev.holdupStart (s : Dev) (cause : Nat) : Dev :=
  let x := s.time.now
  let old := s.mode
  let s := s.wdgSyncAll.huKeep cause
  let s := s.abortLongs (fun c => !c.long) stAbortedHoldup
  let s := s.wr64 .PWR_HUTIME_LO .PWR_HUTIME_HI 0 (stamp x)
  let s := s.cond (decide (cause ≠ 2)) (fun s => s.tsuCap 0x80 x)
  let s := s.each s.coresOn (fun s m => s.icPend m)
  let s := s.cond (decide (old = 4)) (fun s => s.stepEnd (s.tickNo + 1))
  let s := (s.setMode 5).fs F.PWR_STAT_PREV 0 old
  let s := (s.setEvt 8 F.PWR_EVT_HUSTART 0).modeRecord old 5 trigPd00
  let s := s.huStep 1
  let s := s.endUnlock
  let s := s.cond (s.domOn 31) (fun s => s.cutDom 31 true)
  let s := { s with wdg := { s.wdg with wdg9Stop := true }, svp := { s.svp with waitAt := none } }
  s.huStep 2

/-- Whether the mode is one that HOLDUP can start from (Table 2.5). -/
def Dev.holdupFrom (s : Dev) : Bool := decide (1 ≤ s.mode) && decide (s.mode ≤ 4)

/-- A core domain cut without waiting further (R44): its undrained entries are lost. -/
def Dev.cutNow (s : Dev) (m : Nat) : Dev :=
  let c := s.core m
  s.cutDom (18 + m) (decide (c.undrained = 0) && c.l1d.all (fun x => decide (x.2 ≠ 2)))

/-- The shutdown starts, with cause 0 BULK_LOW, 1 over-temperature (R44, R47): before step 5 the staged records are lost and
the record goes directly to MRAM. -/
def Dev.shutdownStart (s : Dev) (cause : Nat) : Dev :=
  let n := s.tickNo
  let early := decide (s.fg F.PWR_STAT_HUSTEP 0 < 5)
  let s := (s.fs F.PWR_STAT_HUSTEP 0 6)
  let s := { s with pwr := { s.pwr with shutCause := cause, shutTick := some n } }
  let lost := fun (s : Dev) =>
    let n := fun w => (s.jrn.staged.filter (fun r => decide (r.world = w))).length
    let s := (s.setJrnNext 0 (s.jrnNext 0 - n 0)).setJrnNext 1 (s.jrnNext 1 - n 1)
    (Dev.jrnUnfl { s with jrn := { s.jrn with staged := [] } }).fs F.JRN_STAT_DIRECT 0 1
  let s := s.cond early lost
  let s := s.record 0x0003 0 0 (leBytes 4 cause)
  s.cond early (fun s => s.each s.coresOn Dev.cutNow)

/-! ## The supply (R25 to R27, R41, R486, R487) -/

/-- INPUT_QUALIFICATION (R25): 40 ms of input have charged the bulk to BULK_OK (R486); an unpowered module powers up. -/
def execInputQualification (s : State) : Host.Outcome State Fault Refusal :=
  run (wellFormed .inputQualification) (fun s =>
    let up := s.pwr.powered
    let s := ((s.fs F.PWR_STAT_INQ 0 1).fs F.PWR_STAT_PF 0 0)
    let s := (s.fs F.PWR_STAT_BULKOK 0 1).fs F.PWR_STAT_BULKWARN 0 0
    if !up then s.moduleReset 0
    else if s.mode = 0 then
      { s with pwr := { s.pwr with pfN := true, stay := s.pwr.stay && !s.pwr.inputSeen } }
    else s) s

/-- INPUT_LOSS (R25). -/
def execInputLoss (s : State) : Host.Outcome State Fault Refusal :=
  run (wellFormed .inputLoss) (fun s =>
    if !s.pwr.powered then s
    else
      let s := (s.fs F.PWR_STAT_INQ 0 0).fs F.PWR_STAT_PF 0 1
      if s.mode = 0 then { s with pwr := { s.pwr with pfN := false, inputSeen := true } }
      else s.cond s.holdupFrom (fun s => s.holdupStart 0)) s

/-- The bulk is below BULK_WARN. -/
def Dev.bulkFlags (s : Dev) : Dev := (s.fs F.PWR_STAT_BULKOK 0 0).fs F.PWR_STAT_BULKWARN 0 1

/-- BULK_WARN (R26). -/
def execBulkWarn (s : State) : Host.Outcome State Fault Refusal :=
  run (wellFormed .bulkWarn) (fun s =>
    if !s.pwr.powered then s else s.bulkFlags.cond s.holdupFrom (fun s => s.holdupStart 1)) s

/-- BULK_LOW (R26, R44, R47): the fall has passed BULK_WARN too. -/
def execBulkLow (s : State) : Host.Outcome State Fault Refusal :=
  run (wellFormed .bulkLow) (fun s =>
    if !s.pwr.powered then s
    else
      let s := s.bulkFlags.cond s.holdupFrom (fun s => s.holdupStart 1)
      s.cond (decide (s.mode = 5) && decide (s.fg F.PWR_STAT_HUSTEP 0 < 6)) (fun s => s.shutdownStart 0)) s

/-- PD00_STOP (R487): only in DORMANT, with the input absent. -/
def execPd00Stop (s : State) : Host.Outcome State Fault Refusal :=
  run (wellFormed .pd00Stop) (fun s =>
    if s.pwr.powered && decide (s.mode = 0) && decide (s.fg F.PWR_STAT_INQ 0 = 0) then
      { s with pwr := { s.pwr with powered := false, pfN := false } }
    else s) s

/-- MRST_N_PULSE of a length in ns (R42). -/
def execMrstNPulse (ns : Nat) (s : State) : Host.Outcome State Fault Refusal :=
  run (wellFormed (.mrstNPulse ns)) (fun s => if s.pwr.powered && decide (1000 ≤ ns) then s.moduleReset 1 else s) s

/-! ## Leaving DORMANT (Table 2.5, R41) -/

/-- Every die sensor has been sampled and reads below 115 C. -/
def Dev.dieCool (s : Dev) : Bool :=
  (List.range 12).all (fun n => decide (s.fg F.HLT_MON_VAL_SAMPLED n = 1) &&
    decide (sext 16 (s.fg F.HLT_MON_VAL_VALUE n) < 920))

/-- Whether the wake sequencer may leave DORMANT; it finds the bulk at BULK_OK. -/
def Dev.mayWake (s : Dev) : Bool :=
  s.pwr.powered && decide (s.mode = 0) && decide (s.fg F.PWR_STAT_INQ 0 = 1) && !s.pwr.mrstLow && !s.pwr.stay &&
    (decide (s.fg F.PWR_STAT_OTL 0 = 0) || s.dieCool)

/-- The wake sequencer starts BOOT: PD00's own bit and PD01's are set (Table 2.11), the ROM enables WDG8 (R434). -/
def Dev.wakeUp (s : Dev) : Dev :=
  let s := s.wr .PWR_DSTAT0 0 (s.rd .PWR_DSTAT0 0 ||| 1)
  let s := (s.fs F.PWR_STAT_BULKOK 0 1).fs F.PWR_STAT_BULKWARN 0 0
  let s := (s.fs F.PWR_WAKE_CAUSE 0 s.pwr.wakeCause).fs F.PWR_STAT_OTL 0 0
  let s := { s with pwr := { s.pwr with pfN := true } }
  let s := ((s.setMode 1).setDom32 false).switchOn 1
  ((s.fs F.LCS_BOOT_STEP 0 1).fs F.WDG_CTL_EN 8 1).wdgZero 8

/-- WAKE_SEQUENCER (R36, R41). -/
def execWakeSequencer (s : State) : Host.Outcome State Fault Refusal :=
  run (wellFormed .wakeSequencer) (fun s => if s.mayWake then s.wakeUp else s) s

/-! ## The domain sequencer (R28, R29) -/

/-- PWR_SEQ as it stands. -/
def Dev.seqSync (s : Dev) : Dev :=
  let d := match s.pwr.act with
    | some x => x.2
    | none => 0
  ((s.fs F.PWR_SEQ_DOMAIN 0 d).fs F.PWR_SEQ_BUSY 0 (b2n s.pwr.act.isSome)).fs F.PWR_SEQ_QDEPTH 0 s.pwr.seqQ.length

/-- A request refused (R29). -/
def Dev.seqErr (s : Dev) : Dev := s.setEvt 8 F.PWR_EVT_SEQERR 0

/-- A domain that the HOLDUP sequence itself cuts and brings back. -/
def holdupOwns (d : Nat) : Bool := (decide (18 ≤ d) && decide (d ≤ 27)) || (decide (29 ≤ d) && decide (d ≤ 31))

/-- Whether the sequencer refuses a switch of d (R29, Table 2.2). -/
def Dev.seqRefuses (s : Dev) (on : Bool) (d : Nat) : Bool :=
  if on then !s.domReady d || (decide (s.mode = 5) && holdupOwns d) else decide (d = 0) || decide (d = 28) || s.domUsed d

/-- A drain starts: a core stops at its bundle boundary, a hive's engines halt, a debug session closes, DRAM devices enter
self-refresh (Table 2.2). -/
def Dev.drainStart (s : Dev) (d : Nat) : Dev :=
  if 18 ≤ d ∧ d ≤ 25 then s.onCore (d - 18) (fun c => { c with stopped := true })
  else if 9 ≤ d ∧ d ≤ 16 then s.each ((List.range 8).map (fun j => 8 * (d - 9) + j)) (fun s e => s.peHalt e)
  else if d = 31 then s.endUnlock.fs F.TRC_STAT_FROZEN 0 1
  else if d = 29 ∨ d = 30 then s.fs F.DMC_CSTAT_SREF (d - 29) 1
  else s

/-- Requests served in order until one is in progress; a request for what is so already needs nothing. -/
def Dev.seqServe (s : Dev) : Nat → Dev
  | 0 => s.seqSync
  | n + 1 =>
    match s.pwr.act, s.pwr.seqQ with
    | none, x :: q =>
      let s := { s with pwr := { s.pwr with seqQ := q } }
      if s.domOn x.2 = x.1 then s.seqServe n
      else if s.seqRefuses x.1 x.2 then s.seqErr.seqServe n
      else
        let s := ({ s with pwr := { s.pwr with act := some x } } : Dev)
        (s.cond (!x.1) (fun s => s.drainStart x.2)).seqSync
    | _, _ => s.seqSync

/-- Requests queued; the queue holds 33, and one more is refused. -/
def Dev.seqPut (s : Dev) (l : List (Bool × Nat)) : Dev :=
  let s := l.foldl (fun s x =>
    if s.pwr.seqQ.length < 33 then ({ s with pwr := { s.pwr with seqQ := s.pwr.seqQ ++ [x] } } : Dev) else s.seqErr) s
  s.seqServe 34

/-- The switch or drain in progress is over, and the next request is served. -/
def Dev.seqDone (s : Dev) : Dev := ({ s with pwr := { s.pwr with act := none } } : Dev).seqServe 34

/-- A write of PWR_DON0, DON1, DOFF0 or DOFF1.  Of several bits of one write, which R28's order of writing does not order, the
lower domain is queued first (DESIGN CHOICE, log 26). -/
def Dev.seqWrite (s : Dev) (on : Bool) (half : Nat) (v : Word) : Dev :=
  s.seqPut (if half = 0 then (onesBelow 32 v.toNat).map (fun d => (on, d)) else if v.getLsbD 0 then [(on, 32)] else [])

/-- PWR_DON (R28, R48). -/
def execPwrDon (rq : Req) (half : Nat) (v : Word) (s : State) : Host.Outcome State Fault Refusal :=
  run (wellFormed (.pwrDon rq half v)) (fun s => s.gate rq 2 (0x18 + 4 * half) 0 rq.svp (fun s => (s.seqWrite true half v).ok 0)) s

/-- PWR_DOFF (R28, R48). -/
def execPwrDoff (rq : Req) (half : Nat) (v : Word) (s : State) : Host.Outcome State Fault Refusal :=
  run (wellFormed (.pwrDoff rq half v)) (fun s => s.gate rq 2 (0x20 + 4 * half) 0 rq.svp (fun s => (s.seqWrite false half v).ok 0)) s

/-- DOMAIN_POWER_GOOD (R28, R33). -/
def execDomainPowerGood (s : State) : Host.Outcome State Fault Refusal :=
  run (wellFormed .domainPowerGood) (fun s =>
    match s.pwr.act with
    | some (true, d) => (s.switchOn d).seqDone
    | _ => s) s

/-- Domains whose drain cannot pass its limit (Table 2.2). -/
def drainBounded (d : Nat) : Bool := decide (d = 32) || decide (d = 7) || decide (d = 8) || decide (d = 31)

/-- Ports of domain d. -/
def domPorts (d : Nat) : List Nat := if d = 3 ∨ d = 4 then [d - 3] else if d = 5 then [2, 3] else []

/-- Ports with a frame in transmission that domain d waits for: its own ports, or for PD17 a frame of the publisher. -/
def Dev.sending (s : Dev) (d : Nat) : List Nat :=
  if d = 17 then (List.range 4).filter (fun p => match (s.port p).tx with
    | some f => decide (f.kind = 0) || decide (f.kind = 3)
    | none => false)
  else (domPorts d).filter (fun p => (s.port p).tx.isSome)

/-- Whether the drain of domain d still waits (Table 2.2): the transfers of a hive, a frame in transmission. -/
def Dev.drainOpen (s : Dev) (d : Nat) : Bool :=
  (decide (9 ≤ d) && decide (d ≤ 16) && !(s.hive (d - 9)).dmaQ.isEmpty) || !(s.sending d).isEmpty

/-- What a cut at the drain limit leaves undone (Table 2.2): transfers marked incomplete, frames truncated on the wire. -/
def Dev.drainMiss (s : Dev) (d : Nat) : Dev :=
  let l := s.sending d
  let s := if 9 ≤ d ∧ d ≤ 16 then
      ({ s with pwr := { s.pwr with dmaCut := (s.hive (d - 9)).dmaQ.map (fun x => (x.eng, x.slot)) } } : Dev)
    else s
  let s := ({ s with pwr := { s.pwr with truncated := l } } : Dev)
  if d = 17 then s.each l (fun s p => s.onPort p (fun x => { x with tx := none })) else s

/-- DRAIN_LIMIT (R30, R31): the domain is cut anyway. -/
def execDrainLimit (s : State) : Host.Outcome State Fault Refusal :=
  run (wellFormed .drainLimit) (fun s =>
    match s.pwr.act with
    | some (false, d) => if drainBounded d then s else ((s.drainMiss d).cutDom d false).seqDone
    | _ => s) s

/-! ## HOLDUP from the acknowledgements on -/

/-- A write of PWR_HUACK: ACm's own bit, in step 2 (R43, Table 2.15). -/
def Dev.huAck (s : Dev) (rq : Req) (v : Word) : Dev :=
  match rq.core with
  | none => s
  | some m =>
    if v.getLsbD m ∧ s.mode = 5 ∧ s.fg F.PWR_STAT_HUSTEP 0 = 2 then
      let a := setBit s.pwr.ack m true
      { s with pwr := { s.pwr with ack := a, winEnd := s.coresOn.all (fun i => a.testBit i) } }
    else s

/-- PWR_HUACK (R43, R48). -/
def execPwrHuack (rq : Req) (v : Word) (s : State) : Host.Outcome State Fault Refusal :=
  run (wellFormed (.pwrHuack rq v)) (fun s => s.gate rq 2 0x44 0 true (fun s => (s.huAck rq v).ok 0)) s

/-- The system cache's dirty lines written to DRAM; nothing of it is kept. -/
def Dev.syscOut (s : Dev) : Dev :=
  let s := s.mem.sysc.foldl (fun s x => if x.2.dirty then s.setDramLine x.1 x.2.data.toNat else s) s
  { s with mem := { s.mem with sysc := [] } }

/-- HOLDUP_WRITE_BACK_DONE: the end of step 3 (R43), with what stops at step 4 (R95, R271). -/
def execHoldupWriteBackDone (s : State) : Host.Outcome State Fault Refusal :=
  run (wellFormed .holdupWriteBackDone) (fun s =>
    if s.mode = 5 ∧ s.fg F.PWR_STAT_HUSTEP 0 = 3 then
      let s := s.each ([26, 27].filter s.domOn) (fun s d => s.cutDom d true)
      s.syscOut.capStop.huStep 4
    else s) s

/-- The finished records that HOLDUP may seal: those a JOURNAL SEAL named, then the newest first (R272). -/
def Dev.huSealList (s : Dev) : List Nat :=
  let open' := (s.jrn.caps.filter (fun c => decide (c.st = 2) && !c.sealedDone && decide (c.size ≤ sealMost))).map (fun c => c.id)
  (s.pwr.sealFirst.filter (fun i => decide (i ∈ open'))) ++ (open'.filter (fun i => decide (i ∉ s.pwr.sealFirst))).reverse

/-- Records sealed as long as step 4 stays within 4 MiB. -/
def Dev.huSeal (s : Dev) (left : Nat) : List Nat → Dev
  | [] => s
  | i :: l =>
    match s.findCap (fun c => decide (c.id = i)) with
    | none => s.huSeal left l
    | some (_, c) =>
      let n := c.size + 64
      if n ≤ left then ((s.sealRecord i).jrnFlush).huSeal (left - n) l else s

/-- HOLDUP_JOURNAL_FLUSH_DONE: the end of step 4 (R43, R268, R272), and the shutdown that over-temperature asks for (R47). -/
def execHoldupJournalFlushDone (s : State) : Host.Outcome State Fault Refusal :=
  run (wellFormed .holdupJournalFlushDone) (fun s =>
    if s.mode = 5 ∧ s.fg F.PWR_STAT_HUSTEP 0 = 4 then
      let n := 64 * s.jrn.staged.length
      let s := s.jrnFlush
      let s := s.cond (decide (s.fg F.JRN_CFG_HUSEAL 0 = 1)) (fun s => s.huSeal (sealMost - n) s.huSealList)
      let s := s.fs F.JRN_STAT_DIRECT 0 1
      let s := s.syscOut.each ([29, 30].filter s.domOn) (fun s d => s.cutDom d true)
      let s := s.huStep 5
      s.cond s.pwr.ot (fun s => s.shutdownStart 1)
    else s) s

/-! ## Return and shutdown -/

/-- The rings' worlds and system bits: the configuration store's item, or the blank store's rule (R72, R95). -/
def Dev.ringWorlds (s : Dev) : Dev :=
  let it := SMap.get (fun _ => {}) s.lcs.store 8
  if it.present && it.digestOk then
    let l := it.writes.filter (fun x => decide (x.1 = .CMD_RCFG))
    l.foldl (fun s x => (s.fs F.CMD_RCFG_WORLD x.2.1 (bits x.2.2.toNat 8 8)).fs F.CMD_RCFG_SYS x.2.1 (bits x.2.2.toNat 9 9)) s
  else
    let s := s.each (List.range 16) (fun s r => (s.fs F.CMD_RCFG_WORLD r 0).fs F.CMD_RCFG_SYS r 0)
    (s.fs F.CMD_RCFG_WORLD 0 s.svp.bootWorld).fs F.CMD_RCFG_SYS 0 1

/-- The return from HOLDUP ends it: mode, status, pin, watchdog and rings (R27, R45, R95, R434). -/
def Dev.huLeave (s : Dev) (prev : Nat) : Dev :=
  let s := ((s.setMode prev).fs F.PWR_STAT_PREV 0 0).fs F.PWR_STAT_HUSTEP 0 0
  let s := (s.fs F.PWR_STAT_BULKOK 0 1).fs F.PWR_STAT_BULKWARN 0 0
  let s := { s with pwr := { s.pwr with pfN := true }, wdg := { s.wdg with wdg9Stop := false } }
  let s := (s.wdgZero 9).setEvt 8 F.PWR_EVT_HURET 0
  let s := (s.each (List.range 16) Dev.ringInitial).setLong []
  (s.cond (decide (prev ≠ 1)) (fun s => s.fs F.PWR_WAKE_CAUSE 0 5)).modeRecord 5 prev trigPd00

/-- The domains that the return switches on, in order; a core that ran starts at its reset vector (R45). -/
def Dev.huDomains (s : Dev) : Dev :=
  let s := s.each [29, 30] (fun s d => (s.switchOn d).fs F.DMC_CSTAT_TRAINED (d - 29) 1)
  let s := s.each [26, 27] Dev.switchOn
  let s := s.fs F.JRN_STAT_DIRECT 0 0
  s.each (onesBelow 8 s.pwr.coresBefore) (fun s m =>
    let s := s.switchOn (18 + m)
    s.cond (s.pwr.relBefore.testBit m) (fun s => s.coreRelease m (s.core m).entry))

/-- A boot starts again from its first step (R492). -/
def Dev.bootAgain (s : Dev) : Dev :=
  let s := ((s.svpStop.fs F.LCS_BOOT_STEP 0 1).fs F.LCS_BOOT_FAIL 0 0).fs F.LCS_BOOT_ITEM 0 0
  { s with svp := { s.svp with restarted := true, bootFail := false, waitAt := none } }

/-- HOLDUP_RETURN (R45, R492). -/
def execHoldupReturn (s : State) : Host.Outcome State Fault Refusal :=
  run (wellFormed .holdupReturn) (fun s =>
    if s.mode = 5 ∧ s.fg F.PWR_STAT_HUSTEP 0 = 5 ∧ s.fg F.PWR_STAT_INQ 0 = 1 ∧ !s.pwr.ot then
      let prev := s.fg F.PWR_STAT_PREV 0
      let s := if prev = 1 then s else s.huDomains
      let s := (s.huLeave prev).ringWorlds
      if prev = 1 then s.bootAgain else s
    else s) s

/-- SHUTDOWN_DOMAIN_CUTS: every domain is cut and PD32 enters standby (R47); after over-temperature the module stays in
DORMANT (R41). -/
def execShutdownDomainCuts (s : State) : Host.Outcome State Fault Refusal :=
  run (wellFormed .shutdownDomainCuts) (fun s =>
    if s.mode = 5 ∧ s.fg F.PWR_STAT_HUSTEP 0 = 6 then
      let hot := decide (s.pwr.shutCause = 1)
      let again := decide (s.pwr.cause = 0) && decide (s.fg F.PWR_STAT_PF 0 = 0)
      let t := s.toDormant
      { t with pwr := { t.pwr with stay := hot, inputSeen := decide (s.fg F.PWR_STAT_INQ 0 = 0), wakeCause := if hot then 4 else 0
                                   pfN := t.pwr.pfN || again } }
    else s) s

end Sys2Proof.Machine
end

