-- ==== Sys2Proof/Machine/Ingest.lean ====
section
/-!
DEFINITION. Sys2Proof/Machine/Ingest.lean: the checks of sampled-value and GOOSE frames, placement and the stream switches
(06 R132 to R156).
-/

namespace Sys2Proof.Machine

/-! ## Counts of a failed step (Table 6.3) -/

/-- Step 4 failed, for the counter of the stream or subscription. -/
def Dev.badPdu (s : Dev) (drop : Fld) (i : Nat) : Dev :=
  ((s.inc F.ING_BADPDU_COUNT 0).setEvt 112 F.ING_EVT_BADPDU 0).inc drop i

/-- Step 5 failed. -/
def Dev.authFail (s : Dev) (drop : Fld) (i : Nat) : Dev :=
  ((s.inc F.ING_AUTHF_COUNT 0).setEvt 112 F.ING_EVT_AUTHF 0).inc drop i

/-- Step 7 failed. -/
def Dev.policed (s : Dev) (drop : Fld) (i : Nat) : Dev := (s.setEvt 112 F.ING_EVT_OVF 0).inc drop i

/-! ## Authentication (R137) -/

/-- The 32 octets of key slot k. -/
def Dev.keyOctets (s : Dev) (k : Nat) : List Byte := (List.range 8).flatMap (fun i => leBytes 4 (s.rd .ING_KEY_KEY (8 * k + i)).toNat)

/-- Whether a frame passes step 5 under AUTH code `auth`, key slot k and the subscription's world. -/
def Dev.authOk (s : Dev) (auth k w : Nat) (x : Option AuthExt) (octets : List Byte) : Bool :=
  if auth = 0 then true
  else match x with
    | none => false
    | some a =>
      s.ing.keys.contains k && decide (s.fg F.ING_KEY_WORLD_WORLD k = w) && decide (s.rd .ING_KEY_KID k = a.kid) &&
        authTagOk a auth (s.keyOctets k) octets

/-! ## Policer (R138) -/

/-- One frame of credit, in 1e-9 frames. -/
def oneFrame : Nat := 1000000000

/-- Credit after d ns at `num / den` units a ns. -/
def creditAfter (c d num den : Nat) : Nat := min (4 * oneFrame) (c + d * num / den)

/-! ## Streams: step 3 to 7 -/

/-- Whether stream st takes a frame with this header, APPID and svID on port p (step 3). -/
def Dev.svMatch (s : Dev) (p : Nat) (f : SvFrame) (st : Nat) : Bool :=
  s.sdEn st && decide (s.sdMac st = f.hdr.dst.toNat) && decide (s.sdAppid st = f.appid) &&
    (!s.sdVlanreq st || decide (f.hdr.vid = some (s.sdVid st))) && (s.sdPorts st).testBit p &&
    (match f.asdus with
     | a :: _ => decide ((crc32 a.svId) = s.sdCrc st)
     | [] => false)

/-- One ASDU as Table 6.1 requires it of stream st. -/
def Dev.asduOk (s : Dev) (st : Nat) (a : SvAsdu) : Bool :=
  decide (a.svId.length ≤ 64) && decide (crc32 a.svId = s.sdCrc st) && decide (a.smpCnt < s.sdRate st) &&
    decide (a.confRev.toNat = s.sdConfRev st) &&
    (decide (a.smpSynch ≤ 2) || (decide (5 ≤ a.smpSynch) && decide (a.smpSynch ≤ 254))) &&
    (match a.smpRate with
     | some r => decide (r = s.sdRate st)
     | none => true) &&
    (match a.smpMod with
     | some m => decide (m = 1)
     | none => true) &&
    decide (a.data.length = s.sdNch st)

/-- Step 4 for a sampled-value frame. -/
def Dev.svPduOk (s : Dev) (st : Nat) (f : SvFrame) : Bool :=
  svSpelled f && decide (f.noAsdu = s.sdNasdu st) && decide (f.asdus.length = f.noAsdu) && f.asdus.all (s.asduOk st)

/-- What a stream takes changes: a new run, and a gap (R136, R143). -/
def Dev.simChange (s : Dev) (st b : Nat) : Dev := ((s.fs F.ALN_SSTAT_SIMTAKEN st b).newRun st).countGap st

/-- Step 6: whether a frame of this simulation flag passes, and the first simulated one that a TEST subscription takes. -/
def Dev.simPass (s : Dev) (sel taken sim : Bool) : Bool :=
  if decide (s.effMode = 4) && sel then sim || !taken else !sim

/-- Step 7 of stream st. -/
def Dev.svCredit (s : Dev) (st : Nat) : Dev × Bool :=
  let x := s.strm st
  let a := s.clk
  let c := creditAfter x.credit (a - x.creditAt) (5 * s.sdRate st) (4 * max 1 (s.sdNasdu st))
  if oneFrame ≤ c then (s.onStrm st (fun x => { x with credit := c - oneFrame, creditAt := a }), true)
  else ((s.onStrm st (fun x => { x with credit := c, creditAt := a })).fs F.ALN_SSTAT_OVF st 1, false)

/-! ## Placement (R142 to R147) -/

/-- Synchronized class of an smpSynch value: 0 none, 1 local, 2 global (Table 6.1). -/
def synchClass (x : Nat) : Nat := if x = 0 then 0 else if x = 2 then 2 else 1

/-- QUAL of a received quality (R142). -/
def svQual (q : Word) : Nat := q.toNat % 2 ^ 14

/-- A received value scaled and rounded once to binary32 (R142). -/
def svScale (raw : Word) (scale : Nat) : Nat :=
  (fMulV f32 0 (fDec f64 (fOfInt f64 0 (sext 32 raw.toNat)).bits) (fDec f32 scale)).bits

/-- A received value scaled in binary64 (R146). -/
def svScale64 (raw : Word) (scale : Nat) : Nat :=
  (fMul f64 0 (fOfInt f64 0 (sext 32 raw.toNat)).bits (fCvt f32 f64 0 scale).bits).bits

/-- What one sample brings to every cell it writes: SIM, SYNC class, port, INVSRC, INTERP. -/
structure RowPlace where
  arrival : Nat
  flags   : Nat
  deriving DecidableEq, Repr

/-- The flags of a cell (Table 6.5) beside TEST and TQ. -/
def placeFlags (interp inv sim : Bool) (cls p : Nat) : Nat :=
  (if interp then flInterp else 0) + (if inv then flInvSrc else 0) + (if sim then flSim else 0) + cls * 2 ^ 7 +
    (if p % 2 = 1 then flPort else 0)

/-- The cells of a row written: channel of the comb, QUAL and VAL of each. -/
def Row.putCells (r : Row) (flags : Nat) (l : List (Nat × Nat × Nat)) : Row :=
  l.foldl (fun r x =>
    let fl := flags + (if x.2.1.testBit 11 then flTest else 0) + (if r.tq then flTq else 0)
    r.put x.1 (mkCell fl x.2.1 x.2.2)) r

/-- write_row of stream st (R147): the state, and whether the row was written.  A presented row, which an arrival stamp before
its deadline meets after a backward step alone, is left as it is and counted nowhere (DEDUCED, log 47). -/
def Dev.writeRow (s : Dev) (st m : Nat) (pl : RowPlace) (cells : List (Nat × Nat × Nat)) : Dev × Bool :=
  if s.rowHas m && (s.row (m % s.cmbD)).presented then (s, false)
  else if !s.rowWasOpened m then
    (((s.inc F.ALN_SEARLY_COUNT st).inc F.CMB_EARLYCNT_COUNT 0).setEvt 113 F.ALN_EVT_EARLY 0, false)
  else if tickAt s.F (m + s.cmbL) ≤ pl.arrival + 200 then
    ((((s.inc F.ALN_SLATE_COUNT st).inc F.CMB_LATECNT_COUNT 0).fs F.ALN_SSTAT_LATE st 1).setEvt 113 F.ALN_EVT_LATE 0, false)
  else
    let s := s.cond (s.rowHas m) (fun s => s.setRow (m % s.cmbD) ((s.row (m % s.cmbD)).putCells pl.flags cells))
    (s.fs F.ALN_SSTAT_LATE st 0, true)

/-- The mapped channels of a sample: comb channel, QUAL, VAL. -/
def Dev.directCells (s : Dev) (st : Nat) (data : List (Word × Word)) : List (Nat × Nat × Nat) :=
  (s.sdMapped st).filterMap (fun ch => (data[ch]?).map (fun x =>
    (s.sdChan st ch, svQual x.2, svScale x.1 (s.sdScale st ch))))

/-- A product and a sum in binary64. -/
def mul64 (a b : Nat) : Nat := (fMul f64 0 a b).bits
def add64 (a b : Nat) : Nat := (fAdd f64 0 a b).bits
def sub64 (a b : Nat) : Nat := (fSub f64 0 a b).bits
def div64 (a b : Nat) : Nat := (fDiv f64 0 a b).bits
def int64f (x : Int) : Nat := (fOfInt f64 0 x).bits

/-- Linear interpolation (R146). -/
def interpLinear (u v0 v1 : Nat) : Nat := add64 v0 (mul64 u (sub64 v1 v0))

/-- Cubic interpolation through samples k - 2, k - 1, k and k + 1 (R146). -/
def interpCubic (u va vb vc vd : Nat) : Nat :=
  let one := int64f 1
  let two := int64f 2
  let six := int64f 6
  let um := sub64 u one
  let up := add64 u one
  let u2 := add64 u two
  let neg := fun (x : Nat) => (fSignOp f64 true x).bits
  let wa := div64 (mul64 (neg u) (sub64 (mul64 u u) one)) six
  let wb := div64 (mul64 (mul64 u u2) um) two
  let wc := div64 (mul64 (mul64 (neg u2) up) um) two
  let wd := div64 (mul64 (mul64 u u2) up) six
  add64 (add64 (add64 (mul64 wa va) (mul64 wb vb)) (mul64 wc vc)) (mul64 wd vd)

/-- The validity of a combination of taps, and the other QUAL bits by OR (R146). -/
def combineQual (l : List Nat) : Nat :=
  let val := fun (q : Nat) => q % 4
  let v := if l.any (fun q => decide (val q = 1) || decide (val q = 2)) then 1
    else if l.any (fun q => decide (val q = 3)) then 3 else 0
  v + 4 * (l.foldl (fun a q => Nat.lor a (q / 4 % 2 ^ 12)) 0)

/-- Raw value and QUAL of channel ch in a tap. -/
def Tap.at (t : Tap) (ch : Nat) : Word × Nat := ((t.vals[ch]?).map (fun x => (x.1, x.2.toNat))).getD (0, 0)

/-- The cells that the taps, latest first, give at position u between the previous and the latest sample. -/
def Dev.interpCells (s : Dev) (st : Nat) (taps : List Tap) (u : Nat) : List (Nat × Nat × Nat) :=
  (s.sdMapped st).map (fun ch =>
    let sc := s.sdScale st ch
    let v := taps.map (fun t => svScale64 (t.at ch).1 sc)
    let q := combineQual (taps.map (fun t => (t.at ch).2))
    let x := match v with
      | [d, c, b, a] => interpCubic u a b c d
      | d :: c :: _ => interpLinear u c d
      | _ => 0
    (s.sdChan st ch, q, (fCvt f64 f32 0 x).bits))

/-- Interpolated placement into every tick of [tp, tau). -/
def Dev.placeInterp (s : Dev) (st : Nat) (taps : List Tap) (tp tau : Int) (pl : RowPlace) : Dev × Bool :=
  let first := if tp ≤ 0 then 0 else tickFrom s.F tp.toNat
  let n := if tau ≤ 0 then 0 else (tickFrom s.F tau.toNat) - first
  (List.range n).foldl (fun (p : Dev × Bool) i =>
    let m := first + i
    let u := f64OfRatio ((tickAt s.F m : Int) - tp).toNat (tau - tp).toNat
    let (s, w) := p.1.writeRow st m pl (p.1.interpCells st taps u)
    (s, p.2 || w)) (s, false)

/-- The instant of ASDU i of stream st in a frame of arrival stamp a, from its count or from the stamp (R145). -/
def Dev.svTau (s : Dev) (a st i cnt : Nat) (syn : Bool) : Int :=
  let rate := max 1 (s.sdRate st)
  if syn then
    let t := ((a / nsPerSec * nsPerSec + roundDiv (cnt * nsPerSec) rate : Nat) : Int) - s.sdDcorr st
    if (a : Int) < t then t - nsPerSec else t
  else (a : Int) - s.sdDcorr st - (roundDiv ((s.sdNasdu st - 1 - i) * nsPerSec) rate : Nat)

/-- Whether a sample continues the run of stream st (R143). -/
def Dev.continuesRun (s : Dev) (st cnt : Nat) (syn : Bool) (tau : Int) : Bool :=
  let x := s.strm st
  let rate := max 1 (s.sdRate st)
  decide (cnt = (s.fg F.ALN_SSTAT_LASTCNT st + 1) % rate) && (x.syn == syn) &&
    (match x.taps with
     | t :: _ => decide ((2 * rate : Nat) * (tau - t.tau) < (3 * nsPerSec : Nat))
     | [] => true)

/-- The run of stream st at n samples: its length and STATE. -/
def Dev.setRun (s : Dev) (st n : Nat) : Dev :=
  (s.fs F.ALN_SSTAT_RUN st n).fs F.ALN_SSTAT_STATE st (if n < s.sdReacq st then 1 else 2)

/-- A sample placed, once its run is long enough: directly, or by interpolation. -/
def Dev.placeSample (s : Dev) (p st : Nat) (a : SvAsdu) (sim syn : Bool) (tau : Int) : Dev :=
  let n := s.fg F.ALN_SSTAT_RUN st
  if n < s.sdReacq st then s
  else
    let inv := !syn && decide (s.sdSyncreq st ≠ 0)
    let cls := synchClass a.smpSynch
    let direct := syn && decide (s.sdRate st = s.F) && decide (s.sdDcorr st = 0)
    let need := if s.sdInterp st then 4 else 2
    let (s, w) :=
      if direct then
        s.writeRow st (tau.toNat / nsPerSec * s.F + a.smpCnt) ⟨s.rxStamp p, placeFlags false inv sim cls p⟩ (s.directCells st a.data)
      else if n < need then (s, false)
      else
        let taps := (s.strm st).taps.take need
        let tp := ((taps[1]?).map Tap.tau).getD tau
        s.placeInterp st taps tp tau ⟨s.rxStamp p, placeFlags true inv sim cls p⟩
    s.cond w (fun s => s.inc F.ALN_SGOOD_COUNT st)

/-- ASDU i of an accepted frame of stream st (R144, R145). -/
def Dev.svSample (s : Dev) (p st : Nat) (sim : Bool) (i : Nat) (a : SvAsdu) : Dev :=
  if a.smpCnt = s.fg F.ALN_SSTAT_LASTCNT st ∧ 0 < s.fg F.ALN_SSTAT_RUN st then s.inc F.ALN_SDUP_COUNT st
  else
    let req := s.sdSyncreq st
    let syn := decide (req ≠ 0) && decide (req ≤ synchClass a.smpSynch)
    if !syn && decide (req ≠ 0) && !s.sdUnsync st then (s.inc F.ALN_SDROP_COUNT st).setRun st 0
    else
      let tau := s.svTau (s.rxStamp p) st i a.smpCnt syn
      let gap := (s.strm st).hasLast && !s.continuesRun st a.smpCnt syn tau
      let s := s.cond gap (fun s => (s.newRun st).countGap st)
      let s := s.setRun st (min (s.fg F.ALN_SSTAT_RUN st + 1) 255)
      let tap : Tap := { tau := tau, vals := a.data.map (fun x => (x.1, BitVec.ofNat 16 (svQual x.2))) }
      let s := s.onStrm st (fun x => { x with taps := (tap :: x.taps).take 4, syn := syn, hasLast := true })
      (s.fs F.ALN_SSTAT_LASTCNT st a.smpCnt).placeSample p st a sim syn tau

/-- Steps 4 to 7 for a frame of stream st, and its samples in ASDU order. -/
def Dev.svTake (s : Dev) (p st : Nat) (f : SvFrame) : Dev :=
  if !s.svPduOk st f then s.badPdu F.ALN_SDROP_COUNT st
  else if !s.authOk (s.sdAuth st) (s.sdKey st) (s.sdWorld st) f.ext f.octets then s.authFail F.ALN_SDROP_COUNT st
  else
    let taken := decide (s.fg F.ALN_SSTAT_SIMTAKEN st = 1)
    if !s.simPass (s.sdSimsel st) taken f.sim then s.inc F.ING_SIMDROP_COUNT 0
    else
      let s := s.cond (f.sim && !taken) (fun s => s.simChange st 1)
      match s.svCredit st with
      | (s, false) => s.policed F.ALN_SDROP_COUNT st
      | (s, true) => (List.range f.asdus.length).foldl (fun s i =>
          match f.asdus[i]? with
          | some a => s.svSample p st f.sim i a
          | none => s) s

/-- A frame that the port has accepted: to ingest if a stream matches it (step 3), and otherwise to the host path. -/
def Dev.svIngest (s : Dev) (p : Nat) (f : SvFrame) (octets : List Byte) : Dev :=
  if 2 ≤ p then s.hostOrFilt p f.hdr octets
  else match (List.range s.nStream).find? (s.svMatch p f) with
    | none => (s.inc F.ING_UNSUB_COUNT 0).hostOrFilt p f.hdr octets
    | some st =>
      let copy := decide (s.fg F.ETH_CFG_COPYSUB p = 1)
      (s.svTake p st f).cond copy (fun s => s.hostRx p f.hdr octets)

/-- A sampled-value frame arrives at port p. -/
def Dev.svArrive (s : Dev) (p : Nat) (f : SvFrame) (octets : List Byte) : Dev :=
  if !s.portOn p then s
  else
    let (s, c) := s.rxCheck p f.hdr octets false
    s.portTake p f.hdr octets c (fun s => s.svIngest p f octets)

/-- SV_FRAME (R135). -/
def execSvFrame (port : Nat) (f : SvFrame) (s : State) : Host.Outcome State Fault Refusal :=
  run (wellFormed (.svFrame port f)) (fun s => s.svArrive port f f.octets) s

/-! ## GOOSE (R134, R154) -/

/-- Whether subscription g takes a frame (step 3). -/
def Dev.gooseMatch (s : Dev) (p : Nat) (f : GooseFrame) (g : Nat) : Bool :=
  s.gdEn g && decide (s.gdMac g = f.hdr.dst.toNat) && decide (s.gdAppid g = f.appid) && (s.gdPorts g).testBit p &&
    decide (crc32 f.gocbRef = s.gdw g 2)

/-- Step 4 for a GOOSE frame (Table 6.2). -/
def Dev.goosePduOk (s : Dev) (g : Nat) (f : GooseFrame) : Bool :=
  gooseSpelled f && decide (crc32 f.datSet = s.gdw g 3) && decide (f.confRev.toNat = s.gdw g 4) &&
    decide (f.numEntries = s.gdNmem g) && decide (f.members.length = f.numEntries) && decide (f.members.length ≤ 32) && !f.ndsCom

/-- Step 7 of subscription g. -/
def Dev.gooseCredit (s : Dev) (g : Nat) : Dev × Bool :=
  let x := s.gst g
  let a := s.clk
  let c := creditAfter x.credit (a - x.creditAt) 1000 1
  if oneFrame ≤ c then (s.onGst g (fun x => { x with credit := c - oneFrame, creditAt := a }), true)
  else (s.onGst g (fun x => { x with credit := c, creditAt := a }), false)

/-- VAL of a member; a member of a type that cannot be mapped gives none. -/
def memberVal (m : GMember) (raw : Bool) : Option Nat :=
  match m.ty with
  | 0 => some (if m.val = 0 then 0 else 0x3F800000)
  | 1 => some m.val.toNat
  | 2 => some (if raw then m.val.toNat else (fOfInt f32 0 (sext 32 m.val.toNat)).bits)
  | 3 => some (if raw then m.val.toNat else (fOfInt f32 0 m.val.toNat).bits)
  | 4 => some m.val.toNat
  | _ => none

/-- QUAL of a quality member: the first two bits of the string are the validity, the others follow in order. -/
def memberQual (m : GMember) : Nat :=
  if m.ty = 1 then
    let b := fun (i : Nat) => b2n (m.val.toNat.testBit (31 - i))
    b 1 + 2 * b 0 + (List.range 12).foldl (fun a i => a + b (i + 2) * 2 ^ (i + 2)) 0
  else m.val.toNat % 2 ^ 14

/-- The cell that mapping word w takes from a frame on port p, HELD, TQ and INVSRC left out. -/
def mappedCell (f : GooseFrame) (p w : Nat) : Option DWord :=
  (f.members[bits w 16 12]?).bind (fun m =>
    (memberVal m (bitAt w 23)).map (fun v =>
      let q := if bitAt w 22 then ((f.members[bits w 21 17]?).map memberQual).getD 0 else 0
      mkCell ((if q.testBit 11 then flTest else 0) + (if f.sim then flSim else 0) + (if p % 2 = 1 then flPort else 0)) q v))

/-- The window of subscription g closes (R154). -/
def Dev.gooseClose (s : Dev) (g : Nat) : Dev :=
  ((s.onGst g (fun x => { x with closed := true })).fs F.ALN_GSTAT_VALID g 0).setEvt 113 F.ALN_EVT_TALEXP 0

/-- Whether the window of subscription g is open and has come to its close. -/
def Dev.gooseDue (s : Dev) (g : Nat) : Bool :=
  (s.gst g).got && !(s.gst g).closed && decide ((s.gst g).closeAt ≤ s.time.now)

/-- A frame received on port p refreshes or opens the window. -/
def Dev.gooseWindow (s : Dev) (p g : Nat) (f : GooseFrame) : Dev :=
  let a := s.rxStamp p
  let s := s.onGst g (fun x => { x with got := true, force := false, closed := false, closeAt := a + f.tal * 1000000 })
  ((s.fs F.ALN_GSTAT_VALID g 1).wr .ALN_STNUM g (BitVec.ofNat 32 f.stNum)).wr .ALN_SQNUM g (BitVec.ofNat 32 f.sqNum)

/-- The new state written into every open row whose instant is at or after the arrival. -/
def Dev.gooseRows (s : Dev) (p g : Nat) : Dev :=
  s.each ((List.range (s.cmbL + 1)).map (fun i => s.tickNo + 1 - i)) (fun s m =>
    if s.rowHas m ∧ !(s.row (m % s.cmbD)).presented ∧ s.rxStamp p ≤ tickAt s.F m then
      let r := s.row (m % s.cmbD)
      s.setRow (m % s.cmbD) (((s.gdMaps g).filter (fun e => (s.gst g).has.contains e)).foldl (fun r e =>
        let v := SMap.get (fun _ => 0) (s.gst g).vals e
        r.put (s.gdEntry g e % 4096) (mkCell (cellFlags v + (if r.tq then flTq else 0)) (cellQual v) (cellVal v))) r)
    else s)

/-- A frame replaces the state of subscription g. -/
def Dev.gooseReplace (s : Dev) (p g : Nat) (f : GooseFrame) : Dev :=
  let vals := (s.gdMaps g).foldl (fun v e =>
    match mappedCell f p (s.gdEntry g e) with
    | some c => SMap.set (fun _ => 0) v e c
    | none => v) (s.gst g).vals
  let has := (s.gdMaps g).filter (fun e => (s.gst g).has.contains e || (mappedCell f p (s.gdEntry g e)).isSome)
  ((s.onGst g (fun x => { x with vals := vals, has := has })).gooseWindow p g f).gooseRows p g

/-- Whether number a is higher than b (R154). -/
def numHigher (a b : Nat) : Bool :=
  let d := (a + 2 ^ 32 - b) % 2 ^ 32
  decide (1 ≤ d) && decide (d < 2 ^ 31)

/-- An accepted frame: it replaces the state, refreshes the window, or is dropped. -/
def Dev.gooseState (s : Dev) (p g : Nat) (f : GooseFrame) : Dev :=
  let s := s.cond (s.gooseDue g) (fun s => s.gooseClose g)
  let x := s.gst g
  let st := (s.rd .ALN_STNUM g).toNat
  if !x.got || x.force || x.closed || numHigher f.stNum st then s.gooseReplace p g f
  else if f.stNum = st ∧ numHigher f.sqNum (s.rd .ALN_SQNUM g).toNat then s.gooseWindow p g f
  else s.inc F.ALN_GDROP_COUNT g

/-- Steps 4 to 7 for a frame of subscription g. -/
def Dev.gooseTake (s : Dev) (p g : Nat) (f : GooseFrame) : Dev :=
  if !s.goosePduOk g f then s.badPdu F.ALN_GDROP_COUNT g
  else if !s.authOk (s.gdAuth g) (s.gdKey g) (s.gdWorld g) f.ext f.octets then s.authFail F.ALN_GDROP_COUNT g
  else if !s.simPass (s.gdSimsel g) (decide (s.fg F.ALN_GSTAT_SIMTAKEN g = 1)) f.sim then s.inc F.ING_SIMDROP_COUNT 0
  else
    let s := s.cond f.sim (fun s => s.fs F.ALN_GSTAT_SIMTAKEN g 1)
    match s.gooseCredit g with
    | (s, false) => s.policed F.ALN_GDROP_COUNT g
    | (s, true) => s.gooseState p g f

/-- A frame that the port has accepted: to ingest if a subscription matches it, and otherwise to the host path. -/
def Dev.gooseIngest (s : Dev) (p : Nat) (f : GooseFrame) (octets : List Byte) : Dev :=
  match (List.range s.nGoose).find? (s.gooseMatch p f) with
  | none => (s.inc F.ING_UNSUB_COUNT 0).hostOrFilt p f.hdr octets
  | some g =>
    let copy := decide (s.fg F.ETH_CFG_COPYSUB p = 1)
    (s.gooseTake p g f).cond copy (fun s => s.hostRx p f.hdr octets)

/-- A GOOSE frame arrives at port p. -/
def Dev.gooseArrive (s : Dev) (p : Nat) (f : GooseFrame) (octets : List Byte) : Dev :=
  if !s.portOn p then s
  else
    let (s, c) := s.rxCheck p f.hdr octets false
    s.portTake p f.hdr octets c (fun s => s.gooseIngest p f octets)

/-- GOOSE_FRAME (R135). -/
def execGooseFrame (port : Nat) (f : GooseFrame) (s : State) : Host.Outcome State Fault Refusal :=
  run (wellFormed (.gooseFrame port f)) (fun s => s.gooseArrive port f f.octets) s

/-- VALIDITY_WINDOW_CLOSE: the timebase reaches the close of an open window (R154). -/
def execValidityWindowClose (g : Nat) (s : State) : Host.Outcome State Fault Refusal :=
  run (wellFormed (.validityWindowClose g)) (fun s =>
    if s.domOn 7 ∧ (s.gst g).got ∧ !(s.gst g).closed then (s.moveTo (s.gst g).closeAt).gooseClose g else s) s

/-! ## Stream switches (R155 to R157) -/

/-- A 32-bit word of a table. -/
def tabWord (t : List Byte) (off : Nat) : Nat := leNat ((t.drop off).take 4)

/-- Offset of descriptor i, streams first, and of key entry n. -/
def descOff (i : Nat) : Nat := 64 + 64 * i
def tabStreams (t : List Byte) : Nat := leNat ((t.drop 4).take 2)
def tabGooses (t : List Byte) : Nat := leNat ((t.drop 6).take 2)
def tabKeys (t : List Byte) : Nat := leNat ((t.drop 8).take 2)
def keyOff (t : List Byte) (n : Nat) : Nat := descOff (tabStreams t + tabGooses t) + 48 * n

/-- The 16 words of descriptor i of a bank of descriptors taken from a table, or cleared. -/
def Dev.loadDesc (s : Dev) (r : RName) (i : Nat) (src : Option (List Byte × Nat)) : Dev :=
  s.each (List.range 16) (fun s w =>
    s.wr r (16 * i + w) (r.wordBits (16 * i + w) &&& BitVec.ofNat 32 (match src with
      | some (t, off) => tabWord t (off + 4 * w)
      | none => 0)))

/-- Key slot n loaded from its entry, or from the secret slot that it names (R137). -/
def Dev.loadKey (s : Dev) (t : List Byte) (n : Nat) : Dev :=
  let o := keyOff t n
  let ref := tabWord t (o + 4)
  let key := if ref = 0xFFFFFFFF then (t.drop (o + 8)).take 32
    else ((gcmOpen s.sealKey (SMap.get (fun _ => {}) s.lcs.secrets ref)).getD [] ++ List.replicate 32 0).take 32
  let s := s.wr .ING_KEY_KID n (BitVec.ofNat 32 (tabWord t o))
  let s := s.fs F.ING_KEY_WORLD_WORLD n (leNat ((t.drop (o + 40)).take 1))
  s.each (List.range 8) (fun s i => s.wr .ING_KEY_KEY (8 * n + i) (BitVec.ofNat 32 (leNat ((key.drop (4 * i)).take 4))))

/-- World of each comb channel as the subscriptions of the table map it. -/
def Dev.chWorlds (s : Dev) : Dev :=
  let sv := (List.range s.nStream).flatMap (fun st => if s.sdWorld st = 1 then (s.sdMapped st).map (s.sdChan st) else [])
  let gs := (List.range s.nGoose).flatMap (fun g => if s.gdWorld g = 1 then (s.gdMaps g).map (fun e => s.gdEntry g e % 4096) else [])
  let l := sv ++ gs
  s.each (List.range 128) (fun s w =>
    s.wr .CMB_CHWORLD w (BitVec.ofNat 32 ((List.range 32).foldl (fun a b => if l.contains (32 * w + b) then a + 2 ^ b else a) 0)))

/-- A stream table taken up: descriptors, keys, channel worlds; every subscription starts anew. -/
def Dev.applyTable (s : Dev) (t : List Byte) : Dev :=
  let ns := tabStreams t
  let ng := tabGooses t
  let s := s.each (List.range 512) (fun s i => s.loadDesc .ING_SD i (if i < ns then some (t, descOff i) else none))
  let s := s.each (List.range 256) (fun s i => s.loadDesc .ING_GD i (if i < ng then some (t, descOff (ns + i)) else none))
  let s := (s.fs F.ING_STAT_NSTREAM 0 ns).fs F.ING_STAT_NGOOSE 0 ng
  let s := s.each (List.range (tabKeys t)) (fun s n => s.loadKey t n)
  let s := { s with ing := { s.ing with keys := List.range (tabKeys t), streams := [], gooses := [] } }
  let s := s.each (List.range 512) (fun s st => (s.fs F.ALN_SSTAT_SIMTAKEN st 0).restartRun st)
  let s := s.each (List.range 256) (fun s g => (s.fs F.ALN_GSTAT_SIMTAKEN g 0).fs F.ALN_GSTAT_VALID g 0)
  s.chWorlds

/-- A bit of a descriptor word set. -/
def Dev.descBit (s : Dev) (r : RName) (i bit : Nat) (b : Bool) : Dev :=
  s.wr r i (BitVec.ofNat 32 (setBit (s.rd r i).toNat bit b))

/-- A subscription stops taking simulated frames: for a stream a new run and a gap (R136). -/
def Dev.simStop (s : Dev) (i : Nat) : Dev :=
  if i < 512 then (if s.fg F.ALN_SSTAT_SIMTAKEN i = 1 then s.simChange i 0 else s)
  else s.fs F.ALN_GSTAT_SIMTAKEN (i - 512) 0

/-- Every subscription stops taking simulated frames: the module leaves TEST (R136). -/
def Dev.simStopAll (s : Dev) : Dev :=
  s.each (List.range s.nStream ++ (List.range s.nGoose).map (fun g => 512 + g)) Dev.simStop

/-- One scheduled change takes effect: the flush it asks for comes at its tick. -/
def Dev.applySwitch (s : Dev) (x : StreamSwitch) : Dev :=
  let i := x.stream
  let due := fun (s : Dev) => ({ s with time := { s.time with combDue := true } } : Dev)
  match x.kind with
  | 0 => due (s.applyTable x.table)
  | 1 =>
    if i < 512 then due ((s.descBit .ING_SD (16 * i + 5) 17 x.on).restartRun i)
    else due ((s.descBit .ING_GD (16 * (i - 512) + 5) 15 x.on).onGst (i - 512) (fun g => { g with force := true }))
  | _ =>
    let s := if i < 512 then s.descBit .ING_SD (16 * i + 5) 16 x.on else s.descBit .ING_GD (16 * (i - 512) + 5) 14 x.on
    if x.on then s else s.simStop i

/-- Every change that is due at tick instant x, in order of scheduling. -/
def Dev.applySwitches (s : Dev) (x : Nat) : Dev :=
  let l := s.ing.switches.filter (fun c => decide (c.due ≤ x))
  let s := l.foldl Dev.applySwitch s
  { s with ing := { s.ing with switches := s.ing.switches.filter (fun c => decide (x < c.due)) } }

/-- STREAM_SWITCH: the timebase reaches the switch tick of the earliest change, the tick in progress or the next one (R156). -/
def execStreamSwitch (s : State) : Host.Outcome State Fault Refusal :=
  run (wellFormed .streamSwitch) (fun s =>
    match s.ing.switches with
    | [] => s
    | c :: _ =>
      let x := tickAt s.F (tickFrom s.F c.due)
      if x ≤ s.tickTime then s.applySwitches s.tickTime
      else if x ≤ tickAt s.tickF (s.tickNo + 1) then (s.moveTo x).applySwitches x else s) s

/-- COMB_WINDOW_READ: an offset in the comb read window (R153). -/
def execCombWindowRead (rq : Req) (off size : Nat) (s : State) : Host.Outcome State Fault Refusal :=
  run (wellFormed (.combWindowRead rq off size)) (fun s => s.byFence rq (fun s => s.combWindow rq off size)) s

end Sys2Proof.Machine
end

