-- ==== Sys2Proof/Machine/Time.lean ====
section
/-!
DEFINITION. Sys2Proof/Machine/Time.lean: lock states, sources, steering, the time inputs, leap seconds and PPS_OUT (05 R100 to
R111, R117, R491).
-/

namespace Sys2Proof.Machine

/-! ## Rate changes (R117) -/

/-- The second in TKG_EFFSEC. -/
def Dev.effSec (s : Dev) : Nat := s.fg F.TKG_EFFSEC_LO_SEC 0 + s.fg F.TKG_EFFSEC_HI_SEC 0 * 2 ^ 32

/-- The armed change takes effect, in COMMISSION (and in BOOT, where the restored time item arms it, R492); in another mode ARM
is cleared and the rate stays (DEDUCED, log 44).  The same rate again is no change. -/
def Dev.applyRate (s : Dev) : Dev :=
  let old := s.fg F.TKG_RATE_CODE 0
  let new := s.fg F.TKG_CTL_NEXT 0
  let s := s.fs F.TKG_CTL_ARM 0 0
  if new = old ∨ (s.mode ≠ 1 ∧ s.mode ≠ 2) then s
  else
    let s := s.record 0x0012 0 0 (leBytes 4 old ++ leBytes 4 new ++ leBytes 8 s.effSec)
    let s := (s.fs F.TKG_RATE_CODE 0 new).fs F.TKG_BUDGET_CYC 0 (nsPerSec / max 1 (rateHz new))
    let s := s.edge 10 (fun s => s.fs F.TKG_STAT_CHANGED 0 1)
    { s with time := { s.time with rateDue := true, oldRate := old } }

/-- A write of TKG_CTL: codes 6 and 7 leave ARM clear, and a second whose top has passed is late (R117). -/
def Dev.tkgCtlWrite (s : Dev) (v : Word) : Dev :=
  let next := bits v.toNat 3 1
  let s := s.fs F.TKG_CTL_NEXT 0 next
  if v.getLsbD 0 ∧ next < 6 then
    if s.effSec * nsPerSec ≤ s.time.now then (s.fs F.TKG_CTL_ARM 0 0).edge 10 (fun s => s.fs F.TKG_STAT_ARMLATE 0 1)
    else s.fs F.TKG_CTL_ARM 0 1
  else s.fs F.TKG_CTL_ARM 0 0

/-! ## Lock states (R102, R104) -/

/-- 16 s in clocks. -/
def avgClocks : Nat := 16 * nsPerSec

/-- The latest of a list of segments, `left` clocks of them at most. -/
def trimSegs : Nat → List (Nat × Int) → List (Nat × Int)
  | _, [] => []
  | left, x :: l => if left = 0 then [] else (min left x.1, x.2) :: trimSegs (left - min left x.1) l

/-- The frequency correction in force until now in LOCKED put among the last 16 s (R104). -/
def Dev.segClose (s : Dev) : Dev :=
  if s.fg F.TMB_STAT_STATE 0 = 2 then
    let k := s.clk
    let l := trimSegs avgClocks ((k - s.time.segAt, sext 32 (s.rd .TMB_FREQ 0).toNat) :: s.time.lockSegs)
    { s with time := { s.time with lockSegs := l, segAt := k } }
  else s

/-- The frequency correction averaged over the last 16 s in LOCKED, rounded; the present one if it was never LOCKED. -/
def Dev.freqMean (s : Dev) : Word :=
  let n := s.time.lockSegs.foldl (fun a x => a + x.1) 0
  if n = 0 then s.rd .TMB_FREQ 0
  else BitVec.ofNat 32 (toBits 32 (roundDivI (s.time.lockSegs.foldl (fun a x => a + (x.1 : Int) * x.2) 0) n))

/-- The servo writes the frequency word anew: a free value within 200 ppm (log 13). -/
def Dev.servo (s : Dev) : Dev :=
  let s := s.segClose
  let v : Int := ((Config.servoFreq s.freeCtr).toNat % 102400001 : Nat) - (51200000 : Int)
  (s.wr .TMB_FREQ 0 (BitVec.ofNat 32 (toBits 32 v))).draw

/-- The event bit of a state entered. -/
def lockEvt (old new : Nat) : Option Fld :=
  if new = 2 then some F.TMB_EVT_LOCK
  else if new = 3 then some F.TMB_EVT_HOLD
  else if new = 1 then some F.TMB_EVT_ACQ
  else if old = 3 then some F.TMB_EVT_FREE
  else none

/-- A change of lock state, its event and its TIME_STATE record; HOLDOVER keeps the frequency averaged over the last 16 s in
LOCKED (R104). -/
def Dev.setLock (s : Dev) (new : Nat) : Dev :=
  let old := s.fg F.TMB_STAT_STATE 0
  if old = new then s
  else
    let s := s.segClose.fs F.TMB_STAT_STATE 0 new
    let k := s.clk
    let s := { s with time := { s.time with
      cnt100 := if new = 1 then 0 else s.time.cnt100, holdAt := if new = 3 then k else s.time.holdAt
      segAt := k, lockSegs := if new = 2 then [] else s.time.lockSegs } }
    let s := s.cond (decide (new = 3)) (fun s => s.wr .TMB_FREQ 0 s.freqMean)
    let s := match lockEvt old new with
      | some f => s.setEvt 9 f 0
      | none => s
    s.record 0x0010 0 0 (leBytes 4 old ++ leBytes 4 new ++ leBytes 4 (s.fg F.TMB_STAT_SRC 0))

/-! ## Sources (R103) -/

/-- The priority list, unused entries left out. -/
def Dev.srcList (s : Dev) : List Nat :=
  ((List.range 8).map (fun i => bits (s.rd (if i < 4 then .TMB_SRC0 else .TMB_SRC1) 0).toNat (8 * (i % 4) + 7) (8 * (i % 4)))).filter
    (fun c => decide (c ≠ 0))

/-- LOSSTO in clocks: 0 acts as 1 (Table 5.10). -/
def Dev.lossTo (s : Dev) : Nat := max 1 (s.fg F.TMB_CFG_LOSSTO 0) * nsPerSec

/-- Clock of the latest valid measurement of source c. -/
def Dev.lastMeas (s : Dev) (c : Nat) : Option Nat := SMap.get (fun _ => none) s.time.lastMeas c

/-- Whether source c delivers valid measurements now. -/
def Dev.srcLive (s : Dev) (c : Nat) : Bool :=
  match s.lastMeas c with
  | some k => decide (s.clk < k + s.lossTo)
  | none => false

/-- Consecutive valid measurements of source c. -/
def Dev.srcCnt (s : Dev) (c : Nat) : Nat := SMap.get (fun _ => 0) s.time.cnt c

/-- The count of source c set. -/
def Dev.setSrcCnt (s : Dev) (c n : Nat) : Dev := { s with time := { s.time with cnt := SMap.set (fun _ => 0) s.time.cnt c n } }

/-- Source c selected. -/
def Dev.selectSrc (s : Dev) (c : Nat) : Dev :=
  if s.fg F.TMB_STAT_SRC 0 = c then s
  else
    let s := s.fs F.TMB_STAT_SRC 0 c
    ({ s with time := { s.time with cnt100 := 0 } } : Dev).setEvt 9 F.TMB_EVT_SRCCHG 0

/-- Place of a source in the list. -/
def rankIn (l : List Nat) (c : Nat) : Nat := l.findIdx (fun x => decide (x = c))

/-- The source that the list gives: while the selected one is listed and live it stays, unless one above it has delivered 8
consecutive valid measurements; else the first live one (R103). -/
def Dev.srcBest (s : Dev) : Option Nat :=
  let l := s.srcList
  let sel := s.fg F.TMB_STAT_SRC 0
  if l.contains sel && s.srcLive sel then
    some (((l.take (rankIn l sel)).find? (fun c => s.srcLive c && decide (8 ≤ s.srcCnt c))).getD sel)
  else l.find? s.srcLive

/-- The list searched again: its source, or HOLDOVER. -/
def Dev.reselect (s : Dev) : Dev :=
  match s.srcBest with
  | some c => s.selectSrc c
  | none =>
    let s := s.selectSrc 0
    if s.fg F.TMB_STAT_STATE 0 = 1 ∨ s.fg F.TMB_STAT_STATE 0 = 2 then s.setLock 3 else s

/-- A measurement of listed source c: it is selected when nothing else is, or after 8 in a row above the selected one. -/
def Dev.srcChoose (s : Dev) (c : Nat) : Dev :=
  let l := s.srcList
  let sel := s.fg F.TMB_STAT_SRC 0
  if !l.contains sel || !s.srcLive sel then s.reselect
  else if rankIn l c < rankIn l sel ∧ 8 ≤ s.srcCnt c then s.selectSrc c
  else s

/-! ## Step (R106, R119, R491) -/

/-- NEXT copied into OFS (R110). -/
def Dev.applyLeap (s : Dev) : Dev :=
  ((s.fs F.TMB_UTCOFS_OFS 0 (s.fg F.TMB_UTCOFS_NEXT 0)).fs F.TMB_UTCSEC_LO_SEC 0 0).fs F.TMB_UTCSEC_HI_SEC 0 0

/-- The second in TMB_UTCSEC; 0: no change is pending. -/
def Dev.utcSec (s : Dev) : Nat := s.fg F.TMB_UTCSEC_LO_SEC 0 + s.fg F.TMB_UTCSEC_HI_SEC 0 * 2 ^ 32

/-- End of the present PPS_OUT pulse (R111). -/
def Dev.ppsEnd (s : Dev) : Nat := s.time.ppsAt + min 1000 (s.fg F.TMB_PPSOUT_WIDTH 0) * 1000

/-- Numbers put in the order of a key. -/
def byKey (k : Nat → Nat) (l : List Nat) : List Nat :=
  (sortNat (l.map (fun x => k x * 2 ^ 10 + x))).map (fun y => y % 2 ^ 10)

/-- Retransmission instants that the step passes: one frame each, the next one counted from the clock of the step. -/
def Dev.skipRetrans (s : Dev) : Dev :=
  s.each (List.range 128) (fun s b =>
    match (s.pblk b).next with
    | some x =>
      if x ≤ s.time.now ∧ s.fg F.PUB_CFG_EN b = 1 then
        let s := s.pubRetransmit b
        let k := s.time.now
        s.onPub b (fun p => { p with next := some (k + p.interval) })
      else s
    | none => s)

/-- What the values skipped by a forward step from old held (R491). -/
def Dev.stepSkips (s : Dev) (old : Nat) : Dev :=
  let now := s.time.now
  let within := fun (x : Nat) => decide (old < x) && decide (x ≤ now)
  let skipped := within (halfAt s.tickF s.tickNo)
  let s := if skipped then { s with time := { s.time with halfDone := true } } else s
  let pts := byKey (fun k => s.fg F.TRG_PP_P k) ((List.range 32).filter (fun k => s.pointDue k && within (s.pairPoint k)))
  let s := s.each pts Dev.publishPoint
  let s := s.cond (decide (s.utcSec ≠ 0) && within (s.utcSec * nsPerSec)) Dev.applyLeap
  let s := s.cond (decide (s.fg F.TKG_CTL_ARM 0 = 1) && within (s.effSec * nsPerSec)) Dev.applyRate
  let s := s.skipRetrans
  let s := if s.time.ppsHigh && decide (s.ppsEnd ≤ now) then { s with time := { s.time with ppsHigh := false } } else s
  s.each ((List.range s.nGoose).filter s.gooseDue) Dev.gooseClose

/-- The timebase written in one clock. -/
def Dev.tmbStep (s : Dev) (ofs : Int) : Dev :=
  let old := s.time.now
  let new := ((old : Int) - ofs).toNat
  let s := { s with time := { s.time with now := new, slew := 0, slewAcc := 0, flushDue := true } }
  let s := (s.setEvt 9 F.TMB_EVT_STEP 0).edge 10 (fun s => s.fs F.TKG_STAT_STEPPED 0 1)
  let s := s.record 0x0011 0 0 (leBytes 8 (stamp old) ++ leBytes 8 (stamp new))
  s.cond (decide (old < new)) (fun s => s.stepSkips old)

/-! ## Measurements (R102, R106, R107) -/

/-- Step threshold in ns: 0 acts as 1 us. -/
def Dev.stepThr (s : Dev) : Nat := max 1 (s.fg F.TMB_CFG_STEPTHR 0) * 1000

/-- An offset of the selected source steers the timebase. -/
def Dev.steer (s : Dev) (ofs : Int) : Dev :=
  let s := s.servo
  let big := decide (s.stepThr ≤ ofs.natAbs)
  if big && (decide (s.mode = 1) || decide (s.mode = 2)) && !s.pourArmed then s.tmbStep ofs
  else
    let rises := big && decide (s.fg F.TMB_STAT_BIGOFS 0 = 0)
    let s := s.fs F.TMB_STAT_BIGOFS 0 (b2n big)
    let s := s.cond rises (fun s => s.setEvt 9 F.TMB_EVT_BIGOFS 0)
    { s with time := { s.time with slew := -ofs, slewAcc := 0 } }

/-- An offset of the selected source and the lock state. -/
def Dev.lockStep (s : Dev) (ofs : Int) : Dev :=
  let n := if ofs.natAbs < 100 then s.time.cnt100 + 1 else 0
  let s := { s with time := { s.time with cnt100 := n } }
  let st := s.fg F.TMB_STAT_STATE 0
  if st = 1 ∧ 8 ≤ n then s.setLock 2
  else if st = 2 ∧ 1000 ≤ ofs.natAbs then s.setLock 1
  else s

/-- A signed number in 32 bits, saturating. -/
def sat32 (x : Int) : Nat := toBits 32 (max (-(2147483648 : Int)) (min x 2147483647))

/-- A valid measurement of source c; tod: it carries the time of day (R105). -/
def Dev.measure (s : Dev) (c : Nat) (ofs : Int) (tod : Bool) : Dev :=
  let s := s.cond tod (fun s => s.fs F.TMB_STAT_SECVALID 0 1)
  let s := s.setSrcCnt c (if s.srcLive c then s.srcCnt c + 1 else 1)
  let k := s.clk
  let s := { s with time := { s.time with lastMeas := SMap.set (fun _ => none) s.time.lastMeas c (some k) } }
  if !s.srcList.contains c then s
  else
    let s := s.srcChoose c
    let st := s.fg F.TMB_STAT_STATE 0
    let s := s.cond (decide (st = 0) || decide (st = 3)) (fun s => s.setLock 1)
    if s.fg F.TMB_STAT_SRC 0 ≠ c then s
    else ((s.wr .TMB_OFS 0 (BitVec.ofNat 32 (sat32 ofs))).lockStep ofs).steer ofs

/-- A write of TMB_MEAS (R107). -/
def Dev.tmbMeasWrite (s : Dev) (v : Word) : Dev :=
  let c := s.fg F.TMB_MEASSRC_SRC 0
  if 1 ≤ c ∧ c ≤ 4 then s.measure c (sext 32 v.toNat) true else s.errCap 4 { ty := 0x10, addr := devAddr 4 0x3C, info := c }

/-- TMB_MEAS (R107). -/
def execTmbMeas (rq : Req) (v : Word) (s : State) : Host.Outcome State Fault Refusal :=
  run (wellFormed (.tmbMeas rq v)) (fun s => s.gate rq 4 0x3C 2 rq.svp (fun s => (s.tmbMeasWrite v).ok 0)) s

/-! ## IRIG-B (R108) -/

/-- Days from the epoch to 1 January of a year (proleptic Gregorian; the epoch is 1 January 1970). -/
def daysTo (y : Nat) : Nat := 365 * (y - 1970) + ((y - 1) / 4 - (y - 1) / 100 + (y - 1) / 400) - 477

/-- The year that a day since the epoch lies in. -/
def yearOf (d : Nat) : Nat :=
  let y := 1970 + d / 366
  if daysTo (y + 2) ≤ d then y + 2 else if daysTo (y + 1) ≤ d then y + 1 else y

/-- Seconds of local time, as coded, that the frame names: B004 and B005 carry the year. -/
def Dev.irigLocal (s : Dev) (f : IrigFrame) : Int :=
  let nowLocal := ((s.toUtc s.time.now / nsPerSec : Nat) : Int) - f.utcOfs
  let y := if 4 ≤ f.expr then 2000 + f.year else yearOf (nowLocal.toNat / 86400)
  ((daysTo y * 86400 + f.secOfYear : Nat) : Int)

/-- Whether a frame is valid. -/
def Dev.irigOk (s : Dev) (f : IrigFrame) : Bool :=
  (decide (f.expr = 4) || decide (f.expr = 5) ||
    ((decide (f.expr = 0) || decide (f.expr = 1)) && decide (s.fg F.TMB_STAT_SECVALID 0 = 1))) &&
  f.markersOk && f.digitsOk && f.parityOk && decide (f.tq ≤ s.fg F.TMB_CFG_IRIGTQ 0)

/-- Firmware loads the change that a leap-pending bit announces, for the end of the UTC minute (R110). -/
def Dev.irigLeap (s : Dev) (f : IrigFrame) (utc : Int) : Dev :=
  if f.lsp && s.fwRuns then s.leapLoad (!f.lss) ((utc / 60 + 1) * 60) else s

/-- An IRIG-B frame whose on-time edge stood at timebase value f.edge. -/
def Dev.irig (s : Dev) (f : IrigFrame) : Dev :=
  let x := f.edge - s.fg F.TMB_IRIGDLY_DLY 0
  let s := s.cond f.markersOk (fun s => s.tsuCap 0x02 x)
  if !s.irigOk f then
    let s := (s.inc F.TMB_IRIGST_BADCNT 0).setSrcCnt 5 0
    if s.fg F.TMB_STAT_SRC 0 = 5 then { s with time := { s.time with cnt100 := 0 } } else s
  else
    let utc := s.irigLocal f + f.utcOfs
    let tai := utc + sext 16 (s.fg F.TMB_UTCOFS_OFS 0)
    let s := ((s.fs F.TMB_IRIGST_TQ 0 f.tq).fs F.TMB_IRIGST_LSP 0 (b2n f.lsp)).fs F.TMB_IRIGST_LSS 0 (b2n f.lss)
    (s.irigLeap f utc).measure 5 ((x : Int) - tai * (nsPerSec : Int)) true

/-- IRIG_FRAME (R108). -/
def execIrigFrame (f : IrigFrame) (s : State) : Host.Outcome State Fault Refusal :=
  run (wellFormed (.irigFrame f)) (fun s => if s.domOn 2 then s.irig f else s) s

/-! ## PPS (R109, R111) -/

/-- A rising edge of PPS_IN now. -/
def Dev.ppsIn (s : Dev) : Dev :=
  let x := s.time.now - s.fg F.TMB_PPSDLY_DLY 0
  let s := s.tsuCap 0x01 x
  let early := match s.time.lastPps with
    | some k => decide (s.clk < k + 900000000)
    | none => false
  if early then s
  else
    let k := s.clk
    let s := { s with time := { s.time with lastPps := some k } }
    let n := x % nsPerSec
    let ofs : Int := if 500000000 < n then (n : Int) - nsPerSec else n
    if s.fg F.TMB_STAT_SECVALID 0 = 1 then s.measure 6 ofs false else s

/-- PPS_IN_EDGE (R109). -/
def execPpsInEdge (s : State) : Host.Outcome State Fault Refusal :=
  run (wellFormed .ppsInEdge) (fun s => if s.domOn 2 then s.ppsIn else s) s

/-- TIME_SOURCE_LOSS: LOSSTO has passed since the latest valid measurement of a source (R102, R103). -/
def execTimeSourceLoss (src : Nat) (s : State) : Host.Outcome State Fault Refusal :=
  run (wellFormed (.timeSourceLoss src)) (fun s =>
    match s.lastMeas src with
    | some k =>
      if s.domOn 2 then
        let s := (s.moveClk (k + s.lossTo)).setSrcCnt src 0
        let s := { s with time := { s.time with lastMeas := SMap.set (fun _ => none) s.time.lastMeas src none } }
        if s.fg F.TMB_STAT_SRC 0 = src then s.reselect else s
      else s
    | none => s) s

/-- HOLDOVER_LIMIT: HOLDOVER has lasted HOLDLIM seconds (R104). -/
def execHoldoverLimit (s : State) : Host.Outcome State Fault Refusal :=
  run (wellFormed .holdoverLimit) (fun s =>
    if s.domOn 2 ∧ s.fg F.TMB_STAT_STATE 0 = 3 then
      (s.moveClk (s.time.holdAt + s.fg F.TMB_HOLD_HOLDLIM 0 * nsPerSec)).setLock 0
    else s) s

/-- Whole seconds of the present HOLDOVER (Table 5.10). -/
def Dev.holdCnt (s : Dev) : Nat :=
  if s.fg F.TMB_STAT_STATE 0 = 3 then min 65535 ((s.clk - s.time.holdAt) / nsPerSec) else 0

/-- LEAP_SECOND: the top of TMB_UTCSEC (R110). -/
def execLeapSecond (s : State) : Host.Outcome State Fault Refusal :=
  run (wellFormed .leapSecond) (fun s =>
    let x := s.utcSec * nsPerSec
    if s.domOn 2 ∧ s.utcSec ≠ 0 ∧ s.time.now ≤ x then (s.moveTo x).applyLeap else s) s

/-- Whether PPS_OUT pulses at the next top of a second. -/
def Dev.ppsLive (s : Dev) : Bool :=
  decide (s.fg F.TMB_PPSOUT_WIDTH 0 ≠ 0) &&
    (decide (s.fg F.TMB_STAT_STATE 0 = 2) || decide (s.fg F.TMB_STAT_STATE 0 = 3) || decide (s.fg F.TMB_PPSOUT_FREE 0 = 1))

/-- PPS_OUT_PULSE: the pin rises at the top of a TAI second (R111). -/
def execPpsOutPulse (s : State) : Host.Outcome State Fault Refusal :=
  run (wellFormed .ppsOutPulse) (fun s =>
    let x := (s.time.now + nsPerSec - 1) / nsPerSec * nsPerSec
    if s.domOn 2 ∧ s.ppsLive then
      let s := s.moveTo x
      { s with time := { s.time with ppsHigh := true, ppsAt := x } }
    else s) s

/-- PPS_OUT_END: the pin falls (R111). -/
def execPpsOutEnd (s : State) : Host.Outcome State Fault Refusal :=
  run (wellFormed .ppsOutEnd) (fun s =>
    if s.time.ppsHigh then
      let s := s.moveTo s.ppsEnd
      { s with time := { s.time with ppsHigh := false } }
    else s) s

end Sys2Proof.Machine
end

