-- ==== Sys2Proof/Machine/Tick.lean ====
section
/-!
DEFINITION. Sys2Proof/Machine/Tick.lean: the tick, its half, rate changes and the switch of mode at a tick instant
(02 R37, R39, R41; 05 R112 to R119; 09 R240).
-/

namespace Sys2Proof.Machine

/-- The absolute number of the next tick to be raised (R116, R117, R119). -/
def Dev.nextTick (s : Dev) : Nat :=
  if s.time.flushDue then tickFrom s.F s.time.now
  else if s.time.rateDue then s.effSec * s.F
  else if s.time.tickRaised then s.tickNo + 1
  else tickFrom s.F s.time.now

/-! ## The mode switch (R37) -/

/-- The module enters DORMANT by command: the staged records are flushed first, and it stays there (R41). -/
def Dev.sleepModule (s : Dev) : Dev :=
  let s := (s.modeRecord s.mode 0 trigCommand).jrnFlush
  let t := s.toDormant
  { t with pwr := { t.pwr with stay := true, inputSeen := false, wakeCause := 3 } }

/-- The accepted change of mode takes effect at tick n. -/
def Dev.switchMode (s : Dev) (new n : Nat) : Dev :=
  let old := s.mode
  let s := { s with pwr := { s.pwr with pend := none } }
  let s := s.setLong (s.cmd.long.filter LongCmd.long)
  if new = 0 then s.sleepModule
  else
    let s := s.cond (decide (old = 2) && decide (s.time.now < s.effSec * nsPerSec)) (fun s => s.fs F.TKG_CTL_ARM 0 0)
    let s := s.changeMode new trigCommand
    s.cond (decide (old = 4)) (fun s => (s.stepEnd n).simStopAll)

/-- The pending change, if its tick is at most n. -/
def Dev.pendMode (s : Dev) (n : Nat) : Dev :=
  match s.pwr.pend with
  | some (m, t) => if t ≤ n then s.switchMode m n else s
  | none => s

/-- MODE_SWITCH: the timebase reaches the switch tick, which is the next one (R37). -/
def execModeSwitch (s : State) : Host.Outcome State Fault Refusal :=
  run (wellFormed .modeSwitch) (fun s =>
    if s.domOn 2 then
      let n := s.nextTick
      match s.pwr.pend with
      | some (_, t) => if t ≤ n then (s.moveTo (tickAt s.F n)).pendMode n else s
      | none => s
    else s) s

/-! ## Rate changes (R117) -/

/-- RATE_CHANGE: the timebase reaches the top of EFFSEC. -/
def execRateChange (s : State) : Host.Outcome State Fault Refusal :=
  run (wellFormed .rateChange) (fun s =>
    if s.domOn 2 && decide (s.fg F.TKG_CTL_ARM 0 = 1) then (s.moveTo (s.effSec * nsPerSec)).applyRate else s) s

/-- TKG_CTL_ARM: a write of TKG_CTL with ARM (R117, R131). -/
def execTkgCtlArm (rq : Req) (v : Word) (s : State) : Host.Outcome State Fault Refusal :=
  run (wellFormed (.tkgCtlArm rq v)) (fun s => s.gate rq 5 4 2 rq.svp (fun s => (s.tkgCtlWrite (v ||| 1)).ok 0)) s

/-! ## TICK and HALF (R115) -/

/-- Step mode at tick n (R240): a step whose start has come replaces the one in hand, and otherwise one tick more is over. -/
def Dev.stepTick (s : Dev) (n h : Nat) : Dev :=
  let es := (List.range 8).map (fun j => 8 * h + j)
  match (s.hive h).stepStart with
  | some (t, k) =>
    if t ≤ n then
      let s := s.each es (fun s e => (s.fs F.PE_STEP_MODE e (b2n (decide (k ≠ 0)))).fs F.PE_STEP_REMAIN e k)
      s.onHive h (fun x => { x with stepStart := none })
    else s.each es (fun s e => s.fs F.PE_STEP_REMAIN e (s.fg F.PE_STEP_REMAIN e - 1))
  | none => s.each es (fun s e => s.fs F.PE_STEP_REMAIN e (s.fg F.PE_STEP_REMAIN e - 1))

/-- The output unit of engine e emptied for a new tick (R203). -/
def Dev.outClear (s : Dev) (e : Nat) : Dev :=
  s.onEng e (fun x => { x with tripWord := 0, tripWritten := false, evq := [], pubPassed := false, abortTick := false })

/-- COMMAND frames of link l still queued at the tick are dropped (R410). -/
def Dev.cmdDrop (s : Dev) (l : Nat) : Dev :=
  let s := s.commandDrain l
  let n := (s.lnk l).cmdq.length
  (s.addc F.BLK_CMDDROP_COUNT l n).onLnk l (fun x => { x with cmdq := [] })

/-- The tick grid moves on to tick n, at its instant. -/
def Dev.gridTo (s : Dev) (n : Nat) : Dev :=
  let s := s.moveTo (tickAt s.F n)
  let s := { s with time := { s.time with tickS := n / s.F, tickN := n % s.F, tickRaised := true, halfDone := false
                                          flushDue := false, rateDue := false, combDue := false } }
  s.fs F.TKG_STAT_IDX 0 (n % s.F)

/-- TICK n (R115): the engines, the comb, the pour, the capture unit and the timestamp unit in one clock. -/
def Dev.tickNow (s : Dev) : Dev :=
  let s := s.cond (decide (s.fg F.TKG_CTL_ARM 0 = 1) && decide (s.effSec * nsPerSec ≤ tickAt s.F s.nextTick)) (fun s =>
    (s.moveTo (s.effSec * nsPerSec)).applyRate)
  let n := s.nextTick
  let x := tickAt s.F n
  let s := s.each (List.range 4) Dev.cmdDrop
  let s := s.applySwitches x
  let flush := s.time.flushDue || s.time.rateDue || s.time.combDue
  let s := ((s.gridTo n).pendMode n).takeMode
  if s.mode = 0 then s
  else
    let s := s.each (List.range 64) Dev.outClear
    let s := s.tsuCap 0x03 x
    let s := s.cond (decide (n % s.F = 0)) (fun s => s.tsuCap 0x05 x)
    let s := (s.icPend 11).tmrAll 1
    let s := s.cond (s.domOn 8) (fun s => s.combTick n flush)
    let s := s.capTick
    let s := s.cond (s.domOn 17) (fun s => s.pourTick n)
    let s := s.each (List.range 8) (fun s h => s.stepTick n h)
    let s := s.each ((List.range 64).filter (fun e => (s.eng e).runArmed && decide ((s.eng e).startTick ≤ n))) Dev.engineStartNow
    let k := s.clk
    s.each (List.range 64) (fun s e => s.engTick e n k)

/-- TICK (R115). -/
def execTick (s : State) : Host.Outcome State Fault Refusal :=
  run (wellFormed .tick) (fun s => if s.domOn 2 then s.tickNow else s) s

/-- HALF of the tick in progress (R114, R115). -/
def Dev.halfNow (s : Dev) : Dev :=
  let x := halfAt s.tickF s.tickNo
  let s := s.moveTo x
  let s := { s with time := { s.time with halfDone := true } }
  let s := ((s.tsuCap 0x04 x).icPend 12).tmrAll 2
  let k := s.clk
  s.each (List.range 64) (fun s e => s.engHalf e k)

/-- HALF (R115): once in every tick. -/
def execHalf (s : State) : Host.Outcome State Fault Refusal :=
  run (wellFormed .half) (fun s => if s.domOn 2 && s.time.tickRaised && !s.time.halfDone then s.halfNow else s) s

end Sys2Proof.Machine
end

