-- ==== Sys2Proof/Machine/BayLinks.lean ====
section
/-!
DEFINITION. Sys2Proof/Machine/BayLinks.lean: TICK frames, card frames and their events, link states, loss and resumption
(15 R409 to R417, 02 R46).
-/

namespace Sys2Proof.Machine

/-! ## Link states (R416) -/

/-- State of link l: 0 DOWN, 1 SYNC, 2 UP. -/
def Dev.lnkState (s : Dev) (l : Nat) : Nat := s.fg F.BLK_LSTAT_STATE l

/-- The world of link l. -/
def Dev.lnkWorld (s : Dev) (l : Nat) : Nat := s.fg F.BLK_LCFG_WORLD l

/-- The hives to which link l delivers its quad: those of HIVES that are on and of the link's world (R409, R415). -/
def Dev.quadHives (s : Dev) (l : Nat) : List Nat :=
  (List.range 8).filter (fun h => (s.fg F.BLK_LCFG_HIVES l).testBit h && s.domOn (9 + h) && decide (s.hiveWorld h = s.lnkWorld l))

/-- Word a + 2 of the quad: link UP, card healthy, card in test. -/
def Dev.quadStatus (s : Dev) (l : Nat) : Nat :=
  let c := s.fg F.BLK_LSTAT_CARD l
  b2n (decide (s.lnkState l = 2)) + 2 * (c % 2) + 4 * (c / 4 % 2)

/-- Words `ws`, with their places in the quad, written to every hive that link l delivers to. -/
def Dev.quadWrite (s : Dev) (l : Nat) (ws : List (Nat × Nat)) : Dev :=
  let a := 4 * s.fg F.BLK_HSMW_ADDR l
  s.each (s.quadHives l) (fun s h =>
    ws.foldl (fun s w => s.setHsmWord h (a + w.1) (BitVec.ofNat 16 w.2)) (s.serveHive h))

/-- An UP link is declared lost: its state falls, LOSS is set, and word a + 2 shows UP = 0 (R415, R416). -/
def Dev.lnkLose (s : Dev) (l st : Nat) : Dev :=
  let x := s.time.now
  let s := (s.fs F.BLK_LSTAT_STATE l st).inc F.BLK_LOSSCNT_COUNT l
  let s := (s.setEvtBit 140 F.BLK_EVT_LOSS 0 l).onLnk l (fun b => { b with good := 0, lostAt := some x })
  s.quadWrite l [(2, s.quadStatus l)]

/-- Ticks without a good frame that declare link l lost (Table 15.9). -/
def Dev.lossTicks (s : Dev) (l : Nat) : Nat := max 1 (s.fg F.BLK_LCFG_LOSS l)

/-- LINK_LOSS: no good frame for LOSS consecutive ticks (R416). -/
def execLinkLoss (l : Nat) (s : State) : Host.Outcome State Fault Refusal :=
  run (wellFormed (.linkLoss l)) (fun s =>
    if s.domOn 6 ∧ s.lnkState l = 2 ∧ s.lossTicks l ≤ (s.lnk l).miss then s.lnkLose l 1 else s) s

/-- SYMBOL_LOCK_LOSS: symbol lock absent for 1 us (R416). -/
def execSymbolLockLoss (l : Nat) (s : State) : Host.Outcome State Fault Refusal :=
  run (wellFormed (.symbolLockLoss l)) (fun s =>
    if !s.domOn 6 then s
    else if s.lnkState l = 2 then s.lnkLose l 0
    else (s.fs F.BLK_LSTAT_STATE l 0).onLnk l (fun b => { b with good := 0 })) s

/-- SYMBOL_LOCK_ACQUIRED: the link rises from DOWN to SYNC (R416). -/
def execSymbolLockAcquired (l : Nat) (s : State) : Host.Outcome State Fault Refusal :=
  run (decide (l < 4)) (fun s => if s.domOn 6 ∧ s.lnkState l = 0 then s.fs F.BLK_LSTAT_STATE l 1 else s) s

/-! ## TICK frames (R410) -/

/-- The tick before the one in progress is over for link l: it had a good frame, or it did not. -/
def Dev.lnkRoll (s : Dev) (l : Nat) : Dev :=
  s.onLnk l (fun b =>
    if b.goodThis then { b with goodThis := false, miss := 0 } else { b with good := 0, miss := b.miss + 1 })

/-- The instant from which the TICK frame of the tick in progress leaves. -/
def Dev.tickFrameAt (s : Dev) : Nat := s.tickTime + 200

/-- The TICK frame of the tick in progress leaves on link l, with every output bit of the link. -/
def Dev.tickFrame (s : Dev) (l : Nat) : Dev :=
  if !s.domOn 6 || !s.time.tickRaised then s
  else if (s.lnk l).lastTick.map Prod.fst = some s.tickNo then s
  else
    let s := (s.moveTo s.tickFrameAt).lnkRoll l
    if !s.lnkOn l then s
    else
      let o := if s.outputsLive then (s.lnk l).out else 0
      let n := s.tickNo
      let fl := s.lnkFlags
      let t := linkFrame 1 fl (s.lnk l).eack n o.toNat 0 (stamp s.tickTime)
      (s.wr .BLK_OUT l o).onLnk l (fun b => { b with out := o, lastTick := some (n, o.toNat), flags := fl, sent := t })

/-- TICK_FRAME (R410). -/
def execTickFrame (l : Nat) (s : State) : Host.Outcome State Fault Refusal :=
  run (wellFormed (.tickFrame l)) (fun s => s.tickFrame l) s

/-! ## Card frames (R413 to R415) -/

/-- Time of a card frame on the line (Table 15.5). -/
def cardFrameNs : Nat := 344

/-- The tick that a frame whose start symbol arrives at x falls to: x lies in [t(n) + 200, t(n+1) + 200). -/
def Dev.cardTick (s : Dev) (x : Nat) : Nat := tickBefore s.F (x - 200)

/-- Whether a card frame is good for that tick. -/
def Dev.cardGood (s : Dev) (f : CardFrame) : Bool :=
  let x := cardText f.octets
  x.ok && decide (x.type = 0x81) && decide (200 ≤ f.arrival) && decide (x.ans = s.cardTick f.arrival % 256)

/-- The one-way delay D = floor(RTT / 2) of a good frame. -/
def Dev.cardDelay (s : Dev) (l : Nat) (f : CardFrame) : Int :=
  ((f.arrival : Int) - (tickAt s.F (s.cardTick f.arrival) + 200 : Nat) - (s.fg F.BLK_LCFG_TURN l : Int)) / 2

/-- The tick m that an event's REF names: the latest at or before n with m mod 256 = REF. -/
def refTick (n ref : Nat) : Nat := n - (n % 256 + 256 - ref % 256) % 256

/-- The time of an accepted event. -/
def Dev.eventTime (s : Dev) (n : Nat) (d : Int) (v : CardEvent) : Nat :=
  ((tickAt s.F (refTick n v.ref) + 200 : Nat) + d + (v.offset : Int)).toNat

/-- UNCERT: the offset is saturated, or the link was declared lost between t(m) and the frame's arrival. -/
def Dev.uncert (s : Dev) (l n arrival : Nat) (v : CardEvent) : Bool :=
  v.sat || (match (s.lnk l).lostAt with
    | some x => decide (tickAt s.F (refTick n v.ref) ≤ x) && decide (x ≤ arrival)
    | none => false)

/-- Base address and size of link l's event ring. -/
def Dev.evBase (s : Dev) (l : Nat) : Nat := s.fg F.BLK_EVBASE_LO_BASE l * 2 ^ 12 + s.fg F.BLK_EVBASE_HI_BASE l * 2 ^ 32
def Dev.evSlots (s : Dev) (l : Nat) : Nat := 2 ^ (s.fg F.BLK_EVCFG_SIZE l + 4)

/-- An event record that finds no place. -/
def Dev.evLost (s : Dev) (l : Nat) : Dev := (s.inc F.BLK_EVLOST_COUNT l).setEvtBit 140 F.BLK_EVT_EVOVF 0 l

/-- The record of an accepted event (R414). -/
def Dev.evRecord (s : Dev) (l n arrival : Nat) (d : Int) (v : CardEvent) : List Byte :=
  leBytes 8 (stamp (s.eventTime n d v)) ++ leBytes 1 v.input ++ leBytes 1 (b2n v.state + 2 * b2n (s.uncert l n arrival v)) ++
    leBytes 1 l ++ leBytes 1 0 ++ leBytes 4 n

/-- A record written to the event ring. -/
def Dev.evWrite (s : Dev) (l : Nat) (r : List Byte) : Dev :=
  let i := s.fg F.BLK_EVWR_IDX l
  if s.fg F.BLK_EVCFG_EN l = 0 then s
  else if (i + 65536 - s.fg F.BLK_EVRD_IDX l) % 65536 = s.evSlots l then s.evLost l
  else match s.dmaWrite 16 (s.lnkWorld l) (s.evBase l + 16 * (i % s.evSlots l)) r with
    | (s, true) => s.fs F.BLK_EVWR_IDX l ((i + 1) % 65536)
    | (s, false) => s.evLost l

/-- The events of a good frame, in entry order (R413). -/
def Dev.cardEvents (s : Dev) (l n arrival : Nat) (d : Int) : List CardEvent → Dev
  | [] => s
  | v :: vs =>
    let b := ((s.lnk l).eack + 256 - v.eseq % 256) % 256
    if b = 0 then
      let s := s.evWrite l (s.evRecord l n arrival d v)
      (s.onLnk l (fun x => { x with eack := (x.eack + 1) % 256 })).cardEvents l n arrival d vs
    else if b ≤ 128 then s.cardEvents l n arrival d vs
    else s

/-- While no record can reach DRAM the module takes no event (R46, R414). -/
def Dev.takesEvents (s : Dev) : Bool := decide (s.mode ≠ 5) || s.domOn 29 || s.domOn 30

/-- The link's state after a good frame: the first of a tick counts, and four consecutive ones make the link UP. -/
def Dev.lnkGood (s : Dev) (l : Nat) : Dev :=
  let s := s.onLnk l (fun b => if b.goodThis then b else { b with goodThis := true, good := b.good + 1, miss := 0 })
  if s.lnkState l = 1 ∧ 4 ≤ (s.lnk l).good then (s.fs F.BLK_LSTAT_STATE l 2).setEvtBit 140 F.BLK_EVT_UP 0 l else s

/-- A good frame for tick n. -/
def Dev.cardTake (s : Dev) (l : Nat) (f : CardFrame) : Dev :=
  let c := cardText f.octets
  let n := s.cardTick f.arrival
  let d := s.cardDelay l f
  let s := (s.fs F.BLK_LSTAT_DLY l (d % 65536).toNat).fs F.BLK_LSTAT_CARD l (c.flags % 8)
  let s := s.cond (c.flags.testBit 1) (fun s => s.setEvtBit 140 F.BLK_EVT_OUTF 0 l)
  let s := (s.wr .BLK_IN l c.inp).lnkGood l
  let s := s.quadWrite l [(0, c.inp.toNat % 65536), (1, c.inp.toNat / 65536), (2, s.quadStatus l), (3, n % 65536)]
  if s.takesEvents then s.cardEvents l n f.arrival d c.events else s

/-- A frame from the card of link l has arrived whole. -/
def Dev.cardFrame (s : Dev) (l : Nat) (f : CardFrame) : Dev :=
  if !s.lnkOn l || decide (s.lnkState l = 0) then s
  else
    let s := s.moveTo (f.arrival + cardFrameNs)
    if s.cardGood f then s.cardTake l f else s.inc F.BLK_BADCNT_COUNT l

/-- CARD_FRAME (R413). -/
def execCardFrame (l : Nat) (f : CardFrame) (s : State) : Host.Outcome State Fault Refusal :=
  run (wellFormed (.cardFrame l f)) (fun s => s.cardFrame l f) s

end Sys2Proof.Machine
end

