-- ==== Sys2Proof/Machine/DebugRegs.lean ====
section
/-!
DEFINITION. Sys2Proof/Machine/DebugRegs.lean: the DBG registers of a core that act when accessed, and the trace unit's control
(17 R449 to R456, R462).
-/

namespace Sys2Proof.Machine

/-! ## Who may access them (R462) -/

/-- Whether a requester may access what belongs to world w: the SVP, the debug master under an unlock that covers w, and
requesters of w. -/
def Dev.dbgAdmits (s : Dev) (rq : Req) (w : Nat) : Bool :=
  if rq.svp then true else if rq.debug then s.unlockReach w else rq.ofWorld w

/-- Offset of a per-core DBG register. -/
def dbgOff (o m : Nat) : Nat := 0x1000 + 0x200 * m + o

/-- An access of a DBG register of core m that only `only` of the admitted requesters may make: PD31 on, the core's domain
on, and the requester admitted. -/
def Dev.dbgGate (s : Dev) (rq : Req) (m o : Nat) (only : Bool) (f : Dev → Dev) : Dev :=
  s.gate rq 26 (dbgOff o m) 31 (s.dbgAdmits rq (s.core m).world && only) (fun s =>
    if s.domOn (18 + m) then f s else s.errResp 18 rq 0x11 (devAddr 26 (dbgOff o m)) (18 + m))

/-! ## HALTREQ, DTX and DRX (R451, R452) -/

/-- A write of DBG_CREQ. -/
def Dev.creqWrite (s : Dev) (m : Nat) (v : Word) : Dev := if v.getLsbD 0 then s.fs F.DBG_CSTAT_HALTREQ m 1 else s

/-- DBG_CREQ_STOP (R451). -/
def execDbgCreqStop (rq : Req) (m : Nat) (v : Word) (s : State) : Host.Outcome State Fault Refusal :=
  run (rq.ok && decide (m < 8)) (fun s => s.dbgGate rq m 4 true (fun s => (s.creqWrite m v).ok 0)) s

/-- A word put into a channel register: a word not taken yet is lost. -/
def Dev.dccOver (s : Dev) (m : Nat) (r : RName) (flag : Fld) (v : Word) : Dev :=
  (s.cond (decide (s.fg flag m = 1)) (fun s => s.fs F.DBG_DCCSTAT_LOST m 1)).wr r m v

/-- A word put into a channel register by its writer, with its flag set. -/
def Dev.dccPut (s : Dev) (m : Nat) (r : RName) (flag : Fld) (v : Word) : Dev := (s.dccOver m r flag v).fs flag m 1

/-- A write of DTX: the core's own sets DTXF. -/
def Dev.dtxWrite (s : Dev) (rq : Req) (m : Nat) (v : Word) : Dev :=
  if rq.ofCore m then s.dccPut m .DBG_DTX F.DBG_DCCSTAT_DTXF v else s.dccOver m .DBG_DTX F.DBG_DCCSTAT_DTXF v

/-- A read of DTX clears it (R4, R5); the debug master's clears DTXF. -/
def Dev.dtxRead (s : Dev) (rq : Req) (m : Nat) : Dev :=
  let v := (s.rd .DBG_DTX m).toNat
  if rq.debug && rq.peek then s.ok v
  else
    ((s.wr .DBG_DTX m 0).cond rq.debug (fun s => (s.fs F.DBG_DCCSTAT_DTXF m 0).setEvtBit 257 F.DBG_EVT_DTX 0 m)).ok v

/-- A write of DRX: the debug master's sets DRXF and its event. -/
def Dev.drxWrite (s : Dev) (rq : Req) (m : Nat) (v : Word) : Dev :=
  if rq.debug then (s.dccPut m .DBG_DRX F.DBG_DCCSTAT_DRXF v).setEvtBit 257 F.DBG_EVT_DRX 0 m
  else s.dccOver m .DBG_DRX F.DBG_DCCSTAT_DRXF v

/-- A read of DRX clears it (R4, R5); the core's own clears DRXF. -/
def Dev.drxRead (s : Dev) (rq : Req) (m : Nat) : Dev :=
  let v := (s.rd .DBG_DRX m).toNat
  if rq.debug && rq.peek then s.ok v
  else ((s.wr .DBG_DRX m 0).cond (rq.ofCore m) (fun s => s.fs F.DBG_DCCSTAT_DRXF m 0)).ok v

/-- DBG_DTX_WRITE (R452): not the debug master, which may only read DTX. -/
def execDbgDtxWrite (rq : Req) (m : Nat) (v : Word) (s : State) : Host.Outcome State Fault Refusal :=
  run (rq.ok && decide (m < 8)) (fun s => s.dbgGate rq m 0x1E0 (!rq.debug) (fun s => (s.dtxWrite rq m v).ok 0)) s

/-- DBG_DTX_READ (R452). -/
def execDbgDtxRead (rq : Req) (m : Nat) (s : State) : Host.Outcome State Fault Refusal :=
  run (rq.ok && decide (m < 8)) (fun s => s.dbgGate rq m 0x1E0 true (fun s => s.dtxRead rq m)) s

/-- DBG_DRX_WRITE (R452): the core's world may only read DRX. -/
def execDbgDrxWrite (rq : Req) (m : Nat) (v : Word) (s : State) : Host.Outcome State Fault Refusal :=
  run (rq.ok && decide (m < 8)) (fun s => s.dbgGate rq m 0x1E4 (rq.svp || rq.debug) (fun s => (s.drxWrite rq m v).ok 0)) s

/-- DBG_DRX_READ (R452). -/
def execDbgDrxRead (rq : Req) (m : Nat) (s : State) : Host.Outcome State Fault Refusal :=
  run (rq.ok && decide (m < 8)) (fun s => s.dbgGate rq m 0x1E4 true (fun s => s.drxRead rq m)) s

/-! ## The trace unit (R453, R454, R456, R462) -/

/-- An access of the TRC block: PD31 on; the SVP, and the debug master while the unlock covers every world traced since the
buffer was cleared. -/
def Dev.trcGate (s : Dev) (rq : Req) (off : Nat) (f : Dev → Dev) : Dev :=
  s.gate rq 27 off 31 (rq.svp || (rq.debug && (List.range 3).all (fun w => !s.trc.worlds.testBit w || s.unlockReach w))) f

/-- The source bits of a mask that the unlock covers (R453). -/
def Dev.srcAccepted (s : Dev) (v : Nat) : Nat :=
  (List.range 9).foldl (fun a m =>
    if v.testBit m && s.unlockReach (if m = 8 then 2 else (s.core m).world) then a + 2 ^ m else a) 0

/-- A write of TRC_CTL. -/
def Dev.trcCtlWrite (s : Dev) (v : Word) : Dev :=
  let old := if s.fg F.TRC_CTL_EN 0 = 1 then s.fg F.TRC_CTL_SRCEN 0 else 0
  let src := s.srcAccepted (bits v.toNat 12 4)
  let s := s.wr .TRC_CTL 0 (BitVec.ofNat 32 (v.toNat % 8 + 16 * src))
  let s := s.cond (v.getLsbD 3) Dev.trcClearBuf
  let now := if s.fg F.TRC_CTL_EN 0 = 1 then src else 0
  let s := s.each ((List.range 9).filter (fun m => now.testBit m && !old.testBit m)) (fun s m =>
    s.onTrc m (fun x => { x with needSync := true }))
  { s with trc := { s.trc with worlds := Nat.lor s.trc.worlds (s.srcWorlds src) } }

/-- TRC_CLEAR: a write of TRC_CTL with CLEAR (R456). -/
def execTrcClear (rq : Req) (v : Word) (s : State) : Host.Outcome State Fault Refusal :=
  run rq.ok (fun s => s.trcGate rq 0 (fun s => (s.trcCtlWrite (v ||| 8)).ok 0)) s

/-- A write of TRC_SWm: a packet, if source m is enabled. -/
def Dev.trcSw (s : Dev) (m : Nat) (v : Word) : Dev :=
  let x := s.trcSrc m
  s.trcEmit m (s.syncBytes m x.pos) (traceHead 9 m :: leBytes 8 v.toNat)

/-- Offset of TRC_SWm. -/
def trcSwOff (m : Nat) : Nat := 0x100 + 4 * m

/-- A write of TRC_SWm from its requester: core m alone (R462). -/
def Dev.trcSwWrite (s : Dev) (rq : Req) (m : Nat) (v : Word) : Dev :=
  s.gate rq 27 (trcSwOff m) 31 (rq.ofCore m) (fun s => (s.trcSw m v).ok 0)

/-- TRC_SW (R454). -/
def execTrcSw (rq : Req) (m : Nat) (v : Word) (s : State) : Host.Outcome State Fault Refusal :=
  run (rq.ok && decide (m < 8)) (fun s => s.trcSwWrite rq m v) s

end Sys2Proof.Machine
end

