-- ==== Sys2Proof/Machine/Ethernet.lean ====
section
/-!
DEFINITION. Sys2Proof/Machine/Ethernet.lean: frames that no ingest takes, transmission, link status, host rings, duplicate
expiry, supervision frames, HSR forwarding and PTP intervals (15 R399 to R408, 10 R263).
-/

namespace Sys2Proof.Machine

/-! ## Reception (R400) -/

/-- A frame received on port p goes to its one destination. -/
def Dev.ethReceive (s : Dev) (p : Nat) (f : EthFrame) : Dev :=
  if !s.portOn p then s
  else match f.payload with
    | .sv g => s.svArrive p { g with hdr := f.hdr } f.octets
    | .goose g => s.gooseArrive p { g with hdr := f.hdr } f.octets
    | .ptp m =>
      let (s, c) := s.rxCheck p f.hdr f.octets true
      if c = .take then s.ptpArrive p f.hdr.len m else s
    | .supervision =>
      let (s, c) := s.rxCheck p f.hdr f.octets false
      s.portTake p f.hdr f.octets c (fun s => s.inc F.ETH_SUPRX_COUNT p)
    | .pause =>
      let (s, c) := s.rxCheck p f.hdr f.octets true
      if c = .take then s.inc F.ETH_RXPAUSE_COUNT p else s
    | .other _ =>
      let (s, c) := s.rxCheck p f.hdr f.octets false
      s.portTake p f.hdr f.octets c (fun s => s.hostOrFilt p f.hdr f.octets)

/-- ETH_RECEIVE (R400). -/
def execEthReceive (p : Nat) (f : EthFrame) (s : State) : Host.Outcome State Fault Refusal :=
  run (wellFormed (.ethReceive p f)) (fun s => s.ethReceive p f) s

/-! ## Link status (R399) -/

/-- LINK takes a value; a change sets LINKCHG. -/
def Dev.setLink (s : Dev) (p v : Nat) : Dev :=
  if s.fg F.ETH_STAT_LINK p = v then s else (s.fs F.ETH_STAT_LINK p v).setEvt (136 + p) F.ETH_EVT_LINKCHG p

/-- The condition of R399 at port p's receiver: block lock with hi_ber clear on the process bus; on the station bus
auto-negotiation complete, or synchronization where ANOFF leaves it out. -/
def Dev.linkHolds (s : Dev) (p : Nat) : Bool :=
  let lock := decide (s.fg F.ETH_STAT_LOCK p = 1)
  if p < 2 then lock && (s.port p).linkOk else if s.fg F.ETH_CFG_ANOFF p = 1 then lock else (s.port p).linkOk

/-- LINK brought up to date with the receiver and EN. -/
def Dev.linkUpdate (s : Dev) (p : Nat) : Dev := s.setLink p (b2n (decide (s.fg F.ETH_CFG_EN p = 1) && s.linkHolds p))

/-- LINK_CHANGE: the condition of port p's link has changed (R399). -/
def execLinkChange (p : Nat) (up : LinkCond) (s : State) : Host.Outcome State Fault Refusal :=
  run (wellFormed (.linkChange p up)) (fun s =>
    if s.domOn (portDom p) then ((s.fs F.ETH_STAT_LOCK p (b2n up.lock)).onPort p (fun x => { x with linkOk := up.good })).linkUpdate p
    else s) s

/-! ## The window of R263 -/

/-- G: time of the longest frame with its preamble and gap, in ns. -/
def guardNs (p : Nat) : Nat := if p < 2 then 1240 else 12340

/-- Port p carries block b: it sends the block's frames. -/
def Dev.carries (s : Dev) (p b : Nat) : Bool :=
  decide (s.fg F.PUB_CFG_EN b = 1) && (s.sendPorts (s.fg F.PUB_CFG_PORTS b)).contains p

/-- Now lies in [x - G, x). -/
def Dev.inGuard (s : Dev) (p x : Nat) : Bool := decide (x ≤ s.time.now + guardNs p) && decide (s.time.now < x)

/-- Port p starts only trip-carrying frames now. -/
def Dev.inWindow (s : Dev) (p : Nat) : Bool :=
  (List.range 128).any (fun b => s.carries p b && (s.blockPairs b).any (fun k =>
    s.inGuard p (s.tickTime + s.fg F.TRG_PP_P k) || s.inGuard p (tickAt s.F (s.tickNo + 1) + s.fg F.TRG_PP_P k)))

/-! ## The frame that a free port starts (R401) -/

/-- Whether frame f goes before frame g in the publisher's order: PRIO, then block number (R263). -/
def TxFrame.before (f g : TxFrame) : Bool := decide (g.prio < f.prio) || (decide (f.prio = g.prio) && decide (f.block < g.block))

/-- Place of the publisher frame of a kind that goes first; the oldest among equals. -/
def pubFirst (q : List TxFrame) (kind : Nat) : Option Nat :=
  (List.range q.length).find? (fun i =>
    match q[i]? with
    | some f => decide (f.kind = kind) && q.all (fun g => decide (g.kind ≠ kind) || !g.before f)
    | none => false)

/-- Place of the oldest firmware frame of a kind. -/
def fwFirst (q : List TxFrame) (kind : Nat) : Option Nat := q.findIdx? (fun f => decide (f.kind = kind))

/-- Where the next frame of a port comes from, with its place there. -/
inductive TxPick
  | pub (i : Nat)
  | fw (i : Nat)
  | fwd
  | ring
  deriving DecidableEq, Repr

/-- Whether port p's transmit ring holds a frame (R402). -/
def Dev.txRingWaits (s : Dev) (p : Nat) : Bool :=
  decide (s.fg F.ETH_RING_TXEN p = 1) && decide (s.fg F.ETH_TXHEAD_IDX p ≠ s.fg F.ETH_TXTAIL_IDX p)

/-- The highest-ranked waiting frame of port p. -/
def Dev.txPick (s : Dev) (p : Nat) : Option TxPick :=
  let x := s.port p
  match pubFirst x.pubq 0 with
  | some i => some (.pub i)
  | none =>
    if s.inWindow p then none
    else match fwFirst x.fwq 1 with
      | some i => some (.fw i)
      | none =>
        if !x.fwdq.isEmpty then some .fwd
        else match pubFirst x.pubq 3 with
          | some i => some (.pub i)
          | none => match fwFirst x.fwq 4 with
            | some i => some (.fw i)
            | none => match fwFirst x.fwq 5 with
              | some i => some (.fw i)
              | none => if s.txRingWaits p then some .ring else none

/-- Octets that a redundancy tag or trailer adds. -/
def TxFrame.redLen (f : TxFrame) : Nat := if f.prpSeq.isSome then 6 else 0

/-- Port p starts frame f. -/
def Dev.txStart (s : Dev) (p : Nat) (f : TxFrame) : Dev :=
  let k := s.time.now
  (s.onPort p (fun x => { x with tx := some { f with born := k, len := max 64 f.len + f.redLen } })).inc F.ETH_TXGOOD_COUNT p

/-! ### Host frames (R402) -/

/-- The descriptor number of a frame that has no descriptor on the port: the copy of a host frame of its partner. -/
def noDesc : Nat := 65536

/-- Address of transmit descriptor i of port p. -/
def Dev.txDescAt (s : Dev) (p i : Nat) : Nat := s.txBase p + 32 * (i % s.txSlots p)

/-- An access of the transmit ring drew an error response: the ring stops (R402). -/
def Dev.txDmaErr (s : Dev) (p : Nat) : Dev := (s.fs F.ETH_RING_TXEN p 0).setEvt (136 + p) F.ETH_EVT_DMAERR p

/-- TXHEAD moves past the descriptor it names. -/
def Dev.txAdvance (s : Dev) (p : Nat) : Dev :=
  (s.fs F.ETH_TXHEAD_IDX p ((s.fg F.ETH_TXHEAD_IDX p + 1) % 65536)).setEvt (136 + p) F.ETH_EVT_TX p

/-- After a write that may have drawn an error response. -/
def Dev.txWrote (p : Nat) (good : Dev → Dev) (r : Dev × Bool) : Dev :=
  match r with
  | (s, true) => good s
  | (s, false) => s.txDmaErr p

/-- After a read that may have drawn an error response. -/
def Dev.txRead (p : Nat) (good : Dev → List Byte → Dev) (r : Dev × Option (List Byte)) : Dev :=
  match r with
  | (s, none) => s.txDmaErr p
  | (s, some l) => good s l

/-- A descriptor returned with ERR set: its frame is not sent (R401). -/
def Dev.txReject (s : Dev) (p : Nat) : Dev :=
  Dev.txWrote p (fun s => s.txAdvance p) (s.dmaWrite (12 + p) (s.portWorld p) (s.txDescAt p (s.fg F.ETH_TXHEAD_IDX p) + 18) [3])

/-- The host frame of n octets is started; on a redundant pair the partner port has a copy with the same sequence number. -/
def Dev.hostSend (s : Dev) (p : Nat) (octets : List Byte) : Dev :=
  let data := octets ++ List.replicate (60 - octets.length) 0
  let f : TxFrame := { kind := 5, octets := data, desc := s.fg F.ETH_TXHEAD_IDX p, len := data.length + 4
                       dst := BitVec.ofNat 48 (beNat (data.take 6)), src := BitVec.ofNat 48 (beNat ((data.drop 6).take 6)) }
  if s.redOf (p / 2) = 0 then s.txStart p f
  else
    let (s, n) := s.redSeq (p / 2)
    let f := { f with prpSeq := some n }
    let o := 2 * (p / 2) + (1 - p % 2)
    let s := if s.portOn o then s.onPort o (fun x => { x with fwq := x.fwq ++ [{ f with desc := noDesc }] }) else s
    s.txStart p f

/-- The frame that descriptor bytes d name: returned when its length is not legal, else read and sent. -/
def Dev.hostFrame (s : Dev) (p w : Nat) (d : List Byte) : Dev :=
  if leNat ((d.drop 16).take 2) = 0 ∨ 1518 < leNat ((d.drop 16).take 2) ∨
      (s.redOf (p / 2) ≠ 0 ∧ 1516 < leNat ((d.drop 16).take 2) + 4) then s.txReject p
  else Dev.txRead p (fun s l => s.hostSend p l)
    (s.dmaRead (12 + p) w (leNat (d.take 8) / 64 * 64) (leNat ((d.drop 16).take 2)))

/-- The frame at TXHEAD. -/
def Dev.hostStart (s : Dev) (p : Nat) : Dev :=
  Dev.txRead p (fun t d => t.hostFrame p (s.portWorld p) d)
    (s.dmaRead (12 + p) (s.portWorld p) (s.txDescAt p (s.fg F.ETH_TXHEAD_IDX p)) 32)

/-- The frame picked leaves its queue and is started. -/
def Dev.txTake (s : Dev) (p : Nat) (c : TxPick) : Dev :=
  let x := s.port p
  match c with
  | .pub i => match x.pubq[i]? with
    | some f => (s.onPort p (fun x => { x with pubq := dropAt x.pubq i })).txStart p f
    | none => s
  | .fw i => match x.fwq[i]? with
    | some f => (s.onPort p (fun x => { x with fwq := dropAt x.fwq i })).txStart p f
    | none => s
  | .fwd => match x.fwdq with
    | f :: q => ((s.onPort p (fun x => { x with fwdq := q })).txStart p { f with prpSeq := none }).inc F.ETH_HSRFWD_COUNT p
    | [] => s
  | .ring => s.hostStart p

/-- Port p starts a frame if it is free, on and enabled, and `only` admits the frame. -/
def Dev.transmit (s : Dev) (p : Nat) (only : TxPick → Bool) : Dev :=
  if !s.portOn p || (s.port p).tx.isSome then s
  else match s.txPick p with
    | some c => if only c then s.txTake p c else s
    | none => s

/-- ETH_TRANSMIT (R401). -/
def execEthTransmit (p : Nat) (s : State) : Host.Outcome State Fault Refusal :=
  run (wellFormed (.ethTransmit p)) (fun s => s.transmit p (fun _ => true)) s

/-- HSR_FORWARD: the oldest frame of port p's forward queue starts on the ring, unless a frame of higher rank or the window
of R263 holds it back (R408). -/
def execHsrForward (p : Nat) (s : State) : Host.Outcome State Fault Refusal :=
  run (wellFormed (.hsrForward p)) (fun s => s.transmit p (fun c => decide (c = .fwd))) s

/-- The descriptor of a host frame is written back: its stamp, then DONE. -/
def Dev.txReturn (s : Dev) (p : Nat) (f : TxFrame) : Dev :=
  Dev.txWrote p
    (fun t => Dev.txWrote p (fun u => u.txAdvance p) (t.dmaWrite (12 + p) (s.portWorld p) (s.txDescAt p f.desc + 18) [1]))
    (s.dmaWrite (12 + p) (s.portWorld p) (s.txDescAt p f.desc + 8) (leBytes 8 (stamp (s.txStamp p f.born))))

/-- The last octet of the frame on port p leaves: the port is free; a host frame's descriptor is written back (R402). -/
def Dev.txComplete (s : Dev) (p : Nat) : Dev :=
  match (s.port p).tx with
  | none => s
  | some f =>
    if f.kind ≠ 5 ∨ f.desc = noDesc then s.onPort p (fun x => { x with tx := none })
    else (s.onPort p (fun x => { x with tx := none })).txReturn p f

/-- FRAME_TRANSMISSION_COMPLETE (R402). -/
def execFrameTransmissionComplete (p : Nat) (s : State) : Host.Outcome State Fault Refusal :=
  run (decide (p < 4)) (fun s => s.txComplete p) s

/-! ## Host ring tails (R402, R420) -/

/-- A write of a host ring register of port p: from the SVP and from requesters of the port's world. -/
def Dev.hostRingGate (s : Dev) (rq : Req) (p off : Nat) (f : Dev → Dev) : Dev :=
  s.gate rq (21 + p) off (portDom p) (rq.svp || rq.ofWorld (s.portWorld p)) f

/-- ETH_TXTAIL (R402). -/
def execEthTxtail (rq : Req) (p : Nat) (v : Word) (s : State) : Host.Outcome State Fault Refusal :=
  run (wellFormed (.ethTxtail rq p v)) (fun s =>
    s.hostRingGate rq p 0x60 (fun s => (s.fs F.ETH_TXTAIL_IDX p v.toNat).ok 0)) s

/-- ETH_RXTAIL (R402). -/
def execEthRxtail (rq : Req) (p : Nat) (v : Word) (s : State) : Host.Outcome State Fault Refusal :=
  run (wellFormed (.ethRxtail rq p v)) (fun s =>
    s.hostRingGate rq p 0x58 (fun s => (s.fs F.ETH_RXTAIL_IDX p v.toNat).ok 0)) s

/-! ## Redundancy (R407) -/

/-- DUPLICATE_ENTRY_EXPIRY: the earliest entry of a pair is forgotten 400 ms after its first copy (R407). -/
def execDuplicateEntryExpiry (pair : Nat) (s : State) : Host.Outcome State Fault Refusal :=
  run (wellFormed (.duplicateEntryExpiry pair)) (fun s =>
    match (s.dupOf pair).entries with
    | e :: _ => (s.moveClk (e.2.2 + dupKeep)).dupPurge pair
    | [] => s) s

/-- Destination of PRP supervision frames, as IEC 62439-3 gives it (PRESUMED, log 22). -/
def supervisionDst : BitVec 48 := 0x01154E000100

/-- The interval of supervision frames in ns (R407). -/
def supervisionNs : Nat := 2000000000

/-- The time of a pair's next supervision frames has come. -/
def Dev.superviseAt (s : Dev) (pair : Nat) : Dev :=
  let s := s.moveClk ((s.dupOf pair).supAt + supervisionNs)
  let k := s.clk
  s.onDup pair (fun d => { d with supAt := k })

/-- A supervision frame on both ports of a pair that runs PRP. -/
def Dev.supervise (s : Dev) (pair : Nat) : Dev :=
  if s.redOf pair ≠ 1 then s
  else
    let (s, n) := (s.superviseAt pair).redSeq pair
    s.each ((List.range 4).filter (fun p => decide (p / 2 = pair) && s.portOn p)) (fun s p =>
      let k := s.time.now
      let src := BitVec.ofNat 48 (s.portMac p)
      s.onPort p (fun x => { x with fwq := x.fwq ++
        [{ kind := 4, octets := [0x88, 0xFB], len := 64, dst := supervisionDst, src := src, prpSeq := some n, born := k }] }))

/-- SUPERVISION_FRAME (R407). -/
def execSupervisionFrame (pair : Nat) (s : State) : Host.Outcome State Fault Refusal :=
  run (wellFormed (.supervisionFrame pair)) (fun s => s.supervise pair) s

/-! ## PTP intervals (R404, R405) -/

/-- clockClass and clockAccuracy that a master announces. -/
def Dev.ptpClass (s : Dev) : Nat :=
  let st := s.fg F.TMB_STAT_STATE 0
  if st = 2 ∧ s.fg F.TMB_STAT_SECVALID 0 = 1 then 6 else if st = 3 then 7 else 248
def Dev.ptpAccuracy (s : Dev) : Nat := if s.fg F.TMB_STAT_STATE 0 = 2 then 0x21 else 0xFE

/-- What an Announce of port p carries beside its addresses: domain, priorities, class, accuracy, UTC offset, and leap61
and leap59 as bits 0 and 1. -/
def Dev.announceBody (s : Dev) (p : Nat) : List Byte :=
  let ofs := sext 16 (s.fg F.TMB_UTCOFS_OFS 0)
  let nxt := sext 16 (s.fg F.TMB_UTCOFS_NEXT 0)
  leBytes 1 (s.fg F.ETH_PTPCFG_DOMAIN p) ++ leBytes 1 (s.fg F.ETH_PTPPRI_PRIO1 p) ++ leBytes 1 (s.fg F.ETH_PTPPRI_PRIO2 p) ++
    leBytes 1 s.ptpClass ++ leBytes 1 s.ptpAccuracy ++ leBytes 2 (s.fg F.TMB_UTCOFS_OFS 0) ++
    leBytes 1 (b2n (decide (ofs < nxt)) + 2 * b2n (decide (nxt < ofs)))

/-- The best master clock algorithm of port p runs again: a port that hears no better clock becomes master if it may, and
passive while a PTP port is the selected source. -/
def Dev.bmc (s : Dev) (p : Nat) : Dev :=
  let role := s.ptpRole p
  let m := s.masterState
  s.onPort p (fun x => { x with
    ptp := if role = 0 then 0 else if x.ptp = 2 then 2 else if role = 2 then (if x.ptp = 3 ∨ x.ptp = 4 then m else max 1 x.ptp) else 1 })

/-- The announce receipt timeout of port p: with no better clock heard in it, the port leaves SLAVE. -/
def Dev.announceTimeout (s : Dev) (p : Nat) : Dev :=
  let role := s.ptpRole p
  let m := s.masterState
  if role = 0 then s.bmc p
  else s.onPort p (fun x =>
    if x.announceSeen then { x with announceSeen := false } else { x with ptp := if role = 2 then m else 1 })

/-- An interval of port p's PTP ends: 0 Sync, 1 Announce, 2 Pdelay_Req, 3 announce receipt timeout, 4 state decision. -/
def Dev.ptpInterval (s : Dev) (p kind : Nat) : Dev :=
  if !s.portOn p || !s.fwRuns then s
  else
    let tag := s.ptpTag p
    match kind with
    | 0 => if (s.port p).ptp = 3 ∧ s.ptpRole p = 2 then
        (s.fwSend p 1 (64 + tag) ptpDst []).fwSend p 4 (64 + tag) ptpDst [] else s
    | 1 =>
      let s := s.bmc p
      if (s.port p).ptp = 3 then s.fwSend p 4 (82 + tag) ptpDst (s.announceBody p) else s
    | 2 => if s.ptpRole p ≠ 0 then s.fwSend p 1 (72 + tag) ptpPeerDst [] else s
    | 3 => s.announceTimeout p
    | _ => s.bmc p

/-- PTP_INTERVAL (R404). -/
def execPtpInterval (p kind : Nat) (s : State) : Host.Outcome State Fault Refusal :=
  run (decide (p < 4) && decide (kind < 5)) (fun s => s.ptpInterval p kind) s

end Sys2Proof.Machine
end

