-- ==== Sys2Proof/Machine/Fabric.lean ====
section
/-!
DEFINITION. Sys2Proof/Machine/Fabric.lean: firewall registers, DRAM controllers, refresh, activate tables, patrol scrub
(14 R376, R379, R384 to R397, R494).
-/

namespace Sys2Proof.Machine

/-- DRAM channel c. -/
def Dev.dch (s : Dev) (c : Nat) : DramCh := SMap.get (fun _ => {}) s.mem.ch c

/-- DRAM channel c changed by f. -/
def Dev.onDch (s : Dev) (c : Nat) (f : DramCh → DramCh) : Dev :=
  { s with mem := { s.mem with ch := SMap.mod (fun _ => {}) s.mem.ch c f } }

/-! ## Urgencies (R384, R390) -/

/-- Fabric urgency of a request of a port at an age since its injection (R384). -/
def Dev.fabricUrg (s : Dev) (port age : Nat) : Nat := min 7 (s.fg F.NOC_PQOS_BASE port + age / 2 ^ (s.fg F.NOC_PQOS_STEP port))

/-- DRAM urgency at age a with target T (R390). -/
def dramUrg (T a : Nat) : Nat :=
  if T = 0 then 0 else if 2 * a < T then 0 else if 4 * a < 3 * T then 1 else if a < T then 2 else 3

/-- The open row of bank b of channel c. -/
def DramCh.row (x : DramCh) (b : Nat) : Option (Nat × Nat) := SMap.get (fun _ => none) x.rows b

/-- Whether a request's row is open. -/
def Dev.rowOpen (s : Dev) (c : Nat) (r : DramReq) : Bool :=
  match (s.dch c).row (s.dramBank r.pa) with
  | some (row, _) => decide (row = dramRow r.pa)
  | none => false

/-- Rank of a request: a higher number is served first (R390). -/
def Dev.dramRank (s : Dev) (c : Nat) (r : DramReq) : Nat :=
  let age := s.clk - r.at0
  (dramUrg (s.fg F.DMC_PTGT_NS r.port) age * 2 + b2n (s.rowOpen c r)) * 8 + s.fabricUrg r.port (s.clk - r.born)

/-- Positions of the queue in the order of R390; a request stays behind an older one to its line. -/
def Dev.dramOrder (s : Dev) (c : Nat) : List Nat :=
  let q := (s.dch c).queue
  let free := (List.range q.length).filter (fun i =>
    match q[i]? with
    | some r => !(q.take i).any (fun o => decide (o.pa / 64 = r.pa / 64))
    | none => false)
  let rank : Nat → Nat := fun i => match q[i]? with
    | some r => s.dramRank c r
    | none => 0
  let tops := (List.range 64).reverse
  tops.flatMap (fun v => free.filter (fun i => decide (rank i = v)))

/-! ## The activate table (R394) -/

/-- Rows that a neighbour refresh covers. -/
def neighbours (r : Nat) : Nat := ([2, 1].filter (fun d => decide (d ≤ r))).length + ([1, 2].filter (fun d => decide (r + d ≤ 65535))).length

/-- Position of the first entry of least count. -/
def leastAct (t : List (Nat × Nat)) : Option Nat :=
  (List.range t.length).find? (fun i =>
    match t[i]? with
    | some e => t.all (fun f => decide (e.2 ≤ f.2))
    | none => false)

/-- The table after an activate of a row, and that row's count. -/
def actTable (t : List (Nat × Nat)) (row : Nat) : List (Nat × Nat) × Nat :=
  match t.find? (fun e => decide (e.1 = row)) with
  | some e => (t.map (fun f => if f.1 = row then (row, e.2 + 1) else f), e.2 + 1)
  | none =>
    if t.length < 64 then (t ++ [(row, 1)], 1)
    else match leastAct t with
      | some i => let n := ((t[i]?).map (fun e => e.2 + 1)).getD 1; (replaceAt t i (row, n), n)
      | none => (t, 0)

/-- The threshold in force: values below 256 act as 256. -/
def Dev.rhThresh (s : Dev) (c : Nat) : Nat := max 256 (s.fg F.DMC_RH_THRESH c)

/-- A row of a bank is activated (R394). -/
def Dev.activate (s : Dev) (c b row : Nat) : Dev :=
  let (t, n) := actTable (SMap.get (fun _ => []) (s.dch c).acts b) row
  let hit := decide (s.rhThresh c ≤ n)
  let t := if hit then t.map (fun e => if e.1 = row then (row, 0) else e) else t
  let s := s.onDch c (fun x => { x with acts := SMap.set (fun _ => []) x.acts b t })
  s.cond hit (fun s => s.addc F.DMC_RHCNT_COUNT c (neighbours row))

/-! ## Errors in DRAM (R395) -/

/-- An uncorrectable word of a line that was read: the line is poisoned, counted and logged. -/
def Dev.dramUe (s : Dev) (c pa port : Nat) : Dev :=
  let s := ((s.setPoison (pa / 64) true).inc F.DMC_UECNT_COUNT c).draw
  let syn := (Config.dramSyndrome s.freeCtr).toNat
  s.errCap 20 { ty := 0x07, addr := pa, port := port, world := 3, info := c + syn * 256, resp := decide (port ≠ 31) }

/-- What a read of a line finds: 0 nothing, 1 a corrected bit, 2 an uncorrectable word; a poisoned line reads as one. -/
def Dev.dramCheck (s : Dev) (c pa port flips : Nat) : Dev :=
  if decide (2 ≤ flips) || s.poisoned (pa / 64) then s.dramUe c pa port
  else if flips = 1 then (s.inc F.DMC_CECNT_COUNT c).errCe 20
  else s

/-! ## Requests and column commands (R390 to R392) -/

/-- Requests of port p that wait at the controllers. -/
def Dev.dramOut (s : Dev) (p : Nat) : Nat := (((s.dch 0).queue ++ (s.dch 1).queue).filter (fun r => decide (r.port = p))).length

/-- The page hint that a request carries (R392): demand reads of the L2s keep the row open, hive DMA all but its last line, and
every other request closes it. -/
def pageHint (port : Nat) (write notLast : Bool) : Bool :=
  if port < 2 then !write else decide (4 ≤ port) && decide (port < 12) && notLast

/-- A request reaches its channel's controller, wait ns after its injection; one beyond its port's limit is not issued (R383). -/
def Dev.dramArrive (s : Dev) (port pa : Nat) (write hintOpen : Bool) (wait : Nat) : Dev :=
  let c := s.dramChan pa
  if portLimit port ≤ s.dramOut port then s
  else if !s.domOn (29 + c) then (s.dramOffRefuse port 3 pa).bad
  else
    let k := s.clk
    s.onDch c (fun x => { x with queue := x.queue ++
      [{ port := port, pa := pa, write := write, hintOpen := pageHint port write hintOpen, at0 := k, born := k - wait }] })

/-- Whether a request leaves its row open (R392). -/
def Dev.keepsOpen (s : Dev) (r : DramReq) : Bool :=
  match s.fg F.DMC_PCFG_PAGE r.port with
  | 1 => true | 2 => false | _ => r.hintOpen

/-- The column command of a request: its row is opened if it is not, its age goes to the port's registers, and its data are
checked; an uncorrectable word gets the error response of R372 (R395). -/
def Dev.dramServe (s : Dev) (c i : Nat) (flips : Nat) : Dev :=
  match (s.dch c).queue[i]? with
  | none => s
  | some r =>
    let b := s.dramBank r.pa
    let row := dramRow r.pa
    let age := s.clk - r.at0
    let T := s.fg F.DMC_PTGT_NS r.port
    let s := s.cond (!s.rowOpen c r) (fun s => s.activate c b row)
    let k := s.clk
    let open' := if s.keepsOpen r then some (row, k) else none
    let s := s.onDch c (fun x => { x with queue := dropAt x.queue i, rows := SMap.set (fun _ => none) x.rows b open' })
    let s := s.cond (decide (T ≠ 0) && decide (T ≤ age)) (fun s => s.inc F.DMC_PMISS_COUNT r.port)
    let s := s.fs F.DMC_PMAX_NS r.port (max (s.fg F.DMC_PMAX_NS r.port) (min age F.DMC_PMAX_NS.max))
    let s := s.fs F.NOC_MAXWAIT_NS r.port (max (s.fg F.NOC_MAXWAIT_NS r.port) (min (s.clk - r.born) F.NOC_MAXWAIT_NS.max))
    if r.write then s
    else if decide (2 ≤ flips) || s.poisoned (r.pa / 64) then ((s.dramUe c r.pa r.port).poisonRefuse r.port 3 r.pa).bad
    else s.dramCheck c r.pa r.port flips

/-! ## Refresh and the windows of the activate tables (R393, R394) -/

/-- Whether the sensor of channel c's devices reads above 85 C (R393). -/
def Dev.dramHot (s : Dev) (c : Nat) : Bool := decide (680 < sext 16 (s.fg F.HLT_MON_VAL_VALUE (12 + c)))

/-- Refresh period of channel c in ns. -/
def Dev.refreshNs (s : Dev) (c : Nat) : Nat := if s.dramHot c then 3900 else 7800

/-- The end of the activate window of channel c: the first refresh at or after its length, which halves while the devices are
hot. -/
def Dev.actWindowEnd (s : Dev) (c : Nat) : Nat :=
  let x := s.dch c
  let e := x.winAt + s.fg F.DMC_RH_WINDOW c * (if s.dramHot c then 500000 else 1000000)
  let p := s.refreshNs c
  x.refAt + (e - x.refAt + p - 1) / p * p

/-- Channel c refreshes, one period after the latest refresh: every row is closed (R392). -/
def Dev.refreshChan (s : Dev) (c : Nat) : Dev :=
  let s := s.moveClk ((s.dch c).refAt + s.refreshNs c)
  let k := s.clk
  s.onDch c (fun x => { x with rows := [], refreshes := x.refreshes + 1, refAt := k })

/-- The activate window of channel c ends: every table is cleared. -/
def Dev.windowOver (s : Dev) (c : Nat) : Dev :=
  let s := s.moveClk (s.actWindowEnd c)
  let k := s.clk
  s.onDch c (fun x => { x with acts := [], winAt := k })

/-! ## Patrol scrub (R396) -/

/-- Lines of a channel. -/
def chanLines : Nat := 2 ^ 27

/-- Address of line number i of channel c: bits above 6 are i, and bit 6 is what puts it on the channel (R387). -/
def Dev.chanLine (s : Dev) (c i : Nat) : Nat :=
  let a := i * 128
  if s.dramChan a = c then a else a + 64

/-- The scrubber reads its next line, corrects a single bit, logs an uncorrectable line. -/
def Dev.patrol (s : Dev) (c flips : Nat) : Dev :=
  let i := s.fg F.DMC_SCRUBPOS_LINE c
  let s := s.dramCheck c (s.chanLine c (i % chanLines)) 31 flips
  s.fs F.DMC_SCRUBPOS_LINE c ((i + 1) % chanLines)

/-! ## Registers (R388, R397, R494) -/

/-- The mask registers in order of offset from 0x10, with each mask's base bit. -/
def maskRegs : List (RName × RName × Nat) :=
  [(.DMC_HCH_LO, .DMC_HCH_HI, 6), (.DMC_HBG0_LO, .DMC_HBG0_HI, 7), (.DMC_HBG1_LO, .DMC_HBG1_HI, 8),
   (.DMC_HBA0_LO, .DMC_HBA0_HI, 9), (.DMC_HBA1_LO, .DMC_HBA1_HI, 10)]

/-- Whether a mask is valid for a base bit (R388). -/
def maskValid (base mask : Nat) : Bool :=
  mask.testBit base && [6, 7, 8, 9, 10].all (fun b => decide (b = base) || !mask.testBit b) &&
    decide (mask % 64 = 0) && decide (mask / 2 ^ 34 = 0)

/-- Boot step 3: the masks that the firmware image carries, while the channels are out of service, and EN (R388). -/
def Dev.dmcStart (s : Dev) (masks : List Nat) : Dev :=
  let s := if s.fg F.DMC_CTL_EN 0 = 1 then s
    else (maskRegs.zip masks).foldl (fun s x => if maskValid x.1.2.2 x.2 then s.wr64 x.1.1 x.1.2.1 0 x.2 else s) s
  s.fs F.DMC_CTL_EN 0 1

/-- A write of a mask register at an offset; one that is not refused ends the latches of its pair (R2). -/
def Dev.maskWrite (s : Dev) (rq : Req) (off : Nat) (v : Word) : Dev :=
  s.gate rq 20 off 28 rq.svp (fun s =>
    match maskRegs[(off - 0x10) / 8]? with
    | none => s
    | some (lo, hi, base) =>
      let t := if off % 8 = 0 then s.wr lo 0 v else s.wr hi 0 (v &&& 0xFF)
      if s.fg F.DMC_CTL_EN 0 = 1 ∨ !maskValid base (t.rd64 lo hi 0) then s.errResp 20 rq 0x10 (devAddr 20 off) v.toNat
      else (t.endLatches lo 0).ok 0)

/-- A write of a firewall region register: word 0 BASE_LO, 1 BASE_HI, 2 SIZE, 3 CTL (Table 14.10); one of BASE ends the
latches of its pair (R2). -/
def Dev.fwWrite (s : Dev) (rq : Req) (r w : Nat) (v : Word) : Dev :=
  s.gate rq 18 (0x100 + 16 * r + 4 * w) 28 rq.svp (fun s =>
    (match w with
     | 0 => (s.wr .NOC_FW_BASE_LO r (v &&& 0xFFFF0000)).endLatches .NOC_FW_BASE_LO r
     | 1 => (s.wr .NOC_FW_BASE_HI r (v &&& 3)).endLatches .NOC_FW_BASE_LO r
     | 2 => s.wr .NOC_FW_SIZE r (v &&& 0x7FFFF)
     | _ => s.wr .NOC_FW_CTL r (v &&& 1)).ok 0)

/-! ## The commands -/

/-- NOC_FW_WRITE (R379). -/
def execNocFwWrite (rq : Req) (r w : Nat) (v : Word) (s : State) : Host.Outcome State Fault Refusal :=
  run (wellFormed (.nocFwWrite rq r w v)) (fun s => s.fwWrite rq r w v) s

/-- DRAM_REQUEST (R390). -/
def execDramRequest (port pa : Nat) (write hintOpen : Bool) (wait : Nat) (s : State) : Host.Outcome State Fault Refusal :=
  run (wellFormed (.dramRequest port pa write hintOpen wait)) (fun s => s.dramArrive port pa write hintOpen wait) s

/-- DRAM_COMMAND_ISSUE: the column command of the request that stands at place idx in the order of R390, those before it
being delayed by device timing. -/
def execDramCommandIssue (c idx flips : Nat) (s : State) : Host.Outcome State Fault Refusal :=
  run (wellFormed (.dramCommandIssue c idx flips)) (fun s =>
    if s.domOn (29 + c) then
      match (s.dramOrder c)[idx]? with
      | some i => s.dramServe c i flips
      | none => s
    else s) s

/-- REFRESH: every row of the channel is closed (R392, R393). -/
def execRefresh (c : Nat) (s : State) : Host.Outcome State Fault Refusal :=
  run (wellFormed (.refresh c)) (fun s =>
    if s.domOn (29 + c) then s.refreshChan c else s) s

/-- ACTIVATE_TABLE_CLEAR: the end of a window (R394). -/
def execActivateTableClear (c : Nat) (s : State) : Host.Outcome State Fault Refusal :=
  run (wellFormed (.activateTableClear c)) (fun s => if s.domOn (29 + c) then s.windowOver c else s) s

/-- ROW_IDLE_CLOSE: DMC_CFG.IDLE ns after the latest column command to an open row (R392). -/
def execRowIdleClose (c b : Nat) (s : State) : Host.Outcome State Fault Refusal :=
  run (wellFormed (.rowIdleClose c b)) (fun s =>
    match (s.dch c).row b with
    | none => s
    | some (_, t) =>
      (s.moveClk (t + s.fg F.DMC_CFG_IDLE 0)).onDch c (fun x => { x with rows := SMap.set (fun _ => none) x.rows b none })) s

/-- PATROL_SCRUB (R396). -/
def execPatrolScrub (c flips : Nat) (s : State) : Host.Outcome State Fault Refusal :=
  run (wellFormed (.patrolScrub c flips)) (fun s => if s.domOn (29 + c) then s.patrol c flips else s) s

/-- DMC_MASK_WRITE (R388). -/
def execDmcMaskWrite (rq : Req) (off : Nat) (v : Word) (s : State) : Host.Outcome State Fault Refusal :=
  run (wellFormed (.dmcMaskWrite rq off v)) (fun s => s.maskWrite rq off v) s

end Sys2Proof.Machine
end

