-- ==== Sys2Proof/Machine/Health.lean ====
section
/-!
DEFINITION. Sys2Proof/Machine/Health.lean: health monitor samples, throttling, over-temperature, and the VALID bit of an error
log (18 R463 to R471, R474).
-/

namespace Sys2Proof.Machine

/-! ## Stages (R464) -/

/-- Kind of monitor n: 0 temperature, 1 voltage, 2 process, 3 lockup (Table 18.1). -/
def monKind (n : Nat) : Nat := if n < 16 then 0 else if n < 55 then 1 else if n < 67 then 2 else 3

/-- Hysteresis of a kind in VALUE units: 2 C, 10 mV, 5 ps. -/
def monHyst (kind : Nat) : Int := if kind = 0 then 16 else if kind = 1 then 10 else 5

/-- Whether measure m is at or past a threshold moved back by h: lower is worse for a process monitor. -/
def monPast (kind : Nat) (m t h : Int) : Bool := if kind = 2 then decide (m < t + h) else decide (t - h < m)

/-- The stage that a sample meets. -/
def monMeets (kind : Nat) (m w a : Int) : Nat :=
  if kind = 2 then (if m ≤ a then 2 else if m ≤ w then 1 else 0) else (if a ≤ m then 2 else if w ≤ m then 1 else 0)

/-- The stage after a sample, from stage c: it rises at once, and falls past the threshold by the hysteresis. -/
def monStage (kind c : Nat) (m w a : Int) : Nat :=
  if kind = 3 then (if m = 0 then 0 else 2)
  else
    let up := monMeets kind m w a
    let h := monHyst kind
    if c ≤ up then up
    else if c = 2 ∧ monPast kind m a h then 2
    else if monPast kind m w h then 1
    else 0

/-- Threshold t of monitor n as a number: signed for a temperature. -/
def monThreshold (n t : Nat) : Int := if monKind n = 0 then sext 16 t else (t : Int)

/-- The measure of a value. -/
def Dev.monMeasure (s : Dev) (n v : Nat) : Int :=
  if monKind n = 0 then sext 16 v
  else if monKind n = 1 then (((v : Int) - (s.fg F.HLT_MON_CFG_NOM n : Int)).natAbs : Int)
  else (v : Int)

/-- Whether the domain that monitor n measures is on: a voltage monitor reads 0 without it. -/
def Dev.monLive (s : Dev) (n : Nat) : Bool := if 16 ≤ n ∧ n ≤ 48 then s.domOn (n - 16) else true

/-- The value that the monitor takes: 0 with its domain off, and for a lockup monitor the core's lockup. -/
def Dev.monValue (s : Dev) (n v : Nat) : Nat :=
  if !s.monLive n then 0
  else if monKind n = 3 then b2n (s.domOn (18 + (n - 67)) && (s.core (n - 67)).lockup)
  else v

/-! ## A change of stage (R465, R466) -/

/-- An entry into alarm or an exit from it. -/
def Dev.monAlarm (s : Dev) (n st v : Nat) : Dev :=
  let s := s.inc F.HLT_MON_CNT_ALMCNT n
  s.cond (s.domOn 32) (fun s => s.record 0x0040 0 0 (leBytes 4 n ++ leBytes 4 st ++ leBytes 4 v))

/-- The stage of monitor n goes from c to st at value v. -/
def Dev.monChange (s : Dev) (n c st v : Nat) : Dev :=
  let tell := (s.fg F.HLT_MON_CFG_ACTION n).testBit 0
  let s := s.faultEdge (fun s => s.fs F.HLT_MON_VAL_STATE n st)
  let s := s.cond (decide (c ≠ st) && (decide (c = 2) || decide (st = 2))) (fun s => s.monAlarm n st v)
  let s := s.cond (tell && decide (c ≠ 1) && decide (st = 1)) (fun s => s.setEvt 256 F.HLT_EVT_WARN 0)
  let s := s.cond (tell && decide (c ≠ 2) && decide (st = 2)) (fun s => s.setEvt 256 F.HLT_EVT_ALARM 0)
  s.cond (tell && decide (c = 2) && decide (st ≠ 2)) (fun s => s.setEvt 256 F.HLT_EVT_CLEAR 0)

/-! ## Junction temperature and throttling (R463, R467) -/

/-- Tj: the highest VALUE of monitors 0 to 11. -/
def Dev.tj (s : Dev) : Int :=
  (List.range 12).foldl (fun a n => max a (sext 16 (s.fg F.HLT_MON_VAL_VALUE n))) (sext 16 (s.fg F.HLT_MON_VAL_VALUE 0))

/-- S of R467, in VALUE units. -/
def Dev.thrStart (s : Dev) : Int := 8 * (min 128 (max 100 (s.fg F.HLT_THR_START 0)) : Nat)

/-- The throttle level after a sample, from level k: it rises at once and falls one level at a sample. -/
def throttleNext (k : Nat) (t s : Int) : Nat :=
  let up := if s ≤ t then min 3 (1 + (t - s).toNat / 16) else 0
  if k ≤ up then up
  else if t < s + 16 * ((k : Int) - 1) - 16 then k - 1
  else k

/-- Tj, its maximum and the throttle level brought up to date. -/
def Dev.tjUpdate (s : Dev) : Dev :=
  let t := s.tj
  let w := (t % 65536).toNat
  let s := s.fs F.HLT_TJ_TJ 0 w
  let s := s.cond (decide (sext 16 (s.fg F.HLT_TJMAX_TJ 0) < t)) (fun s => s.fs F.HLT_TJMAX_TJ 0 w)
  let k := s.fg F.HLT_THRSTAT_LEVEL 0
  let n := throttleNext k t s.thrStart
  if n = k then s else (s.fs F.HLT_THRSTAT_LEVEL 0 n).setEvt 256 F.HLT_EVT_THROTTLE 0

/-! ## Over-temperature (R468) -/

/-- 130.0 C in VALUE units. -/
def otLimit : Int := 1040

/-- The trip: HOLDUP, or a mark on the HOLDUP that runs, which shuts the module down at step 5. -/
def Dev.otTrip (s : Dev) : Dev :=
  let s := (s.fs F.PWR_STAT_OTL 0 1).setEvt 256 F.HLT_EVT_OT 0
  if s.holdupFrom then s.holdupStart 2
  else if s.mode = 5 then
    let s := { s with pwr := { s.pwr with ot := true } }
    s.cond (decide (s.fg F.PWR_STAT_HUSTEP 0 = 5)) (fun s => s.shutdownStart 1)
  else s

/-- A die sensor has read v: the second sample in a row at 130 C or above trips. -/
def Dev.otSample (s : Dev) (n v : Nat) : Dev :=
  let hot := decide (otLimit ≤ sext 16 v)
  let again := s.pwr.otSeen.testBit n
  let s := { s with pwr := { s.pwr with otSeen := setBit s.pwr.otSeen n hot } }
  s.cond (hot && again) Dev.otTrip

/-- Monitor n samples. -/
def Dev.hltSample (s : Dev) (n v : Nat) : Dev :=
  let live := s.monLive n
  let v := s.monValue n v
  let c := s.fg F.HLT_MON_VAL_STATE n
  let s := (s.fs F.HLT_MON_VAL_VALUE n v).fs F.HLT_MON_VAL_SAMPLED n (b2n live)
  let st := if live then
      monStage (monKind n) c (s.monMeasure n v) (monThreshold n (s.fg F.HLT_MON_THRESH_WARN n))
        (monThreshold n (s.fg F.HLT_MON_THRESH_ALARM n))
    else 0
  let s := s.monChange n c st v
  if n < 12 then s.tjUpdate.otSample n v else s

/-- HLT_SAMPLE (R464). -/
def execHltSample (n : Nat) (v : BitVec 16) (s : State) : Host.Outcome State Fault Refusal :=
  run (decide (n < 75)) (fun s => if s.pwr.powered then s.hltSample n v.toNat else s) s

/-! ## Error logs (R469, R471, R474) -/

/-- Offset of a log register in the ERR block. -/
def errOff (o j : Nat) : Nat := 0x100 + 0x20 * j + o

/-- A write of ERR_STATj: VALID and IEN from the SVP, VALID alone from core j - 32; a log whose domain is off ignores it. -/
def Dev.errStatWrite (s : Dev) (rq : Req) (j : Nat) (v : Word) : Dev :=
  let own := decide (32 ≤ j) && decide (j < 40) && rq.ofCore (j - 32)
  s.gate rq 30 (errOff 0 j) 28 (rq.svp || own) (fun s =>
    let s := if !s.domOn (errDom j) then s
      else
        let s := if rq.svp then s.edge (192 + j) (fun s => s.fs F.ERR_STAT_IEN j (bits v.toNat 2 2)) else s
        if v.getLsbD 0 then s.fs F.ERR_STAT_VALID j 0 else s
    s.ok 0)

/-- ERR_VALID_CLEAR (R471). -/
def execErrValidClear (rq : Req) (j : Nat) (v : Word) (s : State) : Host.Outcome State Fault Refusal :=
  run (rq.ok && decide (j < 42)) (fun s => s.errStatWrite rq j v) s

end Sys2Proof.Machine
end

