-- ==== Sys2Proof/Machine/Commands.lean ====
section
/-!
DEFINITION. Sys2Proof/Machine/Commands.lean: how supervisor firmware takes a command: the checks that every command
passes, its reply, the resources that a long command holds and the firmware's copy of a bulk object (04 R77 to R92).
-/

namespace Sys2Proof.Machine

/-- A command in hand: its header and its opcode. -/
structure Cid where
  hdr : CmdHdr
  op  : Nat
  deriving DecidableEq, Repr

/-! ## Replies (R83, R84) -/

/-- The reply to a command. -/
def Dev.answer (s : Dev) (c : Cid) (status detail : Nat) (result : List Byte) : Dev :=
  s.putReply { ring := c.hdr.ring, status := status, tag := c.hdr.tag, seq := c.hdr.seq, opcode := c.op, detail := detail,
               result := result }

/-- OK, with results. -/
def Dev.done (s : Dev) (c : Cid) (result : List Byte) : Dev := s.answer c stOK 0 result

/-- A refusal, with its DETAIL. -/
def Dev.refuse (s : Dev) (c : Cid) (status detail : Nat) : Dev := s.answer c status detail []

/-- ACCEPTED: the command stands among the outstanding ones. -/
def Dev.start (s : Dev) (c : Cid) (res : List Nat) (arg arg2 : Nat) (data : List Byte) : Dev :=
  let s := s.answer c stAccepted 0 []
  s.setLong (s.cmd.long ++ [{ ring := c.hdr.ring, tag := c.hdr.tag, seq := c.hdr.seq, opcode := c.op, res := res,
                              arg := arg, arg2 := arg2, data := data }])

/-! ## Table 4.5 -/

/-- For an opcode: its class is the system class, it is a long command, its LENGTH under R80, and its modes (6 stands for
BOOT from step 6).  Rules of their own judge the mode of MODE SET (R36), of CAST and BIND in SERVICE (R91), of DOMAIN in
BOOT, of LIFE GO (R65) and of DEBUG ENGBRK (Table 3.6). -/
def opInfo (op : Nat) : Option (Bool × Bool × Nat × List Nat) :=
  match op with
  | 0x0101 => some (true, false, 1, [1, 2, 3, 4])
  | 0x0102 => some (false, false, 0, [1, 2, 3, 4, 5])
  | 0x0201 => some (true, true, 8, [1, 2, 3, 4])
  | 0x0202 => some (true, true, 8, [1, 2, 3, 4])
  | 0x0301 => some (true, false, 3, [1, 2])
  | 0x0302 => some (true, false, 16, [6, 2, 3, 4])
  | 0x0303 => some (true, false, 24, [1, 2])
  | 0x0304 => some (true, false, 3, [2])
  | 0x0401 => some (false, true, 72, [2, 3, 4])
  | 0x0402 => some (false, false, 1, [2, 3, 4])
  | 0x0403 => some (false, false, 1, [2, 3, 4])
  | 0x0501 => some (false, false, 7, [2, 3, 4])
  | 0x0502 => some (false, false, 2, [2, 3, 4])
  | 0x0601 => some (false, true, 64, [2, 4])
  | 0x0602 => some (false, false, 3, [2, 4])
  | 0x0603 => some (false, false, 3, [4])
  | 0x0701 => some (false, false, 6, [2])
  | 0x0801 => some (false, true, 72, [2, 3, 4])
  | 0x0901 => some (false, false, 16, [2, 3, 4])
  | 0x0902 => some (false, true, 16, [2, 3, 4])
  | 0x0903 => some (false, false, 1, [2, 3, 4])
  | 0x0A01 => some (false, false, 9, [2])
  | 0x0A02 => some (false, false, 2, [2, 3, 4])
  | 0x0A03 => some (false, true, 64, [2, 4])
  | 0x0B01 => some (false, true, 64, [2, 4])
  | 0x0B02 => some (false, false, 2, [2, 4])
  | 0x0C01 => some (true, false, 8, [2, 3, 4])
  | 0x0C02 => some (true, false, 1, [2, 4])
  | 0x0C03 => some (true, false, 1, [2])
  | 0x0C04 => some (true, false, 2, [2, 3, 4])
  | 0x0D01 => some (false, false, 32, [6, 2, 3, 4])
  | 0x0D02 => some (false, true, 4, [2, 3, 4])
  | 0x0D03 => some (false, false, 4, [2, 3, 4])
  | 0x0E01 => some (true, true, 72, [2])
  | 0x0E02 => some (true, true, 72, [2])
  | 0x0E03 => some (true, true, 72, [2])
  | 0x0F01 => some (true, true, 72, [1, 2, 3, 4])
  | 0x1001 => some (false, false, 6, [2, 4])
  | 0x1002 => some (true, false, 2, [2])
  | 0x1003 => some (false, false, 1, [1, 2, 3, 4, 5])
  | 0x1101 => some (true, false, 1, [6, 2, 3, 4])
  | 0x1102 => some (false, true, 1, [2, 4])
  | 0x1103 => some (true, false, 1, [6, 2, 3, 4])
  | 0x1104 => some (true, false, 0, [6, 2, 3, 4])
  | 0x1201 => some (false, false, 5, [1, 2, 3, 4])
  | 0x1202 => some (false, true, 4, [4])
  | _ => none

/-- Whether the mode in force is one of a list of Table 4.5. -/
def Dev.modeIn (s : Dev) (l : List Nat) : Bool :=
  l.contains s.mode || (l.contains 6 && decide (s.mode = 1) && decide (6 ≤ s.fg F.LCS_BOOT_STEP 0))

/-! ## The checks before a command's own (R78, R79, R84, R86, R89) -/

/-- Whether ring r is a system ring, and a Sealed system ring. -/
def Dev.ringSys (s : Dev) (r : Nat) : Bool := decide (s.fg F.CMD_RCFG_SYS r = 1)
def Dev.ringSealedSys (s : Dev) (r : Nat) : Bool := s.ringSys r && decide (s.ringWorld r = 1)

/-- The refusal of a command of this LENGTH under the rules that all commands share; rsv: its reserved fields are zero. -/
def Dev.refusal (s : Dev) (c : Cid) (len : Nat) (rsv : Bool) : Option Nat :=
  let r := c.hdr.ring
  if !rsv then some stBadParam
  else if c.hdr.world ≠ s.ringWorld r then some stBadWorld
  else match opInfo c.op with
    | none => some stBadOpcode
    | some (sys, long, n, modes) =>
      if sys && !s.ringSys r then some stDenied
      else if !s.modeIn modes then some stBadMode
      else if len ≠ n then some stBadLen
      else if long && decide (4 ≤ s.ringLongs r) then some stBusy
      else none

/-- The expected SEQ of ring r follows this one. -/
def Dev.seqNext (s : Dev) (c : Cid) : Dev := s.wr .CMD_RSEQ c.hdr.ring (BitVec.ofNat 32 (c.hdr.seq + 1))

/-- Whether the command carries the SEQ that its ring expects. -/
def Dev.seqMet (s : Dev) (c : Cid) : Bool := decide (s.rd .CMD_RSEQ c.hdr.ring = BitVec.ofNat 32 c.hdr.seq)

/-- The nonce is renewed after a KEYS or LIFE command: here after one that was not accepted as a long command (R65). -/
def Dev.spendNonce (s : Dev) (c : Cid) : Dev :=
  s.cond (keyOp c.op && decide (s.cmd.last.map (fun x => x.status) ≠ some stAccepted)) Dev.newNonce

/-- A command judged, and run if it passes. -/
def Dev.judge (s : Dev) (c : Cid) (len : Nat) (rsv : Bool) (body : Cid → Dev → Dev) : Dev :=
  if 112 < len then (s.cond (s.seqMet c) (fun s => s.seqNext c)).refuse c stBadLen 0
  else if !s.seqMet c then s.refuse c stBadSeq 0
  else
    let s := s.seqNext c
    match s.refusal c len rsv with
    | some st => (s.refuse c st 0).spendNonce c
    | none => (body c s).spendNonce c

/-- Whether ring r is served at all: PD01 on, the ring enabled, not in END, and not past step 3 of HOLDUP (R85, R89, R95). -/
def Dev.ringUp (s : Dev) (r : Nat) : Bool :=
  s.domOn 1 && decide (s.fg F.CMD_RCTL_EN r = 1) && decide (s.lcs.state ≠ 4) && decide (1 ≤ s.mode) &&
    !(decide (s.mode = 5) && decide (4 ≤ s.fg F.PWR_STAT_HUSTEP 0))

/-- Ring r marked as served last, its stall over. -/
def Dev.servedNow (s : Dev) (r : Nat) : Dev := (s.fs F.CMD_STAT_LAST 0 r).fs F.CMD_RSTAT_STALL r 0

/-- Firmware takes a command of this opcode and LENGTH from its ring, or the CMD block answers it (R52, R56, R85): nothing
is taken while the ring is not served, lacks reply room or waits at a fence. -/
def Dev.takeCmd (s : Dev) (h : CmdHdr) (op : Nat) (body : Cid → Dev → Dev) : Dev :=
  let c : Cid := { hdr := h, op := op }
  let len := ((opInfo op).map (fun x => x.2.2.1)).getD 0
  if !s.ringUp h.ring then s
  else if !s.ringHasRoom h.ring then s.fs F.CMD_RSTAT_STALL h.ring 1
  else match s.proxyStatus with
    | some st => (s.seqNext c).refuse c st 0
    | none =>
      if !s.fwRuns then s
      else if h.fence && decide (0 < s.ringLongs h.ring) then s.fs F.CMD_RSTAT_STALL h.ring 0
      else (s.servedNow h.ring).judge c len true body

/-! ## Resources (R86) -/

def resEngine (e : Nat) : Nat := 1000 + e
def resHive (h : Nat) : Nat := 2000 + h
def resGroup (g : Nat) : Nat := 3000 + g
def resPair (p : Nat) : Nat := 4000 + p
def resTable (k : Nat) : Nat := 5000 + k
def resDomain (d : Nat) : Nat := 6000 + d
def resFuse : Nat := 7000

/-- Whether an outstanding command holds one of these resources. -/
def Dev.resBusy (s : Dev) (l : List Nat) : Bool := s.cmd.long.any (fun c => c.res.any (fun x => l.contains x))

/-- A command that names these resources runs, or is refused with BUSY. -/
def Dev.naming (s : Dev) (c : Cid) (l : List Nat) (f : Dev → Dev) : Dev := if s.resBusy l then s.refuse c stBusy 0 else f s

/-! ## Worlds and engines (R90, R91) -/

/-- Whether a command of this ring may name a resource of world w (R90). -/
def Dev.mayName (s : Dev) (c : Cid) (w : Nat) : Bool := s.ringSealedSys c.hdr.ring || decide (s.ringWorld c.hdr.ring = w)

/-- Whether engine e counts as halted: HALTED or FAULTED (R89). -/
def Dev.engHalted (s : Dev) (e : Nat) : Bool := decide (s.peState e = 0) || decide (s.peState e = 2)

/-- The solo condition of engine e: its pair is 1oo1 and its partner votes (R91).  The policy is the POLICY field, not the
effective policy of a pair that TRIPGATE SOLO has put on one engine (DESIGN CHOICE, log 33). -/
def Dev.solo (s : Dev) (e : Nat) : Bool :=
  decide (s.fg F.TRG_PCFG_POLICY (e / 2) = 0) && decide (s.fg F.TRG_PCFG_VOTER (e / 2) = 1 - e % 2)

/-- A command on one engine (parameter 0): its number, its resource, its world, and R91 where `r91`. -/
def Dev.onEngine (s : Dev) (c : Cid) (e : Nat) (r91 : Bool) (f : Dev → Dev) : Dev :=
  if 64 ≤ e then s.refuse c stBadParam 0
  else if !s.mayName c (s.engWorld e) then s.refuse c stBadWorld 0
  else if r91 && decide (s.mode = 3) && !s.solo e then s.refuse c stNotReady 0
  else s.naming c [resEngine e] f

/-! ## Bulk objects (R80, R81) -/

/-- The firmware's copy of parameter i, or its refusal. -/
def Dev.bulk (s : Dev) (c : Cid) (i : Nat) (b : BulkRef) (f : Dev → List Byte → Dev) : Dev :=
  if b.addr % 64 ≠ 0 ∨ b.length < 64 ∨ 16777216 < b.length then s.refuse c stBadParam i
  else match s.dmaRead 2 (s.ringWorld c.hdr.ring) b.addr b.length with
    | (s, none) => s.refuse c stBadAddr i
    | (s, some bs) => if sha384 bs = b.digest.toNat then f s bs else s.refuse c stBadDigest i

/-! ## Fields of an object -/

/-- The n-byte little-endian number at an offset of an object. -/
def objNat (bs : List Byte) (off n : Nat) : Nat := leNat ((bs.drop off).take n)

/-- Whether n bytes at an offset are zero. -/
def objZero (bs : List Byte) (off n : Nat) : Bool := ((bs.drop off).take n).all (fun b => decide (b = 0))

/-- The DETAIL of the first check of a list that fails. -/
def firstBad (l : List (Bool × Nat)) : Option Nat := (l.find? (fun x => !x.1)).map (fun x => x.2)

end Sys2Proof.Machine
end

