-- ==== Sys2Proof/Machine/CmdMode.lean ====
section
/-!
DEFINITION. Sys2Proof/Machine/CmdMode.lean: the MODE, DOMAIN, WORLD, TIME, JOURNAL, HEALTH and RESET commands but RESET HIVE
(02 R32, R36 to R38; 01 R17; 03 R63; 04 Table 4.5, R92, R97; 05 R103, R110, R117, R118; 10 R270, R272, R490; 14 R376; 18 R466).
-/

namespace Sys2Proof.Machine

/-! ## MODE (R36 to R38) -/

/-- The changes of mode that a MODE command may ask for (Table 2.5). -/
def modeMay (old new : Nat) : Bool :=
  [(2, 3), (2, 4), (2, 0), (3, 2), (3, 4), (4, 2), (4, 3)].contains (old, new)

/-- The engines that pair k votes with. -/
def Dev.voters (s : Dev) (k : Nat) : List Nat :=
  if s.fg F.TRG_PCFG_VOTER k = 0 then [2 * k]
  else if s.fg F.TRG_PCFG_VOTER k = 1 then [2 * k + 1]
  else [2 * k, 2 * k + 1]

/-- An admitted casting with a bound TICK context in engine e. -/
def Dev.tickReady (s : Dev) (e : Nat) : Bool :=
  s.domOn (9 + e / 8) && decide (s.fg F.PE_CTL_ADMIT e = 1) && (List.range 8).any (fun c => s.isCls e c 0)

/-- The number of the first condition of R38 that does not hold: 1 castings, 2 pours, 3 timebase. -/
def Dev.serviceUnmet (s : Dev) : Option Nat :=
  let pairs := (List.range 32).filter (fun k => decide (s.fg F.TRG_PCFG_EN k = 1))
  if !pairs.all (fun k => (s.voters k).all s.tickReady) then some 1
  else if s.pourArmed then some 2
  else if s.fg F.TMB_STAT_STATE 0 = 2 ∨ s.fg F.TMB_STAT_STATE 0 = 3 ∨ s.fg F.TMB_STAT_FREEOK 0 = 1 then none
  else some 3

/-- MODE SET: the accepted change waits for its tick (R37, R39). -/
def Dev.cModeSet (s : Dev) (c : Cid) (mode : Nat) : Dev :=
  if s.pwr.pend.isSome then s.refuse c stBusy 0
  else if 6 ≤ mode then s.refuse c stBadParam 0
  else if !modeMay s.mode mode then s.refuse c stBadMode 0
  else match (if mode = 3 then s.serviceUnmet else none) with
    | some d => s.refuse c stNotReady d
    | none =>
      let n := s.tickIn20us
      let s := s.done c (leBytes 8 n)
      let s := { s with pwr := { s.pwr with pend := some (mode, n) } }
      s.setLong (s.cmd.long ++ [{ ring := c.hdr.ring, tag := c.hdr.tag, seq := c.hdr.seq, opcode := c.op }])

/-- MODE_SET (R37). -/
def execModeSet (h : CmdHdr) (mode : Nat) (s : State) : Host.Outcome State Fault Refusal :=
  run (wellFormed (.modeSet h mode)) (fun s => s.takeCmd h 0x0101 (fun c s => s.cModeSet c mode)) s

/-- The mode before the latest change: PREV in HOLDUP, DORMANT in BOOT (Table 4.5). -/
def Dev.prevMode (s : Dev) : Nat :=
  if s.mode = 5 then s.fg F.PWR_STAT_PREV 0 else if s.mode = 1 then 0 else s.pwr.lastMode

/-- MODE GET. -/
def Dev.cModeGet (s : Dev) (c : Cid) : Dev := s.done c (leBytes 8 s.tickNo ++ leBytes 1 s.mode ++ leBytes 1 s.prevMode)

/-- MODE_GET (R89). -/
def execModeGet (h : CmdHdr) (s : State) : Host.Outcome State Fault Refusal :=
  run (wellFormed (.modeGet h)) (fun s => s.takeCmd h 0x0102 (fun c s => s.cModeGet c)) s

/-! ## DOMAIN (R32) -/

/-- The domains that no DOMAIN command may name. -/
def domFixed (d : Nat) : Bool := [0, 1, 2, 7, 8, 17, 28, 29, 30, 32].contains d

/-- Whether port p carries a subscribed stream or a mapped control block. -/
def Dev.portLive (s : Dev) (p : Nat) : Bool :=
  (decide (p < 2) && (List.range 512).any (fun st => s.sdEn st && (s.sdPorts st).testBit p)) ||
    (List.range 128).any (fun b => decide (s.fg F.PUB_CFG_EN b = 1) && !(s.blockPairs b).isEmpty &&
      (s.sendPorts (s.fg F.PUB_CFG_PORTS b)).contains p)

/-- Whether bay link l carries trip commands: it sends, and a voted bit is mapped to it. -/
def Dev.linkLive (s : Dev) (l : Nat) : Bool :=
  s.lnkOn l && s.trg.map.any (fun w => decide (tmKind w = 1) && decide (tmLink w = l) && decide (s.fg F.TRG_PCFG_EN (tmPair w) = 1))

/-- Whether domain d holds a live resource. -/
def Dev.domLive (s : Dev) (d : Nat) : Bool :=
  if 9 ≤ d ∧ d ≤ 16 then (List.range 8).any (fun j => (List.range 8).any (fun c => s.bound (8 * (d - 9) + j) c))
  else if d = 3 ∨ d = 4 then s.portLive (d - 3)
  else if d = 5 then s.portLive 2 || s.portLive 3
  else if d = 6 then (List.range 4).any s.linkLive
  else false

/-- The domains that firmware switches for a mask, in order: a core's L2 goes on before it, and off after the last core of
its cluster (Table 2.2, Table 2.4). -/
def Dev.domPlan (s : Dev) (on : Bool) (l : List Nat) : List Nat :=
  let core := fun d => decide (18 ≤ d) && decide (d ≤ 25)
  if on then
    let l2 := (l.filter core).map (fun d => 26 + (d - 18) / 4)
    domOrder.filter (fun d => l.contains d || l2.contains d)
  else
    let idle := fun k => l.any (fun d => core d && decide ((d - 18) / 4 = k)) &&
      !(List.range 4).any (fun i => s.domOn (18 + 4 * k + i) && !l.contains (18 + 4 * k + i))
    (domOrder.filter (fun d => l.contains d || (decide (d = 26) && idle 0) || (decide (d = 27) && idle 1))).reverse

/-- DOMAIN ON and DOMAIN OFF: the requests go to the sequencer. -/
def Dev.cDomain (s : Dev) (c : Cid) (on : Bool) (mask : Nat) : Dev :=
  let l := onesBelow 33 mask
  if 2 ^ 33 ≤ mask then s.refuse c stBadParam 0
  else if l.any domFixed || (decide (s.mode = 1) && l.any (fun d => decide (d ≠ 31))) then s.refuse c stBadMode 0
  else s.naming c (l.map resDomain) (fun s =>
    if !on && l.any s.domLive then s.refuse c stBusy 0
    else
      let todo := (l.filter (fun d => decide (s.domOn d ≠ on))).foldl (fun a d => a + 2 ^ d) 0
      let s := s.start c (l.map resDomain) mask todo (leBytes 4 s.pwr.undrained.length)
      s.seqPut ((s.domPlan on l).map (fun d => (on, d))))

/-- The completion of a DOMAIN command, when no domain of its mask is queued or under way. -/
def Dev.endDomain (s : Dev) (k : LongCmd) (on : Bool) : Option (List Byte) :=
  if (s.pwr.seqQ ++ s.pwr.act.toList).any (fun x => k.arg.testBit x.2) then none
  else
    let did := (onesBelow 33 k.arg2).filter (fun d => decide (s.domOn d = on))
    let lost := (s.pwr.undrained.drop (leNat k.data)).filter (fun x => k.arg.testBit x.1)
    some (leBytes 8 (did.foldl (fun a d => a + 2 ^ d) 0) ++ (if on then [] else leBytes 4 (lost.foldl (fun a x => a + x.2) 0)))

/-- DOMAIN_ON (R32). -/
def execDomainOn (h : CmdHdr) (mask : DWord) (s : State) : Host.Outcome State Fault Refusal :=
  run (wellFormed (.domainOn h mask)) (fun s => s.takeCmd h 0x0201 (fun c s => s.cDomain c true mask.toNat)) s

/-- DOMAIN_OFF (R32). -/
def execDomainOff (h : CmdHdr) (mask : DWord) (s : State) : Host.Outcome State Fault Refusal :=
  run (wellFormed (.domainOff h mask)) (fun s => s.takeCmd h 0x0202 (fun c s => s.cDomain c false mask.toNat)) s

/-! ## WORLD (R17, R63, R72, R376) -/

/-- Engines of hive h. -/
def hiveEngines (h : Nat) : List Nat := (List.range 8).map (fun j => 8 * h + j)

/-- WORLD ASSIGN: the cores and hives named are of a world that the ring may name (R90), held and halted. -/
def Dev.cWorldAssign (s : Dev) (c : Cid) (cores hives world : Nat) : Dev :=
  if 2 ≤ world then s.refuse c stBadParam 2
  else if (onesBelow 8 cores).any (fun m => !s.mayName c (s.core m).world) then s.refuse c stBadWorld 0
  else if (onesBelow 8 hives).any (fun h => !s.mayName c (s.hiveWorld h)) then s.refuse c stBadWorld 1
  else s.naming c ((onesBelow 8 hives).map resHive) (fun s =>
    if (onesBelow 8 cores).any (fun m => (s.core m).released) ||
        (onesBelow 8 hives).any (fun h => (hiveEngines h).any (fun e => !s.engHalted e)) then s.refuse c stBusy 0
    else
      let s := s.each (onesBelow 8 cores) (fun s m => s.onCore m (fun x => { x with world := world }))
      (s.each (onesBelow 8 hives) (fun s h => s.fs F.HIV_CTL_WORLD h world)).done c [])

/-- WORLD_ASSIGN (R17). -/
def execWorldAssign (h : CmdHdr) (cores hives world : Nat) (s : State) : Host.Outcome State Fault Refusal :=
  run (wellFormed (.worldAssign h cores hives world)) (fun s => s.takeCmd h 0x0301 (fun c s => s.cWorldAssign c cores hives world)) s

/-- WORLD START: a held core runs from its entry address (R63, R330). -/
def Dev.cWorldStart (s : Dev) (c : Cid) (core : Nat) (entry : DWord) : Dev :=
  if 8 ≤ core then s.refuse c stBadParam 0
  else if !s.mayName c (s.core core).world then s.refuse c stBadWorld 0
  else if !s.domOn (18 + core) || (s.core core).released then s.refuse c stBusy 0
  else (s.coreRelease core entry).done c []

/-- WORLD_START (R63). -/
def execWorldStart (h : CmdHdr) (core : Nat) (entry : DWord) (s : State) : Host.Outcome State Fault Refusal :=
  run (wellFormed (.worldStart h core entry)) (fun s => s.takeCmd h 0x0302 (fun c s => s.cWorldStart c core entry)) s

/-- Whether two address ranges have a byte in common. -/
def rangesMeet (a n b m : Nat) : Bool := decide (a < b + m) && decide (b < a + n)

/-- The JRN staging ring and the disturbance capture area. -/
def Dev.stagingBase (s : Dev) : Nat := s.fg F.JRN_STGBASE_LO_BASE 0 * 2 ^ 22 + s.fg F.JRN_STGBASE_HI_BASE 0 * 2 ^ 32
def Dev.captureBase (s : Dev) : Nat := s.fg F.JRN_DRBASE_LO_BASE 0 * 2 ^ 22 + s.fg F.JRN_DRBASE_HI_BASE 0 * 2 ^ 32
def Dev.captureBytes (s : Dev) : Nat := s.fg F.JRN_DRSIZE_MIB 0 * 2 ^ 20

/-- Region r's registers written. -/
def Dev.setRegion (s : Dev) (r world base size : Nat) : Dev :=
  let s := (s.fs F.NOC_FW_BASE_LO_BASE r (base / 2 ^ 16 % 2 ^ 16)).fs F.NOC_FW_BASE_HI_BASE r (base / 2 ^ 32)
  (s.fs F.NOC_FW_SIZE_SIZE r (size / 2 ^ 16)).fs F.NOC_FW_CTL_WORLD r world

/-- WORLD REGION: the parameter that R376 refuses, if one is, and otherwise the region. -/
def Dev.cWorldRegion (s : Dev) (c : Cid) (region world base size : Nat) : Dev :=
  let others := (List.range 16).filter (fun r => decide (r ≠ region) && decide (s.fwSize r ≠ 0))
  let clash := others.any (fun r => rangesMeet base size (s.fwBase r) (s.fwSize r)) ||
    rangesMeet base size s.stagingBase (4 * 2 ^ 20) || rangesMeet base size s.captureBase s.captureBytes
  match firstBad [(decide (region < 16), 0), (decide (world < 2), 1), (decide (base % 2 ^ 16 = 0), 2),
      (decide (size % 2 ^ 16 = 0), 3), (decide (base < dramSize), 2), (decide (base + size ≤ dramSize), 3),
      (decide (size = 0) || !clash, 2)] with
  | some d => s.refuse c stBadParam d
  | none => (s.setRegion region world base size).done c []

/-- WORLD_REGION (R376). -/
def execWorldRegion (h : CmdHdr) (region world : Nat) (base size : DWord) (s : State) : Host.Outcome State Fault Refusal :=
  run (wellFormed (.worldRegion h region world base size)) (fun s =>
    s.takeCmd h 0x0303 (fun c s => s.cWorldRegion c region world base.toNat size.toNat)) s

/-- WORLD RINGCFG. -/
def Dev.cWorldRingcfg (s : Dev) (c : Cid) (ring world system : Nat) : Dev :=
  match firstBad [(decide (ring < 16), 0), (decide (world < 2), 1), (decide (system < 2), 2)] with
  | some d => s.refuse c stBadParam d
  | none =>
    if s.fg F.CMD_RCTL_EN ring = 1 then s.refuse c stBusy 0
    else ((s.fs F.CMD_RCFG_WORLD ring world).fs F.CMD_RCFG_SYS ring system).done c []

/-- WORLD_RINGCFG (R72). -/
def execWorldRingcfg (h : CmdHdr) (ring world system : Nat) (s : State) : Host.Outcome State Fault Refusal :=
  run (wellFormed (.worldRingcfg h ring world system)) (fun s => s.takeCmd h 0x0304 (fun c s => s.cWorldRingcfg c ring world system)) s

/-! ## TIME (R103, R110, R117, R118) -/

/-- TIME SOURCE: the priority list, and the search of R103 over it. -/
def Dev.cTimeSource (s : Dev) (c : Cid) (prio : List Nat) : Dev :=
  if prio.any (fun x => decide (6 < x)) then s.refuse c stBadParam 0
  else
    let word := fun (l : List Nat) => BitVec.ofNat 32 (leNat (l.map (BitVec.ofNat 8)))
    (((s.wr .TMB_SRC0 0 (word (prio.take 4))).wr .TMB_SRC1 0 (word ((prio.drop 4).take 4))).reselect).done c []

/-- TIME_SOURCE (R103). -/
def execTimeSource (h : CmdHdr) (prio : List Nat) (s : State) : Host.Outcome State Fault Refusal :=
  run (wellFormed (.timeSource h prio)) (fun s => s.takeCmd h 0x0C01 (fun c s => s.cTimeSource c prio)) s

/-- TIME FREERUN. -/
def Dev.cTimeFreerun (s : Dev) (c : Cid) (permit : Nat) : Dev :=
  if 2 ≤ permit then s.refuse c stBadParam 0 else (s.fs F.TMB_STAT_FREEOK 0 permit).done c []

/-- TIME_FREERUN (R38). -/
def execTimeFreerun (h : CmdHdr) (permit : Nat) (s : State) : Host.Outcome State Fault Refusal :=
  run (wellFormed (.timeFreerun h permit)) (fun s => s.takeCmd h 0x0C02 (fun c s => s.cTimeFreerun c permit)) s

/-- The first TAI second whose top lies at least 20 us after now. -/
def Dev.secIn20us (s : Dev) : Nat := (s.time.now + 20000 + (nsPerSec - 1)) / nsPerSec

/-- The first context of an admitted casting whose declared worst case exceeds a budget: 8 x engine + context (R118). -/
def Dev.overBudget (s : Dev) (budget : Nat) : Option Nat :=
  (List.range 512).find? (fun i => s.domOn (9 + i / 64) && decide (s.fg F.PE_CTL_ADMIT (i / 8) = 1) &&
    decide (budget < s.fg F.PE_WCET_WCET i))

/-- The first enabled pair whose publish point exceeds the period of a rate less 2 us (R118). -/
def Dev.latePair (s : Dev) (hz : Nat) : Option Nat :=
  (List.range 32).find? (fun k => decide (s.fg F.TRG_PCFG_EN k = 1) && decide (nsPerSec < (s.fg F.TRG_PP_P k + 2000) * hz))

/-- TIME RATE. -/
def Dev.cTimeRate (s : Dev) (c : Cid) (code : Nat) : Dev :=
  if 6 ≤ code then s.refuse c stBadParam 0
  else if s.pourArmed then s.refuse c stBusy 0
  else match s.overBudget (nsPerSec / rateHz code), s.latePair (rateHz code) with
    | some d, _ => s.refuse c stOverBudget d
    | none, some d => s.refuse c stNotReady d
    | none, none =>
      let sec := s.secIn20us
      let s := (s.fs F.TKG_EFFSEC_LO_SEC 0 sec).fs F.TKG_EFFSEC_HI_SEC 0 (sec / 2 ^ 32)
      (s.tkgCtlWrite (BitVec.ofNat 32 (1 + 2 * code))).done c (leBytes 8 sec)

/-- TIME_RATE (R117). -/
def execTimeRate (h : CmdHdr) (code : Nat) (s : State) : Host.Outcome State Fault Refusal :=
  run (wellFormed (.timeRate h code)) (fun s => s.takeCmd h 0x0C03 (fun c s => s.cTimeRate c code)) s

/-- TIME UTCOFS: the pending value and the second at which it applies. -/
def Dev.cTimeUtcofs (s : Dev) (c : Cid) (ofs : Nat) : Dev :=
  let sec := s.secIn20us
  let s := s.fs F.TMB_UTCOFS_NEXT 0 ofs
  ((s.fs F.TMB_UTCSEC_LO_SEC 0 sec).fs F.TMB_UTCSEC_HI_SEC 0 (sec / 2 ^ 32)).done c []

/-- TIME_UTCOFS (R110). -/
def execTimeUtcofs (h : CmdHdr) (ofs : BitVec 16) (s : State) : Host.Outcome State Fault Refusal :=
  run (wellFormed (.timeUtcofs h ofs)) (fun s => s.takeCmd h 0x0C04 (fun c s => s.cTimeUtcofs c ofs.toNat)) s

/-! ## JOURNAL (R270, R272, R490) -/

/-- JOURNAL MARK. -/
def Dev.cJournalMark (s : Dev) (c : Cid) (text : List Byte) : Dev :=
  let w := s.ringWorld c.hdr.ring
  if !s.jrnRoom 1 then s.refuse c stBusy 0
  else
    let i := s.jrnNext w
    (s.record 0x0050 c.hdr.ring w text).done c (leBytes 8 i)

/-- JOURNAL_MARK (R490). -/
def execJournalMark (h : CmdHdr) (text : List Byte) (s : State) : Host.Outcome State Fault Refusal :=
  run (wellFormed (.journalMark h text)) (fun s => s.takeCmd h 0x0D01 (fun c s => s.cJournalMark c text)) s

/-- JOURNAL SEAL: only a finished record of at most 4 MiB. -/
def Dev.cJournalSeal (s : Dev) (c : Cid) (record : Nat) : Dev :=
  match s.findCap (fun x => decide (x.id = record)) with
  | none => s.refuse c stBadParam 0
  | some (_, x) =>
    if !s.mayName c x.world then s.refuse c stBadWorld 0
    else if !s.sealable record then s.refuse c stNotReady 0
    else s.start c [] record 0 []

/-- The end of a JOURNAL SEAL: the staged records are flushed and the record is copied; the DR_INDEX record's index. -/
def Dev.endSeal (s : Dev) (record : Nat) : Dev × List Byte :=
  match s.findCap (fun x => decide (x.id = record)) with
  | none => (s, [])
  | some (_, x) => ((s.jrnFlush.sealRecord record).jrnFlush, leBytes 8 (s.jrnNext x.world))

/-- JOURNAL_SEAL (R272). -/
def execJournalSeal (h : CmdHdr) (record : Nat) (s : State) : Host.Outcome State Fault Refusal :=
  run (wellFormed (.journalSeal h record)) (fun s => s.takeCmd h 0x0D02 (fun c s => s.cJournalSeal c record)) s

/-- JOURNAL TRIGGER: refused under R270, and otherwise scheduled; NOT_READY 1 no room, 2 sixteen records being captured. -/
def Dev.cJournalTrigger (s : Dev) (c : Cid) (hives pre : Nat) : Dev :=
  let hs := onesBelow 8 hives
  let w := match hs with
    | h :: _ => s.hiveWorld h
    | [] => s.ringWorld c.hdr.ring
  let (base, room) := s.capRoom
  let x : Capture := {
    id := s.fg F.JRN_DRLAST_ID 0 + 1, hives := hives, pre := pre, post := s.fg F.JRN_DRPOST_POST 0, startTick := s.tickIn20us,
    base := base, chans := hs.map (fun h => (s.fg F.JRN_DRCH_FIRST h, s.fg F.JRN_DRCH_COUNT h)), world := w }
  if pre < 1 ∨ s.cmbD < pre + s.cmbL + 1 then s.refuse c stBadParam 1
  else if hs.any (fun h => decide (s.hiveWorld h ≠ w)) || decide (s.ringWorld c.hdr.ring ≠ w) then s.refuse c stBadWorld 0
  else s.naming c (hs.map resHive) (fun s =>
    if room < x.size then s.refuse c stNotReady 1
    else if 16 ≤ (s.jrn.caps.filter (fun y => decide (y.st < 2))).length then s.refuse c stNotReady 2
    else
      let s := s.fs F.JRN_DRLAST_ID 0 x.id
      (({ s with jrn := { s.jrn with caps := s.jrn.caps ++ [x] } } : Dev)).done c (leBytes 4 x.id))

/-- JOURNAL_TRIGGER (R270). -/
def execJournalTrigger (h : CmdHdr) (hives pre : Nat) (s : State) : Host.Outcome State Fault Refusal :=
  run (wellFormed (.journalTrigger h hives pre)) (fun s => s.takeCmd h 0x0D03 (fun c s => s.cJournalTrigger c hives pre)) s

/-! ## HEALTH (R466) -/

/-- A threshold of a temperature monitor in range, in units of 0.125 C. -/
def tempOk (v : Nat) : Bool := decide (-320 ≤ sext 16 v) && decide (sext 16 v ≤ 1200)

/-- HEALTH THRESH: the parameter that R466 refuses, if one is, and otherwise the thresholds. -/
def Dev.cHealthThresh (s : Dev) (c : Cid) (n warn alarm : Nat) : Dev :=
  let temp := decide (n < 16)
  let order := if n < 16 then decide (sext 16 warn ≤ sext 16 alarm) else if n < 55 then decide (warn ≤ alarm) else decide (alarm ≤ warn)
  match firstBad [(decide (n ≤ 66), 0), (!temp || tempOk warn, 1), (!temp || tempOk alarm, 2), (order, 1)] with
  | some d => s.refuse c stBadParam d
  | none => ((s.fs F.HLT_MON_THRESH_WARN n warn).fs F.HLT_MON_THRESH_ALARM n alarm).done c []

/-- HEALTH_THRESH (R466). -/
def execHealthThresh (h : CmdHdr) (monitor : Nat) (warn alarm : BitVec 16) (s : State) : Host.Outcome State Fault Refusal :=
  run (wellFormed (.healthThresh h monitor warn alarm)) (fun s => s.takeCmd h 0x1001 (fun c s => s.cHealthThresh c monitor warn.toNat alarm.toNat)) s

/-- HEALTH POLICY: bit 1 acts on FAULT_N at once. -/
def Dev.cHealthPolicy (s : Dev) (c : Cid) (n action : Nat) : Dev :=
  if 74 < n then s.refuse c stBadParam 0
  else if 4 ≤ action then s.refuse c stBadParam 1
  else (s.faultEdge (fun s => s.fs F.HLT_MON_CFG_ACTION n action)).done c []

/-- HEALTH_POLICY (R466). -/
def execHealthPolicy (h : CmdHdr) (monitor action : Nat) (s : State) : Host.Outcome State Fault Refusal :=
  run (wellFormed (.healthPolicy h monitor action)) (fun s => s.takeCmd h 0x1002 (fun c s => s.cHealthPolicy c monitor action)) s

/-- HEALTH READ. -/
def Dev.cHealthRead (s : Dev) (c : Cid) (n : Nat) : Dev :=
  if 74 < n then s.refuse c stBadParam 0
  else s.done c (leBytes 2 (s.fg F.HLT_MON_VAL_VALUE n) ++ leBytes 1 (s.fg F.HLT_MON_VAL_STATE n))

/-- HEALTH_READ (R466). -/
def execHealthRead (h : CmdHdr) (monitor : Nat) (s : State) : Host.Outcome State Fault Refusal :=
  run (wellFormed (.healthRead h monitor)) (fun s => s.takeCmd h 0x1003 (fun c s => s.cHealthRead c monitor)) s

/-! ## RESET (R93, R97, Table 4.6) -/

/-- RESET RING: any ring but the issuing one. -/
def Dev.cResetRing (s : Dev) (c : Cid) (ring : Nat) : Dev :=
  if 16 ≤ ring ∨ ring = c.hdr.ring then s.refuse c stBadParam 0 else (s.ringReset ring).done c []

/-- RESET_RING (R97). -/
def execResetRing (h : CmdHdr) (ring : Nat) (s : State) : Host.Outcome State Fault Refusal :=
  run (wellFormed (.resetRing h ring)) (fun s => s.takeCmd h 0x1101 (fun c s => s.cResetRing c ring)) s

/-- RESET CORE: the core is held at reset (Table 4.6); one whose domain is off holds nothing. -/
def Dev.cResetCore (s : Dev) (c : Cid) (core : Nat) : Dev :=
  if 8 ≤ core then s.refuse c stBadParam 0
  else if !s.mayName c (s.core core).world then s.refuse c stBadWorld 0
  else (s.cond (s.domOn (18 + core)) (fun s => s.coreReset core)).done c []

/-- RESET_CORE (Table 4.6). -/
def execResetCore (h : CmdHdr) (core : Nat) (s : State) : Host.Outcome State Fault Refusal :=
  run (wellFormed (.resetCore h core)) (fun s => s.takeCmd h 0x1103 (fun c s => s.cResetCore c core)) s

/-- RESET MODULE: the reply, then the reset (R93). -/
def Dev.cResetModule (s : Dev) (c : Cid) : Dev := (s.done c []).moduleReset 2

/-- RESET_MODULE (R93). -/
def execResetModule (h : CmdHdr) (s : State) : Host.Outcome State Fault Refusal :=
  run (wellFormed (.resetModule h)) (fun s => s.takeCmd h 0x1104 (fun c s => s.cResetModule c)) s

end Sys2Proof.Machine
end

