-- ==== Sys2Proof/Machine/CmdEngine.lean ====
section
/-!
DEFINITION. Sys2Proof/Machine/CmdEngine.lean: the CAST, BIND, COMB, SETS, POUR, TRIPGATE PAIR, TRIPGATE SOLO, DEBUG and RESET
HIVE commands (04 R91, R92, R96; 06 R140, R156; 08 R211 to R215; 09 R240; 10 R245 to R254).
-/

namespace Sys2Proof.Machine

/-- A sparse map of a list of values that stands from a key on. -/
def SMap.ofList {α : Type} [DecidableEq α] (d : α) (k : Nat) (l : List α) : SMap α :=
  (((List.range l.length).map (fun i => k + i)).zip l).filter (fun x => decide (x.2 ≠ d))

/-- A length padded to a multiple of 64 bytes. -/
def pad64 (n : Nat) : Nat := (n + 63) / 64 * 64

/-- The n 16-bit words of an object from an offset on. -/
def objWords (bs : List Byte) (off n : Nat) : List (BitVec 16) :=
  (List.range n).map (fun i => BitVec.ofNat 16 (objNat bs (off + 2 * i) 2))

/-! ## CAST (R211 to R215) -/

/-- Bundle i of a casting. -/
def castBundle (bs : List Byte) (i : Nat) : BitVec 128 := BitVec.ofNat 128 (objNat bs (256 + 16 * i) 16)

/-- Whether context c is present in a casting. -/
def castHas (bs : List Byte) (c : Nat) : Bool := decide (objNat bs (0x22 + 16 * c) 2 % 2 = 1)

/-- Check 1 of R212: MAGIC, FORMAT and the zero fields, an absent context's WCET among them. -/
def castZero (bs : List Byte) : Option Nat :=
  firstBad ([(decide (objNat bs 0 4 = 0x4143564D), 0), (decide (objNat bs 4 2 = 1), 4), (decide (objNat bs 6 2 < 2), 6),
    (objZero bs 0x14 12, 0x14)] ++
    (List.range 8).flatMap (fun c => [(decide (objNat bs (0x22 + 16 * c) 2 < 2), 0x22 + 16 * c),
      (castHas bs c || decide (objNat bs (0x24 + 16 * c) 4 = 0), 0x24 + 16 * c), (objZero bs (0x28 + 16 * c) 8, 0x28 + 16 * c)]) ++
    [(objZero bs 0xA4 28, 0xA4), (objZero bs 0xF0 16, 0xF0)])

/-- Checks 2 to 4 of R212. -/
def castShape (bs : List Byte) (world : Nat) : Option Nat :=
  let nb := objNat bs 8 4
  let nd := objNat bs 0xC 4
  firstBad ([(decide (objNat bs 6 2 = world), 6), (decide (1 ≤ nb) && decide (nb ≤ 8192), 8), (decide (nd ≤ 65536), 0xC),
    (decide (objNat bs 0x10 4 + nd ≤ 65536), 0x10), (decide (bs.length = pad64 (256 + 16 * nb + 2 * nd)), 8),
    ((List.range 8).any (castHas bs), 0x22)] ++
    (List.range 8).map (fun c => (!castHas bs c || decide (objNat bs (0x20 + 16 * c) 2 < nb), 0x20 + 16 * c)))

/-- Check 5 of R212: the offset of the first bundle that meets an encoding condition of Table 7.7. -/
def castEnc (bs : List Byte) : Option Nat :=
  ((List.range (objNat bs 8 4)).find? (fun i => !((Bundle.dec (castBundle bs i)).encSlots profileE).isEmpty)).map (fun i => 256 + 16 * i)

/-- The checks of R212 in order: a refusal and its DETAIL. -/
def Dev.castCheck (s : Dev) (e : Nat) (bs : List Byte) : Option (Nat × Nat) :=
  match castZero bs with
  | some d => some (stBadImage, d)
  | none =>
    match castShape bs (s.engWorld e) with
    | some d => some (stBadImage, d)
    | none =>
      match castEnc bs with
      | some d => some (stBadImage, d)
      | none =>
        ((List.range 8).find? (fun c => decide (nsPerSec / s.F < objNat bs (0x24 + 16 * c) 4))).map (fun c => (stOverBudget, c))

/-- A command on one engine of a hive that is on. -/
def Dev.onLiveEngine (s : Dev) (c : Cid) (e : Nat) (r91 : Bool) (f : Dev → Dev) : Dev :=
  s.onEngine c e r91 (fun s => if !s.domOn (9 + e / 8) then s.refuse c stNotReady 0 else f s)

/-- CAST LOAD: the engine is not admitted while the load is under way. -/
def Dev.cCastLoad (s : Dev) (c : Cid) (e : Nat) (b : BulkRef) : Dev :=
  s.onLiveEngine c e true (fun s =>
    if !s.engHalted e then s.refuse c stBusy 0
    else s.bulk c 1 b (fun s bs =>
      match s.castCheck e bs with
      | some (st, d) => s.refuse c st d
      | none => ((s.peHalt e).fs F.PE_CTL_ADMIT e 0).start c [resEngine e] e 0 bs))

/-- Every context of engine e unbound. -/
def Dev.unbindAll (s : Dev) (e : Nat) : Dev := s.each (List.range 8) (fun s c => s.fs F.PE_CTX_BIND_BOUND (8 * e + c) 0)

/-- The load itself, in the order of R213; the first words of the result are WCET0 to WCET3. -/
def Dev.castWrite (s : Dev) (e : Nat) (bs : List Byte) : Dev :=
  let prog := SMap.ofList (BitVec.allOnes 128) 0 ((List.range (objNat bs 8 4)).map (castBundle bs))
  let data := SMap.ofList (0 : BitVec 16) (objNat bs 0x10 4) (objWords bs (256 + 16 * objNat bs 8 4) (objNat bs 0xC 4))
  let s := (s.serveHive (e / 8)).onEng e (fun x =>
    { x with prog := prog, data := data, sdft := [], ctx := [], fly := x.fly.filter (fun f => decide (f.kind = 2)) })
  let s := (s.unbindAll e).each (List.range 8) (fun s c =>
    let s := s.fs F.PE_CTX_ENTRY_ADDR (8 * e + c) (objNat bs (0x20 + 16 * c) 2)
    s.fs F.PE_WCET_WCET (8 * e + c) (objNat bs (0x24 + 16 * c) 4))
  let dg := beBytes 48 (sha384 bs)
  let s := (s.fs F.PE_CASTID_ID e (leNat (dg.take 4))).fs F.PE_CTL_ADMIT e 1
  s.record 0x0020 e (s.engWorld e) (leBytes 4 e ++ dg.take 16 ++ (bs.drop 0xC0).take 12)

/-- The result of CAST LOAD. -/
def castResult (bs : List Byte) : List Byte := (List.range 4).flatMap (fun c => (bs.drop (0x24 + 16 * c)).take 4)

/-- CAST_LOAD (R212). -/
def execCastLoad (h : CmdHdr) (engine : Nat) (bulk : BulkRef) (s : State) : Host.Outcome State Fault Refusal :=
  run (wellFormed (.castLoad h engine bulk)) (fun s => s.takeCmd h 0x0401 (fun c s => s.cCastLoad c engine bulk)) s

/-- CAST HALT. -/
def Dev.cCastHalt (s : Dev) (c : Cid) (e : Nat) : Dev := s.onLiveEngine c e true (fun s => (s.peHalt e).done c [])

/-- CAST_HALT (R215). -/
def execCastHalt (h : CmdHdr) (engine : Nat) (s : State) : Host.Outcome State Fault Refusal :=
  run (wellFormed (.castHalt h engine)) (fun s => s.takeCmd h 0x0402 (fun c s => s.cCastHalt c engine)) s

/-- CAST RUN: the start tick of R92. -/
def Dev.cCastRun (s : Dev) (c : Cid) (e : Nat) : Dev :=
  s.onLiveEngine c e false (fun s =>
    if s.fg F.PE_CTL_ADMIT e = 0 then s.refuse c stNotReady 0
    else if s.running e then s.refuse c stBusy 0
    else
      let n := s.tickIn20us
      ((s.wr64 .PE_RUNTICK_LO .PE_RUNTICK_HI e n).peRun e).done c (leBytes 8 n))

/-- CAST_RUN (R92). -/
def execCastRun (h : CmdHdr) (engine : Nat) (s : State) : Host.Outcome State Fault Refusal :=
  run (wellFormed (.castRun h engine)) (fun s => s.takeCmd h 0x0403 (fun c s => s.cCastRun c engine)) s

/-! ## BIND (R222) -/

/-- BIND SET: only on a halted engine; K counts in class 2 alone. -/
def Dev.cBindSet (s : Dev) (c : Cid) (e x cls k policy : Nat) : Dev :=
  s.onLiveEngine c e true (fun s =>
    if !s.engHalted e then s.refuse c stBusy 0
    else match firstBad [(decide (x < 8), 1), (decide (cls ≤ 6), 2), (decide (cls ≠ 2) || (decide (2 ≤ k) && decide (k ≤ 256)), 3),
        (decide (policy < 2), 4)] with
      | some d => s.refuse c stBadParam d
      | none =>
        let i := 8 * e + x
        let s := ((s.fs F.PE_CTX_BIND_CLASS i cls).fs F.PE_CTX_BIND_POLICY i policy).fs F.PE_CTX_BIND_BOUND i 1
        (s.fs F.PE_CTX_BIND_K i (if cls = 2 then k else 0)).done c [])

/-- BIND_SET (R222). -/
def execBindSet (h : CmdHdr) (engine context cls k policy : Nat) (s : State) : Host.Outcome State Fault Refusal :=
  run (wellFormed (.bindSet h engine context cls k policy)) (fun s =>
    s.takeCmd h 0x0501 (fun c s => s.cBindSet c engine context cls k policy)) s

/-- BIND CLEAR. -/
def Dev.cBindClear (s : Dev) (c : Cid) (e x : Nat) : Dev :=
  s.onLiveEngine c e true (fun s =>
    if !s.engHalted e then s.refuse c stBusy 0
    else if 8 ≤ x then s.refuse c stBadParam 1
    else (s.fs F.PE_CTX_BIND_BOUND (8 * e + x) 0).done c [])

/-- BIND_CLEAR (R222). -/
def execBindClear (h : CmdHdr) (engine context : Nat) (s : State) : Host.Outcome State Fault Refusal :=
  run (wellFormed (.bindClear h engine context)) (fun s => s.takeCmd h 0x0502 (fun c s => s.cBindClear c engine context)) s

/-! ## COMB CONFIG (R140, R156) -/

/-- Base-2 logarithm of a power of two from 128 to 4,096. -/
def combLog (d : Nat) : Option Nat := [7, 8, 9, 10, 11, 12].find? (fun k => decide (2 ^ k = d))

/-- COMB CONFIG: a new geometry, with the flush of R155. -/
def Dev.cCombConfig (s : Dev) (c : Cid) (chans depth lag fill : Nat) : Dev :=
  if (List.range 64).any (fun e => !s.engHalted e) then s.refuse c stBusy 0
  else match firstBad [(decide (1 ≤ chans) && decide (chans ≤ 4096), 0), ((combLog depth).isSome, 1),
      (decide (chans * depth ≤ 1048576), 1), (decide (1 ≤ lag) && decide (lag ≤ 64), 2), (decide (fill < 2), 3)] with
    | some d => s.refuse c stBadParam d
    | none =>
      let s := (s.fs F.CMB_CFG_CHANS 0 chans).fs F.CMB_CFG_DLOG 0 ((combLog depth).getD 7)
      (((s.fs F.CMB_CFG_LAG 0 lag).fs F.CMB_CFG_FILL 0 fill).combFlush).done c []

/-- COMB_CONFIG (R140). -/
def execCombConfig (h : CmdHdr) (channels depth lag fill : Nat) (s : State) : Host.Outcome State Fault Refusal :=
  run (wellFormed (.combConfig h channels depth lag fill)) (fun s =>
    s.takeCmd h 0x0701 (fun c s => s.cCombConfig c channels depth lag fill)) s

/-! ## SETS STAGE (R245) -/

/-- Table 10.1: the DETAIL of the first check of a settings image that fails. -/
def setsCheck (bs : List Byte) : Option Nat :=
  let n := objNat bs 8 4
  firstBad [(decide (objNat bs 0 4 = 0x5445534D), 0), (decide (objNat bs 4 2 = 1), 4), (decide (objNat bs 6 2 < 2), 6),
    (decide (1 ≤ n) && decide (n ≤ 8192), 8), (decide (bs.length = pad64 (64 + 2 * n)), 8), (objZero bs 0x10 48, 0x10)]

/-- Why engine e cannot be staged, if it cannot: a refusal and its DETAIL; an engine of another world than the ring's or the
image's is one of the other world (DESIGN CHOICE, log 33). -/
def Dev.setsRefuse (s : Dev) (c : Cid) (world e : Nat) : Option (Nat × Nat) :=
  if !s.mayName c (s.engWorld e) ∨ s.engWorld e ≠ world then some (stBadWorld, 0)
  else if !s.domOn (9 + e / 8) then some (stNotReady, e)
  else if s.engArmed e || s.oldUse e then some (stBusy, e)
  else none

/-- SETS STAGE: the shadow banks named are invalid while they are written. -/
def Dev.cSetsStage (s : Dev) (c : Cid) (mask : Nat) (b : BulkRef) : Dev :=
  let es := onesBelow 64 mask
  s.naming c (es.map resEngine) (fun s => s.bulk c 1 b (fun s bs =>
    match setsCheck bs with
    | some d => s.refuse c stBadImage d
    | none =>
      match es.findSome? (s.setsRefuse c (objNat bs 6 2)) with
      | some (st, d) => s.refuse c st d
      | none => (s.each es (fun s e => s.fs F.SET_ESTAT_SHVALID e 0)).start c (es.map resEngine) mask 0 bs))

/-- The staging itself: words, zeros behind them, SETID and SHVALID. -/
def Dev.setsWrite (s : Dev) (mask : Nat) (bs : List Byte) : Dev :=
  let bank := SMap.ofList (0 : BitVec 16) 0 (objWords bs 64 (objNat bs 8 4))
  s.each (onesBelow 64 mask) (fun s e =>
    let sh := 1 - s.fg F.SET_ESTAT_ACTIVE e
    let s := s.onEng e (fun x => if sh = 1 then { x with bank1 := bank } else { x with bank0 := bank })
    (s.wr .SET_SID e (BitVec.ofNat 32 (objNat bs 0xC 4))).fs F.SET_ESTAT_SHVALID e 1)

/-- SETS_STAGE (R245). -/
def execSetsStage (h : CmdHdr) (mask : DWord) (bulk : BulkRef) (s : State) : Host.Outcome State Fault Refusal :=
  run (wellFormed (.setsStage h mask bulk)) (fun s => s.takeCmd h 0x0801 (fun c s => s.cSetsStage c mask.toNat bulk)) s

/-! ## POUR (R248 to R251) -/

/-- A command on a pour group (parameter 0) whose engines it may name. -/
def Dev.onGroup (s : Dev) (c : Cid) (g : Nat) (f : Dev → Dev) : Dev :=
  if 16 ≤ g then s.refuse c stBadParam 0
  else if (s.pgEngines g).any (fun e => !s.mayName c (s.engWorld e)) then s.refuse c stBadWorld 0
  else f s

/-- The mask of group g set. -/
def Dev.setMask (s : Dev) (g m : Nat) : Dev := s.wr64 .SET_PG_MASK_LO .SET_PG_MASK_HI g m

/-- POUR GROUP: the engines named leave any other group. -/
def Dev.cPourGroup (s : Dev) (c : Cid) (g mask : Nat) : Dev :=
  let es := onesBelow 64 mask
  s.onGroup c g (fun s =>
    if es.any (fun e => !s.mayName c (s.engWorld e)) then s.refuse c stBadWorld 1
    else s.naming c (resGroup g :: es.map resEngine) (fun s =>
      if s.pgArmed g || es.any s.engArmed then s.refuse c stBusy 0
      else
        let s := s.each ((List.range 16).filter (fun x => decide (x ≠ g))) (fun s x =>
          s.setMask x ((s.pgEngines x).foldl (fun a e => if mask.testBit e then a else a + 2 ^ e) 0))
        (s.setMask g mask).done c []))

/-- POUR_GROUP (R248). -/
def execPourGroup (h : CmdHdr) (group : Nat) (mask : DWord) (s : State) : Host.Outcome State Fault Refusal :=
  run (wellFormed (.pourGroup h group mask)) (fun s => s.takeCmd h 0x0901 (fun c s => s.cPourGroup c group mask.toNat)) s

/-- POUR ARM: preconditions, TOO_LATE, then TICK and ARM (R92, R249). -/
def Dev.cPourArm (s : Dev) (c : Cid) (g n : Nat) : Dev :=
  s.onGroup c g (fun s => s.naming c [resGroup g] (fun s =>
    if s.pgArmed g then s.refuse c stBusy 0
    else match (s.pgEngines g).find? (fun e => decide (s.fg F.SET_ESTAT_SHVALID e = 0)) with
      | some e => s.refuse c stNotReady e
      | none =>
        if tickAt s.F n < s.time.now + 20000 then s.refuse c stTooLate 0
        else
          let s := (s.wr64 .SET_PG_TICK_LO .SET_PG_TICK_HI g n).pgArm g
          s.start c [resGroup g] g n []))

/-- How a POUR ARM ends, once ARM is clear: status, DETAIL and RESULT. -/
def Dev.endPour (s : Dev) (g n : Nat) : Option (Nat × Nat × List Byte) :=
  if s.pgArmed g then none
  else if s.fg F.SET_PG_CTL_DONE g = 1 ∧ s.rd64 .SET_PG_SWAP_LO .SET_PG_SWAP_HI g = n then some (stOK, 0, leBytes 8 n)
  else if s.fg F.SET_PG_CTL_INVAL g = 1 then some (stNotReady, s.fg F.SET_PG_CTL_BADENG g, [])
  else some (stTooLate, 0, [])

/-- POUR_ARM (R249). -/
def execPourArm (h : CmdHdr) (group : Nat) (tick : DWord) (s : State) : Host.Outcome State Fault Refusal :=
  run (wellFormed (.pourArm h group tick)) (fun s => s.takeCmd h 0x0902 (fun c s => s.cPourArm c group tick.toNat)) s

/-- Whether an outstanding command is the POUR ARM of group g. -/
def LongCmd.poursGroup (k : LongCmd) (g : Nat) : Bool := decide (k.opcode = 0x0902) && decide (k.arg = g)

/-- POUR DISARM (R251). -/
def Dev.cPourDisarm (s : Dev) (c : Cid) (g : Nat) : Dev :=
  s.onGroup c g (fun s =>
    if s.pgArmed g then
      ((s.fs F.SET_PG_CTL_ARM g 0).done c (leBytes 1 1)).abortLongs (fun k => k.poursGroup g) stDisarmed
    else s.done c (leBytes 1 0))

/-- POUR_DISARM (R251). -/
def execPourDisarm (h : CmdHdr) (group : Nat) (s : State) : Host.Outcome State Fault Refusal :=
  run (wellFormed (.pourDisarm h group)) (fun s => s.takeCmd h 0x0903 (fun c s => s.cPourDisarm c group)) s

/-! ## TRIPGATE PAIR and SOLO (R252 to R257) -/

/-- A command on one pair (parameter 0). -/
def Dev.onPair (s : Dev) (c : Cid) (k : Nat) (f : Dev → Dev) : Dev :=
  if 32 ≤ k then s.refuse c stBadParam 0
  else if !s.mayName c (s.pairWorld k) then s.refuse c stBadWorld 0
  else s.naming c [resPair k] f

/-- TRIPGATE PAIR: VOTER becomes 0 with 1oo1 and 2 with a policy of two engines; enabling resets the previous word. -/
def Dev.cTripgatePair (s : Dev) (c : Cid) (k policy pp enable : Nat) : Dev :=
  s.onPair c k (fun s =>
    match firstBad [(decide (policy < 3), 1), (decide (2000 ≤ pp) && decide (pp + 2000 ≤ nsPerSec / s.F), 2), (decide (enable < 2), 3)] with
    | some d => s.refuse c stBadParam d
    | none =>
      let s := (s.fs F.TRG_PCFG_POLICY k policy).fs F.TRG_PCFG_VOTER k (if policy = 0 then 0 else 2)
      let s := s.pairRises k (fun s => s.fs F.TRG_PCFG_EN k enable)
      ((s.fs F.TRG_PP_P k pp).fs F.TRG_PSOLO_PEND k 0).done c [])

/-- TRIPGATE_PAIR (R252). -/
def execTripgatePair (h : CmdHdr) (pair policy pp enable : Nat) (s : State) : Host.Outcome State Fault Refusal :=
  run (wellFormed (.tripgatePair h pair policy pp enable)) (fun s =>
    s.takeCmd h 0x0A01 (fun c s => s.cTripgatePair c pair policy pp enable)) s

/-- TRIPGATE SOLO: the voter and its tick (R92, R254). -/
def Dev.cTripgateSolo (s : Dev) (c : Cid) (k voter : Nat) : Dev :=
  s.onPair c k (fun s =>
    if 3 ≤ voter ∨ (voter = 2 ∧ s.fg F.TRG_PCFG_POLICY k = 0) then s.refuse c stBadParam 1
    else
      let n := s.tickIn20us
      let s := (s.fs F.TRG_PSOLO_NVOTER k voter).fs F.TRG_PSOLO_PEND k 1
      (s.wr64 .TRG_STICK_LO .TRG_STICK_HI k n).done c (leBytes 8 n))

/-- TRIPGATE_SOLO (R254). -/
def execTripgateSolo (h : CmdHdr) (pair voter : Nat) (s : State) : Host.Outcome State Fault Refusal :=
  run (wellFormed (.tripgateSolo h pair voter)) (fun s => s.takeCmd h 0x0A02 (fun c s => s.cTripgateSolo c pair voter)) s

/-! ## DEBUG (Table 3.6, R238, R240) -/

/-- DEBUG ENGBRK: a bundle breakpoint set or cleared. -/
def Dev.cDebugEngbrk (s : Dev) (c : Cid) (e slot addr enable : Nat) : Dev :=
  s.onLiveEngine c e false (fun s =>
    if !s.unlockReach (s.engWorld e) then s.refuse c stDenied 0
    else match firstBad [(decide (slot < 2), 1), (decide (addr < 8192), 2), (decide (enable < 2), 3)] with
      | some d => s.refuse c stBadParam d
      | none => ((s.fs F.PE_BRK_ADDR (2 * e + slot) addr).fs F.PE_BRK_EN (2 * e + slot) enable).done c [])

/-- DEBUG_ENGBRK (R238). -/
def execDebugEngbrk (h : CmdHdr) (engine slot addr enable : Nat) (s : State) : Host.Outcome State Fault Refusal :=
  run (wellFormed (.debugEngbrk h engine slot addr enable)) (fun s =>
    s.takeCmd h 0x1201 (fun c s => s.cDebugEngbrk c engine slot addr enable)) s

/-- DEBUG STEP: step mode from the tick of R240; 0 ticks end it there. -/
def Dev.cDebugStep (s : Dev) (c : Cid) (hives ticks : Nat) : Dev :=
  let hs := onesBelow 8 hives
  if hs.any (fun h => !s.mayName c (s.hiveWorld h)) then s.refuse c stBadWorld 0
  else if hs.any (fun h => !s.unlockReach (s.hiveWorld h)) then s.refuse c stDenied 0
  else s.naming c (hs.map resHive) (fun s =>
    let n := s.tickIn20us
    let s := s.each hs (fun s h => s.onHive h (fun x => { x with stepStart := some (n, ticks) }))
    s.start c (hs.map resHive) hives (n + ticks - 1 + b2n (decide (ticks = 0))) [])

/-- DEBUG_STEP (R240). -/
def execDebugStep (h : CmdHdr) (hives ticks : Nat) (s : State) : Host.Outcome State Fault Refusal :=
  run (wellFormed (.debugStep h hives ticks)) (fun s => s.takeCmd h 0x1202 (fun c s => s.cDebugStep c hives ticks)) s

/-! ## RESET HIVE (R96) -/

/-- RESET HIVE: the reset follows at completion; another command on the hive does not hold it up, but another reset does. -/
def Dev.cResetHive (s : Dev) (c : Cid) (h : Nat) : Dev :=
  if 8 ≤ h then s.refuse c stBadParam 0
  else if !s.mayName c (s.hiveWorld h) then s.refuse c stBadWorld 0
  else if s.cmd.long.any (fun k => decide (k.opcode = 0x1102) && decide (k.arg = h)) then s.refuse c stBusy 0
  else if !s.domOn (9 + h) then s.refuse c stNotReady 0
  else s.start c [resHive h] h 0 []

/-- Whether an outstanding command works on hive h, its engines or a group that holds one of them. -/
def Dev.onHiveLong (s : Dev) (h : Nat) (k : LongCmd) : Bool :=
  decide (k.opcode ≠ 0x1102) && (k.res.contains (resHive h) || (hiveEngines h).any (fun e => k.res.contains (resEngine e)) ||
    (decide (k.opcode = 0x0902) && (hiveEngines h).any (fun e => (s.pgMask k.arg).testBit e)))

/-- The reset of hive h: armed groups are disarmed, outstanding commands end with ABORTED_RESET, and the hive is left as a
hive domain just switched on. -/
def Dev.hiveReset (s : Dev) (h : Nat) : Dev :=
  let gs := (List.range 16).filter (fun g => s.pgArmed g && (hiveEngines h).any (fun e => (s.pgMask g).testBit e))
  let s := s.each gs (fun s g => s.fs F.SET_PG_CTL_ARM g 0)
  (s.abortLongs (s.onHiveLong h) stAbortedReset).resetHiveState h |>.freshSets h

/-- RESET_HIVE (R96). -/
def execResetHive (h : CmdHdr) (hive : Nat) (s : State) : Host.Outcome State Fault Refusal :=
  run (wellFormed (.resetHive h hive)) (fun s => s.takeCmd h 0x1102 (fun c s => s.cResetHive c hive)) s

end Sys2Proof.Machine
end

