-- ==== Sys2Proof/Machine/CmdTable.lean ====
section
/-!
DEFINITION. Sys2Proof/Machine/CmdTable.lean: the commands that carry a table or change what one loaded: STREAM, TRIPGATE MAP and
PUBLISH (06 R136, R137, R156, R157; 10 R259, R261, R262).  DETAIL of BAD_IMAGE is the offset of the byte that holds the
lowest bit of the offending field.
-/

namespace Sys2Proof.Machine

/-! ## STREAM TABLE (R137, R156, R157) -/

/-- Codes of table kinds for R86. -/
def kindStream : Nat := 0
def kindMap : Nat := 1
def kindPub : Nat := 2

/-- The header of a stream table, and the room that its counts need. -/
def tabHeader (t : List Byte) : Option Nat :=
  let ns := tabStreams t
  let ng := tabGooses t
  firstBad [(decide (tabWord t 0 = 0x5453564D), 0), (decide (ns ≤ 512), 4), (decide (ng ≤ 256), 6), (decide (tabKeys t ≤ 32), 8),
    (objZero t 10 54, 10), (decide (64 + 64 * ns ≤ t.length), 4), (decide (64 + 64 * (ns + ng) ≤ t.length), 6),
    (decide (keyOff t (tabKeys t) ≤ t.length), 8)]

/-- What the checks of descriptors have gathered: identities of subscriptions of either kind, and channels mapped. -/
structure TabSeen where
  id : List (Nat × Nat × Nat) := []
  ch : List Nat := []
  deriving DecidableEq, Repr

/-- Destination MAC, APPID and CRC of the descriptor at an offset. -/
def tabIdent (t : List Byte) (o : Nat) : Nat × Nat × Nat := (objNat t o 6, objNat t (o + 6) 2, tabWord t (o + 8))

/-- Channels taken in turn, with the offset of each one's field: the first that is at or above C or taken already. -/
def tabChans (cmax : Nat) : List (Nat × Nat) → List Nat → List Nat × Option Nat
  | [], used => (used, none)
  | (ch, off) :: l, used => if ch < cmax ∧ ch ∉ used then tabChans cmax l (used ++ [ch]) else (used, some off)

/-- Fields of the stream descriptor at offset o that lie outside Table 6.9. -/
def tabSvFields (t : List Byte) (o : Nat) : Option Nat :=
  let w4 := tabWord t (o + 16)
  let w5 := tabWord t (o + 20)
  firstBad [(decide (1000 ≤ bits w4 15 0) && decide (bits w4 15 0 ≤ 20000), o + 16),
    (decide (1 ≤ bits w4 19 16) && decide (bits w4 19 16 ≤ 8), o + 18), (decide (1 ≤ bits w4 24 20) && decide (bits w4 24 20 ≤ 16), o + 18),
    (decide (bits w4 26 25 ≠ 3), o + 19), (decide (1 ≤ bits w5 7 0), o + 20), (decide (bits w5 14 13 ≠ 3), o + 21),
    (decide (bits w5 31 30 = 0), o + 23), (decide (bits (tabWord t (o + 36)) 31 16 < 2 ^ bits w4 24 20), o + 38)]

/-- The mapped channels of the stream descriptor at offset o. -/
def tabSvChans (t : List Byte) (o : Nat) : List (Nat × Nat) :=
  (onesBelow 16 (bits (tabWord t (o + 36)) 31 16)).map (fun c => (bits (objNat t (o + 40) 24) (12 * c + 11) (12 * c), o + 40 + 12 * c / 8))

/-- Fields of the GOOSE descriptor at offset o that lie outside Table 6.10; a mapping names members that the dataset has (R134).
A descriptor gives no member types: of a member of another type the table says nothing, and its cell stays as it is (log 49). -/
def tabGsFields (t : List Byte) (o : Nat) : Option Nat :=
  let w5 := tabWord t (o + 20)
  firstBad ([(decide (1 ≤ bits w5 5 0) && decide (bits w5 5 0 ≤ 32), o + 20), (decide (bits w5 12 11 ≠ 3), o + 21),
    (decide (bits w5 31 20 = 0), o + 22)] ++
    (List.range 10).flatMap (fun e =>
      let a := o + 24 + 4 * e
      let w := tabWord t a
      [(decide (bits w 31 25 = 0), a + 3), (!bitAt w 24 || decide (bits w 16 12 < bits w5 5 0), a + 1),
       (!bitAt w 24 || !bitAt w 22 || decide (bits w 21 17 < bits w5 5 0), a + 2)]))

/-- The mapped channels of the GOOSE descriptor at offset o. -/
def tabGsChans (t : List Byte) (o : Nat) : List (Nat × Nat) :=
  ((List.range 10).map (fun e => o + 24 + 4 * e)).filterMap (fun a =>
    if bitAt (tabWord t a) 24 then some (bits (tabWord t a) 11 0, a) else none)

/-- World, AUTH and KEY of the descriptor at offset o. -/
def tabWorld (t : List Byte) (o : Nat) (goose : Bool) : Nat := if goose then bits (tabWord t (o + 20)) 13 13 else bits (tabWord t (o + 20)) 15 15
def tabAuth (t : List Byte) (o : Nat) (goose : Bool) : Nat := if goose then bits (tabWord t (o + 20)) 12 11 else bits (tabWord t (o + 20)) 14 13
def tabKey (t : List Byte) (o : Nat) (goose : Bool) : Nat := if goose then bits (tabWord t (o + 20)) 10 6 else bits (tabWord t (o + 20)) 12 8

/-- The descriptor at offset o checked: its fields, its world, its identity, its channels. -/
def Dev.tabDesc (s : Dev) (c : Cid) (t : List Byte) (o : Nat) (goose : Bool) (x : TabSeen) : TabSeen × Option (Nat × Nat) :=
  match (if goose then tabGsFields t o else tabSvFields t o) with
  | some d => (x, some (stBadImage, d))
  | none =>
    let id := tabIdent t o
    if !s.mayName c (tabWorld t o goose) then (x, some (stBadWorld, o))
    else if x.id.contains id then (x, some (stBadImage, o))
    else match tabChans s.cmbC (if goose then tabGsChans t o else tabSvChans t o) x.ch with
      | (_, some d) => (x, some (stBadImage, d))
      | (used, none) => ({ id := id :: x.id, ch := used }, none)

/-- Descriptors checked in order: offset and kind of each. -/
def Dev.tabDescs (s : Dev) (c : Cid) (t : List Byte) : List (Nat × Bool) → TabSeen → Option (Nat × Nat)
  | [], _ => none
  | (o, g) :: l, x =>
    match s.tabDesc c t o g x with
    | (_, some r) => some r
    | (x, none) => s.tabDescs c t l x

/-- The descriptors of a table: offset, and whether it is a GOOSE descriptor. -/
def tabList (t : List Byte) : List (Nat × Bool) :=
  (List.range (tabStreams t + tabGooses t)).map (fun i => (descOff i, decide (tabStreams t ≤ i)))

/-- Key entry n checked (R137, R156). -/
def Dev.tabKeyBad (s : Dev) (c : Cid) (t : List Byte) (n : Nat) : Option (Nat × Nat) :=
  let o := keyOff t n
  let w := objNat t (o + 40) 1
  if 2 ≤ w then some (stBadImage, o + 40)
  else if tabWord t (o + 4) ≠ 0xFFFFFFFF ∧ w ≠ 1 then some (stBadImage, o + 4)
  else if !s.mayName c w then some (stBadWorld, o)
  else if (tabList t).any (fun d => decide (tabAuth t d.1 d.2 ≠ 0) && decide (tabKey t d.1 d.2 = n) && decide (tabWorld t d.1 d.2 ≠ w)) then
    some (stBadImage, o + 40)
  else none

/-- The refusal of a stream table, if it is refused. -/
def Dev.tabCheck (s : Dev) (c : Cid) (t : List Byte) : Option (Nat × Nat) :=
  match tabHeader t with
  | some d => some (stBadImage, d)
  | none =>
    match s.tabDescs c t (tabList t) {} with
    | some r => some r
    | none => (List.range (tabKeys t)).findSome? (s.tabKeyBad c t)

/-- A stream change scheduled for the first tick instant at least 20 us from now (R156). -/
def Dev.scheduleSwitch (s : Dev) (x : StreamSwitch) : Dev :=
  let t := s.time.now + 20000
  { s with ing := { s.ing with switches := s.ing.switches ++ [{ x with due := t }] } }

/-- STREAM TABLE. -/
def Dev.cStreamTable (s : Dev) (c : Cid) (b : BulkRef) : Dev :=
  s.naming c [resTable kindStream] (fun s => s.bulk c 0 b (fun s t =>
    match s.tabCheck c t with
    | some (st, d) => s.refuse c st d
    | none => (s.scheduleSwitch { table := t }).start c [resTable kindStream] (tabStreams t) 0 []))

/-- STREAM_TABLE (R156). -/
def execStreamTable (h : CmdHdr) (bulk : BulkRef) (s : State) : Host.Outcome State Fault Refusal :=
  run (wellFormed (.streamTable h bulk)) (fun s => s.takeCmd h 0x0601 (fun c s => s.cStreamTable c bulk)) s

/-- World of subscription i: streams 0 to 511, GOOSE subscription g at 512 + g. -/
def Dev.subWorld (s : Dev) (i : Nat) : Nat := if i < 512 then s.sdWorld i else s.gdWorld (i - 512)

/-- STREAM ENABLE (kind 1) and STREAM SIMSEL (kind 2). -/
def Dev.cStreamBit (s : Dev) (c : Cid) (kind i on : Nat) : Dev :=
  if 768 ≤ i then s.refuse c stBadParam 0
  else if 2 ≤ on then s.refuse c stBadParam 1
  else if !s.mayName c (s.subWorld i) then s.refuse c stBadWorld 0
  else (s.scheduleSwitch { kind := kind, stream := i, on := decide (on = 1) }).done c []

/-- STREAM_ENABLE (R156). -/
def execStreamEnable (h : CmdHdr) (stream on : Nat) (s : State) : Host.Outcome State Fault Refusal :=
  run (wellFormed (.streamEnable h stream on)) (fun s => s.takeCmd h 0x0602 (fun c s => s.cStreamBit c 1 stream on)) s

/-- STREAM_SIMSEL (R136). -/
def execStreamSimsel (h : CmdHdr) (stream on : Nat) (s : State) : Host.Outcome State Fault Refusal :=
  run (wellFormed (.streamSimsel h stream on)) (fun s => s.takeCmd h 0x0603 (fun c s => s.cStreamBit c 2 stream on)) s

/-! ## TRIPGATE MAP (R259) -/

/-- The header of a trip map. -/
def mapHeader (t : List Byte) : Option Nat :=
  let n := tabWord t 8
  firstBad [(decide (tabWord t 0 = 0x5052544D), 0), (decide (tabWord t 4 = 1), 4), (decide (1 ≤ n) && decide (n ≤ 2048), 8),
    (objZero t 12 52, 12), (decide (t.length = pad64 (64 + 4 * n)), 8)]

/-- Whether an entry is one that R259 accepts. -/
def Dev.mapEntryOk (s : Dev) (w : Word) : Bool :=
  let pw := s.pairWorld (tmPair w)
  decide (bits w.toNat 31 23 = 0) &&
    (if tmKind w = 0 then
      decide (tmMember w < s.fg F.PUB_CFG_NMEM (tmBlock w)) && decide (s.memberKind (tmBlock w) (tmMember w) = 0) &&
        decide (s.fg F.PUB_CFG_WORLD (tmBlock w) = pw)
     else decide (tmMember w = 0) && decide (s.fg F.BLK_LCFG_WORLD (tmLink w) = pw))

/-- The entries of a trip map. -/
def mapEntries (t : List Byte) : List Word := (List.range (tabWord t 8)).map (fun i => BitVec.ofNat 32 (tabWord t (64 + 4 * i)))

/-- The refusal of a trip map, if it is refused. -/
def Dev.mapCheck (s : Dev) (c : Cid) (t : List Byte) : Option (Nat × Nat) :=
  match mapHeader t with
  | some d => some (stBadImage, d)
  | none =>
    let l := mapEntries t
    if l.any (fun w => !s.mayName c (s.pairWorld (tmPair w))) then some (stBadWorld, 0)
    else (l.findIdx? (fun w => !s.mapEntryOk w)).map (fun i => (stBadImage, 64 + 4 * i))

/-- TRIPGATE MAP: it waits for the first publish point at least 20 us from now. -/
def Dev.cTripgateMap (s : Dev) (c : Cid) (b : BulkRef) : Dev :=
  s.naming c [resTable kindMap] (fun s => s.bulk c 0 b (fun s t =>
    match s.mapCheck c t with
    | some (st, d) => s.refuse c st d
    | none =>
      let x := s.time.now + 20000
      let s := { s with trg := { s.trg with mapNext := some (x, mapEntries t) } }
      s.start c [resTable kindMap] 0 0 []))

/-- TRIPGATE_MAP (R259). -/
def execTripgateMap (h : CmdHdr) (bulk : BulkRef) (s : State) : Host.Outcome State Fault Refusal :=
  run (wellFormed (.tripgateMap h bulk)) (fun s => s.takeCmd h 0x0A03 (fun c s => s.cTripgateMap c bulk)) s

/-! ## PUBLISH (R261, R262) -/

/-- Bytes of an entry of a control-block table. -/
def pubEntry : Nat := 1024

/-- Whether entry b of a table loads a block: its parameter block is not all zero. -/
def pubHas (t : List Byte) (b : Nat) : Bool := !objZero t (pubEntry * b) 64

/-- Octets of the template at an offset: up to the end that the GOOSE Length field gives; 0 for a frame that is none. -/
def pubTemplateLen (t : List Byte) (o : Nat) : Nat :=
  let at0 := if beNat ((t.drop (o + 12)).take 2) = 0x8100 then o + 16 else o + 12
  if beNat ((t.drop at0).take 2) = 0x88B8 then at0 + 2 - o + beNat ((t.drop (at0 + 4)).take 2) else 0

/-- Kind of member m in the parameter block at offset o. -/
def pubKind (t : List Byte) (o m : Nat) : Nat := bits (objNat t (o + 12) 8) (2 * m + 1) (2 * m)

/-- The refusal of the entry at offset o, if it is refused. -/
def Dev.pubEntryBad (s : Dev) (c : Cid) (t : List Byte) (o : Nat) : Option (Nat × Nat) :=
  let cfg := tabWord t o
  let tmin := tabWord t (o + 4)
  let tmax := tabWord t (o + 8)
  let n := pubTemplateLen t (o + 64)
  let fields := firstBad [(decide (1 ≤ bits cfg 13 8) && decide (bits cfg 13 8 ≤ 32), o + 1), (decide (2 ≤ bits cfg 16 14), o + 1),
    (decide (bits cfg 31 19 = 0), o + 2), (decide (250 ≤ tmin) && decide (tmin ≤ 65535), o + 4),
    (decide (1 ≤ tmax) && decide (tmax ≤ 60000) && decide (tmin ≤ 1000 * tmax), o + 8)]
  match fields with
  | some d => some (stBadImage, d)
  | none =>
    match (List.range (bits cfg 13 8)).find? (fun m => decide (pubKind t o m = 3)) with
    | some m => some (stBadImage, o + 12 + m / 4)
    | none =>
      if !s.mayName c (bits cfg 17 17) then some (stBadWorld, 0)
      else if n = 0 ∨ 960 < n then some (stBadImage, o + 64)
      else none

/-- The refusal of a control-block table, if it is refused. -/
def Dev.pubCheck (s : Dev) (c : Cid) (t : List Byte) : Option (Nat × Nat) :=
  if t.length % pubEntry ≠ 0 ∨ 128 * pubEntry < t.length then some (stBadImage, 0)
  else ((List.range (t.length / pubEntry)).filter (pubHas t)).findSome? (fun b => s.pubEntryBad c t (pubEntry * b))

/-- PUBLISH TABLE. -/
def Dev.cPublishTable (s : Dev) (c : Cid) (b : BulkRef) : Dev :=
  s.naming c [resTable kindPub] (fun s => s.bulk c 0 b (fun s t =>
    match s.pubCheck c t with
    | some (st, d) => s.refuse c st d
    | none => s.start c [resTable kindPub] 0 0 t))

/-- Registers of a control block. -/
def pubRegs : List RName := [.PUB_CFG, .PUB_TMIN, .PUB_TMAX, .PUB_MKIND0, .PUB_MKIND1, .PUB_STNUM, .PUB_SQNUM, .PUB_LASTCHG_LO,
  .PUB_LASTCHG_HI, .PUB_VAL]

/-- Block b taken from its entry, disabled: registers and template. -/
def Dev.pubLoad (s : Dev) (t : List Byte) (b : Nat) : Dev :=
  let o := pubEntry * b
  let s := (pubRegs.foldl (fun s r => s.wr r b (RName.reset r b)) s).onPub b (fun _ => {})
  if pubHas t b then
    let word := fun i => BitVec.ofNat 32 (tabWord t (o + 4 * i))
    let s := ((((s.wr .PUB_CFG b (word 0 &&& 0x3FFFE)).wr .PUB_TMIN b (word 1)).wr .PUB_TMAX b (word 2)).wr .PUB_MKIND0 b (word 3)).wr
      .PUB_MKIND1 b (word 4)
    s.onPub b (fun x => { x with template := (t.drop (o + 64)).take (pubTemplateLen t (o + 64)), loaded := true })
  else s

/-- The table taken up: every block is replaced; the result counts the blocks loaded. -/
def Dev.pubTable (s : Dev) (t : List Byte) : Dev × List Byte :=
  ((s.each (List.range 128) Dev.pubDisable).each (List.range 128) (fun s b => s.pubLoad t b),
   leBytes 1 ((List.range 128).filter (pubHas t)).length)

/-- PUBLISH_TABLE (R261). -/
def execPublishTable (h : CmdHdr) (bulk : BulkRef) (s : State) : Host.Outcome State Fault Refusal :=
  run (wellFormed (.publishTable h bulk)) (fun s => s.takeCmd h 0x0B01 (fun c s => s.cPublishTable c bulk)) s

/-- PUBLISH ENABLE: only a block that a table has loaded. -/
def Dev.cPublishEnable (s : Dev) (c : Cid) (b on : Nat) : Dev :=
  if 128 ≤ b then s.refuse c stBadParam 0
  else if 2 ≤ on then s.refuse c stBadParam 1
  else if !(s.pblk b).loaded then s.refuse c stNotReady 0
  else if !s.mayName c (s.fg F.PUB_CFG_WORLD b) then s.refuse c stBadWorld 0
  else (if on = 1 then s.pubEnable b else s.pubDisable b).done c []

/-- PUBLISH_ENABLE (R262). -/
def execPublishEnable (h : CmdHdr) (block on : Nat) (s : State) : Host.Outcome State Fault Refusal :=
  run (wellFormed (.publishEnable h block on)) (fun s => s.takeCmd h 0x0B02 (fun c s => s.cPublishEnable c block on)) s

end Sys2Proof.Machine
end

