-- ==== Sys2Proof/Machine/CmdKeys.lean ====
section
/-!
DEFINITION. Sys2Proof/Machine/CmdKeys.lean: the key store, the signed envelope, and the KEYS and LIFE commands (03 R57, R58, R62,
R65, R66; 04 R82, R93).
-/

namespace Sys2Proof.Machine

/-! ## Signed messages (R82, R441) -/

/-- How a signed message fares against the slots of its kind: none accepted, and otherwise the refusal. -/
def Dev.keyCheck (s : Dev) (slots : List Nat) (hash : BitVec 384) : Option Nat :=
  if slots.any (fun i => s.keyLive i && decide ((s.keySlot i).hash = hash)) then none
  else if slots.any (fun i => (s.keySlot i).programmed && decide ((s.keySlot i).hash = hash)) then some stBadKey
  else if slots.all (fun i => !s.keyLive i) then some stBadKey
  else some stAuthFail

/-- The present nonce, LCS_NONCE0 first. -/
def Dev.nonceBytes (s : Dev) : List Byte := (List.range 4).flatMap (fun i => leBytes 4 (s.rd .LCS_NONCE i).toNat)

/-- The refusal of an envelope over the operation fields `op` and a nonce, if it is refused (Table 4.2, R441).  No status is
named for an object shorter than an envelope or with a zero field that is not zero: AUTH_FAIL (DESIGN CHOICE, log 36). -/
def Dev.envelopeWith (s : Dev) (slots : List Nat) (op nonce : List Byte) (b : List Byte) : Option Nat :=
  let key := b.take 97
  let body := (b.drop 0xC4).take 32
  let want := leBytes 8 s.lcs.dieId.toNat ++ (leBytes 1 s.lcs.state ++ op ++ List.replicate 8 0).take 8 ++ nonce
  if b.length < 256 ∨ !objZero b 0x61 3 ∨ !objZero b 0xE4 28 then some stAuthFail
  else match s.keyCheck slots (hash384 key) with
    | some st => some st
    | none => if sigOk key ((b.drop 0x64).take 96) body && decide (body = want) then none else some stAuthFail

/-- The refusal of an envelope over the present nonce (R65, R82). -/
def Dev.envelope (s : Dev) (slots : List Nat) (op : List Byte) (b : List Byte) : Option Nat :=
  s.envelopeWith slots op s.nonceBytes b

/-! ## KEYS (R57, R58, R62) -/

/-- A command on the fuse port with an envelope signed under one of these slots. -/
def Dev.signed (s : Dev) (c : Cid) (slots : List Nat) (op : List Byte) (b : BulkRef) (f : Dev → List Byte → Dev) : Dev :=
  s.naming c [resFuse] (fun s => s.bulk c 1 b (fun s bs =>
    match s.envelope slots op bs with
    | some st => s.refuse c st 0
    | none => f s bs))

/-- KEYS REVOKE: a JRK slot under the other, every other slot under OIK; never the last unrevoked slot of a kind. -/
def Dev.cKeysRevoke (s : Dev) (c : Cid) (slot : Nat) (b : BulkRef) : Dev :=
  if 8 ≤ slot then s.refuse c stBadParam 0
  else s.signed c (if slot < 2 then [1 - slot] else [2, 3]) (leBytes 1 slot) b (fun s _ =>
    let other := if slot % 2 = 0 then slot + 1 else slot - 1
    if !(s.keySlot slot).revoked && (s.keySlot other).revoked then s.refuse c stBadKey 0
    else s.start c [resFuse] slot 0 [])

/-- KEYS_REVOKE (R57). -/
def execKeysRevoke (h : CmdHdr) (slot : Nat) (bulk : BulkRef) (s : State) : Host.Outcome State Fault Refusal :=
  run (wellFormed (.keysRevoke h slot bulk)) (fun s => s.takeCmd h 0x0E01 (fun c s => s.cKeysRevoke c slot bulk)) s

/-- KEYS ARB. -/
def Dev.cKeysArb (s : Dev) (c : Cid) (counter : Nat) (b : BulkRef) : Dev :=
  if 2 ≤ counter then s.refuse c stBadParam 0
  else s.signed c [2, 3] (leBytes 1 counter) b (fun s _ => s.start c [resFuse] counter 0 [])

/-- The first-stage image that boot accepted. -/
def Dev.fsImage (s : Dev) : Image := SMap.get (fun _ => {}) s.lcs.fsImg (s.fg F.LCS_BOOT_SLOTB 0)

/-- The counter advanced to the security version of the image now running, never back, and how many fuses blew (R62). -/
def Dev.advanceArb (s : Dev) (counter : Nat) : Dev × Nat :=
  if counter = 0 then
    let v := min 64 (max s.lcs.svpArb (s.fg F.SVP_FWVER_SECVER 0))
    ({ s with lcs := { s.lcs with svpArb := v } }, v - s.lcs.svpArb)
  else
    let v := min 64 (max s.lcs.fsArb s.fsImage.secver)
    ({ s with lcs := { s.lcs with fsArb := v } }, v - s.lcs.fsArb)

/-- KEYS_ARB (R62). -/
def execKeysArb (h : CmdHdr) (counter : Nat) (bulk : BulkRef) (s : State) : Host.Outcome State Fault Refusal :=
  run (wellFormed (.keysArb h counter bulk)) (fun s => s.takeCmd h 0x0E02 (fun c s => s.cKeysArb c counter bulk)) s

/-- KEYS SEALPUT: from a Sealed ring alone; its bulk object is the envelope under OIK, with the secret behind it (R82; DEDUCED,
log 36). -/
def Dev.cKeysSealput (s : Dev) (c : Cid) (slot : Nat) (b : BulkRef) : Dev :=
  if s.ringWorld c.hdr.ring ≠ 1 then s.refuse c stDenied 0
  else s.bulk c 1 b (fun s bs =>
    match s.envelope [2, 3] (leBytes 1 slot) bs with
    | some st => s.refuse c st 0
    | none => s.start c [] slot 0 bs)

/-- A Sealed-world secret stored, encrypted under the sealing key (R58). -/
def Dev.sealSecret (s : Dev) (slot : Nat) (secret : List Byte) : Dev :=
  let n := s.lcs.secretN
  let m := gcmSeal s.sealKey (s.sealIv (2 ^ 62 + n)) secret
  { s with lcs := { s.lcs with secrets := SMap.set (fun _ => {}) s.lcs.secrets slot m, secretN := n + 1 } }

/-- KEYS_SEALPUT (R58). -/
def execKeysSealput (h : CmdHdr) (slot : Nat) (bulk : BulkRef) (s : State) : Host.Outcome State Fault Refusal :=
  run (wellFormed (.keysSealput h slot bulk)) (fun s => s.takeCmd h 0x0E03 (fun c s => s.cKeysSealput c slot bulk)) s

/-! ## LIFE (R65, R66, Table 3.5) -/

/-- Slots that sign a transition; none: Table 3.5 has no such transition. -/
def lifeSlots (old new : Nat) : Option (List Nat) :=
  if old = 0 ∧ new = 1 then some [0, 1]
  else if (old = 1 ∧ new = 2) ∨ (old = 2 ∧ new = 3) then some [2, 3]
  else if new = 4 then (if old = 0 ∨ old = 3 then some [0, 1] else if old = 1 ∨ old = 2 then some [2, 3] else none)
  else none

/-- Sealed-world secrets and the Sealed partition overwritten with zeros, EPOCH advanced (Table 3.5). -/
def Dev.eraseSealed (s : Dev) : Dev :=
  { s with
    lcs := { s.lcs with secrets := [], epoch := min 8 (s.lcs.epoch + 1) }
    jrn := { s.jrn with sealB := [], staged := s.jrn.staged.filter (fun r => decide (r.world ≠ 1)) } }

/-- DUS, secrets, image region and every partition overwritten (Table 3.5). -/
def Dev.eraseAll (s : Dev) : Dev :=
  { s with
    lcs := { s.lcs with secrets := [], dus := 0, mramImage := [], svpImg := [], fsImg := [], store := [] }
    jrn := { s.jrn with openP := [], sealB := [], area := [], areaSeal := [], areaRecs := [], staged := [] } }

/-- Key hashes that stand behind the envelope, 48 octets each from OIK0 on; one of zeros is not given. -/
def Dev.programKeys (s : Dev) (bs : List Byte) : Dev :=
  s.each [2, 3, 4, 5, 6, 7] (fun s i =>
    let h := beNat ((bs.drop (256 + 48 * (i - 2))).take 48)
    if h = 0 then s else s.onKey i (fun k => { k with programmed := true, hash := BitVec.ofNat 384 h }))

/-- Whether the hashes that BLANK to OEM programs are given: one of OIK's and one of ODK's at least (Table 3.5). -/
def keysGiven (bs : List Byte) : Bool :=
  let given := fun i => decide (beNat ((bs.drop (256 + 48 * i)).take 48) ≠ 0)
  (given 0 || given 1) && (given 2 || given 3)

/-- LIFE GO: RETPEND is blown before the erase begins.  A target code that names no state, 5 or more, is a parameter out of
range (BAD_PARAM), not a transition (DESIGN CHOICE, log 36); so is a BLANK to OEM without the hashes that it programs. -/
def Dev.cLifeGo (s : Dev) (c : Cid) (target : Nat) (b : BulkRef) : Dev :=
  if 5 ≤ target then s.refuse c stBadParam 0
  else match (if s.mode = 2 then lifeSlots s.lcs.state target else none) with
    | none => s.refuse c stBadLife 0
    | some slots => s.signed c slots (leBytes 1 target) b (fun s bs =>
      if target = 1 ∧ !keysGiven bs then s.refuse c stBadParam 1
      else
      let s := s.cond (decide (target = 3)) (fun s => { s with lcs := { s.lcs with retpend := true } })
      s.start c [resFuse] target s.lcs.state bs)

/-- The work of a LIFE GO, its record, and the state fuse, blown last (R66); it counts from the next module reset (R93). -/
def Dev.lifeWork (s : Dev) (old target : Nat) (bs : List Byte) : Dev :=
  let s :=
    if target = 1 then s.programKeys bs
    else if target = 3 then s.eraseSealed
    else if target = 4 then s.eraseAll
    else s
  let s := { s with lcs := { s.lcs with stateFuse := max s.lcs.stateFuse target, retpend := s.lcs.retpend && decide (target ≠ 3) } }
  s.record 0x0007 0 0 (leBytes 4 old ++ leBytes 4 target)

/-- LIFE_GO (R65). -/
def execLifeGo (h : CmdHdr) (target : Nat) (bulk : BulkRef) (s : State) : Host.Outcome State Fault Refusal :=
  run (wellFormed (.lifeGo h target bulk)) (fun s => s.takeCmd h 0x0F01 (fun c s => s.cLifeGo c target bulk)) s

end Sys2Proof.Machine
end

