-- ==== Sys2Proof/Machine/Rings.lean ====
section
/-!
DEFINITION. Sys2Proof/Machine/Rings.lean: the CMD registers that act, the service of the rings and the completions (04 R73 to R87,
R97).
-/

namespace Sys2Proof.Machine

/-! ## Registers (R73, R74, R76, R79, R97) -/

/-- Offset of a register of ring r. -/
def ringOff (off r : Nat) : Nat := 0x100 + off + 0x40 * r

/-- A write of ring r's register: from the SVP and from requesters of the ring's world. -/
def Dev.ringGate (s : Dev) (rq : Req) (off r : Nat) (f : Dev → Dev) : Dev :=
  s.gate rq 3 (ringOff off r) 1 (rq.svp || rq.ofWorld (s.ringWorld r)) f

/-- A doorbell write of T. -/
def Dev.doorbell (s : Dev) (r t : Nat) : Dev :=
  if s.fg F.CMD_RCTL_EN r = 0 then s.fs F.CMD_RSTAT_IDLEDB r 1
  else
    let head := s.fg F.CMD_HEAD_IDX r
    let d := idxDiff t head
    if idxDiff (s.fg F.CMD_TAIL_IDX r) head ≤ d ∧ d ≤ s.ringN r then (s.fs F.CMD_TAIL_IDX r t).proxyAll
    else s.edge (96 + r) (fun s => (s.fs F.CMD_RSTAT_OVF r 1).inc F.CMD_OVFCNT_COUNT r)

/-- CMD_DB (R74). -/
def execCmdDb (rq : Req) (ring : Nat) (v : Word) (s : State) : Host.Outcome State Fault Refusal :=
  run (wellFormed (.cmdDb rq ring v)) (fun s => s.ringGate rq 0x18 ring (fun s => (s.doorbell ring (v.toNat % 65536)).ok 0)) s

/-- A write of PHEAD: a value past PTAIL is ignored and logged. -/
def Dev.pheadWrite (s : Dev) (rq : Req) (r p : Nat) : Dev :=
  let h := s.fg F.CMD_PHEAD_IDX r
  if idxDiff p h ≤ idxDiff (s.fg F.CMD_PTAIL_IDX r) h then s.fs F.CMD_PHEAD_IDX r p
  else s.errCap 3 { ty := 0x10, addr := devAddr 3 (ringOff 0x28 r), port := rq.port, world := rq.world, info := p }

/-- CMD_PHEAD (R76). -/
def execCmdPhead (rq : Req) (ring : Nat) (v : Word) (s : State) : Host.Outcome State Fault Refusal :=
  run (wellFormed (.cmdPhead rq ring v)) (fun s =>
    s.ringGate rq 0x28 ring (fun s => (s.pheadWrite rq ring (v.toNat % 65536)).ok 0)) s

/-- A write of one of the registers that take writes only while EN is 0. -/
def Dev.ringIdle (s : Dev) (rq : Req) (off r : Nat) (f : Dev → Dev) : Dev :=
  s.gate rq 3 (ringOff off r) 1 ((rq.svp || rq.ofWorld (s.ringWorld r)) && decide (s.fg F.CMD_RCTL_EN r = 0)) f

/-- CMD_RSEQ (R73, R79). -/
def execCmdRseq (rq : Req) (ring : Nat) (v : Word) (s : State) : Host.Outcome State Fault Refusal :=
  run (wellFormed (.cmdRseq rq ring v)) (fun s => s.ringIdle rq 0x30 ring (fun s => (s.wr .CMD_RSEQ ring v).ok 0)) s

/-- A write of CMD_RCTL: the interrupt enables, then EN, or the reset of the ring. -/
def Dev.rctlWrite (s : Dev) (r : Nat) (v : Word) : Dev :=
  let s := s.edge (96 + r) (fun s => (s.fs F.CMD_RCTL_RIEN r (bits v.toNat 2 2)).fs F.CMD_RCTL_OVFIEN r (bits v.toNat 3 3))
  if v.getLsbD 1 then s.ringReset r else s.fs F.CMD_RCTL_EN r (bits v.toNat 0 0)

/-- CMD_RCTL_RST: a write of CMD_RCTL with RST (R97). -/
def execCmdRctlRst (rq : Req) (ring : Nat) (v : Word) (s : State) : Host.Outcome State Fault Refusal :=
  run (wellFormed (.cmdRctlRst rq ring v)) (fun s => s.ringGate rq 0x14 ring (fun s => (s.rctlWrite ring (v ||| 2)).ok 0)) s

/-! ## Packets (R77, R78, R80) -/

/-- The command in hand, from its parameter bytes. -/
def Dev.withBulk (s : Dev) (c : Cid) (i : Nat) (p : List Byte) (o : Nat) (f : Dev → BulkRef → Dev) : Dev :=
  if !objZero p (o + 12) 4 then s.refuse c stBadParam i
  else f s { addr := objNat p o 8, length := objNat p (o + 8) 4, digest := BitVec.ofNat 384 (beNat ((p.drop (o + 16)).take 48)) }

/-- A command's own work, from its parameter bytes (Table 4.5). -/
def Dev.runPacket (c : Cid) (p : List Byte) (s : Dev) : Dev :=
  let a := fun o n => objNat p o n
  match c.op with
  | 0x0101 => s.cModeSet c (a 0 1)
  | 0x0102 => s.cModeGet c
  | 0x0201 => s.cDomain c true (a 0 8)
  | 0x0202 => s.cDomain c false (a 0 8)
  | 0x0301 => s.cWorldAssign c (a 0 1) (a 1 1) (a 2 1)
  | 0x0302 => s.cWorldStart c (a 0 1) (BitVec.ofNat 64 (a 8 8))
  | 0x0303 => s.cWorldRegion c (a 0 1) (a 1 1) (a 8 8) (a 16 8)
  | 0x0304 => s.cWorldRingcfg c (a 0 1) (a 1 1) (a 2 1)
  | 0x0401 => s.withBulk c 1 p 8 (fun s b => s.cCastLoad c (a 0 1) b)
  | 0x0402 => s.cCastHalt c (a 0 1)
  | 0x0403 => s.cCastRun c (a 0 1)
  | 0x0501 => s.cBindSet c (a 0 1) (a 1 1) (a 2 1) (a 4 2) (a 6 1)
  | 0x0502 => s.cBindClear c (a 0 1) (a 1 1)
  | 0x0601 => s.withBulk c 0 p 0 (fun s b => s.cStreamTable c b)
  | 0x0602 => s.cStreamBit c 1 (a 0 2) (a 2 1)
  | 0x0603 => s.cStreamBit c 2 (a 0 2) (a 2 1)
  | 0x0701 => s.cCombConfig c (a 0 2) (a 2 2) (a 4 1) (a 5 1)
  | 0x0801 => s.withBulk c 1 p 8 (fun s b => s.cSetsStage c (a 0 8) b)
  | 0x0901 => s.cPourGroup c (a 0 1) (a 8 8)
  | 0x0902 => s.cPourArm c (a 0 1) (a 8 8)
  | 0x0903 => s.cPourDisarm c (a 0 1)
  | 0x0A01 => s.cTripgatePair c (a 0 1) (a 1 1) (a 4 4) (a 8 1)
  | 0x0A02 => s.cTripgateSolo c (a 0 1) (a 1 1)
  | 0x0A03 => s.withBulk c 0 p 0 (fun s b => s.cTripgateMap c b)
  | 0x0B01 => s.withBulk c 0 p 0 (fun s b => s.cPublishTable c b)
  | 0x0B02 => s.cPublishEnable c (a 0 1) (a 1 1)
  | 0x0C01 => s.cTimeSource c ((p.take 8).map BitVec.toNat)
  | 0x0C02 => s.cTimeFreerun c (a 0 1)
  | 0x0C03 => s.cTimeRate c (a 0 1)
  | 0x0C04 => s.cTimeUtcofs c (a 0 2)
  | 0x0D01 => s.cJournalMark c (p.take 32)
  | 0x0D02 => s.cJournalSeal c (a 0 4)
  | 0x0D03 => s.cJournalTrigger c (a 0 1) (a 2 2)
  | 0x0E01 => s.withBulk c 1 p 8 (fun s b => s.cKeysRevoke c (a 0 1) b)
  | 0x0E02 => s.withBulk c 1 p 8 (fun s b => s.cKeysArb c (a 0 1) b)
  | 0x0E03 => s.withBulk c 1 p 8 (fun s b => s.cKeysSealput c (a 0 1) b)
  | 0x0F01 => s.withBulk c 1 p 8 (fun s b => s.cLifeGo c (a 0 1) b)
  | 0x1001 => s.cHealthThresh c (a 0 1) (a 2 2) (a 4 2)
  | 0x1002 => s.cHealthPolicy c (a 0 1) (a 1 1)
  | 0x1003 => s.cHealthRead c (a 0 1)
  | 0x1101 => s.cResetRing c (a 0 1)
  | 0x1102 => s.cResetHive c (a 0 1)
  | 0x1103 => s.cResetCore c (a 0 1)
  | 0x1104 => s.cResetModule c
  | 0x1201 => s.cDebugEngbrk c (a 0 1) (a 1 1) (a 2 2) (a 4 1)
  | 0x1202 => s.cDebugStep c (a 0 1) (a 2 2)
  | _ => s.refuse c stBadOpcode 0

/-! ## Service (R85) -/

/-- The command at the head of ring r taken, its header already read. -/
def Dev.takePacket (s : Dev) (r : Nat) (b : List Byte) : Dev :=
  let len := objNat b 6 2
  let head := s.fg F.CMD_HEAD_IDX r
  let (s, more) := if cmdEntries len = 2 then s.dmaRead 2 (s.ringWorld r) (s.cmdEntry r (head + 1)) 64 else (s, none)
  let h : CmdHdr := { ring := r, tag := objNat b 2 2, seq := objNat b 8 4, world := objNat b 4 1 % 2, fence := decide (objNat b 5 1 % 2 = 1) }
  let rsv := decide (objNat b 4 1 < 2) && decide (objNat b 5 1 < 2) && objZero b 12 4
  let s := (s.ringAdvance r len).servedNow r
  s.judge { hdr := h, op := objNat b 0 2 } len rsv (fun c s => Dev.runPacket c (b.drop 16 ++ more.getD []) s)

/-- Rings served in turn, until one has a command that can be taken; an enabled ring without a whole command, or without the
reply entries, is skipped with STALL set; one that waits at a fence is passed without it. -/
def Dev.serviceRings (s : Dev) : List Nat → Dev
  | [] => s
  | r :: l =>
    if !s.ringUp r then s.serviceRings l
    else match s.ringPeek r with
      | (s, none) => (s.fs F.CMD_RSTAT_STALL r 1).serviceRings l
      | (s, some b) =>
        if !s.ringHasRoom r then (s.fs F.CMD_RSTAT_STALL r 1).serviceRings l
        else if objNat b 5 1 % 2 = 1 ∧ 0 < s.ringLongs r then (s.fs F.CMD_RSTAT_STALL r 0).serviceRings l
        else s.takePacket r b

/-- One turn of the service, from the ring after the one served last. -/
def Dev.ringService (s : Dev) : Dev :=
  if s.fwRuns then s.serviceRings ((List.range 16).map (fun i => (s.fg F.CMD_STAT_LAST 0 + 1 + i) % 16)) else s.proxyAll

/-- RING_SERVICE (R85). -/
def execRingService (s : State) : Host.Outcome State Fault Refusal := run (wellFormed .ringService) Dev.ringService s

/-! ## Completions (R87) -/

/-- OK, with a nonce renewed after a KEYS or LIFE command (R65). -/
def Dev.endKeys (s : Dev) (idx : Nat) (result : List Byte) : Dev := (s.newNonce).finishLong idx stOK result

/-- The work of outstanding entry idx ends, if it can end now, and its completion is written. -/
def Dev.completeLong (s : Dev) (idx : Nat) : Dev :=
  match s.cmd.long[idx]? with
  | none => s
  | some k =>
    let ok := fun (s : Dev) (res : List Byte) => s.finishLong idx stOK res
    match k.opcode with
    | 0x0201 => match s.endDomain k true with
      | some res => ok s res
      | none => s
    | 0x0202 => match s.endDomain k false with
      | some res => ok s res
      | none => s
    | 0x0401 => ok (s.castWrite k.arg k.data) (castResult k.data)
    | 0x0601 => if s.ing.switches.any (fun x => decide (x.kind = 0)) then s else ok s (leBytes 2 k.arg)
    | 0x0801 => ok (s.setsWrite k.arg k.data) []
    | 0x0902 => match s.endPour k.arg k.arg2 with
      | some (st, d, res) => s.finishLong idx st res d
      | none => s
    | 0x0A03 => ok s []
    | 0x0B01 => let (s, res) := s.pubTable k.data; ok s res
    | 0x0D02 => let (s, res) := s.endSeal k.arg; ok s res
    | 0x0E01 => (s.onKey k.arg (fun x => { x with revoked := true })).endKeys idx []
    | 0x0E02 => let (s, n) := s.advanceArb k.arg; s.endKeys idx (leBytes 1 n)
    | 0x0E03 =>
      (s.sealSecret k.arg (k.data.drop 256)).endKeys idx []
    | 0x0F01 =>
      let s := (s.lifeWork k.arg2 k.arg k.data).endKeys idx (leBytes 1 k.arg)
      if k.arg = 4 then s.moduleReset 2 else s
    | 0x1102 =>
      let s := s.hiveReset k.arg
      s.finishLong (s.cmd.long.findIdx (fun x => decide (x.opcode = 0x1102) && decide (x.arg = k.arg))) stOK []
    | 0x1202 => if k.arg2 ≤ s.tickNo then ok s (leBytes 8 k.arg2) else s
    | _ => s

/-- LONG_COMMAND_COMPLETION (R87): the work of an outstanding command has ended. -/
def execLongCommandCompletion (idx : Nat) (s : State) : Host.Outcome State Fault Refusal :=
  run (wellFormed (.longCommandCompletion idx)) (fun s => if s.domOn 1 && s.fwRuns then s.completeLong idx else s) s

end Sys2Proof.Machine
end

