-- ==== Sys2Proof/Machine/Watchdogs.lean ====
section
/-!
DEFINITION. Sys2Proof/Machine/Watchdogs.lean: services, warnings, expiries and locks of the watchdogs (16 R430 to R437).
-/

namespace Sys2Proof.Machine

/-- Domain of a watchdog (Table 16.2). -/
def wdgDom (w : Nat) : Nat := if w < 8 then 18 + w else if w = 8 then 1 else 0

/-- CLOSE, and CLOSE + GRACE, of watchdog w in microseconds. -/
def Dev.wdgClose (s : Dev) (w : Nat) : Nat := s.fg F.WDG_CLOSE_US w
def Dev.wdgEnd (s : Dev) (w : Nat) : Nat := s.fg F.WDG_CLOSE_US w + s.fg F.WDG_GRACE_US w

/-- The action at expiry (Table 16.2). -/
def Dev.wdgAction (s : Dev) (w : Nat) : Dev :=
  if w < 8 then
    if s.fg F.WDG_CTL_ACT w = 1 then
      (s.errCap (32 + w) { ty := 0x0F, port := 31, world := 3, info := w }).coreReset w
    else s
  else if w = 8 then s.svpRestart 2
  else s.faultEdge (fun s => s.fs F.WDG_STAT_FAULT w 1)

/-- The count reaches CLOSE: WARN is set and the warning source rises (R432). -/
def Dev.wdgWarn (s : Dev) (w : Nat) : Dev := s.setEvt (160 + w) F.WDG_STAT_WARN w

/-- The count reaches CLOSE + GRACE (R432). -/
def Dev.wdgExpire (s : Dev) (w : Nat) : Dev :=
  let s := (s.fs F.WDG_STAT_EXP w 1).inc F.WDG_EXPCNT_COUNT w
  let s := s.errCap 17 { ty := 0x0F, addr := devAddr 17 (0x20 * w), info := w }
  (s.wdgZero w).wdgAction w

/-- The count brought up to clock k, with the warning or the expiry that it has reached by then. -/
def Dev.wdgCatchTo (s : Dev) (w k : Nat) : Dev :=
  let s := s.wdgSyncTo w k
  let c := s.fg F.WDG_STAT_CNT w
  if !s.wdgCounts w then s
  else
    let s := s.cond (decide (s.wdgClose w ≤ c) && decide (s.fg F.WDG_STAT_WARN w = 0)) (fun s => s.wdgWarn w)
    s.cond (decide (s.wdgEnd w ≤ c)) (fun s => s.wdgExpire w)

/-- The count brought up to date, with the warning or the expiry that it has reached by now. -/
def Dev.wdgCatch (s : Dev) (w : Nat) : Dev := s.wdgCatchTo w s.clk

/-- A bad service: BADSVC, and the expiry action at once (R431). -/
def Dev.wdgBad (s : Dev) (w : Nat) : Dev :=
  let s := (s.fs F.WDG_STAT_BADSVC w 1).fs F.WDG_STAT_EXP w 1
  let s := s.errCap 17 { ty := 0x0F, addr := devAddr 17 (0x20 * w + 0x10), info := w + 16 }
  s.wdgAction w

/-- The first key of a service has been received, or not. -/
def Dev.setFirst (s : Dev) (w : Nat) (b : Bool) : Dev :=
  { s with wdg := { s.wdg with first := SMap.set (fun _ => false) s.wdg.first w b } }

/-- A write of WDG_SVC (R431). -/
def Dev.wdgService (s : Dev) (w : Nat) (v : Word) : Dev :=
  let s := s.wdgCatch w
  let had := SMap.get (fun _ => false) s.wdg.first w
  if v = 0x0000C35A then s.setFirst w true
  else
    let s := s.setFirst w false
    let c := s.fg F.WDG_STAT_CNT w
    if v = 0x00005AC3 && had && decide (s.fg F.WDG_OPEN_US w ≤ c) then
      ((s.wdgZero w).fs F.WDG_STAT_WARN w 0).fs F.WDG_STAT_FAULT w 0
    else s.wdgBad w

/-- Who may write a watchdog's registers (R437). -/
def Dev.wdgMay (s : Dev) (rq : Req) (w : Nat) (svc : Bool) : Bool :=
  rq.svp || (decide (w < 8) && rq.ofCore w) || (decide (w = 9) && svc && rq.ofWorld (s.fg F.WDG_CTL_WORLD 9))

/-- A write of a watchdog register: its domain, its requesters. -/
def Dev.wdgGate (s : Dev) (rq : Req) (w off : Nat) (f : Dev → Dev) : Dev :=
  s.gate rq 17 (0x20 * w + off) (wdgDom w) (s.wdgMay rq w (decide (off = 0x10))) f

/-- A write that LOCK refuses, or that would make OPEN at least CLOSE (R435). -/
def Dev.wdgLocked (s : Dev) (rq : Req) (w off : Nat) (bad : Bool) (f : Dev → Dev) : Dev :=
  if decide (s.fg F.WDG_CTL_LOCK w = 1) || bad then s.errResp 17 rq 0x01 (devAddr 17 (0x20 * w + off)) (0x20 * w + off)
  else (f s).ok 0

/-- A write of WDG_CTL: enabling starts C at 0 (R430). -/
def Dev.wdgCtlWrite (s : Dev) (rq : Req) (w : Nat) (v : Word) : Dev :=
  s.wdgGate rq w 0 (fun s => s.wdgLocked rq w 0 false (fun s =>
    let s := s.wdgCatch w
    let on := v.getLsbD 0 && decide (s.fg F.WDG_CTL_EN w = 0)
    let s := (s.fs F.WDG_CTL_EN w (b2n (v.getLsbD 0))).fs F.WDG_CTL_DBGPAUSE w (b2n (v.getLsbD 1))
    let s := s.cond (decide (w < 8)) (fun s => s.fs F.WDG_CTL_ACT w (b2n (v.getLsbD 2)))
    let s := s.cond (v.getLsbD 3) (fun s => s.fs F.WDG_CTL_LOCK w 1)
    let s := s.cond (decide (w = 9)) (fun s => s.fs F.WDG_CTL_WORLD w (b2n (v.getLsbD 4)))
    s.cond on (fun s => s.wdgZero w)))

/-- A write of OPEN, CLOSE or GRACE. -/
def Dev.wdgWindowWrite (s : Dev) (rq : Req) (w off : Nat) (v : Word) : Dev :=
  let x := v.toNat % 2 ^ 24
  let bad := if off = 4 then decide (s.fg F.WDG_CLOSE_US w ≤ x) else if off = 8 then decide (x ≤ s.fg F.WDG_OPEN_US w) else false
  s.wdgGate rq w off (fun s => s.wdgLocked rq w off bad (fun s =>
    let s := s.wdgCatch w
    if off = 4 then s.fs F.WDG_OPEN_US w x else if off = 8 then s.fs F.WDG_CLOSE_US w x else s.fs F.WDG_GRACE_US w x))

/-- WDG_STAT as it reads now: C up to date, PAUSED computed. -/
def Dev.wdgStat (s : Dev) (w : Nat) : Nat :=
  let s := s.wdgSync w
  (s.fs F.WDG_STAT_PAUSED w (b2n (decide (s.fg F.WDG_CTL_EN w = 1) && s.wdgPaused w))).rd .WDG_STAT w |>.toNat

/-- The instant at which C of watchdog w reaches a count. -/
def Dev.wdgReach (s : Dev) (w us : Nat) : Dev :=
  let s := s.wdgSync w
  let u := SMap.get (fun _ => 0) s.wdg.us w
  (s.moveClk (u + 1000 * (us - s.fg F.WDG_STAT_CNT w))).wdgSync w

/-! ## The commands -/

/-- WDG_SVC (R431). -/
def execWdgSvc (rq : Req) (w : Nat) (v : Word) (s : State) : Host.Outcome State Fault Refusal :=
  run (wellFormed (.wdgSvc rq w v)) (fun s => s.wdgGate rq w 0x10 (fun s => (s.wdgService w v).ok 0)) s

/-- WDG_WARNING: the instant at which C reaches CLOSE (R432). -/
def execWdgWarning (w : Nat) (s : State) : Host.Outcome State Fault Refusal :=
  run (wellFormed (.wdgWarning w)) (fun s =>
    if s.wdgCounts w && decide (s.fg F.WDG_STAT_WARN w = 0) then (s.wdgReach w (s.wdgClose w)).wdgWarn w else s) s

/-- WDG_EXPIRY: the instant at which C reaches CLOSE + GRACE (R432). -/
def execWdgExpiry (w : Nat) (s : State) : Host.Outcome State Fault Refusal :=
  run (wellFormed (.wdgExpiry w)) (fun s =>
    if s.wdgCounts w then
      let s := s.wdgReach w (s.wdgEnd w)
      (s.cond (decide (s.fg F.WDG_STAT_WARN w = 0)) (fun s => s.wdgWarn w)).wdgExpire w
    else s) s

/-- WDG_LOCK: a write of WDG_CTL with LOCK (R435). -/
def execWdgLock (rq : Req) (w : Nat) (v : Word) (s : State) : Host.Outcome State Fault Refusal :=
  run (wellFormed (.wdgLock rq w v)) (fun s => s.wdgCtlWrite rq w (v ||| 8)) s

end Sys2Proof.Machine
end

