-- ==== Sys2Proof/Machine/AccessRules.lean ====
section
/-!
DEFINITION. Sys2Proof/Machine/AccessRules.lean: where a register stands, which domain it lies in, who may read and write it, and
what it reads as (00 R2 to R7, and the access rule of each block: R48, R70, R73, R130, R131, R157, R218, R219, R273, R397, R420,
R423, R437, R461, R462, R469, R474, R483, R485).
-/

namespace Sys2Proof.Machine

/-! ## Places (Table 14.2, R373) -/

/-- The index of the register that stands at an offset: i, or i * count2 + j for two strides. -/
def RegInfo.indexAt (x : RegInfo) (o : Nat) : Option Nat :=
  let d := o - x.off
  let q := d / x.stride
  let m := d % x.stride
  if o < x.off ∨ x.count ≤ q then none
  else if x.count2 ≤ 1 then (if m = 0 then some q else none)
  else if m % x.stride2 = 0 ∧ m / x.stride2 < x.count2 then some (q * x.count2 + m / x.stride2)
  else none

/-- The register at an offset of device block b; the four ETH blocks are one register set (R420). -/
def regAt (b off : Nat) : Option (RName × Nat) :=
  let eth := decide (21 ≤ b) && decide (b ≤ 24)
  let o := if eth then off + 0x10000 * (b - 21) else off
  (RName.ofBlock (if eth then 21 else b)).findSome? (fun r => (r.info.indexAt o).map (fun i => (r, i)))

/-- Which of its block's units (ring, hive, core, engine, port ...) a register belongs to. -/
def RName.unit (r : RName) (i : Nat) : Nat := i / max 1 r.info.count2

/-- The counters of the engines, in the PMU block beside those of the cores. -/
def RName.pmuEngine (r : RName) : Bool := [RName.PMU_ECTL, .PMU_EOVF, .PMU_EIEN, .PMU_ESEL, .PMU_ECNT].contains r

/-- The registers of one DRAM channel (R494). -/
def RName.dmcChan (r : RName) : Bool :=
  [RName.DMC_CSTAT, .DMC_RH, .DMC_RHCNT, .DMC_CECNT, .DMC_UECNT, .DMC_SCRUB, .DMC_SCRUBPOS].contains r

/-- The global registers of the DBG block. -/
def RName.dbgGlobal (r : RName) : Bool := [RName.DBG_STAT, .DBG_EVT, .DBG_IEN, .DBG_KEEPPRI].contains r

/-- The domain that a register lies in (Table 2.2, R461, R494); HIV_CTL is held outside the hive domain (R219). -/
def RName.domain (r : RName) (i : Nat) : Nat :=
  let u := r.unit i
  match r.info.blk with
  | 0 | 1 | 3 => 1
  | 4 | 5 | 6 | 7 => 2
  | 8 | 9 => 7
  | 10 => 8
  | 11 => if r = .HIV_CTL then 0 else 9 + u
  | 12 | 13 | 14 => 17
  | 15 => 32
  | 16 | 18 | 19 | 30 => 28
  | 17 => wdgDom u
  | 20 => if r.dmcChan then 29 + u else 28
  | 21 => portDom u
  | 25 => 6
  | 26 | 27 => 31
  | 28 => if r.pmuEngine then 9 + u / 8 else 18 + u
  | 99 => 9 + u / 8
  | _ => 0

/-- The error log of a block: that of HIV for the engine windows (R191, R218). -/
def blockLog (b : Nat) : Nat := if b = 99 then 11 else b

/-- The error log of a write that the rules of its block refuse: that of the SVP for LCS (R70). -/
def refuseLog (b : Nat) : Nat := if b = 1 then 0 else blockLog b

/-- The refusal of an access to a register whose domain is off (R34, R461): also of the core's, for a DBG register of one
core. -/
def Dev.regOff (s : Dev) (rq : Req) (r : RName) (i addr : Nat) : Option Dev :=
  let d := r.domain i
  if !s.domOn d then some (s.errResp (if r.info.blk = 28 then 28 else 18) rq 0x11 addr d)
  else if decide (r.info.blk = 26) && !r.dbgGlobal && !s.domOn (18 + r.unit i) then
    some (s.errResp 18 rq 0x11 addr (18 + r.unit i))
  else none

/-! ## Who may read -/

/-- Whether a requester sees what is readable by the SVP and by world w: the debug master under a level-3 unlock sees what
the SVP sees, whatever world its request carries (R485). -/
def Dev.reqSees (s : Dev) (rq : Req) (w : Nat) : Bool :=
  rq.svp || rq.ofWorld w || (rq.debug && decide (s.fg F.LCS_DBG_UNLOCK 0 = 3))

/-- The access of an engine window: the SVP, and the debug master under an unlock that covers the engine's world (R191). -/
def Dev.engSees (s : Dev) (rq : Req) (e : Nat) : Bool := rq.svp || (rq.debug && s.unlockReach (s.engWorld e))

/-- The access of the TRC block (R462). -/
def Dev.trcSees (s : Dev) (rq : Req) : Bool :=
  rq.svp || (rq.debug && (List.range 3).all (fun w => !s.trc.worlds.testBit w || s.unlockReach w))

/-- World of a core's or an engine's counters. -/
def Dev.pmuWorld (s : Dev) (r : RName) (i : Nat) : Nat :=
  if r.pmuEngine then s.engWorld (r.unit i) else (s.core (r.unit i)).world

/-- The registers of the streams and of the GOOSE subscriptions (R157). -/
def RName.ofStream (r : RName) : Bool :=
  [RName.ING_SD, .ALN_SSTAT, .ALN_SGOOD, .ALN_SDUP, .ALN_SLATE, .ALN_SEARLY, .ALN_SDROP, .ALN_SABS, .ALN_SGAP].contains r
def RName.ofGoose (r : RName) : Bool := [RName.ING_GD, .ALN_GSTAT, .ALN_STNUM, .ALN_SQNUM, .ALN_GDROP].contains r

/-- The per-engine registers of SET and the shared ones of TRG and PUB (R273). -/
def RName.ofEngine (r : RName) : Bool := [RName.SET_ESTAT, .SET_AID, .SET_SID].contains r
def RName.unitShared (r : RName) : Bool := [RName.TRG_EVT, .TRG_IEN, .PUB_EVT, .PUB_IEN, .PUB_DROP].contains r

/-- Whether a requester may read a register. -/
def Dev.mayRead (s : Dev) (rq : Req) (r : RName) (i : Nat) : Bool :=
  let u := r.unit i
  let sealedOnly := fun w => decide (w ≠ 1) || s.reqSees rq 1
  if r.ofStream then s.reqSees rq (s.sdWorld u)
  else if r.ofGoose then s.reqSees rq (s.gdWorld u)
  else if r.ofEngine then sealedOnly (s.engWorld u)
  else if r.unitShared then true
  else match r.info.blk with
    | 13 => sealedOnly (s.pairWorld u)
    | 14 => sealedOnly (s.fg F.PUB_CFG_WORLD u)
    | 26 => r.dbgGlobal || s.dbgAdmits rq (s.core u).world
    | 27 => s.trcSees rq
    | 28 => s.dbgAdmits rq (s.pmuWorld r i)
    | 99 => s.engSees rq u
    | _ => true

/-! ## Who may write (R485: the debug master never counts as the SVP) -/

/-- The ring registers of a port, and the event ring registers of a link (R420). -/
def RName.hostRing (r : RName) : Bool :=
  [RName.ETH_RXBASE_LO, .ETH_RXBASE_HI, .ETH_TXBASE_LO, .ETH_TXBASE_HI, .ETH_RING, .ETH_RXTAIL, .ETH_TXTAIL].contains r
def RName.eventRing (r : RName) : Bool := [RName.BLK_EVBASE_LO, .BLK_EVBASE_HI, .BLK_EVCFG, .BLK_EVRD].contains r

/-- Whether every bit set in v, among those of a unit's event register, is of a unit that `own` selects. -/
def bitsOwned (n v : Nat) (own : Nat → Bool) : Bool := (onesBelow n v).all own

/-- Whether a requester may write value v to a register. -/
def Dev.mayWrite (s : Dev) (rq : Req) (r : RName) (i : Nat) (v : Word) : Bool :=
  let u := r.unit i
  rq.svp && decide (r ≠ .TRC_SW) && decide (r ≠ .PWR_HUACK) ||
  (match r.info.blk with
   | 2 => decide (r = .PWR_HUACK)
   | 3 => decide (r = .CMD_STAT) || rq.ofWorld (s.ringWorld u)
   | 6 => rq.ofWorld (s.fg F.TMR_CTL_WORLD u)
   | 7 => decide (r = .TSU_SWTRIG) || rq.ofWorld (s.fg F.TSU_CCFG_WORLD u)
   | 8 => decide (r = .ING_EVT)
   | 9 => decide (r = .ALN_EVT)
   | 10 => decide (r = .CMB_EVT)
   | 11 => (decide (r = .HIV_MAIL) || decide (r = .HIV_EVT)) && rq.ofWorld (s.hiveWorld u)
   | 12 => decide (r = .SET_EVT) && decide (rq.world < 2)
   | 13 => decide (r = .TRG_EVT) && decide (rq.world < 2) || decide (r = .TRG_PSTAT) && rq.ofWorld (s.pairWorld u)
   | 14 => decide (r = .PUB_EVT) && decide (rq.world < 2)
   | 15 => decide (r = .JRN_EVT) && decide (rq.world < 2)
   | 16 => true
   | 17 => s.wdgMay rq u (decide (r = .WDG_SVC))
   | 21 => (r.hostRing || decide (r = .ETH_EVT)) && rq.ofWorld (s.portWorld u)
   | 25 => r.eventRing && rq.ofWorld (s.lnkWorld u) ||
       decide (r = .BLK_EVT) && bitsOwned 16 v.toNat (fun b => rq.ofWorld (s.lnkWorld (b % 4)))
   | 26 =>
     if r.dbgGlobal then
       decide (r = .DBG_EVT) && bitsOwned 18 v.toNat (fun b => decide (b < 16) && rq.ofWorld (s.core (b % 8)).world)
     else if r = .DBG_DTX then s.dbgAdmits rq (s.core u).world && !rq.debug
     else if r = .DBG_DRX then s.dbgAdmits rq (s.core u).world && rq.debug
     else s.dbgAdmits rq (s.core u).world
   | 27 => if r = .TRC_SW then rq.ofCore u else s.trcSees rq
   | 28 => s.dbgAdmits rq (s.pmuWorld r i)
   | 30 => decide (r = .ERR_STAT) && decide (32 ≤ u) && decide (u < 40) && rq.ofCore (u - 32)
   | _ => false)

/-- The refusal of a register access to its requester: WORLD at an engine window for a requester that is neither the SVP
nor the debug master (Table 18.3: R191), ACCESS with the offset otherwise. -/
def Dev.regRefuse (s : Dev) (rq : Req) (b addr off : Nat) : Dev :=
  if b = 99 ∧ !rq.debug ∧ !rq.svp then s.errResp 11 rq 0x05 addr 0 else s.errResp (refuseLog b) rq 0x01 addr off

/-! ## Values -/

/-- The bits of the fields of a register that `p` selects by their access word. -/
def RName.mask (r : RName) (p : Acc → Bool) : Word :=
  BitVec.ofNat 32 (r.info.fields.foldl (fun a f => if p f.2.2 then a + (2 ^ (f.1 + 1) - 2 ^ f.2.1) else a) 0)

/-- Whether a register has fields that an access of this kind clears. -/
def RName.clears (r : RName) (a : Acc) : Bool := decide (r.mask (fun x => decide (x = a)) ≠ 0)

/-- The half of a 64-bit value that a _LO (false) or a _HI (true) register holds. -/
def half64 (hi : Bool) (v : Nat) : Nat := if hi then v / 2 ^ 32 % 2 ^ 32 else v % 2 ^ 32

/-- LCS_KEYS (Table 3.11). -/
def Dev.lcsKeys (s : Dev) : Nat :=
  (List.range 8).foldl (fun a k =>
    let x := s.keySlot k
    a + (b2n x.programmed + 2 * b2n x.revoked) * 4 ^ k) 0

/-- PE_STAT (Table 8.14). -/
def Dev.peStat (s : Dev) (e : Nat) : Nat :=
  let ready := (List.range 8).foldl (fun a c => if (s.ectx e c).st = 1 then a + 2 ^ c else a) 0
  let mail := (List.range 8).any (fun c => s.isCls e c 3 && (s.ectx e c).evPend)
  s.fg F.PE_STAT_STATE e + 8 * s.engWorld e + 16 * s.fg F.PE_STAT_RUNLATE e + 32 * b2n mail +
    256 * (s.eng e).cur.getD 0 + 2048 * b2n (s.eng e).cur.isNone + 65536 * ready

/-- HIV_STAT (Table 8.20). -/
def Dev.hivStat (s : Dev) (h : Nat) : Nat :=
  (List.range 8).foldl (fun a p =>
    a + b2n (decide (s.peState (8 * h + p) = 0)) * 2 ^ p + b2n (decide (s.peState (8 * h + p) = 2)) * 2 ^ (8 + p)) 0 +
    65536 * s.hiveWorld h

/-- ERR_SUM0 and ERR_SUM1: VALID of the logs whose domains are on (R469, Table 18.12). -/
def Dev.errSum (s : Dev) (half : Nat) : Nat :=
  (List.range 32).foldl (fun a b =>
    let j := 32 * half + b
    if j < 42 ∧ s.domOn (errDom j) then a + s.fg F.ERR_STAT_VALID j * 2 ^ b else a) 0

/-- Whether the fields of a captured error that R474 keeps from the other world read as zero to a requester. -/
def Dev.errHidden (s : Dev) (rq : Req) (j : Nat) : Bool :=
  !(rq.svp || (rq.debug && decide (s.fg F.LCS_DBG_UNLOCK 0 = 3))) && !rq.ofWorld (s.fg F.ERR_STAT_WORLD j)

/-- What a register of an error log reads as (R469, R474). -/
def Dev.errValue (s : Dev) (rq : Req) (r : RName) (j : Nat) : Nat :=
  let v := (s.rd r j).toNat
  if !s.domOn (errDom j) then 0
  else if r = .ERR_OVF ∨ r = .ERR_CECNT ∨ !s.errHidden rq j then v
  else if r = .ERR_STAT then v - s.fg F.ERR_STAT_PORT j * 65536
  else 0

/-- What a register reads as now: the stored value, or what its unit's state gives. -/
def Dev.regValue (s : Dev) (rq : Req) (r : RName) (i : Nat) : Nat :=
  let x := (s.rd r i &&& r.mask (fun a => decide (a ≠ .wo))).toNat
  match r with
  | .LCS_STATE => s.lcs.state + 8 * b2n s.lcs.retpend + 16 * s.lcs.epoch
  | .LCS_ARB => s.lcs.svpArb + 256 * s.lcs.fsArb
  | .LCS_KEYS => s.lcsKeys
  | .LCS_DIEID_LO => half64 false s.lcs.dieId.toNat
  | .LCS_DIEID_HI => half64 true s.lcs.dieId.toNat
  | .PWR_INPUT => bits (Config.inputReading s.freeCtr).toNat 9 0 + 65536 * bits (Config.inputReading s.freeCtr).toNat 25 16
  | .CMD_STAT => b2n s.fwRuns + 2 * b2n s.svp.restarting + 4 * s.fg F.SVP_STAT_DOWN 0 + 16 * s.fg F.CMD_STAT_LAST 0
  | .NOC_MAXWAIT => min 0xFFFFFFFF (max x (Config.waitNs s.freeCtr))
  | .TMB_NOW_LO => half64 false (stamp s.time.now)
  | .TMB_NOW_HI => half64 true (stamp s.time.now)
  | .TMB_HOLD => s.fg F.TMB_HOLD_HOLDLIM 0 + 65536 * s.holdCnt
  | .TKG_TICK_LO => half64 false s.tickNo
  | .TKG_TICK_HI => half64 true s.tickNo
  | .HIV_STAT => s.hivStat i
  | .SET_VALID => s.setValidRead i
  | .SET_ESTAT => s.setEstat i
  | .JRN_STAT => (((s.fs F.JRN_STAT_SCRUBAGE 0 s.scrubAge).rd .JRN_STAT 0).toNat)
  | .IC_PCLR => (s.rd .IC_PSET i).toNat
  | .IC_ECLR => (s.rd .IC_ESET i).toNat
  | .IC_TSTAT => s.icTstat i
  | .WDG_STAT => s.wdgStat i
  | .DMC_CSTAT => s.fg F.DMC_CSTAT_TRAINED i + 2 * s.fg F.DMC_CSTAT_SREF i + 4 * b2n (s.dramHot i)
  | .DBG_STAT => s.fg F.LCS_DBG_UNLOCK 0
  | .TRC_WIN => leNat ((List.range 4).map (fun k => SMap.get (fun _ => 0) s.trc.buf (32768 * s.fg F.TRC_RPAGE_WIN 0 + 4 * i + k)))
  | .ERR_SUM0 => s.errSum 0
  | .ERR_SUM1 => s.errSum 1
  | .ERR_STAT | .ERR_ADDR_LO | .ERR_ADDR_HI | .ERR_INFO | .ERR_TIME_LO | .ERR_TIME_HI | .ERR_OVF | .ERR_CECNT => s.errValue rq r i
  | .HN_STAT => s.fg F.HN_STAT_DEAD i + 4 * b2n (decide (s.clk < s.mem.reclaimTo))
  | .PE_STAT => s.peStat i
  | .PE_OUTSTAT => s.outStat i % 128
  | .PE_CTX_PC => (s.ectx (i / 8) (i % 8)).pc
  | .PE_CTX_CSTAT => (s.ectx (i / 8) (i % 8)).st + 65536 * s.fg F.PE_CTX_CSTAT_OVRCNT i
  | _ => x

/-! ## Units brought up to date before an access -/

/-- The cycles of core m that have passed since its latest issue, counted (R457). -/
def Dev.coreIdle (s : Dev) (m : Nat) : Dev :=
  let c := s.core m
  let len := s.cycLen m
  let idle := (24 * s.clk - c.nextAt) / len
  let s := s.onCore m (fun c => { c with cyc := c.cyc + idle, nextAt := c.nextAt + idle * len })
  (s.cPmu m 0x01 idle).cond c.asleep (fun s => s.cPmu m 0x1C idle)

/-- What a register's value rests on, brought up to the present clock; for an access that clears bits of a watchdog, up to
the clock before, so that an event of the present clock comes after the clear (R6). -/
def Dev.regSync (s : Dev) (r : RName) (i : Nat) (clears : Bool) : Dev :=
  let u := r.unit i
  match r.info.blk with
  | 16 => if r = .IC_SRC then s.icRefresh i else s
  | 17 => if clears then s.wdgCatchTo u (s.clk - 1) else s.wdgCatch u
  | 25 => s.commandDrain u
  | 27 => s.trcDrain
  | 28 => if r.pmuEngine then s.ePmuClocks u else s.cond (s.core u).released (fun s => s.coreIdle u)
  | 99 => s.commitDue u
  | _ => s

/-- The events of the present clock that a clearing access has put behind itself (R6). -/
def Dev.regAfter (s : Dev) (r : RName) (i : Nat) (clears : Bool) : Dev :=
  if clears && decide (r.info.blk = 17) then { s.wdgCatch (r.unit i) with resp := s.resp } else s

end Sys2Proof.Machine
end

