-- ==== Sys2Proof/Machine/Access.lean ====
section
/-!
DEFINITION. Sys2Proof/Machine/Access.lean: reads and writes of registers, windows and memories by their physical addresses (00 R2
to R7, 14 R373 to R375, Tables 14.1 and 14.4).
-/

namespace Sys2Proof.Machine

/-! ## Reads -/

/-- The interrupt source whose condition a register takes part in (Table 16.1). -/
def srcOf (r : RName) (i : Nat) : Option Nat :=
  match r with
  | .PWR_EVT | .PWR_IEN => some 8
  | .TMB_EVT | .TMB_IEN => some 9
  | .TKG_STAT => some 10
  | .TMR_STAT | .TMR_IEN => some (16 + i)
  | .TSU_CCFG | .TSU_CST => some (32 + i)
  | .CMD_RCTL | .CMD_RSTAT => some (96 + i)
  | .ING_EVT | .ING_IEN => some 112
  | .ALN_EVT | .ALN_IEN => some 113
  | .CMB_EVT | .CMB_IEN => some 114
  | .HIV_EVT | .HIV_IEN => some (120 + i)
  | .SET_EVT | .SET_IEN => some 128
  | .TRG_EVT | .TRG_IEN => some 129
  | .PUB_EVT | .PUB_IEN => some 130
  | .JRN_EVT | .JRN_IEN => some 131
  | .ETH_EVT | .ETH_IEN => some (136 + i)
  | .BLK_EVT | .BLK_IEN => some 140
  | .HN_EVT | .HN_IEN => some (145 + i)
  | .HLT_EVT | .HLT_IEN => some 256
  | .DBG_EVT | .DBG_IEN => some 257
  | .TRC_EVT | .TRC_IEN => some 258
  | .PMU_OVF | .PMU_IEN => some (260 + i)
  | .PMU_EOVF | .PMU_EIEN => some (268 + i / 8)
  | _ => none

/-- A register's stored value replaced, with the edge of its source. -/
def Dev.wrEdge (s : Dev) (r : RName) (i : Nat) (v : Word) : Dev :=
  match srcOf r i with
  | some n => s.edge n (fun s => s.wr r i v)
  | none => s.wr r i v

/-- The read-clears fields of a register cleared by its read: to their reset values, so that a maximum of signed values
starts afresh (Table 0.1, Table 18.10). -/
def Dev.readClear (s : Dev) (r : RName) (i : Nat) : Dev :=
  let m := r.mask (fun a => decide (a = .rc))
  if m = 0 then s else s.wr r i ((s.rd r i &&& ~~~m) ||| (r.reset i &&& m))

/-- A read that its rules admit: the value, with the latch of a 64-bit pair (R2) and the clearing of read-clears fields,
which a PEEK read leaves out (R5).  A PEEK read takes part in the latches of the debug master's port as R2 says of every
read; whether the "without side effect" of Table 17.2 excludes them is open (DEDUCED, log 75). -/
def Dev.readPlain (s : Dev) (rq : Req) (r : RName) (i : Nat) : Dev :=
  let v := s.regValue rq r i
  let s := match r.hiHalf with
    | some h => s.setLatch rq.port h i (some (BitVec.ofNat 32 (s.regValue rq h i)))
    | none => s
  let s := s.cond (decide (r = .PWR_INPUT) || decide (r = .NOC_MAXWAIT)) Dev.draw
  let s := s.cond (!(rq.debug && rq.peek)) (fun s => s.readClear r i)
  if r.loHalf.isSome then
    match s.latchOf rq.port r i with
    | some w => (s.setLatch rq.port r i none).ok w.toNat
    | none => s.ok v
  else s.ok v

/-- A register read by a requester that may. -/
def Dev.readTake (s : Dev) (rq : Req) (r : RName) (i : Nat) : Dev :=
  match r with
  | .IC_CLAIM => s.icClaimRead rq i false
  | .IC_QCLAIM => s.icClaimRead rq i true
  | .DBG_DTX => s.dtxRead rq i
  | .DBG_DRX => s.drxRead rq i
  | .TMR_CNT => s.tmrCntRead i
  | _ => s.readPlain rq r i

/-- The register that an access of size bytes at offset off of block b (99: an engine's control registers) reaches, or its
refusal: no register there (R373), its domain off (R34), a width other than 4 bytes or an unaligned address (R3). -/
def Dev.reach (s : Dev) (rq : Req) (b off size addr : Nat) : Except Dev (RName × Nat) :=
  match regAt b (off / 4 * 4) with
  | none => .error (s.errResp 18 rq 0x03 addr 0)
  | some (r, i) =>
    match s.regOff rq r i addr with
    | some t => .error t
    | none => if size ≠ 4 ∨ off % 4 ≠ 0 then .error (s.errResp (blockLog b) rq 0x02 addr size) else .ok (r, i)

/-- A read of a register block. -/
def Dev.blockRead (s : Dev) (rq : Req) (b off size addr : Nat) : Dev :=
  match s.reach rq b off size addr with
  | .error t => t
  | .ok (r, i) =>
    let clears := r.clears .rc
    let s := s.regSync r i clears
    (if s.mayRead rq r i then s.readTake rq r i else s.regRefuse rq b addr off).regAfter r i clears

/-! ## Writes -/

/-- A write under the access words alone (Table 0.1); a 1 to a reserved bit is ignored (R7). -/
def Dev.writeWords (s : Dev) (r : RName) (i : Nat) (v : Word) : Dev :=
  let m := fun a => r.mask (fun x => decide (x = a)) &&& r.wordBits i
  let old := s.rd r i
  s.wrEdge r i ((((old &&& ~~~(m .rw)) ||| (v &&& m .rw)) &&& ~~~(v &&& m .w1c)) ||| (v &&& m .w1s))

/-- An effect unless a rule refuses the value. -/
def Dev.unless (s : Dev) (rq : Req) (b addr off : Nat) (bad : Bool) (f : Dev → Dev) : Dev :=
  if bad then s.regRefuse rq b addr off else (f s).ok 0

/-- A port of the pair of port p is enabled. -/
def Dev.pairEnabled (s : Dev) (p : Nat) : Bool :=
  decide (s.fg F.ETH_CFG_EN (p / 2 * 2) = 1) || decide (s.fg F.ETH_CFG_EN (p / 2 * 2 + 1) = 1)

/-- A write of ETH_CFG: RED stands in the A blocks and changes only while both ports are disabled (R406); LINK follows EN
(R399). -/
def Dev.ethCfgWrite (s : Dev) (rq : Req) (b addr off p : Nat) (v : Word) : Dev :=
  let a := decide (p % 2 = 0)
  let bad := a && decide (bits v.toNat 7 6 ≠ s.fg F.ETH_CFG_RED p) && s.pairEnabled p
  s.unless rq b addr off bad (fun s => (s.writeWords .ETH_CFG p (if a then v else v &&& 0xFFFFFF3F)).linkUpdate p)

/-- A write of ETH_RING: a size above 8, or another size of an enabled ring, is refused (R420, Table 15.8). -/
def Dev.ethRingWrite (s : Dev) (rq : Req) (b addr off p : Nat) (v : Word) : Dev :=
  let rx := bits v.toNat 3 0
  let tx := bits v.toNat 7 4
  let bad := decide (8 < rx) || decide (8 < tx) ||
    decide (s.fg F.ETH_RING_RXEN p = 1) && decide (rx ≠ s.fg F.ETH_RING_RXSIZE p) ||
    decide (s.fg F.ETH_RING_TXEN p = 1) && decide (tx ≠ s.fg F.ETH_RING_TXSIZE p)
  s.unless rq b addr off bad (fun s => s.writeWords .ETH_RING p v)

/-- A write of BLK_EVCFG: SIZE is 0 to 8 and changes only while the ring is disabled (R420). -/
def Dev.evCfgWrite (s : Dev) (rq : Req) (b addr off l : Nat) (v : Word) : Dev :=
  let n := bits v.toNat 3 0
  let bad := decide (8 < n) || decide (s.fg F.BLK_EVCFG_EN l = 1) && decide (n ≠ s.fg F.BLK_EVCFG_SIZE l)
  s.unless rq b addr off bad (fun s => s.writeWords .BLK_EVCFG l v)

/-- A write of TSU_CST: a 1 to FULL frees the channel, and LOST starts at 0 again (R129). -/
def Dev.cstWrite (s : Dev) (n : Nat) (v : Word) : Dev :=
  (s.writeWords .TSU_CST n v).cond (v.getLsbD 0) (fun s => s.fs F.TSU_CST_LOST n 0)

/-- A write of DBG_CSTAT: a 1 to MON clears it, whoever may write it, and so ends the core's monitor (R4, R449, R450). -/
def Dev.cstatWrite (s : Dev) (m : Nat) (v : Word) : Dev := s.cond (v.getLsbD 0) (fun s => s.monClear m)

/-- A write of HIV_CTL: only while no engine of the hive runs (R219). -/
def Dev.hivCtlWrite (s : Dev) (rq : Req) (b addr off h : Nat) (v : Word) : Dev :=
  s.unless rq b addr off ((List.range 8).any (fun p => s.running (8 * h + p))) (fun s => s.writeWords .HIV_CTL h v)

/-- A write of PE_STEP by engine e: MODE is the hive's, and every engine of it shows it (Table 9.10). -/
def Dev.stepModeAll (s : Dev) (e : Nat) (v : Word) : Dev :=
  s.each (List.range 8) (fun s p => s.fs F.PE_STEP_MODE (8 * (e / 8) + p) (bits v.toNat 16 16))

/-- A register written by a requester that may: the effect of its own row or table, or of its access words. -/
def Dev.writeTake (s : Dev) (rq : Req) (b addr off : Nat) (r : RName) (i : Nat) (v : Word) : Dev :=
  let plain := fun (s : Dev) => s.writeWords r i v
  match r with
  | .PWR_DON0 => (s.seqWrite true 0 v).ok 0
  | .PWR_DON1 => (s.seqWrite true 1 v).ok 0
  | .PWR_DOFF0 => (s.seqWrite false 0 v).ok 0
  | .PWR_DOFF1 => (s.seqWrite false 1 v).ok 0
  | .PWR_HUACK => (s.huAck rq v).ok 0
  | .CMD_RBASE_LO | .CMD_RBASE_HI | .CMD_PBASE_LO | .CMD_PBASE_HI | .CMD_RSEQ =>
    s.unless rq b addr off (decide (s.fg F.CMD_RCTL_EN i = 1)) plain
  | .CMD_RCFG => s.unless rq b addr off (decide (s.fg F.CMD_RCTL_EN i = 1) || decide (8 < bits v.toNat 3 0)) plain
  | .CMD_RCTL => (s.rctlWrite i v).ok 0
  | .CMD_DB => (s.doorbell i (v.toNat % 65536)).ok 0
  | .CMD_PHEAD => (s.pheadWrite rq i (v.toNat % 65536)).ok 0
  | .TMB_SRC0 | .TMB_SRC1 => (plain s).reselect.ok 0
  | .TMB_MEAS => (s.tmbMeasWrite v).ok 0
  | .TKG_CTL => (s.tkgCtlWrite v).ok 0
  | .TMR_CTL => (s.tmrCtlWrite i v).ok 0
  | .TMR_TOP => (s.tmrTopWrite i v).ok 0
  | .TMR_CNT => s.unless rq b addr off (decide (s.fg F.TMR_CTL_EN i = 1)) plain
  | .TMR_CMP => (s.tmrCmpWrite (i / 4) (i % 4) v).ok 0
  | .TMR_CDIR => (s.tmrCdirWrite i v).ok 0
  | .TSU_SWTRIG => (s.swTrig rq i v).ok 0
  | .TSU_CST => (s.cstWrite i v).ok 0
  | .HIV_MAIL => s.hivMailWrite rq i v
  | .HIV_CTL => s.hivCtlWrite rq b addr off i v
  | .SET_VALID => (s.setValidWrite i v).ok 0
  | .SET_PG_CTL => (s.pgCtlWrite i v).ok 0
  | .IC_PSET => (s.icBankWrite rq .IC_PSET true i v).ok 0
  | .IC_PCLR => (s.icBankWrite rq .IC_PSET false i v).ok 0
  | .IC_ESET => (s.icBankWrite rq .IC_ESET true i v).ok 0
  | .IC_ECLR => (s.icBankWrite rq .IC_ESET false i v).ok 0
  | .IC_REARM => (s.icRearmWrite rq v).ok 0
  | .IC_COMPL => (s.icComplete rq i v).ok 0
  | .IC_SRC => (s.icSrcWrite rq i v).ok 0
  | .WDG_CTL => s.wdgCtlWrite rq i v
  | .WDG_OPEN | .WDG_CLOSE | .WDG_GRACE => s.wdgWindowWrite rq i (off % 0x20) v
  | .WDG_SVC => (s.wdgService i v).ok 0
  | .NOC_FW_BASE_LO | .NOC_FW_BASE_HI | .NOC_FW_SIZE | .NOC_FW_CTL => s.fwWrite rq i (off % 16 / 4) v
  | .DMC_HCH_LO | .DMC_HCH_HI | .DMC_HBG0_LO | .DMC_HBG0_HI | .DMC_HBG1_LO | .DMC_HBG1_HI | .DMC_HBA0_LO | .DMC_HBA0_HI
  | .DMC_HBA1_LO | .DMC_HBA1_HI => s.maskWrite rq off v
  | .ETH_CFG => s.ethCfgWrite rq b addr off i v
  | .ETH_MAC_LO | .ETH_MAC_HI => s.unless rq b addr off (s.pairEnabled i) plain
  | .ETH_RXBASE_LO | .ETH_RXBASE_HI => s.unless rq b addr off (decide (s.fg F.ETH_RING_RXEN i = 1)) plain
  | .ETH_TXBASE_LO | .ETH_TXBASE_HI => s.unless rq b addr off (decide (s.fg F.ETH_RING_TXEN i = 1)) plain
  | .ETH_RING => s.ethRingWrite rq b addr off i v
  | .BLK_EVBASE_LO | .BLK_EVBASE_HI => s.unless rq b addr off (decide (s.fg F.BLK_EVCFG_EN i = 1)) plain
  | .BLK_EVCFG => s.evCfgWrite rq b addr off i v
  | .DBG_CREQ => (s.creqWrite i v).ok 0
  | .DBG_CSTAT => (s.cstatWrite i v).ok 0
  | .DBG_DTX => (s.dtxWrite rq i v).ok 0
  | .DBG_DRX => (s.drxWrite rq i v).ok 0
  | .TRC_CTL => (s.trcCtlWrite v).ok 0
  | .TRC_SW => (s.trcSw i v).ok 0
  | .HLT_MON_CFG => (s.faultEdge plain).ok 0
  | .ERR_STAT => s.errStatWrite rq i v
  | .PE_CTL => (s.peCtlWrite i v).ok 0
  | .PE_DBG => (s.peDbgWrite i v).ok 0
  | .TRG_PCFG => (s.pairRises i plain).ok 0
  | .PUB_CFG => (s.pubCfgWrite i plain).ok 0
  | .PE_STEP => ((plain s).stepModeAll i v).ok 0
  | .PE_CTX_BIND => s.unless rq b addr off (s.running (i / 8)) plain
  | _ => (plain s).ok 0

/-- A write of a register block; a write that is not refused ends the latches of its pair (R2). -/
def Dev.blockWrite (s : Dev) (rq : Req) (b off size v addr : Nat) : Dev :=
  match s.reach rq b off size addr with
  | .error t => t
  | .ok (r, i) =>
    let clears := r.clears .w1c
    let s := s.regSync r i clears
    let w := BitVec.ofNat 32 v
    (if s.mayWrite rq r i w then
      let t := s.writeTake rq b addr off r i w
      if t.resp.err then t else t.endLatches r i
    else s.regRefuse rq b addr off).regAfter r i clears

/-! ## Windows and memories (Tables 14.1, 14.4, R374) -/

/-- Whether a requester reaches hive h's shared memory: the debug master under an unlock that covers the hive's world. -/
def Dev.hsmSees (s : Dev) (rq : Req) (h : Nat) : Bool :=
  rq.svp || (if rq.debug then s.unlockReach (s.hiveWorld h) else rq.ofWorld (s.hiveWorld h))

/-- An access of hive h's shared memory at byte offset off: domain, width, requester. -/
def Dev.hsmGate (s : Dev) (rq : Req) (h off size addr : Nat) (f : Dev → Dev) : Dev :=
  if !s.domOn (9 + h) then s.errResp 18 rq 0x11 addr (9 + h)
  else if !wordWidth off size then s.errResp 11 rq 0x02 addr size
  else if !s.hsmSees rq h then s.errResp 11 rq 0x05 addr 0
  else f (s.serveHive h)

/-- Bytes of 16-bit words from address a on as a number. -/
def wordsNat (g : Nat → BitVec 16) (a n : Nat) : Nat :=
  (List.range n).foldl (fun v i => v + (g (a + i)).toNat * 2 ^ (16 * i)) 0

/-- A read of hive shared memory; an uncorrectable word gets an error response (Table 18.4, code 4). -/
def Dev.hsmRead (s : Dev) (rq : Req) (h off size addr : Nat) : Dev :=
  s.hsmGate rq h off size addr (fun s =>
    if s.ueIn 4 h (off / 2) (size / 2) then s.errResp 11 rq 0x08 addr 4
    else s.ok (wordsNat (s.hsmWord h) (off / 2) (size / 2)))

/-- A write of hive shared memory, word after word in ascending order. -/
def Dev.hsmWrite (s : Dev) (rq : Req) (h off size v addr : Nat) : Dev :=
  s.hsmGate rq h off size addr (fun s =>
    (s.each (List.range (size / 2)) (fun s i => s.port2Hsm h (off / 2 + i) (BitVec.ofNat 16 (v / 2 ^ (16 * i))))).ok 0)

/-- An access of engine e's window outside its control registers: domain, width, requester (R191). -/
def Dev.engGate (s : Dev) (rq : Req) (e off size addr : Nat) (f : Dev → Dev) : Dev :=
  if !s.domOn (9 + e / 8) then s.errResp 18 rq 0x11 addr (9 + e / 8)
  else if !wordWidth off size then s.errResp (if 0x80000 ≤ off then 12 else 11) rq 0x02 addr size
  else if !s.engSees rq e then s.errResp 11 rq 0x05 addr 0
  else f (s.serveHive (e / 8))

/-- A memory that an engine window shows: its 16-bit words by the window's word address, the place of a word among the
uncorrectable ones, and how many entries there an access of n words covers. -/
structure WinMem where
  words : Nat → BitVec 16
  unit  : Nat
  entry : Nat
  many  : Bool

/-- The memory at an offset of an engine window; none in a gap (Table 14.1). -/
def Dev.engWords (s : Dev) (e off : Nat) : Option WinMem :=
  let x := s.eng e
  let act := s.fg F.SET_ESTAT_ACTIVE e
  if off < 0x20000 then
    some ⟨fun a => BitVec.ofNat 16 ((x.bundle (a / 8)).toNat / 2 ^ (16 * (a % 8))), 4 * e, off / 16, false⟩
  else if 0x40000 ≤ off ∧ off < 0x60000 then some ⟨fun a => x.dataWord (a - 0x20000), 4 * e + 1, off / 2 - 0x20000, true⟩
  else if 0x80000 ≤ off ∧ off < 0x84000 then
    some ⟨fun a => x.bankWord (1 - act) (a - 0x40000), 4 * e + 2 + (1 - act), off / 2 - 0x40000, true⟩
  else if 0x84000 ≤ off ∧ off < 0x88000 then
    some ⟨fun a => x.bankWord act (a - 0x42000), 4 * e + 2 + act, off / 2 - 0x42000, true⟩
  else none

/-- A read of an engine window; an uncorrectable word gets an error response, no engine reading it (DESIGN CHOICE, log 38). -/
def Dev.engRead (s : Dev) (rq : Req) (e off size addr : Nat) : Dev :=
  if 0xC0000 ≤ off then s.blockRead rq 99 (e * 0x100000 + (off - 0xC0000)) size addr
  else match s.engWords e off with
    | none => s.errResp 18 rq 0x03 addr 0
    | some _ => s.engGate rq e off size addr (fun s =>
      match s.engWords e off with
      | none => s
      | some w =>
        if s.ueIn 3 w.unit w.entry (if w.many then size / 2 else 1) then s.errResp (if 0x80000 ≤ off then 12 else 11) rq 0x08 addr 3
        else s.ok (wordsNat w.words (off / 2) (size / 2)))

/-- A write of data memory: the SVP and the debug master (Table 8.1). -/
def Dev.engDataWrite (s : Dev) (rq : Req) (e off size v addr : Nat) : Dev :=
  s.engGate rq e off size addr (fun s =>
    (s.each (List.range (size / 2)) (fun s i =>
      s.port2Data e ((off - 0x40000) / 2 + i) (BitVec.ofNat 16 (v / 2 ^ (16 * i))))).ok 0)

/-- A write of an engine window. -/
def Dev.engWrite (s : Dev) (rq : Req) (e off size v addr : Nat) : Dev :=
  if 0xC0000 ≤ off then s.blockWrite rq 99 (e * 0x100000 + (off - 0xC0000)) size v addr
  else if off < 0x20000 then s.progWrite rq e off size v
  else if 0x40000 ≤ off ∧ off < 0x60000 then s.engDataWrite rq e off size v addr
  else if 0x80000 ≤ off ∧ off < 0x84000 then s.shadowWrite rq e (off - 0x80000) size v
  else if 0x84000 ≤ off ∧ off < 0x88000 then s.activeWrite rq e (off - 0x84000)
  else s.errResp 18 rq 0x03 addr 0

/-- Whether a requester reaches the SVP's ROM and RAM (Table 14.4). -/
def Dev.svpMemSees (s : Dev) (rq : Req) : Bool := rq.svp || (rq.debug && decide (s.fg F.LCS_DBG_UNLOCK 0 = 3))

/-- A read of the SVP boot ROM: 4 or 8 bytes, naturally aligned. -/
def Dev.romRead (s : Dev) (rq : Req) (off size addr : Nat) : Dev :=
  if !s.domOn 1 then s.errResp 18 rq 0x11 addr 1
  else if (size ≠ 4 ∧ size ≠ 8) ∨ off % size ≠ 0 then s.errResp 0 rq 0x02 addr size
  else if !s.svpMemSees rq then s.errResp 0 rq 0x01 addr off
  else s.ok ((Config.romWord (off / 8)).toNat / 2 ^ (8 * (off % 8)) % 2 ^ (8 * size))

/-- A read of SVP RAM; an uncorrectable byte restarts the supervisor (Table 18.4, code 6). -/
def Dev.ramRead (s : Dev) (rq : Req) (off size addr : Nat) : Dev :=
  if !s.domOn 1 then s.errResp 18 rq 0x11 addr 1
  else if !s.svpMemSees rq then s.errResp 0 rq 0x01 addr off
  else if s.ueIn 6 0 off size then (s.errResp 0 rq 0x08 addr 6).svpRestart 4
  else s.ok (leNat ((List.range size).map (fun i => SMap.get (fun _ => 0) s.svp.ram (off + i))))

/-- A write of SVP RAM. -/
def Dev.ramWrite (s : Dev) (rq : Req) (off size v addr : Nat) : Dev :=
  if !s.domOn 1 then s.errResp 18 rq 0x11 addr 1
  else if !s.svpMemSees rq then s.errResp 0 rq 0x01 addr off
  else
    let m := (List.range size).foldl (fun m i => SMap.set (fun _ => 0) m (off + i) (BitVec.ofNat 8 (v / 2 ^ (8 * i)))) s.svp.ram
    ({ s with svp := { s.svp with ram := m } } : Dev).ok 0

/-! ## The physical address space (R373) -/

/-- What an address names: DRAM, a window or block with the offset in it, or nothing. -/
inductive Target
  | dram
  | comb (off : Nat)
  | hsm (h off : Nat)
  | eng (e off : Nat)
  | dev (b off : Nat)
  | rom (off : Nat)
  | ram (off : Nat)
  | mram (off : Nat)
  | hole
  deriving DecidableEq, Repr

/-- The target of a physical address (Table 14.1). -/
def target (pa : Nat) : Target :=
  if pa < dramSize then .dram
  else if 0x4000000000 ≤ pa ∧ pa < 0x4000800000 then .comb (pa - 0x4000000000)
  else if 0x4010000000 ≤ pa ∧ pa < 0x4010400000 then .hsm ((pa - 0x4010000000) / 0x80000) ((pa - 0x4010000000) % 0x80000)
  else if 0x4020000000 ≤ pa ∧ pa < 0x4024000000 then .eng ((pa - 0x4020000000) / 0x100000) ((pa - 0x4020000000) % 0x100000)
  else if 0x4100000000 ≤ pa ∧ pa < 0x41001F0000 then .dev ((pa - 0x4100000000) / 0x10000) ((pa - 0x4100000000) % 0x10000)
  else if 0x4200000000 ≤ pa ∧ pa < 0x4200040000 then .rom (pa - 0x4200000000)
  else if 0x4200100000 ≤ pa ∧ pa < 0x4200180000 then .ram (pa - 0x4200100000)
  else if 0x4400000000 ≤ pa ∧ pa < 0x4404000000 then .mram (pa - 0x4400000000)
  else .hole

/-- What the target of a physical address answers to a read of size bytes. -/
def Dev.readTarget (s : Dev) (rq : Req) (pa size : Nat) : Dev :=
  match target pa with
  | .dram =>
    match s.dmaRead rq.port rq.world pa size with
    | (s, some bs) => s.ok (leNat bs)
    | (s, none) => s.bad
  | .comb off => s.combWindow rq off size
  | .hsm h off => s.hsmRead rq h off size pa
  | .eng e off => s.engRead rq e off size pa
  | .dev b off => s.blockRead rq b off size pa
  | .rom off => s.romRead rq off size pa
  | .ram off => s.ramRead rq off size pa
  | .mram off => s.mramRead rq off size
  | .hole => s.errResp 18 rq 0x03 pa 0

/-- A read of size bytes at a physical address; the answer stands in resp. -/
def Dev.readAt (s : Dev) (rq : Req) (pa size : Nat) : Dev := s.byFence rq (fun s => s.readTarget rq pa size)

/-- What the target of a physical address does with a write of size bytes of v. -/
def Dev.writeTarget (s : Dev) (rq : Req) (pa size v : Nat) : Dev :=
  match target pa with
  | .dram =>
    match s.dmaWrite rq.port rq.world pa (leBytes size v) with
    | (s, true) => s.ok 0
    | (s, false) => s.bad
  | .comb off =>
    if s.domOn 8 then s.errResp 10 rq 0x01 pa off else s.errResp 18 rq 0x11 pa 8
  | .hsm h off => s.hsmWrite rq h off size v pa
  | .eng e off => s.engWrite rq e off size v pa
  | .dev b off => s.blockWrite rq b off size v pa
  | .rom off => if s.domOn 1 then s.errResp 0 rq 0x01 pa off else s.errResp 18 rq 0x11 pa 1
  | .ram off => s.ramWrite rq off size v pa
  | .mram off => s.mramWrite rq off size v
  | .hole => s.errResp 18 rq 0x03 pa 0

/-- A write of size bytes of v at a physical address; the answer stands in resp. -/
def Dev.writeAt (s : Dev) (rq : Req) (pa size v : Nat) : Dev := s.byFence rq (fun s => s.writeTarget rq pa size v)

/-- A read with its answer: none for an error response. -/
def Dev.busRead (s : Dev) (rq : Req) (pa size : Nat) : Dev × Option Nat :=
  let t := s.readAt rq pa size
  (t, if t.resp.err then none else some t.resp.val.toNat)

/-- A write, and whether it got no error response. -/
def Dev.busWrite (s : Dev) (rq : Req) (pa size v : Nat) : Dev × Bool :=
  let t := s.writeAt rq pa size v
  (t, !t.resp.err)

/-! ## The commands -/

/-- REG64_LO_READ: a 4-byte read of a _LO half (R2). -/
def execReg64LoRead (rq : Req) (addr : Nat) (s : State) : Host.Outcome State Fault Refusal :=
  run (rq.ok && decide (addr < 1099511627776)) (fun s => s.readAt rq addr 4) s

/-- REG64_HI_READ: a 4-byte read of a _HI half (R2). -/
def execReg64HiRead (rq : Req) (addr : Nat) (s : State) : Host.Outcome State Fault Refusal :=
  run (rq.ok && decide (addr < 1099511627776)) (fun s => s.readAt rq addr 4) s

/-- READ_CLEARS_READ: a 4-byte read of a read-clears register (R4, R5). -/
def execReadClearsRead (rq : Req) (addr : Nat) (s : State) : Host.Outcome State Fault Refusal :=
  run (rq.ok && decide (addr < 1099511627776)) (fun s => s.readAt rq addr 4) s

/-- REGISTER_WRITE: a write of size bytes (R3, R4). -/
def execRegisterWrite (rq : Req) (addr size : Nat) (v : Word) (s : State) : Host.Outcome State Fault Refusal :=
  run (rq.ok && decide (addr < 1099511627776) && decide (size < 33)) (fun s => s.writeAt rq addr size v.toNat) s

end Sys2Proof.Machine
end

