-- ==== Sys2Proof/Machine/Boot.lean ====
section
/-!
DEFINITION. Sys2Proof/Machine/Boot.lean: the steps of BOOT, the restored configuration and the boot target (02 R35; 03 R60 to
R67, R492; 04 R72; 14 R380).
-/

namespace Sys2Proof.Machine

/-- A boot that fails stays in BOOT with FAULT_N driven (R61, R67). -/
def Dev.bootFails (s : Dev) (code : Nat) : Dev :=
  s.faultEdge (fun s => { s.fs F.LCS_BOOT_FAIL 0 code with svp := { s.svp with bootFail := true } })

/-- The next step begins. -/
def Dev.bootTo (s : Dev) (step : Nat) : Dev := s.fs F.LCS_BOOT_STEP 0 step

/-! ## Steps 1 to 4 (Table 3.4) -/

/-- Step 1: fuses read, an erase that RETPEND asks for completed, SVP RAM cleared (R66). -/
def Dev.boot1 (s : Dev) : Dev :=
  let s := if s.lcs.retpend then
      let s := s.eraseSealed
      { s with lcs := { s.lcs with retpend := false, stateFuse := max 3 s.lcs.stateFuse } }
    else s
  let s := { s with lcs := { s.lcs with state := s.lcs.stateFuse }, svp := { s.svp with ram := [] } }
  if s.lcs.state = 4 then s.bootFails 0 else s.bootTo 2

/-- The first records of a boot after a module reset: RESET, then the change from DORMANT (R42, R492). -/
def Dev.bootRecords (s : Dev) : Dev :=
  if s.svp.restarted then s
  else (s.record 0x0004 0 0 (leBytes 4 (s.fg F.PWR_WAKE_CAUSE 0))).modeRecord 0 1 trigWake

/-- Step 2: PD32 on, SVP firmware accepted; a restart in BOOT completes here. -/
def Dev.boot2 (s : Dev) : Dev :=
  let s := if s.domOn 32 then s else (s.switchOn 32).jrnRecover
  match s.imagePick false with
  | none => s.bootFails 1
  | some (i, x) =>
    (s.faultEdge (fun s => s.fwStart i x)).bootRecords.bootTo 3

/-- The firewall and the staging ring as a blank store leaves them (R380). -/
def Dev.blankRegions (s : Dev) (world : Nat) : Dev :=
  let s := s.each (List.range 16) (fun s r => s.fs F.NOC_FW_SIZE_SIZE r 0)
  let s := ((s.wr .NOC_FW_BASE_LO 0 0).wr .NOC_FW_BASE_HI 0 0).wr .NOC_FW_SIZE 0 262080
  let s := s.fs F.NOC_FW_CTL_WORLD 0 world
  let s := (s.wr .JRN_STGBASE_LO 0 0xFFC00000).wr .JRN_STGBASE_HI 0 3
  s.fs F.JRN_DRSIZE_MIB 0 0

/-- DRAM trained and cleared: both channels, no poison, no uncorrectable word. -/
def Dev.clearDram (s : Dev) : Dev :=
  let s := s.each [0, 1] (fun s c => (s.fs F.DMC_CSTAT_TRAINED c 1).fs F.DMC_CSTAT_SREF c 0)
  { s with mem := { s.mem with dram := [], poison := [], lost := [], ue := s.mem.ue.filter (fun x => decide (x.1 ≠ 0x0A)) } }

/-- Step 3: every domain of Table 2.4 that is off goes on, cores held; DRAM trained and cleared. -/
def Dev.boot3 (s : Dev) (trained : Bool) : Dev :=
  let s := s.each (domOrder.filter (fun d => decide (d ≠ 31))) (fun s d => if s.domOn d then s else s.switchOn d)
  if !trained then s.bootFails 3
  else
    let w := match s.imagePick true with
      | some (_, x) => x.world
      | none => 0
    let masks := match s.imagePick false with
      | some (_, x) => x.masks
      | none => []
    ((((s.dmcStart masks).clearDram).fs F.JRN_STAT_DIRECT 0 0).blankRegions w).bootTo 4

/-- Step 4: the accepted first-stage image is copied to DRAM, to the load address that its header gives (DESIGN CHOICE, log 28),
and names the boot core, its world and its entry point (R63). -/
def Dev.boot4 (s : Dev) : Dev :=
  match s.imagePick true with
  | none => s.bootFails 2
  | some (i, x) =>
    let s := (s.fs F.LCS_BOOT_SLOTB 0 i).setDramBytes x.load (x.body.take (dramSize - x.load))
    let s := { s with svp := { s.svp with bootCore := x.core % 8, bootWorld := x.world, bootEntry := x.entry } }
    s.bootTo 5

/-! ## Step 5: the configuration store (R64, R492) -/

/-- The item of a code of LCS_BOOT.ITEM. -/
def Dev.cfgItem (s : Dev) (code : Nat) : CfgItem := SMap.get (fun _ => {}) s.lcs.store code

/-- Registers back at reset values and indices. -/
def Dev.resetRegs (s : Dev) (l : List RName) : Dev := l.foldl Dev.resetReg s

/-- The firewall and JRN's staging and capture bases at their reset values, and then as boot step 3 leaves them, which a stored
item overwrites (R380). -/
def Dev.clearRegions (s : Dev) : Dev :=
  let s := s.resetRegs [.NOC_FW_BASE_LO, .NOC_FW_BASE_HI, .NOC_FW_SIZE, .NOC_FW_CTL, .JRN_STGBASE_LO, .JRN_STGBASE_HI,
    .JRN_DRBASE_LO, .JRN_DRBASE_HI, .JRN_DRSIZE]
  s.blankRegions (match s.imagePick true with
    | some (_, x) => x.world
    | none => 0)

/-- Timers, capture channels and the interrupt controller at the reset values of their registers; timers and capture channels
keep their counts and captures (R492). -/
def Dev.clearUnits (s : Dev) : Dev :=
  let keep := [RName.TMR_CNT, .TSU_CAP_LO, .TSU_CAP_HI, .TSU_CST]
  let s := s.resetRegs ((RName.ofBlock 6 ++ RName.ofBlock 7 ++ RName.ofBlock 16).filter (fun r => !keep.contains r))
  { s with timers := [], ic := {} }

/-- What an item configures put back to its reset values in a restarted boot (R492).  A hive keeps the world last assigned
(R33).  Of the CMD registers the item of ring worlds configures WORLD and SYS alone: EN and the indices keep what they hold
(R94; DESIGN CHOICE, log 28). -/
def Dev.cfgClear (s : Dev) (code : Nat) : Dev :=
  match code with
  | 0 => (s.clearRegions).each (List.range 8) (fun s m => s.onCore m (fun c => { c with world := 0 }))
  | 1 => (s.each (List.range 8) (fun s h => (s.resetHiveState h).freshSets h)).combFlush
  | 2 => s.resetBlock 12
  | 3 => { (s.resetBlock 8).resetBlock 9 with ing := {} }
  | 4 => (s.resetBlock 10).combFlush
  | 5 => { s.resetBlock 13 with trg := {} }
  | 6 => { s.resetBlock 14 with pub := [] }
  | 8 => s.each (List.range 16) (fun s r => (s.fs F.CMD_RCFG_WORLD r 0).fs F.CMD_RCFG_SYS r 0)
  | 9 => s.clearUnits
  | 10 => s.resetRegs [.TMB_SRC0, .TMB_SRC1, .TMB_CFG, .TMB_UTCOFS]
  | 11 => s.resetBlock 29
  | 12 => s.resetRegs ((RName.ofBlock 21 ++ RName.ofBlock 25).filter (fun r => decide (r ≠ .ETH_STAT) && decide (r ≠ .BLK_LSTAT)))
  | _ => s

/-- The register values of an item. -/
def Dev.cfgWrites (s : Dev) (l : List (RName × Nat × Word)) : Dev := l.foldl (fun s x => s.wr x.1 x.2.1 x.2.2) s

/-- The time item: its rate waits for the top of a second, as R117 states. -/
def Dev.cfgTime (s : Dev) (l : List (RName × Nat × Word)) : Dev :=
  let s := (s.cfgWrites (l.filter (fun x => decide (x.1 ≠ .TKG_RATE)))).reselect
  match l.find? (fun x => decide (x.1 = .TKG_RATE)) with
  | none => s
  | some x =>
    let code := bits x.2.2.toNat 2 0
    if code = s.fg F.TKG_RATE_CODE 0 ∨ 6 ≤ code then s
    else
      let sec := s.secIn20us
      let s := (s.fs F.TKG_EFFSEC_LO_SEC 0 sec).fs F.TKG_EFFSEC_HI_SEC 0 (sec / 2 ^ 32)
      s.tkgCtlWrite (BitVec.ofNat 32 (1 + 2 * code))

/-- A restored settings image: in the active bank (log 37). -/
def Dev.cfgSettings (s : Dev) (e : Nat) (bs : List Byte) : Dev :=
  let s := (s.setsWrite (2 ^ e) bs).fs F.SET_ESTAT_SHVALID e 0
  (s.fs F.SET_ESTAT_ACTIVE e (1 - s.fg F.SET_ESTAT_ACTIVE e)).wr .SET_AID e (s.rd .SET_SID e)

/-- An item restored: its objects, then its registers.  R64 names the digest as the only check that ends the restore: a casting
or a settings image that fails its own check is left out and the boot goes on, and a stored BOOTWAIT above its range of 0 to
600 s is taken as 600 s (DESIGN CHOICE, log 28). -/
def Dev.cfgApply (s : Dev) (code : Nat) (x : CfgItem) : Dev :=
  let each := fun (s : Dev) (f : Dev → Nat → List Byte → Dev) => x.blobs.foldl (fun s b => f s b.1 b.2) s
  match code with
  | 0 => (each s (fun s m b => s.onCore m (fun c => { c with world := objNat b 0 1 % 2 }))).cfgWrites x.writes
  | 1 => (each s (fun s e b => if (s.castCheck e b).isNone then s.castWrite e b else s)).cfgWrites x.writes
  | 2 => (each s (fun s e b => if (setsCheck b).isNone then s.cfgSettings e b else s)).cfgWrites x.writes
  | 3 => (each s (fun s _ b => s.applyTable b)).cfgWrites x.writes
  | 4 => (s.cfgWrites x.writes).combFlush
  | 5 => each (s.cfgWrites x.writes) (fun s _ b => { s with trg := { s.trg with map := mapEntries b } })
  | 6 =>
    let s := (each s (fun s _ b => (s.pubTable b).1)).cfgWrites x.writes
    s.each ((List.range 128).filter (fun b => (s.pblk b).loaded && decide (s.fg F.PUB_CFG_EN b = 1))) Dev.pubEnable
  | 7 => each s (fun s _ b => { s with svp := { s.svp with target := objNat b 0 1, wait := min 600 (objNat b 1 2) } })
  | 8 => s.ringWorlds
  | 10 => s.cfgTime x.writes
  | _ => s.cfgWrites x.writes

/-- Items in the order of Table 3.4, the boot target last. -/
def cfgOrder : List Nat := [0, 8, 9, 10, 11, 12, 1, 2, 3, 4, 5, 6, 7]

/-- A digest that fails: the restore stops, and the target is COMMISSION (R64). -/
def Dev.cfgFails (s : Dev) (code : Nat) : Dev :=
  let s := (s.fs F.LCS_BOOT_FAIL 0 4).fs F.LCS_BOOT_ITEM 0 code
  let s := { s with svp := { s.svp with target := 2 } }
  s.record 0x0008 0 0 (leBytes 4 4 ++ leBytes 4 code)

/-- Items restored in order until one fails. -/
def Dev.cfgRestore (s : Dev) : List Nat → Dev
  | [] => s
  | code :: l =>
    let x := s.cfgItem code
    if x.present && !x.digestOk then s.cfgFails code
    else
      let s := s.cond s.svp.restarted (fun s => s.cfgClear code)
      (if x.present then s.cfgApply code x else s.cond (decide (code = 8)) Dev.ringWorlds).cfgRestore l

/-- The boot core released at its entry point, in its world (R63). -/
def Dev.bootRelease (s : Dev) : Dev :=
  let m := s.svp.bootCore
  let s := s.cond (s.core m).released (fun s => s.coreReset m)
  (s.onCore m (fun c => { c with world := s.svp.bootWorld })).coreRelease m s.svp.bootEntry

/-- Supervisor firmware writes the latencies of the ports that its image carries (R403). -/
def Dev.portConstants (s : Dev) : Dev :=
  s.each (List.range 4) (fun s p =>
    let r := (Config.portLatency (2 * p)).toNat
    let t := (Config.portLatency (2 * p + 1)).toNat
    ((s.fs F.ETH_TSCORR_RX p r).fs F.ETH_TSCORR_TX p t).onPort p (fun x => { x with latRx := r, latTx := t }))

/-- Step 5, and the start of step 6. -/
def Dev.boot5 (s : Dev) : Dev :=
  let s := { s with svp := { s.svp with target := 2, wait := 0 } }
  let s := ((s.portConstants.cfgRestore cfgOrder).bootTo 6).bootRelease
  let k := s.clk
  if s.svp.target = 3 ∧ s.serviceUnmet.isSome then { s with svp := { s.svp with waitAt := some k } } else s

/-! ## Step 6: the boot target (R64) -/

/-- BOOT ends in a mode. -/
def Dev.bootEnd (s : Dev) (mode : Nat) : Dev :=
  let s := { s with svp := { s.svp with waitAt := none } }
  (s.bootTo 7).changeMode mode trigBoot

/-- Step 6: SERVICE once the conditions of R38 hold, COMMISSION otherwise; the wait starts where they are first found not to
hold. -/
def Dev.boot6 (s : Dev) : Dev :=
  if s.svp.target = 3 then
    if s.serviceUnmet.isSome then
      let k := s.svp.waitAt.getD s.clk
      { s with svp := { s.svp with waitAt := some k } }
    else s.bootEnd 3
  else s.bootEnd 2

/-- The step in progress ends. -/
def Dev.bootStep (s : Dev) (trained : Bool) : Dev :=
  match s.fg F.LCS_BOOT_STEP 0 with
  | 1 => s.boot1
  | 2 => s.boot2
  | 3 => s.boot3 trained
  | 4 => s.boot4
  | 5 => s.boot5
  | 6 => s.boot6
  | _ => s

/-- Whether a boot is under way. -/
def Dev.booting (s : Dev) : Bool := s.domOn 1 && decide (s.mode = 1) && !s.svp.bootFail && decide (s.fg F.SVP_STAT_DOWN 0 = 0)

/-- BOOT_STEP (R63). -/
def execBootStep (trained : Bool) (s : State) : Host.Outcome State Fault Refusal :=
  run (wellFormed (.bootStep trained)) (fun s => if s.booting then s.bootStep trained else s) s

/-- The wait for SERVICE runs out: the unmet condition is journaled, and the module enters COMMISSION (R64). -/
def Dev.waitOver (s : Dev) (k : Nat) : Dev :=
  let s := s.moveClk (k + s.svp.wait * nsPerSec)
  match s.serviceUnmet with
  | none => s.bootEnd 3
  | some d =>
    let s := (s.fs F.LCS_BOOT_FAIL 0 5).fs F.LCS_BOOT_ITEM 0 0
    (s.record 0x0008 0 0 (leBytes 4 5 ++ leBytes 4 0 ++ leBytes 4 d)).bootEnd 2

/-- BOOTWAIT_EXPIRY (R64). -/
def execBootwaitExpiry (s : State) : Host.Outcome State Fault Refusal :=
  run (wellFormed .bootwaitExpiry) (fun s =>
    match s.svp.waitAt with
    | some k => if s.booting then s.waitOver k else s
    | none => s) s

end Sys2Proof.Machine
end

