-- ==== Sys2Proof/Machine/CoreMmu.lean ====
section
/-!
DEFINITION. Sys2Proof/Machine/CoreMmu.lean: faults, translation, TLBs and the fetch of a bundle (12 R332 to R340, 13 R360,
R361, 11 R305).
-/

namespace Sys2Proof.Machine

/-- A fault of a bundle (Table 12.6), with what ECAUSE, EADDR and EPROG take from it. -/
structure Exc where
  code    : Nat
  prio    : Nat
  slot    : Nat := 0
  addr    : Nat := 0
  store   : Bool := false
  half2   : Bool := false
  walkerr : Bool := false
  fslvl   : Nat := 0
  prog    : Nat := 0
  which   : Nat := 0
  deriving DecidableEq, Repr

/-- Cause codes (Table 12.6). -/
def cInsnErr : Nat := 0x01
def cInsnXlat : Nat := 0x02
def cInsnPerm : Nat := 0x03
def cIllBundle : Nat := 0x04
def cIllOp : Nat := 0x05
def cPrivReg : Nat := 0x06
def cInsnAlign : Nat := 0x07
def cFsOvf : Nat := 0x08
def cAlign : Nat := 0x09
def cAccType : Nat := 0x0A
def cDataXlat : Nat := 0x0B
def cDataPerm : Nat := 0x0C
def cDataErr : Nat := 0x0D
def cDebug : Nat := 0x10
def cInterrupt : Nat := 0x11
def cQuick : Nat := 0x12

/-- Priority of a cause (Table 12.6). -/
def excPrio (code : Nat) : Nat :=
  match code with
  | 0x01 => 1 | 0x02 => 2 | 0x03 => 3 | 0x04 => 4 | 0x05 => 5 | 0x06 => 6 | 0x07 => 7 | 0x08 => 7
  | 0x09 => 8 | 0x0A => 9 | 0x0B => 10 | 0x0C => 11 | 0x0D => 12 | _ => 13

/-- A fault of a cause in a slot. -/
def exc (code slot addr : Nat) : Exc := { code := code, prio := excPrio code, slot := slot, addr := addr }

/-- The fault reported among several (R317): the lowest priority number, then the lowest slot. -/
def Exc.first : List Exc → Option Exc
  | [] => none
  | x :: t =>
    match Exc.first t with
    | none => some x
    | some y => if x.prio < y.prio ∨ (x.prio = y.prio ∧ x.slot ≤ y.slot) then some x else some y

/-! ## Translation (R332 to R337) -/

/-- Kinds of access (R335). -/
inductive AccKind
  /-- A fetch. -/
  | fetch
  /-- A load. -/
  | load
  /-- A store, an STX, an STM slot. -/
  | store
  /-- An atomic: R and W. -/
  | atomic
  /-- A DCINV at S: W, but the page is not made dirty (R362). -/
  | inval
  /-- An ICINV: X (R362). -/
  | icinv
  deriving DecidableEq, Repr

/-- Whether a fault of the access carries STORE = 1 (Table 12.4, R362). -/
def AccKind.writes : AccKind → Bool
  | .store => true
  | .atomic => true
  | .inval => true
  | _ => false

/-- Whether the access needs the dirty bit of its leaf (R336). -/
def AccKind.dirties : AccKind → Bool
  | .store => true
  | .atomic => true
  | _ => false

/-- A translated address: physical, and its memory type: 0 normal cacheable, 1 normal non-cacheable, 2 device. -/
structure Phys where
  pa : Nat
  mt : Nat
  deriving DecidableEq, Repr

/-- Why a translation fails. -/
inductive XFault
  /-- Translation fault; true: an error response during the walk. -/
  | xlat (walkerr : Bool)
  /-- Permission fault, at a place of a memory type. -/
  | perm (mt : Nat)
  deriving DecidableEq, Repr

/-- The memory type of a place that a translation has found, permitted or not. -/
def foundType : Except XFault Phys → Option Nat
  | .ok p => some p.mt
  | .error (.perm mt) => some mt
  | .error (.xlat _) => none

/-- The fault of a failed translation, for the access at va. -/
def XFault.exc (f : XFault) (a : AccKind) (slot va : Nat) (half2 : Bool) : Exc :=
  match f, a with
  | .xlat w, .fetch => { (Machine.exc cInsnXlat slot va) with walkerr := w }
  | .perm _, .fetch => Machine.exc cInsnPerm slot va
  | .xlat w, _ => { (Machine.exc cDataXlat slot va) with walkerr := w, store := a.writes, half2 := half2 }
  | .perm _, _ => { (Machine.exc cDataPerm slot va) with store := a.writes, half2 := half2 }

/-- Bits [63:48] of an address are copies of bit 47 (R332). -/
def canonical (va : Nat) : Bool := decide (va % 2 ^ 64 = toBits 64 (sext 48 va))

/-- Whether an address lies in the DRAM range. -/
def inDram (pa : Nat) : Bool := decide (pa < dramSize)

/-- The memory type in force at an address: outside DRAM, MT 0 acts as MT 1 (R342). -/
def typeAt (mt pa : Nat) : Nat := if mt = 0 && !inDram pa then 1 else mt

/-- Whether a leaf permits an access at a level (R335). -/
def leafPermits (perm lvl : Nat) (a : AccKind) : Bool :=
  let u := perm.testBit 5
  (match a with
   | .fetch => perm.testBit 4 && !(decide (lvl ≠ 0) && u)
   | .load => perm.testBit 2
   | .store => perm.testBit 3
   | .atomic => perm.testBit 3 && perm.testBit 2
   | .inval => perm.testBit 3
   | .icinv => perm.testBit 4) &&
  (decide (lvl ≠ 0) || u)

/-- Eight bytes of physical memory as the walker reads them, coherently through the L2 (R333). -/
def Dev.walkRead (s : Dev) (m pa : Nat) : Dev × Option Nat :=
  if inDram pa then
    let (s, r) := s.coreRead m (s.coreWorld m) (pa / 64)
    (s, r.map (fun v => bits v (8 * (pa % 64) + 63) (8 * (pa % 64))))
  else
    let rq := s.coreReq m
    s.busRead rq pa 8

/-- Page size of a leaf at a level (R333, R337). -/
def leafSize (level e : Nat) : Nat :=
  match level with
  | 1 => 2 ^ 30
  | 2 => 2 ^ 21
  | _ => if e.testBit 9 then 2 ^ 16 else 2 ^ 12

/-- Whether an entry at a level raises the translation fault (R333, Table 12.8). -/
def entryBad (level e : Nat) : Bool :=
  !e.testBit 0 || decide (bits e 52 40 ≠ 0) || decide (bits e 63 59 ≠ 0) ||
  (if e.testBit 1 then
     decide (level = 0) || decide (bits e 11 10 = 3) || (e.testBit 3 && !e.testBit 2) ||
     (e.testBit 9 && decide (level ≠ 3)) || decide ((bits e 39 12 * 4096) % leafSize level e ≠ 0)
   else decide (level = 3) || decide (bits e 11 2 ≠ 0))

/-- The walk from a table at a level: the leaf's level, value and address. -/
def Dev.walkFrom (s : Dev) (m va : Nat) : Nat → Nat → Nat → Dev × Except XFault (Nat × Nat × Nat)
  | 0, _, _ => (s, .error (.xlat false))
  | n + 1, level, table =>
    let a := table + 8 * (va / 2 ^ (39 - 9 * level) % 512)
    match s.walkRead m a with
    | (s, none) => (s, .error (.xlat true))
    | (s, some e) =>
      if entryBad level e then (s, .error (.xlat false))
      else if e.testBit 1 then (s, .ok (level, e, a))
      else s.walkFrom m va n (level + 1) (bits e 39 12 * 4096)

/-- Accessed and dirty bits set in a leaf by an atomic update (R336): the leaf as it then stands, or none after an error
response. -/
def Dev.setAD (s : Dev) (m leaf e : Nat) (dirty : Bool) : Dev × Option Nat :=
  let e' := setBit (if dirty then setBit e 8 true else e) 7 true
  if e' = e then (s, some e)
  else if inDram leaf then
    let i := leaf % 64
    let (s, ok) := s.coreWrite m (s.coreWorld m) (leaf / 64) (e' * 2 ^ (8 * i)) (255 * 2 ^ i)
    (s, if ok then some e' else none)
  else
    let rq := s.coreReq m
    let (s, ok) := s.busWrite rq leaf 8 e'
    (s, if ok then some e' else none)

/-- Whether a TLB entry serves an access (R336, R338). -/
def TlbEntry.serves (t : TlbEntry) (va asid : Nat) (a : AccKind) : Bool :=
  decide (t.vpage ≤ va) && decide (va < t.vpage + t.size) && (t.glob || decide (t.asid = asid)) &&
    (!a.dirties || t.perm.getLsbD 8)

/-- What a TLB entry makes of an address. -/
def TlbEntry.phys (t : TlbEntry) (va : Nat) : Phys :=
  let pa := t.ppage + (va - t.vpage)
  { pa := pa, mt := typeAt (bits t.perm.toNat 11 10) pa }

/-- Entries of one virtual address. -/
def TlbEntry.at (t : TlbEntry) (va : Nat) : Bool := decide (t.vpage ≤ va) && decide (va < t.vpage + t.size)

/-- Set of an entry in the L2 TLB of 128 sets (R338; by page number, log 58). -/
def TlbEntry.set (t : TlbEntry) : Nat := t.vpage / t.size % 128

/-- An entry put in front of a list; where the entries that `p` selects fill its ways, one of them, which is free, gives
way. -/
def Dev.tlbIns (s : Dev) (l : List TlbEntry) (ways : Nat) (p : TlbEntry → Bool) (t : TlbEntry) : Dev × List TlbEntry :=
  let mates := l.filter p
  if mates.length < ways then (s, t :: l)
  else
    let v := mates[Config.victim s.freeCtr % max 1 mates.length]?
    (s.draw, t :: l.filter (fun x => decide (some x ≠ v)))

/-- An entry put into the L1 TLB of 48 entries that fetches (`ins`) or data accesses use (R338). -/
def Dev.tlbL1 (s : Dev) (m : Nat) (ins : Bool) (t : TlbEntry) : Dev :=
  let c := s.core m
  let (s, l) := s.tlbIns (if ins then c.itlb else c.dtlb) 48 (fun _ => true) t
  s.onCore m (fun c => if ins then { c with itlb := l } else { c with dtlb := l })

/-- The entries that `p` selects leave the TLBs. -/
def ACore.tlbOut (c : ACore) (p : TlbEntry → Bool) : ACore :=
  { c with tlb := c.tlb.filter (fun t => !p t), itlb := c.itlb.filter (fun t => !p t), dtlb := c.dtlb.filter (fun t => !p t) }

/-- A new entry put into the L2 TLB of 1,024 entries, 8-way, and an L1 TLB, in place of those of its page. -/
def Dev.tlbPut (s : Dev) (m va : Nat) (ins : Bool) (t : TlbEntry) : Dev :=
  let s := s.onCore m (fun c => c.tlbOut (fun x => x.at va && (x.glob || decide (x.asid = t.asid))))
  let (s, l) := s.tlbIns (s.core m).tlb 8 (fun x => decide (x.set = t.set)) t
  (s.onCore m (fun c => { c with tlb := l })).tlbL1 m ins t

/-- A walk for an access (R333 to R337): the new entry goes into the TLBs. -/
def Dev.walk (s : Dev) (m va lvl : Nat) (a : AccKind) : Dev × Except XFault Phys :=
  let s := s.cPmu m 0x13 1
  match s.walkFrom m va 4 0 (s.srf m 0x70 39 12 * 4096) with
  | (s, .error f) => (s, .error f)
  | (s, .ok (level, e, leaf)) =>
    if !leafPermits (bits e 11 0) lvl a then
      match s.setAD m leaf e false with
      | (s, some e) => (s, .error (.perm (typeAt (bits e 11 10) (bits e 39 12 * 4096))))
      | (s, none) => (s, .error (.xlat true))
    else match s.setAD m leaf e a.dirties with
      | (s, none) => (s, .error (.xlat true))
      | (s, some e) =>
        let size := leafSize level e
        let asid := s.srf m 0x70 51 40
        let t : TlbEntry :=
          { vpage := va - va % size, size := size, asid := asid, glob := e.testBit 6, ppage := bits e 39 12 * 4096,
            perm := BitVec.ofNat 12 e, leafAddr := leaf }
        (s.tlbPut m va (decide (a = .fetch)) t, .ok (t.phys va))

/-- What an entry gives an access at a level (R335). -/
def TlbEntry.answer (t : TlbEntry) (va lvl : Nat) (a : AccKind) : Except XFault Phys :=
  if leafPermits t.perm.toNat lvl a then .ok (t.phys va) else .error (.perm (t.phys va).mt)

/-- The L1 TLB entry that serves an access, and the L2 TLB's (R338). -/
def ACore.tlbHit1 (c : ACore) (va asid : Nat) (a : AccKind) : Option TlbEntry :=
  (if a = .fetch then c.itlb else c.dtlb).find? (fun t => t.serves va asid a)
def ACore.tlbHit2 (c : ACore) (va asid : Nat) (a : AccKind) : Option TlbEntry := c.tlb.find? (fun t => t.serves va asid a)

/-- A virtual address translated for an access at a level (R332), by the L1 TLB, the L2 TLB or a walk (R338). -/
def Dev.translate (s : Dev) (m va lvl : Nat) (a : AccKind) : Dev × Except XFault Phys :=
  if s.stTE m then
    if !canonical va then (s, .error (.xlat false))
    else
      let v := va % 2 ^ 48
      let asid := s.srf m 0x70 51 40
      match (s.core m).tlbHit1 v asid a with
      | some t => (s, t.answer v lvl a)
      | none =>
        let hit := (s.core m).tlbHit2 v asid a
        let s := (s.cPmu m (if a = .fetch then 0x11 else 0x12) 1).onCore m (fun c => { c with tlbMiss := c.tlbMiss + 1 })
        match hit with
        | some t => (s.tlbL1 m (decide (a = .fetch)) t, t.answer v lvl a)
        | none => s.walk m v lvl a
  else if lvl = 0 then (s, .error (.perm (if inDram va then 0 else 2)))
  else if 2 ^ 40 ≤ va then (s, .error (.xlat false))
  else (s, .ok { pa := va, mt := if inDram va then 0 else 2 })

/-! ## Fetch -/

/-- A line of the L1 instruction cache, filled from the L2 when it is not held (R360, R361). -/
def Dev.fetchLine (s : Dev) (m l : Nat) : Dev × Option Nat :=
  match SMap.get (fun _ => none) (s.core m).l1i l with
  | some v => (s, some v.toNat)
  | none =>
    let s := s.cPmu m 0x0E 1
    match s.coreRead m (s.coreWorld m) l with
    | (s, none) => (s, none)
    | (s, some v) => (if m = 8 then s else s.l1iPut m l (BitVec.ofNat 512 v), some v)

/-- The 16 bytes of a bundle at a physical address. -/
def Dev.fetchPhys (s : Dev) (m : Nat) (p : Phys) : Dev × Option (BitVec 128) :=
  if inDram p.pa then
    if p.mt = 0 then
      let (s, r) := s.fetchLine m (p.pa / 64)
      (s, r.map (fun v => BitVec.ofNat 128 (v / 2 ^ (8 * (p.pa % 64)))))
    else
      let (s, r) := s.homeRead m (s.coreWorld m) (p.pa / 64)
      (s, r.map (fun v => BitVec.ofNat 128 (v / 2 ^ (8 * (p.pa % 64)))))
  else
    let rq := s.coreReq m
    match s.busRead rq p.pa 8 with
    | (s, none) => (s, none)
    | (s, some lo) =>
      match s.busRead rq (p.pa + 8) 8 with
      | (s, none) => (s, none)
      | (s, some hi) => (s, some (BitVec.ofNat 128 (lo + hi * 2 ^ 64)))

/-- The bundle at virtual address pc, or the fault of its fetch. -/
def Dev.fetchBundle (s : Dev) (m pc : Nat) : Dev × Except Exc (BitVec 128) :=
  match s.translate m pc (s.lvl m) .fetch with
  | (s, .error f) => (s, .error (f.exc .fetch 0 pc false))
  | (s, .ok p) =>
    match s.fetchPhys m p with
    | (s, none) => (s, .error (exc cInsnErr 0 pc))
    | (s, some b) => (s, .ok b)

/-- The bundle in the fetch queue that issues at pc: it was fetched before a store and keeps its old contents (R305). -/
def ACore.queued (c : ACore) (pc : Nat) : Option (BitVec 128) :=
  if c.fqN = 0 then none else (c.fq.find? (fun x => decide (x.1 = pc))).map (fun x => x.2)

/-- The bundle that issues at pc, from the queue or fetched; an L1 TLB miss costs its cycles (Table 11.11). -/
def Dev.fetchNext (s : Dev) (m pc : Nat) : Dev × Except Exc (BitVec 128) :=
  match (s.core m).queued pc with
  | some w => (s, .ok w)
  | none =>
    let (s, r) := (s.onCore m (fun c => { c with tlbMiss := 0 })).fetchBundle m pc
    (s.coreTick m (6 * (s.core m).tlbMiss), r)

/-- The bundles at some addresses taken into the queue, n of which the next bundles are; those there already keep what they
hold (R305). -/
def Dev.prefetchAt (s : Dev) (m n : Nat) (as : List Nat) : Dev :=
  let c := s.core m
  let (s, l) := as.foldl (fun (p : Dev × List (Nat × BitVec 128)) a =>
    match c.queued a with
    | some w => (p.1, (a, w) :: p.2)
    | none =>
      match p.1.fetchBundle m a with
      | (s, .ok b) => (s, (a, b) :: p.2)
      | (_, .error _) => p) (s, [])
  s.onCore m (fun c => { c with fq := l, fqN := n })

end Sys2Proof.Machine
end

