-- ==== Sys2Proof/Machine/CoreUnits.lean ====
section
/-!
DEFINITION. Sys2Proof/Machine/CoreUnits.lean: the integer, multiply and divide, and binary64 units of the A-profile
(11 R275 to R278, Table 11.11).
-/

namespace Sys2Proof.Machine

/-! ## Latches, launches -/

/-- Whether processor m is powered and released. -/
def Dev.coreOn (s : Dev) (m : Nat) : Bool :=
  if m = 8 then s.domOn 1 && decide (s.fg F.SVP_STAT_RUN 0 = 1)
  else s.domOn (18 + m) && (s.core m).released && !(s.core m).dead

/-- Whether processor m can issue bundles. -/
def Dev.coreLive (s : Dev) (m : Nat) : Bool :=
  let c := s.core m
  s.coreOn m && !c.lockup && !c.asleep && !c.stopped

/-- A latch of processor m by destination code. -/
def Dev.lat (s : Dev) (m code : Nat) : Nat := (SMap.get (fun _ => 0) (s.core m).latch code).toNat

/-- A latch written. -/
def Dev.setLat (s : Dev) (m code v : Nat) : Dev :=
  s.onCore m (fun c => { c with latch := SMap.set (fun _ => 0) c.latch code (BitVec.ofNat 64 v) })

/-- A result port of processor m by source code. -/
def Dev.resPort (s : Dev) (m code : Nat) : Nat := (SMap.get (fun _ => 0) (s.core m).res code).toNat

/-- A result port set. -/
def Dev.setPort (s : Dev) (m code v : Nat) : Dev :=
  s.onCore m (fun c => { c with res := SMap.set (fun _ => 0) c.res code (BitVec.ofNat 64 v) })

/-- Core cycle from which unit u accepts a trigger (R173). -/
def Dev.aFree (s : Dev) (m u : Nat) : Nat := SMap.get (fun _ => 0) (s.core m).busy u

/-- Unit u accepts its next trigger n cycles on. -/
def Dev.aBusy (s : Dev) (m u n : Nat) : Dev :=
  s.onCore m (fun c => { c with busy := SMap.set (fun _ => 0) c.busy u (c.cyc + n) })

/-- An operation of unit u started with its results known: readable `lat` cycles after the issue (R172). -/
def Dev.aLaunch (s : Dev) (m u : Nat) (outs : List (Nat × Nat)) (lat flags : Nat) : Dev :=
  s.onCore m (fun c =>
    { c with fly := c.fly ++ [{ unit := u, outs := outs, ready := c.cyc + lat, flags := flags, seqno := c.seqno }], seqno := c.seqno + 1 })

/-- A unit's operation by itself: on a processor that runs, while the unit accepts it. -/
def Dev.aUnitOp (s : Dev) (m u : Nat) (f : Dev → Dev) : Dev :=
  if s.coreLive m && decide ((s.core m).ra = none) then
    let s := s.coreClock m
    if s.aFree m u ≤ (s.core m).cyc then f s else s
  else s

/-! ## Integer units (R276, Table 11.2) -/

/-- The sign of a 64-bit pattern read as an integer. -/
def s64 (x : Nat) : Int := sext 64 x

/-- Bits [31:0], sign-extended to 64. -/
def sx32 (x : Nat) : Nat := toBits 64 (sext 32 x)

/-- Leading zeros of a 64-bit value. -/
def clz64 (x : Nat) : Nat := 64 - (if x % 2 ^ 64 = 0 then 0 else Nat.log2 (x % 2 ^ 64) + 1)

/-- Bytes of a 64-bit value reversed. -/
def bswap64 (x : Nat) : Nat := leNat (leBytes 8 x).reverse

/-- The width that T[1:0] of SXT and ZXT names. -/
def extWidth (t : Nat) : Nat :=
  match t % 4 with
  | 0 => 8 | 1 => 16 | 2 => 32 | _ => 64

/-- Operation op of an integer unit, in the order of Table 11.2, on O1 and T. -/
def aIalu (op a t : Nat) : Nat :=
  let r : Nat := match op with
    | 0 => a + t
    | 1 => a + (2 ^ 64 - t % 2 ^ 64)
    | 2 => Nat.land a t
    | 3 => Nat.lor a t
    | 4 => Nat.xor a t
    | 5 => a * 2 ^ (t % 64)
    | 6 => a / 2 ^ (t % 64)
    | 7 => toBits 64 (s64 a / (2 ^ (t % 64) : Nat))
    | 8 => if s64 a < s64 t then a else t
    | 9 => if s64 a < s64 t then t else a
    | 10 => min a t
    | 11 => max a t
    | 12 => b2n (decide (a = t))
    | 13 => b2n (decide (s64 a < s64 t))
    | 14 => b2n (decide (a < t))
    | 15 => sx32 (a + t)
    | 16 => sx32 (a + (2 ^ 64 - t % 2 ^ 64))
    | 17 => sx32 (a * 2 ^ (t % 32))
    | 18 => toBits 64 (sext (extWidth t) a)
    | 19 => a % 2 ^ extWidth t
    | 20 => clz64 a
    | 21 => popCount 64 a
    | _ => bswap64 a
  r % 2 ^ 64

/-- Integer unit u starts operation op (latency 1). -/
def Dev.aIaluStart (s : Dev) (m u op t : Nat) : Dev :=
  s.aLaunch m u [(0x40 + u, aIalu op (s.lat m (0x40 + 0x18 * u)) t)] 1 0

/-! ## Multiply and divide unit (R277, Table 11.3) -/

/-- MUL, MULH, MULHU, MULW of O1 and T. -/
def aMul (op a t : Nat) : Nat :=
  match op with
  | 0 => a * t % 2 ^ 64
  | 1 => toBits 64 (s64 a * s64 t / (2 ^ 64 : Nat))
  | 2 => a * t / 2 ^ 64 % 2 ^ 64
  | _ => sx32 (a * t)

/-- Quotient and remainder of DIV (0) and DIVU (1). -/
def aDiv (op a t : Nat) : Nat × Nat :=
  if t = 0 then (2 ^ 64 - 1, a)
  else if op = 0 then (toBits 64 ((s64 a).tdiv (s64 t)), toBits 64 ((s64 a).tmod (s64 t)))
  else (a / t, a % t)

/-- A multiply (latency 3). -/
def Dev.aMulStart (s : Dev) (m op t : Nat) : Dev := s.aLaunch m 2 [(0x42, aMul op (s.lat m 0x70) t)] 3 0

/-- A divide (latency 34, not pipelined). -/
def Dev.aDivStart (s : Dev) (m op t : Nat) : Dev :=
  let (q, r) := aDiv op (s.lat m 0x70) t
  (s.aLaunch m 2 [(0x42, q), (0x43, r)] 34 0).aBusy m 2 34

/-! ## Binary64 unit (R278, Table 11.4) -/

/-- A relation of two encodings as an integer; the ordered ones signal invalid on every NaN, EQ on a signalling one. -/
def aRel (op x y : Nat) : FRes :=
  let a := fDec f64 x
  let b := fDec f64 y
  let nan := a.isNaN || b.isNaN
  let v := match op with
    | 12 => fLtV a b
    | 13 => fLtV a b || fEqV a b
    | _ => fEqV a b
  ⟨b2n v, if (if op = 14 then a.sig || b.sig else nan) then flInvalid else 0⟩

/-- Operation op of the binary64 unit, in the order of Table 11.4, under rounding mode rm. -/
def aFpu (op rm x y z : Nat) : FRes :=
  match op with
  | 0 => fAdd f64 rm x y
  | 1 => fSub f64 rm x y
  | 2 => fMul f64 rm x y
  | 3 => fMadd f64 rm x y z
  | 4 => fMsub f64 rm x y z
  | 5 => fNmadd f64 rm x y z
  | 6 => fDiv f64 rm x y
  | 7 => fSqrt f64 rm x
  | 8 => fMinMax f64 false x y
  | 9 => fMinMax f64 true x y
  | 10 => fSignOp f64 false x
  | 11 => fSignOp f64 true x
  | 12 => aRel 12 x y
  | 13 => aRel 13 x y
  | 14 => aRel 14 x y
  | 15 => fOfInt f64 rm (s64 x)
  | 16 => let r := fToInt f64 rm 64 x; ⟨toBits 64 r.1, r.2⟩
  | 17 => fCvt f32 f64 rm (x % 2 ^ 32)
  | 18 => fCvt f64 f32 rm x
  | _ => ⟨fClass f64 x, 0⟩

/-- Latency of an operation of the binary64 unit (Table 11.4). -/
def aFpuLat (op : Nat) : Nat :=
  if op ≤ 5 then 4 else if op = 6 then 20 else if op = 7 then 26 else if op ≤ 14 then 2 else if op ≤ 18 then 3 else 2

/-- Operation op of the binary64 unit starts; divide and square root are not pipelined. -/
def Dev.aFpuStart (s : Dev) (m op : Nat) : Dev :=
  let r := aFpu op (s.srf m 3 1 0) (s.lat m 0x80) (s.lat m 0x81) (s.lat m 0x82)
  let s := s.aLaunch m 3 [(0x44, r.bits)] (aFpuLat op) r.flags
  if op = 6 ∨ op = 7 then s.aBusy m 3 (aFpuLat op) else s

/-! ## The commands -/

/-- A_IALU_OP: operation op of integer unit u with trigger value t (R276). -/
def execAIaluOp (m u op : Nat) (t : DWord) (s : State) : Host.Outcome State Fault Refusal :=
  run (wellFormed (.aIaluOp m u op t)) (fun s => s.aUnitOp m u (fun s => s.aIaluStart m u op t.toNat)) s

/-- A_MDU_MUL: a multiply with trigger value t (R277). -/
def execAMduMul (m op : Nat) (t : DWord) (s : State) : Host.Outcome State Fault Refusal :=
  run (wellFormed (.aMduMul m op t)) (fun s => s.aUnitOp m 2 (fun s => s.aMulStart m op t.toNat)) s

/-- A_MDU_DIV: a divide with trigger value t (R277). -/
def execAMduDiv (m op : Nat) (t : DWord) (s : State) : Host.Outcome State Fault Refusal :=
  run (wellFormed (.aMduDiv m op t)) (fun s => s.aUnitOp m 2 (fun s => s.aDivStart m op t.toNat)) s

/-- A_FPU_OP: operation op of the binary64 unit (R278). -/
def execAFpuOp (m u op : Nat) (t : DWord) (s : State) : Host.Outcome State Fault Refusal :=
  run (wellFormed (.aFpuOp m u op t)) (fun s => s.aUnitOp m 3 (fun s => s.aFpuStart m op)) s

/-- A_FPU_DIV_SQRT: divide (0) or square root (1) (R278). -/
def execAFpuDivSqrt (m u op : Nat) (t : DWord) (s : State) : Host.Outcome State Fault Refusal :=
  run (wellFormed (.aFpuDivSqrt m u op t)) (fun s => s.aUnitOp m 3 (fun s => s.aFpuStart m (6 + op))) s

end Sys2Proof.Machine
end

