-- ==== Sys2Proof/Machine/CoreDebug.lean ====
section
/-!
DEFINITION. Sys2Proof/Machine/CoreDebug.lean: comparators, the debug monitor, HALTREQ and stepping of an application core
(17 R444 to R452).
-/

namespace Sys2Proof.Machine

/-- A 48-bit address in a _LO and a _HI register. -/
def Dev.dbgAddr (s : Dev) (lo hi : RName) (i : Nat) : Nat := s.rd64 lo hi i % 2 ^ 48

/-- The level bit that a comparator's LVL field has at a level: [0] U, [1] S. -/
def lvlBit (field lvl : Nat) : Bool := field.testBit (if lvl = 0 then 0 else 1)

/-- The context match (R447). -/
def Dev.ctxMatch (s : Dev) (m : Nat) : Bool :=
  decide ((s.core m).world = s.fg F.DBG_CM_WORLD m) &&
    (decide (s.fg F.DBG_CM_ASIDEN m = 0) || decide (s.srf m 0x70 51 40 = s.fg F.DBG_CM_ASID m))

/-- IACi without its link: the bundle at pc lies in its range at an enabled level (R445, R447). -/
def Dev.iacBare (s : Dev) (m pc i : Nat) : Bool :=
  let k := 8 * m + i
  let a := pc % 2 ^ 48
  decide (s.fg F.DBG_IAC_CTL_EN k = 1) && s.unlockReach (s.core m).world &&
    decide (s.dbgAddr .DBG_IAC_ALO_LO .DBG_IAC_ALO_HI k ≤ a) && decide (a < s.dbgAddr .DBG_IAC_AHI_LO .DBG_IAC_AHI_HI k) &&
    lvlBit (s.fg F.DBG_IAC_CTL_LVL k) (s.lvl m) && (decide (s.fg F.DBG_IAC_CTL_USECM k = 0) || s.ctxMatch m)

/-- An access that a bundle makes, as a watchpoint sees it: address, bytes, whether it reads and writes, its value where it
is known, and whether it goes to device memory. -/
structure WatchAcc where
  va    : Nat
  n     : Nat
  rd    : Bool
  wr    : Bool
  val   : Nat
  isDev : Bool
  deriving DecidableEq, Repr

/-- Whether the value comparator that DVSEL names agrees (R446). -/
def Dev.dvcMatch (s : Dev) (m sel : Nat) (a : WatchAcc) : Bool :=
  if sel = 0 ∨ sel = 3 then true
  else if a.isDev then false
  else
    let k := 2 * m + (sel - 1)
    let v := s.rd64 .DBG_DVC_VAL_LO .DBG_DVC_VAL_HI k
    let x := s.rd64 .DBG_DVC_MASK_LO .DBG_DVC_MASK_HI k
    decide (Nat.land (Nat.xor a.val v) x = 0)

/-- DWPj without its link (R446). -/
def Dev.dwpBare (s : Dev) (m j : Nat) (a : WatchAcc) : Bool :=
  let k := 4 * m + j
  let lo := s.dbgAddr .DBG_DWP_ALO_LO .DBG_DWP_ALO_HI k
  let hi := s.dbgAddr .DBG_DWP_AHI_LO .DBG_DWP_AHI_HI k
  let va := a.va % 2 ^ 48
  let ty := s.fg F.DBG_DWP_CTL_TYPE k
  decide (s.fg F.DBG_DWP_CTL_EN k = 1) && s.unlockReach (s.core m).world &&
    decide (lo < va + a.n) && decide (va < hi) && decide (lo < hi) &&
    lvlBit (s.fg F.DBG_DWP_CTL_LVL k) (s.lvl m) && ((a.rd && ty.testBit 0) || (a.wr && ty.testBit 1)) &&
    (decide (s.fg F.DBG_DWP_CTL_USECM k = 0) || s.ctxMatch m) && s.dvcMatch m (s.fg F.DBG_DWP_CTL_DVSEL k) a

/-- Resource l of R447 in this bundle: 1 to 8 IAC0 to IAC7, 9 to 12 DWP0 to DWP3. -/
def Dev.resource (s : Dev) (m pc l : Nat) (a : Option WatchAcc) : Bool :=
  if 1 ≤ l ∧ l ≤ 8 then s.iacBare m pc (l - 1)
  else if 9 ≤ l ∧ l ≤ 12 then
    (match a with
     | some a => s.dwpBare m (l - 9) a
     | none => false)
  else true

/-- Whether events may fire on core m now (R444, R450). -/
def Dev.dbgMay (s : Dev) (m : Nat) : Bool :=
  decide (m < 8) && s.unlockReach (s.core m).world && !s.stEXL m && !s.stQB m && !s.stDFL m && decide (s.fg F.DBG_CSTAT_MON m = 0)

/-- The IAC that fires before the bundle at pc (R445): an IAC is linked only to an IAC. -/
def Dev.iacFires (s : Dev) (m pc : Nat) : Option Nat :=
  if s.dbgMay m && decide (s.fg F.DBG_CSTAT_SKIP m = 0) then
    (List.range 8).find? (fun i =>
      let l := s.fg F.DBG_IAC_CTL_LINK (8 * m + i)
      decide (s.fg F.DBG_IAC_CTL_ROLE (8 * m + i) = 0) && s.iacBare m pc i &&
        (if 9 ≤ l ∧ l ≤ 12 then false else s.resource m pc l none))
  else none

/-- The DWP that fires on an access of the bundle at pc (R446). -/
def Dev.dwpFires (s : Dev) (m pc : Nat) (a : WatchAcc) : Option Nat :=
  if s.dbgMay m && decide (s.fg F.DBG_CSTAT_SKIP m = 0) then
    (List.range 4).find? (fun j =>
      decide (s.fg F.DBG_DWP_CTL_ROLE (4 * m + j) = 0) && s.dwpBare m j a &&
        s.resource m pc (s.fg F.DBG_DWP_CTL_LINK (4 * m + j)) (some a))
  else none

/-- The fault of a watchpoint, if one fires. -/
def Dev.watch (s : Dev) (m pc slot : Nat) (a : WatchAcc) : Option Exc :=
  (s.dwpFires m pc a).map (fun j => { (exc cDebug slot a.va) with which := j, store := a.wr })

/-- Why a DEBUG event fires before the bundle at pc: REASON and WHICH (Table 17.9): HALTREQ, a step, an IAC. -/
def Dev.dbgBoundary (s : Dev) (m pc : Nat) : Option (Nat × Nat) :=
  if s.dbgMay m then
    if s.fg F.DBG_CSTAT_HALTREQ m = 1 then some (1, 0)
    else if (s.core m).stepBundle then some (2, 0)
    else (s.iacFires m pc).map (fun i => (3, i))
  else none

/-- SKIP as a bundle passes under it: with STEP, the step fires before the next bundle (R450, R451). -/
def Dev.dbgPass (s : Dev) (m : Nat) : Dev :=
  if m < 8 ∧ s.fg F.DBG_CSTAT_SKIP m = 1 then
    let st := decide (s.fg F.DBG_CCTL_STEP m = 1)
    (s.fs F.DBG_CSTAT_SKIP m 0).onCore m (fun c => { c with stepBundle := st })
  else s

/-- Whether interrupts are held for a stepped bundle (R451). -/
def Dev.stepHolds (s : Dev) (m : Nat) : Bool :=
  decide (m < 8) && decide (s.fg F.DBG_CCTL_STEP m = 1) && decide (s.fg F.DBG_CCTL_STEPIRQ m = 0) &&
    (decide (s.fg F.DBG_CSTAT_SKIP m = 1) || (s.core m).stepBundle)

end Sys2Proof.Machine
end

