-- ==== Sys2Proof/Machine/CoreMem.lean ====
section
/-!
DEFINITION. Sys2Proof/Machine/CoreMem.lean: the load/store unit of the A-profile: loads, the store buffer, the combining
buffer, reservations, atomics, multi-register transfers, barriers and line maintenance (11 R279 to R287, 13 R341 to R362,
07 R189, R190).
-/

namespace Sys2Proof.Machine

/-! ## Address of an access -/

/-- The bytes of an access in physical memory, and its memory type. -/
structure Place where
  pas : List Nat
  mt  : Nat
  deriving DecidableEq, Repr

/-- Whether an application core at level U touches the PMU block where R459 does not permit it: reads of its own CNT and
OVF registers with UEN = 1 apart, every access is refused. -/
def Dev.pmuRefused (s : Dev) (m pa : Nat) (a : AccKind) : Bool :=
  let base := devAddr 28 0
  if decide (m < 8) && decide (s.lvl m = 0) && decide (base ≤ pa) && decide (pa < base + 0x10000) then
    let off := pa - base
    let r := off % 0x100
    !(decide (a = .load) && decide (s.fg F.PMU_CTL_UEN m = 1) && decide (off / 0x100 = m) &&
      ((decide (0x40 ≤ r) && decide (r < 0x80)) || decide (r / 4 = 1)))
  else false

/-- The faults that the translations of an access' halves give (R316): r2 is the second half's, at v2, where there is one. -/
def halfFaults (a : AccKind) (slot v v2 : Nat) (split : Bool) (r1 r2 : Except XFault Phys) : List Exc :=
  (match r1 with
   | .error f => [f.exc a slot v false]
   | .ok _ => []) ++
  (match split, r2 with
   | true, .error f => [f.exc a slot (if v2 / 4096 = v / 4096 then v else v2) true]
   | _, _ => [])

/-- The place of an access of n bytes at va (R189, R190, R279): both halves of a line-crossing access are translated before
anything happens.  `strict`: an aligned access in normal memory (R280).  Of several faults the first by Table 12.6 is given. -/
def Dev.placeOf (s : Dev) (m slot va n : Nat) (a : AccKind) (strict : Bool) : Dev × Except Exc Place :=
  let v := va % 2 ^ 64
  let fault := fun (code : Nat) => { (exc code slot v) with store := a.writes }
  if strict && decide (v % n ≠ 0) then (s, .error (fault cAlign))
  else
    let k := min n (64 - v % 64)
    let split := decide (k < n)
    let v2 := (v + k) % 2 ^ 64
    let lvl := s.lvl m
    let (s, r1) := s.translate m v lvl a
    let (s, r2) := if split then s.translate m v2 lvl a else (s, r1)
    let dev := decide (foundType r1 = some 2) || decide (foundType r2 = some 2)
    let refused := match r1 with
      | .ok p => s.pmuRefused m p.pa a
      | .error _ => false
    let faults := (if dev && decide (v % n ≠ 0) then [fault cAlign] else []) ++ (if strict && dev then [fault cAccType] else []) ++
      halfFaults a slot v v2 split r1 r2 ++ (if refused then [fault cDataPerm] else [])
    match Exc.first faults, r1, r2 with
    | some x, _, _ => (s, .error x)
    | none, .ok p, .ok q =>
      let pas := (List.range k).map (fun i => p.pa + i) ++ (if split then (List.range (n - k)).map (fun i => q.pa + i) else [])
      (s.cond split (fun s => s.cPmu m 0x17 1), .ok { pas := pas, mt := max p.mt q.mt })
    | none, _, _ => (s, .error (fault cDataXlat))

/-- The place of an ordinary load or store. -/
def Dev.place (s : Dev) (m slot va n : Nat) (a : AccKind) : Dev × Except Exc Place := s.placeOf m slot va n a false

/-- The place of an 8-byte access that must be aligned and in normal memory (R280). -/
def Dev.place8 (s : Dev) (m slot va : Nat) (a : AccKind) : Dev × Except Exc Place := s.placeOf m slot va 8 a true

/-- The lines of a place. -/
def Place.lines (p : Place) : List Nat := (p.pas.map (fun a => a / 64)).eraseDups

/-! ## Register access of the core -/

/-- The bank that a W or Q code names: Q while the quick bank is swapped in (R297). -/
def Dev.regRead (s : Dev) (m code : Nat) : Nat :=
  let c := s.core m
  if code < 16 then
    if s.stQB m then (SMap.get (fun _ => 0) c.q code).toNat
    else match c.frames with
      | f :: _ => (SMap.get (fun _ => 0) f.w code).toNat
      | [] => 0
  else if code < 32 then (SMap.get (fun _ => 0) c.x (code - 16)).toNat
  else (SMap.get (fun _ => 0) c.q (code - 32)).toNat

/-- A register written. -/
def Dev.regWrite (s : Dev) (m code v : Nat) : Dev :=
  let b : BitVec 64 := BitVec.ofNat 64 v
  let qb := s.stQB m
  s.onCore m (fun c =>
    if code < 16 then
      if qb then { c with q := SMap.set (fun _ => 0) c.q code b }
      else match c.frames with
        | f :: t => { c with frames := { f with w := SMap.set (fun _ => 0) f.w code b } :: t }
        | [] => c
    else if code < 32 then { c with x := SMap.set (fun _ => 0) c.x (code - 16) b }
    else { c with q := SMap.set (fun _ => 0) c.q (code - 32) b })

/-! ## Performing loads (R344 to R347) -/

/-- The byte at a physical address in the newest buffered store that covers it: entries of a line that the combining buffer
holds are older than it (R355). -/
def ACore.buffered (c : ACore) (pa : Nat) : Option Byte :=
  match c.cb.find? (fun l => decide (l.line = pa / 64) && l.mask.contains (pa % 64)) with
  | some l => some (SMap.get (fun _ => 0) l.bytes (pa % 64))
  | none => c.sb.reverse.findSome? (fun e => (e.cells.find? (fun x => decide (x.1 = pa))).bind
      (fun x => if e.kind < 3 then some x.2 else none))

/-- The byte a load of core m takes at a physical address: its own buffered store, or the newest coherent copy. -/
def Dev.loadByte (s : Dev) (m pa : Nat) : Byte :=
  match (s.core m).buffered pa with
  | some b => b
  | none => BitVec.ofNat 8 (s.newest (pa / 64) / 2 ^ (8 * (pa % 64)))

/-- What a load operation (by destination code) makes of its bytes (R279). -/
def loadExtend (op v : Nat) : Nat :=
  match op with
  | 0xA3 => toBits 64 (sext 8 v)
  | 0xA4 => v % 2 ^ 8
  | 0xA5 => toBits 64 (sext 16 v)
  | 0xA6 => v % 2 ^ 16
  | 0xA7 => toBits 64 (sext 32 v)
  | 0xA8 => v % 2 ^ 32
  | _ => v % 2 ^ 64

/-- Whether an operation in flight is a load whose value is not fixed yet. -/
def InFlight.waits (f : InFlight) : Bool := decide (4 ≤ f.kind) && decide (f.want ≠ [])

/-- The parts of a load that lie in some lines are read; with the last part its value is fixed.  The parts of a line-crossing
load are accesses of their own (R343). -/
def Dev.fixLoad (s : Dev) (m : Nat) (ls : List Nat) (f : InFlight) : InFlight :=
  if f.waits then
    let want := f.want.map (fun w =>
      if decide (w.1 = 0) && ls.contains (w.2.1 / 64) then (1, w.2.1, (s.loadByte m w.2.1).toNat) else w)
    if want.all (fun w => decide (w.1 = 1)) then
      { f with want := [], outs := [(0x45, loadExtend f.op (leNat (want.map (fun w => BitVec.ofNat 8 w.2.2))))] }
    else { f with want := want }
  else f

/-- What the loads in flight have to read of some lines is read, for the earlier loads first (R346). -/
def Dev.fixLoads (s : Dev) (m : Nat) (ls : List Nat) : Dev :=
  let fly := (s.core m).fly.map (fun f => s.fixLoad m ls f)
  s.onCore m (fun c => { c with fly := fly })

/-- Load number i in flight performed, after what earlier loads read of its lines (R346). -/
def Dev.performLoad (s : Dev) (m i : Nat) : Dev :=
  let fly := (s.core m).fly
  match fly[i]? with
  | none => s
  | some f =>
    let ls := f.lines
    let fly := ((List.range fly.length).zip fly).map (fun x => if x.1 ≤ i then s.fixLoad m ls x.2 else x.2)
    s.onCore m (fun c => { c with fly := fly })

/-! ## Lines for a processor (R352, R360, R365) -/

/-- How far a load of a line reaches: 0 L1, 1 L2, 2 beyond, 3 DRAM (Table 11.11, R300). -/
def Dev.loadReach (s : Dev) (m w l : Nat) : Nat :=
  if m = 8 then 2
  else if (s.core m).fly.any (fun f => decide (5 ≤ f.kind) && f.lines.contains l) then 3
  else if s.l2Hit m w l false then (if (s.core m).l1 l = 0 then 1 else 0)
  else if (s.sysLine l).held || decide ((s.l2line (1 - clusterOf m) l).st = 3) then 2
  else 3

/-- A copy of a line won for a core, shared or exclusive: its L1 takes the line and holds it, if it has not had it so. -/
def Dev.winLine (s : Dev) (m w l : Nat) (excl : Bool) : Dev × Bool :=
  let had := decide ((s.core m).l1 l ≠ 0) && s.l2Hit m w l excl && (s.sibs m l excl).isEmpty
  match s.l2Get m w l excl with
  | (s, false) => (s, false)
  | (s, true) => ((s.l1Put m l 1).cond (!had) (fun s => s.win l m), true)

/-- Whether a line can be fetched without an error response. -/
def Dev.fetchable (s : Dev) (m pa : Nat) : Bool :=
  inDram pa && s.domOn (29 + s.dramChan pa) && s.admits (s.coreWorld m) pa && !s.poisoned (pa / 64)

/-- Whether a hardware prefetcher of core m may bring a line now (R299). -/
def Dev.prefetches (s : Dev) (m l : Nat) : Bool :=
  decide (m < 8) && !s.det m && decide ((s.core m).ra = none) && s.fetchable m (64 * l) && !s.lineWaits m (s.coreWorld m) l false

/-- The L2 next-line prefetcher: after a miss of the L2 it brings the next line of the page (R299, log 82). -/
def Dev.nextLine (s : Dev) (m l : Nat) : Dev :=
  if l % 64 ≠ 63 ∧ s.prefetches m (l + 1) ∧ (s.l2line (clusterOf m) (l + 1)).st = 0 then
    ((s.l2Fill (clusterOf m) (s.coreWorld m) (l + 1) false).1).cPmu m 0x24 1
  else s

/-- The L1 stride prefetcher: after a load at pa it brings a line of the page, which one is free, or none (R299, log 82). -/
def Dev.strideLine (s : Dev) (m pa : Nat) : Dev :=
  if decide (m < 8) && !s.det m && decide ((s.core m).ra = none) then
    let k := Config.strideLine s.freeCtr pa % 65
    let s := s.draw
    let l := pa / 4096 * 64 + k
    if k < 64 ∧ (s.core m).l1 l = 0 ∧ s.prefetches m l then (s.winLine m (s.coreWorld m) l false).1.cPmu m 0x24 1 else s
  else s

/-- A copy of a line brought to a processor by an access of its own, shared or exclusive; false on an error response. -/
def Dev.bringLine (s : Dev) (m l : Nat) (excl : Bool) : Dev × Bool :=
  let w := s.coreWorld m
  let reach := s.loadReach m w l
  let s := (s.cond (decide (1 ≤ reach)) (fun s => s.cPmu m 0x0F 1)).cond (decide (2 ≤ reach)) (fun s => s.cPmu m 0x10 1)
  if m = 8 then
    let (s, r) := s.homeRead 8 w l
    (s, r.isSome)
  else
    let (s, ok) := s.winLine m w l excl
    (s.cond (ok && decide (2 ≤ reach)) (fun s => s.nextLine m l), ok)

/-- Every line of a place brought; the position of the first that drew an error response. -/
def Dev.bringLines (s : Dev) (m : Nat) (ls : List Nat) (excl : Bool) : Dev × Option Nat :=
  ((List.range ls.length).zip ls).foldl (fun (p : Dev × Option Nat) x =>
    match p.2 with
    | some _ => p
    | none => (let (s, ok) := p.1.bringLine m x.2 excl; (s, if ok then none else some x.1))) (s, none)

/-! ## Completion (R172, R275, R278) -/

/-- 48 cycles of a processor's clock, in fabric clocks (R367). -/
def Dev.cycles48 (s : Dev) (m : Nat) : Nat := (48 * s.cycLen m + 23) / 24

/-- The Y of an LDX is readable: a line from beyond the L2 is won only now, and the line's hold lasts 48 cycles more (R367). -/
def Dev.ldxLands (s : Dev) (m : Nat) (f : InFlight) : Dev :=
  let l := nth (f.want.map (fun w => w.2.1 / 64)) 0
  if f.op = 0xAF ∧ (s.core m).resv = some l ∧ f.want ≠ [] then
    let (s, ok) := if m < 8 ∧ 5 ≤ f.kind then s.winLine m f.world l true else (s, true)
    if ok then s.holdTo l m (s.clk + s.cycles48 m) else s.onCore m (fun c => { c with resv := none })
  else s

/-- Operation number i of core m completes: its result shows, unless a later operation of the unit has completed before;
an earlier one of the unit is superseded; FPCTL takes its flags.  A slot of an LDM writes its register. -/
def Dev.completeOp (s : Dev) (m i : Nat) : Dev :=
  let s := match (s.core m).fly[i]? with
    | some f => s.ldxLands m f
    | none => s
  let s := s.performLoad m i
  match (s.core m).fly[i]? with
  | none => s
  | some f =>
    let s : Dev := match f.reg with
      | some r => f.outs.foldl (fun s o => s.regWrite m r o.2) s
      | none => f.outs.foldl (fun s o => s.setPort m o.1 o.2) s
    let s := if f.flags = 0 then s else s.setSr m 3 (Nat.lor (s.sr m 3) (f.flags * 4))
    s.onCore m (fun c =>
      { c with fly := (((List.range c.fly.length).zip c.fly).filter (fun x => decide (x.1 ≠ i))).map (fun x =>
          if x.1 < i ∧ x.2.unit = f.unit ∧ x.2.reg = none ∧ f.reg = none then { x.2 with outs := [], want := [] } else x.2) })

/-- The first operation whose time has come. -/
def ACore.due (c : ACore) : Option Nat :=
  (List.range c.fly.length).find? (fun i =>
    match c.fly[i]? with
    | some f => decide (f.kind < 5) && decide (f.ready ≤ c.cyc)
    | none => false)

/-- Every operation whose time has come completes. -/
def Dev.completeDue (s : Dev) (m : Nat) : Nat → Dev
  | 0 => s
  | n + 1 =>
    match (s.core m).due with
    | none => s
    | some i => (s.completeOp m i).completeDue m n

/-- Slots of an LDM or STM that have still to start. -/
def ACore.slotsLeft (c : ACore) (stm : Bool) : Bool :=
  match c.multi with
  | some x => decide (x.stm = stm) && !x.slots.isEmpty
  | none => false

/-- Some load of core m is in flight (FENCE.L, R282). -/
def ACore.loading (c : ACore) : Bool := c.fly.any (fun f => decide (f.unit = 4)) || c.slotsLeft false

/-- Some operation has not completed (R307). -/
def ACore.flying (c : ACore) : Bool := !c.fly.isEmpty || c.slotsLeft false || c.slotsLeft true

/-! ## Store buffer (R354, R472) -/

/-- The error log of a processor: the core's own, the SVP's block. -/
def coreLog (m : Nat) : Nat := if m = 8 then 0 else 32 + m

/-- A store that drew an error response, in the storing core's log (R472). -/
def Dev.storeErr (s : Dev) (m pa : Nat) : Dev :=
  s.errCap (coreLog m) { ty := 0x0C, addr := pa, port := corePort m, world := s.coreWorld m, resp := true }

/-- Data and mask that cells put into a line. -/
def cellsLine (cells : List (Nat × Byte)) : Nat × Nat :=
  cells.foldl (fun p x => (setBits p.1 (8 * (x.1 % 64) + 7) (8 * (x.1 % 64)) x.2.toNat, setBit p.2 (x.1 % 64) true)) (0, 0)

/-- A line maintenance operation at its home slice (Table 13.5): 3 DCCLN, 4 DCINV, 5 DCCI.  The core's own reservation stays
(R352). -/
def Dev.maintain (s : Dev) (m w kind l : Nat) : Dev :=
  let s := s.freeLine 11 l (decide (kind ≠ 3))
  match s.homeRefuse (corePort m) w (64 * l) with
  | some s => s.storeErr m (64 * l)
  | none =>
    match kind with
    | 3 => s.cleanLine l
    | 4 => s.discardLine l m
    | _ => (s.cleanLine l).discardLine l m

/-- Cells of one line written past the caches: in DRAM at the home slice, elsewhere as one access (R342). -/
def Dev.writeDirect (s : Dev) (m w : Nat) (cells : List (Nat × Byte)) : Dev × Bool :=
  let pa := match cells with
    | x :: _ => x.1
    | [] => 0
  if inDram pa then
    let (d, k) := cellsLine cells
    s.homeWrite m w (pa / 64) d k m
  else
    let rq := { s.coreReq m with world := w, user := false }
    s.busWrite rq pa cells.length (leNat (cells.map (fun x => x.2)))

/-- Cells of one line written under a store buffer entry's kind; a refused write is logged. -/
def Dev.performCells (s : Dev) (m : Nat) (e : SbEntry) (cells : List (Nat × Byte)) : Dev :=
  let pa := match cells with
    | x :: _ => x.1
    | [] => 0
  let (d, k) := cellsLine cells
  if e.kind = 0 then
    let (s, ok) := s.coreWrite m e.world (pa / 64) d k
    if ok then s else s.storeErr m pa
  else if 3 ≤ e.kind then s.maintain m e.world e.kind (pa / 64)
  else
    let (s, ok) := s.writeDirect m e.world cells
    if ok then s else s.storeErr m pa

/-- Whether entry i may be performed now: no older entry of a line it touches, device stores in order (R354). -/
def ACore.sbReady (c : ACore) (i : Nat) : Bool :=
  match c.sb[i]? with
  | none => false
  | some e =>
    let ls := e.cells.map (fun x => x.1 / 64)
    !(c.sb.take i).any (fun o => o.cells.any (fun x => ls.contains (x.1 / 64)) || (decide (o.kind = 2) && decide (e.kind = 2)))

/-- Entry i of the store buffer performed: the part that lies in its first line, then, at a later event, the rest (R189). -/
def Dev.performStore (s : Dev) (m i : Nat) : Dev :=
  match (s.core m).sb[i]? with
  | none => s
  | some e =>
    let l := match e.cells with
      | x :: _ => x.1 / 64
      | [] => 0
    let now := e.cells.filter (fun x => decide (x.1 / 64 = l))
    let rest := e.cells.filter (fun x => decide (x.1 / 64 ≠ l))
    let s := s.onCore m (fun c =>
      { c with sb := if rest = [] then dropAt c.sb i else replaceAt c.sb i { e with cells := rest, closed := true } })
    s.performCells m e now

/-- Which entries, oldest first, have to be performed for those that `p` selects: an older entry of a line goes first, and an
older device store before a device store (R346, R354).  The lines and the device stores found so far stand before. -/
def sbNeeded (p : SbEntry → Bool) : List SbEntry → (List Nat × Bool) × List Bool
  | [] => (([], false), [])
  | e :: t =>
    let ((ls, dev), fs) := sbNeeded p t
    let mine := e.cells.map (fun x => x.1 / 64)
    let isDev := decide (e.kind = 2)
    let b := p e || mine.any (fun l => ls.contains l) || (dev && isDev)
    ((if b then mine ++ ls else ls, dev || (b && isDev)), b :: fs)

/-- Every entry that `p` selects performed, with what comes before it, oldest first. -/
def Dev.performAll (s : Dev) (m : Nat) (p : SbEntry → Bool) : Nat → Dev
  | 0 => s
  | n + 1 =>
    match (sbNeeded p (s.core m).sb).2.findIdx? (fun b => b) with
    | none => s
    | some i => (s.performStore m i).performAll m p n

/-- Entries that touch a line performed. -/
def Dev.flushLine (s : Dev) (m l : Nat) : Dev :=
  s.performAll m (fun e => e.cells.any (fun x => decide (x.1 / 64 = l))) 48

/-- Device and non-cacheable stores performed, before an access that may depend on them (R345, R346). -/
def Dev.flushDevice (s : Dev) (m : Nat) : Dev := s.performAll m (fun e => decide (e.kind = 1) || decide (e.kind = 2)) 48

/-- No later store merges into an entry held now (R356). -/
def Dev.closeSb (s : Dev) (m : Nat) : Dev :=
  s.onCore m (fun c => { c with sb := c.sb.map (fun e => { e with closed := true }) })

/-! ## Combining buffer (R355) -/

/-- The bytes of a combining buffer line with their addresses. -/
def CbLine.cells (x : CbLine) : List (Nat × Byte) := x.mask.map (fun o => (64 * x.line + o, SMap.get (fun _ => (0 : Byte)) x.bytes o))

/-- A line of the combining buffer written out: whole, or masked; older stores to the line go first.  Outside DRAM each
8-byte piece is an access of its own. -/
def Dev.writeOutCb (s : Dev) (m : Nat) (x : CbLine) : Dev :=
  let s := s.onCore m (fun c => { c with cb := c.cb.filter (fun y => decide (y.line ≠ x.line)) })
  let s := s.flushLine m x.line
  let parts := if inDram (64 * x.line) then [x.cells]
    else ((List.range 8).map (fun i => x.cells.filter (fun y => decide (y.1 % 64 / 8 = i)))).filter (fun c => !c.isEmpty)
  let s := parts.foldl (fun s c =>
    let (s, ok) := s.writeDirect m x.world c
    if ok then s else s.storeErr m (64 * x.line)) s
  (s.onCore m (fun c => c.loseResv x.line)).cPmu m 0x1A 1

/-- Every line of the combining buffer written out, oldest first. -/
def Dev.flushCb (s : Dev) (m : Nat) : Dev := (s.core m).cb.foldl (fun s x => s.writeOutCb m x) s

/-- A line that the combining buffer holds is written out before another kind of store or a reservation (R355). -/
def Dev.evictCb (s : Dev) (m l : Nat) : Dev :=
  match (s.core m).cb.find? (fun x => decide (x.line = l)) with
  | some x => s.writeOutCb m x
  | none => s

/-! ## Merge mode (R356, R357) -/

/-- Whether core m is in merge mode: BOOT, HOLDUP, and TEST under CFG.SBMERGE. -/
def Dev.mergeNow (s : Dev) (m : Nat) : Bool :=
  decide (m < 8) && (decide (s.mode = 1) || decide (s.mode = 5) || (decide (s.mode = 4) && (s.sr m 1).testBit 3))

/-- A store waits: its merge setting differs from that of the entries held (R357). -/
def Dev.mergeWait (s : Dev) (m : Nat) : Bool :=
  let c := s.core m
  decide (s.mergeNow m ≠ c.mergeMode) && !(c.sb.isEmpty && c.cb.isEmpty)

/-- The index of the youngest entry of a line into which a store merges (R356). -/
def ACore.mergeSlot (c : ACore) (l : Nat) : Option Nat :=
  ((List.range c.sb.length).reverse.find? (fun i =>
    match c.sb[i]? with
    | some e => e.cells.any (fun x => decide (x.1 / 64 = l))
    | none => false)).bind (fun i =>
    match c.sb[i]? with
    | some e => if !e.closed && decide (e.kind = 0) && e.cells.all (fun x => decide (x.1 / 64 = l)) then some i else none
    | none => none)

/-- Cells put over other cells, later ones winning. -/
def mergeCells (old new : List (Nat × Byte)) : List (Nat × Byte) :=
  old.filter (fun x => !new.any (fun y => decide (y.1 = x.1))) ++ new

/-- A store of cells enters the store buffer (R283, R354, R356). -/
def Dev.enterStore (s : Dev) (m kind : Nat) (cells : List (Nat × Byte)) : Dev :=
  let ls := (cells.map (fun x => x.1 / 64)).eraseDups
  let s := s.fixLoads m ls
  let s := ls.foldl (fun s l => s.evictCb m l) s
  let merge := s.mergeNow m
  let s := s.onCore m (fun c => { c with mergeMode := merge })
  let s := s.cond (decide (kind = 2)) (fun s => s.closeSb m)
  let w := s.coreWorld m
  let new : SbEntry := { cells := cells, kind := kind, world := w, closed := decide (kind ≠ 0) }
  match (if merge && decide (kind = 0) && decide (ls.length = 1) then (s.core m).mergeSlot (nth ls 0) else none) with
  | some i =>
    (s.onCore m (fun c => { c with sb := (c.sb.zip (List.range c.sb.length)).map (fun x =>
      if x.2 = i then { x.1 with cells := mergeCells x.1.cells cells } else x.1) })).cPmu m 0x1B 1
  | none => s.onCore m (fun c => { c with sb := c.sb ++ [new] })

/-- Store buffer kind of a memory type. -/
def sbKind (mt : Nat) : Nat := mt

/-- Cells of a value at physical addresses. -/
def cellsOf (pas : List Nat) (v : Nat) : List (Nat × Byte) := pas.zip (leBytes pas.length v)

/-! ## Loads -/

/-- What a load's check has found: its place, its value where it is read at once, and how far it reaches. -/
structure LoadPlan where
  place : Place
  val   : Option Nat
  reach : Nat
  deriving DecidableEq, Repr

/-- Bytes at physical addresses read without the caches: DRAM at the home slice, a window or device at once. -/
def Dev.readDirect (s : Dev) (m : Nat) (pas : List Nat) : Dev × Option Nat :=
  match pas with
  | [] => (s, some 0)
  | pa :: _ =>
    if inDram pa then
      let (s, ok) := (pas.map (fun a => a / 64)).eraseDups.foldl (fun (p : Dev × Bool) l =>
        if p.2 then (let (s, r) := p.1.homeRead m (p.1.coreWorld m) l; (s, r.isSome)) else p) (s, true)
      (s, if ok then some (leNat (pas.map (fun a => s.loadByte m a))) else none)
    else
      let rq := s.coreReq m
      s.busRead rq pa pas.length

/-- The fault of an access whose part number i drew an error response (R316, R317). -/
def dataErr (slot va i : Nat) (store : Bool) : Exc :=
  let v := va % 2 ^ 64
  let v2 := v / 64 * 64 + 64
  { (exc cDataErr slot (if i ≠ 0 ∧ v2 / 4096 ≠ v / 4096 then v2 else v)) with store := store, half2 := decide (i ≠ 0) }

/-- The check of a load of n bytes by operation op (R279, R281, R317): its faults, the error response among them. -/
def Dev.loadCheck (s : Dev) (m pc slot op va n : Nat) (strict : Bool) : Dev × Except Exc LoadPlan :=
  match s.placeOf m slot va n .load strict with
  | (s, .error x) => (s, .error x)
  | (s, .ok p) =>
    let isDev := decide (p.mt = 2)
    let acc := fun v => { va := va, n := n, rd := true, wr := false, val := v, isDev := isDev : WatchAcc }
    if p.mt = 0 then
      let s := s.cond (decide (op = 0xAF)) (fun s => s.evictCb m (nth p.lines 0))
      let reach := p.lines.foldl (fun r l => max r (s.loadReach m (s.coreWorld m) l)) 0
      match s.bringLines m p.lines (decide (op = 0xAF)) with
      | (s, some i) => (s, .error (dataErr slot va i false))
      | (s, none) =>
        let v := leNat (p.pas.map (fun a => s.loadByte m a))
        match s.watch m pc slot (acc v) with
        | some x => (s, .error x)
        | none => (s, .ok ⟨p, none, reach⟩)
    else
      let s := (s.flushDevice m).cond (decide (op = 0xAF)) (fun s => s.evictCb m (nth p.lines 0))
      match (if isDev then s.watch m pc slot (acc 0) else none) with
      | some x => (s, .error x)
      | none =>
        match s.readDirect m p.pas with
        | (s, none) => (s, .error (dataErr slot va 0 false))
        | (s, some v) =>
          match (if isDev then none else s.watch m pc slot (acc v)) with
          | some x => (s, .error x)
          | none => (s, .ok ⟨p, some v, 2⟩)

/-- Cycles from issue to result of a load within the caches (Table 11.11). -/
def loadLat (reach lines : Nat) : Nat := (if reach = 1 then 16 else 4) + (if 1 < lines then 1 else 0)

/-- Cycles that the L1 TLB misses of the access checked last add (Table 11.11). -/
def Dev.tlbCost (s : Dev) (m : Nat) : Nat := 6 * (s.core m).tlbMiss

/-- The kind of a load in flight by its reach: 4 within the caches, 5 beyond the L2, 6 in DRAM. -/
def loadKind (reach : Nat) : Nat := if reach ≤ 1 then 4 else if reach = 2 then 5 else 6

/-- The bytes that a load has still to read; of a line-crossing one a part may have been read at its issue, which one is
free (log 56). -/
def Dev.loadWant (s : Dev) (m : Nat) (p : Place) : Dev × List (Nat × Nat × Nat) :=
  let ls := p.lines
  let want := p.pas.map (fun a => (0, a, 0))
  if ls.length < 2 then (s, want)
  else
    let first := Config.splitFirst s.freeCtr
    let s := s.draw
    (s, want.map (fun w =>
      if first < 2 ∧ nth ls first = w.2.1 / 64 then (1, w.2.1, (s.loadByte m w.2.1).toNat) else w))

/-- A checked load starts: within the caches it completes in its time, beyond the L2 at its OPERATION_COMPLETE.  A device load
closes the entries of the store buffer (R356). -/
def Dev.loadGo (s : Dev) (m op : Nat) (p : LoadPlan) : Dev :=
  let n := p.place.lines.length
  let w := s.coreWorld m
  let s := s.cond (decide (p.place.mt = 2)) (fun s => s.closeSb m)
  let (s, outs, want) := match p.val with
    | some v => (s, [(0x45, loadExtend op v)], [])
    | none => (let (s, want) := s.loadWant m p.place; (s, [], want))
  let x := s.tlbCost m
  let s := s.onCore m (fun c =>
    { c with fly := c.fly ++ [{ unit := 4, outs := outs, ready := c.cyc + loadLat p.reach n + x, kind := loadKind p.reach, want := want,
                                op := op, world := w, seqno := c.seqno }], seqno := c.seqno + 1, raOver := false })
  let s := s.aBusy m 4 ((if 1 < n then 2 else 1) + x)
  s.cond (decide (p.place.mt = 0) && decide (op ≠ 0xAF)) (fun s => s.strideLine m (nth p.place.pas 0))

/-- LDX: the line is reserved (R281, R352), and its hold restarts (R367); a line from beyond the L2 is won with its Y. -/
def Dev.ldxGo (s : Dev) (m : Nat) (p : LoadPlan) : Dev :=
  let l := nth p.place.lines 0
  let s := s.loadGo m 0xAF p
  let s := s.onCore m (fun c => { c with resv := some l })
  if p.place.mt = 0 ∧ (m = 8 ∨ p.reach ≤ 1) then
    s.holdTo l m (s.clk + max 32 (((loadLat p.reach 1 + 48) * s.cycLen m + 23) / 24))
  else s

/-! ## Stores -/

/-- The check of a store of n bytes (R279, R280, R446). -/
def Dev.storeCheck (s : Dev) (m pc slot va n v : Nat) (strict : Bool) : Dev × Except Exc Place :=
  match s.placeOf m slot va n .store strict with
  | (s, .error x) => (s, .error x)
  | (s, .ok p) =>
    match s.watch m pc slot { va := va, n := n, rd := false, wr := true, val := v % 2 ^ (8 * n), isDev := decide (p.mt = 2) } with
    | some x => (s, .error x)
    | none => (s, .ok p)

/-- A store enters the store buffer. -/
def Dev.storeGo (s : Dev) (m : Nat) (p : Place) (v : Nat) : Dev :=
  let s := s.enterStore m (sbKind p.mt) (cellsOf p.pas v)
  s.aBusy m 4 ((if 1 < p.lines.length then 2 else 1) + s.tlbCost m)

/-- STNT (R283, R355, R356): into the combining buffer outside merge mode; a new line displaces the oldest. -/
def Dev.stntGo (s : Dev) (m : Nat) (p : Place) (v : Nat) : Dev :=
  let l := nth p.lines 0
  if s.mergeNow m then s.storeGo m p v
  else
    let s := s.fixLoads m [l]
    let s := s.onCore m (fun c => { c.loseResv l with mergeMode := false })
    let held := (s.core m).cb.any (fun x => decide (x.line = l))
    let s := match (if held then none else if (s.core m).cb.length < 4 then none else (s.core m).cb.head?) with
      | some x => (s.writeOutCb m x).coreStall m 0x08
      | none => s
    let w := s.coreWorld m
    let s := if held then s else s.onCore m (fun c => { c with cb := c.cb ++ [{ line := l, world := w }] })
    let cells := cellsOf p.pas v
    let s := s.onCore m (fun c => { c with cb := c.cb.map (fun x =>
      if x.line = l then
        { x with bytes := cells.foldl (fun b y => SMap.set (fun _ => 0) b (y.1 % 64) y.2) x.bytes
                 mask := cells.foldl (fun k y => if k.contains (y.1 % 64) then k else insNat (y.1 % 64) k) x.mask }
      else x) })
    let s := s.aBusy m 4 (1 + s.tlbCost m)
    match (s.core m).cb.find? (fun x => decide (x.line = l) && decide (x.mask.length = 64)) with
    | some x => s.writeOutCb m x
    | none => s

/-- Whether a write past the caches would draw no error response; the state is the one that such a response leaves. -/
def Dev.tryWrite (s : Dev) (m : Nat) (cells : List (Nat × Byte)) : Dev × Bool :=
  match s.writeDirect m (s.coreWorld m) cells with
  | (_, true) => (s, true)
  | (t, false) => (t, false)

/-- The check of an STX: where its reservation is held, that its write gets no error response (R317). -/
def Dev.stxCheck (s : Dev) (m pc slot va v : Nat) : Dev × Except Exc Place :=
  match s.place8 m slot va .store with
  | (s, .error x) => (s, .error x)
  | (s, .ok p) =>
    let l := nth p.lines 0
    let s := s.evictCb m l
    let (s, ok) :=
      if (s.core m).resv = some l then
        (if p.mt = 0 then (let (s, i) := s.bringLines m p.lines true; (s, i.isNone)) else s.tryWrite m (cellsOf p.pas v))
      else (s, true)
    if !ok then (s, .error (dataErr slot va 0 true))
    else match s.watch m pc slot { va := va, n := 8, rd := false, wr := true, val := v, isDev := false } with
      | some x => (s, .error x)
      | none => (s, .ok p)

/-- STX: it stores only under its reservation, after older stores to the line; Y is 0 if it stored (R281).  Its store takes an
entry of the store buffer (R354); outside DRAM it is performed at once. -/
def Dev.stxGo (s : Dev) (m : Nat) (p : Place) (v : Nat) : Dev :=
  let l := nth p.lines 0
  let ok := decide ((s.core m).resv = some l)
  let s := ((s.fixLoads m [l]).onCore m (fun c => { c with resv := none })).closeSb m
  let w := s.coreWorld m
  let e : SbEntry := { cells := cellsOf p.pas v, kind := p.mt, world := w, closed := true, stx := true }
  let s := if ok then
      let s := (s.flushLine m l).loseResvs l m
      if inDram (64 * l) then s.onCore m (fun c => { c with sb := c.sb ++ [e] }) else s.performCells m e e.cells
    else s.cPmu m 0x19 1
  let x := s.tlbCost m
  (s.aLaunch m 4 [(0x45, b2n (!ok))] (4 + x) 0).aBusy m 4 (1 + x)

/-! ## Atomics (R282, R351) -/

/-- The value an atomic writes: op 0 AADD, 1 ASWP, 2 AAND, 3 AOR, 4 AXOR, 5 AMIN, 6 AMAX, 7 ACAS. -/
def atomicNew (op old o2 o3 : Nat) : Nat :=
  match op with
  | 0 => (old + o2) % 2 ^ 64
  | 1 => o2
  | 2 => Nat.land old o2
  | 3 => Nat.lor old o2
  | 4 => Nat.xor old o2
  | 5 => if s64 old ≤ s64 o2 then old else o2
  | 6 => if s64 o2 ≤ s64 old then old else o2
  | _ => if old = o3 then o2 else old

/-- The check of an atomic; its value is the old one. -/
def Dev.atomicCheck (s : Dev) (m pc slot op va o2 o3 : Nat) : Dev × Except Exc LoadPlan :=
  match s.place8 m slot va .atomic with
  | (s, .error x) => (s, .error x)
  | (s, .ok p) =>
    let (s, old) :=
      if p.mt = 0 then
        match s.bringLines m p.lines true with
        | (s, none) => (s, some (leNat (p.pas.map (fun a => s.loadByte m a))))
        | (s, some _) => (s, none)
      else
        match s.readDirect m p.pas with
        | (s, none) => (s, none)
        | (s, some v) =>
          if op = 7 ∧ v ≠ o3 then (s, some v)
          else match s.tryWrite m (cellsOf p.pas (atomicNew op v o2 o3)) with
            | (s, true) => (s, some v)
            | (s, false) => (s, none)
    match old with
    | none => (s, .error (dataErr slot va 0 true))
    | some v =>
      match s.watch m pc slot { va := va, n := 8, rd := true, wr := true, val := atomicNew op v o2 o3, isDev := false } with
      | some x => (s, .error x)
      | none => (s, .ok ⟨p, some v, 0⟩)

/-- An atomic reads, combines and writes as one access; the core's own reservation of the line goes (R352). -/
def Dev.atomicGo (s : Dev) (m op : Nat) (p : LoadPlan) (o2 o3 : Nat) : Dev :=
  let old := p.val.getD 0
  let new := atomicNew op old o2 o3
  let l := nth p.place.lines 0
  let w := s.coreWorld m
  let s := if op = 7 ∧ old ≠ o3 then s else s.performCells m { kind := p.place.mt, world := w } (cellsOf p.place.pas new)
  let s := (s.onCore m (fun c => c.loseResv l)).cPmu m 0x18 1
  let x := s.tlbCost m
  (s.aLaunch m 4 [(0x45, old)] (8 + x) 0).aBusy m 4 (8 + x)

/-! ## Multi-register transfers (R285 to R287) -/

/-- A multi-register transfer as it stands: next slot's address, mask still to transfer, bank, direction (true: STM). -/
structure MultiXfer where
  addr : Nat
  mask : Nat
  bank : Nat
  stm  : Bool
  deriving DecidableEq, Repr

/-- The transfer of a trigger: from O1 and T, or, for the bundle that executes again after a return, from EADDR and EPROG
(R287). -/
def Dev.multiOf (s : Dev) (m o1 t : Nat) (stm resumed : Bool) : MultiXfer :=
  if resumed then { addr := s.sr m 0x23, mask := s.srf m 0x24 15 0, bank := s.srf m 0x24 16 16, stm := stm }
  else { addr := o1, mask := t % 65536, bank := bits t 16 16, stm := stm }

/-- Whether the bundle at pc is one that continues the transfer of EPROG. -/
def ACore.resumes (c : ACore) (pc : Nat) : Bool := decide (c.progPc = some (BitVec.ofNat 64 pc))

/-- EPROG of a transfer that stops (Table 12.5). -/
def MultiXfer.prog (x : MultiXfer) : Nat := x.mask + x.bank * 2 ^ 16 + b2n x.stm * 2 ^ 17 + 2 ^ 18

/-- The fault of a transfer's start: alignment, then the memory type of the first slot, with a mask of zero too (R285). -/
def Dev.multiCheck (s : Dev) (m slot : Nat) (x : MultiXfer) (resumed : Bool) : Dev × Option Exc :=
  match s.place8 m slot x.addr (if x.stm then .store else .load) with
  | (t, .error e) =>
    if x.mask = 0 ∧ e.code ≠ cAlign ∧ e.code ≠ cAccType then (s, none)
    else (t, some { e with prog := if resumed then x.prog else 0 })
  | (t, .ok _) => (t, none)

/-- The check of one slot of a transfer, and what the slot is to do. -/
def Dev.slotCheck (s : Dev) (m pc slot code : Nat) (x : MultiXfer) : Dev × Except Exc MultiSlot :=
  if x.stm then
    let v := s.regRead m code
    match s.storeCheck m pc slot x.addr 8 v true with
    | (s, .error e) => (s, .error e)
    | (s, .ok p) => (s, .ok { reg := some code, addr := x.addr, pas := p.pas, mt := p.mt, val := some v })
  else
    match s.loadCheck m pc slot 0xA9 x.addr 8 true with
    | (s, .error e) => (s, .error e)
    | (s, .ok p) => (s, .ok { reg := some code, addr := x.addr, pas := p.place.pas, mt := p.place.mt, val := p.val, reach := p.reach })

/-- The slots of a transfer in ascending order up to the first that faults, and that fault with what EPROG keeps (R287). -/
def Dev.multiSlots (s : Dev) (m pc slot : Nat) : List Nat → MultiXfer → Dev × List MultiSlot × Option Exc
  | [], _ => (s, [], none)
  | r :: t, x =>
    match s.slotCheck m pc slot (16 * x.bank + r) x with
    | (s, .error e) => (s, [], some { e with prog := x.prog })
    | (s, .ok y) =>
      let (s, ys, e) := s.multiSlots m pc slot t { x with addr := x.addr + 8, mask := setBit x.mask r false }
      (s, y :: ys, e)

/-- The register that a code names while the quick bank is swapped in or not (R297). -/
def Dev.regKey (s : Dev) (m code : Nat) : Nat := if decide (code < 16) && s.stQB m then code + 32 else code

/-- Whether an LDM has still to write a register. -/
def Dev.regPends (s : Dev) (m code : Nat) : Bool :=
  let k := s.regKey m code
  let c := s.core m
  let same := fun (r : Option Nat) => r.any (fun r => decide (s.regKey m r = k))
  decide (code < 0x30) && (c.fly.any (fun f => same f.reg) || (c.slotsLeft false && c.multi.any (fun x => x.slots.any (fun y => same y.reg))))

/-- A register is written after an LDM that has still to write it: that slot writes nothing. -/
def Dev.dropSlot (s : Dev) (m code : Nat) : Dev :=
  if s.regPends m code then
    let k := s.regKey m code
    let same := fun (r : Option Nat) => r.any (fun r => decide (s.regKey m r = k))
    s.onCore m (fun c =>
      { c with fly := c.fly.filter (fun f => !same f.reg),
               multi := c.multi.map (fun x => { x with slots := x.slots.map (fun y => if same y.reg then { y with reg := none } else y) }) })
  else s

/-- A slot starts: an STM's store enters the store buffer, an LDM's load is in flight to its register, unless a later bundle
has written that. -/
def Dev.slotGo (s : Dev) (m : Nat) (x : MultiRun) (y : MultiSlot) : Dev :=
  if x.stm then s.enterStore m (sbKind y.mt) (cellsOf y.pas (y.val.getD 0))
  else
    match y.reg with
    | none => s
    | some r =>
      let w := s.coreWorld m
      let outs := match y.val with
        | some v => [(0x45, v)]
        | none => []
      let want := match y.val with
        | some _ => []
        | none => y.pas.map (fun a => (0, a, 0))
      (s.dropSlot m r).onCore m (fun c =>
        { c with fly := c.fly ++ [{ unit := 4, outs := outs, ready := x.start + loadLat y.reach 1, kind := loadKind y.reach, want := want,
                                    op := 0xA9, world := w, seqno := c.seqno, reg := some r }], seqno := c.seqno + 1 })

/-- The slots whose cycle has come start, one a cycle; all of them with `all`. -/
def Dev.multiStep (s : Dev) (m : Nat) (all : Bool) : Nat → Dev
  | 0 => s
  | n + 1 =>
    match (s.core m).multi with
    | none => s
    | some x =>
      match x.slots with
      | [] => s
      | y :: t =>
        if all || decide (x.start ≤ (s.core m).cyc) then
          ((s.onCore m (fun c => { c with multi := some { x with start := x.start + 1, slots := t } })).slotGo m x y).multiStep m all n
        else s

/-- Every slot starts, and every register of an LDM is written, before registers get another meaning. -/
def Dev.multiSettle (s : Dev) (m : Nat) : Dev :=
  let s := s.multiStep m true 16
  (s.core m).fly.foldl (fun s _ =>
    match (s.core m).fly.findIdx? (fun f => f.reg.isSome) with
    | some i => s.completeOp m i
    | none => s) s

/-- A transfer starts: its first slot now, the others one a cycle (Table 11.11).  After a fault the registers before it are
transferred (R287). -/
def Dev.multiGo (s : Dev) (m pc slot : Nat) (x : MultiXfer) (resumed : Bool) : Dev × Option Exc :=
  let (s, ys, e) := s.multiSlots m pc slot (onesBelow 16 x.mask) x
  let s := s.onCore m (fun c => { c with multi := some { pc := pc, xfer := c.xfer, stm := x.stm, bank := x.bank, start := c.cyc, slots := ys } })
  match e with
  | some e => ((s.multiSettle m).onCore m (fun c => { c with multi := none }), some e)
  | none =>
    let s := s.cond resumed (fun s => s.setSr m 0x24 0)
    ((s.multiStep m false 16).aBusy m 4 (max 1 (popCount 16 x.mask) + s.tlbCost m), none)

/-- Before a bundle that continues a transfer, EADDR and EPROG keep where it stands (R287). -/
def Dev.keepProg (s : Dev) (m : Nat) (x : Exc) : Exc :=
  if (s.core m).resumes (s.core m).pc.toNat then { x with addr := s.sr m 0x23, prog := s.sr m 0x24 } else x

/-- A later bundle passes: the transfer in progress is not stopped any more. -/
def Dev.notAlone (s : Dev) (m : Nat) : Dev :=
  s.onCore m (fun c => { c with multi := c.multi.map (fun x => { x with alone := false }) })

/-- An ordinary interrupt falls between two registers of the transfer in progress (R287): what EADDR and EPROG keep; the
bundle is executed again. -/
def Dev.multiStop (s : Dev) (m : Nat) : Dev × Exc :=
  let none' := exc cInterrupt 0 0
  match (s.core m).multi with
  | some x =>
    match x.alone, x.slots with
    | true, y :: t =>
      let mask := (y :: t).foldl (fun k y => match y.reg with
        | some r => setBit k (r % 16) true
        | none => k) 0
      let x' : MultiXfer := { addr := y.addr, mask := mask, bank := x.bank, stm := x.stm }
      (s.onCore m (fun c => { c with multi := none, pc := BitVec.ofNat 64 x.pc, xfer := x.xfer }),
        { none' with addr := y.addr, prog := x'.prog })
    | _, _ => (s, none')
  | none => (s, s.keepProg m none')

/-- The processor brought to its present cycle: clock, slots of a transfer, completed operations. -/
def Dev.coreSync (s : Dev) (m : Nat) : Dev :=
  let s := (s.coreClock m).multiStep m false 16
  s.completeDue m ((s.core m).fly.length)

/-! ## Barriers and maintenance (R284, R349, R361, R362) -/

/-- FENCE.L: the next bundle waits for earlier loads. -/
def Dev.fenceL (s : Dev) (m : Nat) : Dev := s.onCore m (fun c => { c with loadFence := true })

/-- FENCE.S: the combining buffer is written out, and the next bundle waits for earlier stores. -/
def Dev.fenceS (s : Dev) (m : Nat) : Dev := ((s.closeSb m).flushCb m).onCore m (fun c => { c with storeFence := true })

/-- FENCE.LS: both. -/
def Dev.fenceLS (s : Dev) (m : Nat) : Dev := (s.fenceL m).fenceS m

/-- IFENCE: the fetch of the next bundle waits for earlier stores and comes 9 cycles after; nothing fetched before stays. -/
def Dev.iFence (s : Dev) (m : Nat) : Dev :=
  let s := (s.flushCb m).onCore m (fun c => { c with storeFence := true, fq := [], fqN := 0 })
  (s.coreTick m 8).cPmu m 0x06 8

/-- The access kind under which a maintenance operation is translated (R362): code 0xBF DCCLN, 0xC0 DCINV, 0xC1 DCCI,
0xC2 ICINV. -/
def Dev.maintKind (s : Dev) (m code : Nat) : AccKind :=
  if code = 0xC2 then .icinv
  else if code = 0xC0 ∧ s.lvl m ≠ 0 then .inval
  else .load

/-- The check of a maintenance operation. -/
def Dev.maintCheck (s : Dev) (m slot code va : Nat) : Dev × Except Exc Place :=
  let v := va % 2 ^ 64
  let a := s.maintKind m code
  match s.translate m v (s.lvl m) a with
  | (s, .ok p) => (s, .ok { pas := [p.pa], mt := p.mt })
  | (s, .error f) => (s, .error (f.exc a slot v false))

/-- A maintenance operation: ICINV acts at once, the others take a store buffer entry; none acts on device memory or outside the DRAM range (R362). -/
def Dev.maintGo (s : Dev) (m code : Nat) (p : Place) : Dev :=
  let pa := nth p.pas 0
  if p.mt = 2 ∨ !inDram pa then s
  else if code = 0xC2 then (s.dropL1i m (pa / 64)).aBusy m 4 1
  else
    let kind := if code = 0xBF then 3 else if code = 0xC0 ∧ s.lvl m ≠ 0 then 4 else 5
    (s.closeSb m).enterStore m kind [(pa, 0)]

/-- PREF: the line is brought where that draws no error; nothing else happens (R284). -/
def Dev.prefGo (s : Dev) (m va : Nat) : Dev :=
  match s.translate m (va % 2 ^ 64) (s.lvl m) .load with
  | (s, .ok p) =>
    if decide (p.mt = 0) && decide (m < 8) && s.fetchable m p.pa && !s.lineWaits m (s.coreWorld m) (p.pa / 64) false then
      (s.bringLine m (p.pa / 64) false).1
    else s
  | (s, .error _) => s

/-! ## The LSU's triggers -/

/-- Bytes of a load or store operation by destination code. -/
def lsuSize (code : Nat) : Nat :=
  match code with
  | 0xA3 => 1 | 0xA4 => 1 | 0xA5 => 2 | 0xA6 => 2 | 0xA7 => 4 | 0xA8 => 4
  | 0xAA => 1 | 0xAB => 2 | 0xAC => 4
  | _ => 8

/-- What an LSU trigger has been found to do. -/
inductive LsuPlan
  /-- A load. -/
  | load (p : LoadPlan)
  /-- An access at a place. -/
  | at (p : Place)
  /-- A multi-register transfer. -/
  | multi (x : MultiXfer)
  /-- A barrier or PREF. -/
  | plain
  deriving DecidableEq, Repr

/-- Whether a code is an atomic. -/
def isAtomic (code : Nat) : Bool := decide (0xB1 ≤ code) && decide (code ≤ 0xB8)

/-- How many store buffer entries a trigger takes, in merge mode or not (R354, R356). -/
def sbNeeds (code t : Nat) (merge : Bool) : Nat :=
  if (0xAA ≤ code ∧ code ≤ 0xAD) ∨ code = 0xB0 ∨ (0xBF ≤ code ∧ code ≤ 0xC1) then 1
  else if code = 0xBA then popCount 16 t
  else if code = 0xAE ∧ merge then 1
  else 0

/-- Whether a trigger puts something into the store buffer or the combining buffer (R357). -/
def buffers (code : Nat) : Bool := decide (code = 0xAE) || decide (sbNeeds code 1 true ≠ 0)

/-- Why an LSU trigger stalls (R173, R282, R283, R357): the event it counts under; an STM waits for registers that an LDM has
still to write. -/
def Dev.lsuStall (s : Dev) (m code t : Nat) : Option Nat :=
  let c := s.core m
  if c.cyc < s.aFree m 4 then some 0x08
  else if 24 < c.sb.length + sbNeeds code t (s.mergeNow m) then some 0x09
  else if buffers code && s.mergeWait m then some 0x08
  else if decide (code = 0xBA) && (onesBelow 16 t).any (fun r => s.regPends m (16 * bits t 16 16 + r)) then some 0x07
  else if isAtomic code && (c.loading || !c.sb.isEmpty || !c.cb.isEmpty) then some 0x08
  else none

/-- Kind of the access that an LSU trigger makes at O1 + T, its length, and whether R280 binds it. -/
def lsuKind (code : Nat) : AccKind :=
  if code ≤ 0xA9 ∨ code = 0xAF then .load else if isAtomic code then .atomic else .store
def lsuStrict (code : Nat) : Bool := decide (0xAE ≤ code) && decide (code ≤ 0xB8)

/-- Whether the lines that an LSU trigger at O1 + T needs are held by another cache, or Busy: its bundle waits (R364, R367,
log 57). -/
def Dev.lsuWaits (s : Dev) (m slot code o1 t : Nat) : Bool :=
  if code ≤ 0xA9 ∨ 0xAF ≤ code ∧ code ≤ 0xB8 then
    match (s.placeOf m slot ((o1 + t) % 2 ^ 64) (lsuSize code) (lsuKind code) (lsuStrict code)).2 with
    | .ok p =>
      let takes := decide (0xAF ≤ code)
      decide (p.mt = 0) && (decide (code ≠ 0xB0) || decide ((s.core m).resv = some (nth p.lines 0))) &&
        p.lines.any (fun l => s.lineWaits m (s.coreWorld m) l takes)
    | .error _ => false
  else false

/-- L1 TLB misses are counted anew for the cost of the access that is checked next. -/
def Dev.noMiss (s : Dev) (m : Nat) : Dev := s.onCore m (fun c => { c with tlbMiss := 0 })

/-- The check of an LSU trigger with operands O1, O2, O3 and trigger value t (R317, causes of priority 8 to 13). -/
def Dev.lsuCheck (s : Dev) (m pc slot code o1 o2 o3 t : Nat) : Dev × Except Exc LsuPlan :=
  let va := (o1 + t) % 2 ^ 64
  if code ≤ 0xA9 ∨ code = 0xAF then
    match s.loadCheck m pc slot code va (lsuSize code) (decide (code = 0xAF)) with
    | (s, .ok p) => (s, .ok (.load p))
    | (s, .error x) => (s, .error x)
  else if code ≤ 0xAE then
    match s.storeCheck m pc slot va (lsuSize code) o2 (decide (code = 0xAE)) with
    | (s, .ok p) => (s, .ok (.at p))
    | (s, .error x) => (s, .error x)
  else if code = 0xB0 then
    match s.stxCheck m pc slot va o2 with
    | (s, .ok p) => (s, .ok (.at p))
    | (s, .error x) => (s, .error x)
  else if isAtomic code then
    match s.atomicCheck m pc slot (code - 0xB1) va o2 o3 with
    | (s, .ok p) => (s, .ok (.load p))
    | (s, .error x) => (s, .error x)
  else if code = 0xB9 ∨ code = 0xBA then
    let again := (s.core m).resumes pc
    let x := s.multiOf m o1 t (decide (code = 0xBA)) again
    match s.multiCheck m slot x again with
    | (s, none) => (s, .ok (.multi x))
    | (s, some e) => (s, .error e)
  else if 0xBF ≤ code ∧ code ≤ 0xC2 then
    match s.maintCheck m slot code va with
    | (s, .ok p) => (s, .ok (.at p))
    | (s, .error x) => (s, .error x)
  else (s, .ok .plain)

/-- The fault that an LSU trigger's address alone gives: causes of priority 8 to 11. -/
def Dev.lsuFault (s : Dev) (m pc slot code o1 t : Nat) : List Exc :=
  let va := (o1 + t) % 2 ^ 64
  if 0xBB ≤ code ∧ code ≤ 0xBE ∨ code = 0xC3 then []
  else if code = 0xB9 ∨ code = 0xBA then
    let again := (s.core m).resumes pc
    (s.multiCheck m slot (s.multiOf m o1 t (decide (code = 0xBA)) again) again).2.toList
  else
    match (if 0xBF ≤ code then (s.maintCheck m slot code va).2 else (s.placeOf m slot va (lsuSize code) (lsuKind code) (lsuStrict code)).2) with
    | .error x => [x]
    | .ok _ => []

/-- A checked LSU trigger takes effect; only a multi-register transfer can still fault. -/
def Dev.lsuGo (s : Dev) (m pc slot code o1 o2 o3 t : Nat) (p : LsuPlan) : Dev × Option Exc :=
  match p with
  | .load p =>
    (if code = 0xAF then s.ldxGo m p else if isAtomic code then s.atomicGo m (code - 0xB1) p o2 o3 else s.loadGo m code p, none)
  | .at p =>
    (if code ≤ 0xAD then s.storeGo m p o2
     else if code = 0xAE then s.stntGo m p o2
     else if code = 0xB0 then s.stxGo m p o2
     else s.maintGo m code p, none)
  | .multi x => s.multiGo m pc slot x ((s.core m).resumes pc)
  | .plain =>
    (match code with
     | 0xBB => s.fenceL m
     | 0xBC => s.fenceS m
     | 0xBD => s.fenceLS m
     | 0xBE => s.iFence m
     | 0xC3 => s.prefGo m (o1 + t)
     | _ => s, none)

/-! ## Events outside a bundle -/

/-- Whether the first line of an entry has to wait for a transaction of the line or for a hold (R364, R367). -/
def Dev.entryWaits (s : Dev) (m : Nat) (e : SbEntry) : Bool :=
  match e.cells with
  | [] => false
  | x :: _ =>
    let l := x.1 / 64
    inDram x.1 && (if e.kind = 0 then s.lineWaits m e.world l true
      else (s.dirAt l).busy.isSome || decide (s.clk < s.holdEnd l (s.holders (if m = 8 then 8 else 11) l true)))

/-- A store of a processor is performed (R344, R348, R354). -/
def Dev.storePerformedNow (s : Dev) (m i : Nat) : Dev :=
  match (s.core m).sb[i]? with
  | none => s
  | some e => if (s.core m).sbReady i && !s.entryWaits m e then s.performStore m i else s

/-- STORE_PERFORMED: entry idx of processor m's store buffer, where no older entry comes first (R354, R472). -/
def execStorePerformed (m idx : Nat) (s : State) : Host.Outcome State Fault Refusal :=
  run (wellFormed (.storePerformed m idx)) (fun s => s.storePerformedNow m idx) s

/-- COMBINING_WRITE_OUT: the oldest line of the combining buffer (R355). -/
def execCombiningWriteOut (m : Nat) (s : State) : Host.Outcome State Fault Refusal :=
  run (wellFormed (.combiningWriteOut m)) (fun s =>
    match (s.core m).cb.head? with
    | some x => s.writeOutCb m x
    | none => s) s

end Sys2Proof.Machine
end

