-- ==== Sys2Proof/Machine/CoreFrames.lean ====
section
/-!
DEFINITION. Sys2Proof/Machine/CoreFrames.lean: register frames, spills and fills (11 R289 to R296).
-/

namespace Sys2Proof.Machine

/-- Frames occupied on chip (R291). -/
def Dev.occupied (s : Dev) (m : Nat) : Nat := (s.core m).frames.length

/-- Numbers of FSBASE, FSPTR and FSLIM of a level (Table 12.1). -/
def srFsBase (lvl : Nat) : Nat := 0x60 + 4 * lvl
def srFsPtr (lvl : Nat) : Nat := 0x61 + 4 * lvl
def srFsLim (lvl : Nat) : Nat := 0x62 + 4 * lvl

/-- Bytes of a frame record (R289). -/
def recordLen : Nat := 144

/-- The level of the frame next older than `f` (R290): under BND the level that the exception left, else `plain`. -/
def Dev.olderLvl (s : Dev) (m : Nat) (f : Frame) (plain : Nat) : Nat :=
  if f.bnd then (if m = 8 then min (s.core m).leftLvl 1 else 0) else plain

/-- The oldest frame on chip. -/
def Dev.oldest (s : Dev) (m : Nat) : Frame := ((s.core m).frames.getLast?).getD {}

/-- The level of the stack from which a T_RET at O = 1 fills: without BND the current level (R290). -/
def Dev.retLvl (s : Dev) (m : Nat) : Nat := s.olderLvl m (s.oldest m) (s.lvl m)

/-- Whether a T_RET waits for a fill (R292). -/
def Dev.retWaits (s : Dev) (m : Nat) : Bool :=
  decide (s.occupied m ≤ 1) && (s.core m).xfer.any (fun x => x.taken && decide (x.kind = 2) && decide (x.left = 0))

/-- The level of the stack that holds the frame next older than the oldest on chip: a fill that no T_RET waits for goes by
that frame's tag (log 59). -/
def Dev.backLvl (s : Dev) (m : Nat) : Nat :=
  if s.retWaits m then s.retLvl m else s.olderLvl m (s.oldest m) (s.oldest m).lvl

/-- Whether the stack of a level holds a record (R294). -/
def Dev.hasRecord (s : Dev) (m l : Nat) : Bool := decide (s.sr m (srFsPtr l) ≠ s.sr m (srFsBase l))

/-! ## Checked translations (R293) -/

/-- Pages of a record. -/
def recordPages (a : Nat) : List Nat := [a, a + recordLen - 1]

/-- The pages of a record translated and kept, or the fault of the first that fails. -/
def Dev.checkRecord (s : Dev) (m slot a lvl : Nat) (k : AccKind) : Dev × Option Exc :=
  (recordPages a).foldl (fun (p : Dev × Option Exc) v =>
    match p.2 with
    | some _ => p
    | none =>
      match p.1.translate m v lvl k with
      | (s, .error f) => (s, some (f.exc k slot (if v = a then a else v - v % 4096) false))
      | (s, .ok x) => (s.onCore m (fun c => { c with fsMap := SMap.set (fun _ => 0) c.fsMap (v / 4096) (x.pa / 4096 + 1) }), none)) (s, none)

/-- The frames that must spill to bring O to `keep`, oldest first. -/
def spillList (frames : List Frame) (keep : Nat) : List Frame := (frames.drop keep).reverse

/-- The records of frames checked in order of spilling: each wholly below FSLIM of its level at write-translatable
addresses (R293). `ptrs` gives each level's next record. -/
def Dev.checkSpills (s : Dev) (m slot : Nat) : List Frame → (Nat → Nat) → Dev × Option Exc
  | [], _ => (s, none)
  | f :: t, ptrs =>
    let a := ptrs f.lvl
    if s.sr m (srFsLim f.lvl) < a + recordLen then (s, some { (exc cFsOvf slot a) with fslvl := f.lvl })
    else match s.checkRecord m slot a f.lvl .store with
      | (s, some x) => (s, some x)
      | (s, none) => s.checkSpills m slot t (fun l => if l = f.lvl then a + recordLen else ptrs l)

/-- The check of a T_CALL whose taking makes O reach 6 or more. -/
def Dev.callCheck (s : Dev) (m slot : Nat) : Dev × Option Exc :=
  let fr := (s.core m).frames
  if fr.length + 1 < 6 then (s, none)
  else
    let p := fun l => s.sr m (srFsPtr l)
    s.checkSpills m slot (spillList fr 4) p

/-- The check of a T_FLUSHW: every frame but the current one (R295). -/
def Dev.flushCheck (s : Dev) (m slot : Nat) : Dev × Option Exc :=
  let p := fun l => s.sr m (srFsPtr l)
  s.checkSpills m slot (spillList (s.core m).frames 1) p

/-- The check of a T_RET whose frame returned to is not on chip. -/
def Dev.retCheck (s : Dev) (m slot : Nat) : Dev × Option Exc :=
  if 1 < s.occupied m then (s, none)
  else
    let l := s.retLvl m
    s.checkRecord m slot (s.sr m (srFsPtr l) - recordLen) l .load

/-! ## Spills and fills (R291, R292) -/

/-- Spills and fills start by themselves: a spill while O is 6 or more or a FLUSHW waits, a fill while O is 2 or less. -/
def Dev.startFrames (s : Dev) (m : Nat) : Dev :=
  let o := s.occupied m
  let fl := (s.core m).flush
  let s := s.cond (fl && decide (o ≤ 1)) (fun s => s.onCore m (fun c => { c with flush := false }))
  let sp := decide (6 ≤ o) || (fl && decide (1 < o))
  let s := s.cond sp (fun s => s.onCore m (fun c => { c with spill := true }))
  s.cond (decide (o ≤ 2) && !(s.core m).spill && !fl && s.hasRecord m (s.backLvl m)) (fun s => s.onCore m (fun c => { c with fill := true }))

/-- The physical address of a stack byte under the translations checked; without one, as a translation gives it now. -/
def Dev.stackAddr (s : Dev) (m va lvl : Nat) (k : AccKind) : Dev × Option Nat :=
  let p := SMap.get (fun _ => 0) (s.core m).fsMap (va / 4096)
  if p ≠ 0 then (s, some ((p - 1) * 4096 + va % 4096))
  else match s.translate m va lvl k with
    | (s, .ok x) => (s, some x.pa)
    | (s, .error _) => (s, none)

/-- The eighteen doublewords of a record (Table 11.7). -/
def Frame.record (f : Frame) : List Nat :=
  (List.range 16).map (fun i => (SMap.get (fun _ => 0) f.w i).toNat) ++ [f.link.toNat, f.lvl + 4 * b2n f.bnd]

/-- Eight bytes of a frame stack written. -/
def Dev.stackWrite (s : Dev) (m va lvl v : Nat) : Dev :=
  match s.stackAddr m va lvl .store with
  | (s, none) => s
  | (s, some pa) =>
    let s := s.fixLoads m [pa / 64]
    let s := (s.flushLine m (pa / 64)).evictCb m (pa / 64)
    let w := s.coreWorld m
    s.performCells m { kind := if inDram pa then 0 else 1, world := w } (cellsOf ((List.range 8).map (fun i => pa + i)) v)

/-- Eight bytes of a frame stack read. -/
def Dev.stackRead (s : Dev) (m va lvl : Nat) : Dev × Option Nat :=
  match s.stackAddr m va lvl .load with
  | (s, none) => (s, none)
  | (s, some pa) =>
    let pas := (List.range 8).map (fun i => pa + i)
    if inDram pa then
      let (s, ok) := s.bringLine m (pa / 64) false
      (s, if ok then some (leNat (pas.map (fun a => s.loadByte m a))) else none)
    else (s.flushDevice m).readDirect m pas

/-- The oldest on-chip frame written to the stack of its level: FSPTR advances and O falls (R291). -/
def Dev.spillNow (s : Dev) (m : Nat) : Dev :=
  let f := s.oldest m
  let a := s.sr m (srFsPtr f.lvl)
  let s := ((List.range 18).zip f.record).foldl (fun s x => s.stackWrite m (a + 8 * x.1) f.lvl x.2) s
  let s := s.setSr m (srFsPtr f.lvl) (a + recordLen)
  let s := (s.onCore m (fun c => { c with frames := c.frames.dropLast, spill := false })).cPmu m 0x0C 1
  s.startFrames m

/-- The record of the next older frame read back: FSPTR falls and O rises; the frame takes the stack's level (R289, R292). -/
def Dev.fillNow (s : Dev) (m : Nat) : Dev :=
  let l := s.backLvl m
  let a := s.sr m (srFsPtr l) - recordLen
  let (s, ws) := (List.range 18).foldl (fun (p : Dev × Option (List Nat)) i =>
    match p.2 with
    | none => p
    | some ws =>
      match p.1.stackRead m (a + 8 * i) l with
      | (s, some v) => (s, some (ws ++ [v]))
      | (s, none) => (s, none)) (s, some [])
  match ws with
  | none => s.onCore m (fun c => { c with fill := false })
  | some ws =>
    let regs := (List.range 16).foldl (fun b i => SMap.set (fun _ => 0) b i (BitVec.ofNat 64 (nth ws i))) []
    let f : Frame := { w := regs, link := BitVec.ofNat 64 (nth ws 16), lvl := l, bnd := (nth ws 17).testBit 2 }
    let s := s.setSr m (srFsPtr l) a
    let s := (s.onCore m (fun c => { c with frames := c.frames ++ [f], fill := false })).cPmu m 0x0D 1
    s.startFrames m

/-- FRAME_SPILL: a spill in progress completes, at least 18 cycles after it started (R291). -/
def execFrameSpill (m : Nat) (s : State) : Host.Outcome State Fault Refusal :=
  run (wellFormed (.frameSpill m)) (fun s =>
    if s.coreOn m && (s.core m).spill && decide (1 < s.occupied m) then s.spillNow m else s) s

/-- FRAME_FILL: a fill in progress completes (R292). -/
def execFrameFill (m : Nat) (s : State) : Host.Outcome State Fault Refusal :=
  run (wellFormed (.frameFill m)) (fun s =>
    if s.coreOn m && (s.core m).fill && decide (s.occupied m < 8) && s.hasRecord m (s.backLvl m) then s.fillNow m else s) s

end Sys2Proof.Machine
end

