-- ==== Sys2Proof/Machine/CoreSystem.lean ====
section
/-!
DEFINITION. Sys2Proof/Machine/CoreSystem.lean: exceptions, interrupts, double faults, control transfers, level changes and
the system-register unit (12 R308 to R340, 11 R288, R295, R307, 16 R429, 17 R448 to R451).
-/

namespace Sys2Proof.Machine

/-! ## Saved state (R314) -/

/-- Numbers of the first register of each bank of saved state: E, X (SYSCALL), Q. -/
def srE : Nat := 0x20
def srX : Nat := 0x30
def srQ : Nat := 0x40

/-- The result ports in the order of their shadows (Table 12.1). -/
def shadowPorts : List Nat := [0x40, 0x41, 0x42, 0x43, 0x44, 0x45, 0x48]

/-- STATUS.WORLD: the core's assignment (Table 12.2). -/
def Dev.worldBit (s : Dev) (m : Nat) : Nat := if m = 8 then 0 else (s.core m).world % 2

/-- STATUS as it reads: WORLD is the core's world (Table 12.2). -/
def Dev.statusOf (s : Dev) (m : Nat) : Nat := s.sr m 0 % 256 + s.worldBit m * 256

/-- STATUS with the guards, as a saved copy holds it. -/
def Dev.savedStatus (s : Dev) (m : Nat) : Nat := s.statusOf m + (s.core m).g.toNat * 2 ^ 16

/-- The result ports written to the shadows from register `base` on. -/
def Dev.savePorts (s : Dev) (m base : Nat) : Dev :=
  ((List.range 7).zip shadowPorts).foldl (fun s x => s.setSr m (base + x.1) (s.resPort m x.2)) s

/-- The result ports restored from their shadows. -/
def Dev.restorePorts (s : Dev) (m base : Nat) : Dev :=
  ((List.range 7).zip shadowPorts).foldl (fun s x => s.setPort m x.2 (s.sr m (base + x.1))) s

/-- EDLY of a pending transfer (Table 12.5). -/
def edlyOf : Option PendXfer → Nat
  | none => 0
  | some x => 1 + 2 * b2n x.taken + 4 * b2n (decide (x.left = 2)) + 16 * (x.kind % 8) + (x.target % 2 ^ 48 / 16) * 2 ^ 8

/-- Every operation in flight completes (R314, step 1). -/
def Dev.drainOps (s : Dev) (m : Nat) : Dev :=
  let s := s.multiStep m true 16
  let c := s.core m
  let last := c.fly.foldl (fun k f => max k f.ready) c.cyc
  let s := s.coreTick m (last - c.cyc)
  c.fly.foldl (fun s _ => s.completeOp m 0) s

/-- Operand latches at zero, reservation lost, the fetch queue dropped (R174, R352); no transfer of registers goes on. -/
def Dev.breakStream (s : Dev) (m : Nat) : Dev :=
  s.onCore m (fun c => { c with latch := [], resv := none, xfer := none, fq := [], fqN := 0, progPc := none, multi := none })

/-- Level S (M on the SVP) is entered; the level left is kept where it is a lower one (R290, R314). -/
def Dev.enterTop (s : Dev) (m : Nat) : Dev :=
  let l := s.lvl m
  (s.cond (decide (l < topLvl m)) (fun s => s.onCore m (fun c => { c with leftLvl := l }))).setSrf m 0 1 0 (topLvl m)

/-- The level and the bits of STATUS that a return restores from a saved copy: LVL, IE, QIE, and TE where `te`. A level that
the processor has not is its nearest. -/
def Dev.restoreStatus (s : Dev) (m saved : Nat) (te : Bool) : Dev :=
  let l := if m = 8 then min (bits saved 1 0) 2 else bits saved 0 0
  let s := (((s.setSrf m 0 1 0 l).setSrf m 0 2 2 (bits saved 2 2)).setSrf m 0 3 3 (bits saved 3 3))
  let s := s.cond te (fun s => s.setSrf m 0 7 7 (bits saved 7 7))
  let g := bits saved 18 16
  s.onCore m (fun c => { c with g := BitVec.ofNat 3 g })

/-- The processor's next bundle is at an address. -/
def Dev.setPc (s : Dev) (m pc : Nat) : Dev := s.onCore m (fun c => { c with pc := BitVec.ofNat 64 pc })

/-- The address of the next bundle. -/
def Dev.pc (s : Dev) (m : Nat) : Nat := (s.core m).pc.toNat

/-- EPROG is the transfer's own; every other entry clears it. -/
def causeOf (x : Exc) (dly : Bool) : Nat :=
  x.code + x.slot * 2 ^ 8 + b2n dly * 2 ^ 11 + b2n x.store * 2 ^ 12 + b2n x.half2 * 2 ^ 13 + b2n x.walkerr * 2 ^ 14

/-! ## The debug monitor's depth (R449, R450) -/

/-- An entry while the monitor runs goes one deeper. -/
def Dev.monEnter (s : Dev) (m : Nat) : Dev :=
  if m < 8 ∧ s.fg F.DBG_CSTAT_MON m = 1 then s.inc F.DBG_CSTAT_MDEPTH m else s

/-- An ERET while the monitor runs comes one up, and leaves it at depth 0. -/
def Dev.monLeave (s : Dev) (m : Nat) : Dev :=
  if m < 8 ∧ s.fg F.DBG_CSTAT_MON m = 1 then
    let d := s.fg F.DBG_CSTAT_MDEPTH m
    if d ≤ 1 then s.monClear m else s.fs F.DBG_CSTAT_MDEPTH m (d - 1)
  else s

/-! ## Entries -/

/-- Exception or ordinary interrupt entry (R314), before the bundle at pc. -/
def Dev.enterE (s : Dev) (m : Nat) (x : Exc) : Dev :=
  let s := s.drainOps m
  let c := s.core m
  let dly := c.xfer.isSome && decide (x.code ≠ cInterrupt)
  let s := (s.setSr m 0x20 (s.pc m)).setSr m 0x21 (s.savedStatus m)
  let s := (s.savePorts m 0x28).setSr m 0x22 (causeOf x dly)
  let s := ((s.setSr m 0x23 x.addr).setSr m 0x24 x.prog).setSr m 0x25 (edlyOf c.xfer)
  let s := ((s.enterTop m).setSt m 2 false).setSt m 4 true
  let s := (s.breakStream m).setPc m (s.sr m 0x10)
  let s := (s.cPmu m (if x.code = cInterrupt then 0x15 else 0x14) 1).monEnter m
  let s := s.coreTick m 14
  (s.traceExc m x.code (s.pc m)).traceChange m

/-- Quick-interrupt and FS_OVF entry (R324, R326): Q0 to Q15 swap in. -/
def Dev.enterQ (s : Dev) (m : Nat) (x : Exc) : Dev :=
  let s := s.drainOps m
  let c := s.core m
  let s := (s.setSr m 0x40 (s.pc m)).setSr m 0x41 (s.savedStatus m)
  let s := (s.savePorts m 0x48).setSr m 0x42 ((if x.code = cFsOvf then causeOf x false else x.code) + x.fslvl * 2 ^ 16)
  let s := (s.setSr m 0x43 x.addr).setSr m 0x45 (if x.code = cFsOvf then 0 else edlyOf c.xfer)
  let s := (s.enterTop m).setSt m 5 true
  let s := (s.breakStream m).setPc m (s.sr m 0x11)
  let s := (if x.code = cQuick then s.cPmu m 0x16 1 else s.cPmu m 0x14 1).monEnter m
  let s := s.coreTick m 8
  (s.traceExc m x.code (s.pc m)).traceChange m

/-- What a double fault records (R328, R329). -/
def Dev.recordDouble (s : Dev) (m : Nat) (x : Exc) : Dev :=
  let inqb := s.stQB m
  let dly := (s.core m).xfer.isSome
  let s := (s.setSr m 0x50 (s.pc m)).setSr m 0x51 (s.savedStatus m)
  let s := (s.setSr m 0x52 (causeOf x dly + b2n inqb * 2 ^ 24)).setSr m 0x53 x.addr
  s.setSr m 0x54 (s.sr m 0x54 + 1)

/-- A double fault with CFG.DF = 0 locks the core up (R328). -/
def Dev.lockUp (s : Dev) (m : Nat) (x : Exc) : Dev :=
  let s := (s.drainOps m).recordDouble m x
  s.edge (176 + m) (fun s => s.onCore m (fun c => { c with lockup := true }))

/-- A double fault with CFG.DF = 1 enters at DFVEC (R329). -/
def Dev.enterDF (s : Dev) (m : Nat) (x : Exc) : Dev :=
  let s := (s.drainOps m).recordDouble m x
  let s := ((s.enterTop m).setSt m 6 true).setSt m 2 false
  let s := (s.breakStream m).setPc m (s.sr m 0x13)
  let s := (s.cPmu m 0x14 1).monEnter m
  let s := s.coreTick m 14
  (s.traceExc m x.code (s.pc m)).traceChange m

/-- A third fault warm-resets the core, which restarts at its entry address (R330). -/
def Dev.thirdFault (s : Dev) (m : Nat) : Dev :=
  let s := s.setSr m 0x54 (s.sr m 0x54 + 1)
  let n := s.sr m 0x54
  let s := s.errCap (32 + m) { ty := 0x0E, port := corePort m, world := s.coreWorld m, info := n }
  let e := (s.core m).entry
  (s.coreReset m).coreRelease m e

/-- A fault of the bundle at pc (R314, R326 to R330); on the SVP a double fault restarts the pair (R310). -/
def Dev.takeFault (s : Dev) (m : Nat) (x : Exc) : Dev :=
  if s.stDFL m then s.thirdFault m
  else if s.stEXL m || s.stQB m then
    if m = 8 then s.svpRestart 3
    else if (s.sr m 1).testBit 2 then s.enterDF m x
    else s.lockUp m x
  else if x.code = cFsOvf then s.enterQ m x
  else s.enterE m x

/-- A DEBUG event enters the monitor (R448, R449). -/
def Dev.enterDebug (s : Dev) (m reason which : Nat) (x : Exc) : Dev :=
  let s := s.wdgSync m
  let s := ((s.fs F.DBG_CSTAT_REASON m reason).fs F.DBG_CSTAT_WHICH m which)
  let s := s.cond (decide (reason = 1)) (fun s => s.fs F.DBG_CSTAT_HALTREQ m 0)
  let s := s.cond (decide (reason = 2)) (fun s => s.onCore m (fun c => { c with stepBundle := false }))
  let s := s.enterE m x
  (s.fs F.DBG_CSTAT_MON m 1).fs F.DBG_CSTAT_MDEPTH m 1

/-! ## Interrupts at a boundary (R315, R317, R324) -/

/-- Whether processor m stands at a boundary where a break may fall: no transfer waits, no squashed delay bundle. -/
def Dev.atBoundary (s : Dev) (m : Nat) : Bool :=
  match (s.core m).xfer with
  | none => true
  | some x => !x.squash && decide (x.left ≠ 0)

/-- Whether an ordinary interrupt may be taken. -/
def Dev.mayInt (s : Dev) (m : Nat) : Bool :=
  s.stIE m && !s.stEXL m && !s.stQB m && !s.stDFL m && s.atBoundary m && !s.stepHolds m

/-- Whether a quick interrupt may be taken; not between the registers of an LDM or STM. -/
def Dev.mayQuick (s : Dev) (m : Nat) : Bool :=
  !(s.core m).slotsLeft false && !(s.core m).slotsLeft true && s.stQIE m && !s.stEXL m && !s.stQB m && !s.stDFL m && s.atBoundary m && !s.stepHolds m

/-- A span of run-ahead ends, and the checkpoint is restored (R302, R303). -/
def Dev.endRunAhead (s : Dev) (m : Nat) : Dev :=
  match (s.core m).ra with
  | none => s
  | some k =>
    let c := s.core m
    let s := (s.cPmu m 0x20 1).cPmu m 0x23 (c.cyc - c.raCyc)
    let x := s.trcSrc m
    let s := s.trcEmit m (s.syncBytes m x.pos) (traceHead 7 m :: leBytes 2 (min c.raCount 65535))
    s.onCore m (fun c =>
      { c with frames := k.frames, x := k.x, q := k.q, g := k.g, res := k.res, xfer := k.xfer, pc := k.pc, sys := k.sys,
               resv := k.resv, latch := k.latch, fly := k.fly, ra := none, raCount := 0, raPoison := [], raOver := true })

/-- A DEBUG event before the bundle at the PC, which comes before interrupts (R317). -/
def Dev.debugFirst (s : Dev) (m : Nat) : Option Dev :=
  if s.atBoundary m then
    (s.dbgBoundary m (s.pc m)).map (fun x => s.enterDebug m x.1 x.2 (s.keepProg m (exc cDebug 0 0)))
  else none

/-- An ordinary interrupt is taken, if need be between two registers of a transfer (R287, R314). -/
def Dev.takeInt (s : Dev) (m : Nat) : Dev :=
  let (s, x) := s.multiStop m
  s.enterE m x

/-- INTERRUPT_ENTRY: an ordinary interrupt before the next bundle (R314, R315, R317). -/
def Dev.interruptNow (s : Dev) (m : Nat) : Dev :=
  if s.coreLive m && (s.icLine m false).isSome then
    let s := (s.endRunAhead m).coreSync m
    match s.debugFirst m with
    | some s => s
    | none => if s.mayInt m && !((s.icLine m true).isSome && s.mayQuick m) then s.takeInt m else s
  else s

/-- QUICK_INTERRUPT_ENTRY (R317, R324). -/
def Dev.quickNow (s : Dev) (m : Nat) : Dev :=
  if s.coreLive m && (s.icLine m true).isSome then
    let s := (s.endRunAhead m).coreSync m
    match s.debugFirst m with
    | some s => s
    | none => if s.mayQuick m then s.enterQ m (exc cQuick 0 0) else s
  else s

/-! ## Control transfers (R179 to R185, R288, R290) -/

/-- A transfer triggered by the bundle at pc. -/
def Dev.startXfer (s : Dev) (m pc target kind data : Nat) (taken annul : Bool) : Dev :=
  s.onCore m (fun c =>
    { c with xfer := some { target := target, left := 2, taken := taken, squash := annul && !taken, kind := kind,
                            link := (pc + 48) % 2 ^ 64, data := data, issued := c.cyc } })

/-- Whether a conditional branch is taken: kinds BZ, BZA, BNZ, BNZA on CTL.O1 (Table 11.6). -/
def branchTaken (kind o1 : Nat) : Bool := if kind < 2 then decide (o1 = 0) else decide (o1 ≠ 0)

/-- The faults of a control transfer triggered by code with value t in a slot (R182, R293, R294, R321 to R323). -/
def Dev.ctlCheck (s : Dev) (m slot code t : Nat) : Dev × List Exc :=
  let lvl := s.lvl m
  let flvl := match (s.core m).frames with
    | f :: _ => f.lvl
    | [] => 0
  let align := if t % 16 = 0 then [] else [exc cInsnAlign slot t]
  let ill := [exc cIllOp slot 0]
  if code = 0xD1 ∨ (0xD4 ≤ code ∧ code ≤ 0xD7) then (s, align)
  else if code = 0xD2 then
    if s.stQB m then (s, ill)
    else match s.callCheck m slot with
      | (s, some x) => (s, x :: align)
      | (s, none) => (s, align)
  else if code = 0xD3 then
    if s.stQB m then (s, ill)
    else if s.occupied m = 1 ∧ !s.hasRecord m (s.retLvl m) then (s, ill)
    else match s.retCheck m slot with
      | (s, some x) => (s, [x])
      | (s, none) => (s, [])
  else if code = 0xD8 then (s, if lvl = 0 then [] else ill)
  else if code = 0xD9 then
    (s, if lvl = 0 ∨ flvl ≠ s.srf m 0x31 1 0 then ill else [])
  else
    let saved := if s.stDFL m then 0x51 else if s.stQB m then 0x41 else 0x21
    (s, if lvl = 0 ∨ flvl ≠ s.srf m saved 1 0 then ill else [])

/-- A control transfer starts. -/
def Dev.ctlGo (s : Dev) (m pc code t : Nat) : Dev :=
  match code with
  | 0xD1 => s.startXfer m pc t 0 0 true false
  | 0xD2 => s.startXfer m pc t 1 0 true false
  | 0xD3 =>
    let l := match (s.core m).frames with
      | f :: _ => f.link.toNat
      | [] => 0
    s.startXfer m pc l 2 0 true false
  | 0xD4 => s.startXfer m pc t 0 0 (branchTaken 0 (s.lat m 0xD0)) false
  | 0xD5 => s.startXfer m pc t 0 0 (branchTaken 1 (s.lat m 0xD0)) true
  | 0xD6 => s.startXfer m pc t 0 0 (branchTaken 2 (s.lat m 0xD0)) false
  | 0xD7 => s.startXfer m pc t 0 0 (branchTaken 3 (s.lat m 0xD0)) true
  | 0xD8 => s.startXfer m pc t 3 (t % 65536) true false
  | 0xD9 => s.startXfer m pc 0 4 0 true false
  | _ => (s.setSt m 4 true).startXfer m pc 0 5 0 true false

/-! ### Effects of transfers -/

/-- A frame opened by T_CALL (R290). -/
def Dev.openFrame (s : Dev) (m link : Nat) : Dev :=
  let l := s.lvl m
  s.onCore m (fun c =>
    let b := match c.frames with
      | f :: _ => decide (f.lvl ≠ l)
      | [] => false
    { c with frames := { w := [], link := BitVec.ofNat 64 link, lvl := l, bnd := b } :: c.frames })

/-- The first bundle after a level change issues 12 cycles after the branch bundle, or later (R331). -/
def Dev.levelTime (s : Dev) (m : Nat) (x : PendXfer) : Dev := s.coreTick m (x.issued + 12 - (s.core m).cyc)

/-- SYSCALL takes effect (R322). -/
def Dev.syscallNow (s : Dev) (m : Nat) (x : PendXfer) : Dev :=
  let s := s.drainOps m
  let s := (s.setSr m 0x30 x.link).setSr m 0x31 (s.savedStatus m + (x.data % 65536) * 2 ^ 32)
  let s := (s.savePorts m 0x38).enterTop m
  ((s.breakStream m).setPc m (s.sr m 0x12)).levelTime m x

/-- SYSRET takes effect (R323). -/
def Dev.sysretNow (s : Dev) (m : Nat) (x : PendXfer) : Dev :=
  let s := s.drainOps m
  let s := (s.restoreStatus m (s.sr m 0x31) false).restorePorts m 0x38
  ((s.breakStream m).setPc m (s.sr m 0x30)).levelTime m x

/-- A pending transfer resumed from EDLY or QDLY with the next bundle at pc (R184, R321). -/
def Dev.resumeXfer (s : Dev) (m dly pc : Nat) : Dev :=
  if dly.testBit 0 then
    let two := dly.testBit 2
    let target := toBits 64 (sext 48 (bits dly 51 8 * 16))
    let kind := if bits dly 6 4 < 5 then bits dly 6 4 else 0
    let s := s.cond (decide (kind = 3)) (fun s => s.draw)
    let data := target % 65536 + (if kind = 3 then (Config.lostScode s.freeCtr).toNat else 0)
    let link := pc + (if two then 32 else 16)
    s.onCore m (fun c =>
      { c with xfer := some { target := target, left := if two then 2 else 1, taken := dly.testBit 1, squash := dly.testBit 3,
                              kind := kind, link := link, data := data, issued := c.cyc - (if two then 1 else 2) } })
  else s

/-- The bundle returned to continues its transfer of registers: with EPROG.VALID, where it is the bundle of EPC (R287, R321). -/
def Dev.resumeProg (s : Dev) (m pc : Nat) : Dev :=
  if s.srf m 0x24 18 18 = 1 ∧ pc = s.sr m 0x20 then s.onCore m (fun c => { c with progPc := some (BitVec.ofNat 64 pc) }) else s

/-- ERET takes effect (R321, R325, R329). -/
def Dev.eretNow (s : Dev) (m : Nat) (x : PendXfer) : Dev :=
  let s := s.drainOps m
  if s.stDFL m then
    let s := ((s.restoreStatus m (s.sr m 0x51) true).setSt m 6 false).breakStream m
    ((s.setPc m (s.sr m 0x50)).monLeave m).levelTime m x
  else
    let qb := s.stQB m
    let (pc, dly) := if qb then (s.sr m 0x40, s.sr m 0x45) else (s.sr m 0x20, s.sr m 0x25)
    let s := if qb then (((s.restoreStatus m (s.sr m 0x41) false).restorePorts m 0x48).setSt m 5 false).setSt m 4 false
      else ((s.restoreStatus m (s.sr m 0x21) true).restorePorts m 0x28).setSt m 4 false
    let s := ((s.breakStream m).setPc m pc).resumeProg m pc
    ((s.monLeave m).levelTime m x).resumeXfer m dly pc

/-- The transfer whose delay bundles have passed takes effect, unless it waits for a frame (R290 to R292). -/
def Dev.takeXfer (s : Dev) (m : Nat) (x : PendXfer) : Dev :=
  let done := fun (s : Dev) => s.onCore m (fun c => { c with xfer := none })
  let report := fun (s : Dev) => ((s.cPmu m 0x05 1).traceBranch m (s.pc m)).traceChange m
  if !x.taken then done s
  else match x.kind with
    | 1 => if 8 ≤ s.occupied m then s else report (((done (s.multiSettle m)).openFrame m x.link).setPc m x.target)
    | 2 =>
      if s.occupied m ≤ 1 then s.onCore m (fun c => { c with fill := c.fill || !c.spill })
      else
        let l := match (s.core m).frames with
          | f :: _ => f.link.toNat
          | [] => 0
        report (((done (s.multiSettle m)).onCore m (fun c => { c with frames := c.frames.drop 1 })).setPc m l)
    | 3 => report (s.syscallNow m x)
    | 4 => report ((done s).sysretNow m x)
    | 5 => report ((done s).eretNow m x)
    | _ => report ((done s).setPc m x.target)

/-- What follows a bundle of the sequence: a delay bundle counts down; after the last one fetch stalls six cycles, and the
transfer takes effect (R179, R185). -/
def Dev.afterCore (s : Dev) (m : Nat) (before : Option PendXfer) : Dev :=
  match before with
  | none => s
  | some x =>
    if 1 < x.left then s.onCore m (fun c => { c with xfer := some { x with left := 1 } })
    else
      let s := (s.notAlone m).onCore m (fun c => { c with xfer := some { x with left := 0 } })
      let s := (s.coreTick m 6).cPmu m 0x06 6
      s.takeXfer m { x with left := 0 }

/-! ## System registers (R311 to R313) -/

/-- Whether a number names a system register of processor m (Table 12.1). -/
def srExists (m n : Nat) : Bool :=
  decide (n ≤ 3) || (decide (8 ≤ n) && decide (n ≤ 0xB)) || (decide (0x10 ≤ n) && decide (n ≤ 0x13)) ||
  (decide (0x20 ≤ n) && decide (n ≤ 0x25)) || (decide (0x28 ≤ n) && decide (n ≤ 0x2E)) || decide (n = 0x30) || decide (n = 0x31) ||
  (decide (0x38 ≤ n) && decide (n ≤ 0x3E)) || (decide (0x40 ≤ n) && decide (n ≤ 0x43)) || decide (n = 0x45) ||
  (decide (0x48 ≤ n) && decide (n ≤ 0x4E)) || (decide (0x50 ≤ n) && decide (n ≤ 0x54)) ||
  (decide (0x60 ≤ n) && decide (n ≤ 0x62)) || (decide (0x64 ≤ n) && decide (n ≤ 0x66)) ||
  (decide (0x68 ≤ n) && decide (n ≤ 0x6A) && decide (m = 8)) || decide (n = 0x70)

/-- Mode-class registers (R312). -/
def srMode (n : Nat) : Bool := decide (n = 0) || decide (n = 1) || decide (n = 0x70)

/-- COREID (Table 12.3). -/
def Dev.coreId (s : Dev) (m : Nat) : Nat :=
  if m = 8 then 32 else m + clusterOf m * 8 + ((s.core m).world % 2) * 16

/-- What a system register reads. -/
def Dev.srRead (s : Dev) (m n : Nat) : Nat :=
  if n = 0 then s.statusOf m else if n = 2 then s.coreId m
  else if savedRegs.contains n then setBits (s.sr m n) 8 8 (s.worldBit m) else s.sr m n

/-- Bits of a system register that a write changes (Tables 12.2 to 12.5). -/
def srMask (m n : Nat) : Nat :=
  let all := 2 ^ 64 - 1
  let st := 0x700FC + (if m = 8 then 3 else 1)
  match n with
  | 0x00 => 0x9C
  | 0x01 => 0xF
  | 0x02 => 0
  | 0x03 => 0x7F
  | 0x21 => st
  | 0x31 => st + 0xFFFF * 2 ^ 32
  | 0x41 => st
  | 0x51 => st
  | 0x22 => 0x7FFF
  | 0x42 => 0x37FFF
  | 0x52 => 0x1007FFF
  | 0x24 => 0x7FFFF
  | 0x25 => 0x7F + (2 ^ 44 - 1) * 2 ^ 8
  | 0x45 => 0x7F + (2 ^ 44 - 1) * 2 ^ 8
  | 0x54 => 0
  | 0x70 => (2 ^ 40 - 1) * 2 ^ 12
  | _ => all

/-- A system register written under its mask; an entry address keeps bits [47:4], extended (R313). -/
def Dev.srWrite (s : Dev) (m n v : Nat) : Dev :=
  if 0x10 ≤ n ∧ n ≤ 0x13 then s.setSr m n (toBits 64 (sext 48 (v % 2 ^ 48 / 16 * 16)))
  else
    let k := srMask m n
    s.setSr m n (Nat.lor (Nat.land v k) (Nat.land (s.sr m n) (2 ^ 64 - 1 - k)))

/-- The faults of an SRU trigger (R311, R339). -/
def Dev.sruCheck (s : Dev) (m slot code t : Nat) : List Exc :=
  let n := t % 4096
  let u := decide (s.lvl m = 0)
  if 0xE1 ≤ code ∧ code ≤ 0xE4 then
    (if srExists m n then [] else if u && decide (0x68 ≤ n) && decide (n ≤ 0x6A) then [] else [exc cIllOp slot 0]) ++
      (if u && !(decide (n = 3) || (decide (n = 2) && decide (code = 0xE1))) then [exc cPrivReg slot 0] else [])
  else if 0xE7 ≤ code ∧ u then [exc cPrivReg slot 0]
  else []

/-- Why an SRU trigger waits: a read of FPCTL for FPU operations (R278), a mode-class write for every earlier operation
(R307), TLB maintenance for the store buffer too (R339). -/
def Dev.sruStall (s : Dev) (m code t : Nat) : Option Nat :=
  let c := s.core m
  let n := t % 4096
  if code = 0xE1 ∧ n = 3 ∧ c.fly.any (fun f => decide (f.unit = 3)) then some 0x07
  else if 0xE2 ≤ code ∧ code ≤ 0xE4 ∧ srMode n ∧ c.flying then some 0x0A
  else if 0xE7 ≤ code ∧ (c.flying ∨ c.sb ≠ []) then some 0x0A
  else none

/-- A write of a system register; a mode-class one serializes, and nothing fetched before stays (R307). -/
def Dev.sruWriteGo (s : Dev) (m n v : Nat) : Dev :=
  let s := s.srWrite m n v
  if srMode n then
    let s := s.onCore m (fun c => { c with fq := [], fqN := 0 })
    ((s.coreTick m 11).cPmu m 0x0A 11).traceContext m
  else s

/-- TLB maintenance: entries that `p` selects go, and later bundles are refetched (R339). -/
def Dev.tlbDrop (s : Dev) (m : Nat) (p : TlbEntry → Bool) : Dev :=
  let s := s.onCore m (fun c => { c.tlbOut p with fq := [], fqN := 0 })
  (s.coreTick m 11).cPmu m 0x0A 11

/-- SLEEP stops the core, unless a source that would wake it waits already (R429). -/
def Dev.sleepGo (s : Dev) (m : Nat) : Dev :=
  let s := s.onCore m (fun c => { c with resv := none })
  if s.icWakes m || decide (m < 8) && decide (s.fg F.DBG_CSTAT_HALTREQ m = 1) then s
  else
    let s := s.onCore m (fun c => { c with asleep := true })
    let x := s.trcSrc m
    s.traceMove m 5 (x.pos + x.n) [] false

/-- An SRU trigger takes effect. -/
def Dev.sruGo (s : Dev) (m code t : Nat) : Dev :=
  let n := t % 4096
  let o1 := s.lat m 0xE0
  match code with
  | 0xE1 => s.aLaunch m 6 [(0x48, s.srRead m n)] 2 0
  | 0xE2 => s.sruWriteGo m n o1
  | 0xE3 => s.sruWriteGo m n (Nat.lor (s.srRead m n) o1)
  | 0xE4 => s.sruWriteGo m n (Nat.land (s.srRead m n) (2 ^ 64 - 1 - o1))
  | 0xE5 => (s.onCore m (fun c => { c with flush := true })).startFrames m
  | 0xE6 => s.sleepGo m
  | 0xE7 => s.tlbDrop m (fun e => e.at (t % 2 ^ 48) && (e.glob || decide (e.asid = o1 % 4096)))
  | 0xE8 => s.tlbDrop m (fun e => !e.glob && decide (e.asid = t % 4096))
  | _ => s.tlbDrop m (fun _ => true)

/-! ## Wake (R429, R451) -/

/-- WAKE: a source assigned to a sleeping core waits, or a debug request reaches it. -/
def Dev.wakeNow (s : Dev) (m : Nat) : Dev :=
  if (s.core m).asleep && (s.icWakes m || (decide (m < 8) && decide (s.fg F.DBG_CSTAT_HALTREQ m = 1))) then
    let s := s.coreClock m
    let s := s.onCore m (fun c => { c with asleep := false })
    let x := s.trcSrc m
    let s := s.trcEmit m (s.syncBytes m x.pos) (traceHead 6 m :: leBytes 4 (s.time.now % nsPerSec))
    s.onTrc m (fun x => { x with needSync := true })
  else s

/-! ## The commands -/

/-- INTERRUPT_ENTRY (R314, R315, R317). -/
def execInterruptEntry (m : Nat) (s : State) : Host.Outcome State Fault Refusal :=
  run (wellFormed (.interruptEntry m)) (fun s => s.interruptNow m) s

/-- QUICK_INTERRUPT_ENTRY (R324). -/
def execQuickInterruptEntry (m : Nat) (s : State) : Host.Outcome State Fault Refusal :=
  run (wellFormed (.quickInterruptEntry m)) (fun s => s.quickNow m) s

/-- WAKE (R429). -/
def execWake (m : Nat) (s : State) : Host.Outcome State Fault Refusal :=
  run (wellFormed (.wake m)) (fun s => s.wakeNow m) s

end Sys2Proof.Machine
end

