-- ==== Sys2Proof/Machine/CoreIssue.lean ====
section
/-!
DEFINITION. Sys2Proof/Machine/CoreIssue.lean: an A-profile processor issues a bundle (07 R169 to R185, 11 R286, R288, R298 to
R305, 12 R316 to R319).
-/

namespace Sys2Proof.Machine

/-! ## Sources and destinations -/

/-- CTL.FRM (Table 11.6). -/
def Dev.ctlFrm (s : Dev) (m : Nat) : Nat :=
  let c := s.core m
  c.frames.length + 16 * b2n c.spill + 32 * b2n c.fill + 64 * b2n (s.stQB m)

/-- What a source code reads in the bundle at pc. -/
def Dev.aSource (s : Dev) (m pc : Nat) (bun : Bundle) (src : Nat) : Nat :=
  let g := (s.core m).g
  if src < 0x30 then s.regRead m src
  else if src = 0x46 then
    (match (s.core m).frames with
     | f :: _ => f.link.toNat
     | [] => 0)
  else if src = 0x47 then s.ctlFrm m
  else if src ≤ 0x48 then s.resPort m src
  else if src = 0xF0 then g.toNat
  else if src = 0xF1 then b2n (g.getLsbD 0)
  else if src = 0xF2 then b2n (g.getLsbD 1)
  else if src = 0xF3 then b2n (g.getLsbD 2)
  else if src = 0xF4 then pc
  else if src = 0xFF then bun.limmA.toNat
  else shortImm 64 src

/-- The unit whose result a source code reads, where the read can stall. -/
def aResUnit (src : Nat) : Option Nat :=
  if src = 0x40 then some 0
  else if src = 0x41 then some 1
  else if src = 0x42 ∨ src = 0x43 then some 2
  else if src = 0x44 then some 3
  else if src = 0x45 then some 4
  else if src = 0x48 then some 6
  else none

/-- An operation in flight that a read of its unit's result waits for. -/
def InFlight.pendsOn (f : InFlight) (u : Nat) : Bool :=
  decide (f.unit = u) && decide (f.reg = none) && (decide (f.outs ≠ []) || f.waits)

/-- Some source of a live move waits for an operation (R172). -/
def ACore.resStall (c : ACore) (l : List (Nat × Move)) : Bool :=
  l.any (fun x => match aResUnit x.2.src.toNat with
    | some u => c.fly.any (fun f => f.pendsOn u)
    | none => false)

/-- Some source of a live move is a register that an LDM has still to load (Table 11.11). -/
def Dev.resWaits (s : Dev) (m : Nat) (l : List (Nat × Move)) : Bool :=
  (s.core m).resStall l || l.any (fun x => s.regPends m x.2.src.toNat)

/-- Whether the LSU's Y, for which the bundle stalls, is that of a load that went to DRAM: its latest operation's (R300). -/
def ACore.dramStall (c : ACore) (l : List (Nat × Move)) : Bool :=
  l.any (fun x => decide (x.2.src = 0x45)) && ((c.fly.filter (fun f => f.pendsOn 4)).getLast?).any (fun f => decide (f.kind = 6))

/-- A move's value written into a register, a guard or a latch. -/
def Dev.aWrite (s : Dev) (m dst v : Nat) : Dev :=
  if dst < 0x30 then (s.dropSlot m dst).regWrite m dst v
  else if dst < 0xF0 then s.setLat m dst v
  else if dst = 0xF0 then s.onCore m (fun c => { c with g := BitVec.ofNat 3 v })
  else if dst ≤ 0xF3 then s.onCore m (fun c => { c with g := BitVec.ofNat 3 (setBit c.g.toNat (dst - 0xF1) (decide (v ≠ 0))) })
  else s

/-- A latch as it stands after the writes of a bundle (R170). -/
def Dev.latAfter (s : Dev) (m code : Nat) (vals : List (Nat × Nat × Nat)) : Nat :=
  match vals.find? (fun v => decide (v.2.1 = code)) with
  | some v => v.2.2
  | none => s.lat m code

/-! ## Stalls and faults of a bundle -/

/-- Why a trigger stalls, and the event it counts under (R173). -/
def Dev.trigStall (s : Dev) (m code t : Nat) : Option Nat :=
  match aTrigUnit code with
  | none => none
  | some u =>
    if u = 4 then s.lsuStall m code t
    else if u = 6 then s.sruStall m code t
    else if (s.core m).cyc < s.aFree m u then some 0x08
    else none

/-- The combining buffer is written out for an atomic or a change of the merge setting that waits for it (R282, R357). -/
def Dev.stallHelp (s : Dev) (m code : Nat) : Dev :=
  if isAtomic code || (buffers code && s.mergeWait m) then s.flushCb m else s

/-- Moves that a bundle with LDM or STM may not hold (R286): the lowest slot of one. -/
def multiAlone (l : List (Nat × Move)) : Option Nat :=
  if l.any (fun x => decide (x.2.dst = 0xB9) || decide (x.2.dst = 0xBA)) then
    lowest ((l.filter (fun x => !(decide (0xA0 ≤ x.2.dst.toNat) && decide (x.2.dst.toNat ≤ 0xA2)) &&
      !(decide (x.2.dst = 0xB9) || decide (x.2.dst = 0xBA)))).map (fun x => x.1))
  else none

/-- Moves that name Q0 to Q15 at level U (R169). -/
def userQ (lvl : Nat) (l : List (Nat × Move)) : List Nat :=
  let q := fun (c : Nat) => decide (0x20 ≤ c) && decide (c < 0x30)
  if lvl = 0 then (l.filter (fun x => q x.2.src.toNat || q x.2.dst.toNat)).map (fun x => x.1) else []

/-- Faults of a bundle that need no memory access of the LSU: causes of priority 5 to 7, and those of frame checks. -/
def Dev.plainFaults (s : Dev) (m : Nat) (inDelay : Bool) (bun : Bundle) (live : List (Nat × Move))
    (trig : List (Nat × Nat × Nat)) : Dev × List Exc :=
  let ill := ((bun.delayCtl profileA (s.core m).g inDelay).toList ++ (multiAlone live).toList ++ userQ (s.lvl m) live).map
    (fun k => exc cIllOp k 0)
  let (s, l) := trig.foldl (fun (p : Dev × List Exc) v =>
    match aTrigUnit v.2.1 with
    | some 5 =>
      if inDelay then p
      else (let (s, l) := p.1.ctlCheck m v.1 v.2.1 v.2.2; (s, p.2 ++ l))
    | some 6 =>
      let q := p.2 ++ p.1.sruCheck m v.1 v.2.1 v.2.2
      if v.2.1 = 0xE5 then
        match p.1.flushCheck m v.1 with
        | (s, some x) => (s, q ++ [x])
        | (s, none) => (s, q)
      else (p.1, q)
    | _ => p) (s, ill)
  (s, l)

/-- A triggered operation other than the LSU's starts (R176, step 3). -/
def Dev.aTrig (s : Dev) (m pc code t : Nat) : Dev :=
  match aTrigUnit code with
  | some 0 => s.aIaluStart m 0 (code - 0x41) t
  | some 1 => s.aIaluStart m 1 (code - 0x59) t
  | some 2 => if code ≤ 0x74 then s.aMulStart m (code - 0x71) t else s.aDivStart m (code - 0x75) t
  | some 3 => s.aFpuStart m (code - 0x83)
  | some 5 => s.ctlGo m pc code t
  | some 6 => s.sruGo m code t
  | _ => s

/-- Whether a trigger stores (R305). -/
def storesCode (code : Nat) : Bool :=
  (decide (0xAA ≤ code) && decide (code ≤ 0xAE)) || (decide (0xB0 ≤ code) && decide (code ≤ 0xB8)) || decide (code = 0xBA)

/-- A fault found in the bundle at pc: a watchpoint enters the monitor, anything else is taken as it is. -/
def Dev.raiseExc (s : Dev) (m : Nat) (x : Exc) : Dev :=
  if x.code = cDebug then s.enterDebug m 4 x.which x else s.takeFault m x

/-- Translations checked for spills and fills are dropped once none can need them (R293). -/
def Dev.settleFrames (s : Dev) (m : Nat) : Dev :=
  let s := s.startFrames m
  let c := s.core m
  if c.spill || c.fill || c.flush || c.xfer.isSome then s else s.onCore m (fun c => { c with fsMap := [] })

/-! ## The bundle takes effect (R176) -/

/-- No bundle is to continue a transfer of registers. -/
def Dev.noProg (s : Dev) (m : Nat) : Dev := s.onCore m (fun c => { c with progPc := none })

/-- A bundle passes that is no transfer of registers. -/
def Dev.passBy (s : Dev) (m : Nat) : Dev := (s.notAlone m).noProg m

/-- The moves of the bundle at pc take effect, its operations start, and delay bundles count down; only a transfer of
registers can still fault. -/
def Dev.commitBody (s : Dev) (m pc : Nat) (usedFq : Bool) (live : List (Nat × Move)) (vals trig : List (Nat × Nat × Nat))
    (plan : Option (Nat × Nat × Nat × LsuPlan)) (ops : Nat × Nat × Nat) : Dev × Option Exc :=
  let before := (s.core m).xfer
  let branch := live.any (fun x => profileA.control x.2.dst.toNat)
  let s := (vals.foldl (fun s v => s.aWrite m v.2.1 v.2.2) s).notAlone m
  let (s, x) := match plan with
    | none => (s, none)
    | some (slot, code, t, p) => s.lsuGo m pc slot code ops.1 ops.2.1 ops.2.2 t p
  match x with
  | some x => (s, some x)
  | none =>
    let s := (((s.setPc m ((pc + 16) % 2 ^ 64)).tracePass m pc).noProg m).onCore m (fun c =>
      { c with fqN := if usedFq && branch then 2 else c.fqN - 1 })
    let s := ((s.cPmu m 0x02 1).cPmu m 0x03 live.length).dbgPass m
    let s := trig.foldl (fun s v => s.aTrig m pc v.2.1 v.2.2) s
    (((s.coreTick m 1).afterCore m before).settleFrames m, none)

/-- Address of the bundle that executes next, where a transfer waits for a frame its target. -/
def Dev.nextPc (s : Dev) (m : Nat) : Nat :=
  match (s.core m).xfer with
  | some x =>
    if x.taken && decide (x.left = 0) then
      (if x.kind = 2 then
        (match (s.core m).frames with
         | f :: _ => f.link.toNat
         | [] => 0)
       else x.target)
    else s.pc m
  | none => s.pc m

/-- The bundles from an address on that execute their old contents after a store: the next one and the delay bundles that may
follow it (R305). -/
def oldCode (a : Nat) : List Nat := [a, (a + 16) % 2 ^ 64, (a + 32) % 2 ^ 64]

/-- The bundle at pc takes effect.  With a store in it, the bundles that are to execute their old contents are fetched as they
would be without the store, under the mode that the bundle leaves (R305, R307). -/
def Dev.commitCore (s : Dev) (m pc : Nat) (usedFq : Bool) (live : List (Nat × Move)) (vals trig : List (Nat × Nat × Nat))
    (plan : Option (Nat × Nat × Nat × LsuPlan)) (ops : Nat × Nat × Nat) : Dev :=
  match s.commitBody m pc usedFq live vals trig plan ops with
  | (t, some x) => t.raiseExc m x
  | (t, none) =>
    if trig.any (fun v => storesCode v.2.1) then
      let d := (s.commitBody m pc usedFq live vals trig none ops).1
      let n := if live.any (fun x => profileA.control x.2.dst.toNat) then 2 else 1
      let fq := ((d.prefetchAt m n (oldCode (d.nextPc m))).core m).fq
      t.onCore m (fun c => { c with fq := fq, fqN := n })
    else t

/-- The faults of a bundle whose frame checks have found one: those of its memory access stand beside them (R317). -/
def Dev.withLsu (s : Dev) (m pc : Nat) (faults : List Exc) (lsu : Option (Nat × Nat × Nat)) (o1 : Nat) : List Exc :=
  match faults, lsu with
  | [], _ => []
  | _, none => faults
  | _, some v => faults ++ s.lsuFault m pc v.1 v.2.1 o1 v.2.2

/-- The poison mark of a register, guard or result port in the current frame. -/
def Dev.poisonKey (s : Dev) (m code : Nat) : Nat :=
  if code < 16 then (if s.stQB m then code + 32 else code + 256 * s.occupied m) else code

/-- A run-ahead span starts at the stalled bundle: the checkpoint, and the missing values poisoned (R300). -/
def Dev.startRunAhead (s : Dev) (m : Nat) : Dev :=
  let s := (s.multiStep m true 16).coreStall m 0x07
  let c := s.core m
  let k : Snap := { frames := c.frames, x := c.x, q := c.q, g := c.g, res := c.res, xfer := c.xfer, pc := c.pc,
                    sys := c.sys, resv := c.resv, latch := c.latch, fly := c.fly }
  let regs := (c.fly.filterMap (fun f => f.reg)).map (fun r => s.poisonKey m r)
  s.onCore m (fun c =>
    { c with ra := some k, raCount := 0, raPoison := 0x45 :: regs, raCyc := c.cyc, fly := c.fly.filter (fun f => decide (f.unit ≠ 4)) })

/-- The bundle at pc issues, stalls, or faults. -/
def Dev.issueBundle (s : Dev) (m pc : Nat) (usedFq : Bool) (w : BitVec 128) : Dev :=
  let bun := Bundle.dec w
  let c := s.core m
  let live := bun.live c.g
  match bun.illegal profileA c.g with
  | some k => s.raiseExc m (exc cIllBundle ((lowest (k :: (bun.delayCtl profileA c.g c.xfer.isSome).toList)).getD k) 0)
  | none =>
    if s.resWaits m live then
      if decide (m < 8) && !s.det m && (s.sr m 1).testBit 1 && c.dramStall live && !c.raOver then s.startRunAhead m
      else s.coreStall m 0x07
    else
      let vals := live.map (fun x => (x.1, x.2.dst.toNat, s.aSource m pc bun x.2.src.toNat))
      let trig := vals.filter (fun v => (aTrigUnit v.2.1).isSome)
      match trig.findSome? (fun v => (s.trigStall m v.2.1 v.2.2).map (fun ev => (v.2.1, ev))) with
      | some (code, ev) => (s.stallHelp m code).coreStall m ev
      | none =>
        let (s, faults) := s.plainFaults m c.xfer.isSome bun live trig
        let ops := (s.latAfter m 0xA0 vals, s.latAfter m 0xA1 vals, s.latAfter m 0xA2 vals)
        let lsu := trig.find? (fun v => decide (aTrigUnit v.2.1 = some 4))
        match Exc.first (s.withLsu m pc faults lsu ops.1) with
        | some x => s.raiseExc m x
        | none =>
          match lsu with
          | none => s.commitCore m pc usedFq live vals trig none ops
          | some v =>
            if s.lsuWaits m v.1 v.2.1 ops.1 v.2.2 then s.coreStall m 0x08
            else match (s.noMiss m).lsuCheck m pc v.1 v.2.1 ops.1 ops.2.1 ops.2.2 v.2.2 with
              | (s, .error x) => s.raiseExc m x
              | (s, .ok p) => s.commitCore m pc usedFq live vals trig (some (v.1, v.2.1, v.2.2, p)) ops

/-! ## Run-ahead (R300 to R303) -/

/-- Whether a source code reads poison. -/
def Dev.poisonedSrc (s : Dev) (m code : Nat) : Bool :=
  let l := (s.core m).raPoison
  l.contains (s.poisonKey m code) || (decide (code = 0xF0) && [0xF1, 0xF2, 0xF3].any (fun g => l.contains g))

/-- A mark set or cleared. -/
def Dev.markPoison (s : Dev) (m key : Nat) (b : Bool) : Dev :=
  s.onCore m (fun c => { c with raPoison := (if b then [key] else []) ++ c.raPoison.filter (fun k => decide (k ≠ key)) })

/-- Mark of a latch. -/
def latMark (code : Nat) : Nat := code + 4096

/-- A poisoned or clean value moved to a destination. -/
def Dev.poisonDst (s : Dev) (m dst : Nat) (b : Bool) : Dev :=
  if dst < 0x30 then s.markPoison m (s.poisonKey m dst) b
  else if dst < 0xF0 then s.markPoison m (latMark dst) b
  else if dst = 0xF0 then [0xF1, 0xF2, 0xF3].foldl (fun s g => s.markPoison m g b) s
  else if dst ≤ 0xF3 then s.markPoison m dst b
  else s

/-- A translation in run-ahead: none where it would fault, some none where the page table would have to change (R301). -/
def Dev.raTranslate (s : Dev) (m va : Nat) (a : AccKind) : Dev × Option (Option Phys) :=
  let lvl := s.lvl m
  if !s.stTE m then
    match s.translate m va lvl a with
    | (s, .ok p) => (s, some (some p))
    | (s, .error _) => (s, none)
  else if !canonical va then (s, none)
  else
    let v := va % 2 ^ 48
    let asid := s.srf m 0x70 51 40
    let c := s.core m
    if (c.tlbHit1 v asid a).isSome || (c.tlbHit2 v asid a).isSome then
      match s.translate m va lvl a with
      | (s, .ok p) => (s, some (some p))
      | (s, .error _) => (s, none)
    else
      match s.walkFrom m v 4 0 (s.srf m 0x70 39 12 * 4096) with
      | (s, .error _) => (s, none)
      | (s, .ok (_, e, _)) =>
        if e.testBit 7 && (!a.dirties || e.testBit 8) then
          match s.walk m v lvl a with
          | (s, .ok p) => (s, some (some p))
          | (s, .error _) => (s, none)
        else (s, some none)

/-- Triggers that end run-ahead (R302). -/
def Dev.raEnds (s : Dev) (m code : Nat) : Bool :=
  (decide (0xB9 ≤ code) && decide (code ≤ 0xC2)) || (decide (0xD8 ≤ code) && decide (code ≤ 0xDA)) ||
  (decide (0xE2 ≤ code) && decide (code ≤ 0xE9)) ||
  (decide (code = 0xD2) && (s.stQB m || decide (5 ≤ s.occupied m))) ||
  (decide (code = 0xD3) && (s.stQB m || decide (s.occupied m ≤ 1)))

/-- What run-ahead finds of the place of an access of n bytes: none where it ends the span (a fault, device memory, an access
that a watchpoint would stop), some none where the place is not known. -/
def Dev.raPlace (s : Dev) (m pc : Nat) (x : WatchAcc) (a : AccKind) (strict : Bool) : Dev × Option (Option Place) :=
  let k := min x.n (64 - x.va % 64)
  if strict && decide (x.va % x.n ≠ 0) then (s, none)
  else
    let (s, r1) := s.raTranslate m x.va a
    let (s, r2) := if k < x.n then s.raTranslate m ((x.va + k) % 2 ^ 64) a else (s, r1)
    match r1, r2 with
    | some (some p), some (some q) =>
      if p.mt = 2 ∨ q.mt = 2 ∨ s.pmuRefused m p.pa a ∨ (s.watch m pc 0 x).isSome then (s, none)
      else
        let pas := (List.range k).map (fun i => p.pa + i) ++ (if k < x.n then (List.range (x.n - k)).map (fun i => q.pa + i) else [])
        (s, some (some { pas := pas, mt := max p.mt q.mt }))
    | none, _ => (s, none)
    | _, none => (s, none)
    | _, _ => (s, some none)

/-- A load in run-ahead: the state, and whether the span ends.  One that misses L1 becomes a prefetch of its lines. -/
def Dev.raLoad (s : Dev) (m pc code va : Nat) : Dev × Bool :=
  match s.raPlace m pc { va := va, n := lsuSize code, rd := true, wr := false, val := 0, isDev := false } .load false with
  | (s, none) => (s, true)
  | (s, some none) => (s.markPoison m 0x45 true, false)
  | (s, some (some p)) =>
    let w := s.coreWorld m
    if p.mt ≠ 0 then (s.markPoison m 0x45 true, false)
    else if p.lines.all (fun l => decide (s.loadReach m w l = 0)) then
      let v := leNat (p.pas.map (fun a => s.loadByte m a))
      ((s.aLaunch m 4 [(0x45, loadExtend code v)] (loadLat 0 p.lines.length) 0).markPoison m 0x45 false, false)
    else
      let s := p.lines.foldl (fun s l =>
        if s.loadReach m w l ≠ 0 ∧ s.fetchable m (64 * l) ∧ !s.lineWaits m w l false then ((s.bringLine m l false).1).cPmu m 0x22 1
        else s) s
      (s.markPoison m 0x45 true, false)

/-- A trigger in run-ahead; `bad`: an operand or the trigger value is poisoned. -/
def Dev.raTrig (s : Dev) (m pc code t o1 : Nat) (bad : Bool) : Dev × Bool :=
  let va := (o1 + t) % 2 ^ 64
  match aTrigUnit code with
  | some 4 =>
    if code = 0xC3 then (s, false)
    else if code ≤ 0xA9 then (if bad then (s.markPoison m 0x45 true, false) else s.raLoad m pc code va)
    else
      let s := s.cond (decide (0xAF ≤ code)) (fun s => s.markPoison m 0x45 true)
      if bad then (s, false)
      else
        let a := lsuKind code
        match s.raPlace m pc { va := va, n := lsuSize code, rd := decide (a ≠ .store), wr := a.writes, val := s.lat m 0xA1,
                               isDev := false } a (lsuStrict code) with
        | (s, none) => (s, true)
        | (s, some _) => (s, false)
  | some 5 => if bad then (s, true) else (s.aTrig m pc code t, false)
  | some u =>
    let port := if u = 6 then 0x48 else if u = 2 then 0x42 else if u = 3 then 0x44 else 0x40 + u
    let s := s.aTrig m pc code t
    let s := s.markPoison m port bad
    (s.cond (decide (u = 2)) (fun s => s.markPoison m 0x43 bad), false)
  | none => (s, false)

/-- Operand latches that an operation of the binary64 unit uses (Table 11.4). -/
def fpuOperands (op : Nat) : List Nat :=
  if op = 7 ∨ op = 10 ∨ op = 11 ∨ 15 ≤ op then [0x80]
  else if 3 ≤ op ∧ op ≤ 5 then [0x80, 0x81, 0x82]
  else [0x80, 0x81]

/-- Operand latches that an operation uses. -/
def raOperands (code : Nat) : List Nat :=
  match aTrigUnit code with
  | some 0 => [0x40]
  | some 1 => [0x58]
  | some 2 => [0x70]
  | some 3 => fpuOperands (code - 0x83)
  | some 4 => [0xA0]
  | some 5 => if 0xD4 ≤ code ∧ code ≤ 0xD7 then [0xD0] else []
  | _ => []

/-- A bundle in run-ahead commits into the core's registers only. -/
def Dev.raCommit (s : Dev) (m pc : Nat) (vals : List (Nat × Nat × Nat × Bool)) : Dev :=
  let before := (s.core m).xfer
  let s := vals.foldl (fun s v => (s.aWrite m v.2.1 v.2.2.1).poisonDst m v.2.1 v.2.2.2) s
  let s := s.setPc m ((pc + 16) % 2 ^ 64)
  let trig := vals.filter (fun v => (aTrigUnit v.2.1).isSome)
  let (s, stop) := trig.foldl (fun (p : Dev × Bool) v =>
    if p.2 then p
    else
      let bad := v.2.2.2 || (raOperands v.2.1).any (fun o => (p.1.core m).raPoison.contains (latMark o))
      p.1.raTrig m pc v.2.1 v.2.2.1 (p.1.lat m 0xA0) bad) (s, false)
  if stop then s.endRunAhead m
  else
    let s := (s.onCore m (fun c => { c with raCount := c.raCount + 1 })).cPmu m 0x21 1
    (s.coreTick m 1).afterCore m before

/-- Whether an event is due before the next bundle: a DEBUG event, or an interrupt that can be taken (R317). -/
def Dev.eventDue (s : Dev) (m : Nat) : Bool :=
  (s.debugFirst m).isSome || (s.mayQuick m && (s.icLine m true).isSome) || (s.mayInt m && (s.icLine m false).isSome)

/-- One issue cycle in run-ahead. -/
def Dev.raStep (s : Dev) (m : Nat) : Dev :=
  let c := s.core m
  let pc := s.pc m
  if 512 ≤ c.raCount ∨ c.xfer.any (fun x => decide (x.left = 0)) ∨ (s.endRunAhead m).eventDue m ∨ (s.debugFirst m).isSome then
    s.endRunAhead m
  else if c.xfer.any (fun x => x.squash) then
    let s := s.onCore m (fun c => { c with raCount := c.raCount + 1 })
    (((s.setPc m ((pc + 16) % 2 ^ 64)).cPmu m 0x21 1).coreTick m 1).afterCore m c.xfer
  else match s.raTranslate m pc .fetch with
    | (s, some (some p)) =>
      if !(decide (p.mt ≠ 2) && s.fetchable m p.pa) then s.endRunAhead m
      else match s.fetchPhys m p with
        | (s, none) => s.endRunAhead m
        | (s, some w) =>
          let bun := Bundle.dec w
          let c := s.core m
          let gbad := bun.slots.any (fun x => decide (x.2.guard ≠ 0) && c.raPoison.contains (0xF0 + x.2.guard.toNat % 4))
          let live := bun.live c.g
          if gbad || (bun.illegal profileA c.g).isSome || (bun.delayCtl profileA c.g c.xfer.isSome).isSome ||
              !(userQ (s.lvl m) live).isEmpty || live.any (fun x => s.raEnds m x.2.dst.toNat) then s.endRunAhead m
          else if s.resWaits m live then s.coreTick m 1
          else
            let vals := live.map (fun x =>
              (x.1, x.2.dst.toNat, s.aSource m pc bun x.2.src.toNat, s.poisonedSrc m x.2.src.toNat))
            let bad := vals.any (fun v =>
              (decide (aTrigUnit v.2.1 = some 5) && decide (v.2.1 ≠ 0xD3) && decide (v.2.2.1 % 16 ≠ 0)) ||
              (decide (v.2.1 = 0xE1) && !v.2.2.2 && !(s.sruCheck m v.1 v.2.1 v.2.2.1).isEmpty))
            if bad then s.endRunAhead m
            else if vals.any (fun v => match aTrigUnit v.2.1 with
                | some u => decide ((s.core m).cyc < s.aFree m u)
                | none => false) then s.coreTick m 1
            else s.raCommit m pc vals
    | (s, _) => s.endRunAhead m

/-! ## The boundary before a bundle -/

/-- Whether the next bundle waits for a barrier or a FLUSHW: the event it counts under. -/
def ACore.fenceWait (c : ACore) : Option Nat :=
  if c.flush && decide (1 < c.frames.length) then some 0x0B
  else if c.loadFence && c.loading then some 0x08
  else if c.storeFence && !(c.sb.isEmpty && c.cb.isEmpty) then some 0x08
  else none

/-- What the next bundle waited for is over. -/
def Dev.passFence (s : Dev) (m : Nat) : Dev :=
  s.onCore m (fun c => { c with loadFence := false, storeFence := false, flush := c.flush && decide (1 < c.frames.length) })

/-- The bundle at the PC attempts to issue. -/
def Dev.issueCore (s : Dev) (m : Nat) : Dev :=
  let c := s.core m
  let pc := s.pc m
  match c.fenceWait with
  | some ev => s.coreStall m ev
  | none =>
    let s := s.passFence m
    if s.trcStalls m then s.coreTick m 1
    else if c.xfer.any (fun x => x.squash) then
      let s := ((s.setPc m ((pc + 16) % 2 ^ 64)).tracePass m pc).cPmu m 0x04 1
      let s := (s.passBy m).onCore m (fun c => { c with fqN := c.fqN - 1 })
      ((s.coreTick m 1).afterCore m c.xfer).settleFrames m
    else match s.debugFirst m with
      | some s => s
      | none =>
        if s.mayQuick m && (s.icLine m true).isSome then s.enterQ m (exc cQuick 0 0)
        else if s.mayInt m && (s.icLine m false).isSome then s.takeInt m
        else
          let used := (c.queued pc).isSome
          match s.fetchNext m pc with
          | (s, .error x) => s.raiseExc m x
          | (s, .ok w) => s.issueBundle m pc used w

/-- One issue cycle of processor m. -/
def Dev.bundleNow (s : Dev) (m : Nat) : Dev :=
  if !s.coreLive m then s
  else
    let s := s.coreSync m
    if (s.core m).ra.isSome then s.raStep m
    else
      let s := match (s.core m).xfer with
        | some x => if x.left = 0 then s.takeXfer m x else s
        | none => s
      if (s.core m).xfer.any (fun x => decide (x.left = 0)) then (s.coreStall m 0x0B).settleFrames m
      else s.issueCore m

/-- The bundle that a trigger by itself stands for: the one before the PC; a transfer of registers that the bundle at the PC is
to continue is that bundle. -/
def Dev.trigPc (s : Dev) (m code : Nat) : Nat :=
  if (decide (code = 0xB9) || decide (code = 0xBA)) && (s.core m).resumes (s.pc m) then s.pc m
  else (s.pc m + 2 ^ 64 - 16) % 2 ^ 64

/-- A trigger by itself: as if the bundle before the PC had made it, with the latches as they stand. -/
def Dev.trigOp (s : Dev) (m code : Nat) (t : DWord) : Dev :=
  if !s.coreLive m || (s.core m).ra.isSome then s
  else
    let s := s.coreSync m
    let t := t.toNat
    match (s.core m).fenceWait with
    | some ev => s.coreStall m ev
    | none =>
      let s := s.passFence m
      let pc := s.trigPc m code
      match s.trigStall m code t with
      | some ev => (s.stallHelp m code).coreStall m ev
      | none =>
        let inDelay := (s.core m).xfer.isSome
        let none' : Bundle := { hdr := 0, moves := [], imm := 0 }
        let (s, faults) := s.plainFaults m inDelay none' [] [(0, code, t)]
        let late := if inDelay && profileA.control code then [exc cIllOp 0 0] else []
        match Exc.first (late ++ faults) with
        | some x => (s.setPc m pc).raiseExc m x
        | none =>
          if aTrigUnit code = some 4 then
            let (o1, o2, o3) := (s.lat m 0xA0, s.lat m 0xA1, s.lat m 0xA2)
            if s.lsuWaits m 0 code o1 t then s.coreStall m 0x08
            else match (s.noMiss m).lsuCheck m pc 0 code o1 o2 o3 t with
              | (s, .error x) => (s.setPc m pc).raiseExc m x
              | (s, .ok p) =>
                let next := (pc + 16) % 2 ^ 64
                let s := s.cond (storesCode code) (fun s => s.prefetchAt m 1 (oldCode next))
                match (s.notAlone m).lsuGo m pc 0 code o1 o2 o3 t p with
                | (s, some x) => (s.setPc m pc).raiseExc m x
                | (s, none) => (s.setPc m next).noProg m
          else ((s.passBy m).aTrig m pc code t).settleFrames m

/-- An operation of a processor completes (R172): the clock goes on to its cycle; data from beyond the L2 arrive, and a
run-ahead under that miss ends (R302). -/
def Dev.coreOpComplete (s : Dev) (m idx : Nat) : Dev :=
  let s := s.endRunAhead m
  let s := s.coreSync m
  match (s.core m).fly[idx]? with
  | none => s
  | some f =>
    let c := s.core m
    let s := s.coreTick m (f.ready - c.cyc)
    s.completeOp m idx

/-! ## The commands -/

/-- A_BUNDLE: one issue cycle of processor m (R176, R298, R317). -/
def execABundle (m : Nat) (s : State) : Host.Outcome State Fault Refusal :=
  run (wellFormed (.aBundle m)) (fun s => s.bundleNow m) s

/-- RUN_AHEAD_END: the span ends, and the checkpoint is restored (R302, R303). -/
def execRunAheadEnd (m : Nat) (s : State) : Host.Outcome State Fault Refusal :=
  run (wellFormed (.runAheadEnd m)) (fun s => s.endRunAhead m) s

/-- A_LOAD: load operation op, LDB to LDD in code order (R279). -/
def execALoad (m u op : Nat) (t : DWord) (s : State) : Host.Outcome State Fault Refusal :=
  run (wellFormed (.aLoad m u op t)) (fun s => s.trigOp m (0xA3 + op) t) s

/-- A_STORE: store operation op, STB to STD (R279, R283). -/
def execAStore (m u op : Nat) (t : DWord) (s : State) : Host.Outcome State Fault Refusal :=
  run (wellFormed (.aStore m u op t)) (fun s => s.trigOp m (0xAA + op) t) s

/-- A_ATOMIC: atomic operation op, AADD to ACAS (R282). -/
def execAAtomic (m op : Nat) (t : DWord) (s : State) : Host.Outcome State Fault Refusal :=
  run (wellFormed (.aAtomic m op t)) (fun s => s.trigOp m (0xB1 + op) t) s

/-- A_BRANCH: conditional branch of a kind, BZ, BZA, BNZ, BNZA (R288). -/
def execABranch (m kind : Nat) (t : DWord) (s : State) : Host.Outcome State Fault Refusal :=
  run (wellFormed (.aBranch m kind t)) (fun s => s.trigOp m (0xD4 + kind) t) s

/-- A_STNT (R283, R355). -/
def execAStnt (m : Nat) (t : DWord) (s : State) : Host.Outcome State Fault Refusal :=
  run (wellFormed (.aStnt m t)) (fun s => s.trigOp m 0xAE t) s

/-- A_LDX (R281). -/
def execALdx (m : Nat) (t : DWord) (s : State) : Host.Outcome State Fault Refusal :=
  run (wellFormed (.aLdx m t)) (fun s => s.trigOp m 0xAF t) s

/-- A_STX (R281). -/
def execAStx (m : Nat) (t : DWord) (s : State) : Host.Outcome State Fault Refusal :=
  run (wellFormed (.aStx m t)) (fun s => s.trigOp m 0xB0 t) s

/-- A_LDM (R285 to R287). -/
def execALdm (m : Nat) (t : DWord) (s : State) : Host.Outcome State Fault Refusal :=
  run (wellFormed (.aLdm m t)) (fun s => s.trigOp m 0xB9 t) s

/-- A_STM (R285 to R287). -/
def execAStm (m : Nat) (t : DWord) (s : State) : Host.Outcome State Fault Refusal :=
  run (wellFormed (.aStm m t)) (fun s => s.trigOp m 0xBA t) s

/-- A_FENCE_L (R349). -/
def execAFenceL (m : Nat) (t : DWord) (s : State) : Host.Outcome State Fault Refusal :=
  run (wellFormed (.aFenceL m t)) (fun s => s.trigOp m 0xBB t) s

/-- A_FENCE_S (R349). -/
def execAFenceS (m : Nat) (t : DWord) (s : State) : Host.Outcome State Fault Refusal :=
  run (wellFormed (.aFenceS m t)) (fun s => s.trigOp m 0xBC t) s

/-- A_FENCE_LS (R349). -/
def execAFenceLs (m : Nat) (t : DWord) (s : State) : Host.Outcome State Fault Refusal :=
  run (wellFormed (.aFenceLs m t)) (fun s => s.trigOp m 0xBD t) s

/-- A_IFENCE (R349, R305). -/
def execAIfence (m : Nat) (t : DWord) (s : State) : Host.Outcome State Fault Refusal :=
  run (wellFormed (.aIfence m t)) (fun s => s.trigOp m 0xBE t) s

/-- A_DCCLN (R362). -/
def execADccln (m : Nat) (t : DWord) (s : State) : Host.Outcome State Fault Refusal :=
  run (wellFormed (.aDccln m t)) (fun s => s.trigOp m 0xBF t) s

/-- A_DCINV (R362). -/
def execADcinv (m : Nat) (t : DWord) (s : State) : Host.Outcome State Fault Refusal :=
  run (wellFormed (.aDcinv m t)) (fun s => s.trigOp m 0xC0 t) s

/-- A_DCCI (R362). -/
def execADcci (m : Nat) (t : DWord) (s : State) : Host.Outcome State Fault Refusal :=
  run (wellFormed (.aDcci m t)) (fun s => s.trigOp m 0xC1 t) s

/-- A_ICINV (R362). -/
def execAIcinv (m : Nat) (t : DWord) (s : State) : Host.Outcome State Fault Refusal :=
  run (wellFormed (.aIcinv m t)) (fun s => s.trigOp m 0xC2 t) s

/-- A_PREF (R284). -/
def execAPref (m : Nat) (t : DWord) (s : State) : Host.Outcome State Fault Refusal :=
  run (wellFormed (.aPref m t)) (fun s => s.trigOp m 0xC3 t) s

/-- A_JMP (R288). -/
def execAJmp (m : Nat) (t : DWord) (s : State) : Host.Outcome State Fault Refusal :=
  run (wellFormed (.aJmp m t)) (fun s => s.trigOp m 0xD1 t) s

/-- A_CALL (R290, R293). -/
def execACall (m : Nat) (t : DWord) (s : State) : Host.Outcome State Fault Refusal :=
  run (wellFormed (.aCall m t)) (fun s => s.trigOp m 0xD2 t) s

/-- A_RET (R290, R294). -/
def execARet (m : Nat) (t : DWord) (s : State) : Host.Outcome State Fault Refusal :=
  run (wellFormed (.aRet m t)) (fun s => s.trigOp m 0xD3 t) s

/-- A_SYSCALL (R322). -/
def execASyscall (m : Nat) (t : DWord) (s : State) : Host.Outcome State Fault Refusal :=
  run (wellFormed (.aSyscall m t)) (fun s => s.trigOp m 0xD8 t) s

/-- A_SYSRET (R323). -/
def execASysret (m : Nat) (t : DWord) (s : State) : Host.Outcome State Fault Refusal :=
  run (wellFormed (.aSysret m t)) (fun s => s.trigOp m 0xD9 t) s

/-- A_ERET (R321). -/
def execAEret (m : Nat) (t : DWord) (s : State) : Host.Outcome State Fault Refusal :=
  run (wellFormed (.aEret m t)) (fun s => s.trigOp m 0xDA t) s

/-- A_SRU_RD (R311). -/
def execASruRd (m : Nat) (t : DWord) (s : State) : Host.Outcome State Fault Refusal :=
  run (wellFormed (.aSruRd m t)) (fun s => s.trigOp m 0xE1 t) s

/-- A_SRU_WR (R311, R312). -/
def execASruWr (m : Nat) (t : DWord) (s : State) : Host.Outcome State Fault Refusal :=
  run (wellFormed (.aSruWr m t)) (fun s => s.trigOp m 0xE2 t) s

/-- A_SRU_SET (R311). -/
def execASruSet (m : Nat) (t : DWord) (s : State) : Host.Outcome State Fault Refusal :=
  run (wellFormed (.aSruSet m t)) (fun s => s.trigOp m 0xE3 t) s

/-- A_SRU_CLR (R311). -/
def execASruClr (m : Nat) (t : DWord) (s : State) : Host.Outcome State Fault Refusal :=
  run (wellFormed (.aSruClr m t)) (fun s => s.trigOp m 0xE4 t) s

/-- A_FLUSHW (R295). -/
def execAFlushw (m : Nat) (t : DWord) (s : State) : Host.Outcome State Fault Refusal :=
  run (wellFormed (.aFlushw m t)) (fun s => s.trigOp m 0xE5 t) s

/-- A_SLEEP (R429). -/
def execASleep (m : Nat) (t : DWord) (s : State) : Host.Outcome State Fault Refusal :=
  run (wellFormed (.aSleep m t)) (fun s => s.trigOp m 0xE6 t) s

/-- A_TLBIVA (R339). -/
def execATlbiva (m : Nat) (t : DWord) (s : State) : Host.Outcome State Fault Refusal :=
  run (wellFormed (.aTlbiva m t)) (fun s => s.trigOp m 0xE7 t) s

/-- A_TLBIASID (R339). -/
def execATlbiasid (m : Nat) (t : DWord) (s : State) : Host.Outcome State Fault Refusal :=
  run (wellFormed (.aTlbiasid m t)) (fun s => s.trigOp m 0xE8 t) s

/-- A_TLBIALL (R339). -/
def execATlbiall (m : Nat) (t : DWord) (s : State) : Host.Outcome State Fault Refusal :=
  run (wellFormed (.aTlbiall m t)) (fun s => s.trigOp m 0xE9 t) s

/-- OPERATION_COMPLETE: operation idx in flight of processor proc: 0 to 63 the engines, 64 to 71 the application cores, 72
the SVP (R172, R195, R275). -/
def execOperationComplete (proc idx : Nat) (s : State) : Host.Outcome State Fault Refusal :=
  run (wellFormed (.operationComplete proc idx)) (fun s =>
    if proc < 64 then
      match (s.eng proc).fly[idx]? with
      | some f => (s.moveClk f.ready).commitDue proc
      | none => s
    else s.coreOpComplete (proc - 64) idx) s

end Sys2Proof.Machine
end

