-- ==== Sys2Proof/Machine/DebugPort.lean ====
section
/-!
DEFINITION. Sys2Proof/Machine/DebugPort.lean: the test access port, the debug master and the mailbox (17 R438 to R443).
-/

namespace Sys2Proof.Machine

/-! ## The ZDP register (R438, R439, Tables 17.1 to 17.3) -/

/-- Status codes of Table 17.3. -/
def zOK : Nat := 0
def zError : Nat := 2
def zDenied : Nat := 3
def zNoPwr : Nat := 4
def zBadOp : Nat := 5
def zMbFull : Nat := 6

/-- The response to a request: its status, its address, its read data. -/
def Dev.zAnswer (s : Dev) (status addr : Nat) (data : Nat) : Dev :=
  { s with zdp := { s.zdp with instr := 8, status := status, addr := addr, data := BitVec.ofNat 64 data } }

/-- What IDCODE captures (Table 17.1). -/
def idCode : Nat := 1 + 0x36D * 2 + 0x6464 * 2 ^ 12 + Config.dieRev.toNat * 2 ^ 28

/-- The 112-bit transaction register as Capture-DR loads it for ZDP (Table 17.2). -/
def Dev.zdpCapture (s : Dev) : Nat := s.zdp.status + s.zdp.addr % 2 ^ 40 * 2 ^ 8 + s.zdp.data.toNat * 2 ^ 48

/-- An event of the port: it has none while PD01 is off. -/
def Dev.atPort (s : Dev) (f : Dev → Dev) : Dev := if s.domOn 1 then f s else s

/-- TAP_RESET: Test-Logic-Reset, with IDCODE selected (R438). -/
def execTapReset (s : State) : Host.Outcome State Fault Refusal :=
  run (wellFormed .tapReset) (fun s => s.atPort (fun s => { s with zdp := { s.zdp with instr := 2 } })) s

/-- ZDP_NOP (R439). -/
def execZdpNop (s : State) : Host.Outcome State Fault Refusal :=
  run (wellFormed .zdpNop) (fun s => s.atPort (fun s => s.zAnswer zOK 0 0)) s

/-! ## The debug master (R443) -/

/-- Whether the unlock grants a target window: an engine's or a hive's by its world, SVP memory at level 3 (Table 14.4). -/
def Dev.windowGranted (s : Dev) (pa : Nat) : Bool :=
  match target pa with
  | .eng e _ => s.unlockReach (s.engWorld e)
  | .hsm h _ => s.unlockReach (s.hiveWorld h)
  | .rom _ | .ram _ => s.unlockReach 2
  | _ => true

/-- The address of a request: with INC the one that follows the previous completed access. -/
def Dev.zAddr (s : Dev) (inc : Bool) (addr : Nat) : Nat := (if inc then s.zdp.next else addr) % 2 ^ 40

/-- An access of the debug master: refused as BADOP, NOPWR or DENIED, or made, with ERROR for an error response. -/
def Dev.zAccess (s : Dev) (bad inc : Bool) (world addr size : Nat) (f : Dev → Nat → Dev) : Dev :=
  let a := s.zAddr inc addr
  if bad || decide (world = 3) || decide (a % size ≠ 0) then s.zAnswer zBadOp a 0
  else if !s.domOn 31 then s.zAnswer zNoPwr a 0
  else if !s.unlockReach world || !s.windowGranted a then s.zAnswer zDenied a 0
  else
    let t := f s a
    if t.resp.err then t.zAnswer zError a 0
    else
      let t := t.zAnswer zOK a t.resp.val.toNat
      { t with zdp := { t.zdp with next := a + size } }

/-- A read of the debug master. -/
def Dev.zRead (s : Dev) (peek inc : Bool) (world addr size : Nat) : Dev :=
  s.zAccess false inc world addr size (fun s a => s.readAt { port := 17, world := world, peek := peek } a size)

/-- A write of the debug master; PEEK with a write is no operation. -/
def Dev.zWrite (s : Dev) (peek inc : Bool) (world addr size data : Nat) : Dev :=
  s.zAccess peek inc world addr size (fun s a => s.writeAt { port := 17, world := world } a size data)

/-- ZDP_READ4 (R443). -/
def execZdpRead4 (peek inc : Bool) (world addr : Nat) (s : State) : Host.Outcome State Fault Refusal :=
  run (wellFormed (.zdpRead4 peek inc world addr)) (fun s => s.atPort (fun s => s.zRead peek inc world addr 4)) s

/-- ZDP_WRITE4 (R443). -/
def execZdpWrite4 (peek inc : Bool) (world addr : Nat) (data : Word) (s : State) : Host.Outcome State Fault Refusal :=
  run (wellFormed (.zdpWrite4 peek inc world addr data)) (fun s =>
    s.atPort (fun s => s.zWrite peek inc world addr 4 data.toNat)) s

/-- ZDP_READ8 (R443). -/
def execZdpRead8 (peek inc : Bool) (world addr : Nat) (s : State) : Host.Outcome State Fault Refusal :=
  run (wellFormed (.zdpRead8 peek inc world addr)) (fun s => s.atPort (fun s => s.zRead peek inc world addr 8)) s

/-- ZDP_WRITE8 (R443). -/
def execZdpWrite8 (peek inc : Bool) (world addr : Nat) (data : DWord) (s : State) : Host.Outcome State Fault Refusal :=
  run (wellFormed (.zdpWrite8 peek inc world addr data)) (fun s =>
    s.atPort (fun s => s.zWrite peek inc world addr 8 data.toNat)) s

/-! ## Mailbox requests (R439, R440, R442) -/

/-- MBWR: four bytes of MBI, while no message is in progress. -/
def Dev.zMbwr (s : Dev) (word : Nat) (data : DWord) : Dev :=
  if s.lcs.mbBusy.isSome then s.zAnswer zMbFull (4 * word) 0
  else ({ s with lcs := { s.lcs with mbi := mbPut s.lcs.mbi (4 * word) (leBytes 4 data.toNat) } } : Dev).zAnswer zOK (4 * word) 0

/-- Four bytes of MBO. -/
def Dev.mboWord (s : Dev) (word : Nat) : Nat := leNat ((List.range 4).map (fun i => SMap.get (fun _ => 0) s.lcs.mbo (4 * word + i)))

/-- A message handed over: answered by the LCS hardware while the supervisor is down or restarting (R442), at once for a
code or an ENGINE operation that Table 17.4 does not list, and left to the firmware otherwise. -/
def Dev.mbGo (s : Dev) (code : Nat) : Dev :=
  let sub := leNat (s.mbiBytes 0 1)
  if s.fg F.SVP_STAT_DOWN 0 = 1 then s.mbReply code stSvpDown []
  else if s.svp.restarting then s.mbReply code stSvpRestart []
  else if code = 0 ∨ 5 < code then s.mbReply code stBadOpcode []
  else if code = 5 ∧ (sub = 0 ∨ 3 < sub) then s.mbReply code stBadParam []
  else { s with lcs := { s.lcs with mbBusy := some code, mboWait := false } }

/-- ZDP_MBWR (R439). -/
def execZdpMbwr (word : Nat) (data : DWord) (s : State) : Host.Outcome State Fault Refusal :=
  run (wellFormed (.zdpMbwr word data)) (fun s => s.atPort (fun s => s.zMbwr word data)) s

/-- ZDP_MBRD (R439). -/
def execZdpMbrd (word : Nat) (s : State) : Host.Outcome State Fault Refusal :=
  run (wellFormed (.zdpMbrd word)) (fun s => s.atPort (fun s => s.zAnswer zOK (4 * word) (s.mboWord word))) s

/-- ZDP_MBGO (R440, R442). -/
def execZdpMbgo (code : Nat) (s : State) : Host.Outcome State Fault Refusal :=
  run (wellFormed (.zdpMbgo code)) (fun s => s.atPort (fun s =>
    if s.lcs.mbBusy.isSome then s.zAnswer zMbFull 0 0 else (s.mbGo code).zAnswer zOK 0 0)) s

/-! ## Messages served (R440, R441) -/

/-- The ROM answers after a boot that found no SVP firmware, for Jalbiros-key debug: only in BLANK and RETURN (R61). -/
def Dev.romAnswers (s : Dev) : Bool :=
  s.svp.bootFail && decide (s.fg F.LCS_BOOT_FAIL 0 = 1) && (decide (s.lcs.state = 0) || decide (s.lcs.state = 3))

/-- The diagnostic stub of a module in END runs (R67). -/
def Dev.stubRuns (s : Dev) : Bool := decide (s.lcs.state = 4) && s.svp.bootFail

/-- The message in progress served, if it has this code: by the firmware, by the ROM of a failed boot, or by the stub of END,
which takes a Jalbiros-key exchange alone (R67); a message where Table 3.6 has a dash is refused, IDENT apart. -/
def Dev.mbServe (s : Dev) (code : Nat) (f : Dev → Dev) : Dev :=
  if s.domOn 1 ∧ s.lcs.mbBusy = some code then
    if s.fwRuns ∨ s.romAnswers then
      if code ≠ 1 ∧ debugGrant s.lcs.state s.mode = 0 then s.mbReply code stDenied [] else f s
    else if s.stubRuns then
      if code = 2 ∨ code = 3 then f s else s.mbReply code stDenied []
    else s
  else s

/-- The highest level that a request may name: Table 3.6's, and any in front of the stub, which grants none of them. -/
def Dev.levelMost (s : Dev) : Nat := if s.stubRuns then 3 else debugGrant s.lcs.state s.mode

/-- What identifies the module: DIEID, life-cycle state, mode, firmware version. -/
def Dev.identBytes (s : Dev) : List Byte :=
  leBytes 8 s.lcs.dieId.toNat ++ leBytes 1 s.lcs.state ++ leBytes 1 s.mode ++ leBytes 4 (s.rd .SVP_FWVER 0).toNat

/-- IDENT. -/
def Dev.mbIdent (s : Dev) : Dev := s.mbReply 1 stOK s.identBytes

/-- IDENT (R440). -/
def execIdent (s : State) : Host.Outcome State Fault Refusal :=
  run (wellFormed .ident) (fun s => s.mbServe 1 Dev.mbIdent) s

/-- How long a challenge is valid, and a lockout lasts, in clocks (R441). -/
def sixtySeconds : Nat := 60 * nsPerSec

/-- Whether the mailbox is locked out. -/
def Dev.lockedOut (s : Dev) : Bool :=
  match s.lcs.lockAt with
  | some t => decide (s.clk < t + sixtySeconds)
  | none => false

/-- What ZDPSTAT captures (Table 17.1); a transaction ends within its step, so no request is ever in progress. -/
def Dev.zdpStat (s : Dev) : Nat :=
  b2n (s.domOn 31) + 2 * s.fg F.LCS_DBG_UNLOCK 0 + 8 * s.mode + 64 * s.lcs.state + 512 * b2n s.lcs.mboWait +
    1024 * b2n s.lcs.mbBusy.isSome + 4096 * b2n s.lockedOut

/-- CHALLENGE: a challenge from the random source replaces any other. -/
def Dev.mbChallenge (s : Dev) : Dev :=
  let level := leNat (s.mbiBytes 0 1)
  if s.lockedOut then s.mbReply 2 stBusy []
  else if level = 0 ∨ 3 < level then s.mbReply 2 stBadParam []
  else if s.levelMost < level then s.mbReply 2 stDenied []
  else
    let n := Config.random128 s.freeCtr
    let k := s.clk
    let t : Dev := { s with lcs := { s.lcs with chal := some (n, k) } }
    t.draw.mbReply 2 stOK (leBytes 8 s.lcs.dieId.toNat ++ leBytes 16 n.toNat)

/-- CHALLENGE (R441). -/
def execChallenge (s : State) : Host.Outcome State Fault Refusal :=
  run (wellFormed .challenge) (fun s => s.mbServe 2 Dev.mbChallenge) s

/-- A refusal with AUTH_FAIL or BAD_KEY; the third in a row locks the mailbox out. -/
def Dev.mbRefusal (s : Dev) (status : Nat) : Dev :=
  let n := s.lcs.refusals + 1
  let k := s.clk
  let t : Dev := { s with lcs := { s.lcs with refusals := n, lockAt := if 3 ≤ n then some k else s.lcs.lockAt } }
  t.mbReply 3 status []

/-- The stub's answer to a Jalbiros-key request: its status, with what identifies the module and LCS_BOOT; it grants no access
(R67; DESIGN CHOICE, log 74). -/
def Dev.stubStatus (s : Dev) : Dev :=
  ({ s with lcs := { s.lcs with refusals := 0 } } : Dev).mbReply 3 stOK (s.identBytes ++ leBytes 4 (s.rd .LCS_BOOT 0).toNat)

/-- An unlock granted: the level, PD31 on, DBG_EVT.OPEN. -/
def Dev.openUnlock (s : Dev) (level : Nat) : Dev :=
  let s := s.wdgSyncAll
  let s := ({ s with lcs := { s.lcs with refusals := 0 } } : Dev).fs F.LCS_DBG_UNLOCK 0 level
  let s := if s.domOn 31 then s.setEvt 257 F.DBG_EVT_OPEN 0 else s.seqPut [(true, 31)]
  s.mbReply 3 stOK (leBytes 1 level)

/-- The challenge while it is valid. -/
def Dev.validChal (s : Dev) : Option (BitVec 128) :=
  match s.lcs.chal with
  | some (n, t) => if s.clk < t + sixtySeconds then some n else none
  | none => none

/-- UNLOCK: the envelope in MBI, with the challenge as its nonce; the challenge is spent whatever comes of it. -/
def Dev.mbUnlock (s : Dev) : Dev :=
  let b := s.mbiBytes 0 256
  let level := objNat b 0xCD 1
  let chal := s.validChal
  let s : Dev := { s with lcs := { s.lcs with chal := none } }
  if level = 0 ∨ 3 < level then s.mbReply 3 stBadParam []
  else if s.levelMost < level ∨ (s.lcs.state = 2 ∧ level = 2 ∧ s.fg F.LCS_DBG_UNLOCK 0 = 0) then
    s.mbReply 3 stDenied []
  else match chal with
    | none => s.mbRefusal stAuthFail
    | some n =>
      match s.envelopeWith (debugSlots s.lcs.state level) (leBytes 1 level) (leBytes 16 n.toNat) b with
      | some st => s.mbRefusal st
      | none => if s.stubRuns then s.stubStatus else s.openUnlock level

/-- UNLOCK (R441). -/
def execUnlock (s : State) : Host.Outcome State Fault Refusal :=
  run (wellFormed .unlock) (fun s => s.mbServe 3 Dev.mbUnlock) s

/-- CLOSE (R69, R441). -/
def execClose (s : State) : Host.Outcome State Fault Refusal :=
  run (wellFormed .close) (fun s => s.mbServe 4 (fun s => s.endUnlock.mbReply 4 stOK [])) s

/-- CHALLENGE_EXPIRY: 60 s after the challenge (R441). -/
def execChallengeExpiry (s : State) : Host.Outcome State Fault Refusal :=
  run (wellFormed .challengeExpiry) (fun s =>
    match s.lcs.chal with
    | some (_, t) =>
      let s := s.moveClk (t + sixtySeconds)
      { s with lcs := { s.lcs with chal := none } }
    | none => s) s

/-- LOCKOUT_END: 60 s after the third refusal (R441). -/
def execLockoutEnd (s : State) : Host.Outcome State Fault Refusal :=
  run (wellFormed .lockoutEnd) (fun s =>
    match s.lcs.lockAt with
    | some t =>
      let s := s.moveClk (t + sixtySeconds)
      { s with lcs := { s.lcs with lockAt := none, refusals := 0 } }
    | none => s) s

/-! ## ENGINE (R238 to R240, Table 17.4) -/

/-- A byte of the ENGINE message. -/
def Dev.mbArg (s : Dev) (i : Nat) : Nat := leNat (s.mbiBytes (4 + i) 1)

/-- The ENGINE message in progress served, if it names operation `sub`. -/
def Dev.mbEngine (s : Dev) (sub : Nat) (f : Dev → Dev) : Dev :=
  if leNat (s.mbiBytes 0 1) = sub then s.mbServe 5 f else s

/-- An operation on engine e: it exists, its hive is on, and the unlock covers its world. -/
def Dev.mbOnEngine (s : Dev) (e : Nat) (f : Dev → Dev) : Dev :=
  if 64 ≤ e then s.mbReply 5 stBadParam []
  else if !s.domOn (9 + e / 8) then s.mbReply 5 stNotReady []
  else if !s.unlockReach (s.engWorld e) then s.mbReply 5 stDenied []
  else f s

/-- ENGINE ENGBRK: engine, slot, bundle address, enable, as DEBUG ENGBRK gives them. -/
def Dev.mbEngbrk (s : Dev) : Dev :=
  let e := s.mbArg 0
  let slot := s.mbArg 1
  let addr := leNat (s.mbiBytes 6 2)
  let en := s.mbArg 4
  s.mbOnEngine e (fun s =>
    if 2 ≤ slot ∨ 8192 ≤ addr ∨ 2 ≤ en then s.mbReply 5 stBadParam []
    else ((s.fs F.PE_BRK_ADDR (2 * e + slot) addr).fs F.PE_BRK_EN (2 * e + slot) en).mbReply 5 stOK [])

/-- ENGINE_ENGBRK (R238). -/
def execEngineEngbrk (s : State) : Host.Outcome State Fault Refusal :=
  run (wellFormed .engineEngbrk) (fun s => s.mbEngine 1 Dev.mbEngbrk) s

/-- ENGINE STEP: hive mask and ticks; step mode is entered in TEST alone (R240). -/
def Dev.mbStep (s : Dev) : Dev :=
  let hs := onesBelow 8 (s.mbArg 0)
  let ticks := leNat (s.mbiBytes 6 2)
  if s.mode ≠ 4 then s.mbReply 5 stBadMode []
  else if hs.any (fun h => !s.unlockReach (s.hiveWorld h)) then s.mbReply 5 stDenied []
  else
    let n := s.tickIn20us
    (s.each hs (fun s h => s.onHive h (fun x => { x with stepStart := some (n, ticks) }))).mbReply 5 stAccepted []

/-- ENGINE_STEP (R240). -/
def execEngineStep (s : State) : Host.Outcome State Fault Refusal :=
  run (wellFormed .engineStep) (fun s => s.mbEngine 2 Dev.mbStep) s

/-- ENGINE RELEASE: an engine and the mask of contexts to release from DEBUG. -/
def Dev.mbRelease (s : Dev) : Dev :=
  let e := s.mbArg 0
  let mask := s.mbArg 1
  s.mbOnEngine e (fun s => (s.each (onesBelow 8 mask) (fun s c => s.releaseCtx e c)).mbReply 5 stOK [])

/-- ENGINE_RELEASE (R239). -/
def execEngineRelease (s : State) : Host.Outcome State Fault Refusal :=
  run (wellFormed .engineRelease) (fun s => s.mbEngine 3 Dev.mbRelease) s

end Sys2Proof.Machine
end

