-- ==== Sys2Proof/Machine/PowerDrain.lean ====
section
/-!
DEFINITION. Sys2Proof/Machine/PowerDrain.lean: the drains of application-core domains before a cut (02 R29, R30, R43; 04 R95).
-/

namespace Sys2Proof.Machine

/-- A core's store buffer and combining buffer emptied (R30). -/
def Dev.drainCore (s : Dev) (m : Nat) : Dev := (s.performAll m (fun _ => true) 48).flushCb m

/-- Domain d drained and cut cleanly. -/
def Dev.drainCut (s : Dev) (d : Nat) : Dev :=
  let s := s.cond (decide (18 ≤ d) && decide (d ≤ 25)) (fun s => s.drainCore (d - 18))
  s.cutDom d true

/-- DOMAIN_DRAIN_DONE: the drain of the domain being cut completes, once what it waits for is over (R29). -/
def execDomainDrainDone (s : State) : Host.Outcome State Fault Refusal :=
  run (wellFormed .domainDrainDone) (fun s =>
    match s.pwr.act with
    | some (false, d) => if s.drainOpen d then s else (s.drainCut d).seqDone
    | _ => s) s

/-- The instant in PWR_HUTIME. -/
def Dev.huTime (s : Dev) : Nat :=
  let t := s.rd64 .PWR_HUTIME_LO .PWR_HUTIME_HI 0
  t / 2 ^ 30 * nsPerSec + t % 2 ^ 30

/-- The end of the drain window: every core on is drained and cut, those in `slow` uncleanly, 64 us not having sufficed; then
step 3 begins, and every long command outstanding ends (R43, R95). -/
def Dev.windowEnd (s : Dev) (slow : List Nat) : Dev :=
  let s := if s.pwr.winEnd then s else s.moveTo (s.huTime + (s.fg F.PWR_HUCFG_ACWIN 0 + 1) * 250000)
  let s := s.each s.coresOn (fun s m => if slow.contains m then s.cutDom (18 + m) false else s.drainCut (18 + m))
  (s.dropLongs stAbortedHoldup).huStep 3

/-- HOLDUP_DRAIN_WINDOW_END (R43). -/
def execHoldupDrainWindowEnd (slow : List Nat) (s : State) : Host.Outcome State Fault Refusal :=
  run (wellFormed (.holdupDrainWindowEnd slow)) (fun s =>
    if s.mode = 5 ∧ s.fg F.PWR_STAT_HUSTEP 0 = 2 then s.windowEnd slow else s) s

end Sys2Proof.Machine
end

