-- ==== Sys2Proof/Machine/Dispatch.lean ====
section
/-!
DEFINITION. Sys2Proof/Machine/Dispatch.lean: the effect of each command, one arm per row of the table.
-/

namespace Sys2Proof.Machine

/-- The effect of a command on everything but the queue. -/
def exec (i : Instr) (s : State) : Host.Outcome State Fault Refusal :=
  match i with
  | .inputQualification => Sys2Proof.Machine.execInputQualification s
  | .inputLoss => Sys2Proof.Machine.execInputLoss s
  | .bulkWarn => Sys2Proof.Machine.execBulkWarn s
  | .bulkLow => Sys2Proof.Machine.execBulkLow s
  | .pwrHuack rq v => Sys2Proof.Machine.execPwrHuack rq v s
  | .holdupDrainWindowEnd slow => Sys2Proof.Machine.execHoldupDrainWindowEnd slow s
  | .holdupWriteBackDone => Sys2Proof.Machine.execHoldupWriteBackDone s
  | .holdupJournalFlushDone => Sys2Proof.Machine.execHoldupJournalFlushDone s
  | .holdupReturn => Sys2Proof.Machine.execHoldupReturn s
  | .shutdownDomainCuts => Sys2Proof.Machine.execShutdownDomainCuts s
  | .pd00Stop => Sys2Proof.Machine.execPd00Stop s
  | .mrstNPulse ns => Sys2Proof.Machine.execMrstNPulse ns s
  | .wakeSequencer => Sys2Proof.Machine.execWakeSequencer s
  | .pwrDon rq half v => Sys2Proof.Machine.execPwrDon rq half v s
  | .pwrDoff rq half v => Sys2Proof.Machine.execPwrDoff rq half v s
  | .domainPowerGood => Sys2Proof.Machine.execDomainPowerGood s
  | .domainDrainDone => Sys2Proof.Machine.execDomainDrainDone s
  | .drainLimit => Sys2Proof.Machine.execDrainLimit s
  | .lockstepMismatch cause => Sys2Proof.Machine.execLockstepMismatch cause s
  | .svpRestartComplete => Sys2Proof.Machine.execSvpRestartComplete s
  | .bootStep trained => Sys2Proof.Machine.execBootStep trained s
  | .bootwaitExpiry => Sys2Proof.Machine.execBootwaitExpiry s
  | .cmdDb rq ring v => Sys2Proof.Machine.execCmdDb rq ring v s
  | .cmdPhead rq ring v => Sys2Proof.Machine.execCmdPhead rq ring v s
  | .cmdRseq rq ring v => Sys2Proof.Machine.execCmdRseq rq ring v s
  | .cmdRctlRst rq ring v => Sys2Proof.Machine.execCmdRctlRst rq ring v s
  | .ringService => Sys2Proof.Machine.execRingService s
  | .longCommandCompletion idx => Sys2Proof.Machine.execLongCommandCompletion idx s
  | .modeSet h mode => Sys2Proof.Machine.execModeSet h mode s
  | .modeGet h => Sys2Proof.Machine.execModeGet h s
  | .domainOn h mask => Sys2Proof.Machine.execDomainOn h mask s
  | .domainOff h mask => Sys2Proof.Machine.execDomainOff h mask s
  | .worldAssign h cores hives world => Sys2Proof.Machine.execWorldAssign h cores hives world s
  | .worldStart h core entry => Sys2Proof.Machine.execWorldStart h core entry s
  | .worldRegion h region world base size => Sys2Proof.Machine.execWorldRegion h region world base size s
  | .worldRingcfg h ring world system => Sys2Proof.Machine.execWorldRingcfg h ring world system s
  | .castLoad h engine bulk => Sys2Proof.Machine.execCastLoad h engine bulk s
  | .castHalt h engine => Sys2Proof.Machine.execCastHalt h engine s
  | .castRun h engine => Sys2Proof.Machine.execCastRun h engine s
  | .bindSet h engine context cls k policy => Sys2Proof.Machine.execBindSet h engine context cls k policy s
  | .bindClear h engine context => Sys2Proof.Machine.execBindClear h engine context s
  | .streamTable h bulk => Sys2Proof.Machine.execStreamTable h bulk s
  | .streamEnable h stream on => Sys2Proof.Machine.execStreamEnable h stream on s
  | .streamSimsel h stream on => Sys2Proof.Machine.execStreamSimsel h stream on s
  | .combConfig h channels depth lag fill => Sys2Proof.Machine.execCombConfig h channels depth lag fill s
  | .setsStage h mask bulk => Sys2Proof.Machine.execSetsStage h mask bulk s
  | .pourGroup h group mask => Sys2Proof.Machine.execPourGroup h group mask s
  | .pourArm h group tick => Sys2Proof.Machine.execPourArm h group tick s
  | .pourDisarm h group => Sys2Proof.Machine.execPourDisarm h group s
  | .tripgatePair h pair policy pp enable => Sys2Proof.Machine.execTripgatePair h pair policy pp enable s
  | .tripgateSolo h pair voter => Sys2Proof.Machine.execTripgateSolo h pair voter s
  | .tripgateMap h bulk => Sys2Proof.Machine.execTripgateMap h bulk s
  | .publishTable h bulk => Sys2Proof.Machine.execPublishTable h bulk s
  | .publishEnable h block on => Sys2Proof.Machine.execPublishEnable h block on s
  | .timeSource h prio => Sys2Proof.Machine.execTimeSource h prio s
  | .timeFreerun h permit => Sys2Proof.Machine.execTimeFreerun h permit s
  | .timeRate h code => Sys2Proof.Machine.execTimeRate h code s
  | .timeUtcofs h ofs => Sys2Proof.Machine.execTimeUtcofs h ofs s
  | .journalMark h text => Sys2Proof.Machine.execJournalMark h text s
  | .journalSeal h record => Sys2Proof.Machine.execJournalSeal h record s
  | .journalTrigger h hives pre => Sys2Proof.Machine.execJournalTrigger h hives pre s
  | .keysRevoke h slot bulk => Sys2Proof.Machine.execKeysRevoke h slot bulk s
  | .keysArb h counter bulk => Sys2Proof.Machine.execKeysArb h counter bulk s
  | .keysSealput h slot bulk => Sys2Proof.Machine.execKeysSealput h slot bulk s
  | .lifeGo h target bulk => Sys2Proof.Machine.execLifeGo h target bulk s
  | .healthThresh h monitor warn alarm => Sys2Proof.Machine.execHealthThresh h monitor warn alarm s
  | .healthPolicy h monitor action => Sys2Proof.Machine.execHealthPolicy h monitor action s
  | .healthRead h monitor => Sys2Proof.Machine.execHealthRead h monitor s
  | .resetRing h ring => Sys2Proof.Machine.execResetRing h ring s
  | .resetHive h hive => Sys2Proof.Machine.execResetHive h hive s
  | .resetCore h core => Sys2Proof.Machine.execResetCore h core s
  | .resetModule h => Sys2Proof.Machine.execResetModule h s
  | .debugEngbrk h engine slot addr enable => Sys2Proof.Machine.execDebugEngbrk h engine slot addr enable s
  | .debugStep h hives ticks => Sys2Proof.Machine.execDebugStep h hives ticks s
  | .modeSwitch => Sys2Proof.Machine.execModeSwitch s
  | .tmbMeas rq v => Sys2Proof.Machine.execTmbMeas rq v s
  | .irigFrame f => Sys2Proof.Machine.execIrigFrame f s
  | .ppsInEdge => Sys2Proof.Machine.execPpsInEdge s
  | .timeSourceLoss src => Sys2Proof.Machine.execTimeSourceLoss src s
  | .holdoverLimit => Sys2Proof.Machine.execHoldoverLimit s
  | .leapSecond => Sys2Proof.Machine.execLeapSecond s
  | .ppsOutPulse => Sys2Proof.Machine.execPpsOutPulse s
  | .ppsOutEnd => Sys2Proof.Machine.execPpsOutEnd s
  | .tick => Sys2Proof.Machine.execTick s
  | .half => Sys2Proof.Machine.execHalf s
  | .rateChange => Sys2Proof.Machine.execRateChange s
  | .tkgCtlArm rq v => Sys2Proof.Machine.execTkgCtlArm rq v s
  | .timerCount k => Sys2Proof.Machine.execTimerCount k s
  | .tmrCntRead rq k => Sys2Proof.Machine.execTmrCntRead rq k s
  | .tsuSwtrig rq half v => Sys2Proof.Machine.execTsuSwtrig rq half v s
  | .svFrame port f => Sys2Proof.Machine.execSvFrame port f s
  | .gooseFrame port f => Sys2Proof.Machine.execGooseFrame port f s
  | .validityWindowClose g => Sys2Proof.Machine.execValidityWindowClose g s
  | .streamSwitch => Sys2Proof.Machine.execStreamSwitch s
  | .combWindowRead rq off size => Sys2Proof.Machine.execCombWindowRead rq off size s
  | .eBundle e => Sys2Proof.Machine.execEBundle e s
  | .operationComplete proc idx => Sys2Proof.Machine.execOperationComplete proc idx s
  | .eIaluOp e u op t => Sys2Proof.Machine.execEIaluOp e u op t s
  | .eFmacOp e u op t => Sys2Proof.Machine.execEFmacOp e u op t s
  | .eDsqDiv e t => Sys2Proof.Machine.execEDsqDiv e t s
  | .eDsqSqrt e t => Sys2Proof.Machine.execEDsqSqrt e t s
  | .eRotOp e op t => Sys2Proof.Machine.execERotOp e op t s
  | .eSdftCfg e t => Sys2Proof.Machine.execESdftCfg e t s
  | .eSdftUpd e t => Sys2Proof.Machine.execESdftUpd e t s
  | .eSdftRd e t => Sys2Proof.Machine.execESdftRd e t s
  | .eSdftLoad e t => Sys2Proof.Machine.execESdftLoad e t s
  | .eLoopArm e l t => Sys2Proof.Machine.execELoopArm e l t s
  | .eLoopClr e t => Sys2Proof.Machine.execELoopClr e t s
  | .eJmp e t => Sys2Proof.Machine.execEJmp e t s
  | .eCall e t => Sys2Proof.Machine.execECall e t s
  | .eBranch e kind t => Sys2Proof.Machine.execEBranch e kind t s
  | .eDone e t => Sys2Proof.Machine.execEDone e t s
  | .eTrip e t => Sys2Proof.Machine.execETrip e t s
  | .eEvt e t => Sys2Proof.Machine.execEEvt e t s
  | .eDmaGet e t => Sys2Proof.Machine.execEDmaGet e t s
  | .eDmaPut e t => Sys2Proof.Machine.execEDmaPut e t s
  | .eDmaStat e t => Sys2Proof.Machine.execEDmaStat e t s
  | .dmaTransferEnd h err => Sys2Proof.Machine.execDmaTransferEnd h err s
  | .eLsuLoad e size t => Sys2Proof.Machine.execELsuLoad e size t s
  | .eLsuStore e size t => Sys2Proof.Machine.execELsuStore e size t s
  | .eSetRead e size t => Sys2Proof.Machine.execESetRead e size t s
  | .eHsmLoad e size t => Sys2Proof.Machine.execEHsmLoad e size t s
  | .eHsmStore e size t => Sys2Proof.Machine.execEHsmStore e size t s
  | .eHsmMail e t => Sys2Proof.Machine.execEHsmMail e t s
  | .eCmbRead e t => Sys2Proof.Machine.execECmbRead e t s
  | .hiveMail e => Sys2Proof.Machine.execHiveMail e s
  | .hivMail rq h v => Sys2Proof.Machine.execHivMail rq h v s
  | .contextSwitch e => Sys2Proof.Machine.execContextSwitch e s
  | .peCtlHalt rq e v => Sys2Proof.Machine.execPeCtlHalt rq e v s
  | .peCtlRun rq e v => Sys2Proof.Machine.execPeCtlRun rq e v s
  | .engineStart e => Sys2Proof.Machine.execEngineStart e s
  | .programMemoryWrite rq e off size data => Sys2Proof.Machine.execProgramMemoryWrite rq e off size data s
  | .peDbgRelease rq e v => Sys2Proof.Machine.execPeDbgRelease rq e v s
  | .setPgArm rq g v => Sys2Proof.Machine.execSetPgArm rq g v s
  | .shadowBankWrite rq e off size data => Sys2Proof.Machine.execShadowBankWrite rq e off size data s
  | .setValid rq half v => Sys2Proof.Machine.execSetValid rq half v s
  | .publishPoint k => Sys2Proof.Machine.execPublishPoint k s
  | .gooseRetransmission b => Sys2Proof.Machine.execGooseRetransmission b s
  | .journalFlush => Sys2Proof.Machine.execJournalFlush s
  | .lostRecord => Sys2Proof.Machine.execLostRecord s
  | .mramScrub flips => Sys2Proof.Machine.execMramScrub flips s
  | .journalWindowRead rq off size => Sys2Proof.Machine.execJournalWindowRead rq off size s
  | .disturbanceCaptureStart => Sys2Proof.Machine.execDisturbanceCaptureStart s
  | .disturbanceCaptureEnd => Sys2Proof.Machine.execDisturbanceCaptureEnd s
  | .icAssign n => Sys2Proof.Machine.execIcAssign n s
  | .icClaim rq t => Sys2Proof.Machine.execIcClaim rq t s
  | .icQclaim rq t => Sys2Proof.Machine.execIcQclaim rq t s
  | .icCompl rq t v => Sys2Proof.Machine.execIcCompl rq t v s
  | .icRearm rq v => Sys2Proof.Machine.execIcRearm rq v s
  | .icPset rq w v => Sys2Proof.Machine.execIcPset rq w v s
  | .interruptEntry m => Sys2Proof.Machine.execInterruptEntry m s
  | .quickInterruptEntry m => Sys2Proof.Machine.execQuickInterruptEntry m s
  | .wake m => Sys2Proof.Machine.execWake m s
  | .wdgSvc rq w v => Sys2Proof.Machine.execWdgSvc rq w v s
  | .wdgWarning w => Sys2Proof.Machine.execWdgWarning w s
  | .wdgExpiry w => Sys2Proof.Machine.execWdgExpiry w s
  | .wdgLock rq w v => Sys2Proof.Machine.execWdgLock rq w v s
  | .aBundle m => Sys2Proof.Machine.execABundle m s
  | .runAheadEnd m => Sys2Proof.Machine.execRunAheadEnd m s
  | .aIaluOp m u op t => Sys2Proof.Machine.execAIaluOp m u op t s
  | .aMduMul m op t => Sys2Proof.Machine.execAMduMul m op t s
  | .aMduDiv m op t => Sys2Proof.Machine.execAMduDiv m op t s
  | .aFpuOp m u op t => Sys2Proof.Machine.execAFpuOp m u op t s
  | .aFpuDivSqrt m u op t => Sys2Proof.Machine.execAFpuDivSqrt m u op t s
  | .aLoad m u op t => Sys2Proof.Machine.execALoad m u op t s
  | .aStore m u op t => Sys2Proof.Machine.execAStore m u op t s
  | .aStnt m t => Sys2Proof.Machine.execAStnt m t s
  | .aLdx m t => Sys2Proof.Machine.execALdx m t s
  | .aStx m t => Sys2Proof.Machine.execAStx m t s
  | .aAtomic m op t => Sys2Proof.Machine.execAAtomic m op t s
  | .aLdm m t => Sys2Proof.Machine.execALdm m t s
  | .aStm m t => Sys2Proof.Machine.execAStm m t s
  | .aFenceL m t => Sys2Proof.Machine.execAFenceL m t s
  | .aFenceS m t => Sys2Proof.Machine.execAFenceS m t s
  | .aFenceLs m t => Sys2Proof.Machine.execAFenceLs m t s
  | .aIfence m t => Sys2Proof.Machine.execAIfence m t s
  | .aDccln m t => Sys2Proof.Machine.execADccln m t s
  | .aDcinv m t => Sys2Proof.Machine.execADcinv m t s
  | .aDcci m t => Sys2Proof.Machine.execADcci m t s
  | .aIcinv m t => Sys2Proof.Machine.execAIcinv m t s
  | .aPref m t => Sys2Proof.Machine.execAPref m t s
  | .aJmp m t => Sys2Proof.Machine.execAJmp m t s
  | .aCall m t => Sys2Proof.Machine.execACall m t s
  | .aRet m t => Sys2Proof.Machine.execARet m t s
  | .aBranch m kind t => Sys2Proof.Machine.execABranch m kind t s
  | .aSyscall m t => Sys2Proof.Machine.execASyscall m t s
  | .aSysret m t => Sys2Proof.Machine.execASysret m t s
  | .aEret m t => Sys2Proof.Machine.execAEret m t s
  | .aSruRd m t => Sys2Proof.Machine.execASruRd m t s
  | .aSruWr m t => Sys2Proof.Machine.execASruWr m t s
  | .aSruSet m t => Sys2Proof.Machine.execASruSet m t s
  | .aSruClr m t => Sys2Proof.Machine.execASruClr m t s
  | .aFlushw m t => Sys2Proof.Machine.execAFlushw m t s
  | .aSleep m t => Sys2Proof.Machine.execASleep m t s
  | .aTlbiva m t => Sys2Proof.Machine.execATlbiva m t s
  | .aTlbiasid m t => Sys2Proof.Machine.execATlbiasid m t s
  | .aTlbiall m t => Sys2Proof.Machine.execATlbiall m t s
  | .frameSpill m => Sys2Proof.Machine.execFrameSpill m s
  | .frameFill m => Sys2Proof.Machine.execFrameFill m s
  | .storePerformed m idx => Sys2Proof.Machine.execStorePerformed m idx s
  | .combiningWriteOut m => Sys2Proof.Machine.execCombiningWriteOut m s
  | .homeSliceRequest rq => Sys2Proof.Machine.execHomeSliceRequest rq s
  | .snoop cluster line kind => Sys2Proof.Machine.execSnoop cluster line kind s
  | .lineHoldEnd line => Sys2Proof.Machine.execLineHoldEnd line s
  | .deadAgent agent => Sys2Proof.Machine.execDeadAgent agent s
  | .nocFwWrite rq r w v => Sys2Proof.Machine.execNocFwWrite rq r w v s
  | .dramRequest port pa write hintOpen wait => Sys2Proof.Machine.execDramRequest port pa write hintOpen wait s
  | .dramCommandIssue c idx flips => Sys2Proof.Machine.execDramCommandIssue c idx flips s
  | .refresh c => Sys2Proof.Machine.execRefresh c s
  | .activateTableClear c => Sys2Proof.Machine.execActivateTableClear c s
  | .rowIdleClose c b => Sys2Proof.Machine.execRowIdleClose c b s
  | .patrolScrub c flips => Sys2Proof.Machine.execPatrolScrub c flips s
  | .dmcMaskWrite rq off v => Sys2Proof.Machine.execDmcMaskWrite rq off v s
  | .ethReceive p f => Sys2Proof.Machine.execEthReceive p f s
  | .ethTransmit p => Sys2Proof.Machine.execEthTransmit p s
  | .linkChange p up => Sys2Proof.Machine.execLinkChange p up s
  | .ethTxtail rq p v => Sys2Proof.Machine.execEthTxtail rq p v s
  | .ethRxtail rq p v => Sys2Proof.Machine.execEthRxtail rq p v s
  | .duplicateEntryExpiry pair => Sys2Proof.Machine.execDuplicateEntryExpiry pair s
  | .supervisionFrame pair => Sys2Proof.Machine.execSupervisionFrame pair s
  | .hsrForward p => Sys2Proof.Machine.execHsrForward p s
  | .tickFrame l => Sys2Proof.Machine.execTickFrame l s
  | .cardFrame l f => Sys2Proof.Machine.execCardFrame l f s
  | .linkLoss l => Sys2Proof.Machine.execLinkLoss l s
  | .symbolLockLoss l => Sys2Proof.Machine.execSymbolLockLoss l s
  | .tapReset => Sys2Proof.Machine.execTapReset s
  | .zdpNop => Sys2Proof.Machine.execZdpNop s
  | .zdpRead4 peek inc world addr => Sys2Proof.Machine.execZdpRead4 peek inc world addr s
  | .zdpWrite4 peek inc world addr data => Sys2Proof.Machine.execZdpWrite4 peek inc world addr data s
  | .zdpRead8 peek inc world addr => Sys2Proof.Machine.execZdpRead8 peek inc world addr s
  | .zdpWrite8 peek inc world addr data => Sys2Proof.Machine.execZdpWrite8 peek inc world addr data s
  | .zdpMbwr word data => Sys2Proof.Machine.execZdpMbwr word data s
  | .zdpMbrd word => Sys2Proof.Machine.execZdpMbrd word s
  | .zdpMbgo code => Sys2Proof.Machine.execZdpMbgo code s
  | .ident => Sys2Proof.Machine.execIdent s
  | .challenge => Sys2Proof.Machine.execChallenge s
  | .unlock => Sys2Proof.Machine.execUnlock s
  | .close => Sys2Proof.Machine.execClose s
  | .engineEngbrk => Sys2Proof.Machine.execEngineEngbrk s
  | .engineStep => Sys2Proof.Machine.execEngineStep s
  | .engineRelease => Sys2Proof.Machine.execEngineRelease s
  | .challengeExpiry => Sys2Proof.Machine.execChallengeExpiry s
  | .lockoutEnd => Sys2Proof.Machine.execLockoutEnd s
  | .dbgCreqStop rq m v => Sys2Proof.Machine.execDbgCreqStop rq m v s
  | .dbgDtxWrite rq m v => Sys2Proof.Machine.execDbgDtxWrite rq m v s
  | .dbgDtxRead rq m => Sys2Proof.Machine.execDbgDtxRead rq m s
  | .dbgDrxWrite rq m v => Sys2Proof.Machine.execDbgDrxWrite rq m v s
  | .dbgDrxRead rq m => Sys2Proof.Machine.execDbgDrxRead rq m s
  | .trcClear rq v => Sys2Proof.Machine.execTrcClear rq v s
  | .trcSw rq m v => Sys2Proof.Machine.execTrcSw rq m v s
  | .hltSample n v => Sys2Proof.Machine.execHltSample n v s
  | .errValidClear rq j v => Sys2Proof.Machine.execErrValidClear rq j v s
  | .reg64LoRead rq addr => Sys2Proof.Machine.execReg64LoRead rq addr s
  | .reg64HiRead rq addr => Sys2Proof.Machine.execReg64HiRead rq addr s
  | .readClearsRead rq addr => Sys2Proof.Machine.execReadClearsRead rq addr s
  | .registerWrite rq addr size v => Sys2Proof.Machine.execRegisterWrite rq addr size v s
  | .symbolLockAcquired l => Sys2Proof.Machine.execSymbolLockAcquired l s
  | .frameTransmissionComplete p => Sys2Proof.Machine.execFrameTransmissionComplete p s
  | .ptpInterval p kind => Sys2Proof.Machine.execPtpInterval p kind s

end Sys2Proof.Machine
end

