-- ==== Sys2Proof/Machine/Step.lean ====
section
/-!
DEFINITION. Sys2Proof/Machine/Step.lean: one step of the block.
The queue holds the commands that are waiting, first in, first out.  On an empty queue one clock of the 1 GHz PLL passes, and
the timebase advances with it (log 1).
-/

namespace Sys2Proof.Machine

/-- The command at the front of the queue, or one clock (log 1). -/
def step (s : State) : Host.Outcome State Fault Refusal :=
  match s.pending with
  | [] => .next { s with dev := s.dev.moveClk (s.dev.clk + 1) }
  | c :: rest => exec c { s with pending := rest }

/-- The command that a word spells by the table's bits put at the front of the queue: the table gives no row bits, so no
word spells one (Decode.lean), and the state is unchanged. -/
def State.withFetchWord (s : State) (nbits w : Nat) : State :=
  match decodeTableWord nbits w with
  | some c => { s with pending := c :: s.pending }
  | none => s

end Sys2Proof.Machine
end

