-- ==== Sys2Proof/Safety.lean ====
section
/-!
DEFINITION. Sys2Proof/Safety.lean: what counts as a safe run.  No rule of the spec stops the block, so a run is safe when it
never stops: a step stops on an ill-formed command alone, which the block never receives.
-/

namespace Sys2Proof.Safety

open Sys2Proof.Machine

/-- Every command that waits is well-formed. -/
def QueueOk (s : State) : Prop := ∀ c ∈ s.pending, wellFormed c = true

/-- k steps from s stop nowhere. -/
def Runs (k : Nat) (s : State) : Prop := ∃ t, Sys2Proof.core.run k s = .next t

/-! ## Commands -/

/-- The header and the opcode of a command of Table 4.5. -/
def commandOf (i : Instr) : Option (CmdHdr × Nat) :=
  match i with
  | .modeSet h _ => some (h, 0x0101)
  | .modeGet h => some (h, 0x0102)
  | .domainOn h _ => some (h, 0x0201)
  | .domainOff h _ => some (h, 0x0202)
  | .worldAssign h _ _ _ => some (h, 0x0301)
  | .worldStart h _ _ => some (h, 0x0302)
  | .worldRegion h _ _ _ _ => some (h, 0x0303)
  | .worldRingcfg h _ _ _ => some (h, 0x0304)
  | .castLoad h _ _ => some (h, 0x0401)
  | .castHalt h _ => some (h, 0x0402)
  | .castRun h _ => some (h, 0x0403)
  | .bindSet h _ _ _ _ _ => some (h, 0x0501)
  | .bindClear h _ _ => some (h, 0x0502)
  | .streamTable h _ => some (h, 0x0601)
  | .streamEnable h _ _ => some (h, 0x0602)
  | .streamSimsel h _ _ => some (h, 0x0603)
  | .combConfig h _ _ _ _ => some (h, 0x0701)
  | .setsStage h _ _ => some (h, 0x0801)
  | .pourGroup h _ _ => some (h, 0x0901)
  | .pourArm h _ _ => some (h, 0x0902)
  | .pourDisarm h _ => some (h, 0x0903)
  | .tripgatePair h _ _ _ _ => some (h, 0x0A01)
  | .tripgateSolo h _ _ => some (h, 0x0A02)
  | .tripgateMap h _ => some (h, 0x0A03)
  | .publishTable h _ => some (h, 0x0B01)
  | .publishEnable h _ _ => some (h, 0x0B02)
  | .timeSource h _ => some (h, 0x0C01)
  | .timeFreerun h _ => some (h, 0x0C02)
  | .timeRate h _ => some (h, 0x0C03)
  | .timeUtcofs h _ => some (h, 0x0C04)
  | .journalMark h _ => some (h, 0x0D01)
  | .journalSeal h _ => some (h, 0x0D02)
  | .journalTrigger h _ _ => some (h, 0x0D03)
  | .keysRevoke h _ _ => some (h, 0x0E01)
  | .keysArb h _ _ => some (h, 0x0E02)
  | .keysSealput h _ _ => some (h, 0x0E03)
  | .lifeGo h _ _ => some (h, 0x0F01)
  | .healthThresh h _ _ _ => some (h, 0x1001)
  | .healthPolicy h _ _ => some (h, 0x1002)
  | .healthRead h _ => some (h, 0x1003)
  | .resetRing h _ => some (h, 0x1101)
  | .resetHive h _ => some (h, 0x1102)
  | .resetCore h _ => some (h, 0x1103)
  | .resetModule h => some (h, 0x1104)
  | .debugEngbrk h _ _ _ _ => some (h, 0x1201)
  | .debugStep h _ _ => some (h, 0x1202)
  | _ => none

/-- Firmware serves ring r, which has room for the reply, and no fence holds the command back (R85). -/
def Served (s : Dev) (h : CmdHdr) : Prop :=
  s.ringUp h.ring = true ∧ s.ringHasRoom h.ring = true ∧ s.proxyStatus = none ∧ s.fwRuns = true ∧
    (h.fence = true → s.ringLongs h.ring = 0)

/-- The registers that an access to memory may write: the error logs, the home slices' counts and events, and the pending
interrupts. -/
def logNames : List RName :=
  [.ERR_STAT, .ERR_ADDR_LO, .ERR_ADDR_HI, .ERR_INFO, .ERR_TIME_LO, .ERR_TIME_HI, .ERR_OVF, .IC_PSET, .HN_FWCNT, .HN_EVT,
   .HN_BACKINV]

/-- Firmware takes the command, and the rules that all commands share refuse nothing: the expected SEQ, the ring's world,
the class, the mode, fewer than four long commands (R78, R79, R86, R89). -/
def Taken (s : Dev) (h : CmdHdr) (op : Nat) : Prop :=
  Served s h ∧ s.rd .CMD_RSEQ h.ring = BitVec.ofNat 32 h.seq ∧ h.world = s.ringWorld h.ring ∧
    ∃ (sys long : Bool) (n : Nat) (modes : List Nat), opInfo op = some (sys, long, n, modes) ∧ n ≤ 112 ∧
      (sys = true → s.ringSys h.ring = true) ∧ s.modeIn modes = true ∧ (long = true → s.ringLongs h.ring < 4)

/-- The module with the command taken: its ring is the one served last, no stall stands, and the ring expects the next SEQ. -/
def atHead (s : Dev) (h : CmdHdr) (op : Nat) : Dev := (s.servedNow h.ring).seqNext ⟨h, op⟩

/-- Engine e can be named by the command, and lies in a hive that is on (R90, R91). -/
def MayEngine (d : Dev) (c : Cid) (e : Nat) (r91 : Bool) : Prop :=
  e < 64 ∧ d.mayName c (d.engWorld e) = true ∧ (r91 = true → d.mode = 3 → d.solo e = true) ∧
    d.resBusy [resEngine e] = false ∧ d.domOn (9 + e / 8) = true

/-- The firmware's copy of a bulk object: its bytes, and the module after the reads (R81). -/
def Copied (d t : Dev) (c : Cid) (b : BulkRef) (bs : List Byte) : Prop :=
  b.addr % 64 = 0 ∧ 64 ≤ b.length ∧ b.length ≤ 16777216 ∧
    d.dmaRead 2 (d.ringWorld c.hdr.ring) b.addr b.length = (t, some bs) ∧ sha384 bs = b.digest.toNat

/-! ## Processors at rest -/

/-- Processor m runs, outside run-ahead and delay bundles, and nothing that it has started is left to complete; d is the module
when its next trigger comes (R173, R298). -/
structure AtRest (s d : Dev) (m : Nat) : Prop where
  live : s.coreLive m = true
  ahead : (s.core m).ra = none
  fly : (s.core m).fly = []
  multi : (s.core m).multi = none
  sb : (s.core m).sb = []
  cb : (s.core m).cb = []
  flush : (s.core m).flush = false
  xfer : (s.core m).xfer = none
  prog : (s.core m).progPc = none
  now : d = (s.coreClock m).passFence m
  units : ∀ u, d.aFree m u ≤ (d.core m).cyc

/-- Processor m may access address va, which is place p: without translation above U, or by an L1 TLB entry that permits the
access (R332, R335, R338). -/
def Mapped (d : Dev) (m va : Nat) (a : AccKind) (p : Phys) : Prop :=
  (d.stTE m = false ∧ d.lvl m ≠ 0 ∧ va < dramSize ∧ p = ⟨va, 0⟩) ∨
    (d.stTE m = true ∧ canonical va = true ∧ ∃ t, (d.core m).tlbHit1 (va % 2 ^ 48) (d.srf m 0x70 51 40) a = some t ∧
      leafPermits t.perm.toNat (d.lvl m) a = true ∧ p = t.phys (va % 2 ^ 48))

/-- An access of n bytes at va reaches one line of normal cacheable memory at p (R190, R342). -/
structure InLine (d : Dev) (m va n : Nat) (a : AccKind) (p : Phys) : Prop where
  mapped : Mapped d m va a p
  normal : p.mt = 0
  same : p.pa % 64 = va % 64
  fits : va % 64 + n ≤ 64

/-- The L2 of core m's cluster holds line l for the core's world, to be changed or not, and nothing holds the access back
(R363, R364, R367, R378). -/
structure LineReady (d : Dev) (m l : Nat) (excl : Bool) : Prop where
  core : m < 8
  hit : d.l2Hit m (d.coreWorld m) l excl = true
  free : d.lineWaits m (d.coreWorld m) l excl = false

/-- No watchpoint fires on an access of the bundle at pc (R446). -/
def Unwatched (d : Dev) (m pc : Nat) : Prop := ∀ a, d.watch m pc 0 a = none

/-- The bytes of an access. -/
def bytesAt (pa n : Nat) : List Nat := (List.range n).map (fun i => pa + i)

/-- What the check of a load within a line finds. -/
def linePlan (d : Dev) (m pa n : Nat) : LoadPlan := ⟨⟨bytesAt pa n, 0⟩, none, d.loadReach m (d.coreWorld m) (pa / 64)⟩

/-- The bundle before the one at the PC: a trigger by itself belongs to it. -/
def prevPc (d : Dev) (m : Nat) : Nat := (d.pc m + 2 ^ 64 - 16) % 2 ^ 64

end Sys2Proof.Safety
end

