-- ==== Sys2Proof/Certificates/Slice0/Obligations.lean ====
section
/-!
DEFINITION. Sys2Proof/Certificates/Slice0/Obligations.lean: the statements for the provers.
-/

open Sys2Proof Sys2Proof.Machine Sys2Proof.Safety

/-- A step runs the command at the front of the queue on the state with the queue's rest; the queue is the model's own (log 1). -/
def Obligations.StepRunsFront : Prop :=
  ∀ (c : Instr) (s : State), step { s with pending := c :: s.pending } = exec c s

/-- No command stops the block: a well-formed one answers a next state with the queue as it was.  Ill-formed operands name units that do not exist, and the fault for them is the model's own. -/
def Obligations.EveryCommandCompletes : Prop :=
  ∀ (c : Instr) (s : State),
    (wellFormed c = true → ∃ t, exec c s = .next t ∧ t.pending = s.pending) ∧
    (wellFormed c = false → exec c s = .fault .noUnit)

/-- The block never stops: well-formed commands in the queue are an invariant of the step, and every run from such a state goes on. -/
def Obligations.QueueInvariantKept : Prop :=
  ∀ s : State, QueueOk s →
    (∃ t, step s = .next t ∧ QueueOk t ∧ t.pending = s.pending.tail) ∧ ∀ k, Runs k s

/-- The encoding of the move set loses no bit of a bundle and invents none (R159 to R161, Tables 7.2 and 7.3). -/
def Obligations.BundleRoundTrip : Prop :=
  (∀ b : Bundle, b.wf = true → Bundle.dec b.enc = b) ∧
  (∀ w : BitVec 128, w.extractLsb' 126 2 ≠ 3 → (Bundle.dec w).enc = w)

/-- The supply's events (R25 to R27, R486, R487, Table 2.5). -/
def Obligations.SupplyEventsAct : Prop :=
  ∀ s : State,
    (s.dev.pwr.powered = true → s.dev.mode ≠ 0 → exec .inputQualification s = .next { s with
      dev := (((s.dev.fs F.PWR_STAT_INQ 0 1).fs F.PWR_STAT_PF 0 0).fs F.PWR_STAT_BULKOK 0 1).fs F.PWR_STAT_BULKWARN 0 0 }) ∧
    (s.dev.pwr.powered = false → exec .inputQualification s = .next { s with
      dev := ((((s.dev.fs F.PWR_STAT_INQ 0 1).fs F.PWR_STAT_PF 0 0).fs F.PWR_STAT_BULKOK 0 1).fs F.PWR_STAT_BULKWARN 0 0).moduleReset 0 }) ∧
    (s.dev.pwr.powered = true → s.dev.mode = 0 → exec .inputLoss s = .next { s with
      dev := { (s.dev.fs F.PWR_STAT_INQ 0 0).fs F.PWR_STAT_PF 0 1 with pwr := { s.dev.pwr with pfN := false, inputSeen := true } } }) ∧
    (s.dev.pwr.powered = true → 1 ≤ s.dev.mode → s.dev.mode ≤ 4 → exec .inputLoss s = .next { s with
      dev := ((s.dev.fs F.PWR_STAT_INQ 0 0).fs F.PWR_STAT_PF 0 1).holdupStart 0 }) ∧
    (s.dev.pwr.powered = true → 1 ≤ s.dev.mode → s.dev.mode ≤ 4 → exec .bulkWarn s = .next { s with
      dev := ((s.dev.fs F.PWR_STAT_BULKOK 0 0).fs F.PWR_STAT_BULKWARN 0 1).holdupStart 1 }) ∧
    (s.dev.pwr.powered = true → s.dev.mode = 0 ∨ s.dev.mode = 5 → exec .bulkWarn s = .next { s with
      dev := (s.dev.fs F.PWR_STAT_BULKOK 0 0).fs F.PWR_STAT_BULKWARN 0 1 }) ∧
    (s.dev.pwr.powered = true → s.dev.mode = 5 → s.dev.fg F.PWR_STAT_HUSTEP 0 < 6 → exec .bulkLow s = .next { s with
      dev := ((s.dev.fs F.PWR_STAT_BULKOK 0 0).fs F.PWR_STAT_BULKWARN 0 1).shutdownStart 0 }) ∧
    (s.dev.pwr.powered = true → s.dev.mode = 0 → s.dev.fg F.PWR_STAT_INQ 0 = 0 → exec .pd00Stop s = .next { s with
      dev := { s.dev with pwr := { s.dev.pwr with powered := false, pfN := false } } })

/-- The HOLDUP sequence from the acknowledgements to the return (R43, R45). -/
def Obligations.HoldupStepsFollow : Prop :=
  ∀ s : State, s.dev.mode = 5 →
    (∀ (rq : Req) (v : Word) (m : Nat), rq.ok = true → rq.core = some m → v.getLsbD m = true → s.dev.reaches rq 0 = true →
      s.dev.fg F.PWR_STAT_HUSTEP 0 = 2 → exec (.pwrHuack rq v) s = .next { s with
        dev := ({ s.dev with pwr := { s.dev.pwr with
          ack := setBit s.dev.pwr.ack m true
          winEnd := s.dev.coresOn.all (fun i => (setBit s.dev.pwr.ack m true).testBit i) } } : Dev).ok 0 }) ∧
    (∀ slow : List Nat, (∀ m ∈ slow, m < 8) → s.dev.fg F.PWR_STAT_HUSTEP 0 = 2 →
      exec (.holdupDrainWindowEnd slow) s = .next { s with dev := s.dev.windowEnd slow } ∧
        (s.dev.windowEnd slow).fg F.PWR_STAT_HUSTEP 0 = 3) ∧
    (s.dev.fg F.PWR_STAT_HUSTEP 0 = 3 → ∃ d : Dev, exec .holdupWriteBackDone s = .next { s with dev := d } ∧
      d = ((s.dev.each ([26, 27].filter s.dev.domOn) (fun x c => x.cutDom c true)).syscOut.capStop).huStep 4 ∧
      d.fg F.PWR_STAT_HUSTEP 0 = 4) ∧
    (s.dev.fg F.PWR_STAT_HUSTEP 0 = 4 → ∃ d : Dev, exec .holdupJournalFlushDone s = .next { s with
        dev := d.cond d.pwr.ot (fun x => x.shutdownStart 1) } ∧ d.fg F.PWR_STAT_HUSTEP 0 = 5) ∧
    (s.dev.fg F.PWR_STAT_HUSTEP 0 = 5 → s.dev.fg F.PWR_STAT_INQ 0 = 1 → s.dev.pwr.ot = false →
      s.dev.fg F.PWR_STAT_PREV 0 ≠ 1 → exec .holdupReturn s = .next { s with
        dev := (s.dev.huDomains.huLeave (s.dev.fg F.PWR_STAT_PREV 0)).ringWorlds })

/-- R44: before step 5 a return of the input moves neither the mode nor the step. -/
def Obligations.EarlyReturnIsIgnored : Prop :=
  ∀ s : State, s.dev.mode = 5 → s.dev.fg F.PWR_STAT_HUSTEP 0 < 5 → s.dev.pwr.powered = true →
    exec .holdupReturn s = .next s ∧
    ∃ t, exec .inputQualification s = .next t ∧ t.dev.mode = 5 ∧ t.dev.fg F.PWR_STAT_INQ 0 = 1 ∧
      t.dev.fg F.PWR_STAT_HUSTEP 0 = s.dev.fg F.PWR_STAT_HUSTEP 0 ∧
      t.dev.fg F.PWR_STAT_PREV 0 = s.dev.fg F.PWR_STAT_PREV 0 ∧
      (∀ (q : RName) (j : Nat), q ≠ .PWR_STAT → t.dev.rd q j = s.dev.rd q j) ∧ t.dev.cores = s.dev.cores ∧ t.dev.jrn = s.dev.jrn

/-- Resets, the end of the shutdown and the wake (R41, R42, R47, Table 2.5). -/
def Obligations.ModuleResetAndWake : Prop :=
  ∀ s : State,
    (∀ ns : Nat, s.dev.pwr.powered = true → 1000 ≤ ns →
      exec (.mrstNPulse ns) s = .next { s with dev := s.dev.moduleReset 1 }) ∧
    (∀ ns : Nat, ns < 1000 → exec (.mrstNPulse ns) s = .next s) ∧
    (s.dev.mode = 5 → s.dev.fg F.PWR_STAT_HUSTEP 0 = 6 → ∃ t, exec .shutdownDomainCuts s = .next t ∧
      t.pending = s.pending ∧ t.dev.mode = 0 ∧ t.dev.fg F.PWR_STAT_HUSTEP 0 = 0 ∧ t.dev.rd .PWR_DSTAT0 0 = 0 ∧
      t.dev.fg F.PWR_DSTAT1_ON32 0 = 0 ∧ t.dev.fg F.PWR_DSTAT1_STBY32 0 = 1 ∧
      t.dev.pwr.stay = decide (s.dev.pwr.shutCause = 1)) ∧
    (s.dev.pwr.powered = true → s.dev.mode = 0 → s.dev.fg F.PWR_STAT_INQ 0 = 1 → s.dev.pwr.mrstLow = false →
      s.dev.pwr.stay = false → s.dev.fg F.PWR_STAT_OTL 0 = 0 →
      exec .wakeSequencer s = .next { s with dev := s.dev.wakeUp })

/-- The domain sequencer (R28 to R30, R48, Table 2.2). -/
def Obligations.SequencerSwitchesOneDomain : Prop :=
  ∀ s : State,
    (∀ (rq : Req) (d : Nat), rq.ok = true → rq.svp = true → s.dev.reaches rq 0 = true → d < 32 → s.dev.pwr.act = none →
      s.dev.pwr.seqQ = [] → s.dev.mode ≠ 5 → s.dev.domOn d = false →
      exec (.pwrDon rq 0 (BitVec.ofNat 32 (2 ^ d))) s = .next { s with
        dev := if s.dev.domReady d = true
          then ({ s.dev with pwr := { s.dev.pwr with act := some (true, d) } } : Dev).seqSync.ok 0
          else s.dev.seqErr.seqSync.ok 0 }) ∧
    (∀ (rq : Req) (d : Nat), rq.ok = true → rq.svp = true → s.dev.reaches rq 0 = true → d < 32 → d ≠ 0 → d ≠ 28 →
      s.dev.pwr.act = none → s.dev.pwr.seqQ = [] → s.dev.domOn d = true → s.dev.domUsed d = false →
      exec (.pwrDoff rq 0 (BitVec.ofNat 32 (2 ^ d))) s = .next { s with
        dev := ((({ s.dev with pwr := { s.dev.pwr with act := some (false, d) } } : Dev).drainStart d).seqSync).ok 0 }) ∧
    (∀ d : Nat, s.dev.pwr.act = some (true, d) →
      exec .domainPowerGood s = .next { s with dev := (s.dev.switchOn d).seqDone }) ∧
    (∀ d : Nat, s.dev.pwr.act = some (false, d) → s.dev.drainOpen d = false →
      exec .domainDrainDone s = .next { s with dev := (s.dev.drainCut d).seqDone }) ∧
    (∀ d : Nat, s.dev.pwr.act = some (false, d) → s.dev.drainOpen d = true → exec .domainDrainDone s = .next s) ∧
    (∀ d : Nat, s.dev.pwr.act = some (false, d) → drainBounded d = false →
      exec .drainLimit s = .next { s with dev := ((s.dev.drainMiss d).cutDom d false).seqDone })

/-- The supervisor's restarts (R50, R54) and the steps of a boot (R63, R64, Table 3.4). -/
def Obligations.SupervisorAndBootAct : Prop :=
  ∀ s : State,
    (∀ cause : Nat, 1 ≤ cause → cause ≤ 4 → s.dev.domOn 1 = true → s.dev.fg F.SVP_STAT_DOWN 0 ≠ 1 →
      exec (.lockstepMismatch cause) s = .next { s with
        dev := s.dev.faultEdge (fun d =>
          let r : Dev := { (d.restartNote cause).svpStop with
            svp := { ((d.restartNote cause).svpStop).svp with lastCause := some d.clk } }
          if d.secondCause then r.svpDown else r.svpBegin) }) ∧
    (∀ cause : Nat, cause = 0 ∨ (4 < cause ∧ cause < 8) → exec (.lockstepMismatch cause) s = .next s) ∧
    (∀ (i : Nat) (x : Image), s.dev.svp.restarting = true → s.dev.mode ≠ 1 → s.dev.imagePick false = some (i, x) →
      exec .svpRestartComplete s = .next { s with
        dev :=
          let d := (((s.dev.fs F.SVP_STAT_SLOTB 0 i).fs F.SVP_FWVER_SECVER 0 x.secver).fs F.SVP_FWVER_BUILD 0 x.build).loadRam i
          let d := (d.fs F.SVP_STAT_RESTART 0 0).fs F.SVP_STAT_RUN 0 1
          ({ d with svp := { d.svp with restarting := false, fltMis := false } } : Dev).ptpDrain }) ∧
    (s.dev.svp.restarting = true → s.dev.mode ≠ 1 → s.dev.imagePick false = none → exec .svpRestartComplete s = .next s) ∧
    (∀ trained : Bool, s.dev.booting = true → exec (.bootStep trained) s = .next { s with
      dev := if s.dev.fg F.LCS_BOOT_STEP 0 = 1 then s.dev.boot1
        else if s.dev.fg F.LCS_BOOT_STEP 0 = 2 then s.dev.boot2
        else if s.dev.fg F.LCS_BOOT_STEP 0 = 3 then s.dev.boot3 trained
        else if s.dev.fg F.LCS_BOOT_STEP 0 = 4 then s.dev.boot4
        else if s.dev.fg F.LCS_BOOT_STEP 0 = 5 then s.dev.boot5
        else if s.dev.fg F.LCS_BOOT_STEP 0 = 6 then s.dev.boot6 else s.dev }) ∧
    (∀ k : Nat, s.dev.booting = true → s.dev.svp.waitAt = some k →
      exec .bootwaitExpiry s = .next { s with dev := s.dev.waitOver k })

/-- R74: the doorbell of a ring, whole. -/
def Obligations.DoorbellRule : Prop :=
  ∀ (s : State) (rq : Req) (r : Nat) (v : Word), rq.ok = true → r < 16 → s.dev.reaches rq 1 = true →
    (rq.svp = true ∨ rq.ofWorld (s.dev.fg F.CMD_RCFG_WORLD r) = true) →
    (∀ i : Nat, s.dev.cmdEntry r i = s.dev.ringRBase r + i % 2 ^ (s.dev.fg F.CMD_RCFG_SIZE r + 4) * 64 ∧
      s.dev.replyEntry r i = s.dev.ringPBase r + i % (2 * 2 ^ (s.dev.fg F.CMD_RCFG_SIZE r + 4)) * 32) ∧
    (s.dev.fg F.CMD_RCTL_EN r = 0 →
      exec (.cmdDb rq r v) s = .next { s with dev := (s.dev.fs F.CMD_RSTAT_IDLEDB r 1).ok 0 }) ∧
    (s.dev.fg F.CMD_RCTL_EN r ≠ 0 →
      (s.dev.fg F.CMD_TAIL_IDX r + 65536 - s.dev.fg F.CMD_HEAD_IDX r) % 65536 ≤
        (v.toNat % 65536 + 65536 - s.dev.fg F.CMD_HEAD_IDX r) % 65536 ∧
      (v.toNat % 65536 + 65536 - s.dev.fg F.CMD_HEAD_IDX r) % 65536 ≤ 2 ^ (s.dev.fg F.CMD_RCFG_SIZE r + 4) →
      ∃ t, exec (.cmdDb rq r v) s = .next t ∧ t.dev.fg F.CMD_TAIL_IDX r = v.toNat % 65536 ∧
        (s.dev.proxyStatus = none → t = { s with dev := (s.dev.fs F.CMD_TAIL_IDX r (v.toNat % 65536)).ok 0 })) ∧
    (s.dev.fg F.CMD_RCTL_EN r ≠ 0 →
      ¬ ((s.dev.fg F.CMD_TAIL_IDX r + 65536 - s.dev.fg F.CMD_HEAD_IDX r) % 65536 ≤
        (v.toNat % 65536 + 65536 - s.dev.fg F.CMD_HEAD_IDX r) % 65536 ∧
      (v.toNat % 65536 + 65536 - s.dev.fg F.CMD_HEAD_IDX r) % 65536 ≤ 2 ^ (s.dev.fg F.CMD_RCFG_SIZE r + 4)) →
      ∃ t, exec (.cmdDb rq r v) s = .next t ∧ t.dev.fg F.CMD_RSTAT_OVF r = 1 ∧
        t.dev.fg F.CMD_OVFCNT_COUNT r = min (s.dev.fg F.CMD_OVFCNT_COUNT r + 1) F.CMD_OVFCNT_COUNT.max ∧
        t.dev.rd .CMD_TAIL r = s.dev.rd .CMD_TAIL r ∧ t.dev.mem = s.dev.mem ∧ t.dev.cmd = s.dev.cmd ∧
        ∀ (q : RName) (j : Nat), q ≠ .CMD_RSTAT → q ≠ .CMD_OVFCNT → q ≠ .IC_PSET → t.dev.rd q j = s.dev.rd q j)

/-- The registers of a ring that act when written (R73, R76, R79, R97). -/
def Obligations.RingRegisterWrites : Prop :=
  ∀ (s : State) (rq : Req) (r : Nat) (v : Word), rq.ok = true → r < 16 → s.dev.reaches rq 1 = true →
    ((rq.svp || rq.ofWorld (s.dev.fg F.CMD_RCFG_WORLD r)) = true →
      (exec (.cmdPhead rq r v) s = .next { s with
        dev := (if (v.toNat % 65536 + 65536 - s.dev.fg F.CMD_PHEAD_IDX r) % 65536 ≤
              (s.dev.fg F.CMD_PTAIL_IDX r + 65536 - s.dev.fg F.CMD_PHEAD_IDX r) % 65536
            then s.dev.fs F.CMD_PHEAD_IDX r (v.toNat % 65536)
            else s.dev.errCap 3 { ty := 0x10, addr := devAddr 3 (ringOff 0x28 r), port := rq.port, world := rq.world,
                                  info := v.toNat % 65536 }).ok 0 }) ∧
      (s.dev.fg F.CMD_RCTL_EN r = 0 →
        exec (.cmdRseq rq r v) s = .next { s with dev := (s.dev.wr .CMD_RSEQ r v).ok 0 }) ∧
      (s.dev.fg F.CMD_RCTL_EN r ≠ 0 →
        exec (.cmdRseq rq r v) s = .next { s with
          dev := s.dev.errResp 3 rq 0x01 (devAddr 3 (ringOff 0x30 r)) (ringOff 0x30 r) }) ∧
      (∃ t, exec (.cmdRctlRst rq r v) s = .next t ∧ t.dev.fg F.CMD_RCTL_EN r = 0 ∧ t.dev.fg F.CMD_HEAD_IDX r = 0 ∧
        t.dev.fg F.CMD_TAIL_IDX r = 0 ∧ t.dev.fg F.CMD_PTAIL_IDX r = 0 ∧ t.dev.fg F.CMD_PHEAD_IDX r = 0 ∧
        ∀ k ∈ t.dev.cmd.long, k.ring = r → k.discard = true)) ∧
    ((rq.svp || rq.ofWorld (s.dev.fg F.CMD_RCFG_WORLD r)) = false →
      exec (.cmdDb rq r v) s = .next { s with dev := s.dev.errResp 3 rq 0x01 (devAddr 3 (ringOff 0x18 r)) (ringOff 0x18 r) } ∧
      exec (.cmdPhead rq r v) s = .next { s with dev := s.dev.errResp 3 rq 0x01 (devAddr 3 (ringOff 0x28 r)) (ringOff 0x28 r) } ∧
      exec (.cmdRseq rq r v) s = .next { s with dev := s.dev.errResp 3 rq 0x01 (devAddr 3 (ringOff 0x30 r)) (ringOff 0x30 r) } ∧
      exec (.cmdRctlRst rq r v) s = .next { s with dev := s.dev.errResp 3 rq 0x01 (devAddr 3 (ringOff 0x14 r)) (ringOff 0x14 r) })

/-- R79: a command with any other SEQ is refused with BAD_SEQ and has no effect. -/
def Obligations.BadSeqHasNoEffect : Prop :=
  ∀ (i : Instr) (h : CmdHdr) (op : Nat) (s : State), commandOf i = some (h, op) → wellFormed i = true → Served s.dev h →
    s.dev.rd .CMD_RSEQ h.ring ≠ BitVec.ofNat 32 h.seq →
    ∃ t, exec i s = .next t ∧ t.pending = s.pending ∧
      t.dev.cmd.last = some { ring := h.ring, status := stBadSeq, tag := h.tag, seq := h.seq, opcode := op, detail := 0, result := [] } ∧
      t.dev.rd .CMD_RSEQ h.ring = s.dev.rd .CMD_RSEQ h.ring ∧
      (∀ (q : RName) (j : Nat), q ∉ logNames → q ≠ .CMD_STAT → q ≠ .CMD_RSTAT → q ≠ .CMD_PTAIL → t.dev.rd q j = s.dev.rd q j) ∧
      t.dev.pwr = s.dev.pwr ∧ t.dev.engines = s.dev.engines ∧ t.dev.hives = s.dev.hives ∧ t.dev.jrn = s.dev.jrn ∧
      t.dev.trg = s.dev.trg ∧ t.dev.pub = s.dev.pub ∧ t.dev.ing = s.dev.ing ∧ t.dev.lcs = s.dev.lcs ∧
      t.dev.cmd.long = s.dev.cmd.long

/-- R78, R86, R89 and the order of the checks (the order among them is the model's, see NOTES.md). -/
def Obligations.SharedRefusals : Prop :=
  ∀ (i : Instr) (h : CmdHdr) (op : Nat) (s : State) (sys long : Bool) (n : Nat) (modes : List Nat),
    commandOf i = some (h, op) → wellFormed i = true → Served s.dev h → opInfo op = some (sys, long, n, modes) →
    s.dev.rd .CMD_RSEQ h.ring = BitVec.ofNat 32 h.seq →
    (h.world ≠ s.dev.ringWorld h.ring →
      exec i s = .next { s with dev := ((atHead s.dev h op).refuse ⟨h, op⟩ stBadWorld 0).spendNonce ⟨h, op⟩ }) ∧
    (h.world = s.dev.ringWorld h.ring → sys = true → s.dev.ringSys h.ring = false →
      exec i s = .next { s with dev := ((atHead s.dev h op).refuse ⟨h, op⟩ stDenied 0).spendNonce ⟨h, op⟩ }) ∧
    (h.world = s.dev.ringWorld h.ring → (sys = true → s.dev.ringSys h.ring = true) → s.dev.modeIn modes = false →
      exec i s = .next { s with dev := ((atHead s.dev h op).refuse ⟨h, op⟩ stBadMode 0).spendNonce ⟨h, op⟩ }) ∧
    (h.world = s.dev.ringWorld h.ring → (sys = true → s.dev.ringSys h.ring = true) → s.dev.modeIn modes = true →
      long = true → 4 ≤ s.dev.ringLongs h.ring →
      exec i s = .next { s with dev := ((atHead s.dev h op).refuse ⟨h, op⟩ stBusy 0).spendNonce ⟨h, op⟩ })

/-- R85: round robin by ring number, at most one command a turn (the turn at which STALL is set and cleared is the model's reading, log 32). -/
def Obligations.RingsServedInTurn : Prop :=
  ∀ (s : State) (k : Nat) (d : Dev), s.dev.fwRuns = true → k < 16 →
    (∀ j : Nat, j < k → s.dev.ringUp ((s.dev.fg F.CMD_STAT_LAST 0 + 1 + j) % 16) = false) →
    s.dev.ringUp ((s.dev.fg F.CMD_STAT_LAST 0 + 1 + k) % 16) = true →
    (∀ b : List Byte, s.dev.ringPeek ((s.dev.fg F.CMD_STAT_LAST 0 + 1 + k) % 16) = (d, some b) →
      (d.ringHasRoom ((s.dev.fg F.CMD_STAT_LAST 0 + 1 + k) % 16) = true →
        ¬ (objNat b 5 1 % 2 = 1 ∧ 0 < d.ringLongs ((s.dev.fg F.CMD_STAT_LAST 0 + 1 + k) % 16)) →
        exec .ringService s = .next { s with
          dev := d.takePacket ((s.dev.fg F.CMD_STAT_LAST 0 + 1 + k) % 16) b }) ∧
      (d.ringHasRoom ((s.dev.fg F.CMD_STAT_LAST 0 + 1 + k) % 16) = true →
        objNat b 5 1 % 2 = 1 ∧ 0 < d.ringLongs ((s.dev.fg F.CMD_STAT_LAST 0 + 1 + k) % 16) →
        exec .ringService s = .next { s with
          dev := (d.fs F.CMD_RSTAT_STALL ((s.dev.fg F.CMD_STAT_LAST 0 + 1 + k) % 16) 0).serviceRings
            (((List.range 16).map (fun i => (s.dev.fg F.CMD_STAT_LAST 0 + 1 + i) % 16)).drop (k + 1)) }) ∧
      (d.ringHasRoom ((s.dev.fg F.CMD_STAT_LAST 0 + 1 + k) % 16) = false →
        exec .ringService s = .next { s with
          dev := (d.fs F.CMD_RSTAT_STALL ((s.dev.fg F.CMD_STAT_LAST 0 + 1 + k) % 16) 1).serviceRings
            (((List.range 16).map (fun i => (s.dev.fg F.CMD_STAT_LAST 0 + 1 + i) % 16)).drop (k + 1)) })) ∧
    (s.dev.ringPeek ((s.dev.fg F.CMD_STAT_LAST 0 + 1 + k) % 16) = (d, none) →
      exec .ringService s = .next { s with
        dev := (d.fs F.CMD_RSTAT_STALL ((s.dev.fg F.CMD_STAT_LAST 0 + 1 + k) % 16) 1).serviceRings
          (((List.range 16).map (fun i => (s.dev.fg F.CMD_STAT_LAST 0 + 1 + i) % 16)).drop (k + 1)) })

/-- R87: completions are written when their work ends (when the work of each command is performed is the model's choice, log 29). -/
def Obligations.LongWorkEnds : Prop :=
  ∀ (s : State) (idx : Nat) (k : LongCmd), s.dev.domOn 1 = true → s.dev.fwRuns = true → s.dev.cmd.long[idx]? = some k →
    (k.opcode = 0x0201 → (∀ x ∈ s.dev.pwr.seqQ ++ s.dev.pwr.act.toList, k.arg.testBit x.2 = false) →
      exec (.longCommandCompletion idx) s = .next { s with
        dev := s.dev.finishLong idx stOK
          (leBytes 8 (((onesBelow 33 k.arg2).filter (fun d => decide (s.dev.domOn d = true))).foldl (fun a d => a + 2 ^ d) 0)) }) ∧
    (k.opcode = 0x0202 → (∀ x ∈ s.dev.pwr.seqQ ++ s.dev.pwr.act.toList, k.arg.testBit x.2 = false) →
      exec (.longCommandCompletion idx) s = .next { s with
        dev := s.dev.finishLong idx stOK
          (leBytes 8 (((onesBelow 33 k.arg2).filter (fun d => decide (s.dev.domOn d = false))).foldl (fun a d => a + 2 ^ d) 0) ++
          leBytes 4 (((s.dev.pwr.undrained.drop (leNat k.data)).filter (fun x => k.arg.testBit x.1)).foldl (fun a x => a + x.2) 0)) }) ∧
    (k.opcode = 0x0201 ∨ k.opcode = 0x0202 → (∃ x ∈ s.dev.pwr.seqQ ++ s.dev.pwr.act.toList, k.arg.testBit x.2 = true) →
      exec (.longCommandCompletion idx) s = .next s) ∧
    (k.opcode = 0x0401 → exec (.longCommandCompletion idx) s = .next { s with
      dev := (s.dev.castWrite k.arg k.data).finishLong idx stOK (castResult k.data) }) ∧
    (k.opcode = 0x0601 → (∀ x ∈ s.dev.ing.switches, x.kind ≠ 0) → exec (.longCommandCompletion idx) s = .next { s with
      dev := s.dev.finishLong idx stOK (leBytes 2 k.arg) }) ∧
    (k.opcode = 0x0601 → (∃ x ∈ s.dev.ing.switches, x.kind = 0) → exec (.longCommandCompletion idx) s = .next s) ∧
    (k.opcode = 0x0801 → exec (.longCommandCompletion idx) s = .next { s with
      dev := (s.dev.setsWrite k.arg k.data).finishLong idx stOK [] }) ∧
    (k.opcode = 0x0902 → s.dev.fg F.SET_PG_CTL_ARM k.arg = 1 → exec (.longCommandCompletion idx) s = .next s) ∧
    (k.opcode = 0x0902 → s.dev.fg F.SET_PG_CTL_ARM k.arg = 0 → s.dev.fg F.SET_PG_CTL_DONE k.arg = 1 →
      s.dev.rd64 .SET_PG_SWAP_LO .SET_PG_SWAP_HI k.arg = k.arg2 → exec (.longCommandCompletion idx) s = .next { s with
        dev := s.dev.finishLong idx stOK (leBytes 8 k.arg2) }) ∧
    (k.opcode = 0x0902 → s.dev.fg F.SET_PG_CTL_ARM k.arg = 0 → s.dev.fg F.SET_PG_CTL_DONE k.arg = 0 →
      s.dev.fg F.SET_PG_CTL_INVAL k.arg = 1 → exec (.longCommandCompletion idx) s = .next { s with
        dev := s.dev.finishLong idx stNotReady [] (s.dev.fg F.SET_PG_CTL_BADENG k.arg) }) ∧
    (k.opcode = 0x0902 → s.dev.fg F.SET_PG_CTL_ARM k.arg = 0 → s.dev.fg F.SET_PG_CTL_DONE k.arg = 0 →
      s.dev.fg F.SET_PG_CTL_INVAL k.arg = 0 → exec (.longCommandCompletion idx) s = .next { s with
        dev := s.dev.finishLong idx stTooLate [] }) ∧
    (k.opcode = 0x0A03 → exec (.longCommandCompletion idx) s = .next { s with dev := s.dev.finishLong idx stOK [] }) ∧
    (k.opcode = 0x0B01 → exec (.longCommandCompletion idx) s = .next { s with
      dev := ((s.dev.each (List.range 128) Dev.pubDisable).each (List.range 128) (fun s b => s.pubLoad k.data b)).finishLong idx stOK
          (leBytes 1 ((List.range 128).filter (pubHas k.data)).length) }) ∧
    (k.opcode = 0x0D02 → ∀ (n : Nat) (x : Capture), s.dev.findCap (fun y => decide (y.id = k.arg)) = some (n, x) →
      exec (.longCommandCompletion idx) s = .next { s with
        dev := ((s.dev.jrnFlush.sealRecord k.arg).jrnFlush).finishLong idx stOK (leBytes 8 (s.dev.jrnNext x.world)) }) ∧
    (k.opcode = 0x0E01 → exec (.longCommandCompletion idx) s = .next { s with
      dev := ((s.dev.onKey k.arg (fun x => { x with revoked := true })).newNonce).finishLong idx stOK [] }) ∧
    (k.opcode = 0x0E02 → exec (.longCommandCompletion idx) s = .next { s with
      dev := ((s.dev.advanceArb k.arg).1.newNonce).finishLong idx stOK (leBytes 1 (s.dev.advanceArb k.arg).2) }) ∧
    (k.opcode = 0x0E03 → exec (.longCommandCompletion idx) s = .next { s with
      dev := ((s.dev.sealSecret k.arg (k.data.drop 256)).newNonce).finishLong idx stOK [] }) ∧
    (k.opcode = 0x0F01 → k.arg ≠ 4 → exec (.longCommandCompletion idx) s = .next { s with
      dev := ((s.dev.lifeWork k.arg2 k.arg k.data).newNonce).finishLong idx stOK (leBytes 1 k.arg) }) ∧
    (k.opcode = 0x0F01 → k.arg = 4 → exec (.longCommandCompletion idx) s = .next { s with
      dev := (((s.dev.lifeWork k.arg2 4 k.data).newNonce).finishLong idx stOK (leBytes 1 4)).moduleReset 2 }) ∧
    (k.opcode = 0x1102 → ∀ d : Dev, d = s.dev.hiveReset k.arg → exec (.longCommandCompletion idx) s = .next { s with
      dev := d.finishLong (d.cmd.long.findIdx (fun x => decide (x.opcode = 0x1102) && decide (x.arg = k.arg))) stOK [] }) ∧
    (k.opcode = 0x1202 → k.arg2 ≤ s.dev.tickNo → exec (.longCommandCompletion idx) s = .next { s with
      dev := s.dev.finishLong idx stOK (leBytes 8 k.arg2) }) ∧
    (k.opcode = 0x1202 → s.dev.tickNo < k.arg2 → exec (.longCommandCompletion idx) s = .next s)

/-- Table 4.5, opcodes 0x01 to 0x03. -/
def Obligations.ModeDomainWorldDo : Prop :=
  ∀ (s : State) (h : CmdHdr),
    (∀ (m : Nat) (d : Dev), d = atHead s.dev h 0x0101 → Taken s.dev h 0x0101 → wellFormed (.modeSet h m) = true →
      d.pwr.pend = none →
      m < 6 →
      modeMay d.mode m = true →
      (m = 3 → d.serviceUnmet = none) →
      exec (.modeSet h m) s = .next { s with
        dev := 
          (let e := d.done ⟨h, 0x0101⟩ (leBytes 8 d.tickIn20us)
           ({ e with pwr := { e.pwr with pend := some (m, d.tickIn20us) } } : Dev).setLong
            (e.cmd.long ++ [{ ring := h.ring, tag := h.tag, seq := h.seq, opcode := 0x0101 }])) }) ∧
    (∀ (d : Dev), d = atHead s.dev h 0x0102 → Taken s.dev h 0x0102 → wellFormed (.modeGet h) = true →
      exec (.modeGet h) s = .next { s with
        dev := d.done ⟨h, 0x0102⟩ (leBytes 8 d.tickNo ++ leBytes 1 d.mode ++ leBytes 1 d.prevMode) }) ∧
    (∀ (mask : DWord) (d : Dev), d = atHead s.dev h 0x0201 → Taken s.dev h 0x0201 → wellFormed (.domainOn h mask) = true →
      mask.toNat < 2 ^ 33 →
      (onesBelow 33 mask.toNat).any domFixed = false →
      (d.mode = 1 → ∀ x ∈ onesBelow 33 mask.toNat, x = 31) →
      d.resBusy ((onesBelow 33 mask.toNat).map resDomain) = false →
      exec (.domainOn h mask) s = .next { s with
        dev := 
          (let e := d.start ⟨h, 0x0201⟩ ((onesBelow 33 mask.toNat).map resDomain) mask.toNat
            (((onesBelow 33 mask.toNat).filter (fun x => !d.domOn x)).foldl (fun a x => a + 2 ^ x) 0)
            (leBytes 4 d.pwr.undrained.length)
           e.seqPut ((e.domPlan true (onesBelow 33 mask.toNat)).map (fun x => (true, x)))) }) ∧
    (∀ (mask : DWord) (d : Dev), d = atHead s.dev h 0x0202 → Taken s.dev h 0x0202 → wellFormed (.domainOff h mask) = true →
      mask.toNat < 2 ^ 33 →
      (onesBelow 33 mask.toNat).any domFixed = false →
      (d.mode = 1 → ∀ x ∈ onesBelow 33 mask.toNat, x = 31) →
      d.resBusy ((onesBelow 33 mask.toNat).map resDomain) = false →
      (onesBelow 33 mask.toNat).any d.domLive = false →
      exec (.domainOff h mask) s = .next { s with
        dev := 
          (let e := d.start ⟨h, 0x0202⟩ ((onesBelow 33 mask.toNat).map resDomain) mask.toNat
            (((onesBelow 33 mask.toNat).filter d.domOn).foldl (fun a x => a + 2 ^ x) 0)
            (leBytes 4 d.pwr.undrained.length)
           e.seqPut ((e.domPlan false (onesBelow 33 mask.toNat)).map (fun x => (false, x)))) }) ∧
    (∀ (cores hives world : Nat) (d : Dev), d = atHead s.dev h 0x0301 → Taken s.dev h 0x0301 → wellFormed (.worldAssign h cores hives world) = true →
      world < 2 →
      d.resBusy ((onesBelow 8 hives).map resHive) = false →
      (∀ m ∈ onesBelow 8 cores, (d.core m).released = false) →
      (∀ v ∈ onesBelow 8 hives, ∀ e ∈ hiveEngines v, d.engHalted e = true) →
      (∀ m ∈ onesBelow 8 cores, d.mayName ⟨h, 0x0301⟩ (d.core m).world = true) →
      (∀ v ∈ onesBelow 8 hives, d.mayName ⟨h, 0x0301⟩ (d.hiveWorld v) = true) →
      exec (.worldAssign h cores hives world) s = .next { s with
        dev := (((d.each (onesBelow 8 cores) (fun x m => x.onCore m (fun y => { y with world := world }))).each
            (onesBelow 8 hives) (fun x v => x.fs F.HIV_CTL_WORLD v world)).done ⟨h, 0x0301⟩ []) }) ∧
    (∀ (core : Nat) (entry : DWord) (d : Dev), d = atHead s.dev h 0x0302 → Taken s.dev h 0x0302 → wellFormed (.worldStart h core entry) = true →
      core < 8 →
      d.mayName ⟨h, 0x0302⟩ (d.core core).world = true →
      d.domOn (18 + core) = true →
      (d.core core).released = false →
      exec (.worldStart h core entry) s = .next { s with
        dev := (d.coreRelease core entry).done ⟨h, 0x0302⟩ [] }) ∧
    (∀ (region world : Nat) (base size : DWord) (d : Dev), d = atHead s.dev h 0x0303 → Taken s.dev h 0x0303 → wellFormed (.worldRegion h region world base size) = true →
      firstBad [(decide (region < 16), 0), (decide (world < 2), 1), (decide (base.toNat % 2 ^ 16 = 0), 2),
        (decide (size.toNat % 2 ^ 16 = 0), 3), (decide (base.toNat < dramSize), 2), (decide (base.toNat + size.toNat ≤ dramSize), 3),
        (decide (size.toNat = 0) ||
          !(((List.range 16).filter (fun r => decide (r ≠ region) && decide (d.fwSize r ≠ 0))).any
              (fun r => rangesMeet base.toNat size.toNat (d.fwBase r) (d.fwSize r)) ||
            rangesMeet base.toNat size.toNat d.stagingBase (4 * 2 ^ 20) ||
            rangesMeet base.toNat size.toNat d.captureBase d.captureBytes), 2)] = none →
      exec (.worldRegion h region world base size) s = .next { s with
        dev := (d.setRegion region world base.toNat size.toNat).done ⟨h, 0x0303⟩ [] }) ∧
    (∀ (ring world system : Nat) (d : Dev), d = atHead s.dev h 0x0304 → Taken s.dev h 0x0304 → wellFormed (.worldRingcfg h ring world system) = true →
      ring < 16 →
      world < 2 →
      system < 2 →
      d.fg F.CMD_RCTL_EN ring ≠ 1 →
      exec (.worldRingcfg h ring world system) s = .next { s with
        dev := ((d.fs F.CMD_RCFG_WORLD ring world).fs F.CMD_RCFG_SYS ring system).done ⟨h, 0x0304⟩ [] })

/-- Table 4.5, opcodes 0x0C, 0x0D, 0x10 and 0x11. -/
def Obligations.TimeJournalHealthResetDo : Prop :=
  ∀ (s : State) (h : CmdHdr),
    (∀ (prio : List Nat) (d : Dev), d = atHead s.dev h 0x0C01 → Taken s.dev h 0x0C01 → wellFormed (.timeSource h prio) = true →
      (∀ x ∈ prio, x ≤ 6) →
      exec (.timeSource h prio) s = .next { s with
        dev := (((d.wr .TMB_SRC0 0 (BitVec.ofNat 32 (leNat ((prio.take 4).map (BitVec.ofNat 8))))).wr .TMB_SRC1 0
            (BitVec.ofNat 32 (leNat (((prio.drop 4).take 4).map (BitVec.ofNat 8))))).reselect).done ⟨h, 0x0C01⟩ [] }) ∧
    (∀ (p : Nat) (d : Dev), d = atHead s.dev h 0x0C02 → Taken s.dev h 0x0C02 → wellFormed (.timeFreerun h p) = true →
      p < 2 →
      exec (.timeFreerun h p) s = .next { s with
        dev := (d.fs F.TMB_STAT_FREEOK 0 p).done ⟨h, 0x0C02⟩ [] }) ∧
    (∀ (code : Nat) (d : Dev), d = atHead s.dev h 0x0C03 → Taken s.dev h 0x0C03 → wellFormed (.timeRate h code) = true →
      code < 6 →
      d.pourArmed = false →
      d.overBudget (nsPerSec / rateHz code) = none →
      d.latePair (rateHz code) = none →
      exec (.timeRate h code) s = .next { s with
        dev := ((((d.fs F.TKG_EFFSEC_LO_SEC 0 d.secIn20us).fs F.TKG_EFFSEC_HI_SEC 0 (d.secIn20us / 2 ^ 32)).tkgCtlWrite
            (BitVec.ofNat 32 (1 + 2 * code))).done ⟨h, 0x0C03⟩ (leBytes 8 d.secIn20us)) }) ∧
    (∀ (ofs : BitVec 16) (d : Dev), d = atHead s.dev h 0x0C04 → Taken s.dev h 0x0C04 → wellFormed (.timeUtcofs h ofs) = true →
      exec (.timeUtcofs h ofs) s = .next { s with
        dev := ((((d.fs F.TMB_UTCOFS_NEXT 0 ofs.toNat).fs F.TMB_UTCSEC_LO_SEC 0 d.secIn20us).fs F.TMB_UTCSEC_HI_SEC 0
            (d.secIn20us / 2 ^ 32)).done ⟨h, 0x0C04⟩ []) }) ∧
    (∀ (text : List Byte) (d : Dev), d = atHead s.dev h 0x0D01 → Taken s.dev h 0x0D01 → wellFormed (.journalMark h text) = true →
      d.jrnRoom 1 = true →
      exec (.journalMark h text) s = .next { s with
        dev := (d.record 0x0050 h.ring (d.ringWorld h.ring) text).done ⟨h, 0x0D01⟩ (leBytes 8 (d.jrnNext (d.ringWorld h.ring))) }) ∧
    (∀ (rec k : Nat) (x : Capture) (d : Dev), d = atHead s.dev h 0x0D02 → Taken s.dev h 0x0D02 → wellFormed (.journalSeal h rec) = true →
      d.findCap (fun y => decide (y.id = rec)) = some (k, x) →
      d.mayName ⟨h, 0x0D02⟩ x.world = true →
      d.sealable rec = true →
      exec (.journalSeal h rec) s = .next { s with
        dev := d.start ⟨h, 0x0D02⟩ [] rec 0 [] }) ∧
    (∀ (hives pre w base room : Nat) (x : Capture) (d : Dev), d = atHead s.dev h 0x0D03 → Taken s.dev h 0x0D03 → wellFormed (.journalTrigger h hives pre) = true →
      w = (match onesBelow 8 hives with | v :: _ => d.hiveWorld v | [] => d.ringWorld h.ring) →
      d.capRoom = (base, room) →
      x = { id := d.fg F.JRN_DRLAST_ID 0 + 1, hives := hives, pre := pre, post := d.fg F.JRN_DRPOST_POST 0, startTick := d.tickIn20us,
            base := base, chans := (onesBelow 8 hives).map (fun v => (d.fg F.JRN_DRCH_FIRST v, d.fg F.JRN_DRCH_COUNT v)), world := w } →
      1 ≤ pre →
      pre + d.cmbL + 1 ≤ d.cmbD →
      (∀ v ∈ onesBelow 8 hives, d.hiveWorld v = w) →
      d.ringWorld h.ring = w →
      d.resBusy ((onesBelow 8 hives).map resHive) = false →
      x.size ≤ room →
      (d.jrn.caps.filter (fun y => decide (y.st < 2))).length < 16 →
      exec (.journalTrigger h hives pre) s = .next { s with
        dev := 
          (let e := d.fs F.JRN_DRLAST_ID 0 x.id
           ({ e with jrn := { e.jrn with caps := e.jrn.caps ++ [x] } } : Dev).done ⟨h, 0x0D03⟩ (leBytes 4 x.id)) }) ∧
    (∀ (n : Nat) (warn alarm : BitVec 16) (d : Dev), d = atHead s.dev h 0x1001 → Taken s.dev h 0x1001 → wellFormed (.healthThresh h n warn alarm) = true →
      n ≤ 66 →
      (n < 16 → tempOk warn.toNat = true ∧ tempOk alarm.toNat = true ∧ sext 16 warn.toNat ≤ sext 16 alarm.toNat) →
      (16 ≤ n → n < 55 → warn.toNat ≤ alarm.toNat) →
      (55 ≤ n → alarm.toNat ≤ warn.toNat) →
      exec (.healthThresh h n warn alarm) s = .next { s with
        dev := ((d.fs F.HLT_MON_THRESH_WARN n warn.toNat).fs F.HLT_MON_THRESH_ALARM n alarm.toNat).done ⟨h, 0x1001⟩ [] }) ∧
    (∀ (n action : Nat) (d : Dev), d = atHead s.dev h 0x1002 → Taken s.dev h 0x1002 → wellFormed (.healthPolicy h n action) = true →
      n ≤ 74 →
      action < 4 →
      exec (.healthPolicy h n action) s = .next { s with
        dev := (d.faultEdge (fun x => x.fs F.HLT_MON_CFG_ACTION n action)).done ⟨h, 0x1002⟩ [] }) ∧
    (∀ (n : Nat) (d : Dev), d = atHead s.dev h 0x1003 → Taken s.dev h 0x1003 → wellFormed (.healthRead h n) = true →
      n ≤ 74 →
      exec (.healthRead h n) s = .next { s with
        dev := d.done ⟨h, 0x1003⟩ (leBytes 2 (d.fg F.HLT_MON_VAL_VALUE n) ++ leBytes 1 (d.fg F.HLT_MON_VAL_STATE n)) }) ∧
    (∀ (ring : Nat) (d : Dev), d = atHead s.dev h 0x1101 → Taken s.dev h 0x1101 → wellFormed (.resetRing h ring) = true →
      ring < 16 →
      ring ≠ h.ring →
      exec (.resetRing h ring) s = .next { s with
        dev := (d.ringReset ring).done ⟨h, 0x1101⟩ [] }) ∧
    (∀ (v : Nat) (d : Dev), d = atHead s.dev h 0x1102 → Taken s.dev h 0x1102 → wellFormed (.resetHive h v) = true →
      v < 8 →
      d.mayName ⟨h, 0x1102⟩ (d.hiveWorld v) = true →
      d.cmd.long.any (fun k => decide (k.opcode = 0x1102) && decide (k.arg = v)) = false →
      d.domOn (9 + v) = true →
      exec (.resetHive h v) s = .next { s with
        dev := d.start ⟨h, 0x1102⟩ [resHive v] v 0 [] }) ∧
    (∀ (m : Nat) (d : Dev), d = atHead s.dev h 0x1103 → Taken s.dev h 0x1103 → wellFormed (.resetCore h m) = true →
      m < 8 →
      d.mayName ⟨h, 0x1103⟩ (d.core m).world = true →
      d.domOn (18 + m) = true →
      exec (.resetCore h m) s = .next { s with
        dev := (d.coreReset m).done ⟨h, 0x1103⟩ [] }) ∧
    (∀ (d : Dev), d = atHead s.dev h 0x1104 → Taken s.dev h 0x1104 → wellFormed (.resetModule h) = true →
      exec (.resetModule h) s = .next { s with
        dev := (d.done ⟨h, 0x1104⟩ []).moduleReset 2 })

/-- Table 4.5, opcodes 0x04, 0x05, 0x07 to 0x09, 0x0A01, 0x0A02 and 0x12. -/
def Obligations.EngineCommandsDo : Prop :=
  ∀ (s : State) (h : CmdHdr),
    (∀ (e : Nat) (b : BulkRef) (t : Dev) (bs : List Byte) (d : Dev), d = atHead s.dev h 0x0401 → Taken s.dev h 0x0401 → wellFormed (.castLoad h e b) = true →
      MayEngine d ⟨h, 0x0401⟩ e true →
      d.engHalted e = true →
      Copied d t ⟨h, 0x0401⟩ b bs →
      t.castCheck e bs = none →
      exec (.castLoad h e b) s = .next { s with
        dev := ((t.peHalt e).fs F.PE_CTL_ADMIT e 0).start ⟨h, 0x0401⟩ [resEngine e] e 0 bs }) ∧
    (∀ (e : Nat) (d : Dev), d = atHead s.dev h 0x0402 → Taken s.dev h 0x0402 → wellFormed (.castHalt h e) = true →
      MayEngine d ⟨h, 0x0402⟩ e true →
      exec (.castHalt h e) s = .next { s with
        dev := (d.peHalt e).done ⟨h, 0x0402⟩ [] }) ∧
    (∀ (e : Nat) (d : Dev), d = atHead s.dev h 0x0403 → Taken s.dev h 0x0403 → wellFormed (.castRun h e) = true →
      MayEngine d ⟨h, 0x0403⟩ e false →
      d.fg F.PE_CTL_ADMIT e ≠ 0 →
      d.running e = false →
      exec (.castRun h e) s = .next { s with
        dev := (((d.wr64 .PE_RUNTICK_LO .PE_RUNTICK_HI e d.tickIn20us).peRun e).done ⟨h, 0x0403⟩ (leBytes 8 d.tickIn20us)) }) ∧
    (∀ (e x cls k policy : Nat) (d : Dev), d = atHead s.dev h 0x0501 → Taken s.dev h 0x0501 → wellFormed (.bindSet h e x cls k policy) = true →
      MayEngine d ⟨h, 0x0501⟩ e true →
      d.engHalted e = true →
      x < 8 →
      cls ≤ 6 →
      (cls = 2 → 2 ≤ k ∧ k ≤ 256) →
      policy < 2 →
      exec (.bindSet h e x cls k policy) s = .next { s with
        dev := ((((d.fs F.PE_CTX_BIND_CLASS (8 * e + x) cls).fs F.PE_CTX_BIND_POLICY (8 * e + x) policy).fs F.PE_CTX_BIND_BOUND
            (8 * e + x) 1).fs F.PE_CTX_BIND_K (8 * e + x) (if cls = 2 then k else 0)).done ⟨h, 0x0501⟩ [] }) ∧
    (∀ (e x : Nat) (d : Dev), d = atHead s.dev h 0x0502 → Taken s.dev h 0x0502 → wellFormed (.bindClear h e x) = true →
      MayEngine d ⟨h, 0x0502⟩ e true →
      d.engHalted e = true →
      x < 8 →
      exec (.bindClear h e x) s = .next { s with
        dev := (d.fs F.PE_CTX_BIND_BOUND (8 * e + x) 0).done ⟨h, 0x0502⟩ [] }) ∧
    (∀ (chans depth lag fill k : Nat) (d : Dev), d = atHead s.dev h 0x0701 → Taken s.dev h 0x0701 → wellFormed (.combConfig h chans depth lag fill) = true →
      (∀ e : Nat, e < 64 → d.engHalted e = true) →
      1 ≤ chans →
      chans ≤ 4096 →
      combLog depth = some k →
      chans * depth ≤ 1048576 →
      1 ≤ lag →
      lag ≤ 64 →
      fill < 2 →
      exec (.combConfig h chans depth lag fill) s = .next { s with
        dev := (((((d.fs F.CMB_CFG_CHANS 0 chans).fs F.CMB_CFG_DLOG 0 k).fs F.CMB_CFG_LAG 0 lag).fs F.CMB_CFG_FILL 0 fill).combFlush).done
            ⟨h, 0x0701⟩ [] }) ∧
    (∀ (mask : DWord) (b : BulkRef) (t : Dev) (bs : List Byte) (d : Dev), d = atHead s.dev h 0x0801 → Taken s.dev h 0x0801 → wellFormed (.setsStage h mask b) = true →
      d.resBusy ((onesBelow 64 mask.toNat).map resEngine) = false →
      Copied d t ⟨h, 0x0801⟩ b bs →
      setsCheck bs = none →
      (onesBelow 64 mask.toNat).findSome? (t.setsRefuse ⟨h, 0x0801⟩ (objNat bs 6 2)) = none →
      exec (.setsStage h mask b) s = .next { s with
        dev := (t.each (onesBelow 64 mask.toNat) (fun x e => x.fs F.SET_ESTAT_SHVALID e 0)).start ⟨h, 0x0801⟩
            ((onesBelow 64 mask.toNat).map resEngine) mask.toNat 0 bs }) ∧
    (∀ (g : Nat) (mask : DWord) (d : Dev), d = atHead s.dev h 0x0901 → Taken s.dev h 0x0901 → wellFormed (.pourGroup h g mask) = true →
      g < 16 →
      (∀ e ∈ d.pgEngines g, d.mayName ⟨h, 0x0901⟩ (d.engWorld e) = true) →
      (∀ e ∈ onesBelow 64 mask.toNat, d.mayName ⟨h, 0x0901⟩ (d.engWorld e) = true) →
      d.resBusy (resGroup g :: (onesBelow 64 mask.toNat).map resEngine) = false →
      d.pgArmed g = false →
      (onesBelow 64 mask.toNat).any d.engArmed = false →
      exec (.pourGroup h g mask) s = .next { s with
        dev := ((d.each ((List.range 16).filter (fun x => decide (x ≠ g))) (fun y x => y.setMask x
            ((y.pgEngines x).foldl (fun a e => if mask.toNat.testBit e then a else a + 2 ^ e) 0))).setMask g mask.toNat).done ⟨h, 0x0901⟩ [] }) ∧
    (∀ (g : Nat) (n : DWord) (d : Dev), d = atHead s.dev h 0x0902 → Taken s.dev h 0x0902 → wellFormed (.pourArm h g n) = true →
      g < 16 →
      (∀ e ∈ d.pgEngines g, d.mayName ⟨h, 0x0902⟩ (d.engWorld e) = true) →
      d.resBusy [resGroup g] = false →
      d.pgArmed g = false →
      (∀ e ∈ d.pgEngines g, d.fg F.SET_ESTAT_SHVALID e ≠ 0) →
      d.time.now + 20000 ≤ tickAt d.F n.toNat →
      exec (.pourArm h g n) s = .next { s with
        dev := ((d.wr64 .SET_PG_TICK_LO .SET_PG_TICK_HI g n.toNat).pgArm g).start ⟨h, 0x0902⟩ [resGroup g] g n.toNat [] }) ∧
    (∀ (g : Nat) (d : Dev), d = atHead s.dev h 0x0903 → Taken s.dev h 0x0903 → wellFormed (.pourDisarm h g) = true →
      g < 16 →
      (∀ e ∈ d.pgEngines g, d.mayName ⟨h, 0x0903⟩ (d.engWorld e) = true) →
      exec (.pourDisarm h g) s = .next { s with
        dev := if d.pgArmed g then ((d.fs F.SET_PG_CTL_ARM g 0).done ⟨h, 0x0903⟩ (leBytes 1 1)).abortLongs (fun k => k.poursGroup g) stDisarmed
            else d.done ⟨h, 0x0903⟩ (leBytes 1 0) }) ∧
    (∀ (k policy pp enable : Nat) (d : Dev), d = atHead s.dev h 0x0A01 → Taken s.dev h 0x0A01 → wellFormed (.tripgatePair h k policy pp enable) = true →
      k < 32 →
      d.mayName ⟨h, 0x0A01⟩ (d.pairWorld k) = true →
      d.resBusy [resPair k] = false →
      policy < 3 →
      2000 ≤ pp →
      pp + 2000 ≤ nsPerSec / d.F →
      enable < 2 →
      exec (.tripgatePair h k policy pp enable) s = .next { s with
        dev := (((((d.fs F.TRG_PCFG_POLICY k policy).fs F.TRG_PCFG_VOTER k (if policy = 0 then 0 else 2)).pairRises k
            (fun x => x.fs F.TRG_PCFG_EN k enable)).fs F.TRG_PP_P k pp).fs F.TRG_PSOLO_PEND k 0).done ⟨h, 0x0A01⟩ [] }) ∧
    (∀ (k voter : Nat) (d : Dev), d = atHead s.dev h 0x0A02 → Taken s.dev h 0x0A02 → wellFormed (.tripgateSolo h k voter) = true →
      k < 32 →
      d.mayName ⟨h, 0x0A02⟩ (d.pairWorld k) = true →
      d.resBusy [resPair k] = false →
      voter < 3 →
      (voter = 2 → d.fg F.TRG_PCFG_POLICY k ≠ 0) →
      exec (.tripgateSolo h k voter) s = .next { s with
        dev := (((d.fs F.TRG_PSOLO_NVOTER k voter).fs F.TRG_PSOLO_PEND k 1).wr64 .TRG_STICK_LO .TRG_STICK_HI k d.tickIn20us).done
            ⟨h, 0x0A02⟩ (leBytes 8 d.tickIn20us) }) ∧
    (∀ (e slot addr enable : Nat) (d : Dev), d = atHead s.dev h 0x1201 → Taken s.dev h 0x1201 → wellFormed (.debugEngbrk h e slot addr enable) = true →
      MayEngine d ⟨h, 0x1201⟩ e false →
      d.unlockReach (d.engWorld e) = true →
      slot < 2 →
      addr < 8192 →
      enable < 2 →
      exec (.debugEngbrk h e slot addr enable) s = .next { s with
        dev := ((d.fs F.PE_BRK_ADDR (2 * e + slot) addr).fs F.PE_BRK_EN (2 * e + slot) enable).done ⟨h, 0x1201⟩ [] }) ∧
    (∀ (hives ticks : Nat) (d : Dev), d = atHead s.dev h 0x1202 → Taken s.dev h 0x1202 → wellFormed (.debugStep h hives ticks) = true →
      (∀ v ∈ onesBelow 8 hives, d.mayName ⟨h, 0x1202⟩ (d.hiveWorld v) = true) →
      (∀ v ∈ onesBelow 8 hives, d.unlockReach (d.hiveWorld v) = true) →
      d.resBusy ((onesBelow 8 hives).map resHive) = false →
      exec (.debugStep h hives ticks) s = .next { s with
        dev := (d.each (onesBelow 8 hives) (fun x v => x.onHive v (fun y => { y with stepStart := some (d.tickIn20us, ticks) }))).start
            ⟨h, 0x1202⟩ ((onesBelow 8 hives).map resHive) hives (d.tickIn20us + ticks - 1 + b2n (decide (ticks = 0))) [] })

/-- Table 4.5, opcodes 0x06, 0x0A03, 0x0B, 0x0E and 0x0F. -/
def Obligations.TableKeyLifeDo : Prop :=
  ∀ (s : State) (h : CmdHdr),
    (∀ (b : BulkRef) (t : Dev) (bs : List Byte) (d : Dev), d = atHead s.dev h 0x0601 → Taken s.dev h 0x0601 → wellFormed (.streamTable h b) = true →
      d.resBusy [resTable kindStream] = false →
      Copied d t ⟨h, 0x0601⟩ b bs →
      t.tabCheck ⟨h, 0x0601⟩ bs = none →
      exec (.streamTable h b) s = .next { s with
        dev := (t.scheduleSwitch { table := bs }).start ⟨h, 0x0601⟩ [resTable kindStream] (tabStreams bs) 0 [] }) ∧
    (∀ (i on : Nat) (d : Dev), d = atHead s.dev h 0x0602 → Taken s.dev h 0x0602 → wellFormed (.streamEnable h i on) = true →
      i < 768 →
      on < 2 →
      d.mayName ⟨h, 0x0602⟩ (d.subWorld i) = true →
      exec (.streamEnable h i on) s = .next { s with
        dev := (d.scheduleSwitch { kind := 1, stream := i, on := decide (on = 1) }).done ⟨h, 0x0602⟩ [] }) ∧
    (∀ (i on : Nat) (d : Dev), d = atHead s.dev h 0x0603 → Taken s.dev h 0x0603 → wellFormed (.streamSimsel h i on) = true →
      i < 768 →
      on < 2 →
      d.mayName ⟨h, 0x0603⟩ (d.subWorld i) = true →
      exec (.streamSimsel h i on) s = .next { s with
        dev := (d.scheduleSwitch { kind := 2, stream := i, on := decide (on = 1) }).done ⟨h, 0x0603⟩ [] }) ∧
    (∀ (b : BulkRef) (t : Dev) (bs : List Byte) (d : Dev), d = atHead s.dev h 0x0A03 → Taken s.dev h 0x0A03 → wellFormed (.tripgateMap h b) = true →
      d.resBusy [resTable kindMap] = false →
      Copied d t ⟨h, 0x0A03⟩ b bs →
      t.mapCheck ⟨h, 0x0A03⟩ bs = none →
      exec (.tripgateMap h b) s = .next { s with
        dev := ({ t with trg := { t.trg with mapNext := some (t.time.now + 20000, mapEntries bs) } } : Dev).start ⟨h, 0x0A03⟩ [resTable kindMap] 0 0 [] }) ∧
    (∀ (b : BulkRef) (t : Dev) (bs : List Byte) (d : Dev), d = atHead s.dev h 0x0B01 → Taken s.dev h 0x0B01 → wellFormed (.publishTable h b) = true →
      d.resBusy [resTable kindPub] = false →
      Copied d t ⟨h, 0x0B01⟩ b bs →
      t.pubCheck ⟨h, 0x0B01⟩ bs = none →
      exec (.publishTable h b) s = .next { s with
        dev := t.start ⟨h, 0x0B01⟩ [resTable kindPub] 0 0 bs }) ∧
    (∀ (b on : Nat) (d : Dev), d = atHead s.dev h 0x0B02 → Taken s.dev h 0x0B02 → wellFormed (.publishEnable h b on) = true →
      b < 128 →
      on < 2 →
      (d.pblk b).loaded = true →
      d.mayName ⟨h, 0x0B02⟩ (d.fg F.PUB_CFG_WORLD b) = true →
      exec (.publishEnable h b on) s = .next { s with
        dev := (if on = 1 then d.pubEnable b else d.pubDisable b).done ⟨h, 0x0B02⟩ [] }) ∧
    (∀ (slot : Nat) (b : BulkRef) (t : Dev) (bs : List Byte) (d : Dev), d = atHead s.dev h 0x0E01 → Taken s.dev h 0x0E01 → wellFormed (.keysRevoke h slot b) = true →
      slot < 8 →
      d.resBusy [resFuse] = false →
      Copied d t ⟨h, 0x0E01⟩ b bs →
      t.envelope (if slot < 2 then [1 - slot] else [2, 3]) (leBytes 1 slot) bs = none →
      (t.keySlot (if slot % 2 = 0 then slot + 1 else slot - 1)).revoked = false →
      exec (.keysRevoke h slot b) s = .next { s with
        dev := t.start ⟨h, 0x0E01⟩ [resFuse] slot 0 [] }) ∧
    (∀ (counter : Nat) (b : BulkRef) (t : Dev) (bs : List Byte) (d : Dev), d = atHead s.dev h 0x0E02 → Taken s.dev h 0x0E02 → wellFormed (.keysArb h counter b) = true →
      counter < 2 →
      d.resBusy [resFuse] = false →
      Copied d t ⟨h, 0x0E02⟩ b bs →
      t.envelope [2, 3] (leBytes 1 counter) bs = none →
      exec (.keysArb h counter b) s = .next { s with
        dev := t.start ⟨h, 0x0E02⟩ [resFuse] counter 0 [] }) ∧
    (∀ (slot : Nat) (b : BulkRef) (t : Dev) (bs : List Byte) (d : Dev), d = atHead s.dev h 0x0E03 → Taken s.dev h 0x0E03 → wellFormed (.keysSealput h slot b) = true →
      d.ringWorld h.ring = 1 →
      Copied d t ⟨h, 0x0E03⟩ b bs →
      t.envelope [2, 3] (leBytes 1 slot) bs = none →
      exec (.keysSealput h slot b) s = .next { s with
        dev := t.start ⟨h, 0x0E03⟩ [] slot 0 bs }) ∧
    (∀ (target : Nat) (slots : List Nat) (b : BulkRef) (t : Dev) (bs : List Byte) (d : Dev), d = atHead s.dev h 0x0F01 → Taken s.dev h 0x0F01 → wellFormed (.lifeGo h target b) = true →
      target < 5 →
      d.mode = 2 →
      lifeSlots d.lcs.state target = some slots →
      d.resBusy [resFuse] = false →
      Copied d t ⟨h, 0x0F01⟩ b bs →
      t.envelope slots (leBytes 1 target) bs = none →
      (target = 1 → keysGiven bs = true) →
      exec (.lifeGo h target b) s = .next { s with
        dev := 
          (let e := if target = 3 then ({ t with lcs := { t.lcs with retpend := true } } : Dev) else t
           e.start ⟨h, 0x0F01⟩ [resFuse] target e.lcs.state bs) })

/-- The sources of time (R102 to R111). -/
def Obligations.TimeSourcesAct : Prop :=
  ∀ (s : State),
    (∀ (rq : Req) (v : Word), wellFormed (.tmbMeas rq v) = true →
      rq.svp = true →
      s.dev.reaches rq 2 = true →
      1 ≤ s.dev.fg F.TMB_MEASSRC_SRC 0 →
      s.dev.fg F.TMB_MEASSRC_SRC 0 ≤ 4 →
      exec (.tmbMeas rq v) s = .next { s with
        dev := (s.dev.measure (s.dev.fg F.TMB_MEASSRC_SRC 0) (sext 32 v.toNat) true).ok 0 }) ∧
    (∀ (rq : Req) (v : Word), wellFormed (.tmbMeas rq v) = true →
      rq.svp = true →
      s.dev.reaches rq 2 = true →
      ¬ (1 ≤ s.dev.fg F.TMB_MEASSRC_SRC 0 ∧ s.dev.fg F.TMB_MEASSRC_SRC 0 ≤ 4) →
      exec (.tmbMeas rq v) s = .next { s with
        dev := (s.dev.errCap 4 { ty := 0x10, addr := devAddr 4 0x3C, info := s.dev.fg F.TMB_MEASSRC_SRC 0 }).ok 0 }) ∧
    (∀ (f : IrigFrame), wellFormed (.irigFrame f) = true →
      s.dev.domOn 2 = true →
      f.markersOk = false →
      s.dev.fg F.TMB_STAT_SRC 0 ≠ 5 →
      exec (.irigFrame f) s = .next { s with
        dev := (s.dev.inc F.TMB_IRIGST_BADCNT 0).setSrcCnt 5 0 }) ∧
    (∀ (f : IrigFrame) (d : Dev), wellFormed (.irigFrame f) = true →
      s.dev.domOn 2 = true →
      f.markersOk = true →
      d = s.dev.tsuCap 0x02 (f.edge - s.dev.fg F.TMB_IRIGDLY_DLY 0) →
      d.irigOk f = true →
      exec (.irigFrame f) s = .next { s with
        dev := ((((d.fs F.TMB_IRIGST_TQ 0 f.tq).fs F.TMB_IRIGST_LSP 0 (b2n f.lsp)).fs F.TMB_IRIGST_LSS 0 (b2n f.lss)).irigLeap f
          (d.irigLocal f + f.utcOfs)).measure 5 (((f.edge - s.dev.fg F.TMB_IRIGDLY_DLY 0 : Nat) : Int) -
            (d.irigLocal f + f.utcOfs + sext 16 (d.fg F.TMB_UTCOFS_OFS 0)) * (nsPerSec : Int)) true }) ∧
    (∀ (d : Dev) (x : Nat), 
      s.dev.domOn 2 = true →
      x = s.dev.time.now - s.dev.fg F.TMB_PPSDLY_DLY 0 →
      d = s.dev.tsuCap 0x01 x →
      ((∀ k, d.time.lastPps = some k → k + 900000000 ≤ d.clk)) →
      ({ d with time := { d.time with lastPps := some d.clk } } : Dev).fg F.TMB_STAT_SECVALID 0 = 1 →
      exec .ppsInEdge s = .next { s with
        dev := ({ d with time := { d.time with lastPps := some d.clk } } : Dev).measure 6
          (if 500000000 < x % nsPerSec then ((x % nsPerSec : Nat) : Int) - nsPerSec else ((x % nsPerSec : Nat) : Int)) false }) ∧
    (∀ (src k : Nat) (d : Dev), wellFormed (.timeSourceLoss src) = true →
      s.dev.domOn 2 = true →
      s.dev.lastMeas src = some k →
      d = (s.dev.moveClk (k + s.dev.lossTo)).setSrcCnt src 0 →
      exec (.timeSourceLoss src) s = .next { s with
        dev := 
         (let e : Dev := { d with time := { d.time with lastMeas := SMap.set (fun _ => none) d.time.lastMeas src none } }
         if e.fg F.TMB_STAT_SRC 0 = src then e.reselect else e) }) ∧
    (
      s.dev.domOn 2 = true →
      s.dev.fg F.TMB_STAT_STATE 0 = 3 →
      exec .holdoverLimit s = .next { s with
        dev := (s.dev.moveClk (s.dev.time.holdAt + s.dev.fg F.TMB_HOLD_HOLDLIM 0 * nsPerSec)).setLock 0 }) ∧
    (
      s.dev.domOn 2 = true →
      s.dev.utcSec ≠ 0 →
      s.dev.time.now ≤ s.dev.utcSec * nsPerSec →
      exec .leapSecond s = .next { s with
        dev := 
         (let e := s.dev.moveTo (s.dev.utcSec * nsPerSec)
         ((e.fs F.TMB_UTCOFS_OFS 0 (e.fg F.TMB_UTCOFS_NEXT 0)).fs F.TMB_UTCSEC_LO_SEC 0 0).fs F.TMB_UTCSEC_HI_SEC 0 0) }) ∧
    (
      s.dev.domOn 2 = true →
      s.dev.ppsLive = true →
      exec .ppsOutPulse s = .next { s with
        dev := 
         (let e := s.dev.moveTo ((s.dev.time.now + nsPerSec - 1) / nsPerSec * nsPerSec)
         { e with time := { e.time with ppsHigh := true, ppsAt := (s.dev.time.now + nsPerSec - 1) / nsPerSec * nsPerSec } }) }) ∧
    (
      s.dev.time.ppsHigh = true →
      exec .ppsOutEnd s = .next { s with
        dev := 
         (let e := s.dev.moveTo (s.dev.time.ppsAt + min 1000 (s.dev.fg F.TMB_PPSOUT_WIDTH 0) * 1000)
         { e with time := { e.time with ppsHigh := false } }) })

/-- The tick generator (R114 to R117, R37). -/
def Obligations.TickGridActs : Prop :=
  ∀ (s : State),
    (∀ (rq : Req) (v : Word), wellFormed (.tkgCtlArm rq v) = true →
      rq.svp = true →
      s.dev.reaches rq 2 = true →
      bits v.toNat 3 1 < 6 →
      s.dev.time.now < s.dev.effSec * nsPerSec →
      exec (.tkgCtlArm rq v) s = .next { s with
        dev := ((s.dev.fs F.TKG_CTL_NEXT 0 (bits v.toNat 3 1)).fs F.TKG_CTL_ARM 0 1).ok 0 }) ∧
    (∀ (rq : Req) (v : Word), wellFormed (.tkgCtlArm rq v) = true →
      rq.svp = true →
      s.dev.reaches rq 2 = true →
      bits v.toNat 3 1 < 6 →
      s.dev.effSec * nsPerSec ≤ s.dev.time.now →
      exec (.tkgCtlArm rq v) s = .next { s with
        dev := ((((s.dev.fs F.TKG_CTL_NEXT 0 (bits v.toNat 3 1)).fs F.TKG_CTL_ARM 0 0).edge 10 (fun x => x.fs F.TKG_STAT_ARMLATE 0 1)).ok 0) }) ∧
    (∀ (rq : Req) (v : Word), wellFormed (.tkgCtlArm rq v) = true →
      rq.svp = true →
      s.dev.reaches rq 2 = true →
      6 ≤ bits v.toNat 3 1 →
      exec (.tkgCtlArm rq v) s = .next { s with
        dev := (((s.dev.fs F.TKG_CTL_NEXT 0 (bits v.toNat 3 1)).fs F.TKG_CTL_ARM 0 0).ok 0) }) ∧
    (∀ (d : Dev) (old new : Nat), 
      s.dev.domOn 2 = true →
      s.dev.fg F.TKG_CTL_ARM 0 = 1 →
      d = s.dev.moveTo (s.dev.effSec * nsPerSec) →
      old = d.fg F.TKG_RATE_CODE 0 →
      new = d.fg F.TKG_CTL_NEXT 0 →
      new ≠ old →
      (d.mode = 1 ∨ d.mode = 2) →
      exec .rateChange s = .next { s with
        dev := 
         (let e := d.fs F.TKG_CTL_ARM 0 0
         let e := e.record 0x0012 0 0 (leBytes 4 old ++ leBytes 4 new ++ leBytes 8 e.effSec)
         let e := ((e.fs F.TKG_RATE_CODE 0 new).fs F.TKG_BUDGET_CYC 0 (nsPerSec / max 1 (rateHz new))).edge 10
           (fun x => x.fs F.TKG_STAT_CHANGED 0 1)
         { e with time := { e.time with rateDue := true, oldRate := old } }) }) ∧
    (
      s.dev.domOn 2 = true →
      s.dev.fg F.TKG_CTL_ARM 0 = 1 →
      (s.dev.moveTo (s.dev.effSec * nsPerSec)).mode ≠ 1 →
      (s.dev.moveTo (s.dev.effSec * nsPerSec)).mode ≠ 2 →
      exec .rateChange s = .next { s with
        dev := (s.dev.moveTo (s.dev.effSec * nsPerSec)).fs F.TKG_CTL_ARM 0 0 }) ∧
    (∀ (m n : Nat) (d : Dev), 
      s.dev.domOn 2 = true →
      s.dev.pwr.pend = some (m, n) →
      n ≤ s.dev.nextTick →
      m ≠ 0 →
      d = s.dev.moveTo (tickAt s.dev.F s.dev.nextTick) →
      exec .modeSwitch s = .next { s with
        dev := 
         (let e := ({ d with pwr := { d.pwr with pend := none } } : Dev).setLong (d.cmd.long.filter LongCmd.long)
         let e := if d.mode = 2 ∧ e.time.now < e.effSec * nsPerSec then e.fs F.TKG_CTL_ARM 0 0 else e
         let e := e.changeMode m trigCommand
         if d.mode = 4 then (e.stepEnd s.dev.nextTick).simStopAll else e) }) ∧
    (∀ (n : Nat) (d e : Dev), 
      s.dev.domOn 2 = true →
      s.dev.pwr.pend = some (0, n) →
      n ≤ s.dev.nextTick →
      d = s.dev.moveTo (tickAt s.dev.F s.dev.nextTick) →
      e = ({ d with pwr := { d.pwr with pend := none } } : Dev).setLong (d.cmd.long.filter LongCmd.long) →
      exec .modeSwitch s = .next { s with
        dev := 
         (let x := ((e.modeRecord e.mode 0 trigCommand).jrnFlush).toDormant
         { x with pwr := { x.pwr with stay := true, inputSeen := false, wakeCause := 3 } }) }) ∧
    (∀ (n x : Nat) (flush : Bool) (d0 d : Dev), 
      s.dev.domOn 2 = true →
      s.dev.fg F.TKG_CTL_ARM 0 = 0 →
      n = s.dev.nextTick →
      x = tickAt s.dev.F n →
      d0 = (s.dev.each (List.range 4) Dev.cmdDrop).applySwitches x →
      flush = (d0.time.flushDue || d0.time.rateDue || d0.time.combDue) →
      d = ((d0.gridTo n).pendMode n).takeMode →
      d.mode ≠ 0 →
      exec .tick s = .next { s with
        dev := 
         (let e := (d.each (List.range 64) Dev.outClear).tsuCap 0x03 x
         let e := if n % e.F = 0 then e.tsuCap 0x05 x else e
         let e := (e.icPend 11).tmrAll 1
         let e := if e.domOn 8 then e.combTick n flush else e
         let e := e.capTick
         let e := if e.domOn 17 then e.pourTick n else e
         let e := e.each (List.range 8) (fun y h => y.stepTick n h)
         let e := e.each ((List.range 64).filter (fun i => (e.eng i).runArmed && decide ((e.eng i).startTick ≤ n))) Dev.engineStartNow
         e.each (List.range 64) (fun y i => y.engTick i n e.clk)) }) ∧
    (∀ (n : Nat) (d : Dev), 
      s.dev.domOn 2 = true →
      s.dev.fg F.TKG_CTL_ARM 0 = 0 →
      n = s.dev.nextTick →
      d = ((((s.dev.each (List.range 4) Dev.cmdDrop).applySwitches (tickAt s.dev.F n)).gridTo n).pendMode n).takeMode →
      d.mode = 0 →
      exec .tick s = .next { s with
        dev := d }) ∧
    (
      s.dev.domOn 2 = true →
      exec .tick s = .next { s with
        dev := s.dev.tickNow }) ∧
    (∀ (x : Nat) (d : Dev), 
      s.dev.domOn 2 = true →
      s.dev.time.tickRaised = true →
      s.dev.time.halfDone = false →
      x = halfAt s.dev.tickF s.dev.tickNo →
      d = s.dev.moveTo x →
      exec .half s = .next { s with
        dev := 
         (let e := ({ d with time := { d.time with halfDone := true } } : Dev).tsuCap 0x04 x
         let e := (e.icPend 12).tmrAll 2
         e.each (List.range 64) (fun y i => y.engHalf i e.clk)) }) ∧
    (
      s.dev.time.halfDone = true →
      exec .half s = .next s)

/-- Timers and the timestamp unit (R120 to R130). -/
def Obligations.TimersAct : Prop :=
  ∀ (s : State),
    (∀ (k e : Nat) (d : Dev) (st : TmrStep), wellFormed (.timerCount k) = true →
      s.dev.domOn 2 = true →
      s.dev.fg F.TMR_CTL_EN k = 1 →
      s.dev.fg F.TMR_CTL_CLKSEL k = 0 →
      e % 2 ^ s.dev.fg F.TMR_CTL_PRE k = 0 →
      max s.dev.clk ((s.dev.tmr k).lastClk + 1) ≤ e →
      e < max s.dev.clk ((s.dev.tmr k).lastClk + 1) + 2 ^ s.dev.fg F.TMR_CTL_PRE k →
      d = (((s.dev.moveClk e).onTmr k (fun y => { y with lastClk := e })).tmrPending k) →
      st = (if d.fg F.TMR_CTL_MODE k = 0 then upStep (decide (d.fg F.TMR_CTL_TOPBUF k = 0)) (d.rd .TMR_CNT k).toNat (d.tmr k).top.toNat
           else upDownStep (decide (d.fg F.TMR_CTL_TOPBUF k = 0)) (!(d.tmr k).startUp && decide (d.fg F.TMR_STAT_DIR k = 1))
             (d.rd .TMR_CNT k).toNat (d.tmr k).top.toNat) →
      exec (.timerCount k) s = .next { s with
        dev := 
         (let y := ((d.wr .TMR_CNT k (BitVec.ofNat 32 st.cnt)).fs F.TMR_STAT_DIR k (b2n st.nextDown)).onTmr k (fun z => { z with startUp := false })
         let y := y.each (List.range 4) (fun z c => z.tmrCompare k st c)
         let y := y.cond st.wrap (fun z => z.tmrEvt k 4 (0x10 + k))
         let y := y.cond st.turn (fun z => z.tmrEvt k 5 (0x20 + k))
         let y := y.cond st.short (fun z => z.tmrEvt k 6 0xFFFF)
         let y := if st.wrap && !decide (d.fg F.TMR_CTL_TOPBUF k = 0) then
             (y.onTmr k (fun z => { z with top := z.pTop.getD z.top, pTop := none })).fs F.TMR_STAT_TOPPEND k 0 else y
         let casc := y.fg F.TMR_CTL_CASC (k + 1)
         if k + 1 < 16 ∧ y.fg F.TMR_CTL_EN (k + 1) = 1 ∧ y.fg F.TMR_CTL_CLKSEL (k + 1) = 3 ∧
            (decide (casc = 0) && st.wrap || decide (casc = 1) && st.turn || decide (casc = 2) && (st.wrap || st.turn))
         then y.tmrClock (k + 1) 15 else y) }) ∧
    (∀ (k : Nat), wellFormed (.timerCount k) = true →
      (s.dev.fg F.TMR_CTL_EN k ≠ 1 ∨ s.dev.fg F.TMR_CTL_CLKSEL k ≠ 0) →
      exec (.timerCount k) s = .next s) ∧
    (∀ (rq : Req) (k : Nat), wellFormed (.tmrCntRead rq k) = true →
      s.dev.reaches rq 2 = true →
      exec (.tmrCntRead rq k) s = .next { s with
        dev := (if k < 15 then s.dev.wr .TMR_LATCH (k + 1) (s.dev.rd .TMR_CNT (k + 1)) else s.dev).ok (s.dev.rd .TMR_CNT k).toNat }) ∧
    (∀ (rq : Req) (half : Nat) (v : Word), wellFormed (.tsuSwtrig rq half v) = true →
      s.dev.reaches rq 2 = true →
      exec (.tsuSwtrig rq half v) s = .next { s with
        dev := (s.dev.each ((onesBelow 32 v.toNat).map (fun b => 32 * half + b)) (fun x n =>
          if x.fg F.TSU_CCFG_SRC n = 8 ∧ (rq.svp ∨ rq.ofWorld (x.fg F.TSU_CCFG_WORLD n))
          then x.tsuChannel s.dev.time.now n else x)).ok 0 })

/-- R135, for sampled values. -/
def Obligations.SvChecksInOrder : Prop :=
  ∀ (s : State),
    (∀ (p : Nat) (f : SvFrame), wellFormed (.svFrame p f) = true →
      s.dev.portOn p = true →
      f.hdr.len < 64 ∨ 1522 < f.hdr.len →
      exec (.svFrame p f) s = .next { s with
        dev := s.dev.inc F.ETH_RXLEN_COUNT p }) ∧
    (∀ (p : Nat) (f : SvFrame), wellFormed (.svFrame p f) = true →
      s.dev.portOn p = true →
      64 ≤ f.hdr.len →
      f.hdr.len ≤ 1522 →
      fcsOk f.hdr f.octets = false →
      exec (.svFrame p f) s = .next { s with
        dev := s.dev.inc F.ETH_RXFCS_COUNT p }) ∧
    (∀ (p : Nat) (f : SvFrame) (d e : Dev), wellFormed (.svFrame p f) = true →
      s.dev.portOn p = true →
      s.dev.rxCheck p f.hdr f.octets false = (d, .take) →
      e = d.hsrOffer p f.hdr f.octets →
      p < 2 →
      (List.range e.nStream).find? (e.svMatch p f) = none →
      exec (.svFrame p f) s = .next { s with
        dev := (e.inc F.ING_UNSUB_COUNT 0).hostOrFilt p f.hdr f.octets }) ∧
    (∀ (p st : Nat) (f : SvFrame) (d e : Dev), wellFormed (.svFrame p f) = true →
      s.dev.portOn p = true →
      s.dev.rxCheck p f.hdr f.octets false = (d, .take) →
      e = d.hsrOffer p f.hdr f.octets →
      p < 2 →
      (List.range e.nStream).find? (e.svMatch p f) = some st →
      e.fg F.ETH_CFG_COPYSUB p ≠ 1 →
      e.svPduOk st f = false →
      exec (.svFrame p f) s = .next { s with
        dev := ((e.inc F.ING_BADPDU_COUNT 0).setEvt 112 F.ING_EVT_BADPDU 0).inc F.ALN_SDROP_COUNT st }) ∧
    (∀ (p st : Nat) (f : SvFrame) (d e : Dev), wellFormed (.svFrame p f) = true →
      s.dev.portOn p = true →
      s.dev.rxCheck p f.hdr f.octets false = (d, .take) →
      e = d.hsrOffer p f.hdr f.octets →
      p < 2 →
      (List.range e.nStream).find? (e.svMatch p f) = some st →
      e.fg F.ETH_CFG_COPYSUB p ≠ 1 →
      e.svPduOk st f = true →
      e.authOk (e.sdAuth st) (e.sdKey st) (e.sdWorld st) f.ext f.octets = false →
      exec (.svFrame p f) s = .next { s with
        dev := ((e.inc F.ING_AUTHF_COUNT 0).setEvt 112 F.ING_EVT_AUTHF 0).inc F.ALN_SDROP_COUNT st }) ∧
    (∀ (p st : Nat) (f : SvFrame) (d e : Dev), wellFormed (.svFrame p f) = true →
      s.dev.portOn p = true →
      s.dev.rxCheck p f.hdr f.octets false = (d, .take) →
      e = d.hsrOffer p f.hdr f.octets →
      p < 2 →
      (List.range e.nStream).find? (e.svMatch p f) = some st →
      e.fg F.ETH_CFG_COPYSUB p ≠ 1 →
      e.svPduOk st f = true →
      e.authOk (e.sdAuth st) (e.sdKey st) (e.sdWorld st) f.ext f.octets = true →
      e.simPass (e.sdSimsel st) (decide (e.fg F.ALN_SSTAT_SIMTAKEN st = 1)) f.sim = false →
      exec (.svFrame p f) s = .next { s with
        dev := e.inc F.ING_SIMDROP_COUNT 0 }) ∧
    (∀ (p st : Nat) (f : SvFrame) (d e : Dev) (x : Dev), wellFormed (.svFrame p f) = true →
      s.dev.portOn p = true →
      s.dev.rxCheck p f.hdr f.octets false = (d, .take) →
      e = d.hsrOffer p f.hdr f.octets →
      p < 2 →
      (List.range e.nStream).find? (e.svMatch p f) = some st →
      e.fg F.ETH_CFG_COPYSUB p ≠ 1 →
      e.svPduOk st f = true →
      e.authOk (e.sdAuth st) (e.sdKey st) (e.sdWorld st) f.ext f.octets = true →
      e.simPass (e.sdSimsel st) (decide (e.fg F.ALN_SSTAT_SIMTAKEN st = 1)) f.sim = true →
      f.sim = false ∨ e.fg F.ALN_SSTAT_SIMTAKEN st = 1 →
      e.svCredit st = (x, false) →
      exec (.svFrame p f) s = .next { s with
        dev := (x.setEvt 112 F.ING_EVT_OVF 0).inc F.ALN_SDROP_COUNT st }) ∧
    (∀ (p st : Nat) (f : SvFrame) (d e : Dev) (x : Dev), wellFormed (.svFrame p f) = true →
      s.dev.portOn p = true →
      s.dev.rxCheck p f.hdr f.octets false = (d, .take) →
      e = d.hsrOffer p f.hdr f.octets →
      p < 2 →
      (List.range e.nStream).find? (e.svMatch p f) = some st →
      e.fg F.ETH_CFG_COPYSUB p ≠ 1 →
      e.svPduOk st f = true →
      e.authOk (e.sdAuth st) (e.sdKey st) (e.sdWorld st) f.ext f.octets = true →
      e.simPass (e.sdSimsel st) (decide (e.fg F.ALN_SSTAT_SIMTAKEN st = 1)) f.sim = true →
      f.sim = false ∨ e.fg F.ALN_SSTAT_SIMTAKEN st = 1 →
      e.svCredit st = (x, true) →
      exec (.svFrame p f) s = .next { s with
        dev := (List.range f.asdus.length).foldl (fun y i =>
          (f.asdus[i]?).elim y (fun a => y.svSample p st f.sim i a)) x })

/-- R154: what an accepted GOOSE frame does. -/
def Obligations.GooseFrameReplacesOrRefreshes : Prop :=
  ∀ (s : State),
    (∀ (p g : Nat) (f : GooseFrame) (d e x : Dev), wellFormed (.gooseFrame p f) = true →
      s.dev.portOn p = true →
      s.dev.rxCheck p f.hdr f.octets false = (d, .take) →
      e = d.hsrOffer p f.hdr f.octets →
      (List.range e.nGoose).find? (e.gooseMatch p f) = some g →
      e.fg F.ETH_CFG_COPYSUB p ≠ 1 →
      e.goosePduOk g f = true →
      e.authOk (e.gdAuth g) (e.gdKey g) (e.gdWorld g) f.ext f.octets = true →
      e.simPass (e.gdSimsel g) (decide (e.fg F.ALN_GSTAT_SIMTAKEN g = 1)) f.sim = true →
      f.sim = false →
      e.gooseCredit g = (x, true) →
      x.gooseDue g = false →
      ((x.gst g).got = false ∨ (x.gst g).force = true ∨ (x.gst g).closed = true ∨ numHigher f.stNum (x.rd .ALN_STNUM g).toNat = true) →
      exec (.gooseFrame p f) s = .next { s with
        dev := x.gooseReplace p g f }) ∧
    (∀ (p g : Nat) (f : GooseFrame) (d e x : Dev), wellFormed (.gooseFrame p f) = true →
      s.dev.portOn p = true →
      s.dev.rxCheck p f.hdr f.octets false = (d, .take) →
      e = d.hsrOffer p f.hdr f.octets →
      (List.range e.nGoose).find? (e.gooseMatch p f) = some g →
      e.fg F.ETH_CFG_COPYSUB p ≠ 1 →
      e.goosePduOk g f = true →
      e.authOk (e.gdAuth g) (e.gdKey g) (e.gdWorld g) f.ext f.octets = true →
      e.simPass (e.gdSimsel g) (decide (e.fg F.ALN_GSTAT_SIMTAKEN g = 1)) f.sim = true →
      f.sim = false →
      e.gooseCredit g = (x, true) →
      x.gooseDue g = false →
      ¬ ((x.gst g).got = false ∨ (x.gst g).force = true ∨ (x.gst g).closed = true ∨ numHigher f.stNum (x.rd .ALN_STNUM g).toNat = true) →
      f.stNum = (x.rd .ALN_STNUM g).toNat →
      numHigher f.sqNum (x.rd .ALN_SQNUM g).toNat = true →
      exec (.gooseFrame p f) s = .next { s with
        dev := x.gooseWindow p g f }) ∧
    (∀ (p g : Nat) (f : GooseFrame) (d e x : Dev), wellFormed (.gooseFrame p f) = true →
      s.dev.portOn p = true →
      s.dev.rxCheck p f.hdr f.octets false = (d, .take) →
      e = d.hsrOffer p f.hdr f.octets →
      (List.range e.nGoose).find? (e.gooseMatch p f) = some g →
      e.fg F.ETH_CFG_COPYSUB p ≠ 1 →
      e.goosePduOk g f = true →
      e.authOk (e.gdAuth g) (e.gdKey g) (e.gdWorld g) f.ext f.octets = true →
      e.simPass (e.gdSimsel g) (decide (e.fg F.ALN_GSTAT_SIMTAKEN g = 1)) f.sim = true →
      f.sim = false →
      e.gooseCredit g = (x, true) →
      x.gooseDue g = false →
      ¬ ((x.gst g).got = false ∨ (x.gst g).force = true ∨ (x.gst g).closed = true ∨ numHigher f.stNum (x.rd .ALN_STNUM g).toNat = true) →
      ¬ (f.stNum = (x.rd .ALN_STNUM g).toNat ∧ numHigher f.sqNum (x.rd .ALN_SQNUM g).toNat = true) →
      exec (.gooseFrame p f) s = .next { s with
        dev := x.inc F.ALN_GDROP_COUNT g })

/-- R153, R154, R156. -/
def Obligations.IngestEventsAct : Prop :=
  ∀ (s : State),
    (∀ (g : Nat), wellFormed (.validityWindowClose g) = true →
      s.dev.domOn 7 = true →
      (s.dev.gst g).got = true →
      (s.dev.gst g).closed = false →
      exec (.validityWindowClose g) s = .next { s with
        dev := (((s.dev.moveTo (s.dev.gst g).closeAt).onGst g (fun x => { x with closed := true })).fs F.ALN_GSTAT_VALID g 0).setEvt 113
          F.ALN_EVT_TALEXP 0 }) ∧
    (∀ (x : StreamSwitch) (l : List StreamSwitch) (k : Nat), 
      s.dev.ing.switches = x :: l →
      k = tickAt s.dev.F (tickFrom s.dev.F x.due) →
      s.dev.tickTime < k →
      k ≤ tickAt s.dev.tickF (s.dev.tickNo + 1) →
      exec .streamSwitch s = .next { s with
        dev := (s.dev.moveTo k).applySwitches k }) ∧
    (∀ (x : StreamSwitch) (l : List StreamSwitch), 
      s.dev.ing.switches = x :: l →
      tickAt s.dev.F (tickFrom s.dev.F x.due) ≤ s.dev.tickTime →
      exec .streamSwitch s = .next { s with
        dev := s.dev.applySwitches s.dev.tickTime }) ∧
    (∀ (rq : Req) (off size : Nat), wellFormed (.combWindowRead rq off size) = true →
      s.dev.domOn 8 = true →
      size = 4 ∨ size = 8 →
      off % size = 0 →
      s.dev.cmbC ≠ 0 →
      off / 8 < s.dev.cmbC * s.dev.cmbD →
      rq.world = 2 ∨ s.dev.chanWorld (off / 8 % s.dev.cmbC) = rq.world →
      s.dev.mem.ue = [] →
      s.dev.fenced rq = false →
      exec (.combWindowRead rq off size) s = .next { s with
        dev := 
         (let v := (s.dev.windowCell (off / 8 / s.dev.cmbC) (off / 8 % s.dev.cmbC)).toNat
         s.dev.ok (if size = 8 then v else if off % 8 = 0 then v % 2 ^ 32 else v / 2 ^ 32)) }) ∧
    (∀ (rq : Req) (off size : Nat), wellFormed (.combWindowRead rq off size) = true →
      s.dev.domOn 8 = true →
      size = 4 ∨ size = 8 →
      off % size = 0 →
      s.dev.cmbC = 0 ∨ s.dev.cmbC * s.dev.cmbD ≤ off / 8 →
      s.dev.fenced rq = false →
      exec (.combWindowRead rq off size) s = .next { s with
        dev := s.dev.ok 0 }) ∧
    (∀ (rq : Req) (off size : Nat), wellFormed (.combWindowRead rq off size) = true →
      s.dev.domOn 8 = true →
      size = 4 ∨ size = 8 →
      off % size = 0 →
      s.dev.cmbC ≠ 0 →
      off / 8 < s.dev.cmbC * s.dev.cmbD →
      rq.world < 2 →
      s.dev.chanWorld (off / 8 % s.dev.cmbC) ≠ rq.world →
      s.dev.fenced rq = false →
      exec (.combWindowRead rq off size) s = .next { s with
        dev := s.dev.errResp 10 rq 0x05 (0x4000000000 + off) 0 })

/-- R197: the operations of the integer units. -/
def Obligations.IntegerUnitOperations : Prop :=
  ∀ (s : State),
    (∀ (e u c : Nat) (a t : Word), wellFormed (.eIaluOp e u 0 t) = true →
      (s.dev.eng e).cur = some c →
      s.dev.running e = true →
      (s.dev.eng e).freeAt u ≤ s.dev.clk →
      a = (s.dev.eng e).lat (0x40 + 0x18 * u) →
      exec (.eIaluOp e u 0 t) s = .next { s with
        dev := s.dev.onEng e (fun x => x.push
          { unit := u, ctx := c, outs := [(0x40 + u, (a + t).toNat)], ready := s.dev.clk + 1 }) }) ∧
    (∀ (e u c : Nat) (a t : Word), wellFormed (.eIaluOp e u 1 t) = true →
      (s.dev.eng e).cur = some c →
      s.dev.running e = true →
      (s.dev.eng e).freeAt u ≤ s.dev.clk →
      a = (s.dev.eng e).lat (0x40 + 0x18 * u) →
      exec (.eIaluOp e u 1 t) s = .next { s with
        dev := s.dev.onEng e (fun x => x.push
          { unit := u, ctx := c, outs := [(0x40 + u, (a - t).toNat)], ready := s.dev.clk + 1 }) }) ∧
    (∀ (e u c : Nat) (a t : Word), wellFormed (.eIaluOp e u 2 t) = true →
      (s.dev.eng e).cur = some c →
      s.dev.running e = true →
      (s.dev.eng e).freeAt u ≤ s.dev.clk →
      a = (s.dev.eng e).lat (0x40 + 0x18 * u) →
      exec (.eIaluOp e u 2 t) s = .next { s with
        dev := s.dev.onEng e (fun x => x.push
          { unit := u, ctx := c, outs := [(0x40 + u, (a &&& t).toNat)], ready := s.dev.clk + 1 }) }) ∧
    (∀ (e u c : Nat) (a t : Word), wellFormed (.eIaluOp e u 3 t) = true →
      (s.dev.eng e).cur = some c →
      s.dev.running e = true →
      (s.dev.eng e).freeAt u ≤ s.dev.clk →
      a = (s.dev.eng e).lat (0x40 + 0x18 * u) →
      exec (.eIaluOp e u 3 t) s = .next { s with
        dev := s.dev.onEng e (fun x => x.push
          { unit := u, ctx := c, outs := [(0x40 + u, (a ||| t).toNat)], ready := s.dev.clk + 1 }) }) ∧
    (∀ (e u c : Nat) (a t : Word), wellFormed (.eIaluOp e u 4 t) = true →
      (s.dev.eng e).cur = some c →
      s.dev.running e = true →
      (s.dev.eng e).freeAt u ≤ s.dev.clk →
      a = (s.dev.eng e).lat (0x40 + 0x18 * u) →
      exec (.eIaluOp e u 4 t) s = .next { s with
        dev := s.dev.onEng e (fun x => x.push
          { unit := u, ctx := c, outs := [(0x40 + u, (a ^^^ t).toNat)], ready := s.dev.clk + 1 }) }) ∧
    (∀ (e u c : Nat) (a t : Word), wellFormed (.eIaluOp e u 5 t) = true →
      (s.dev.eng e).cur = some c →
      s.dev.running e = true →
      (s.dev.eng e).freeAt u ≤ s.dev.clk →
      a = (s.dev.eng e).lat (0x40 + 0x18 * u) →
      exec (.eIaluOp e u 5 t) s = .next { s with
        dev := s.dev.onEng e (fun x => x.push
          { unit := u, ctx := c, outs := [(0x40 + u, (a <<< (t.toNat % 32)).toNat)], ready := s.dev.clk + 1 }) }) ∧
    (∀ (e u c : Nat) (a t : Word), wellFormed (.eIaluOp e u 6 t) = true →
      (s.dev.eng e).cur = some c →
      s.dev.running e = true →
      (s.dev.eng e).freeAt u ≤ s.dev.clk →
      a = (s.dev.eng e).lat (0x40 + 0x18 * u) →
      exec (.eIaluOp e u 6 t) s = .next { s with
        dev := s.dev.onEng e (fun x => x.push
          { unit := u, ctx := c, outs := [(0x40 + u, (a >>> (t.toNat % 32)).toNat)], ready := s.dev.clk + 1 }) }) ∧
    (∀ (e u c : Nat) (a t : Word), wellFormed (.eIaluOp e u 7 t) = true →
      (s.dev.eng e).cur = some c →
      s.dev.running e = true →
      (s.dev.eng e).freeAt u ≤ s.dev.clk →
      a = (s.dev.eng e).lat (0x40 + 0x18 * u) →
      exec (.eIaluOp e u 7 t) s = .next { s with
        dev := s.dev.onEng e (fun x => x.push
          { unit := u, ctx := c, outs := [(0x40 + u, (a.sshiftRight (t.toNat % 32)).toNat)], ready := s.dev.clk + 1 }) }) ∧
    (∀ (e u c : Nat) (a t : Word), wellFormed (.eIaluOp e u 8 t) = true →
      (s.dev.eng e).cur = some c →
      s.dev.running e = true →
      (s.dev.eng e).freeAt u ≤ s.dev.clk →
      a = (s.dev.eng e).lat (0x40 + 0x18 * u) →
      exec (.eIaluOp e u 8 t) s = .next { s with
        dev := s.dev.onEng e (fun x => x.push
          { unit := u, ctx := c, outs := [(0x40 + u, (a * t).toNat)], ready := s.dev.clk + 3 }) }) ∧
    (∀ (e u c : Nat) (a t : Word), wellFormed (.eIaluOp e u 9 t) = true →
      (s.dev.eng e).cur = some c →
      s.dev.running e = true →
      (s.dev.eng e).freeAt u ≤ s.dev.clk →
      a = (s.dev.eng e).lat (0x40 + 0x18 * u) →
      exec (.eIaluOp e u 9 t) s = .next { s with
        dev := s.dev.onEng e (fun x => x.push
          { unit := u, ctx := c, outs := [(0x40 + u, ((a.signExtend 64 * t.signExtend 64).extractLsb' 32 32).toNat)], ready := s.dev.clk + 3 }) }) ∧
    (∀ (e u c : Nat) (a t : Word), wellFormed (.eIaluOp e u 10 t) = true →
      (s.dev.eng e).cur = some c →
      s.dev.running e = true →
      (s.dev.eng e).freeAt u ≤ s.dev.clk →
      a = (s.dev.eng e).lat (0x40 + 0x18 * u) →
      exec (.eIaluOp e u 10 t) s = .next { s with
        dev := s.dev.onEng e (fun x => x.push
          { unit := u, ctx := c, outs := [(0x40 + u, ((a.setWidth 64 * t.setWidth 64).extractLsb' 32 32).toNat)], ready := s.dev.clk + 3 }) }) ∧
    (∀ (e u c : Nat) (a t : Word), wellFormed (.eIaluOp e u 11 t) = true →
      (s.dev.eng e).cur = some c →
      s.dev.running e = true →
      (s.dev.eng e).freeAt u ≤ s.dev.clk →
      a = (s.dev.eng e).lat (0x40 + 0x18 * u) →
      exec (.eIaluOp e u 11 t) s = .next { s with
        dev := s.dev.onEng e (fun x => x.push
          { unit := u, ctx := c, outs := [(0x40 + u, (if t.slt a then t else a).toNat)], ready := s.dev.clk + 1 }) }) ∧
    (∀ (e u c : Nat) (a t : Word), wellFormed (.eIaluOp e u 12 t) = true →
      (s.dev.eng e).cur = some c →
      s.dev.running e = true →
      (s.dev.eng e).freeAt u ≤ s.dev.clk →
      a = (s.dev.eng e).lat (0x40 + 0x18 * u) →
      exec (.eIaluOp e u 12 t) s = .next { s with
        dev := s.dev.onEng e (fun x => x.push
          { unit := u, ctx := c, outs := [(0x40 + u, (if a.slt t then t else a).toNat)], ready := s.dev.clk + 1 }) }) ∧
    (∀ (e u c : Nat) (a t : Word), wellFormed (.eIaluOp e u 13 t) = true →
      (s.dev.eng e).cur = some c →
      s.dev.running e = true →
      (s.dev.eng e).freeAt u ≤ s.dev.clk →
      a = (s.dev.eng e).lat (0x40 + 0x18 * u) →
      exec (.eIaluOp e u 13 t) s = .next { s with
        dev := s.dev.onEng e (fun x => x.push
          { unit := u, ctx := c, outs := [(0x40 + u, (if t < a then t else a).toNat)], ready := s.dev.clk + 1 }) }) ∧
    (∀ (e u c : Nat) (a t : Word), wellFormed (.eIaluOp e u 14 t) = true →
      (s.dev.eng e).cur = some c →
      s.dev.running e = true →
      (s.dev.eng e).freeAt u ≤ s.dev.clk →
      a = (s.dev.eng e).lat (0x40 + 0x18 * u) →
      exec (.eIaluOp e u 14 t) s = .next { s with
        dev := s.dev.onEng e (fun x => x.push
          { unit := u, ctx := c, outs := [(0x40 + u, (if a < t then t else a).toNat)], ready := s.dev.clk + 1 }) }) ∧
    (∀ (e u c : Nat) (a t : Word), wellFormed (.eIaluOp e u 15 t) = true →
      (s.dev.eng e).cur = some c →
      s.dev.running e = true →
      (s.dev.eng e).freeAt u ≤ s.dev.clk →
      a = (s.dev.eng e).lat (0x40 + 0x18 * u) →
      exec (.eIaluOp e u 15 t) s = .next { s with
        dev := s.dev.onEng e (fun x => x.push
          { unit := u, ctx := c, outs := [(0x40 + u, (if a = t then (1 : Word) else 0).toNat)], ready := s.dev.clk + 1 }) }) ∧
    (∀ (e u c : Nat) (a t : Word), wellFormed (.eIaluOp e u 16 t) = true →
      (s.dev.eng e).cur = some c →
      s.dev.running e = true →
      (s.dev.eng e).freeAt u ≤ s.dev.clk →
      a = (s.dev.eng e).lat (0x40 + 0x18 * u) →
      exec (.eIaluOp e u 16 t) s = .next { s with
        dev := s.dev.onEng e (fun x => x.push
          { unit := u, ctx := c, outs := [(0x40 + u, (if a.slt t then (1 : Word) else 0).toNat)], ready := s.dev.clk + 1 }) }) ∧
    (∀ (e u c : Nat) (a t : Word), wellFormed (.eIaluOp e u 17 t) = true →
      (s.dev.eng e).cur = some c →
      s.dev.running e = true →
      (s.dev.eng e).freeAt u ≤ s.dev.clk →
      a = (s.dev.eng e).lat (0x40 + 0x18 * u) →
      exec (.eIaluOp e u 17 t) s = .next { s with
        dev := s.dev.onEng e (fun x => x.push
          { unit := u, ctx := c, outs := [(0x40 + u, (if a < t then (1 : Word) else 0).toNat)], ready := s.dev.clk + 1 }) })

/-- R198, R199: the floating-point units. -/
def Obligations.FloatingUnitOperations : Prop :=
  ∀ (s : State),
    (∀ (e u c a b d : Nat) (t : Word), wellFormed (.eFmacOp e u 0 t) = true →
      (s.dev.eng e).cur = some c →
      s.dev.running e = true →
      (s.dev.eng e).freeAt (2 + u) ≤ s.dev.clk →
      a = ((s.dev.eng e).lat (0x70 + 0x18 * u)).toNat →
      b = ((s.dev.eng e).lat (0x70 + 0x18 * u + 1)).toNat →
      d = ((s.dev.eng e).lat (0x70 + 0x18 * u + 2)).toNat →
      exec (.eFmacOp e u 0 t) s = .next { s with
        dev := s.dev.onEng e (fun x => x.push
          { unit := (2 + u), ctx := c, outs := [(0x42 + u, (fMadd f32 0 a b d).bits)], ready := s.dev.clk + 4 }) }) ∧
    (∀ (e u c a b d : Nat) (t : Word), wellFormed (.eFmacOp e u 1 t) = true →
      (s.dev.eng e).cur = some c →
      s.dev.running e = true →
      (s.dev.eng e).freeAt (2 + u) ≤ s.dev.clk →
      a = ((s.dev.eng e).lat (0x70 + 0x18 * u)).toNat →
      b = ((s.dev.eng e).lat (0x70 + 0x18 * u + 1)).toNat →
      d = ((s.dev.eng e).lat (0x70 + 0x18 * u + 2)).toNat →
      exec (.eFmacOp e u 1 t) s = .next { s with
        dev := s.dev.onEng e (fun x => x.push
          { unit := (2 + u), ctx := c, outs := [(0x42 + u, (fMsub f32 0 a b d).bits)], ready := s.dev.clk + 4 }) }) ∧
    (∀ (e u c a b d : Nat) (t : Word), wellFormed (.eFmacOp e u 2 t) = true →
      (s.dev.eng e).cur = some c →
      s.dev.running e = true →
      (s.dev.eng e).freeAt (2 + u) ≤ s.dev.clk →
      a = ((s.dev.eng e).lat (0x70 + 0x18 * u)).toNat →
      b = ((s.dev.eng e).lat (0x70 + 0x18 * u + 1)).toNat →
      d = ((s.dev.eng e).lat (0x70 + 0x18 * u + 2)).toNat →
      exec (.eFmacOp e u 2 t) s = .next { s with
        dev := s.dev.onEng e (fun x => x.push
          { unit := (2 + u), ctx := c, outs := [(0x42 + u, (fNmadd f32 0 a b d).bits)], ready := s.dev.clk + 4 }) }) ∧
    (∀ (e u c a b d : Nat) (t : Word), wellFormed (.eFmacOp e u 3 t) = true →
      (s.dev.eng e).cur = some c →
      s.dev.running e = true →
      (s.dev.eng e).freeAt (2 + u) ≤ s.dev.clk →
      a = ((s.dev.eng e).lat (0x70 + 0x18 * u)).toNat →
      b = ((s.dev.eng e).lat (0x70 + 0x18 * u + 1)).toNat →
      d = ((s.dev.eng e).lat (0x70 + 0x18 * u + 2)).toNat →
      exec (.eFmacOp e u 3 t) s = .next { s with
        dev := s.dev.onEng e (fun x => x.push
          { unit := (2 + u), ctx := c, outs := [(0x42 + u, (fMul f32 0 a b).bits)], ready := s.dev.clk + 4 }) }) ∧
    (∀ (e u c a b d : Nat) (t : Word), wellFormed (.eFmacOp e u 4 t) = true →
      (s.dev.eng e).cur = some c →
      s.dev.running e = true →
      (s.dev.eng e).freeAt (2 + u) ≤ s.dev.clk →
      a = ((s.dev.eng e).lat (0x70 + 0x18 * u)).toNat →
      b = ((s.dev.eng e).lat (0x70 + 0x18 * u + 1)).toNat →
      d = ((s.dev.eng e).lat (0x70 + 0x18 * u + 2)).toNat →
      exec (.eFmacOp e u 4 t) s = .next { s with
        dev := s.dev.onEng e (fun x => x.push
          { unit := (2 + u), ctx := c, outs := [(0x42 + u, (fAdd f32 0 a b).bits)], ready := s.dev.clk + 4 }) }) ∧
    (∀ (e u c a b d : Nat) (t : Word), wellFormed (.eFmacOp e u 5 t) = true →
      (s.dev.eng e).cur = some c →
      s.dev.running e = true →
      (s.dev.eng e).freeAt (2 + u) ≤ s.dev.clk →
      a = ((s.dev.eng e).lat (0x70 + 0x18 * u)).toNat →
      b = ((s.dev.eng e).lat (0x70 + 0x18 * u + 1)).toNat →
      d = ((s.dev.eng e).lat (0x70 + 0x18 * u + 2)).toNat →
      exec (.eFmacOp e u 5 t) s = .next { s with
        dev := s.dev.onEng e (fun x => x.push
          { unit := (2 + u), ctx := c, outs := [(0x42 + u, (fSub f32 0 a b).bits)], ready := s.dev.clk + 4 }) }) ∧
    (∀ (e u c a b d : Nat) (t : Word), wellFormed (.eFmacOp e u 6 t) = true →
      (s.dev.eng e).cur = some c →
      s.dev.running e = true →
      (s.dev.eng e).freeAt (2 + u) ≤ s.dev.clk →
      a = ((s.dev.eng e).lat (0x70 + 0x18 * u)).toNat →
      b = ((s.dev.eng e).lat (0x70 + 0x18 * u + 1)).toNat →
      d = ((s.dev.eng e).lat (0x70 + 0x18 * u + 2)).toNat →
      exec (.eFmacOp e u 6 t) s = .next { s with
        dev := s.dev.onEng e (fun x => x.push
          { unit := (2 + u), ctx := c, outs := [(0x42 + u, (fMinMax f32 false a b).bits)], ready := s.dev.clk + 4 }) }) ∧
    (∀ (e u c a b d : Nat) (t : Word), wellFormed (.eFmacOp e u 7 t) = true →
      (s.dev.eng e).cur = some c →
      s.dev.running e = true →
      (s.dev.eng e).freeAt (2 + u) ≤ s.dev.clk →
      a = ((s.dev.eng e).lat (0x70 + 0x18 * u)).toNat →
      b = ((s.dev.eng e).lat (0x70 + 0x18 * u + 1)).toNat →
      d = ((s.dev.eng e).lat (0x70 + 0x18 * u + 2)).toNat →
      exec (.eFmacOp e u 7 t) s = .next { s with
        dev := s.dev.onEng e (fun x => x.push
          { unit := (2 + u), ctx := c, outs := [(0x42 + u, (fMinMax f32 true a b).bits)], ready := s.dev.clk + 4 }) }) ∧
    (∀ (e u c a b d : Nat) (t : Word), wellFormed (.eFmacOp e u 8 t) = true →
      (s.dev.eng e).cur = some c →
      s.dev.running e = true →
      (s.dev.eng e).freeAt (2 + u) ≤ s.dev.clk →
      a = ((s.dev.eng e).lat (0x70 + 0x18 * u)).toNat →
      b = ((s.dev.eng e).lat (0x70 + 0x18 * u + 1)).toNat →
      d = ((s.dev.eng e).lat (0x70 + 0x18 * u + 2)).toNat →
      exec (.eFmacOp e u 8 t) s = .next { s with
        dev := s.dev.onEng e (fun x => x.push
          { unit := (2 + u), ctx := c, outs := [(0x42 + u, (fSignOp f32 false a).bits)], ready := s.dev.clk + 4 }) }) ∧
    (∀ (e u c a b d : Nat) (t : Word), wellFormed (.eFmacOp e u 9 t) = true →
      (s.dev.eng e).cur = some c →
      s.dev.running e = true →
      (s.dev.eng e).freeAt (2 + u) ≤ s.dev.clk →
      a = ((s.dev.eng e).lat (0x70 + 0x18 * u)).toNat →
      b = ((s.dev.eng e).lat (0x70 + 0x18 * u + 1)).toNat →
      d = ((s.dev.eng e).lat (0x70 + 0x18 * u + 2)).toNat →
      exec (.eFmacOp e u 9 t) s = .next { s with
        dev := s.dev.onEng e (fun x => x.push
          { unit := (2 + u), ctx := c, outs := [(0x42 + u, (fSignOp f32 true a).bits)], ready := s.dev.clk + 4 }) }) ∧
    (∀ (e u c a b d : Nat) (t : Word), wellFormed (.eFmacOp e u 10 t) = true →
      (s.dev.eng e).cur = some c →
      s.dev.running e = true →
      (s.dev.eng e).freeAt (2 + u) ≤ s.dev.clk →
      a = ((s.dev.eng e).lat (0x70 + 0x18 * u)).toNat →
      b = ((s.dev.eng e).lat (0x70 + 0x18 * u + 1)).toNat →
      d = ((s.dev.eng e).lat (0x70 + 0x18 * u + 2)).toNat →
      exec (.eFmacOp e u 10 t) s = .next { s with
        dev := s.dev.onEng e (fun x => x.push
          { unit := (2 + u), ctx := c, outs := [(0x42 + u, b2n (fLtV (fDec f32 a) (fDec f32 b)))], ready := s.dev.clk + 4 }) }) ∧
    (∀ (e u c a b d : Nat) (t : Word), wellFormed (.eFmacOp e u 11 t) = true →
      (s.dev.eng e).cur = some c →
      s.dev.running e = true →
      (s.dev.eng e).freeAt (2 + u) ≤ s.dev.clk →
      a = ((s.dev.eng e).lat (0x70 + 0x18 * u)).toNat →
      b = ((s.dev.eng e).lat (0x70 + 0x18 * u + 1)).toNat →
      d = ((s.dev.eng e).lat (0x70 + 0x18 * u + 2)).toNat →
      exec (.eFmacOp e u 11 t) s = .next { s with
        dev := s.dev.onEng e (fun x => x.push
          { unit := (2 + u), ctx := c, outs := [(0x42 + u, b2n (fLtV (fDec f32 a) (fDec f32 b) || fEqV (fDec f32 a) (fDec f32 b)))], ready := s.dev.clk + 4 }) }) ∧
    (∀ (e u c a b d : Nat) (t : Word), wellFormed (.eFmacOp e u 12 t) = true →
      (s.dev.eng e).cur = some c →
      s.dev.running e = true →
      (s.dev.eng e).freeAt (2 + u) ≤ s.dev.clk →
      a = ((s.dev.eng e).lat (0x70 + 0x18 * u)).toNat →
      b = ((s.dev.eng e).lat (0x70 + 0x18 * u + 1)).toNat →
      d = ((s.dev.eng e).lat (0x70 + 0x18 * u + 2)).toNat →
      exec (.eFmacOp e u 12 t) s = .next { s with
        dev := s.dev.onEng e (fun x => x.push
          { unit := (2 + u), ctx := c, outs := [(0x42 + u, b2n (fEqV (fDec f32 a) (fDec f32 b)))], ready := s.dev.clk + 4 }) }) ∧
    (∀ (e u c a b d : Nat) (t : Word), wellFormed (.eFmacOp e u 13 t) = true →
      (s.dev.eng e).cur = some c →
      s.dev.running e = true →
      (s.dev.eng e).freeAt (2 + u) ≤ s.dev.clk →
      a = ((s.dev.eng e).lat (0x70 + 0x18 * u)).toNat →
      b = ((s.dev.eng e).lat (0x70 + 0x18 * u + 1)).toNat →
      d = ((s.dev.eng e).lat (0x70 + 0x18 * u + 2)).toNat →
      exec (.eFmacOp e u 13 t) s = .next { s with
        dev := s.dev.onEng e (fun x => x.push
          { unit := (2 + u), ctx := c, outs := [(0x42 + u, (fOfInt f32 0 (sext 32 a)).bits)], ready := s.dev.clk + 4 }) }) ∧
    (∀ (e u c a b d : Nat) (t : Word), wellFormed (.eFmacOp e u 14 t) = true →
      (s.dev.eng e).cur = some c →
      s.dev.running e = true →
      (s.dev.eng e).freeAt (2 + u) ≤ s.dev.clk →
      a = ((s.dev.eng e).lat (0x70 + 0x18 * u)).toNat →
      b = ((s.dev.eng e).lat (0x70 + 0x18 * u + 1)).toNat →
      d = ((s.dev.eng e).lat (0x70 + 0x18 * u + 2)).toNat →
      exec (.eFmacOp e u 14 t) s = .next { s with
        dev := s.dev.onEng e (fun x => x.push
          { unit := (2 + u), ctx := c, outs := [(0x42 + u, toBits 32 (fToInt f32 0 32 a).1)], ready := s.dev.clk + 4 }) }) ∧
    (∀ (e c : Nat) (t : Word), wellFormed (.eDsqDiv e t) = true →
      (s.dev.eng e).cur = some c →
      s.dev.running e = true →
      (s.dev.eng e).freeAt 4 ≤ s.dev.clk →
      exec (.eDsqDiv e t) s = .next { s with
        dev := (s.dev.onEng e (fun x => x.push
          { unit := 4, ctx := c, outs := [(0x44, (fDiv f32 0 ((s.dev.eng e).lat 0xA0).toNat ((s.dev.eng e).lat 0xA1).toNat).bits)], ready := s.dev.clk + 14 })).onEng e
          (fun x => x.hold 4 (s.dev.clk + 14)) }) ∧
    (∀ (e c : Nat) (t : Word), wellFormed (.eDsqSqrt e t) = true →
      (s.dev.eng e).cur = some c →
      s.dev.running e = true →
      (s.dev.eng e).freeAt 4 ≤ s.dev.clk →
      exec (.eDsqSqrt e t) s = .next { s with
        dev := (s.dev.onEng e (fun x => x.push
          { unit := 4, ctx := c, outs := [(0x44, (fSqrt f32 0 ((s.dev.eng e).lat 0xA0).toNat).bits)], ready := s.dev.clk + 18 })).onEng e
          (fun x => x.hold 4 (s.dev.clk + 18)) }) ∧
    (∀ (e op c : Nat) (t : Word) (y z : Word), wellFormed (.eRotOp e op t) = true →
      (s.dev.eng e).cur = some c →
      s.dev.running e = true →
      (s.dev.eng e).freeAt 5 ≤ s.dev.clk →
      (y, z) = rot op ((s.dev.eng e).lat 0xA4) ((s.dev.eng e).lat 0xA5) ((s.dev.eng e).lat 0xA6) →
      exec (.eRotOp e op t) s = .next { s with
        dev := (s.dev.onEng e (fun x => x.push
          { unit := 5, ctx := c, outs := [(0x45, y.toNat), (0x46, z.toNat)], ready := s.dev.clk + 12 })).onEng e
          (fun x => x.hold 5 (s.dev.clk + 12)) })

/-- R200: the SDFT unit. -/
def Obligations.SdftOperationsAct : Prop :=
  ∀ (s : State),
    (∀ (e c : Nat) (t w z : Word), wellFormed (.eSdftCfg e t) = true →
      (s.dev.eng e).cur = some c →
      s.dev.running e = true →
      (s.dev.eng e).freeAt 6 ≤ s.dev.clk →
      (w, z) = twiddle ((s.dev.eng e).lat 0xAA).toNat ((s.dev.eng e).lat 0xAB).toNat →
      exec (.eSdftCfg e t) s = .next { s with
        dev := (s.dev.setBin e c (t.toNat % 64) { xr := 0, xi := 0, wr := w, wi := z } 12).onEng e
          (fun x => x.hold 6 (s.dev.clk + 12)) }) ∧
    (∀ (e c : Nat) (t : Word), wellFormed (.eSdftUpd e t) = true →
      (s.dev.eng e).cur = some c →
      s.dev.running e = true →
      (s.dev.eng e).freeAt 6 ≤ s.dev.clk →
      exec (.eSdftUpd e t) s = .next { s with
        dev := s.dev.setBin e c (t.toNat % 64) (sdftStep ((s.dev.eng e).bin (t.toNat % 64)) ((s.dev.eng e).lat 0xAA).toNat
          ((s.dev.eng e).lat 0xAB).toNat) 6 }) ∧
    (∀ (e c : Nat) (t : Word), wellFormed (.eSdftRd e t) = true →
      (s.dev.eng e).cur = some c →
      s.dev.running e = true →
      (s.dev.eng e).freeAt 6 ≤ s.dev.clk →
      exec (.eSdftRd e t) s = .next { s with
        dev := s.dev.setBin e c (t.toNat % 64) ((s.dev.eng e).bin (t.toNat % 64)) 2 }) ∧
    (∀ (e c : Nat) (t : Word), wellFormed (.eSdftLoad e t) = true →
      (s.dev.eng e).cur = some c →
      s.dev.running e = true →
      (s.dev.eng e).freeAt 6 ≤ s.dev.clk →
      exec (.eSdftLoad e t) s = .next { s with
        dev := s.dev.setBin e c (t.toNat % 64) { (s.dev.eng e).bin (t.toNat % 64) with
          xr := canonNaN ((s.dev.eng e).lat 0xAA), xi := canonNaN ((s.dev.eng e).lat 0xAB) } 2 })

/-- R201 to R203: the loop, control and output units. -/
def Obligations.ControlAndOutputAct : Prop :=
  ∀ (s : State),
    (∀ (e c : Nat) (t : Word), wellFormed (.eLoopArm e 0 t) = true →
      (s.dev.eng e).cur = some c →
      s.dev.running e = true →
      (s.dev.eng e).freeAt 11 ≤ s.dev.clk →
      s.dev.loopBad e c = false →
      t.toNat % 65536 ≠ 0 →
      exec (.eLoopArm e 0 t) s = .next { s with
        dev := s.dev.onCtx e c (fun k => { k with
          l0 := { start := k.pc, fin := (s.dev.eng e).loopEnd, count := t.toNat % 65536 } }) }) ∧
    (∀ (e c : Nat) (t : Word), wellFormed (.eLoopArm e 1 t) = true →
      (s.dev.eng e).cur = some c →
      s.dev.running e = true →
      (s.dev.eng e).freeAt 11 ≤ s.dev.clk →
      s.dev.loopBad e c = false →
      t.toNat % 65536 ≠ 0 →
      exec (.eLoopArm e 1 t) s = .next { s with
        dev := s.dev.onCtx e c (fun k => { k with
          l1 := { start := k.pc, fin := (s.dev.eng e).loopEnd, count := t.toNat % 65536 } }) }) ∧
    (∀ (e c : Nat) (t : Word), wellFormed (.eLoopArm e 0 t) = true →
      (s.dev.eng e).cur = some c →
      s.dev.running e = true →
      (s.dev.eng e).freeAt 11 ≤ s.dev.clk →
      s.dev.loopBad e c = false →
      t.toNat % 65536 = 0 →
      exec (.eLoopArm e 0 t) s = .next { s with
        dev := s.dev.onCtx e c (fun k => { k with
          l0 := { start := k.pc, fin := (s.dev.eng e).loopEnd, count := 0 }
          pc := ((s.dev.eng e).loopEnd + 1) % 8192 }) }) ∧
    (∀ (e c l : Nat) (t : Word), wellFormed (.eLoopArm e l t) = true →
      (s.dev.eng e).cur = some c →
      s.dev.running e = true →
      (s.dev.eng e).freeAt 11 ≤ s.dev.clk →
      s.dev.loopBad e c = true →
      exec (.eLoopArm e l t) s = .next { s with
        dev := s.dev.opFault e c 1 0 }) ∧
    (∀ (e c : Nat) (t : Word), wellFormed (.eLoopClr e t) = true →
      (s.dev.eng e).cur = some c →
      s.dev.running e = true →
      (s.dev.eng e).freeAt 11 ≤ s.dev.clk →
      exec (.eLoopClr e t) s = .next { s with
        dev := s.dev.onCtx e c (fun k => { k with
          l0 := if t.getLsbD 0 then { k.l0 with count := 0 } else k.l0
          l1 := if t.getLsbD 1 then { k.l1 with count := 0 } else k.l1 }) }) ∧
    (∀ (e c : Nat) (t : Word), wellFormed (.eJmp e t) = true →
      (s.dev.eng e).cur = some c →
      s.dev.running e = true →
      (s.dev.eng e).freeAt 12 ≤ s.dev.clk →
      (s.dev.ectx e c).xfer = none →
      exec (.eJmp e t) s = .next { s with
        dev := s.dev.onCtx e c (fun k => { k with xfer := some { target := t.toNat % 8192, left := 2, taken := true } }) }) ∧
    (∀ (e c : Nat) (t : Word), wellFormed (.eCall e t) = true →
      (s.dev.eng e).cur = some c →
      s.dev.running e = true →
      (s.dev.eng e).freeAt 12 ≤ s.dev.clk →
      (s.dev.ectx e c).xfer = none →
      exec (.eCall e t) s = .next { s with
        dev := (s.dev.onCtx e c (fun k => { k with xfer := some { target := t.toNat % 8192, left := 2, taken := true, kind := 1 } })).onCtx e c (fun k =>
          { k with res := SMap.set (fun _ => 0) k.res 0x53 (BitVec.ofNat 32 ((k.pc + 2) % 8192)) }) }) ∧
    (∀ (e kind c : Nat) (t : Word) (z : Bool), wellFormed (.eBranch e kind t) = true →
      (s.dev.eng e).cur = some c →
      s.dev.running e = true →
      (s.dev.eng e).freeAt 12 ≤ s.dev.clk →
      (s.dev.ectx e c).xfer = none →
      z = decide ((s.dev.eng e).lat 0xD0 = 0) →
      kind < 2 →
      exec (.eBranch e kind t) s = .next { s with
        dev := s.dev.onCtx e c (fun k => { k with xfer := some { target := t.toNat % 8192, left := 2, taken := z, squash := !z && decide (kind % 2 = 1) } }) }) ∧
    (∀ (e kind c : Nat) (t : Word) (z : Bool), wellFormed (.eBranch e kind t) = true →
      (s.dev.eng e).cur = some c →
      s.dev.running e = true →
      (s.dev.eng e).freeAt 12 ≤ s.dev.clk →
      (s.dev.ectx e c).xfer = none →
      z = decide ((s.dev.eng e).lat 0xD0 = 0) →
      2 ≤ kind →
      exec (.eBranch e kind t) s = .next { s with
        dev := s.dev.onCtx e c (fun k => { k with xfer := some { target := t.toNat % 8192, left := 2, taken := !z, squash := z && decide (kind % 2 = 1) } }) }) ∧
    (∀ (e c : Nat) (t : Word), wellFormed (.eDone e t) = true →
      (s.dev.eng e).cur = some c →
      s.dev.running e = true →
      (s.dev.eng e).freeAt 12 ≤ s.dev.clk →
      (s.dev.ectx e c).xfer = none →
      exec (.eDone e t) s = .next { s with
        dev := s.dev.onCtx e c (fun k => { k with xfer := some { left := 2, taken := true, kind := 6 } }) }) ∧
    (∀ (e c : Nat) (t : Word) (x : PendXfer), wellFormed (.eJmp e t) = true →
      (s.dev.eng e).cur = some c →
      s.dev.running e = true →
      (s.dev.eng e).freeAt 12 ≤ s.dev.clk →
      (s.dev.ectx e c).xfer = some x →
      exec (.eJmp e t) s = .next { s with
        dev := s.dev.opFault e c 1 0 }) ∧
    (∀ (e c : Nat) (t : Word), wellFormed (.eTrip e t) = true →
      (s.dev.eng e).cur = some c →
      s.dev.running e = true →
      (s.dev.eng e).freeAt 13 ≤ s.dev.clk →
      s.dev.lateNow e c = false →
      exec (.eTrip e t) s = .next { s with
        dev := s.dev.onEng e (fun x => { x with tripWord := x.tripWord ||| t, tripWritten := true }) }) ∧
    (∀ (e c : Nat) (t : Word), wellFormed (.eTrip e t) = true →
      (s.dev.eng e).cur = some c →
      s.dev.running e = true →
      (s.dev.eng e).freeAt 13 ≤ s.dev.clk →
      s.dev.lateNow e c = true →
      exec (.eTrip e t) s = .next { s with
        dev := s.dev.lateOutput e c 0 t }) ∧
    (∀ (e c : Nat) (t : Word), wellFormed (.eEvt e t) = true →
      (s.dev.eng e).cur = some c →
      s.dev.running e = true →
      (s.dev.eng e).freeAt 13 ≤ s.dev.clk →
      s.dev.lateNow e c = false →
      (s.dev.eng e).evq.length < 16 →
      exec (.eEvt e t) s = .next { s with
        dev := s.dev.onEng e (fun x => { x with evq := x.evq ++ [t] }) }) ∧
    (∀ (e c : Nat) (t : Word), wellFormed (.eEvt e t) = true →
      (s.dev.eng e).cur = some c →
      s.dev.running e = true →
      (s.dev.eng e).freeAt 13 ≤ s.dev.clk →
      s.dev.lateNow e c = false →
      16 ≤ (s.dev.eng e).evq.length →
      exec (.eEvt e t) s = .next { s with
        dev := s.dev.inc F.PE_EVTDROP_COUNT e }) ∧
    (∀ (e c : Nat) (t : Word), wellFormed (.eEvt e t) = true →
      (s.dev.eng e).cur = some c →
      s.dev.running e = true →
      (s.dev.eng e).freeAt 13 ≤ s.dev.clk →
      s.dev.lateNow e c = true →
      exec (.eEvt e t) s = .next { s with
        dev := s.dev.lateOutput e c 1 t })

/-- R206 to R210: the memory ports. -/
def Obligations.MemoryPortsAct : Prop :=
  ∀ (s : State),
    (∀ (e size c a : Nat) (t : Word), wellFormed (.eLsuLoad e size t) = true →
      (s.dev.eng e).cur = some c →
      s.dev.running e = true →
      (s.dev.eng e).freeAt 7 ≤ s.dev.clk →
      a = ((s.dev.eng e).lat 0xB0 + t).toNat →
      a + words size ≤ 65536 →
      s.dev.ueIn 3 (4 * e + 1) a (words size) = false →
      exec (.eLsuLoad e size t) s = .next { s with
        dev := (s.dev.onEng e (fun x => x.push
          { unit := 7, ctx := c, outs := loadOuts 0x49 size (gather ((s.dev.eng e).dataSeen s.dev.clk) a size), ready := s.dev.clk + (2 + b2n (!aligned a size)) })).onEng e
          (fun x => x.hold 7 (s.dev.clk + 1 + b2n (!aligned a size))) }) ∧
    (∀ (e size c a : Nat) (t : Word), wellFormed (.eLsuLoad e size t) = true →
      (s.dev.eng e).cur = some c →
      s.dev.running e = true →
      (s.dev.eng e).freeAt 7 ≤ s.dev.clk →
      a = ((s.dev.eng e).lat 0xB0 + t).toNat →
      65536 < a + words size →
      exec (.eLsuLoad e size t) s = .next { s with
        dev := s.dev.opFault e c 2 a }) ∧
    (∀ (e size c a : Nat) (t : Word), wellFormed (.eLsuStore e size t) = true →
      (s.dev.eng e).cur = some c →
      s.dev.running e = true →
      (s.dev.eng e).freeAt 7 ≤ s.dev.clk →
      a = ((s.dev.eng e).lat 0xB0 + t).toNat →
      a + words size ≤ 65536 →
      exec (.eLsuStore e size t) s = .next { s with
        dev := s.dev.onEng e (fun x =>
          ((List.range (words size)).foldl (fun x i =>
            x.storeWord s.dev.clk (a + i) (BitVec.ofNat 16 ((s.dev.eng e).storeData 0xB1 size / 2 ^ (16 * i)))) x).hold 7
            (s.dev.clk + 1 + b2n (!aligned a size))) }) ∧
    (∀ (e size c a : Nat) (t : Word), wellFormed (.eLsuStore e size t) = true →
      (s.dev.eng e).cur = some c →
      s.dev.running e = true →
      (s.dev.eng e).freeAt 7 ≤ s.dev.clk →
      a = ((s.dev.eng e).lat 0xB0 + t).toNat →
      65536 < a + words size →
      exec (.eLsuStore e size t) s = .next { s with
        dev := s.dev.opFault e c 2 a }) ∧
    (∀ (e size c a : Nat) (t : Word), wellFormed (.eSetRead e size t) = true →
      (s.dev.eng e).cur = some c →
      s.dev.running e = true →
      (s.dev.eng e).freeAt 9 ≤ s.dev.clk →
      a = ((s.dev.eng e).lat 0xBB + t).toNat →
      a + words size ≤ 8192 →
      s.dev.ueIn 3 (4 * e + 2 + s.dev.readBank e (s.dev.ectx e c).wakeTick) a (words size) = false →
      exec (.eSetRead e size t) s = .next { s with
        dev := (s.dev.onEng e (fun x => x.push
          { unit := 9, ctx := c, outs := loadOuts 0x4D size
                (gather ((s.dev.eng e).bankWord (s.dev.readBank e (s.dev.ectx e c).wakeTick)) a size), ready := s.dev.clk + (2 + b2n (!aligned a size)) })).onEng e
          (fun x => x.hold 9 (s.dev.clk + 1 + b2n (!aligned a size))) }) ∧
    (∀ (e size c a : Nat) (t : Word), wellFormed (.eSetRead e size t) = true →
      (s.dev.eng e).cur = some c →
      s.dev.running e = true →
      (s.dev.eng e).freeAt 9 ≤ s.dev.clk →
      a = ((s.dev.eng e).lat 0xBB + t).toNat →
      8192 < a + words size →
      exec (.eSetRead e size t) s = .next { s with
        dev := s.dev.opFault e c 4 a }) ∧
    (∀ (e size c a : Nat) (t : Word), wellFormed (.eHsmLoad e size t) = true →
      (s.dev.eng e).cur = some c →
      s.dev.running e = true →
      (s.dev.eng e).freeAt 10 ≤ s.dev.clk →
      a = ((s.dev.eng e).lat 0xC0 + t).toNat →
      a + words size ≤ 262144 →
      s.dev.ueIn 4 (e / 8) a (words size) = false →
      exec (.eHsmLoad e size t) s = .next { s with
        dev := (s.dev.ePmu e 0x06 c (hsmWait (a / 4 % 8) (e % 8) (s.dev.phi (e / 8)))).onEng e (fun x =>
          (x.push
          { unit := 10, ctx := c, kind := 1, want := hsmWant s.dev.clk (hsmWait (a / 4 % 8) (e % 8) (s.dev.phi (e / 8))) a size
            ready := s.dev.clk + hsmWait (a / 4 % 8) (e % 8) (s.dev.phi (e / 8)) + b2n (spansGroups a size) + 3
            outs := loadOuts 0x4F size 0, data := 0 }).hold 10 (s.dev.clk + hsmWait (a / 4 % 8) (e % 8) (s.dev.phi (e / 8)) + 1 + b2n (spansGroups a size))) }) ∧
    (∀ (e size c a : Nat) (t : Word), wellFormed (.eHsmLoad e size t) = true →
      (s.dev.eng e).cur = some c →
      s.dev.running e = true →
      (s.dev.eng e).freeAt 10 ≤ s.dev.clk →
      a = ((s.dev.eng e).lat 0xC0 + t).toNat →
      262144 < a + words size →
      exec (.eHsmLoad e size t) s = .next { s with
        dev := s.dev.opFault e c 2 a }) ∧
    (∀ (e size c a : Nat) (t : Word), wellFormed (.eHsmStore e size t) = true →
      (s.dev.eng e).cur = some c →
      s.dev.running e = true →
      (s.dev.eng e).freeAt 10 ≤ s.dev.clk →
      a = ((s.dev.eng e).lat 0xC0 + t).toNat →
      a + words size ≤ 262144 →
      exec (.eHsmStore e size t) s = .next { s with
        dev := (s.dev.ePmu e 0x06 c (hsmWait (a / 4 % 8) (e % 8) (s.dev.phi (e / 8)))).onEng e (fun x =>
          ({ x with fly := x.fly ++ [
          { unit := 10, ctx := c, kind := 2, want := hsmWant s.dev.clk (hsmWait (a / 4 % 8) (e % 8) (s.dev.phi (e / 8))) a size
            ready := s.dev.clk + hsmWait (a / 4 % 8) (e % 8) (s.dev.phi (e / 8)) + b2n (spansGroups a size) + 0
            outs := [], data := (s.dev.eng e).storeData 0xC1 size }] } : Engine).hold 10 (s.dev.clk + hsmWait (a / 4 % 8) (e % 8) (s.dev.phi (e / 8)) + 1 + b2n (spansGroups a size))) }) ∧
    (∀ (e size c a : Nat) (t : Word), wellFormed (.eHsmStore e size t) = true →
      (s.dev.eng e).cur = some c →
      s.dev.running e = true →
      (s.dev.eng e).freeAt 10 ≤ s.dev.clk →
      a = ((s.dev.eng e).lat 0xC0 + t).toNat →
      262144 < a + words size →
      exec (.eHsmStore e size t) s = .next { s with
        dev := s.dev.opFault e c 2 a }) ∧
    (∀ (e c : Nat) (t : Word), wellFormed (.eHsmMail e t) = true →
      (s.dev.eng e).cur = some c →
      s.dev.running e = true →
      exec (.eHsmMail e t) s = .next { s with
        dev := s.dev.postMail (e / 8) (t.toNat % 256) }) ∧
    (∀ (e c ch row w : Nat) (t : Word), wellFormed (.eCmbRead e t) = true →
      (s.dev.eng e).cur = some c →
      s.dev.running e = true →
      (s.dev.eng e).freeAt 8 ≤ s.dev.clk →
      s.dev.combFault e c t = none →
      ch = ((s.dev.eng e).lat 0xB9).toNat % 4096 →
      row + (s.dev.cmbL + t.toNat % 4096) = (s.dev.ectx e c).wakeTick →
      w = (e % 8 + 8 - s.dev.phi (e / 8)) % 8 →
      exec (.eCmbRead e t) s = .next { s with
        dev := (s.dev.ePmu e 0x07 c w).onEng e (fun x => (x.push
          { unit := 8, ctx := c, kind := 3, outs := [(0x4B, 0), (0x4C, 0)], want := [(s.dev.clk + w, row, ch)], ready := s.dev.clk + w + 6 }).hold 8
            (s.dev.clk + w + 1)) }) ∧
    (∀ (e c cause info : Nat) (t : Word), wellFormed (.eCmbRead e t) = true →
      (s.dev.eng e).cur = some c →
      s.dev.running e = true →
      (s.dev.eng e).freeAt 8 ≤ s.dev.clk →
      s.dev.combFault e c t = some (cause, info) →
      exec (.eCmbRead e t) s = .next { s with
        dev := s.dev.opFault e c cause info })

/-- R204, R205: the hive DMA. -/
def Obligations.HiveDmaActs : Prop :=
  ∀ (s : State),
    (∀ (e c i : Nat) (t : Word), wellFormed (.eDmaGet e t) = true →
      (s.dev.eng e).cur = some c →
      s.dev.running e = true →
      (s.dev.eng e).freeAt 14 ≤ s.dev.clk →
      (s.dev.eng e).dmaFault true t = none →
      (List.range 4).find? (fun i => decide ((s.dev.eng e).dmaSlot i ≠ 1)) = some i →
      exec (.eDmaGet e t) s = .next { s with
        dev := ((s.dev.onEng e (fun x => { x with dmaStat := SMap.set (fun _ => 0) x.dmaStat i 1 })).onHive (e / 8) (fun h =>
          { h with dmaQ := h.dmaQ ++ [{ eng := e, slot := i, get := true, region := bits ((s.dev.eng e).lat 0xE0).toNat 19 18
                                        laddr := ((s.dev.eng e).lat 0xE0).toNat % 2 ^ 18
                                        daddr := ((s.dev.eng e).lat 0xE1).toNat + ((s.dev.eng e).lat 0xE2).toNat % 256 * 2 ^ 32 -
                                          (((s.dev.eng e).lat 0xE1).toNat + ((s.dev.eng e).lat 0xE2).toNat % 256 * 2 ^ 32) % 2
                                        len := t.toNat % 8192 }] })).launch e c 14 [(0x5A, i)] 1 }) ∧
    (∀ (e c : Nat) (t : Word), wellFormed (.eDmaGet e t) = true →
      (s.dev.eng e).cur = some c →
      s.dev.running e = true →
      (s.dev.eng e).freeAt 14 ≤ s.dev.clk →
      (s.dev.eng e).dmaFault true t = none →
      (List.range 4).find? (fun i => decide ((s.dev.eng e).dmaSlot i ≠ 1)) = none →
      exec (.eDmaGet e t) s = .next { s with
        dev := s.dev.launch e c 14 [(0x5A, 0xFFFFFFFF)] 1 }) ∧
    (∀ (e c cause info : Nat) (t : Word), wellFormed (.eDmaGet e t) = true →
      (s.dev.eng e).cur = some c →
      s.dev.running e = true →
      (s.dev.eng e).freeAt 14 ≤ s.dev.clk →
      (s.dev.eng e).dmaFault true t = some (cause, info) →
      exec (.eDmaGet e t) s = .next { s with
        dev := s.dev.opFault e c cause info }) ∧
    (∀ (e c i : Nat) (t : Word), wellFormed (.eDmaPut e t) = true →
      (s.dev.eng e).cur = some c →
      s.dev.running e = true →
      (s.dev.eng e).freeAt 14 ≤ s.dev.clk →
      (s.dev.eng e).dmaFault false t = none →
      (List.range 4).find? (fun i => decide ((s.dev.eng e).dmaSlot i ≠ 1)) = some i →
      exec (.eDmaPut e t) s = .next { s with
        dev := ((s.dev.onEng e (fun x => { x with dmaStat := SMap.set (fun _ => 0) x.dmaStat i 1 })).onHive (e / 8) (fun h =>
          { h with dmaQ := h.dmaQ ++ [{ eng := e, slot := i, get := false, region := bits ((s.dev.eng e).lat 0xE0).toNat 19 18
                                        laddr := ((s.dev.eng e).lat 0xE0).toNat % 2 ^ 18
                                        daddr := ((s.dev.eng e).lat 0xE1).toNat + ((s.dev.eng e).lat 0xE2).toNat % 256 * 2 ^ 32 -
                                          (((s.dev.eng e).lat 0xE1).toNat + ((s.dev.eng e).lat 0xE2).toNat % 256 * 2 ^ 32) % 2
                                        len := t.toNat % 8192 }] })).launch e c 14 [(0x5A, i)] 1 }) ∧
    (∀ (e c : Nat) (t : Word), wellFormed (.eDmaPut e t) = true →
      (s.dev.eng e).cur = some c →
      s.dev.running e = true →
      (s.dev.eng e).freeAt 14 ≤ s.dev.clk →
      (s.dev.eng e).dmaFault false t = none →
      (List.range 4).find? (fun i => decide ((s.dev.eng e).dmaSlot i ≠ 1)) = none →
      exec (.eDmaPut e t) s = .next { s with
        dev := s.dev.launch e c 14 [(0x5A, 0xFFFFFFFF)] 1 }) ∧
    (∀ (e c cause info : Nat) (t : Word), wellFormed (.eDmaPut e t) = true →
      (s.dev.eng e).cur = some c →
      s.dev.running e = true →
      (s.dev.eng e).freeAt 14 ≤ s.dev.clk →
      (s.dev.eng e).dmaFault false t = some (cause, info) →
      exec (.eDmaPut e t) s = .next { s with
        dev := s.dev.opFault e c cause info }) ∧
    (∀ (e c : Nat) (t : Word), wellFormed (.eDmaStat e t) = true →
      (s.dev.eng e).cur = some c →
      s.dev.running e = true →
      (s.dev.eng e).freeAt 14 ≤ s.dev.clk →
      exec (.eDmaStat e t) s = .next { s with
        dev := s.dev.onEng e (fun x => x.push
          { unit := 14, ctx := c, outs := [(0x5A, (s.dev.eng e).dmaSlot (t.toNat % 4))], ready := s.dev.clk + 2 }) }) ∧
    (∀ (h : Nat) (tr : DmaXfer) (l : List DmaXfer), wellFormed (.dmaTransferEnd h true) = true →
      (s.dev.hive h).dmaQ = tr :: l →
      exec (.dmaTransferEnd h true) s = .next { s with
        dev := ((((s.dev.onHive h (fun x => { x with dmaQ := l })).onEng tr.eng (fun x =>
          { x with dmaStat := SMap.set (fun _ => 0) x.dmaStat tr.slot 3 })).ePmu tr.eng 0x0F 8 1).inc F.HIV_DMAERR_COUNT h).setEvtBit (120 + h)
          F.HIV_EVT_DMAERR h (tr.eng % 8) }) ∧
    (∀ (h : Nat) (tr : DmaXfer) (l : List DmaXfer) (d : Dev), wellFormed (.dmaTransferEnd h false) = true →
      (s.dev.hive h).dmaQ = tr :: l →
      (s.dev.onHive h (fun x => { x with dmaQ := l })).dmaMove tr = (d, true) →
      exec (.dmaTransferEnd h false) s = .next { s with
        dev := (d.onEng tr.eng (fun x => { x with dmaStat := SMap.set (fun _ => 0) x.dmaStat tr.slot 2 })).ePmu tr.eng 0x0F 8 1 })

/-- R176: what an issue of a bundle does. -/
def Obligations.BundleIssueInOrder : Prop :=
  ∀ (s : State),
    (∀ (e c : Nat) (d : Dev), wellFormed (.eBundle e) = true →
      s.dev.domOn (9 + e / 8) = true →
      s.dev.running e = true →
      d = ((s.dev.moveClk (s.dev.eng e).lastIssue).commitDue e).ePmuClocks e →
      (∀ f, (d.eng e).windowAt = some f → d.clk < f) →
      (d.eng e).cur = some c →
      (d.ectx e c).xfer.any (fun x => x.squash) = true →
      exec (.eBundle e) s = .next { s with
        dev := ((((d.onCtx e c (fun k => { k with pc := ((d.ectx e c).pc + 1) % 8192 })).ePmu e 0x0E c 1).afterBundle e c (d.ectx e c).pc
          (d.ectx e c).xfer).ePmuClock e ((d.eng e).incoming.getD c) true).onEng e
           (fun x => { x with lastIssue := d.clk + 1 }) }) ∧
    (∀ (e c : Nat) (d : Dev) (j : Nat), wellFormed (.eBundle e) = true →
      s.dev.domOn (9 + e / 8) = true →
      s.dev.running e = true →
      d = ((s.dev.moveClk (s.dev.eng e).lastIssue).commitDue e).ePmuClocks e →
      (∀ f, (d.eng e).windowAt = some f → d.clk < f) →
      (d.eng e).cur = some c →
      (d.ectx e c).xfer.any (fun x => x.squash) = false →
      d.brkFires e c = some j →
      exec (.eBundle e) s = .next { s with
        dev := ((d.holdCtx e c j).ePmuClock e ((d.eng e).incoming.getD c) false).onEng e
           (fun x => { x with lastIssue := d.clk + 1 }) }) ∧
    (∀ (e c : Nat) (d : Dev) (bun : Bundle) (slot : Nat), wellFormed (.eBundle e) = true →
      s.dev.domOn (9 + e / 8) = true →
      s.dev.running e = true →
      d = ((s.dev.moveClk (s.dev.eng e).lastIssue).commitDue e).ePmuClocks e →
      (∀ f, (d.eng e).windowAt = some f → d.clk < f) →
      (d.eng e).cur = some c →
      (d.ectx e c).xfer.any (fun x => x.squash) = false →
      d.brkFires e c = none →
      d.mem.ue.contains (3, 4 * e, (d.ectx e c).pc) = false →
      bun = Bundle.dec ((d.eng e).bundle (d.ectx e c).pc) →
      lowest ((bun.illegal profileE (d.ectx e c).g).toList ++ (bun.delayCtl profileE (d.ectx e c).g (d.ectx e c).xfer.isSome).toList) = some slot →
      exec (.eBundle e) s = .next { s with
        dev := ((d.engineFault e c 1 slot 0).ePmuClock e ((d.eng e).incoming.getD c) false).onEng e
           (fun x => { x with lastIssue := d.clk + 1 }) }) ∧
    (∀ (e c : Nat) (d : Dev) (bun : Bundle), wellFormed (.eBundle e) = true →
      s.dev.domOn (9 + e / 8) = true →
      s.dev.running e = true →
      d = ((s.dev.moveClk (s.dev.eng e).lastIssue).commitDue e).ePmuClocks e →
      (∀ f, (d.eng e).windowAt = some f → d.clk < f) →
      (d.eng e).cur = some c →
      (d.ectx e c).xfer.any (fun x => x.squash) = false →
      d.brkFires e c = none →
      d.mem.ue.contains (3, 4 * e, (d.ectx e c).pc) = false →
      bun = Bundle.dec ((d.eng e).bundle (d.ectx e c).pc) →
      lowest ((bun.illegal profileE (d.ectx e c).g).toList ++ (bun.delayCtl profileE (d.ectx e c).g (d.ectx e c).xfer.isSome).toList) = none →
      (d.eng e).resStall c (bun.live (d.ectx e c).g) = true →
      exec (.eBundle e) s = .next { s with
        dev := ((d.ePmu e 0x04 c 1).ePmuClock e ((d.eng e).incoming.getD c) false).onEng e
           (fun x => { x with lastIssue := d.clk + 1 }) }) ∧
    (∀ (e c : Nat) (d : Dev) (bun : Bundle), wellFormed (.eBundle e) = true →
      s.dev.domOn (9 + e / 8) = true →
      s.dev.running e = true →
      d = ((s.dev.moveClk (s.dev.eng e).lastIssue).commitDue e).ePmuClocks e →
      (∀ f, (d.eng e).windowAt = some f → d.clk < f) →
      (d.eng e).cur = some c →
      (d.ectx e c).xfer.any (fun x => x.squash) = false →
      d.brkFires e c = none →
      d.mem.ue.contains (3, 4 * e, (d.ectx e c).pc) = false →
      bun = Bundle.dec ((d.eng e).bundle (d.ectx e c).pc) →
      lowest ((bun.illegal profileE (d.ectx e c).g).toList ++ (bun.delayCtl profileE (d.ectx e c).g (d.ectx e c).xfer.isSome).toList) = none →
      (d.eng e).resStall c (bun.live (d.ectx e c).g) = false →
      (d.eng e).unitStall d.clk (bun.live (d.ectx e c).g) = true →
      exec (.eBundle e) s = .next { s with
        dev := ((d.ePmu e 0x05 c 1).ePmuClock e ((d.eng e).incoming.getD c) false).onEng e
           (fun x => { x with lastIssue := d.clk + 1 }) }) ∧
    (∀ (e c : Nat) (d : Dev) (bun : Bundle), wellFormed (.eBundle e) = true →
      s.dev.domOn (9 + e / 8) = true →
      s.dev.running e = true →
      d = ((s.dev.moveClk (s.dev.eng e).lastIssue).commitDue e).ePmuClocks e →
      (∀ f, (d.eng e).windowAt = some f → d.clk < f) →
      (d.eng e).cur = some c →
      (d.ectx e c).xfer.any (fun x => x.squash) = false →
      d.brkFires e c = none →
      d.mem.ue.contains (3, 4 * e, (d.ectx e c).pc) = false →
      bun = Bundle.dec ((d.eng e).bundle (d.ectx e c).pc) →
      lowest ((bun.illegal profileE (d.ectx e c).g).toList ++ (bun.delayCtl profileE (d.ectx e c).g (d.ectx e c).xfer.isSome).toList) = none →
      (d.eng e).resStall c (bun.live (d.ectx e c).g) = false →
      (d.eng e).unitStall d.clk (bun.live (d.ectx e c).g) = false →
      exec (.eBundle e) s = .next { s with
        dev := (((d.commitBundle e c (d.ectx e c).pc bun (bun.live (d.ectx e c).g)).1).ePmuClock e ((d.eng e).incoming.getD c) (d.commitBundle e c (d.ectx e c).pc bun (bun.live (d.ectx e c).g)).2).onEng e
           (fun x => { x with lastIssue := d.clk + 1 }) }) ∧
    (∀ (e i : Nat) (f : InFlight), wellFormed (.operationComplete e i) = true →
      e < 64 →
      (s.dev.eng e).fly[i]? = some f →
      exec (.operationComplete e i) s = .next { s with
        dev := (s.dev.moveClk f.ready).commitDue e }) ∧
    (∀ (e f : Nat), wellFormed (.contextSwitch e) = true →
      (s.dev.eng e).windowAt = some f →
      s.dev.running e = true →
      exec (.contextSwitch e) s = .next { s with
        dev := (s.dev.moveClk f).issue e })

/-- R215, R219, R223, R239. -/
def Obligations.EngineControlActs : Prop :=
  ∀ (s : State),
    (∀ (rq : Req) (e : Nat) (v : Word) (d : Dev), wellFormed (.peCtlHalt rq e v) = true →
      s.dev.domOn (9 + e / 8) = true →
      rq.svp = true →
      d = s.dev.fs F.PE_CTL_ADMIT e (b2n (v.getLsbD 2)) →
      v.getLsbD 1 = false →
      d.running e = true →
      s.dev.fenced rq = false →
      exec (.peCtlHalt rq e v) s = .next { s with
        dev := (d.stopEngine e 0).ok 0 }) ∧
    (∀ (rq : Req) (e : Nat) (v : Word) (d : Dev), wellFormed (.peCtlHalt rq e v) = true →
      s.dev.domOn (9 + e / 8) = true →
      rq.svp = true →
      d = s.dev.fs F.PE_CTL_ADMIT e (b2n (v.getLsbD 2)) →
      v.getLsbD 1 = false →
      d.running e = false →
      s.dev.fenced rq = false →
      exec (.peCtlHalt rq e v) s = .next { s with
        dev := (d.onEng e (fun x => { x with runArmed := false })).ok 0 }) ∧
    (∀ (rq : Req) (e : Nat) (v : Word) (d : Dev), wellFormed (.peCtlRun rq e v) = true →
      s.dev.domOn (9 + e / 8) = true →
      rq.svp = true →
      d = s.dev.fs F.PE_CTL_ADMIT e (b2n (v.getLsbD 2)) →
      v.getLsbD 0 = false →
      d.fg F.PE_CTL_ADMIT e = 1 →
      d.running e = false →
      d.time.now < tickAt d.F (d.runTick e) →
      s.dev.fenced rq = false →
      exec (.peCtlRun rq e v) s = .next { s with
        dev := (d.onEng e (fun x => { x with runArmed := true, startTick := d.runTick e })).ok 0 }) ∧
    (∀ (rq : Req) (e : Nat) (v : Word) (d : Dev), wellFormed (.peCtlRun rq e v) = true →
      s.dev.domOn (9 + e / 8) = true →
      rq.svp = true →
      d = s.dev.fs F.PE_CTL_ADMIT e (b2n (v.getLsbD 2)) →
      v.getLsbD 0 = false →
      d.fg F.PE_CTL_ADMIT e = 1 →
      d.running e = false →
      tickAt d.F (d.runTick e) ≤ d.time.now →
      s.dev.fenced rq = false →
      exec (.peCtlRun rq e v) s = .next { s with
        dev := ((d.onEng e (fun x => { x with runArmed := false, startTick := d.runTick e })).fs F.PE_STAT_RUNLATE e 1).ok 0 }) ∧
    (∀ (rq : Req) (e : Nat) (v : Word) (d : Dev), wellFormed (.peCtlRun rq e v) = true →
      s.dev.domOn (9 + e / 8) = true →
      rq.svp = true →
      d = s.dev.fs F.PE_CTL_ADMIT e (b2n (v.getLsbD 2)) →
      v.getLsbD 0 = false →
      d.fg F.PE_CTL_ADMIT e = 0 ∨ d.running e = true →
      s.dev.fenced rq = false →
      exec (.peCtlRun rq e v) s = .next { s with
        dev := d.ok 0 }) ∧
    (∀ (e : Nat), wellFormed (.engineStart e) = true →
      (s.dev.eng e).runArmed = true →
      exec (.engineStart e) s = .next { s with
        dev := s.dev.engineStartNow e }) ∧
    (∀ (e k : Nat) (l : List Nat), wellFormed (.hiveMail e) = true →
      (s.dev.eng e).mailAt = k :: l →
      exec (.hiveMail e) s = .next { s with
        dev := 
         (let d := (s.dev.moveClk k).onEng e (fun x => { x with mailAt := l })
         d.raise e (max k s.dev.clk) false (fun d c => d.isCls e c 3)) }) ∧
    (∀ (rq : Req) (h : Nat) (v : Word), wellFormed (.hivMail rq h v) = true →
      s.dev.domOn (9 + h) = true →
      rq.port = 2 ∨ rq.world = s.dev.hiveWorld h →
      s.dev.fenced rq = false →
      exec (.hivMail rq h v) s = .next { s with
        dev := (s.dev.postMail h (v.toNat % 256)).ok 0 }) ∧
    (∀ (rq : Req) (h : Nat) (v : Word), wellFormed (.hivMail rq h v) = true →
      s.dev.domOn (9 + h) = true →
      rq.port ≠ 2 →
      rq.world ≠ s.dev.hiveWorld h →
      s.dev.fenced rq = false →
      exec (.hivMail rq h v) s = .next { s with
        dev := s.dev.errResp 11 rq 0x01 (0x41000B000C + h * 0x100) (h * 0x100 + 0xC) }) ∧
    (∀ (rq : Req) (e c : Nat) (v : Word), wellFormed (.peDbgRelease rq e v) = true →
      s.dev.domOn (9 + e / 8) = true →
      rq.svp = true →
      onesBelow 8 (v.toNat / 256) = [c] →
      v.getLsbD 16 = false →
      (s.dev.ectx e c).held = true →
      s.dev.fenced rq = false →
      exec (.peDbgRelease rq e v) s = .next { s with
        dev := 
         (let a := (s.dev.ePmuClocks e).onCtx e c (fun k => { k with held := false, skipBrk := true, st := 1 })
         let d := a.fs F.PE_DBG_HELD e (setBit (a.fg F.PE_DBG_HELD e) c false)
         (d.schedEvent e d.clk).ok 0) })

/-- R214: program memory and ADMIT. -/
def Obligations.ProgramMemoryWriteRule : Prop :=
  ∀ (s : State),
    (∀ (rq : Req) (e off size : Nat) (data : BitVec 128), wellFormed (.programMemoryWrite rq e off size data) = true →
      s.dev.domOn (9 + e / 8) = true →
      rq.svp = true →
      off < 0x20000 →
      wordWidth off size = true →
      s.dev.running e = false →
      s.dev.fenced rq = false →
      exec (.programMemoryWrite rq e off size data) s = .next { s with
        dev := ((s.dev.fs F.PE_CTL_ADMIT e 0).onEng e (fun x => x.setProg off size data.toNat)).ok 0 }) ∧
    (∀ (rq : Req) (e off size : Nat) (data : BitVec 128), wellFormed (.programMemoryWrite rq e off size data) = true →
      s.dev.domOn (9 + e / 8) = true →
      rq.svp = true →
      off < 0x20000 →
      wordWidth off size = true →
      s.dev.running e = true →
      s.dev.fenced rq = false →
      exec (.programMemoryWrite rq e off size data) s = .next { s with
        dev := s.dev.errResp 11 rq 0x01 (0x4020000000 + e * 0x100000 + off) off }) ∧
    (∀ (rq : Req) (e : Nat) (v : Word), wellFormed (.peCtlRun rq e v) = true →
      s.dev.domOn (9 + e / 8) = true →
      rq.svp = true →
      v.getLsbD 0 = false →
      v.getLsbD 2 = false →
      s.dev.fenced rq = false →
      exec (.peCtlRun rq e v) s = .next { s with
        dev := (s.dev.fs F.PE_CTL_ADMIT e 0).ok 0 })

/-- R243, R244, R249. -/
def Obligations.SettingsRegistersAct : Prop :=
  ∀ (s : State),
    (∀ (rq : Req) (g : Nat) (v : Word), wellFormed (.setPgArm rq g v) = true →
      s.dev.reaches rq 17 = true →
      rq.svp = true →
      v.getLsbD 1 = false →
      v.getLsbD 2 = false →
      v.getLsbD 3 = false →
      s.dev.time.now < tickAt s.dev.F (s.dev.pgTick g) →
      exec (.setPgArm rq g v) s = .next { s with
        dev := (s.dev.fs F.SET_PG_CTL_ARM g 1).ok 0 }) ∧
    (∀ (rq : Req) (g : Nat) (v : Word), wellFormed (.setPgArm rq g v) = true →
      s.dev.reaches rq 17 = true →
      rq.svp = true →
      v.getLsbD 1 = false →
      v.getLsbD 2 = false →
      v.getLsbD 3 = false →
      tickAt s.dev.F (s.dev.pgTick g) ≤ s.dev.time.now →
      exec (.setPgArm rq g v) s = .next { s with
        dev := (((s.dev.fs F.SET_PG_CTL_ARM g 0).fs F.SET_PG_CTL_LATE g 1).setEvtBit 128 F.SET_EVT_FAIL 0 g).ok 0 }) ∧
    (∀ (rq : Req) (e off size : Nat) (data : DWord), wellFormed (.shadowBankWrite rq e off size data) = true →
      s.dev.domOn (9 + e / 8) = true →
      rq.svp = true →
      off < 0x4000 →
      wordWidth off size = true →
      s.dev.oldUse e = false →
      s.dev.fenced rq = false →
      exec (.shadowBankWrite rq e off size data) s = .next { s with
        dev := ((s.dev.fs F.SET_ESTAT_SHVALID e 0).onEng e (fun x =>
          x.setBankBytes (1 - s.dev.fg F.SET_ESTAT_ACTIVE e) off size data.toNat)).ok 0 }) ∧
    (∀ (rq : Req) (e off size : Nat) (data : DWord), wellFormed (.shadowBankWrite rq e off size data) = true →
      s.dev.domOn (9 + e / 8) = true →
      rq.svp = false ∨ s.dev.oldUse e = true →
      off < 0x4000 →
      wordWidth off size = true →
      s.dev.fenced rq = false →
      exec (.shadowBankWrite rq e off size data) s = .next { s with
        dev := s.dev.errResp 12 rq 0x01 (0x4020000000 + e * 0x100000 + (0x80000 + off)) (0x80000 + off) }) ∧
    (∀ (rq : Req) (half : Nat) (v : Word), wellFormed (.setValid rq half v) = true →
      s.dev.reaches rq 17 = true →
      rq.svp = true →
      exec (.setValid rq half v) s = .next { s with
        dev := (s.dev.each (onesBelow 32 v.toNat) (fun d b => d.fs F.SET_ESTAT_SHVALID (32 * half + b) 1)).ok 0 })

/-- R252 to R271, R490: the gate and the journal. -/
def Obligations.GateAndJournalEventsAct : Prop :=
  ∀ (s : State),
    (∀ (k : Nat) (d v a b c : Dev) (l : List Nat), wellFormed (.publishPoint k) = true →
      s.dev.pointDue k = true →
      s.dev.trg.mapNext = none →
      d = s.dev.moveTo (s.dev.tickTime + s.dev.fg F.TRG_PP_P k) →
      l = d.pointPairs k →
      v = d.each l Dev.soloApply →
      a = v.each (l.filter (fun j => decide (v.fg F.TRG_PCFG_EN j = 1))) Dev.decide1 →
      b = a.each l (fun d j => (d.takeEvents (2 * j)).takeEvents (2 * j + 1)) →
      c = b.each ((List.range 128).filter (fun i => b.trg.map.any (fun w => l.contains (tmPair w) && decide (tmKind w = 0) && decide (tmBlock w = i))))
        (fun d i => d.pubRecompute (s.dev.tickTime + s.dev.fg F.TRG_PP_P k) i) →
      exec (.publishPoint k) s = .next { s with
        dev := c.each ((List.range 4).filter (fun i => c.trg.map.any (fun w => l.contains (tmPair w) && decide (tmKind w = 1) && decide (tmLink w = i))))
          (fun d i => d.linkOutput (s.dev.tickTime + s.dev.fg F.TRG_PP_P k) i) }) ∧
    (∀ (b x : Nat) (d : Dev), wellFormed (.gooseRetransmission b) = true →
      (s.dev.pblk b).next = some x →
      s.dev.fg F.PUB_CFG_EN b = 1 →
      s.dev.domOn 17 = true →
      d = s.dev.moveTo x →
      exec (.gooseRetransmission b) s = .next { s with
        dev := 
         (let iv := min (2 * (d.pblk b).interval) (max (d.tmax b) (d.tmin b))
         ((d.wr .PUB_SQNUM b (BitVec.ofNat 32 (nextNum (d.rd .PUB_SQNUM b).toNat))).onPub b
           (fun p => { p with interval := iv, next := some (x + iv) })).pubSend b 3) }) ∧
    (∀ (r : JRec) (l : List JRec), 
      s.dev.domOn 32 = true →
      s.dev.jrn.staged = r :: l →
      1024 ≤ s.dev.jrn.staged.length →
      exec .journalFlush s = .next { s with
        dev := s.dev.jrnFlush }) ∧
    (∀ (r : JRec) (l : List JRec), 
      s.dev.domOn 32 = true →
      s.dev.jrn.staged = r :: l →
      s.dev.jrn.staged.length < 1024 →
      exec .journalFlush s = .next { s with
        dev := (s.dev.moveTo (r.time + s.dev.flushNs)).jrnFlush }) ∧
    (∀ (n : Nat), 
      s.dev.domOn 32 = true →
      s.dev.jrn.lostO = 0 →
      s.dev.jrn.lostS = n →
      n ≠ 0 →
      s.dev.jrnRoom 1 = true →
      exec .lostRecord s = .next { s with
        dev := 
         (let d := s.dev.jrnAccept 0x0052 0 1 s.dev.time.now (leBytes 4 n)
         { d with jrn := { d.jrn with lostS := 0 } }) }) ∧
    (∀ (n : Nat) (d : Dev), 
      s.dev.domOn 32 = true →
      s.dev.jrn.lostO = n →
      n ≠ 0 →
      s.dev.jrnRoom 1 = true →
      d = s.dev.jrnAccept 0x0052 0 0 s.dev.time.now (leBytes 4 n) →
      d.jrn.lostS = 0 →
      exec .lostRecord s = .next { s with
        dev := { d with jrn := { d.jrn with lostO := 0 } } }) ∧
    (wellFormed (.mramScrub 0) = true →
      s.dev.domOn 32 = true →
      s.dev.jrn.scrubAt + 1 < mramWords →
      s.dev.jrn.scrubAt ∉ s.dev.jrn.ueWords →
      exec (.mramScrub 0) s = .next { s with
        dev := Dev.fs { s.dev with jrn := { s.dev.jrn with scrubAt := s.dev.jrn.scrubAt + 1 } } F.JRN_STAT_SCRUB 0 1 }) ∧
    (∀ (d : Dev), wellFormed (.mramScrub 1) = true →
      s.dev.domOn 32 = true →
      s.dev.jrn.scrubAt + 1 < mramWords →
      d = (s.dev.errCe 15).setEvt 131 F.JRN_EVT_ECC 0 →
      exec (.mramScrub 1) s = .next { s with
        dev := Dev.fs { d with jrn := { d.jrn with scrubAt := s.dev.jrn.scrubAt + 1 } } F.JRN_STAT_SCRUB 0 1 }) ∧
    (∀ (d : Dev), wellFormed (.mramScrub 2) = true →
      s.dev.domOn 32 = true →
      s.dev.jrn.scrubAt + 1 < mramWords →
      s.dev.jrn.scrubAt ∉ s.dev.jrn.ueWords →
      d = Dev.mramUe { s.dev with jrn := { s.dev.jrn with ueWords := s.dev.jrn.ueWords ++ [s.dev.jrn.scrubAt] } } none (8 * s.dev.jrn.scrubAt) 0 →
      exec (.mramScrub 2) s = .next { s with
        dev := Dev.fs { d with jrn := { d.jrn with scrubAt := s.dev.jrn.scrubAt + 1 } } F.JRN_STAT_SCRUB 0 1 }) ∧
    (∀ (rq : Req) (off size : Nat), wellFormed (.journalWindowRead rq off size) = true →
      s.dev.domOn 32 = true →
      size = 4 ∨ size = 8 →
      off % size = 0 →
      s.dev.mramMay rq.world off = true →
      s.dev.mramStaged off = true ∨ (s.dev.mramBad off = false ∧ s.dev.mramTag off = false) →
      s.dev.fenced rq = false →
      exec (.journalWindowRead rq off size) s = .next { s with
        dev := s.dev.ok (leNat ((List.range size).map (fun i => s.dev.mramByte (off + i)))) }) ∧
    (∀ (rq : Req) (off size : Nat), wellFormed (.journalWindowRead rq off size) = true →
      s.dev.domOn 32 = true →
      size = 4 ∨ size = 8 →
      off % size = 0 →
      s.dev.mramMay rq.world off = false →
      s.dev.fenced rq = false →
      exec (.journalWindowRead rq off size) s = .next { s with
        dev := s.dev.errResp 15 rq 0x05 (0x4400000000 + off) 0 }) ∧
    (∀ (rq : Req) (off size : Nat), wellFormed (.journalWindowRead rq off size) = true →
      s.dev.domOn 32 = true →
      size = 4 ∨ size = 8 →
      off % size = 0 →
      s.dev.mramMay rq.world off = true →
      s.dev.mramStaged off = false →
      s.dev.mramBad off = true →
      s.dev.fenced rq = false →
      exec (.journalWindowRead rq off size) s = .next { s with
        dev := (s.dev.setEvt 131 F.JRN_EVT_UE 0).errResp 15 rq 0x09 (0x4400000000 + off) 0 }) ∧
    (∀ (rq : Req) (off size : Nat), wellFormed (.journalWindowRead rq off size) = true →
      s.dev.domOn 32 = true →
      size = 4 ∨ size = 8 →
      off % size = 0 →
      s.dev.mramMay rq.world off = true →
      s.dev.mramStaged off = false →
      s.dev.mramBad off = false →
      s.dev.mramTag off = true →
      s.dev.fenced rq = false →
      exec (.journalWindowRead rq off size) s = .next { s with
        dev := (s.dev.setEvt 131 F.JRN_EVT_UE 0).errResp 15 rq 0x09 (0x4400000000 + off) 1 }) ∧
    (∀ (i : Nat) (c e : Capture) (d : Dev), 
      s.dev.findCap (fun c => decide (c.st = 0) && decide (c.startTick ≤ s.dev.tickNo)) = some (i, c) →
      s.dev.capRows { c with st := 1, firstTick := c.startTick - s.dev.cmbL - (c.pre - 1) } c.rows = (d, e) →
      exec .disturbanceCaptureStart s = .next { s with
        dev := d.setCap i e }) ∧
    (∀ (i : Nat) (c : Capture), 
      s.dev.findCap (fun c => decide (c.st = 1) && decide (c.rowsDone = c.rows)) = some (i, c) →
      exec .disturbanceCaptureEnd s = .next { s with
        dev := s.dev.capFinish i c })

/-- R421 to R428: the interrupt controller. -/
def Obligations.InterruptControllerActs : Prop :=
  ∀ (s : State),
    (∀ (n t : Nat), wellFormed (.icAssign n) = true →
      s.dev.icRefresh n = s.dev →
      s.dev.icWaits n = true →
      s.dev.fg F.IC_SRC_CUR n = 15 →
      s.dev.icNext n = some t →
      exec (.icAssign n) s = .next { s with
        dev := s.dev.fs F.IC_SRC_CUR n t }) ∧
    (∀ (n : Nat), wellFormed (.icAssign n) = true →
      s.dev.icRefresh n = s.dev →
      s.dev.icWaits n = true →
      s.dev.fg F.IC_SRC_CUR n = 15 →
      s.dev.icNext n = none →
      exec (.icAssign n) s = .next { s with
        dev := s.dev }) ∧
    (∀ (rq : Req) (t n : Nat), wellFormed (.icClaim rq t) = true →
      s.dev.reaches rq 28 = true →
      rq.debug = false →
      claimOwner rq t = true →
      s.dev.icLine t false = some n →
      exec (.icClaim rq t) s = .next { s with
        dev := 
         (let d := (((s.dev.setIcBit .IC_PSET n false).setIcBit .IC_ACT n true).fs F.IC_SRC_LAST n t).fs F.IC_SRC_CUR n 15
         Dev.ok { d with ic := { d.ic with owner := SMap.set (fun _ => 15) d.ic.owner n t } } (n + 2 ^ 31)) }) ∧
    (∀ (rq : Req) (t : Nat), wellFormed (.icClaim rq t) = true →
      s.dev.reaches rq 28 = true →
      rq.debug = false →
      claimOwner rq t = true →
      s.dev.icLine t false = none →
      exec (.icClaim rq t) s = .next { s with
        dev := s.dev.ok 0 }) ∧
    (∀ (rq : Req) (t : Nat), wellFormed (.icClaim rq t) = true →
      s.dev.reaches rq 28 = true →
      rq.debug = true →
      rq.peek = true →
      exec (.icClaim rq t) s = .next { s with
        dev := s.dev.ok (claimValue (s.dev.icLine t false)) }) ∧
    (∀ (rq : Req) (t : Nat), wellFormed (.icClaim rq t) = true →
      s.dev.reaches rq 28 = true →
      rq.debug = false ∨ rq.peek = false →
      claimOwner rq t = false →
      exec (.icClaim rq t) s = .next { s with
        dev := s.dev.errResp 16 rq 0x05 (0x4100100000 + (0x400 + 0x10 * t + 0)) 0 }) ∧
    (∀ (rq : Req) (t n : Nat), wellFormed (.icQclaim rq t) = true →
      s.dev.reaches rq 28 = true →
      rq.debug = false →
      claimOwner rq t = true →
      s.dev.icLine t true = some n →
      exec (.icQclaim rq t) s = .next { s with
        dev := 
         (let d := (((s.dev.setIcBit .IC_PSET n false).setIcBit .IC_ACT n true).fs F.IC_SRC_LAST n t).fs F.IC_SRC_CUR n 15
         Dev.ok { d with ic := { d.ic with owner := SMap.set (fun _ => 15) d.ic.owner n t } } (n + 2 ^ 31)) }) ∧
    (∀ (rq : Req) (t : Nat), wellFormed (.icQclaim rq t) = true →
      s.dev.reaches rq 28 = true →
      rq.debug = false →
      claimOwner rq t = true →
      s.dev.icLine t true = none →
      exec (.icQclaim rq t) s = .next { s with
        dev := s.dev.ok 0 }) ∧
    (∀ (rq : Req) (t : Nat), wellFormed (.icQclaim rq t) = true →
      s.dev.reaches rq 28 = true →
      rq.debug = true →
      rq.peek = true →
      exec (.icQclaim rq t) s = .next { s with
        dev := s.dev.ok (claimValue (s.dev.icLine t true)) }) ∧
    (∀ (rq : Req) (t : Nat), wellFormed (.icQclaim rq t) = true →
      s.dev.reaches rq 28 = true →
      rq.debug = false ∨ rq.peek = false →
      claimOwner rq t = false →
      exec (.icQclaim rq t) s = .next { s with
        dev := s.dev.errResp 16 rq 0x05 (0x4100100000 + (0x400 + 0x10 * t + 4)) 0 }) ∧
    (∀ (rq : Req) (t : Nat) (v : Word), wellFormed (.icCompl rq t v) = true →
      s.dev.reaches rq 28 = true →
      s.dev.icActive (v.toNat % 1024) = true →
      SMap.get (fun _ => 15) s.dev.ic.owner (v.toNat % 1024) = t →
      v.getLsbD 31 = false →
      exec (.icCompl rq t v) s = .next { s with
        dev := (s.dev.setIcBit .IC_ACT (v.toNat % 1024) false).ok 0 }) ∧
    (∀ (rq : Req) (t : Nat) (v : Word) (d : Dev), wellFormed (.icCompl rq t v) = true →
      s.dev.reaches rq 28 = true →
      s.dev.icActive (v.toNat % 1024) = true →
      SMap.get (fun _ => 15) s.dev.ic.owner (v.toNat % 1024) = t →
      v.getLsbD 31 = true →
      d = s.dev.setIcBit .IC_ACT (v.toNat % 1024) false →
      d.icCond (v.toNat % 1024) = true →
      exec (.icCompl rq t v) s = .next { s with
        dev := (d.icPend (v.toNat % 1024)).ok 0 }) ∧
    (∀ (rq : Req) (t : Nat) (v : Word) (d : Dev), wellFormed (.icCompl rq t v) = true →
      s.dev.reaches rq 28 = true →
      s.dev.icActive (v.toNat % 1024) = true →
      SMap.get (fun _ => 15) s.dev.ic.owner (v.toNat % 1024) = t →
      v.getLsbD 31 = true →
      d = s.dev.setIcBit .IC_ACT (v.toNat % 1024) false →
      d.icCond (v.toNat % 1024) = false →
      exec (.icCompl rq t v) s = .next { s with
        dev := d.ok 0 }) ∧
    (∀ (rq : Req) (t : Nat) (v : Word), wellFormed (.icCompl rq t v) = true →
      s.dev.reaches rq 28 = true →
      s.dev.icActive (v.toNat % 1024) = false ∨ SMap.get (fun _ => 15) s.dev.ic.owner (v.toNat % 1024) ≠ t →
      exec (.icCompl rq t v) s = .next { s with
        dev := (s.dev.errCap 16 { ty := 0x10, addr := devAddr 16 (0x408 + 0x10 * t), port := rq.port, world := rq.world, info := v.toNat }).ok 0 }) ∧
    (∀ (rq : Req) (v : Word), wellFormed (.icRearm rq v) = true →
      s.dev.reaches rq 28 = true →
      icReserved (v.toNat % 1024) = false →
      s.dev.icMay rq (v.toNat % 1024) = true →
      s.dev.icCond (v.toNat % 1024) = true →
      exec (.icRearm rq v) s = .next { s with
        dev := (s.dev.icPend (v.toNat % 1024)).ok 0 }) ∧
    (∀ (rq : Req) (v : Word), wellFormed (.icRearm rq v) = true →
      s.dev.reaches rq 28 = true →
      icReserved (v.toNat % 1024) = true ∨ s.dev.icMay rq (v.toNat % 1024) = false ∨ s.dev.icCond (v.toNat % 1024) = false →
      exec (.icRearm rq v) s = .next { s with
        dev := s.dev.ok 0 }) ∧
    (∀ (rq : Req) (w : Nat) (v : Word), wellFormed (.icPset rq w v) = true →
      s.dev.reaches rq 28 = true →
      exec (.icPset rq w v) s = .next { s with
        dev := (s.dev.each (s.dev.icBitsOf rq w v) (fun d n => (d.setIcBit .IC_PSET n true).icRefresh n)).ok 0 })

/-- R431 to R437: the watchdogs. -/
def Obligations.WatchdogsAct : Prop :=
  ∀ (s : State),
    (∀ (rq : Req) (w : Nat) (d : Dev), wellFormed (.wdgSvc rq w 0x0000C35A) = true →
      s.dev.reaches rq (wdgDom w) = true →
      s.dev.wdgMay rq w true = true →
      d = s.dev.wdgCatch w →
      exec (.wdgSvc rq w 0x0000C35A) s = .next { s with
        dev := (d.setFirst w true).ok 0 }) ∧
    (∀ (rq : Req) (w : Nat) (d : Dev), wellFormed (.wdgSvc rq w 0x00005AC3) = true →
      s.dev.reaches rq (wdgDom w) = true →
      s.dev.wdgMay rq w true = true →
      d = s.dev.wdgCatch w →
      SMap.get (fun _ => false) d.wdg.first w = true →
      (d.setFirst w false).fg F.WDG_OPEN_US w ≤ (d.setFirst w false).fg F.WDG_STAT_CNT w →
      exec (.wdgSvc rq w 0x00005AC3) s = .next { s with
        dev := ((((d.setFirst w false).wdgZero w).fs F.WDG_STAT_WARN w 0).fs F.WDG_STAT_FAULT w 0).ok 0 }) ∧
    (∀ (rq : Req) (w : Nat) (d : Dev) (v : Word), wellFormed (.wdgSvc rq w v) = true →
      s.dev.reaches rq (wdgDom w) = true →
      s.dev.wdgMay rq w true = true →
      d = s.dev.wdgCatch w →
      v ≠ 0x0000C35A →
      v ≠ 0x00005AC3 ∨ SMap.get (fun _ => false) d.wdg.first w = false ∨ (d.setFirst w false).fg F.WDG_STAT_CNT w < (d.setFirst w false).fg F.WDG_OPEN_US w →
      exec (.wdgSvc rq w v) s = .next { s with
        dev := ((d.setFirst w false).wdgBad w).ok 0 }) ∧
    (∀ (w : Nat), wellFormed (.wdgWarning w) = true →
      s.dev.wdgCounts w = true →
      s.dev.fg F.WDG_STAT_WARN w = 0 →
      exec (.wdgWarning w) s = .next { s with
        dev := (s.dev.wdgReach w (s.dev.fg F.WDG_CLOSE_US w)).setEvt (160 + w) F.WDG_STAT_WARN w }) ∧
    (∀ (w : Nat) (d : Dev), wellFormed (.wdgExpiry w) = true →
      s.dev.wdgCounts w = true →
      d = s.dev.wdgReach w (s.dev.fg F.WDG_CLOSE_US w + s.dev.fg F.WDG_GRACE_US w) →
      d.fg F.WDG_STAT_WARN w = 1 →
      exec (.wdgExpiry w) s = .next { s with
        dev := 
         (let a := ((d.fs F.WDG_STAT_EXP w 1).inc F.WDG_EXPCNT_COUNT w).errCap 17 { ty := 0x0F, addr := devAddr 17 (0x20 * w), info := w }
         (a.wdgZero w).wdgAction w) }) ∧
    (∀ (rq : Req) (w : Nat) (v : Word), wellFormed (.wdgLock rq w v) = true →
      s.dev.reaches rq (wdgDom w) = true →
      s.dev.wdgMay rq w false = true →
      s.dev.fg F.WDG_CTL_LOCK w = 1 →
      exec (.wdgLock rq w v) s = .next { s with
        dev := s.dev.errResp 17 rq 0x01 (devAddr 17 (0x20 * w + 0)) (0x20 * w + 0) }) ∧
    (∀ (rq : Req) (w : Nat) (v : Word) (d : Dev), wellFormed (.wdgLock rq w v) = true →
      s.dev.reaches rq (wdgDom w) = true →
      s.dev.wdgMay rq w false = true →
      s.dev.fg F.WDG_CTL_LOCK w = 0 →
      d = s.dev.wdgCatch w →
      w < 8 →
      v.getLsbD 0 = false →
      exec (.wdgLock rq w v) s = .next { s with
        dev := ((((d.fs F.WDG_CTL_EN w 0).fs F.WDG_CTL_DBGPAUSE w (b2n (v.getLsbD 1))).fs F.WDG_CTL_ACT w (b2n (v.getLsbD 2))).fs F.WDG_CTL_LOCK w 1).ok 0 })

/-- R276, R277: the integer and multiply-divide units of the A-profile. -/
def Obligations.CoreIntegerOperations : Prop :=
  ∀ (s : State),
    (∀ (m u : Nat) (d : Dev) (a t : DWord), wellFormed (.aIaluOp m u 0 t) = true →
      s.dev.coreLive m = true →
      (s.dev.core m).ra = none →
      d = s.dev.coreClock m →
      d.aFree m u ≤ (d.core m).cyc →
      a.toNat = d.lat m (0x40 + 0x18 * u) →
      exec (.aIaluOp m u 0 t) s = .next { s with
        dev := d.aLaunch m u [(0x40 + u, (a + t).toNat)] 1 0 }) ∧
    (∀ (m u : Nat) (d : Dev) (a t : DWord), wellFormed (.aIaluOp m u 1 t) = true →
      s.dev.coreLive m = true →
      (s.dev.core m).ra = none →
      d = s.dev.coreClock m →
      d.aFree m u ≤ (d.core m).cyc →
      a.toNat = d.lat m (0x40 + 0x18 * u) →
      exec (.aIaluOp m u 1 t) s = .next { s with
        dev := d.aLaunch m u [(0x40 + u, (a - t).toNat)] 1 0 }) ∧
    (∀ (m u : Nat) (d : Dev) (a t : DWord), wellFormed (.aIaluOp m u 2 t) = true →
      s.dev.coreLive m = true →
      (s.dev.core m).ra = none →
      d = s.dev.coreClock m →
      d.aFree m u ≤ (d.core m).cyc →
      a.toNat = d.lat m (0x40 + 0x18 * u) →
      exec (.aIaluOp m u 2 t) s = .next { s with
        dev := d.aLaunch m u [(0x40 + u, (a &&& t).toNat)] 1 0 }) ∧
    (∀ (m u : Nat) (d : Dev) (a t : DWord), wellFormed (.aIaluOp m u 3 t) = true →
      s.dev.coreLive m = true →
      (s.dev.core m).ra = none →
      d = s.dev.coreClock m →
      d.aFree m u ≤ (d.core m).cyc →
      a.toNat = d.lat m (0x40 + 0x18 * u) →
      exec (.aIaluOp m u 3 t) s = .next { s with
        dev := d.aLaunch m u [(0x40 + u, (a ||| t).toNat)] 1 0 }) ∧
    (∀ (m u : Nat) (d : Dev) (a t : DWord), wellFormed (.aIaluOp m u 4 t) = true →
      s.dev.coreLive m = true →
      (s.dev.core m).ra = none →
      d = s.dev.coreClock m →
      d.aFree m u ≤ (d.core m).cyc →
      a.toNat = d.lat m (0x40 + 0x18 * u) →
      exec (.aIaluOp m u 4 t) s = .next { s with
        dev := d.aLaunch m u [(0x40 + u, (a ^^^ t).toNat)] 1 0 }) ∧
    (∀ (m u : Nat) (d : Dev) (a t : DWord), wellFormed (.aIaluOp m u 5 t) = true →
      s.dev.coreLive m = true →
      (s.dev.core m).ra = none →
      d = s.dev.coreClock m →
      d.aFree m u ≤ (d.core m).cyc →
      a.toNat = d.lat m (0x40 + 0x18 * u) →
      exec (.aIaluOp m u 5 t) s = .next { s with
        dev := d.aLaunch m u [(0x40 + u, (a <<< (t.toNat % 64)).toNat)] 1 0 }) ∧
    (∀ (m u : Nat) (d : Dev) (a t : DWord), wellFormed (.aIaluOp m u 6 t) = true →
      s.dev.coreLive m = true →
      (s.dev.core m).ra = none →
      d = s.dev.coreClock m →
      d.aFree m u ≤ (d.core m).cyc →
      a.toNat = d.lat m (0x40 + 0x18 * u) →
      exec (.aIaluOp m u 6 t) s = .next { s with
        dev := d.aLaunch m u [(0x40 + u, (a >>> (t.toNat % 64)).toNat)] 1 0 }) ∧
    (∀ (m u : Nat) (d : Dev) (a t : DWord), wellFormed (.aIaluOp m u 7 t) = true →
      s.dev.coreLive m = true →
      (s.dev.core m).ra = none →
      d = s.dev.coreClock m →
      d.aFree m u ≤ (d.core m).cyc →
      a.toNat = d.lat m (0x40 + 0x18 * u) →
      exec (.aIaluOp m u 7 t) s = .next { s with
        dev := d.aLaunch m u [(0x40 + u, (a.sshiftRight (t.toNat % 64)).toNat)] 1 0 }) ∧
    (∀ (m u : Nat) (d : Dev) (a t : DWord), wellFormed (.aIaluOp m u 8 t) = true →
      s.dev.coreLive m = true →
      (s.dev.core m).ra = none →
      d = s.dev.coreClock m →
      d.aFree m u ≤ (d.core m).cyc →
      a.toNat = d.lat m (0x40 + 0x18 * u) →
      exec (.aIaluOp m u 8 t) s = .next { s with
        dev := d.aLaunch m u [(0x40 + u, (if a.slt t then a else t).toNat)] 1 0 }) ∧
    (∀ (m u : Nat) (d : Dev) (a t : DWord), wellFormed (.aIaluOp m u 9 t) = true →
      s.dev.coreLive m = true →
      (s.dev.core m).ra = none →
      d = s.dev.coreClock m →
      d.aFree m u ≤ (d.core m).cyc →
      a.toNat = d.lat m (0x40 + 0x18 * u) →
      exec (.aIaluOp m u 9 t) s = .next { s with
        dev := d.aLaunch m u [(0x40 + u, (if a.slt t then t else a).toNat)] 1 0 }) ∧
    (∀ (m u : Nat) (d : Dev) (a t : DWord), wellFormed (.aIaluOp m u 10 t) = true →
      s.dev.coreLive m = true →
      (s.dev.core m).ra = none →
      d = s.dev.coreClock m →
      d.aFree m u ≤ (d.core m).cyc →
      a.toNat = d.lat m (0x40 + 0x18 * u) →
      exec (.aIaluOp m u 10 t) s = .next { s with
        dev := d.aLaunch m u [(0x40 + u, (if t < a then t else a).toNat)] 1 0 }) ∧
    (∀ (m u : Nat) (d : Dev) (a t : DWord), wellFormed (.aIaluOp m u 11 t) = true →
      s.dev.coreLive m = true →
      (s.dev.core m).ra = none →
      d = s.dev.coreClock m →
      d.aFree m u ≤ (d.core m).cyc →
      a.toNat = d.lat m (0x40 + 0x18 * u) →
      exec (.aIaluOp m u 11 t) s = .next { s with
        dev := d.aLaunch m u [(0x40 + u, (if a < t then t else a).toNat)] 1 0 }) ∧
    (∀ (m u : Nat) (d : Dev) (a t : DWord), wellFormed (.aIaluOp m u 12 t) = true →
      s.dev.coreLive m = true →
      (s.dev.core m).ra = none →
      d = s.dev.coreClock m →
      d.aFree m u ≤ (d.core m).cyc →
      a.toNat = d.lat m (0x40 + 0x18 * u) →
      exec (.aIaluOp m u 12 t) s = .next { s with
        dev := d.aLaunch m u [(0x40 + u, (if a = t then (1 : DWord) else 0).toNat)] 1 0 }) ∧
    (∀ (m u : Nat) (d : Dev) (a t : DWord), wellFormed (.aIaluOp m u 13 t) = true →
      s.dev.coreLive m = true →
      (s.dev.core m).ra = none →
      d = s.dev.coreClock m →
      d.aFree m u ≤ (d.core m).cyc →
      a.toNat = d.lat m (0x40 + 0x18 * u) →
      exec (.aIaluOp m u 13 t) s = .next { s with
        dev := d.aLaunch m u [(0x40 + u, (if a.slt t then (1 : DWord) else 0).toNat)] 1 0 }) ∧
    (∀ (m u : Nat) (d : Dev) (a t : DWord), wellFormed (.aIaluOp m u 14 t) = true →
      s.dev.coreLive m = true →
      (s.dev.core m).ra = none →
      d = s.dev.coreClock m →
      d.aFree m u ≤ (d.core m).cyc →
      a.toNat = d.lat m (0x40 + 0x18 * u) →
      exec (.aIaluOp m u 14 t) s = .next { s with
        dev := d.aLaunch m u [(0x40 + u, (if a < t then (1 : DWord) else 0).toNat)] 1 0 }) ∧
    (∀ (m u : Nat) (d : Dev) (a t : DWord), wellFormed (.aIaluOp m u 15 t) = true →
      s.dev.coreLive m = true →
      (s.dev.core m).ra = none →
      d = s.dev.coreClock m →
      d.aFree m u ≤ (d.core m).cyc →
      a.toNat = d.lat m (0x40 + 0x18 * u) →
      exec (.aIaluOp m u 15 t) s = .next { s with
        dev := d.aLaunch m u [(0x40 + u, (((a + t).setWidth 32).signExtend 64).toNat)] 1 0 }) ∧
    (∀ (m u : Nat) (d : Dev) (a t : DWord), wellFormed (.aIaluOp m u 16 t) = true →
      s.dev.coreLive m = true →
      (s.dev.core m).ra = none →
      d = s.dev.coreClock m →
      d.aFree m u ≤ (d.core m).cyc →
      a.toNat = d.lat m (0x40 + 0x18 * u) →
      exec (.aIaluOp m u 16 t) s = .next { s with
        dev := d.aLaunch m u [(0x40 + u, (((a - t).setWidth 32).signExtend 64).toNat)] 1 0 }) ∧
    (∀ (m u : Nat) (d : Dev) (a t : DWord), wellFormed (.aIaluOp m u 17 t) = true →
      s.dev.coreLive m = true →
      (s.dev.core m).ra = none →
      d = s.dev.coreClock m →
      d.aFree m u ≤ (d.core m).cyc →
      a.toNat = d.lat m (0x40 + 0x18 * u) →
      exec (.aIaluOp m u 17 t) s = .next { s with
        dev := d.aLaunch m u [(0x40 + u, (((a.setWidth 32) <<< (t.toNat % 32)).signExtend 64).toNat)] 1 0 }) ∧
    (∀ (m u : Nat) (d : Dev) (a t : DWord), wellFormed (.aIaluOp m u 18 t) = true →
      s.dev.coreLive m = true →
      (s.dev.core m).ra = none →
      d = s.dev.coreClock m →
      d.aFree m u ≤ (d.core m).cyc →
      a.toNat = d.lat m (0x40 + 0x18 * u) →
      t.toNat % 4 = 0 →
      exec (.aIaluOp m u 18 t) s = .next { s with
        dev := d.aLaunch m u [(0x40 + u, ((a.setWidth 8).signExtend 64).toNat)] 1 0 }) ∧
    (∀ (m u : Nat) (d : Dev) (a t : DWord), wellFormed (.aIaluOp m u 19 t) = true →
      s.dev.coreLive m = true →
      (s.dev.core m).ra = none →
      d = s.dev.coreClock m →
      d.aFree m u ≤ (d.core m).cyc →
      a.toNat = d.lat m (0x40 + 0x18 * u) →
      t.toNat % 4 = 0 →
      exec (.aIaluOp m u 19 t) s = .next { s with
        dev := d.aLaunch m u [(0x40 + u, ((a.setWidth 8).setWidth 64).toNat)] 1 0 }) ∧
    (∀ (m u : Nat) (d : Dev) (a t : DWord), wellFormed (.aIaluOp m u 18 t) = true →
      s.dev.coreLive m = true →
      (s.dev.core m).ra = none →
      d = s.dev.coreClock m →
      d.aFree m u ≤ (d.core m).cyc →
      a.toNat = d.lat m (0x40 + 0x18 * u) →
      t.toNat % 4 = 1 →
      exec (.aIaluOp m u 18 t) s = .next { s with
        dev := d.aLaunch m u [(0x40 + u, ((a.setWidth 16).signExtend 64).toNat)] 1 0 }) ∧
    (∀ (m u : Nat) (d : Dev) (a t : DWord), wellFormed (.aIaluOp m u 19 t) = true →
      s.dev.coreLive m = true →
      (s.dev.core m).ra = none →
      d = s.dev.coreClock m →
      d.aFree m u ≤ (d.core m).cyc →
      a.toNat = d.lat m (0x40 + 0x18 * u) →
      t.toNat % 4 = 1 →
      exec (.aIaluOp m u 19 t) s = .next { s with
        dev := d.aLaunch m u [(0x40 + u, ((a.setWidth 16).setWidth 64).toNat)] 1 0 }) ∧
    (∀ (m u : Nat) (d : Dev) (a t : DWord), wellFormed (.aIaluOp m u 18 t) = true →
      s.dev.coreLive m = true →
      (s.dev.core m).ra = none →
      d = s.dev.coreClock m →
      d.aFree m u ≤ (d.core m).cyc →
      a.toNat = d.lat m (0x40 + 0x18 * u) →
      t.toNat % 4 = 2 →
      exec (.aIaluOp m u 18 t) s = .next { s with
        dev := d.aLaunch m u [(0x40 + u, ((a.setWidth 32).signExtend 64).toNat)] 1 0 }) ∧
    (∀ (m u : Nat) (d : Dev) (a t : DWord), wellFormed (.aIaluOp m u 19 t) = true →
      s.dev.coreLive m = true →
      (s.dev.core m).ra = none →
      d = s.dev.coreClock m →
      d.aFree m u ≤ (d.core m).cyc →
      a.toNat = d.lat m (0x40 + 0x18 * u) →
      t.toNat % 4 = 2 →
      exec (.aIaluOp m u 19 t) s = .next { s with
        dev := d.aLaunch m u [(0x40 + u, ((a.setWidth 32).setWidth 64).toNat)] 1 0 }) ∧
    (∀ (m u : Nat) (d : Dev) (a t : DWord), wellFormed (.aIaluOp m u 18 t) = true →
      s.dev.coreLive m = true →
      (s.dev.core m).ra = none →
      d = s.dev.coreClock m →
      d.aFree m u ≤ (d.core m).cyc →
      a.toNat = d.lat m (0x40 + 0x18 * u) →
      t.toNat % 4 = 3 →
      exec (.aIaluOp m u 18 t) s = .next { s with
        dev := d.aLaunch m u [(0x40 + u, a.toNat)] 1 0 }) ∧
    (∀ (m u : Nat) (d : Dev) (a t : DWord), wellFormed (.aIaluOp m u 19 t) = true →
      s.dev.coreLive m = true →
      (s.dev.core m).ra = none →
      d = s.dev.coreClock m →
      d.aFree m u ≤ (d.core m).cyc →
      a.toNat = d.lat m (0x40 + 0x18 * u) →
      t.toNat % 4 = 3 →
      exec (.aIaluOp m u 19 t) s = .next { s with
        dev := d.aLaunch m u [(0x40 + u, a.toNat)] 1 0 }) ∧
    (∀ (m u : Nat) (d : Dev) (a t : DWord), wellFormed (.aIaluOp m u 20 t) = true →
      s.dev.coreLive m = true →
      (s.dev.core m).ra = none →
      d = s.dev.coreClock m →
      d.aFree m u ≤ (d.core m).cyc →
      a.toNat = d.lat m (0x40 + 0x18 * u) →
      exec (.aIaluOp m u 20 t) s = .next { s with
        dev := d.aLaunch m u [(0x40 + u, (clz64 a.toNat) % 2 ^ 64)] 1 0 }) ∧
    (∀ (m u : Nat) (d : Dev) (a t : DWord), wellFormed (.aIaluOp m u 21 t) = true →
      s.dev.coreLive m = true →
      (s.dev.core m).ra = none →
      d = s.dev.coreClock m →
      d.aFree m u ≤ (d.core m).cyc →
      a.toNat = d.lat m (0x40 + 0x18 * u) →
      exec (.aIaluOp m u 21 t) s = .next { s with
        dev := d.aLaunch m u [(0x40 + u, (popCount 64 a.toNat) % 2 ^ 64)] 1 0 }) ∧
    (∀ (m u : Nat) (d : Dev) (a t : DWord), wellFormed (.aIaluOp m u 22 t) = true →
      s.dev.coreLive m = true →
      (s.dev.core m).ra = none →
      d = s.dev.coreClock m →
      d.aFree m u ≤ (d.core m).cyc →
      a.toNat = d.lat m (0x40 + 0x18 * u) →
      exec (.aIaluOp m u 22 t) s = .next { s with
        dev := d.aLaunch m u [(0x40 + u, (leNat (leBytes 8 a.toNat).reverse) % 2 ^ 64)] 1 0 }) ∧
    (∀ (m : Nat) (d : Dev) (a t : DWord), wellFormed (.aMduMul m 0 t) = true →
      s.dev.coreLive m = true →
      (s.dev.core m).ra = none →
      d = s.dev.coreClock m →
      d.aFree m 2 ≤ (d.core m).cyc →
      a.toNat = d.lat m 0x70 →
      exec (.aMduMul m 0 t) s = .next { s with
        dev := d.aLaunch m 2 [(0x42, (a * t).toNat)] 3 0 }) ∧
    (∀ (m : Nat) (d : Dev) (a t : DWord), wellFormed (.aMduMul m 1 t) = true →
      s.dev.coreLive m = true →
      (s.dev.core m).ra = none →
      d = s.dev.coreClock m →
      d.aFree m 2 ≤ (d.core m).cyc →
      a.toNat = d.lat m 0x70 →
      exec (.aMduMul m 1 t) s = .next { s with
        dev := d.aLaunch m 2 [(0x42, ((a.signExtend 128 * t.signExtend 128).extractLsb' 64 64).toNat)] 3 0 }) ∧
    (∀ (m : Nat) (d : Dev) (a t : DWord), wellFormed (.aMduMul m 2 t) = true →
      s.dev.coreLive m = true →
      (s.dev.core m).ra = none →
      d = s.dev.coreClock m →
      d.aFree m 2 ≤ (d.core m).cyc →
      a.toNat = d.lat m 0x70 →
      exec (.aMduMul m 2 t) s = .next { s with
        dev := d.aLaunch m 2 [(0x42, ((a.setWidth 128 * t.setWidth 128).extractLsb' 64 64).toNat)] 3 0 }) ∧
    (∀ (m : Nat) (d : Dev) (a t : DWord), wellFormed (.aMduMul m 3 t) = true →
      s.dev.coreLive m = true →
      (s.dev.core m).ra = none →
      d = s.dev.coreClock m →
      d.aFree m 2 ≤ (d.core m).cyc →
      a.toNat = d.lat m 0x70 →
      exec (.aMduMul m 3 t) s = .next { s with
        dev := d.aLaunch m 2 [(0x42, (((a * t).setWidth 32).signExtend 64).toNat)] 3 0 }) ∧
    (∀ (m op : Nat) (d : Dev) (a : DWord), wellFormed (.aMduDiv m op 0) = true →
      s.dev.coreLive m = true →
      (s.dev.core m).ra = none →
      d = s.dev.coreClock m →
      d.aFree m 2 ≤ (d.core m).cyc →
      a.toNat = d.lat m 0x70 →
      exec (.aMduDiv m op 0) s = .next { s with
        dev := (d.aLaunch m 2 [(0x42, 2 ^ 64 - 1), (0x43, a.toNat)] 34 0).aBusy m 2 34 }) ∧
    (∀ (m : Nat) (d : Dev) (a t : DWord), wellFormed (.aMduDiv m 0 t) = true →
      s.dev.coreLive m = true →
      (s.dev.core m).ra = none →
      d = s.dev.coreClock m →
      d.aFree m 2 ≤ (d.core m).cyc →
      a.toNat = d.lat m 0x70 →
      t ≠ 0 →
      exec (.aMduDiv m 0 t) s = .next { s with
        dev := (d.aLaunch m 2 [(0x42, (a.sdiv t).toNat), (0x43, (a.srem t).toNat)] 34 0).aBusy m 2 34 }) ∧
    (∀ (m : Nat) (d : Dev) (a t : DWord), wellFormed (.aMduDiv m 1 t) = true →
      s.dev.coreLive m = true →
      (s.dev.core m).ra = none →
      d = s.dev.coreClock m →
      d.aFree m 2 ≤ (d.core m).cyc →
      a.toNat = d.lat m 0x70 →
      t ≠ 0 →
      exec (.aMduDiv m 1 t) s = .next { s with
        dev := (d.aLaunch m 2 [(0x42, (a / t).toNat), (0x43, (a % t).toNat)] 34 0).aBusy m 2 34 })

/-- R278 to R286: the binary64 unit and the load-store unit. -/
def Obligations.FloatAndLoadStoreOperations : Prop :=
  ∀ (s : State),
    (∀ (m op : Nat) (d : Dev) (t : DWord), wellFormed (.aFpuOp m 0 op t) = true →
      s.dev.coreLive m = true →
      (s.dev.core m).ra = none →
      d = s.dev.coreClock m →
      d.aFree m 3 ≤ (d.core m).cyc →
      op ≠ 6 →
      op ≠ 7 →
      exec (.aFpuOp m 0 op t) s = .next { s with
        dev := 
         (let r := aFpu op (d.srf m 3 1 0) (d.lat m 0x80) (d.lat m 0x81) (d.lat m 0x82)
         d.aLaunch m 3 [(0x44, r.bits)] (aFpuLat op) r.flags) }) ∧
    (∀ (m op : Nat) (d : Dev) (t : DWord), wellFormed (.aFpuOp m 0 op t) = true →
      s.dev.coreLive m = true →
      (s.dev.core m).ra = none →
      d = s.dev.coreClock m →
      d.aFree m 3 ≤ (d.core m).cyc →
      op = 6 ∨ op = 7 →
      exec (.aFpuOp m 0 op t) s = .next { s with
        dev := 
         (let r := aFpu op (d.srf m 3 1 0) (d.lat m 0x80) (d.lat m 0x81) (d.lat m 0x82)
         (d.aLaunch m 3 [(0x44, r.bits)] (aFpuLat op) r.flags).aBusy m 3 (aFpuLat op)) }) ∧
    (∀ (m : Nat) (d : Dev) (t : DWord), wellFormed (.aFpuDivSqrt m 0 0 t) = true →
      s.dev.coreLive m = true →
      (s.dev.core m).ra = none →
      d = s.dev.coreClock m →
      d.aFree m 3 ≤ (d.core m).cyc →
      exec (.aFpuDivSqrt m 0 0 t) s = .next { s with
        dev := 
         (let r := fDiv f64 (d.srf m 3 1 0) (d.lat m 0x80) (d.lat m 0x81)
         (d.aLaunch m 3 [(0x44, r.bits)] 20 r.flags).aBusy m 3 20) }) ∧
    (∀ (m : Nat) (d : Dev) (t : DWord), wellFormed (.aFpuDivSqrt m 0 1 t) = true →
      s.dev.coreLive m = true →
      (s.dev.core m).ra = none →
      d = s.dev.coreClock m →
      d.aFree m 3 ≤ (d.core m).cyc →
      exec (.aFpuDivSqrt m 0 1 t) s = .next { s with
        dev := 
         (let r := fSqrt f64 (d.srf m 3 1 0) (d.lat m 0x80)
         (d.aLaunch m 3 [(0x44, r.bits)] 26 r.flags).aBusy m 3 26) }) ∧
    (∀ (m op : Nat) (c d e : Dev) (t : DWord) (p : LoadPlan), wellFormed (.aLoad m 0 op t) = true →
      s.dev.coreLive m = true →
      (s.dev.core m).ra = none →
      c = s.dev.coreSync m →
      (c.core m).fenceWait = none →
      d = c.passFence m →
      d.trigStall m (0xA3 + op) t.toNat = none →
      d.lsuWaits m 0 (0xA3 + op) (d.lat m 0xA0) t.toNat = false →
      (d.noMiss m).lsuCheck m (d.trigPc m (0xA3 + op)) 0 (0xA3 + op) (d.lat m 0xA0) (d.lat m 0xA1) (d.lat m 0xA2) t.toNat = (e, .ok (.load p)) →
      exec (.aLoad m 0 op t) s = .next { s with
        dev := (((e.notAlone m).loadGo m (0xA3 + op) p).setPc m (((d.trigPc m (0xA3 + op)) + 16) % 2 ^ 64)).noProg m }) ∧
    (∀ (m op : Nat) (c d e : Dev) (t : DWord) (x : Exc), wellFormed (.aLoad m 0 op t) = true →
      s.dev.coreLive m = true →
      (s.dev.core m).ra = none →
      c = s.dev.coreSync m →
      (c.core m).fenceWait = none →
      d = c.passFence m →
      d.trigStall m (0xA3 + op) t.toNat = none →
      d.lsuWaits m 0 (0xA3 + op) (d.lat m 0xA0) t.toNat = false →
      (d.noMiss m).lsuCheck m (d.trigPc m (0xA3 + op)) 0 (0xA3 + op) (d.lat m 0xA0) (d.lat m 0xA1) (d.lat m 0xA2) t.toNat = (e, .error x) →
      exec (.aLoad m 0 op t) s = .next { s with
        dev := (e.setPc m (d.trigPc m (0xA3 + op))).raiseExc m x }) ∧
    (∀ (m op : Nat) (c d e : Dev) (t : DWord) (p : Place), wellFormed (.aStore m 0 op t) = true →
      s.dev.coreLive m = true →
      (s.dev.core m).ra = none →
      c = s.dev.coreSync m →
      (c.core m).fenceWait = none →
      d = c.passFence m →
      d.trigStall m (0xAA + op) t.toNat = none →
      d.lsuWaits m 0 (0xAA + op) (d.lat m 0xA0) t.toNat = false →
      (d.noMiss m).lsuCheck m (d.trigPc m (0xAA + op)) 0 (0xAA + op) (d.lat m 0xA0) (d.lat m 0xA1) (d.lat m 0xA2) t.toNat = (e, .ok (.at p)) →
      exec (.aStore m 0 op t) s = .next { s with
        dev := ((((e.prefetchAt m 1 (oldCode (((d.trigPc m (0xAA + op)) + 16) % 2 ^ 64))).notAlone m).storeGo m p (d.lat m 0xA1)).setPc m (((d.trigPc m (0xAA + op)) + 16) % 2 ^ 64)).noProg m }) ∧
    (∀ (m op : Nat) (c d e : Dev) (t : DWord) (x : Exc), wellFormed (.aStore m 0 op t) = true →
      s.dev.coreLive m = true →
      (s.dev.core m).ra = none →
      c = s.dev.coreSync m →
      (c.core m).fenceWait = none →
      d = c.passFence m →
      d.trigStall m (0xAA + op) t.toNat = none →
      d.lsuWaits m 0 (0xAA + op) (d.lat m 0xA0) t.toNat = false →
      (d.noMiss m).lsuCheck m (d.trigPc m (0xAA + op)) 0 (0xAA + op) (d.lat m 0xA0) (d.lat m 0xA1) (d.lat m 0xA2) t.toNat = (e, .error x) →
      exec (.aStore m 0 op t) s = .next { s with
        dev := (e.setPc m (d.trigPc m (0xAA + op))).raiseExc m x }) ∧
    (∀ (m : Nat) (c d e : Dev) (t : DWord) (p : Place), wellFormed (.aStnt m t) = true →
      s.dev.coreLive m = true →
      (s.dev.core m).ra = none →
      c = s.dev.coreSync m →
      (c.core m).fenceWait = none →
      d = c.passFence m →
      d.trigStall m 0xAE t.toNat = none →
      d.lsuWaits m 0 0xAE (d.lat m 0xA0) t.toNat = false →
      (d.noMiss m).lsuCheck m (d.trigPc m 0xAE) 0 0xAE (d.lat m 0xA0) (d.lat m 0xA1) (d.lat m 0xA2) t.toNat = (e, .ok (.at p)) →
      exec (.aStnt m t) s = .next { s with
        dev := ((((e.prefetchAt m 1 (oldCode (((d.trigPc m 0xAE) + 16) % 2 ^ 64))).notAlone m).stntGo m p (d.lat m 0xA1)).setPc m (((d.trigPc m 0xAE) + 16) % 2 ^ 64)).noProg m }) ∧
    (∀ (m : Nat) (c d e : Dev) (t : DWord) (p : LoadPlan), wellFormed (.aLdx m t) = true →
      s.dev.coreLive m = true →
      (s.dev.core m).ra = none →
      c = s.dev.coreSync m →
      (c.core m).fenceWait = none →
      d = c.passFence m →
      d.trigStall m 0xAF t.toNat = none →
      d.lsuWaits m 0 0xAF (d.lat m 0xA0) t.toNat = false →
      (d.noMiss m).lsuCheck m (d.trigPc m 0xAF) 0 0xAF (d.lat m 0xA0) (d.lat m 0xA1) (d.lat m 0xA2) t.toNat = (e, .ok (.load p)) →
      exec (.aLdx m t) s = .next { s with
        dev := (((e.notAlone m).ldxGo m p).setPc m (((d.trigPc m 0xAF) + 16) % 2 ^ 64)).noProg m }) ∧
    (∀ (m : Nat) (c d e : Dev) (t : DWord) (p : Place), wellFormed (.aStx m t) = true →
      s.dev.coreLive m = true →
      (s.dev.core m).ra = none →
      c = s.dev.coreSync m →
      (c.core m).fenceWait = none →
      d = c.passFence m →
      d.trigStall m 0xB0 t.toNat = none →
      d.lsuWaits m 0 0xB0 (d.lat m 0xA0) t.toNat = false →
      (d.noMiss m).lsuCheck m (d.trigPc m 0xB0) 0 0xB0 (d.lat m 0xA0) (d.lat m 0xA1) (d.lat m 0xA2) t.toNat = (e, .ok (.at p)) →
      exec (.aStx m t) s = .next { s with
        dev := ((((e.prefetchAt m 1 (oldCode (((d.trigPc m 0xB0) + 16) % 2 ^ 64))).notAlone m).stxGo m p (d.lat m 0xA1)).setPc m (((d.trigPc m 0xB0) + 16) % 2 ^ 64)).noProg m }) ∧
    (∀ (m op : Nat) (c d e : Dev) (t : DWord) (p : LoadPlan), wellFormed (.aAtomic m op t) = true →
      s.dev.coreLive m = true →
      (s.dev.core m).ra = none →
      c = s.dev.coreSync m →
      (c.core m).fenceWait = none →
      d = c.passFence m →
      d.trigStall m (0xB1 + op) t.toNat = none →
      d.lsuWaits m 0 (0xB1 + op) (d.lat m 0xA0) t.toNat = false →
      (d.noMiss m).lsuCheck m (d.trigPc m (0xB1 + op)) 0 (0xB1 + op) (d.lat m 0xA0) (d.lat m 0xA1) (d.lat m 0xA2) t.toNat = (e, .ok (.load p)) →
      exec (.aAtomic m op t) s = .next { s with
        dev := ((((e.prefetchAt m 1 (oldCode (((d.trigPc m (0xB1 + op)) + 16) % 2 ^ 64))).notAlone m).atomicGo m op p (d.lat m 0xA1) (d.lat m 0xA2)).setPc m (((d.trigPc m (0xB1 + op)) + 16) % 2 ^ 64)).noProg m }) ∧
    (∀ (m : Nat) (c d e : Dev) (t : DWord) (f : Dev) (x : MultiXfer), wellFormed (.aLdm m t) = true →
      s.dev.coreLive m = true →
      (s.dev.core m).ra = none →
      c = s.dev.coreSync m →
      (c.core m).fenceWait = none →
      d = c.passFence m →
      d.trigStall m 0xB9 t.toNat = none →
      d.lsuWaits m 0 0xB9 (d.lat m 0xA0) t.toNat = false →
      (d.noMiss m).lsuCheck m (d.trigPc m 0xB9) 0 0xB9 (d.lat m 0xA0) (d.lat m 0xA1) (d.lat m 0xA2) t.toNat = (e, .ok (.multi x)) →
      (e.notAlone m).multiGo m (d.trigPc m 0xB9) 0 x (((e.notAlone m).core m).resumes (d.trigPc m 0xB9)) = (f, none) →
      exec (.aLdm m t) s = .next { s with
        dev := ((f).setPc m (((d.trigPc m 0xB9) + 16) % 2 ^ 64)).noProg m }) ∧
    (∀ (m : Nat) (c d e : Dev) (t : DWord) (f : Dev) (x : MultiXfer), wellFormed (.aStm m t) = true →
      s.dev.coreLive m = true →
      (s.dev.core m).ra = none →
      c = s.dev.coreSync m →
      (c.core m).fenceWait = none →
      d = c.passFence m →
      d.trigStall m 0xBA t.toNat = none →
      d.lsuWaits m 0 0xBA (d.lat m 0xA0) t.toNat = false →
      (d.noMiss m).lsuCheck m (d.trigPc m 0xBA) 0 0xBA (d.lat m 0xA0) (d.lat m 0xA1) (d.lat m 0xA2) t.toNat = (e, .ok (.multi x)) →
      ((e.prefetchAt m 1 (oldCode (((d.trigPc m 0xBA) + 16) % 2 ^ 64))).notAlone m).multiGo m (d.trigPc m 0xBA) 0 x ((((e.prefetchAt m 1 (oldCode (((d.trigPc m 0xBA) + 16) % 2 ^ 64))).notAlone m).core m).resumes (d.trigPc m 0xBA)) = (f, none) →
      exec (.aStm m t) s = .next { s with
        dev := ((f).setPc m (((d.trigPc m 0xBA) + 16) % 2 ^ 64)).noProg m }) ∧
    (∀ (m : Nat) (c d : Dev) (t : DWord), wellFormed (.aFenceL m t) = true →
      s.dev.coreLive m = true →
      (s.dev.core m).ra = none →
      c = s.dev.coreSync m →
      (c.core m).fenceWait = none →
      d = c.passFence m →
      d.trigStall m 0xBB t.toNat = none →
      exec (.aFenceL m t) s = .next { s with
        dev := ((((d.noMiss m).notAlone m).fenceL m).setPc m (((d.trigPc m 0xBB) + 16) % 2 ^ 64)).noProg m }) ∧
    (∀ (m : Nat) (c d : Dev) (t : DWord), wellFormed (.aFenceS m t) = true →
      s.dev.coreLive m = true →
      (s.dev.core m).ra = none →
      c = s.dev.coreSync m →
      (c.core m).fenceWait = none →
      d = c.passFence m →
      d.trigStall m 0xBC t.toNat = none →
      exec (.aFenceS m t) s = .next { s with
        dev := ((((d.noMiss m).notAlone m).fenceS m).setPc m (((d.trigPc m 0xBC) + 16) % 2 ^ 64)).noProg m }) ∧
    (∀ (m : Nat) (c d : Dev) (t : DWord), wellFormed (.aFenceLs m t) = true →
      s.dev.coreLive m = true →
      (s.dev.core m).ra = none →
      c = s.dev.coreSync m →
      (c.core m).fenceWait = none →
      d = c.passFence m →
      d.trigStall m 0xBD t.toNat = none →
      exec (.aFenceLs m t) s = .next { s with
        dev := ((((d.noMiss m).notAlone m).fenceLS m).setPc m (((d.trigPc m 0xBD) + 16) % 2 ^ 64)).noProg m }) ∧
    (∀ (m : Nat) (c d : Dev) (t : DWord), wellFormed (.aIfence m t) = true →
      s.dev.coreLive m = true →
      (s.dev.core m).ra = none →
      c = s.dev.coreSync m →
      (c.core m).fenceWait = none →
      d = c.passFence m →
      d.trigStall m 0xBE t.toNat = none →
      exec (.aIfence m t) s = .next { s with
        dev := ((((d.noMiss m).notAlone m).iFence m).setPc m (((d.trigPc m 0xBE) + 16) % 2 ^ 64)).noProg m }) ∧
    (∀ (m : Nat) (c d : Dev) (t : DWord), wellFormed (.aPref m t) = true →
      s.dev.coreLive m = true →
      (s.dev.core m).ra = none →
      c = s.dev.coreSync m →
      (c.core m).fenceWait = none →
      d = c.passFence m →
      d.trigStall m 0xC3 t.toNat = none →
      exec (.aPref m t) s = .next { s with
        dev := ((((d.noMiss m).notAlone m).prefGo m (d.lat m 0xA0 + t.toNat)).setPc m (((d.trigPc m 0xC3) + 16) % 2 ^ 64)).noProg m }) ∧
    (∀ (m : Nat) (c d e : Dev) (t : DWord) (p : Place), wellFormed (.aDccln m t) = true →
      s.dev.coreLive m = true →
      (s.dev.core m).ra = none →
      c = s.dev.coreSync m →
      (c.core m).fenceWait = none →
      d = c.passFence m →
      d.trigStall m 0xBF t.toNat = none →
      d.lsuWaits m 0 0xBF (d.lat m 0xA0) t.toNat = false →
      (d.noMiss m).lsuCheck m (d.trigPc m 0xBF) 0 0xBF (d.lat m 0xA0) (d.lat m 0xA1) (d.lat m 0xA2) t.toNat = (e, .ok (.at p)) →
      exec (.aDccln m t) s = .next { s with
        dev := (((e.notAlone m).maintGo m 0xBF p).setPc m (((d.trigPc m 0xBF) + 16) % 2 ^ 64)).noProg m }) ∧
    (∀ (m : Nat) (c d e : Dev) (t : DWord) (p : Place), wellFormed (.aDcinv m t) = true →
      s.dev.coreLive m = true →
      (s.dev.core m).ra = none →
      c = s.dev.coreSync m →
      (c.core m).fenceWait = none →
      d = c.passFence m →
      d.trigStall m 0xC0 t.toNat = none →
      d.lsuWaits m 0 0xC0 (d.lat m 0xA0) t.toNat = false →
      (d.noMiss m).lsuCheck m (d.trigPc m 0xC0) 0 0xC0 (d.lat m 0xA0) (d.lat m 0xA1) (d.lat m 0xA2) t.toNat = (e, .ok (.at p)) →
      exec (.aDcinv m t) s = .next { s with
        dev := (((e.notAlone m).maintGo m 0xC0 p).setPc m (((d.trigPc m 0xC0) + 16) % 2 ^ 64)).noProg m }) ∧
    (∀ (m : Nat) (c d e : Dev) (t : DWord) (p : Place), wellFormed (.aDcci m t) = true →
      s.dev.coreLive m = true →
      (s.dev.core m).ra = none →
      c = s.dev.coreSync m →
      (c.core m).fenceWait = none →
      d = c.passFence m →
      d.trigStall m 0xC1 t.toNat = none →
      d.lsuWaits m 0 0xC1 (d.lat m 0xA0) t.toNat = false →
      (d.noMiss m).lsuCheck m (d.trigPc m 0xC1) 0 0xC1 (d.lat m 0xA0) (d.lat m 0xA1) (d.lat m 0xA2) t.toNat = (e, .ok (.at p)) →
      exec (.aDcci m t) s = .next { s with
        dev := (((e.notAlone m).maintGo m 0xC1 p).setPc m (((d.trigPc m 0xC1) + 16) % 2 ^ 64)).noProg m }) ∧
    (∀ (m : Nat) (c d e : Dev) (t : DWord) (p : Place), wellFormed (.aIcinv m t) = true →
      s.dev.coreLive m = true →
      (s.dev.core m).ra = none →
      c = s.dev.coreSync m →
      (c.core m).fenceWait = none →
      d = c.passFence m →
      d.trigStall m 0xC2 t.toNat = none →
      d.lsuWaits m 0 0xC2 (d.lat m 0xA0) t.toNat = false →
      (d.noMiss m).lsuCheck m (d.trigPc m 0xC2) 0 0xC2 (d.lat m 0xA0) (d.lat m 0xA1) (d.lat m 0xA2) t.toNat = (e, .ok (.at p)) →
      exec (.aIcinv m t) s = .next { s with
        dev := (((e.notAlone m).maintGo m 0xC2 p).setPc m (((d.trigPc m 0xC2) + 16) % 2 ^ 64)).noProg m })

/-- R288, R295, R311, R339: control and system operations. -/
def Obligations.ControlAndSystemOperations : Prop :=
  ∀ (s : State),
    (∀ (m : Nat) (c d e : Dev) (t : DWord), wellFormed (.aJmp m t) = true →
      s.dev.coreLive m = true →
      (s.dev.core m).ra = none →
      c = s.dev.coreSync m →
      (c.core m).fenceWait = none →
      d = c.passFence m →
      d.trigStall m 0xD1 t.toNat = none →
      (d.core m).xfer = none →
      d.ctlCheck m 0 0xD1 t.toNat = (e, []) →
      exec (.aJmp m t) s = .next { s with
        dev := ((e.passBy m).onCore m (fun c => { c with
            xfer := some
              { target := t.toNat, left := 2, taken := true, squash := false, kind := 0
                link := ((d.trigPc m 0xD1) + 48) % 2 ^ 64, data := 0, issued := c.cyc } })).settleFrames m }) ∧
    (∀ (m : Nat) (c d e : Dev) (t : DWord), wellFormed (.aCall m t) = true →
      s.dev.coreLive m = true →
      (s.dev.core m).ra = none →
      c = s.dev.coreSync m →
      (c.core m).fenceWait = none →
      d = c.passFence m →
      d.trigStall m 0xD2 t.toNat = none →
      (d.core m).xfer = none →
      d.ctlCheck m 0 0xD2 t.toNat = (e, []) →
      exec (.aCall m t) s = .next { s with
        dev := ((e.passBy m).onCore m (fun c => { c with
            xfer := some
              { target := t.toNat, left := 2, taken := true, squash := false, kind := 1
                link := ((d.trigPc m 0xD2) + 48) % 2 ^ 64, data := 0, issued := c.cyc } })).settleFrames m }) ∧
    (∀ (m : Nat) (c d e : Dev) (t : DWord) (f : Frame) (l : List Frame), wellFormed (.aRet m t) = true →
      s.dev.coreLive m = true →
      (s.dev.core m).ra = none →
      c = s.dev.coreSync m →
      (c.core m).fenceWait = none →
      d = c.passFence m →
      d.trigStall m 0xD3 t.toNat = none →
      (d.core m).xfer = none →
      d.ctlCheck m 0 0xD3 t.toNat = (e, []) →
      (e.core m).frames = f :: l →
      exec (.aRet m t) s = .next { s with
        dev := ((e.passBy m).onCore m (fun c => { c with
            xfer := some
              { target := f.link.toNat, left := 2, taken := true, squash := false, kind := 2
                link := ((d.trigPc m 0xD3) + 48) % 2 ^ 64, data := 0, issued := c.cyc } })).settleFrames m }) ∧
    (∀ (m : Nat) (c d e : Dev) (t : DWord), wellFormed (.aBranch m 0 t) = true →
      s.dev.coreLive m = true →
      (s.dev.core m).ra = none →
      c = s.dev.coreSync m →
      (c.core m).fenceWait = none →
      d = c.passFence m →
      d.trigStall m 0xD4 t.toNat = none →
      (d.core m).xfer = none →
      d.ctlCheck m 0 0xD4 t.toNat = (e, []) →
      exec (.aBranch m 0 t) s = .next { s with
        dev := ((e.passBy m).onCore m (fun c => { c with
            xfer := some
              { target := t.toNat, left := 2, taken := decide ((e.passBy m).lat m 0xD0 = 0), squash := false, kind := 0
                link := ((d.trigPc m 0xD4) + 48) % 2 ^ 64, data := 0, issued := c.cyc } })).settleFrames m }) ∧
    (∀ (m : Nat) (c d e : Dev) (t : DWord), wellFormed (.aBranch m 1 t) = true →
      s.dev.coreLive m = true →
      (s.dev.core m).ra = none →
      c = s.dev.coreSync m →
      (c.core m).fenceWait = none →
      d = c.passFence m →
      d.trigStall m 0xD5 t.toNat = none →
      (d.core m).xfer = none →
      d.ctlCheck m 0 0xD5 t.toNat = (e, []) →
      exec (.aBranch m 1 t) s = .next { s with
        dev := ((e.passBy m).onCore m (fun c => { c with
            xfer := some
              { target := t.toNat, left := 2, taken := decide ((e.passBy m).lat m 0xD0 = 0), squash := !decide ((e.passBy m).lat m 0xD0 = 0), kind := 0
                link := ((d.trigPc m 0xD5) + 48) % 2 ^ 64, data := 0, issued := c.cyc } })).settleFrames m }) ∧
    (∀ (m : Nat) (c d e : Dev) (t : DWord), wellFormed (.aBranch m 2 t) = true →
      s.dev.coreLive m = true →
      (s.dev.core m).ra = none →
      c = s.dev.coreSync m →
      (c.core m).fenceWait = none →
      d = c.passFence m →
      d.trigStall m 0xD6 t.toNat = none →
      (d.core m).xfer = none →
      d.ctlCheck m 0 0xD6 t.toNat = (e, []) →
      exec (.aBranch m 2 t) s = .next { s with
        dev := ((e.passBy m).onCore m (fun c => { c with
            xfer := some
              { target := t.toNat, left := 2, taken := decide ((e.passBy m).lat m 0xD0 ≠ 0), squash := false, kind := 0
                link := ((d.trigPc m 0xD6) + 48) % 2 ^ 64, data := 0, issued := c.cyc } })).settleFrames m }) ∧
    (∀ (m : Nat) (c d e : Dev) (t : DWord), wellFormed (.aBranch m 3 t) = true →
      s.dev.coreLive m = true →
      (s.dev.core m).ra = none →
      c = s.dev.coreSync m →
      (c.core m).fenceWait = none →
      d = c.passFence m →
      d.trigStall m 0xD7 t.toNat = none →
      (d.core m).xfer = none →
      d.ctlCheck m 0 0xD7 t.toNat = (e, []) →
      exec (.aBranch m 3 t) s = .next { s with
        dev := ((e.passBy m).onCore m (fun c => { c with
            xfer := some
              { target := t.toNat, left := 2, taken := decide ((e.passBy m).lat m 0xD0 ≠ 0), squash := !decide ((e.passBy m).lat m 0xD0 ≠ 0), kind := 0
                link := ((d.trigPc m 0xD7) + 48) % 2 ^ 64, data := 0, issued := c.cyc } })).settleFrames m }) ∧
    (∀ (m : Nat) (c d e : Dev) (t : DWord), wellFormed (.aSyscall m t) = true →
      s.dev.coreLive m = true →
      (s.dev.core m).ra = none →
      c = s.dev.coreSync m →
      (c.core m).fenceWait = none →
      d = c.passFence m →
      d.trigStall m 0xD8 t.toNat = none →
      (d.core m).xfer = none →
      d.ctlCheck m 0 0xD8 t.toNat = (e, []) →
      exec (.aSyscall m t) s = .next { s with
        dev := ((e.passBy m).onCore m (fun c => { c with
            xfer := some
              { target := t.toNat, left := 2, taken := true, squash := false, kind := 3
                link := ((d.trigPc m 0xD8) + 48) % 2 ^ 64, data := t.toNat % 65536, issued := c.cyc } })).settleFrames m }) ∧
    (∀ (m : Nat) (c d e : Dev) (t : DWord), wellFormed (.aSysret m t) = true →
      s.dev.coreLive m = true →
      (s.dev.core m).ra = none →
      c = s.dev.coreSync m →
      (c.core m).fenceWait = none →
      d = c.passFence m →
      d.trigStall m 0xD9 t.toNat = none →
      (d.core m).xfer = none →
      d.ctlCheck m 0 0xD9 t.toNat = (e, []) →
      exec (.aSysret m t) s = .next { s with
        dev := ((e.passBy m).onCore m (fun c => { c with
            xfer := some
              { target := 0, left := 2, taken := true, squash := false, kind := 4
                link := ((d.trigPc m 0xD9) + 48) % 2 ^ 64, data := 0, issued := c.cyc } })).settleFrames m }) ∧
    (∀ (m : Nat) (c d e : Dev) (t : DWord), wellFormed (.aEret m t) = true →
      s.dev.coreLive m = true →
      (s.dev.core m).ra = none →
      c = s.dev.coreSync m →
      (c.core m).fenceWait = none →
      d = c.passFence m →
      d.trigStall m 0xDA t.toNat = none →
      (d.core m).xfer = none →
      d.ctlCheck m 0 0xDA t.toNat = (e, []) →
      exec (.aEret m t) s = .next { s with
        dev := (((e.passBy m).setSt m 4 true).onCore m (fun c => { c with
            xfer := some
              { target := 0, left := 2, taken := true, squash := false, kind := 5
                link := ((d.trigPc m 0xDA) + 48) % 2 ^ 64, data := 0, issued := c.cyc } })).settleFrames m }) ∧
    (∀ (m : Nat) (c d e : Dev) (t : DWord) (l : List Exc) (x : Exc), wellFormed (.aJmp m t) = true →
      s.dev.coreLive m = true →
      (s.dev.core m).ra = none →
      c = s.dev.coreSync m →
      (c.core m).fenceWait = none →
      d = c.passFence m →
      d.trigStall m 0xD1 t.toNat = none →
      (d.core m).xfer = none →
      d.ctlCheck m 0 0xD1 t.toNat = (e, l) →
      Exc.first l = some x →
      exec (.aJmp m t) s = .next { s with
        dev := (e.setPc m (d.trigPc m 0xD1)).raiseExc m x }) ∧
    (∀ (m : Nat) (c d e : Dev) (t : DWord) (l : List Exc) (x : Exc), wellFormed (.aCall m t) = true →
      s.dev.coreLive m = true →
      (s.dev.core m).ra = none →
      c = s.dev.coreSync m →
      (c.core m).fenceWait = none →
      d = c.passFence m →
      d.trigStall m 0xD2 t.toNat = none →
      (d.core m).xfer = none →
      d.ctlCheck m 0 0xD2 t.toNat = (e, l) →
      Exc.first l = some x →
      exec (.aCall m t) s = .next { s with
        dev := (e.setPc m (d.trigPc m 0xD2)).raiseExc m x }) ∧
    (∀ (m : Nat) (c d e : Dev) (t : DWord) (l : List Exc) (x : Exc), wellFormed (.aRet m t) = true →
      s.dev.coreLive m = true →
      (s.dev.core m).ra = none →
      c = s.dev.coreSync m →
      (c.core m).fenceWait = none →
      d = c.passFence m →
      d.trigStall m 0xD3 t.toNat = none →
      (d.core m).xfer = none →
      d.ctlCheck m 0 0xD3 t.toNat = (e, l) →
      Exc.first l = some x →
      exec (.aRet m t) s = .next { s with
        dev := (e.setPc m (d.trigPc m 0xD3)).raiseExc m x }) ∧
    (∀ (m : Nat) (c d e : Dev) (t : DWord) (l : List Exc) (x : Exc), wellFormed (.aSyscall m t) = true →
      s.dev.coreLive m = true →
      (s.dev.core m).ra = none →
      c = s.dev.coreSync m →
      (c.core m).fenceWait = none →
      d = c.passFence m →
      d.trigStall m 0xD8 t.toNat = none →
      (d.core m).xfer = none →
      d.ctlCheck m 0 0xD8 t.toNat = (e, l) →
      Exc.first l = some x →
      exec (.aSyscall m t) s = .next { s with
        dev := (e.setPc m (d.trigPc m 0xD8)).raiseExc m x }) ∧
    (∀ (m : Nat) (c d e : Dev) (t : DWord) (l : List Exc) (x : Exc), wellFormed (.aSysret m t) = true →
      s.dev.coreLive m = true →
      (s.dev.core m).ra = none →
      c = s.dev.coreSync m →
      (c.core m).fenceWait = none →
      d = c.passFence m →
      d.trigStall m 0xD9 t.toNat = none →
      (d.core m).xfer = none →
      d.ctlCheck m 0 0xD9 t.toNat = (e, l) →
      Exc.first l = some x →
      exec (.aSysret m t) s = .next { s with
        dev := (e.setPc m (d.trigPc m 0xD9)).raiseExc m x }) ∧
    (∀ (m : Nat) (c d e : Dev) (t : DWord) (l : List Exc) (x : Exc), wellFormed (.aEret m t) = true →
      s.dev.coreLive m = true →
      (s.dev.core m).ra = none →
      c = s.dev.coreSync m →
      (c.core m).fenceWait = none →
      d = c.passFence m →
      d.trigStall m 0xDA t.toNat = none →
      (d.core m).xfer = none →
      d.ctlCheck m 0 0xDA t.toNat = (e, l) →
      Exc.first l = some x →
      exec (.aEret m t) s = .next { s with
        dev := (e.setPc m (d.trigPc m 0xDA)).raiseExc m x }) ∧
    (∀ (m : Nat) (c d e : Dev) (t : DWord), wellFormed (.aSruRd m t) = true →
      s.dev.coreLive m = true →
      (s.dev.core m).ra = none →
      c = s.dev.coreSync m →
      (c.core m).fenceWait = none →
      d = c.passFence m →
      d.trigStall m 0xE1 t.toNat = none →
      d.sruCheck m 0 0xE1 t.toNat = [] →
      e = d.passBy m →
      exec (.aSruRd m t) s = .next { s with
        dev := (e.aLaunch m 6 [(0x48, e.srRead m (t.toNat % 4096))] 2 0).settleFrames m }) ∧
    (∀ (m : Nat) (c d e : Dev) (t : DWord), wellFormed (.aSruWr m t) = true →
      s.dev.coreLive m = true →
      (s.dev.core m).ra = none →
      c = s.dev.coreSync m →
      (c.core m).fenceWait = none →
      d = c.passFence m →
      d.trigStall m 0xE2 t.toNat = none →
      d.sruCheck m 0 0xE2 t.toNat = [] →
      e = d.passBy m →
      exec (.aSruWr m t) s = .next { s with
        dev := (e.sruWriteGo m (t.toNat % 4096) (e.lat m 0xE0)).settleFrames m }) ∧
    (∀ (m : Nat) (c d e : Dev) (t : DWord), wellFormed (.aSruSet m t) = true →
      s.dev.coreLive m = true →
      (s.dev.core m).ra = none →
      c = s.dev.coreSync m →
      (c.core m).fenceWait = none →
      d = c.passFence m →
      d.trigStall m 0xE3 t.toNat = none →
      d.sruCheck m 0 0xE3 t.toNat = [] →
      e = d.passBy m →
      exec (.aSruSet m t) s = .next { s with
        dev := (e.sruWriteGo m (t.toNat % 4096) (Nat.lor (e.srRead m (t.toNat % 4096)) (e.lat m 0xE0))).settleFrames m }) ∧
    (∀ (m : Nat) (c d e : Dev) (t : DWord), wellFormed (.aSruClr m t) = true →
      s.dev.coreLive m = true →
      (s.dev.core m).ra = none →
      c = s.dev.coreSync m →
      (c.core m).fenceWait = none →
      d = c.passFence m →
      d.trigStall m 0xE4 t.toNat = none →
      d.sruCheck m 0 0xE4 t.toNat = [] →
      e = d.passBy m →
      exec (.aSruClr m t) s = .next { s with
        dev := (e.sruWriteGo m (t.toNat % 4096) (Nat.land (e.srRead m (t.toNat % 4096)) (2 ^ 64 - 1 - e.lat m 0xE0))).settleFrames m }) ∧
    (∀ (m : Nat) (c d : Dev) (t : DWord) (x : Exc), wellFormed (.aSruWr m t) = true →
      s.dev.coreLive m = true →
      (s.dev.core m).ra = none →
      c = s.dev.coreSync m →
      (c.core m).fenceWait = none →
      d = c.passFence m →
      d.trigStall m 0xE2 t.toNat = none →
      Exc.first (d.sruCheck m 0 0xE2 t.toNat) = some x →
      exec (.aSruWr m t) s = .next { s with
        dev := (d.setPc m (d.trigPc m 0xE2)).raiseExc m x }) ∧
    (∀ (m : Nat) (c d e : Dev) (t : DWord), wellFormed (.aFlushw m t) = true →
      s.dev.coreLive m = true →
      (s.dev.core m).ra = none →
      c = s.dev.coreSync m →
      (c.core m).fenceWait = none →
      d = c.passFence m →
      d.trigStall m 0xE5 t.toNat = none →
      d.flushCheck m 0 = (e, none) →
      exec (.aFlushw m t) s = .next { s with
        dev := (((e.passBy m).onCore m (fun c => { c with flush := true })).startFrames m).settleFrames m }) ∧
    (∀ (m : Nat) (c d e : Dev) (t : DWord), wellFormed (.aSleep m t) = true →
      s.dev.coreLive m = true →
      (s.dev.core m).ra = none →
      c = s.dev.coreSync m →
      (c.core m).fenceWait = none →
      d = c.passFence m →
      d.trigStall m 0xE6 t.toNat = none →
      d.sruCheck m 0 0xE6 t.toNat = [] →
      e = d.passBy m →
      exec (.aSleep m t) s = .next { s with
        dev := (e.sleepGo m).settleFrames m }) ∧
    (∀ (m : Nat) (c d e : Dev) (t : DWord), wellFormed (.aTlbiva m t) = true →
      s.dev.coreLive m = true →
      (s.dev.core m).ra = none →
      c = s.dev.coreSync m →
      (c.core m).fenceWait = none →
      d = c.passFence m →
      d.trigStall m 0xE7 t.toNat = none →
      d.sruCheck m 0 0xE7 t.toNat = [] →
      e = d.passBy m →
      exec (.aTlbiva m t) s = .next { s with
        dev := (e.tlbDrop m (fun x => x.at (t.toNat % 2 ^ 48) && (x.glob || decide (x.asid = e.lat m 0xE0 % 4096)))).settleFrames m }) ∧
    (∀ (m : Nat) (c d e : Dev) (t : DWord), wellFormed (.aTlbiasid m t) = true →
      s.dev.coreLive m = true →
      (s.dev.core m).ra = none →
      c = s.dev.coreSync m →
      (c.core m).fenceWait = none →
      d = c.passFence m →
      d.trigStall m 0xE8 t.toNat = none →
      d.sruCheck m 0 0xE8 t.toNat = [] →
      e = d.passBy m →
      exec (.aTlbiasid m t) s = .next { s with
        dev := (e.tlbDrop m (fun x => !x.glob && decide (x.asid = t.toNat % 4096))).settleFrames m }) ∧
    (∀ (m : Nat) (c d e : Dev) (t : DWord), wellFormed (.aTlbiall m t) = true →
      s.dev.coreLive m = true →
      (s.dev.core m).ra = none →
      c = s.dev.coreSync m →
      (c.core m).fenceWait = none →
      d = c.passFence m →
      d.trigStall m 0xE9 t.toNat = none →
      d.sruCheck m 0 0xE9 t.toNat = [] →
      e = d.passBy m →
      exec (.aTlbiall m t) s = .next { s with
        dev := (e.tlbDrop m (fun _ => true)).settleFrames m })

/-- R176, R314, R317, R324: a core at a boundary; the other events of cores. -/
def Obligations.CoreEventsAct : Prop :=
  ∀ (s : State),
    (∀ (m : Nat) (d e : Dev), wellFormed (.aBundle m) = true →
      s.dev.coreLive m = true →
      d = s.dev.coreSync m →
      (d.core m).ra = none →
      (∀ x, (d.core m).xfer = some x → x.left ≠ 0) →
      (d.core m).fenceWait = none →
      e = d.passFence m →
      e.trcStalls m = false →
      (d.core m).xfer.any (fun x => x.squash) = false →
      e.debugFirst m = none →
      (e.mayQuick m && (e.icLine m true).isSome) = true →
      exec (.aBundle m) s = .next { s with
        dev := e.enterQ m (exc cQuick 0 0) }) ∧
    (∀ (m : Nat) (d e : Dev), wellFormed (.aBundle m) = true →
      s.dev.coreLive m = true →
      d = s.dev.coreSync m →
      (d.core m).ra = none →
      (∀ x, (d.core m).xfer = some x → x.left ≠ 0) →
      (d.core m).fenceWait = none →
      e = d.passFence m →
      e.trcStalls m = false →
      (d.core m).xfer.any (fun x => x.squash) = false →
      e.debugFirst m = none →
      (e.mayQuick m && (e.icLine m true).isSome) = false →
      (e.mayInt m && (e.icLine m false).isSome) = true →
      exec (.aBundle m) s = .next { s with
        dev := e.takeInt m }) ∧
    (∀ (m : Nat) (d e f : Dev) (x : Exc), wellFormed (.aBundle m) = true →
      s.dev.coreLive m = true →
      d = s.dev.coreSync m →
      (d.core m).ra = none →
      (∀ x, (d.core m).xfer = some x → x.left ≠ 0) →
      (d.core m).fenceWait = none →
      e = d.passFence m →
      e.trcStalls m = false →
      (d.core m).xfer.any (fun x => x.squash) = false →
      e.debugFirst m = none →
      (e.mayQuick m && (e.icLine m true).isSome) = false →
      (e.mayInt m && (e.icLine m false).isSome) = false →
      e.fetchNext m (d.pc m) = (f, .error x) →
      exec (.aBundle m) s = .next { s with
        dev := f.raiseExc m x }) ∧
    (∀ (m slot : Nat) (d e f : Dev) (w : BitVec 128), wellFormed (.aBundle m) = true →
      s.dev.coreLive m = true →
      d = s.dev.coreSync m →
      (d.core m).ra = none →
      (∀ x, (d.core m).xfer = some x → x.left ≠ 0) →
      (d.core m).fenceWait = none →
      e = d.passFence m →
      e.trcStalls m = false →
      (d.core m).xfer.any (fun x => x.squash) = false →
      e.debugFirst m = none →
      (e.mayQuick m && (e.icLine m true).isSome) = false →
      (e.mayInt m && (e.icLine m false).isSome) = false →
      e.fetchNext m (d.pc m) = (f, .ok w) →
      (Bundle.dec w).illegal profileA (f.core m).g = some slot →
      exec (.aBundle m) s = .next { s with
        dev := 
         (let l := lowest (slot :: ((Bundle.dec w).delayCtl profileA (f.core m).g (f.core m).xfer.isSome).toList)
         f.raiseExc m (exc cIllBundle (l.getD slot) 0)) }) ∧
    (∀ (m : Nat) (d e f g : Dev) (w : BitVec 128) (bun : Bundle) (vals trig : List (Nat × Nat × Nat)), wellFormed (.aBundle m) = true →
      s.dev.coreLive m = true →
      d = s.dev.coreSync m →
      (d.core m).ra = none →
      (∀ x, (d.core m).xfer = some x → x.left ≠ 0) →
      (d.core m).fenceWait = none →
      e = d.passFence m →
      e.trcStalls m = false →
      (d.core m).xfer.any (fun x => x.squash) = false →
      e.debugFirst m = none →
      (e.mayQuick m && (e.icLine m true).isSome) = false →
      (e.mayInt m && (e.icLine m false).isSome) = false →
      e.fetchNext m (d.pc m) = (f, .ok w) →
      bun = Bundle.dec w →
      bun.illegal profileA (f.core m).g = none →
      f.resWaits m (bun.live (f.core m).g) = false →
      vals = (bun.live (f.core m).g).map (fun x => (x.1, x.2.dst.toNat, f.aSource m (d.pc m) bun x.2.src.toNat)) →
      trig = vals.filter (fun v => (aTrigUnit v.2.1).isSome) →
      trig.findSome? (fun v => (f.trigStall m v.2.1 v.2.2).map (fun ev => (v.2.1, ev))) = none →
      f.plainFaults m (f.core m).xfer.isSome bun (bun.live (f.core m).g) trig = (g, []) →
      trig.find? (fun v => decide (aTrigUnit v.2.1 = some 4)) = none →
      exec (.aBundle m) s = .next { s with
        dev := g.commitCore m (d.pc m) ((d.core m).queued (d.pc m)).isSome
          (bun.live (f.core m).g) vals trig none (g.latAfter m 0xA0 vals, g.latAfter m 0xA1 vals, g.latAfter m 0xA2 vals) }) ∧
    (∀ (m : Nat) (k : Snap) (d : Dev), wellFormed (.runAheadEnd m) = true →
      (s.dev.core m).ra = some k →
      d = (s.dev.cPmu m 0x20 1).cPmu m 0x23 ((s.dev.core m).cyc - (s.dev.core m).raCyc) →
      exec (.runAheadEnd m) s = .next { s with
        dev := (d.trcEmit m (d.syncBytes m (d.trcSrc m).pos) (traceHead 7 m :: leBytes 2 (min (s.dev.core m).raCount 65535))).onCore m (fun c =>
          { c with frames := k.frames, x := k.x, q := k.q, g := k.g, res := k.res, xfer := k.xfer, pc := k.pc, sys := k.sys
                   resv := k.resv, latch := k.latch, fly := k.fly, ra := none, raCount := 0, raPoison := [], raOver := true }) }) ∧
    (∀ (m i : Nat) (d : Dev) (f : InFlight), wellFormed (.operationComplete (64 + m) i) = true →
      d = (s.dev.endRunAhead m).coreSync m →
      (d.core m).fly[i]? = some f →
      exec (.operationComplete (64 + m) i) s = .next { s with
        dev := (d.coreTick m (f.ready - (d.core m).cyc)).completeOp m i }) ∧
    (∀ (m : Nat) (d : Dev), wellFormed (.interruptEntry m) = true →
      s.dev.coreLive m = true →
      (s.dev.icLine m false).isSome = true →
      d = (s.dev.endRunAhead m).coreSync m →
      d.debugFirst m = none →
      d.mayInt m = true →
      (d.icLine m true).isSome = false ∨ d.mayQuick m = false →
      (d.core m).multi = none →
      exec (.interruptEntry m) s = .next { s with
        dev := d.enterE m (d.keepProg m (exc cInterrupt 0 0)) }) ∧
    (∀ (m : Nat) (d e : Dev) (r : MultiRun) (y : MultiSlot) (l : List MultiSlot), wellFormed (.interruptEntry m) = true →
      s.dev.coreLive m = true →
      (s.dev.icLine m false).isSome = true →
      d = (s.dev.endRunAhead m).coreSync m →
      d.debugFirst m = none →
      d.mayInt m = true →
      (d.icLine m true).isSome = false ∨ d.mayQuick m = false →
      (d.core m).multi = some r →
      r.alone = true →
      r.slots = y :: l →
      e = d.onCore m (fun c => { c with multi := none, pc := BitVec.ofNat 64 r.pc, xfer := r.xfer }) →
      exec (.interruptEntry m) s = .next { s with
        dev := e.enterE m { (exc cInterrupt 0 0) with
            addr := y.addr
            prog := (MultiXfer.mk y.addr ((y :: l).foldl (fun k y => match y.reg with
              | some g => setBit k (g % 16) true
              | none => k) 0) r.bank r.stm).prog } }) ∧
    (∀ (m : Nat) (d : Dev), wellFormed (.quickInterruptEntry m) = true →
      s.dev.coreLive m = true →
      (s.dev.icLine m true).isSome = true →
      d = (s.dev.endRunAhead m).coreSync m →
      d.debugFirst m = none →
      d.mayQuick m = true →
      exec (.quickInterruptEntry m) s = .next { s with
        dev := d.enterQ m (exc cQuick 0 0) }) ∧
    (∀ (m : Nat) (d : Dev), wellFormed (.wake m) = true →
      (s.dev.core m).asleep = true →
      s.dev.icWakes m = true →
      d = (s.dev.coreClock m).onCore m (fun c => { c with asleep := false }) →
      exec (.wake m) s = .next { s with
        dev := (d.trcEmit m (d.syncBytes m (d.trcSrc m).pos) (traceHead 6 m :: leBytes 4 (d.time.now % nsPerSec))).onTrc m (fun x =>
          { x with needSync := true }) }) ∧
    (∀ (m : Nat), wellFormed (.frameSpill m) = true →
      s.dev.coreOn m = true →
      (s.dev.core m).spill = true →
      1 < s.dev.occupied m →
      exec (.frameSpill m) s = .next { s with
        dev := s.dev.spillNow m }) ∧
    (∀ (m : Nat), wellFormed (.frameFill m) = true →
      s.dev.coreOn m = true →
      (s.dev.core m).fill = true →
      s.dev.occupied m < 8 →
      s.dev.hasRecord m (s.dev.backLvl m) = true →
      exec (.frameFill m) s = .next { s with
        dev := s.dev.fillNow m }) ∧
    (∀ (m i : Nat) (e : SbEntry), wellFormed (.storePerformed m i) = true →
      (s.dev.core m).sb[i]? = some e →
      (s.dev.core m).sbReady i = true →
      s.dev.entryWaits m e = false →
      exec (.storePerformed m i) s = .next { s with
        dev := s.dev.performStore m i }) ∧
    (∀ (m : Nat) (x : CbLine), wellFormed (.combiningWriteOut m) = true →
      (s.dev.core m).cb.head? = some x →
      exec (.combiningWriteOut m) s = .next { s with
        dev := s.dev.writeOutCb m x })

/-- R363 to R371: the home slices. How requests to one line are kept in order is R364; the hold is that of R367. -/
def Obligations.HomeSlicesAct : Prop :=
  ∀ (s : State),
    (∀ (rq : HomeReq), wellFormed (.homeSliceRequest rq) = true →
      (s.dev.dirAt rq.line).busy.isSome = true →
      s.dev.homeOut rq.port < portLimit rq.port →
      exec (.homeSliceRequest rq) s = .next { s with
        dev := s.dev.onDir rq.line (fun d => { d with waitq := d.waitq ++ [rq] }) }) ∧
    (∀ (rq : HomeReq) (d : Dev), wellFormed (.homeSliceRequest rq) = true →
      (s.dev.dirAt rq.line).busy = none →
      d = s.dev.cond (reqTakes rq) (fun x => x.stxSettle rq.line) →
      d.clk < d.reqHold rq →
      s.dev.homeOut rq.port < portLimit rq.port →
      exec (.homeSliceRequest rq) s = .next { s with
        dev := d.onDir rq.line (fun x => { x with busy := some rq, snoops := x.snoops ++ d.snoopsFor rq }) }) ∧
    (∀ (rq : HomeReq) (d e : Dev), wellFormed (.homeSliceRequest rq) = true →
      (s.dev.dirAt rq.line).busy = none →
      d = s.dev.cond (reqTakes rq) (fun x => x.stxSettle rq.line) →
      d.reqHold rq ≤ d.clk →
      rq.kind = 0 →
      d.l2Fill rq.port rq.world rq.line false = (e, true) →
      s.dev.homeOut rq.port < portLimit rq.port →
      exec (.homeSliceRequest rq) s = .next { s with
        dev := e.ok (e.newest rq.line % 2 ^ 64) }) ∧
    (∀ (rq : HomeReq) (d e : Dev), wellFormed (.homeSliceRequest rq) = true →
      (s.dev.dirAt rq.line).busy = none →
      d = s.dev.cond (reqTakes rq) (fun x => x.stxSettle rq.line) →
      d.reqHold rq ≤ d.clk →
      rq.kind = 0 →
      d.l2Fill rq.port rq.world rq.line false = (e, false) →
      s.dev.homeOut rq.port < portLimit rq.port →
      exec (.homeSliceRequest rq) s = .next { s with
        dev := e.bad }) ∧
    (∀ (rq : HomeReq) (d e : Dev), wellFormed (.homeSliceRequest rq) = true →
      (s.dev.dirAt rq.line).busy = none →
      d = s.dev.cond (reqTakes rq) (fun x => x.stxSettle rq.line) →
      d.reqHold rq ≤ d.clk →
      rq.kind = 1 →
      d.l2Fill rq.port rq.world rq.line true = (e, true) →
      s.dev.homeOut rq.port < portLimit rq.port →
      exec (.homeSliceRequest rq) s = .next { s with
        dev := e.ok (e.newest rq.line % 2 ^ 64) }) ∧
    (∀ (rq : HomeReq) (d e : Dev), wellFormed (.homeSliceRequest rq) = true →
      (s.dev.dirAt rq.line).busy = none →
      d = s.dev.cond (reqTakes rq) (fun x => x.stxSettle rq.line) →
      d.reqHold rq ≤ d.clk →
      rq.kind = 1 →
      d.l2Fill rq.port rq.world rq.line true = (e, false) →
      s.dev.homeOut rq.port < portLimit rq.port →
      exec (.homeSliceRequest rq) s = .next { s with
        dev := e.bad }) ∧
    (∀ (rq : HomeReq) (d e : Dev) (v : Nat), wellFormed (.homeSliceRequest rq) = true →
      (s.dev.dirAt rq.line).busy = none →
      d = s.dev.cond (reqTakes rq) (fun x => x.stxSettle rq.line) →
      d.reqHold rq ≤ d.clk →
      rq.kind = 2 →
      d.uncRead rq.port rq.world rq.line = (e, some v) →
      s.dev.homeOut rq.port < portLimit rq.port →
      exec (.homeSliceRequest rq) s = .next { s with
        dev := e.ok (e.newest rq.line % 2 ^ 64) }) ∧
    (∀ (rq : HomeReq) (d e : Dev), wellFormed (.homeSliceRequest rq) = true →
      (s.dev.dirAt rq.line).busy = none →
      d = s.dev.cond (reqTakes rq) (fun x => x.stxSettle rq.line) →
      d.reqHold rq ≤ d.clk →
      rq.kind = 2 →
      d.uncRead rq.port rq.world rq.line = (e, none) →
      s.dev.homeOut rq.port < portLimit rq.port →
      exec (.homeSliceRequest rq) s = .next { s with
        dev := e.bad }) ∧
    (∀ (rq : HomeReq) (d e : Dev), wellFormed (.homeSliceRequest rq) = true →
      (s.dev.dirAt rq.line).busy = none →
      d = s.dev.cond (reqTakes rq) (fun x => x.stxSettle rq.line) →
      d.reqHold rq ≤ d.clk →
      rq.kind = 3 →
      d.uncWrite rq.port rq.world rq.line rq.data.toNat (2 ^ 64 - 1) 9 = (e, true) →
      s.dev.homeOut rq.port < portLimit rq.port →
      exec (.homeSliceRequest rq) s = .next { s with
        dev := e.ok (e.newest rq.line % 2 ^ 64) }) ∧
    (∀ (rq : HomeReq) (d e : Dev), wellFormed (.homeSliceRequest rq) = true →
      (s.dev.dirAt rq.line).busy = none →
      d = s.dev.cond (reqTakes rq) (fun x => x.stxSettle rq.line) →
      d.reqHold rq ≤ d.clk →
      rq.kind = 3 →
      d.uncWrite rq.port rq.world rq.line rq.data.toNat (2 ^ 64 - 1) 9 = (e, false) →
      s.dev.homeOut rq.port < portLimit rq.port →
      exec (.homeSliceRequest rq) s = .next { s with
        dev := e.bad }) ∧
    (∀ (rq : HomeReq) (d e : Dev), wellFormed (.homeSliceRequest rq) = true →
      (s.dev.dirAt rq.line).busy = none →
      d = s.dev.cond (reqTakes rq) (fun x => x.stxSettle rq.line) →
      d.reqHold rq ≤ d.clk →
      rq.kind = 5 →
      d.uncWrite rq.port rq.world rq.line rq.data.toNat rq.mask.toNat 9 = (e, true) →
      s.dev.homeOut rq.port < portLimit rq.port →
      exec (.homeSliceRequest rq) s = .next { s with
        dev := e.ok (e.newest rq.line % 2 ^ 64) }) ∧
    (∀ (rq : HomeReq) (d e : Dev), wellFormed (.homeSliceRequest rq) = true →
      (s.dev.dirAt rq.line).busy = none →
      d = s.dev.cond (reqTakes rq) (fun x => x.stxSettle rq.line) →
      d.reqHold rq ≤ d.clk →
      rq.kind = 5 →
      d.uncWrite rq.port rq.world rq.line rq.data.toNat rq.mask.toNat 9 = (e, false) →
      s.dev.homeOut rq.port < portLimit rq.port →
      exec (.homeSliceRequest rq) s = .next { s with
        dev := e.bad }) ∧
    (∀ (rq : HomeReq) (d : Dev), wellFormed (.homeSliceRequest rq) = true →
      (s.dev.dirAt rq.line).busy = none →
      d = s.dev.cond (reqTakes rq) (fun x => x.stxSettle rq.line) →
      d.reqHold rq ≤ d.clk →
      rq.kind = 4 →
      s.dev.homeOut rq.port < portLimit rq.port →
      exec (.homeSliceRequest rq) s = .next { s with
        dev := ((d.setL2 rq.port rq.line { d.l2line rq.port rq.line with st := 3, data := rq.data, world := rq.world }).l2Evict rq.port rq.line).ok 0 }) ∧
    (∀ (rq : HomeReq), wellFormed (.homeSliceRequest rq) = true →
      portLimit rq.port ≤ s.dev.homeOut rq.port →
      exec (.homeSliceRequest rq) s = .next s) ∧
    (∀ (c line kind : Nat), wellFormed (.snoop c line kind) = true →
      s.dev.mem.deadL2.contains c = true →
      exec (.snoop c line kind) s = .next s) ∧
    (∀ (c line kind : Nat), wellFormed (.snoop c line kind) = true →
      s.dev.mem.deadL2.contains c = false →
      (s.dev.l2line c line).st ≠ 0 →
      s.dev.clk < s.dev.holdEnd line (clusterHolders c) →
      exec (.snoop c line kind) s = .next { s with
        dev := s.dev.onDir line (fun x => { x with snoops := x.snoops ++ [{ cluster := c, inv := decide (kind = 1), sent := s.dev.clk }] }) }) ∧
    (∀ (c line kind : Nat) (d : Dev), wellFormed (.snoop c line kind) = true →
      s.dev.mem.deadL2.contains c = false →
      (s.dev.l2line c line).st = 0 ∨ s.dev.holdEnd line (clusterHolders c) ≤ s.dev.clk →
      d = ((s.dev.cond (decide (kind = 1)) (fun x => x.stxSettle line)).onDir line (fun x => { x with snoops := x.snoops.filter (fun y => decide (y.cluster ≠ c)) })).snoopNext c line →
      (d.dirAt line).waitq.find? (fun r => decide (r.kind = 4) && decide (r.port = c)) = none →
      exec (.snoop c line kind) s = .next { s with
        dev := (d.snoopL2 c line (decide (kind = 1))).resumeHome line }) ∧
    (∀ (c line kind : Nat) (d : Dev) (r : HomeReq), wellFormed (.snoop c line kind) = true →
      s.dev.mem.deadL2.contains c = false →
      (s.dev.l2line c line).st = 0 ∨ s.dev.holdEnd line (clusterHolders c) ≤ s.dev.clk →
      d = ((s.dev.cond (decide (kind = 1)) (fun x => x.stxSettle line)).onDir line (fun x => { x with snoops := x.snoops.filter (fun y => decide (y.cluster ≠ c)) })).snoopNext c line →
      (d.dirAt line).waitq.find? (fun r => decide (r.kind = 4) && decide (r.port = c)) = some r →
      exec (.snoop c line kind) s = .next { s with
        dev := ((d.onDir line (fun x => { x with waitq := x.waitq.filter (fun r => !(decide (r.kind = 4) && decide (r.port = c))) })).serveHome
          r).resumeHome line }) ∧
    (∀ (line : Nat), wellFormed (.lineHoldEnd line) = true →
      s.dev.nextHold line = none →
      exec (.lineHoldEnd line) s = .next s) ∧
    (∀ (line k : Nat) (d e : Dev), wellFormed (.lineHoldEnd line) = true →
      s.dev.nextHold line = some k →
      d = s.dev.moveClk k →
      (d.dirAt line).busy = none →
      e = d.answerAll line (d.dirAt line).snoops →
      (e.dirAt line).busy = none →
      exec (.lineHoldEnd line) s = .next { s with
        dev := e }) ∧
    (∀ (line k : Nat) (d : Dev) (rq : HomeReq), wellFormed (.lineHoldEnd line) = true →
      s.dev.nextHold line = some k →
      d = s.dev.moveClk k →
      (d.dirAt line).busy = some rq →
      d.reqHold rq ≤ d.clk →
      (d.dirAt line).waitq.find? (fun x => decide (x.kind = 4)) = none →
      exec (.lineHoldEnd line) s = .next { s with
        dev := ((d.onDir line (fun x => { x with busy := none, snoops := [], waitq := (d.dirAt line).waitq })).serveHome rq).drainHome line (d.dirAt line).waitq.length }) ∧
    (∀ (line k : Nat) (d : Dev) (rq : HomeReq), wellFormed (.lineHoldEnd line) = true →
      s.dev.nextHold line = some k →
      d = s.dev.moveClk k →
      (d.dirAt line).busy = some rq →
      d.clk < d.reqHold rq →
      exec (.lineHoldEnd line) s = .next { s with
        dev := d }) ∧
    (∀ (a : Nat), wellFormed (.deadAgent a) = true →
      s.dev.snoopSent a = none →
      exec (.deadAgent a) s = .next s) ∧
    (∀ (a k : Nat) (d e : Dev), wellFormed (.deadAgent a) = true →
      s.dev.snoopSent a = some k →
      e = s.dev.moveClk (k + 4096) →
      a < 2 →
      e.mem.deadL2.contains a = false →
      d = ({ e with mem := { e.mem with deadL2 := insNat a e.mem.deadL2 } } : Dev).errCap 19 { ty := 0x0B, info := a } →
      exec (.deadAgent a) s = .next { s with
        dev := 
         (let f := d.each (List.range 8) (fun x k => (x.fs F.HN_STAT_DEAD k (setBit (x.fg F.HN_STAT_DEAD k) a true)).hnEvt k F.HN_EVT_DEAD)
         let f : Dev := { f with mem := { f.mem with reclaimTo := f.clk + 32784 } }
         let lines := (SMap.get (fun _ => []) e.mem.l2 a).map (fun x => x.1)
         let r := lines.foldl (fun x l => x.reclaimLine a l) f
         ((((r.mem.dir.filter (fun x => x.2.busy.isSome)).map (fun x => x.1)).filter (fun l => lines.contains l)).foldl
           (fun x l => x.failHome l) r)) }) ∧
    (∀ (a k : Nat) (e : Dev), wellFormed (.deadAgent a) = true →
      s.dev.snoopSent a = some k →
      e = s.dev.moveClk (k + 4096) →
      2 ≤ a →
      (e.core (a - 2)).dead = false →
      exec (.deadAgent a) s = .next { s with
        dev := ((((e.poisonCore (a - 2)).errCap (40 + clusterOf (a - 2)) { ty := 0x0B, info := a - 2 }).onCore (a - 2)
         (fun c => { c with dead := true })).icDrop (a - 2)) }) ∧
    (∀ (a k : Nat) (e : Dev), wellFormed (.deadAgent a) = true →
      s.dev.snoopSent a = some k →
      e = s.dev.moveClk (k + 4096) →
      (a < 2 ∧ e.mem.deadL2.contains a = true) ∨ (2 ≤ a ∧ (e.core (a - 2)).dead = true) →
      exec (.deadAgent a) s = .next { s with
        dev := e })

/-- R379, R388 to R396: the fabric and the DRAM controllers. -/
def Obligations.FirewallAndDramAct : Prop :=
  ∀ (s : State),
    (∀ (rq : Req) (r : Nat) (v : Word), wellFormed (.nocFwWrite rq r 0 v) = true →
      s.dev.reaches rq 28 = true →
      rq.svp = true →
      exec (.nocFwWrite rq r 0 v) s = .next { s with
        dev := ((s.dev.wr .NOC_FW_BASE_LO r (v &&& 0xFFFF0000)).endLatches .NOC_FW_BASE_LO r).ok 0 }) ∧
    (∀ (rq : Req) (r : Nat) (v : Word), wellFormed (.nocFwWrite rq r 1 v) = true →
      s.dev.reaches rq 28 = true →
      rq.svp = true →
      exec (.nocFwWrite rq r 1 v) s = .next { s with
        dev := ((s.dev.wr .NOC_FW_BASE_HI r (v &&& 3)).endLatches .NOC_FW_BASE_LO r).ok 0 }) ∧
    (∀ (rq : Req) (r : Nat) (v : Word), wellFormed (.nocFwWrite rq r 2 v) = true →
      s.dev.reaches rq 28 = true →
      rq.svp = true →
      exec (.nocFwWrite rq r 2 v) s = .next { s with
        dev := (s.dev.wr .NOC_FW_SIZE r (v &&& 0x7FFFF)).ok 0 }) ∧
    (∀ (rq : Req) (r : Nat) (v : Word), wellFormed (.nocFwWrite rq r 3 v) = true →
      s.dev.reaches rq 28 = true →
      rq.svp = true →
      exec (.nocFwWrite rq r 3 v) s = .next { s with
        dev := (s.dev.wr .NOC_FW_CTL r (v &&& 1)).ok 0 }) ∧
    (∀ (rq : Req) (r w : Nat) (v : Word), wellFormed (.nocFwWrite rq r w v) = true →
      s.dev.reaches rq 28 = true →
      rq.svp = false →
      exec (.nocFwWrite rq r w v) s = .next { s with
        dev := s.dev.errResp 18 rq 0x01 (devAddr 18 (0x100 + 16 * r + 4 * w)) (0x100 + 16 * r + 4 * w) }) ∧
    (∀ (port pa : Nat) (write hintOpen : Bool) (wait : Nat), wellFormed (.dramRequest port pa write hintOpen wait) = true →
      portLimit port ≤ s.dev.dramOut port →
      exec (.dramRequest port pa write hintOpen wait) s = .next s) ∧
    (∀ (port pa : Nat) (write hintOpen : Bool) (wait : Nat), wellFormed (.dramRequest port pa write hintOpen wait) = true →
      s.dev.dramOut port < portLimit port →
      s.dev.domOn (29 + s.dev.dramChan pa) = false →
      exec (.dramRequest port pa write hintOpen wait) s = .next { s with
        dev := (s.dev.dramOffRefuse port 3 pa).bad }) ∧
    (∀ (port pa : Nat) (write hintOpen : Bool) (wait : Nat), wellFormed (.dramRequest port pa write hintOpen wait) = true →
      s.dev.dramOut port < portLimit port →
      s.dev.domOn (29 + s.dev.dramChan pa) = true →
      exec (.dramRequest port pa write hintOpen wait) s = .next { s with
        dev := s.dev.onDch (s.dev.dramChan pa) (fun x => { x with queue := x.queue ++
          [{ port := port, pa := pa, write := write, hintOpen := pageHint port write hintOpen, at0 := s.dev.clk, born := s.dev.clk - wait }] }) }) ∧
    (∀ (c idx flips i : Nat) (r : DramReq) (d x : Dev), wellFormed (.dramCommandIssue c idx flips) = true →
      s.dev.domOn (29 + c) = true →
      (s.dev.dramOrder c)[idx]? = some i →
      (s.dev.dch c).queue[i]? = some r →
      d = s.dev.cond (!s.dev.rowOpen c r) (fun x => x.activate c (s.dev.dramBank r.pa) (dramRow r.pa)) →
      x = (let age := s.dev.clk - r.at0
         let T := s.dev.fg F.DMC_PTGT_NS r.port
         let open' := if d.keepsOpen r then some (dramRow r.pa, d.clk) else none
         let x := d.onDch c (fun x => { x with queue := dropAt x.queue i, rows := SMap.set (fun _ => none) x.rows (s.dev.dramBank r.pa) open' })
         let x := x.cond (decide (T ≠ 0) && decide (T ≤ age)) (fun y => y.inc F.DMC_PMISS_COUNT r.port)
         let x := x.fs F.DMC_PMAX_NS r.port (max (x.fg F.DMC_PMAX_NS r.port) (min age F.DMC_PMAX_NS.max))
         x.fs F.NOC_MAXWAIT_NS r.port (max (x.fg F.NOC_MAXWAIT_NS r.port) (min (x.clk - r.born) F.NOC_MAXWAIT_NS.max))) →
      r.write = true →
      exec (.dramCommandIssue c idx flips) s = .next { s with
        dev := x }) ∧
    (∀ (c idx flips i : Nat) (r : DramReq) (d x : Dev), wellFormed (.dramCommandIssue c idx flips) = true →
      s.dev.domOn (29 + c) = true →
      (s.dev.dramOrder c)[idx]? = some i →
      (s.dev.dch c).queue[i]? = some r →
      d = s.dev.cond (!s.dev.rowOpen c r) (fun x => x.activate c (s.dev.dramBank r.pa) (dramRow r.pa)) →
      x = (let age := s.dev.clk - r.at0
         let T := s.dev.fg F.DMC_PTGT_NS r.port
         let open' := if d.keepsOpen r then some (dramRow r.pa, d.clk) else none
         let x := d.onDch c (fun x => { x with queue := dropAt x.queue i, rows := SMap.set (fun _ => none) x.rows (s.dev.dramBank r.pa) open' })
         let x := x.cond (decide (T ≠ 0) && decide (T ≤ age)) (fun y => y.inc F.DMC_PMISS_COUNT r.port)
         let x := x.fs F.DMC_PMAX_NS r.port (max (x.fg F.DMC_PMAX_NS r.port) (min age F.DMC_PMAX_NS.max))
         x.fs F.NOC_MAXWAIT_NS r.port (max (x.fg F.NOC_MAXWAIT_NS r.port) (min (x.clk - r.born) F.NOC_MAXWAIT_NS.max))) →
      r.write = false →
      2 ≤ flips ∨ x.poisoned (r.pa / 64) = true →
      exec (.dramCommandIssue c idx flips) s = .next { s with
        dev := ((x.dramUe c r.pa r.port).poisonRefuse r.port 3 r.pa).bad }) ∧
    (∀ (c idx flips i : Nat) (r : DramReq) (d x : Dev), wellFormed (.dramCommandIssue c idx flips) = true →
      s.dev.domOn (29 + c) = true →
      (s.dev.dramOrder c)[idx]? = some i →
      (s.dev.dch c).queue[i]? = some r →
      d = s.dev.cond (!s.dev.rowOpen c r) (fun x => x.activate c (s.dev.dramBank r.pa) (dramRow r.pa)) →
      x = (let age := s.dev.clk - r.at0
         let T := s.dev.fg F.DMC_PTGT_NS r.port
         let open' := if d.keepsOpen r then some (dramRow r.pa, d.clk) else none
         let x := d.onDch c (fun x => { x with queue := dropAt x.queue i, rows := SMap.set (fun _ => none) x.rows (s.dev.dramBank r.pa) open' })
         let x := x.cond (decide (T ≠ 0) && decide (T ≤ age)) (fun y => y.inc F.DMC_PMISS_COUNT r.port)
         let x := x.fs F.DMC_PMAX_NS r.port (max (x.fg F.DMC_PMAX_NS r.port) (min age F.DMC_PMAX_NS.max))
         x.fs F.NOC_MAXWAIT_NS r.port (max (x.fg F.NOC_MAXWAIT_NS r.port) (min (x.clk - r.born) F.NOC_MAXWAIT_NS.max))) →
      r.write = false →
      flips < 2 →
      x.poisoned (r.pa / 64) = false →
      exec (.dramCommandIssue c idx flips) s = .next { s with
        dev := x.dramCheck c r.pa r.port flips }) ∧
    (∀ (c idx flips : Nat), wellFormed (.dramCommandIssue c idx flips) = true →
      s.dev.domOn (29 + c) = false ∨ (s.dev.dramOrder c)[idx]? = none →
      exec (.dramCommandIssue c idx flips) s = .next s) ∧
    (∀ (c : Nat) (d : Dev), wellFormed (.refresh c) = true →
      s.dev.domOn (29 + c) = true →
      d = s.dev.moveClk ((s.dev.dch c).refAt + s.dev.refreshNs c) →
      exec (.refresh c) s = .next { s with
        dev := d.onDch c (fun x => { x with rows := [], refreshes := x.refreshes + 1, refAt := d.clk }) }) ∧
    (∀ (c : Nat) (d : Dev), wellFormed (.activateTableClear c) = true →
      s.dev.domOn (29 + c) = true →
      d = s.dev.moveClk (s.dev.actWindowEnd c) →
      exec (.activateTableClear c) s = .next { s with
        dev := d.onDch c (fun x => { x with acts := [], winAt := d.clk }) }) ∧
    (∀ (c : Nat), wellFormed (.activateTableClear c) = true →
      s.dev.domOn (29 + c) = false →
      exec (.activateTableClear c) s = .next s) ∧
    (∀ (c b : Nat), wellFormed (.rowIdleClose c b) = true →
      (s.dev.dch c).row b = none →
      exec (.rowIdleClose c b) s = .next s) ∧
    (∀ (c b row k : Nat), wellFormed (.rowIdleClose c b) = true →
      (s.dev.dch c).row b = some (row, k) →
      exec (.rowIdleClose c b) s = .next { s with
        dev := (s.dev.moveClk (k + s.dev.fg F.DMC_CFG_IDLE 0)).onDch c
          (fun x => { x with rows := SMap.set (fun _ => none) x.rows b none }) }) ∧
    (∀ (c flips : Nat) (d : Dev), wellFormed (.patrolScrub c flips) = true →
      s.dev.domOn (29 + c) = true →
      d = s.dev.dramCheck c (s.dev.chanLine c (s.dev.fg F.DMC_SCRUBPOS_LINE c % chanLines)) 31 flips →
      exec (.patrolScrub c flips) s = .next { s with
        dev := d.fs F.DMC_SCRUBPOS_LINE c ((s.dev.fg F.DMC_SCRUBPOS_LINE c + 1) % chanLines) }) ∧
    (∀ (rq : Req) (off base : Nat) (v : Word) (lo hi : RName) (d : Dev), wellFormed (.dmcMaskWrite rq off v) = true →
      s.dev.reaches rq 28 = true →
      rq.svp = true →
      maskRegs[(off - 0x10) / 8]? = some (lo, hi, base) →
      d = (if off % 8 = 0 then s.dev.wr lo 0 v else s.dev.wr hi 0 (v &&& 0xFF)) →
      s.dev.fg F.DMC_CTL_EN 0 = 0 →
      maskValid base (d.rd64 lo hi 0) = true →
      exec (.dmcMaskWrite rq off v) s = .next { s with
        dev := (d.endLatches lo 0).ok 0 }) ∧
    (∀ (rq : Req) (off base : Nat) (v : Word) (lo hi : RName) (d : Dev), wellFormed (.dmcMaskWrite rq off v) = true →
      s.dev.reaches rq 28 = true →
      rq.svp = true →
      maskRegs[(off - 0x10) / 8]? = some (lo, hi, base) →
      d = (if off % 8 = 0 then s.dev.wr lo 0 v else s.dev.wr hi 0 (v &&& 0xFF)) →
      s.dev.fg F.DMC_CTL_EN 0 = 1 ∨ maskValid base (d.rd64 lo hi 0) = false →
      exec (.dmcMaskWrite rq off v) s = .next { s with
        dev := s.dev.errResp 20 rq 0x10 (devAddr 20 off) v.toNat })

/-- R399 to R408: the Ethernet ports. The content of supervision and PTP frames is the model's reading of the standards (log 22 and the log of PTP). -/
def Obligations.EthernetPortsAct : Prop :=
  ∀ (s : State),
    (∀ (p : Nat) (f : EthFrame) , wellFormed (.ethReceive p f) = true →
      s.dev.portOn p = false →
      exec (.ethReceive p f) s = .next s) ∧
    (∀ (p : Nat) (f : EthFrame) (g : SvFrame), wellFormed (.ethReceive p f) = true →
      s.dev.portOn p = true →
      f.payload = .sv g →
      exec (.ethReceive p f) s = .next { s with
        dev := s.dev.svArrive p { g with hdr := f.hdr } f.octets }) ∧
    (∀ (p : Nat) (f : EthFrame) (g : GooseFrame), wellFormed (.ethReceive p f) = true →
      s.dev.portOn p = true →
      f.payload = .goose g →
      exec (.ethReceive p f) s = .next { s with
        dev := s.dev.gooseArrive p { g with hdr := f.hdr } f.octets }) ∧
    (∀ (p : Nat) (f : EthFrame) (d : Dev) (m : PtpMsg), wellFormed (.ethReceive p f) = true →
      s.dev.portOn p = true →
      f.payload = .ptp m →
      s.dev.rxCheck p f.hdr f.octets true = (d, .take) →
      exec (.ethReceive p f) s = .next { s with
        dev := d.ptpArrive p f.hdr.len m }) ∧
    (∀ (p : Nat) (f : EthFrame) (d : Dev), wellFormed (.ethReceive p f) = true →
      s.dev.portOn p = true →
      f.payload = .pause →
      s.dev.rxCheck p f.hdr f.octets true = (d, .take) →
      exec (.ethReceive p f) s = .next { s with
        dev := d.inc F.ETH_RXPAUSE_COUNT p }) ∧
    (∀ (p : Nat) (f : EthFrame) (d : Dev), wellFormed (.ethReceive p f) = true →
      s.dev.portOn p = true →
      f.payload = .supervision →
      s.dev.rxCheck p f.hdr f.octets false = (d, .take) →
      exec (.ethReceive p f) s = .next { s with
        dev := (d.hsrOffer p f.hdr f.octets).inc F.ETH_SUPRX_COUNT p }) ∧
    (∀ (p : Nat) (f : EthFrame) (d : Dev) (ty : Nat), wellFormed (.ethReceive p f) = true →
      s.dev.portOn p = true →
      f.payload = .other ty →
      s.dev.rxCheck p f.hdr f.octets false = (d, .take) →
      exec (.ethReceive p f) s = .next { s with
        dev := (d.hsrOffer p f.hdr f.octets).hostOrFilt p f.hdr f.octets }) ∧
    (∀ (p : Nat) (f : EthFrame) (d : Dev) (ty : Nat), wellFormed (.ethReceive p f) = true →
      s.dev.portOn p = true →
      f.payload = .other ty ∨ f.payload = .supervision →
      s.dev.rxCheck p f.hdr f.octets false = (d, .dup) →
      exec (.ethReceive p f) s = .next { s with
        dev := d.hsrOffer p f.hdr f.octets }) ∧
    (∀ (p : Nat) (f : EthFrame) (d : Dev) (ty : Nat), wellFormed (.ethReceive p f) = true →
      s.dev.portOn p = true →
      f.payload = .other ty ∨ f.payload = .supervision →
      s.dev.rxCheck p f.hdr f.octets false = (d, .drop) →
      exec (.ethReceive p f) s = .next { s with
        dev := d }) ∧
    (∀ (p : Nat), wellFormed (.ethTransmit p) = true →
      s.dev.portOn p = false ∨ (s.dev.port p).tx.isSome = true ∨ s.dev.txPick p = none →
      exec (.ethTransmit p) s = .next s) ∧
    (∀ (p i : Nat) (f : TxFrame), wellFormed (.ethTransmit p) = true →
      s.dev.portOn p = true →
      (s.dev.port p).tx = none →
      s.dev.txPick p = some (.pub i) →
      (s.dev.port p).pubq[i]? = some f →
      exec (.ethTransmit p) s = .next { s with
        dev := (s.dev.onPort p (fun x => { x with pubq := dropAt x.pubq i })).txStart p f }) ∧
    (∀ (p i : Nat) (f : TxFrame), wellFormed (.ethTransmit p) = true →
      s.dev.portOn p = true →
      (s.dev.port p).tx = none →
      s.dev.txPick p = some (.fw i) →
      (s.dev.port p).fwq[i]? = some f →
      exec (.ethTransmit p) s = .next { s with
        dev := (s.dev.onPort p (fun x => { x with fwq := dropAt x.fwq i })).txStart p f }) ∧
    (∀ (p : Nat) (f : TxFrame) (l : List TxFrame), wellFormed (.ethTransmit p) = true →
      s.dev.portOn p = true →
      (s.dev.port p).tx = none →
      s.dev.txPick p = some .fwd →
      (s.dev.port p).fwdq = f :: l →
      exec (.ethTransmit p) s = .next { s with
        dev := ((s.dev.onPort p (fun x => { x with fwdq := l })).txStart p { f with prpSeq := none }).inc F.ETH_HSRFWD_COUNT p }) ∧
    (∀ (p : Nat) (f : TxFrame) (l : List TxFrame), wellFormed (.hsrForward p) = true →
      s.dev.portOn p = true →
      (s.dev.port p).tx = none →
      s.dev.txPick p = some .fwd →
      (s.dev.port p).fwdq = f :: l →
      exec (.hsrForward p) s = .next { s with
        dev := ((s.dev.onPort p (fun x => { x with fwdq := l })).txStart p { f with prpSeq := none }).inc F.ETH_HSRFWD_COUNT p }) ∧
    (∀ (p : Nat), wellFormed (.hsrForward p) = true →
      s.dev.portOn p = false ∨ s.dev.txPick p ≠ some .fwd →
      exec (.hsrForward p) s = .next s) ∧
    (∀ (p : Nat) (d : Dev), wellFormed (.ethTransmit p) = true →
      s.dev.portOn p = true →
      (s.dev.port p).tx = none →
      s.dev.txPick p = some .ring →
      s.dev.dmaRead (12 + p) (s.dev.portWorld p) (s.dev.txDescAt p (s.dev.fg F.ETH_TXHEAD_IDX p)) 32 = (d, none) →
      exec (.ethTransmit p) s = .next { s with
        dev := (d.fs F.ETH_RING_TXEN p 0).setEvt (136 + p) F.ETH_EVT_DMAERR p }) ∧
    (∀ (p : Nat) (d e : Dev) (l : List Byte), wellFormed (.ethTransmit p) = true →
      s.dev.portOn p = true →
      (s.dev.port p).tx = none →
      s.dev.txPick p = some .ring →
      s.dev.dmaRead (12 + p) (s.dev.portWorld p) (s.dev.txDescAt p (s.dev.fg F.ETH_TXHEAD_IDX p)) 32 = (d, some l) →
      leNat ((l.drop 16).take 2) = 0 ∨ 1518 < leNat ((l.drop 16).take 2) ∨ (d.redOf (p / 2) ≠ 0 ∧ 1516 < leNat ((l.drop 16).take 2) + 4) →
      d.dmaWrite (12 + p) (d.portWorld p) (d.txDescAt p (d.fg F.ETH_TXHEAD_IDX p) + 18) [3] = (e, true) →
      exec (.ethTransmit p) s = .next { s with
        dev := e.txAdvance p }) ∧
    (∀ (p : Nat) (d e : Dev) (l o : List Byte), wellFormed (.ethTransmit p) = true →
      s.dev.portOn p = true →
      (s.dev.port p).tx = none →
      s.dev.txPick p = some .ring →
      s.dev.dmaRead (12 + p) (s.dev.portWorld p) (s.dev.txDescAt p (s.dev.fg F.ETH_TXHEAD_IDX p)) 32 = (d, some l) →
      ¬ (leNat ((l.drop 16).take 2) = 0 ∨ 1518 < leNat ((l.drop 16).take 2) ∨ (d.redOf (p / 2) ≠ 0 ∧ 1516 < leNat ((l.drop 16).take 2) + 4)) →
      d.dmaRead (12 + p) (s.dev.portWorld p) (leNat (l.take 8) / 64 * 64) (leNat ((l.drop 16).take 2)) = (e, some o) →
      exec (.ethTransmit p) s = .next { s with
        dev := e.hostSend p o }) ∧
    (∀ (p n : Nat) (up : LinkCond) (d : Dev), wellFormed (.linkChange p up) = true →
      s.dev.domOn (portDom p) = true →
      d = (s.dev.fs F.ETH_STAT_LOCK p (b2n up.lock)).onPort p (fun x => { x with linkOk := up.good }) →
      n = b2n (decide (d.fg F.ETH_CFG_EN p = 1) && d.linkHolds p) →
      d.fg F.ETH_STAT_LINK p = n →
      exec (.linkChange p up) s = .next { s with
        dev := d }) ∧
    (∀ (p n : Nat) (up : LinkCond) (d : Dev), wellFormed (.linkChange p up) = true →
      s.dev.domOn (portDom p) = true →
      d = (s.dev.fs F.ETH_STAT_LOCK p (b2n up.lock)).onPort p (fun x => { x with linkOk := up.good }) →
      n = b2n (decide (d.fg F.ETH_CFG_EN p = 1) && d.linkHolds p) →
      d.fg F.ETH_STAT_LINK p ≠ n →
      exec (.linkChange p up) s = .next { s with
        dev := (d.fs F.ETH_STAT_LINK p n).setEvt (136 + p) F.ETH_EVT_LINKCHG p }) ∧
    (∀ (rq : Req) (p : Nat) (v : Word), wellFormed (.ethTxtail rq p v) = true →
      s.dev.reaches rq (portDom p) = true →
      (rq.svp || rq.ofWorld (s.dev.portWorld p)) = true →
      exec (.ethTxtail rq p v) s = .next { s with
        dev := (s.dev.fs F.ETH_TXTAIL_IDX p v.toNat).ok 0 }) ∧
    (∀ (rq : Req) (p : Nat) (v : Word), wellFormed (.ethRxtail rq p v) = true →
      s.dev.reaches rq (portDom p) = true →
      (rq.svp || rq.ofWorld (s.dev.portWorld p)) = true →
      exec (.ethRxtail rq p v) s = .next { s with
        dev := (s.dev.fs F.ETH_RXTAIL_IDX p v.toNat).ok 0 }) ∧
    (∀ (pair : Nat) (e : Nat × Nat × Nat) (l : List (Nat × Nat × Nat)), wellFormed (.duplicateEntryExpiry pair) = true →
      (s.dev.dupOf pair).entries = e :: l →
      exec (.duplicateEntryExpiry pair) s = .next { s with
        dev := (s.dev.moveClk (e.2.2 + dupKeep)).dupPurge pair }) ∧
    (∀ (pair : Nat), wellFormed (.duplicateEntryExpiry pair) = true →
      (s.dev.dupOf pair).entries = [] →
      exec (.duplicateEntryExpiry pair) s = .next s) ∧
    (∀ (pair : Nat), wellFormed (.supervisionFrame pair) = true →
      s.dev.redOf pair ≠ 1 →
      exec (.supervisionFrame pair) s = .next s) ∧
    (∀ (pair n : Nat) (d : Dev), wellFormed (.supervisionFrame pair) = true →
      s.dev.redOf pair = 1 →
      (s.dev.superviseAt pair).redSeq pair = (d, n) →
      exec (.supervisionFrame pair) s = .next { s with
        dev := d.each ((List.range 4).filter (fun p => decide (p / 2 = pair) && d.portOn p)) (fun x p =>
          x.onPort p (fun y => { y with fwq := y.fwq ++ [{ kind := 4, octets := [0x88, 0xFB], len := 64, dst := supervisionDst
                                                           src := BitVec.ofNat 48 (x.portMac p), prpSeq := some n, born := x.time.now }] })) }) ∧
    (∀ (p : Nat), wellFormed (.frameTransmissionComplete p) = true →
      (s.dev.port p).tx = none →
      exec (.frameTransmissionComplete p) s = .next s) ∧
    (∀ (p : Nat) (f : TxFrame), wellFormed (.frameTransmissionComplete p) = true →
      (s.dev.port p).tx = some f →
      f.kind ≠ 5 ∨ f.desc = noDesc →
      exec (.frameTransmissionComplete p) s = .next { s with
        dev := s.dev.onPort p (fun x => { x with tx := none }) }) ∧
    (∀ (p : Nat) (f : TxFrame) (d e g : Dev), wellFormed (.frameTransmissionComplete p) = true →
      (s.dev.port p).tx = some f →
      f.kind = 5 →
      f.desc ≠ noDesc →
      d = s.dev.onPort p (fun x => { x with tx := none }) →
      d.dmaWrite (12 + p) (d.portWorld p) (d.txDescAt p f.desc + 8) (leBytes 8 (stamp (d.txStamp p f.born))) = (e, true) →
      e.dmaWrite (12 + p) (d.portWorld p) (d.txDescAt p f.desc + 18) [1] = (g, true) →
      exec (.frameTransmissionComplete p) s = .next { s with
        dev := g.txAdvance p }) ∧
    (∀ (p kind : Nat), wellFormed (.ptpInterval p kind) = true →
      s.dev.portOn p = false ∨ s.dev.fwRuns = false →
      exec (.ptpInterval p kind) s = .next s) ∧
    (∀ (p : Nat), wellFormed (.ptpInterval p 0) = true →
      s.dev.portOn p = true →
      s.dev.fwRuns = true →
      (s.dev.port p).ptp = 3 →
      s.dev.ptpRole p = 2 →
      exec (.ptpInterval p 0) s = .next { s with
        dev := (s.dev.fwSend p 1 (64 + s.dev.ptpTag p) ptpDst []).fwSend p 4 (64 + s.dev.ptpTag p) ptpDst [] }) ∧
    (∀ (p : Nat), wellFormed (.ptpInterval p 1) = true →
      s.dev.portOn p = true →
      s.dev.fwRuns = true →
      ((s.dev.bmc p).port p).ptp = 3 →
      exec (.ptpInterval p 1) s = .next { s with
        dev := (s.dev.bmc p).fwSend p 4 (82 + s.dev.ptpTag p) ptpDst ((s.dev.bmc p).announceBody p) }) ∧
    (∀ (p : Nat), wellFormed (.ptpInterval p 2) = true →
      s.dev.portOn p = true →
      s.dev.fwRuns = true →
      s.dev.ptpRole p ≠ 0 →
      exec (.ptpInterval p 2) s = .next { s with
        dev := s.dev.fwSend p 1 (72 + s.dev.ptpTag p) ptpPeerDst [] }) ∧
    (∀ (p : Nat), wellFormed (.ptpInterval p 3) = true →
      s.dev.portOn p = true →
      s.dev.fwRuns = true →
      exec (.ptpInterval p 3) s = .next { s with
        dev := s.dev.announceTimeout p }) ∧
    (∀ (p : Nat), wellFormed (.ptpInterval p 4) = true →
      s.dev.portOn p = true →
      s.dev.fwRuns = true →
      exec (.ptpInterval p 4) s = .next { s with
        dev := s.dev.bmc p })

/-- R409 to R417: the bay links. -/
def Obligations.BayLinksAct : Prop :=
  ∀ (s : State),
    (∀ (l : Nat), wellFormed (.tickFrame l) = true →
      s.dev.domOn 6 = false ∨ s.dev.time.tickRaised = false ∨ (s.dev.lnk l).lastTick.map Prod.fst = some s.dev.tickNo →
      exec (.tickFrame l) s = .next s) ∧
    (∀ (l : Nat) (d : Dev), wellFormed (.tickFrame l) = true →
      s.dev.domOn 6 = true →
      s.dev.time.tickRaised = true →
      (s.dev.lnk l).lastTick.map Prod.fst ≠ some s.dev.tickNo →
      d = (s.dev.moveTo (s.dev.tickTime + 200)).lnkRoll l →
      d.lnkOn l = false →
      exec (.tickFrame l) s = .next { s with
        dev := d }) ∧
    (∀ (l : Nat) (d : Dev) (o : BitVec 32), wellFormed (.tickFrame l) = true →
      s.dev.domOn 6 = true →
      s.dev.time.tickRaised = true →
      (s.dev.lnk l).lastTick.map Prod.fst ≠ some s.dev.tickNo →
      d = (s.dev.moveTo (s.dev.tickTime + 200)).lnkRoll l →
      d.lnkOn l = true →
      o = (if d.outputsLive then (d.lnk l).out else 0) →
      exec (.tickFrame l) s = .next { s with
        dev := (d.wr .BLK_OUT l o).onLnk l (fun b => { b with out := o, lastTick := some (d.tickNo, o.toNat), flags := d.lnkFlags, sent := linkFrame 0x01 d.lnkFlags (d.lnk l).eack d.tickNo o.toNat 0 (stamp d.tickTime) }) }) ∧
    (∀ (l : Nat) (f : CardFrame), wellFormed (.cardFrame l f) = true →
      s.dev.lnkOn l = false ∨ s.dev.lnkState l = 0 →
      exec (.cardFrame l f) s = .next s) ∧
    (∀ (l : Nat) (f : CardFrame) (d : Dev), wellFormed (.cardFrame l f) = true →
      s.dev.lnkOn l = true →
      s.dev.lnkState l ≠ 0 →
      d = s.dev.moveTo (f.arrival + 344) →
      d.cardGood f = false →
      exec (.cardFrame l f) s = .next { s with
        dev := d.inc F.BLK_BADCNT_COUNT l }) ∧
    (∀ (l : Nat) (f : CardFrame) (d a b : Dev), wellFormed (.cardFrame l f) = true →
      s.dev.lnkOn l = true →
      s.dev.lnkState l ≠ 0 →
      d = s.dev.moveTo (f.arrival + 344) →
      d.cardGood f = true →
      a = ((((d.fs F.BLK_LSTAT_DLY l (d.cardDelay l f % 65536).toNat).fs F.BLK_LSTAT_CARD l ((cardText f.octets).flags % 8)).cond ((cardText f.octets).flags.testBit 1)
         (fun x => x.setEvtBit 140 F.BLK_EVT_OUTF 0 l)).wr .BLK_IN l (cardText f.octets).inp).lnkGood l →
      b = a.quadWrite l [(0, (cardText f.octets).inp.toNat % 65536), (1, (cardText f.octets).inp.toNat / 65536), (2, a.quadStatus l), (3, d.cardTick f.arrival % 65536)] →
      exec (.cardFrame l f) s = .next { s with
        dev := if b.takesEvents then b.cardEvents l (d.cardTick f.arrival) f.arrival (d.cardDelay l f) (cardText f.octets).events else b }) ∧
    (∀ (l : Nat), wellFormed (.linkLoss l) = true →
      s.dev.domOn 6 = true →
      s.dev.lnkState l = 2 →
      s.dev.lossTicks l ≤ (s.dev.lnk l).miss →
      exec (.linkLoss l) s = .next { s with
        dev := s.dev.lnkLose l 1 }) ∧
    (∀ (l : Nat), wellFormed (.linkLoss l) = true →
      s.dev.lnkState l ≠ 2 ∨ (s.dev.lnk l).miss < s.dev.lossTicks l →
      exec (.linkLoss l) s = .next s) ∧
    (∀ (l : Nat), wellFormed (.symbolLockLoss l) = true →
      s.dev.domOn 6 = true →
      s.dev.lnkState l = 2 →
      exec (.symbolLockLoss l) s = .next { s with
        dev := s.dev.lnkLose l 0 }) ∧
    (∀ (l : Nat), wellFormed (.symbolLockLoss l) = true →
      s.dev.domOn 6 = true →
      s.dev.lnkState l ≠ 2 →
      exec (.symbolLockLoss l) s = .next { s with
        dev := (s.dev.fs F.BLK_LSTAT_STATE l 0).onLnk l (fun b => { b with good := 0 }) }) ∧
    (∀ (l : Nat), wellFormed (.symbolLockAcquired l) = true →
      s.dev.domOn 6 = true →
      s.dev.lnkState l = 0 →
      exec (.symbolLockAcquired l) s = .next { s with
        dev := s.dev.fs F.BLK_LSTAT_STATE l 1 }) ∧
    (∀ (l : Nat), wellFormed (.symbolLockAcquired l) = true →
      s.dev.lnkState l ≠ 0 →
      exec (.symbolLockAcquired l) s = .next s)

/-- R438 to R443: the test access port and the debug master. -/
def Obligations.DebugPortActs : Prop :=
  ∀ (s : State),
    (
      s.dev.domOn 1 = true →
      exec .tapReset s = .next { s with
        dev := { s.dev with zdp := { s.dev.zdp with instr := 2 } } }) ∧
    (
      s.dev.domOn 1 = false →
      exec .tapReset s = .next s) ∧
    (
      s.dev.domOn 1 = true →
      exec .zdpNop s = .next { s with
        dev := s.dev.zAnswer zOK 0 0 }) ∧
    (∀ (peek inc : Bool) (world addr a : Nat) (d : Dev), wellFormed (.zdpRead4 peek inc world addr) = true →
      s.dev.domOn 1 = true →
      a = s.dev.zAddr inc addr →
      world ≠ 3 →
      a % 4 = 0 →
      s.dev.domOn 31 = true →
      s.dev.unlockReach world = true →
      s.dev.windowGranted a = true →
      d = s.dev.readAt { port := 17, world := world, peek := peek } a 4 →
      d.resp.err = false →
      exec (.zdpRead4 peek inc world addr) s = .next { s with
        dev := ({ d.zAnswer zOK a d.resp.val.toNat with zdp := { (d.zAnswer zOK a d.resp.val.toNat).zdp with next := a + 4 } } : Dev) }) ∧
    (∀ (peek inc : Bool) (world addr a : Nat) (d : Dev), wellFormed (.zdpRead4 peek inc world addr) = true →
      s.dev.domOn 1 = true →
      a = s.dev.zAddr inc addr →
      world ≠ 3 →
      a % 4 = 0 →
      s.dev.domOn 31 = true →
      s.dev.unlockReach world = true →
      s.dev.windowGranted a = true →
      d = s.dev.readAt { port := 17, world := world, peek := peek } a 4 →
      d.resp.err = true →
      exec (.zdpRead4 peek inc world addr) s = .next { s with
        dev := d.zAnswer zError a 0 }) ∧
    (∀ (peek inc : Bool) (world addr a : Nat), wellFormed (.zdpRead4 peek inc world addr) = true →
      s.dev.domOn 1 = true →
      a = s.dev.zAddr inc addr →
      world = 3 ∨ a % 4 ≠ 0 →
      exec (.zdpRead4 peek inc world addr) s = .next { s with
        dev := s.dev.zAnswer zBadOp a 0 }) ∧
    (∀ (peek inc : Bool) (world addr a : Nat), wellFormed (.zdpRead4 peek inc world addr) = true →
      s.dev.domOn 1 = true →
      a = s.dev.zAddr inc addr →
      world ≠ 3 →
      a % 4 = 0 →
      s.dev.domOn 31 = false →
      exec (.zdpRead4 peek inc world addr) s = .next { s with
        dev := s.dev.zAnswer zNoPwr a 0 }) ∧
    (∀ (peek inc : Bool) (world addr a : Nat), wellFormed (.zdpRead4 peek inc world addr) = true →
      s.dev.domOn 1 = true →
      a = s.dev.zAddr inc addr →
      world ≠ 3 →
      a % 4 = 0 →
      s.dev.domOn 31 = true →
      s.dev.unlockReach world = false ∨ s.dev.windowGranted a = false →
      exec (.zdpRead4 peek inc world addr) s = .next { s with
        dev := s.dev.zAnswer zDenied a 0 }) ∧
    (∀ (inc : Bool) (world addr a : Nat) (data : Word) (d : Dev), wellFormed (.zdpWrite4 false inc world addr data) = true →
      s.dev.domOn 1 = true →
      a = s.dev.zAddr inc addr →
      world ≠ 3 →
      a % 4 = 0 →
      s.dev.domOn 31 = true →
      s.dev.unlockReach world = true →
      s.dev.windowGranted a = true →
      d = s.dev.writeAt { port := 17, world := world } a 4 data.toNat →
      d.resp.err = false →
      exec (.zdpWrite4 false inc world addr data) s = .next { s with
        dev := ({ d.zAnswer zOK a d.resp.val.toNat with zdp := { (d.zAnswer zOK a d.resp.val.toNat).zdp with next := a + 4 } } : Dev) }) ∧
    (∀ (inc : Bool) (world addr a : Nat) (data : Word) (d : Dev), wellFormed (.zdpWrite4 false inc world addr data) = true →
      s.dev.domOn 1 = true →
      a = s.dev.zAddr inc addr →
      world ≠ 3 →
      a % 4 = 0 →
      s.dev.domOn 31 = true →
      s.dev.unlockReach world = true →
      s.dev.windowGranted a = true →
      d = s.dev.writeAt { port := 17, world := world } a 4 data.toNat →
      d.resp.err = true →
      exec (.zdpWrite4 false inc world addr data) s = .next { s with
        dev := d.zAnswer zError a 0 }) ∧
    (∀ (peek inc : Bool) (world addr a : Nat) (data : Word), wellFormed (.zdpWrite4 peek inc world addr data) = true →
      s.dev.domOn 1 = true →
      a = s.dev.zAddr inc addr →
      peek = true ∨ world = 3 ∨ a % 4 ≠ 0 →
      exec (.zdpWrite4 peek inc world addr data) s = .next { s with
        dev := s.dev.zAnswer zBadOp a 0 }) ∧
    (∀ (inc : Bool) (world addr a : Nat) (data : Word), wellFormed (.zdpWrite4 false inc world addr data) = true →
      s.dev.domOn 1 = true →
      a = s.dev.zAddr inc addr →
      world ≠ 3 →
      a % 4 = 0 →
      s.dev.domOn 31 = false →
      exec (.zdpWrite4 false inc world addr data) s = .next { s with
        dev := s.dev.zAnswer zNoPwr a 0 }) ∧
    (∀ (inc : Bool) (world addr a : Nat) (data : Word), wellFormed (.zdpWrite4 false inc world addr data) = true →
      s.dev.domOn 1 = true →
      a = s.dev.zAddr inc addr →
      world ≠ 3 →
      a % 4 = 0 →
      s.dev.domOn 31 = true →
      s.dev.unlockReach world = false ∨ s.dev.windowGranted a = false →
      exec (.zdpWrite4 false inc world addr data) s = .next { s with
        dev := s.dev.zAnswer zDenied a 0 }) ∧
    (∀ (peek inc : Bool) (world addr a : Nat) (d : Dev), wellFormed (.zdpRead8 peek inc world addr) = true →
      s.dev.domOn 1 = true →
      a = s.dev.zAddr inc addr →
      world ≠ 3 →
      a % 8 = 0 →
      s.dev.domOn 31 = true →
      s.dev.unlockReach world = true →
      s.dev.windowGranted a = true →
      d = s.dev.readAt { port := 17, world := world, peek := peek } a 8 →
      d.resp.err = false →
      exec (.zdpRead8 peek inc world addr) s = .next { s with
        dev := ({ d.zAnswer zOK a d.resp.val.toNat with zdp := { (d.zAnswer zOK a d.resp.val.toNat).zdp with next := a + 8 } } : Dev) }) ∧
    (∀ (peek inc : Bool) (world addr a : Nat) (d : Dev), wellFormed (.zdpRead8 peek inc world addr) = true →
      s.dev.domOn 1 = true →
      a = s.dev.zAddr inc addr →
      world ≠ 3 →
      a % 8 = 0 →
      s.dev.domOn 31 = true →
      s.dev.unlockReach world = true →
      s.dev.windowGranted a = true →
      d = s.dev.readAt { port := 17, world := world, peek := peek } a 8 →
      d.resp.err = true →
      exec (.zdpRead8 peek inc world addr) s = .next { s with
        dev := d.zAnswer zError a 0 }) ∧
    (∀ (peek inc : Bool) (world addr a : Nat), wellFormed (.zdpRead8 peek inc world addr) = true →
      s.dev.domOn 1 = true →
      a = s.dev.zAddr inc addr →
      world = 3 ∨ a % 8 ≠ 0 →
      exec (.zdpRead8 peek inc world addr) s = .next { s with
        dev := s.dev.zAnswer zBadOp a 0 }) ∧
    (∀ (peek inc : Bool) (world addr a : Nat), wellFormed (.zdpRead8 peek inc world addr) = true →
      s.dev.domOn 1 = true →
      a = s.dev.zAddr inc addr →
      world ≠ 3 →
      a % 8 = 0 →
      s.dev.domOn 31 = false →
      exec (.zdpRead8 peek inc world addr) s = .next { s with
        dev := s.dev.zAnswer zNoPwr a 0 }) ∧
    (∀ (peek inc : Bool) (world addr a : Nat), wellFormed (.zdpRead8 peek inc world addr) = true →
      s.dev.domOn 1 = true →
      a = s.dev.zAddr inc addr →
      world ≠ 3 →
      a % 8 = 0 →
      s.dev.domOn 31 = true →
      s.dev.unlockReach world = false ∨ s.dev.windowGranted a = false →
      exec (.zdpRead8 peek inc world addr) s = .next { s with
        dev := s.dev.zAnswer zDenied a 0 }) ∧
    (∀ (inc : Bool) (world addr a : Nat) (data : DWord) (d : Dev), wellFormed (.zdpWrite8 false inc world addr data) = true →
      s.dev.domOn 1 = true →
      a = s.dev.zAddr inc addr →
      world ≠ 3 →
      a % 8 = 0 →
      s.dev.domOn 31 = true →
      s.dev.unlockReach world = true →
      s.dev.windowGranted a = true →
      d = s.dev.writeAt { port := 17, world := world } a 8 data.toNat →
      d.resp.err = false →
      exec (.zdpWrite8 false inc world addr data) s = .next { s with
        dev := ({ d.zAnswer zOK a d.resp.val.toNat with zdp := { (d.zAnswer zOK a d.resp.val.toNat).zdp with next := a + 8 } } : Dev) }) ∧
    (∀ (inc : Bool) (world addr a : Nat) (data : DWord) (d : Dev), wellFormed (.zdpWrite8 false inc world addr data) = true →
      s.dev.domOn 1 = true →
      a = s.dev.zAddr inc addr →
      world ≠ 3 →
      a % 8 = 0 →
      s.dev.domOn 31 = true →
      s.dev.unlockReach world = true →
      s.dev.windowGranted a = true →
      d = s.dev.writeAt { port := 17, world := world } a 8 data.toNat →
      d.resp.err = true →
      exec (.zdpWrite8 false inc world addr data) s = .next { s with
        dev := d.zAnswer zError a 0 }) ∧
    (∀ (peek inc : Bool) (world addr a : Nat) (data : DWord), wellFormed (.zdpWrite8 peek inc world addr data) = true →
      s.dev.domOn 1 = true →
      a = s.dev.zAddr inc addr →
      peek = true ∨ world = 3 ∨ a % 8 ≠ 0 →
      exec (.zdpWrite8 peek inc world addr data) s = .next { s with
        dev := s.dev.zAnswer zBadOp a 0 }) ∧
    (∀ (inc : Bool) (world addr a : Nat) (data : DWord), wellFormed (.zdpWrite8 false inc world addr data) = true →
      s.dev.domOn 1 = true →
      a = s.dev.zAddr inc addr →
      world ≠ 3 →
      a % 8 = 0 →
      s.dev.domOn 31 = false →
      exec (.zdpWrite8 false inc world addr data) s = .next { s with
        dev := s.dev.zAnswer zNoPwr a 0 }) ∧
    (∀ (inc : Bool) (world addr a : Nat) (data : DWord), wellFormed (.zdpWrite8 false inc world addr data) = true →
      s.dev.domOn 1 = true →
      a = s.dev.zAddr inc addr →
      world ≠ 3 →
      a % 8 = 0 →
      s.dev.domOn 31 = true →
      s.dev.unlockReach world = false ∨ s.dev.windowGranted a = false →
      exec (.zdpWrite8 false inc world addr data) s = .next { s with
        dev := s.dev.zAnswer zDenied a 0 }) ∧
    (∀ (word : Nat) (data : DWord), wellFormed (.zdpMbwr word data) = true →
      s.dev.domOn 1 = true →
      s.dev.lcs.mbBusy = none →
      exec (.zdpMbwr word data) s = .next { s with
        dev := ({ s.dev with lcs := { s.dev.lcs with mbi := mbPut s.dev.lcs.mbi (4 * word) (leBytes 4 data.toNat) } } : Dev).zAnswer zOK (4 * word) 0 }) ∧
    (∀ (word : Nat) (data : DWord), wellFormed (.zdpMbwr word data) = true →
      s.dev.domOn 1 = true →
      s.dev.lcs.mbBusy.isSome = true →
      exec (.zdpMbwr word data) s = .next { s with
        dev := s.dev.zAnswer zMbFull (4 * word) 0 }) ∧
    (∀ (word : Nat), wellFormed (.zdpMbrd word) = true →
      s.dev.domOn 1 = true →
      exec (.zdpMbrd word) s = .next { s with
        dev := s.dev.zAnswer zOK (4 * word) (leNat ((List.range 4).map (fun i => SMap.get (fun _ => 0) s.dev.lcs.mbo (4 * word + i)))) }) ∧
    (∀ (code : Nat), wellFormed (.zdpMbgo code) = true →
      s.dev.domOn 1 = true →
      s.dev.lcs.mbBusy.isSome = true →
      exec (.zdpMbgo code) s = .next { s with
        dev := s.dev.zAnswer zMbFull 0 0 }) ∧
    (∀ (code : Nat), wellFormed (.zdpMbgo code) = true →
      s.dev.domOn 1 = true →
      s.dev.lcs.mbBusy = none →
      s.dev.fg F.SVP_STAT_DOWN 0 = 1 →
      exec (.zdpMbgo code) s = .next { s with
        dev := (s.dev.mbReply code stSvpDown []).zAnswer zOK 0 0 }) ∧
    (∀ (code : Nat), wellFormed (.zdpMbgo code) = true →
      s.dev.domOn 1 = true →
      s.dev.lcs.mbBusy = none →
      s.dev.fg F.SVP_STAT_DOWN 0 ≠ 1 →
      s.dev.svp.restarting = true →
      exec (.zdpMbgo code) s = .next { s with
        dev := (s.dev.mbReply code stSvpRestart []).zAnswer zOK 0 0 }) ∧
    (∀ (code : Nat), wellFormed (.zdpMbgo code) = true →
      s.dev.domOn 1 = true →
      s.dev.lcs.mbBusy = none →
      s.dev.fg F.SVP_STAT_DOWN 0 ≠ 1 →
      s.dev.svp.restarting = false →
      code = 0 ∨ 5 < code →
      exec (.zdpMbgo code) s = .next { s with
        dev := (s.dev.mbReply code stBadOpcode []).zAnswer zOK 0 0 }) ∧
    (∀ (code : Nat), wellFormed (.zdpMbgo code) = true →
      s.dev.domOn 1 = true →
      s.dev.lcs.mbBusy = none →
      s.dev.fg F.SVP_STAT_DOWN 0 ≠ 1 →
      s.dev.svp.restarting = false →
      1 ≤ code →
      code ≤ 4 →
      exec (.zdpMbgo code) s = .next { s with
        dev := ({ s.dev with lcs := { s.dev.lcs with mbBusy := some code, mboWait := false } } : Dev).zAnswer zOK 0 0 })

/-- R440, R441 and R238 to R240: messages of the debug mailbox. The challenge is a free value (Config.random128). -/
def Obligations.DebugMessagesAct : Prop :=
  ∀ (s : State),
    (
      s.dev.domOn 1 = true →
      s.dev.lcs.mbBusy = some 1 →
      s.dev.fwRuns = true ∨ s.dev.romAnswers = true →
      exec .ident s = .next { s with
        dev := s.dev.mbReply 1 stOK (leBytes 8 s.dev.lcs.dieId.toNat ++ leBytes 1 s.dev.lcs.state ++ leBytes 1 s.dev.mode ++ leBytes 4 (s.dev.rd .SVP_FWVER 0).toNat) }) ∧
    (
      s.dev.lcs.mbBusy ≠ some 1 →
      exec .ident s = .next s) ∧
    (
      s.dev.lcs.mbBusy ≠ some 2 →
      exec .challenge s = .next s) ∧
    (
      s.dev.lcs.mbBusy ≠ some 3 →
      exec .unlock s = .next s) ∧
    (
      s.dev.lcs.mbBusy ≠ some 4 →
      exec .close s = .next s) ∧
    (∀ (level : Nat), 
      s.dev.domOn 1 = true →
      s.dev.lcs.mbBusy = some 2 →
      s.dev.fwRuns = true ∨ s.dev.romAnswers = true →
      debugGrant s.dev.lcs.state s.dev.mode ≠ 0 →
      level = leNat (s.dev.mbiBytes 0 1) →
      s.dev.lockedOut = true →
      exec .challenge s = .next { s with
        dev := s.dev.mbReply 2 stBusy [] }) ∧
    (∀ (level : Nat), 
      s.dev.domOn 1 = true →
      s.dev.lcs.mbBusy = some 2 →
      s.dev.fwRuns = true ∨ s.dev.romAnswers = true →
      debugGrant s.dev.lcs.state s.dev.mode ≠ 0 →
      level = leNat (s.dev.mbiBytes 0 1) →
      s.dev.lockedOut = false →
      level = 0 ∨ 3 < level →
      exec .challenge s = .next { s with
        dev := s.dev.mbReply 2 stBadParam [] }) ∧
    (∀ (level : Nat), 
      s.dev.domOn 1 = true →
      s.dev.lcs.mbBusy = some 2 →
      s.dev.fwRuns = true ∨ s.dev.romAnswers = true →
      debugGrant s.dev.lcs.state s.dev.mode ≠ 0 →
      level = leNat (s.dev.mbiBytes 0 1) →
      s.dev.lockedOut = false →
      1 ≤ level →
      level ≤ 3 →
      s.dev.levelMost < level →
      exec .challenge s = .next { s with
        dev := s.dev.mbReply 2 stDenied [] }) ∧
    (∀ (level : Nat) (n : BitVec 128), 
      s.dev.domOn 1 = true →
      s.dev.lcs.mbBusy = some 2 →
      s.dev.fwRuns = true ∨ s.dev.romAnswers = true →
      debugGrant s.dev.lcs.state s.dev.mode ≠ 0 →
      level = leNat (s.dev.mbiBytes 0 1) →
      s.dev.lockedOut = false →
      1 ≤ level →
      level ≤ 3 →
      level ≤ s.dev.levelMost →
      n = Config.random128 s.dev.freeCtr →
      exec .challenge s = .next { s with
        dev := (({ s.dev with lcs := { s.dev.lcs with chal := some (n, s.dev.clk) } } : Dev).draw).mbReply 2 stOK (leBytes 8 s.dev.lcs.dieId.toNat ++ leBytes 16 n.toNat) }) ∧
    (∀ (level : Nat) (d : Dev), 
      s.dev.domOn 1 = true →
      s.dev.lcs.mbBusy = some 3 →
      s.dev.fwRuns = true ∨ s.dev.romAnswers = true →
      debugGrant s.dev.lcs.state s.dev.mode ≠ 0 →
      level = objNat (s.dev.mbiBytes 0 256) 0xCD 1 →
      d = { s.dev with lcs := { s.dev.lcs with chal := none } } →
      level = 0 ∨ 3 < level →
      exec .unlock s = .next { s with
        dev := d.mbReply 3 stBadParam [] }) ∧
    (∀ (level : Nat) (d : Dev), 
      s.dev.domOn 1 = true →
      s.dev.lcs.mbBusy = some 3 →
      s.dev.fwRuns = true ∨ s.dev.romAnswers = true →
      debugGrant s.dev.lcs.state s.dev.mode ≠ 0 →
      level = objNat (s.dev.mbiBytes 0 256) 0xCD 1 →
      d = { s.dev with lcs := { s.dev.lcs with chal := none } } →
      1 ≤ level →
      level ≤ 3 →
      d.levelMost < level ∨ (d.lcs.state = 2 ∧ level = 2 ∧ d.fg F.LCS_DBG_UNLOCK 0 = 0) →
      exec .unlock s = .next { s with
        dev := d.mbReply 3 stDenied [] }) ∧
    (∀ (level : Nat) (d : Dev), 
      s.dev.domOn 1 = true →
      s.dev.lcs.mbBusy = some 3 →
      s.dev.fwRuns = true ∨ s.dev.romAnswers = true →
      debugGrant s.dev.lcs.state s.dev.mode ≠ 0 →
      level = objNat (s.dev.mbiBytes 0 256) 0xCD 1 →
      d = { s.dev with lcs := { s.dev.lcs with chal := none } } →
      1 ≤ level →
      level ≤ 3 →
      ¬ (d.levelMost < level ∨ (d.lcs.state = 2 ∧ level = 2 ∧ d.fg F.LCS_DBG_UNLOCK 0 = 0)) →
      s.dev.validChal = none →
      exec .unlock s = .next { s with
        dev := d.mbRefusal stAuthFail }) ∧
    (∀ (level : Nat) (d : Dev) (n : BitVec 128) (k : Nat), 
      s.dev.domOn 1 = true →
      s.dev.lcs.mbBusy = some 3 →
      s.dev.fwRuns = true ∨ s.dev.romAnswers = true →
      debugGrant s.dev.lcs.state s.dev.mode ≠ 0 →
      level = objNat (s.dev.mbiBytes 0 256) 0xCD 1 →
      d = { s.dev with lcs := { s.dev.lcs with chal := none } } →
      1 ≤ level →
      level ≤ 3 →
      ¬ (d.levelMost < level ∨ (d.lcs.state = 2 ∧ level = 2 ∧ d.fg F.LCS_DBG_UNLOCK 0 = 0)) →
      s.dev.validChal = some n →
      d.envelopeWith (debugSlots d.lcs.state level) (leBytes 1 level) (leBytes 16 n.toNat) (s.dev.mbiBytes 0 256) = some k →
      exec .unlock s = .next { s with
        dev := d.mbRefusal k }) ∧
    (∀ (level : Nat) (d : Dev) (n : BitVec 128), 
      s.dev.domOn 1 = true →
      s.dev.lcs.mbBusy = some 3 →
      s.dev.fwRuns = true ∨ s.dev.romAnswers = true →
      debugGrant s.dev.lcs.state s.dev.mode ≠ 0 →
      level = objNat (s.dev.mbiBytes 0 256) 0xCD 1 →
      d = { s.dev with lcs := { s.dev.lcs with chal := none } } →
      1 ≤ level →
      level ≤ 3 →
      ¬ (d.levelMost < level ∨ (d.lcs.state = 2 ∧ level = 2 ∧ d.fg F.LCS_DBG_UNLOCK 0 = 0)) →
      s.dev.validChal = some n →
      d.envelopeWith (debugSlots d.lcs.state level) (leBytes 1 level) (leBytes 16 n.toNat) (s.dev.mbiBytes 0 256) = none →
      d.stubRuns = false →
      exec .unlock s = .next { s with
        dev := d.openUnlock level }) ∧
    (∀ (level : Nat) (n : BitVec 128), 
      s.dev.domOn 1 = true →
      s.dev.fwRuns = false →
      s.dev.romAnswers = false →
      s.dev.stubRuns = true →
      s.dev.lcs.mbBusy = some 2 →
      level = leNat (s.dev.mbiBytes 0 1) →
      s.dev.lockedOut = false →
      1 ≤ level →
      level ≤ 3 →
      n = Config.random128 s.dev.freeCtr →
      exec .challenge s = .next { s with
        dev := (({ s.dev with lcs := { s.dev.lcs with chal := some (n, s.dev.clk) } } : Dev).draw).mbReply 2 stOK (leBytes 8 s.dev.lcs.dieId.toNat ++ leBytes 16 n.toNat) }) ∧
    (∀ (level : Nat) (d : Dev) (n : BitVec 128), 
      s.dev.domOn 1 = true →
      s.dev.fwRuns = false →
      s.dev.romAnswers = false →
      s.dev.stubRuns = true →
      s.dev.lcs.mbBusy = some 3 →
      level = objNat (s.dev.mbiBytes 0 256) 0xCD 1 →
      d = { s.dev with lcs := { s.dev.lcs with chal := none } } →
      1 ≤ level →
      level ≤ 3 →
      s.dev.validChal = some n →
      d.envelopeWith (debugSlots d.lcs.state level) (leBytes 1 level) (leBytes 16 n.toNat) (s.dev.mbiBytes 0 256) = none →
      exec .unlock s = .next { s with
        dev := ({ d with lcs := { d.lcs with refusals := 0 } } : Dev).mbReply 3 stOK (d.identBytes ++ leBytes 4 (d.rd .LCS_BOOT 0).toNat) }) ∧
    (
      s.dev.domOn 1 = true →
      s.dev.fwRuns = false →
      s.dev.romAnswers = false →
      s.dev.stubRuns = true →
      s.dev.lcs.mbBusy = some 1 →
      exec .ident s = .next { s with
        dev := s.dev.mbReply 1 stDenied [] }) ∧
    (
      s.dev.domOn 1 = true →
      s.dev.fwRuns = false →
      s.dev.romAnswers = false →
      s.dev.stubRuns = true →
      s.dev.lcs.mbBusy = some 4 →
      exec .close s = .next { s with
        dev := s.dev.mbReply 4 stDenied [] }) ∧
    (
      s.dev.domOn 1 = true →
      s.dev.lcs.mbBusy = some 4 →
      s.dev.fwRuns = true ∨ s.dev.romAnswers = true →
      debugGrant s.dev.lcs.state s.dev.mode ≠ 0 →
      exec .close s = .next { s with
        dev := s.dev.endUnlock.mbReply 4 stOK [] }) ∧
    (∀ (n : BitVec 128) (t : Nat), 
      s.dev.lcs.chal = some (n, t) →
      exec .challengeExpiry s = .next { s with
        dev := 
         (let d := s.dev.moveClk (t + 60 * nsPerSec)
         { d with lcs := { d.lcs with chal := none } }) }) ∧
    (
      s.dev.lcs.chal = none →
      exec .challengeExpiry s = .next s) ∧
    (∀ (t : Nat), 
      s.dev.lcs.lockAt = some t →
      exec .lockoutEnd s = .next { s with
        dev := 
         (let d := s.dev.moveClk (t + 60 * nsPerSec)
         { d with lcs := { d.lcs with lockAt := none, refusals := 0 } }) }) ∧
    (
      s.dev.lcs.lockAt = none →
      exec .lockoutEnd s = .next s) ∧
    (∀ (e slot k n : Nat), 
      s.dev.domOn 1 = true →
      s.dev.lcs.mbBusy = some 5 →
      s.dev.fwRuns = true ∨ s.dev.romAnswers = true →
      debugGrant s.dev.lcs.state s.dev.mode ≠ 0 →
      leNat (s.dev.mbiBytes 0 1) = 1 →
      e = s.dev.mbArg 0 →
      e < 64 →
      s.dev.domOn (9 + e / 8) = true →
      s.dev.unlockReach (s.dev.engWorld e) = true →
      slot = s.dev.mbArg 1 →
      k = leNat (s.dev.mbiBytes 6 2) →
      n = s.dev.mbArg 4 →
      slot < 2 →
      k < 8192 →
      n < 2 →
      exec .engineEngbrk s = .next { s with
        dev := ((s.dev.fs F.PE_BRK_ADDR (2 * e + slot) k).fs F.PE_BRK_EN (2 * e + slot) n).mbReply 5 stOK [] }) ∧
    (∀ (e slot k n : Nat), 
      s.dev.domOn 1 = true →
      s.dev.lcs.mbBusy = some 5 →
      s.dev.fwRuns = true ∨ s.dev.romAnswers = true →
      debugGrant s.dev.lcs.state s.dev.mode ≠ 0 →
      leNat (s.dev.mbiBytes 0 1) = 1 →
      e = s.dev.mbArg 0 →
      e < 64 →
      s.dev.domOn (9 + e / 8) = true →
      s.dev.unlockReach (s.dev.engWorld e) = true →
      slot = s.dev.mbArg 1 →
      k = leNat (s.dev.mbiBytes 6 2) →
      n = s.dev.mbArg 4 →
      2 ≤ slot ∨ 8192 ≤ k ∨ 2 ≤ n →
      exec .engineEngbrk s = .next { s with
        dev := s.dev.mbReply 5 stBadParam [] }) ∧
    (∀ (e : Nat), 
      s.dev.domOn 1 = true →
      s.dev.lcs.mbBusy = some 5 →
      s.dev.fwRuns = true ∨ s.dev.romAnswers = true →
      debugGrant s.dev.lcs.state s.dev.mode ≠ 0 →
      leNat (s.dev.mbiBytes 0 1) = 3 →
      e = s.dev.mbArg 0 →
      e < 64 →
      s.dev.domOn (9 + e / 8) = true →
      s.dev.unlockReach (s.dev.engWorld e) = true →
      exec .engineRelease s = .next { s with
        dev := (s.dev.each (onesBelow 8 (s.dev.mbArg 1)) (fun x c => x.releaseCtx e c)).mbReply 5 stOK [] }) ∧
    (
      s.dev.domOn 1 = true →
      s.dev.lcs.mbBusy = some 5 →
      s.dev.fwRuns = true ∨ s.dev.romAnswers = true →
      debugGrant s.dev.lcs.state s.dev.mode ≠ 0 →
      leNat (s.dev.mbiBytes 0 1) = 1 →
      64 ≤ s.dev.mbArg 0 →
      exec .engineEngbrk s = .next { s with
        dev := s.dev.mbReply 5 stBadParam [] }) ∧
    (
      s.dev.domOn 1 = true →
      s.dev.lcs.mbBusy = some 5 →
      s.dev.fwRuns = true ∨ s.dev.romAnswers = true →
      debugGrant s.dev.lcs.state s.dev.mode ≠ 0 →
      leNat (s.dev.mbiBytes 0 1) = 1 →
      s.dev.mbArg 0 < 64 →
      s.dev.domOn (9 + s.dev.mbArg 0 / 8) = false →
      exec .engineEngbrk s = .next { s with
        dev := s.dev.mbReply 5 stNotReady [] }) ∧
    (
      s.dev.domOn 1 = true →
      s.dev.lcs.mbBusy = some 5 →
      s.dev.fwRuns = true ∨ s.dev.romAnswers = true →
      debugGrant s.dev.lcs.state s.dev.mode ≠ 0 →
      leNat (s.dev.mbiBytes 0 1) = 1 →
      s.dev.mbArg 0 < 64 →
      s.dev.domOn (9 + s.dev.mbArg 0 / 8) = true →
      s.dev.unlockReach (s.dev.engWorld (s.dev.mbArg 0)) = false →
      exec .engineEngbrk s = .next { s with
        dev := s.dev.mbReply 5 stDenied [] }) ∧
    (
      s.dev.domOn 1 = true →
      s.dev.lcs.mbBusy = some 5 →
      s.dev.fwRuns = true ∨ s.dev.romAnswers = true →
      debugGrant s.dev.lcs.state s.dev.mode ≠ 0 →
      leNat (s.dev.mbiBytes 0 1) = 3 →
      64 ≤ s.dev.mbArg 0 →
      exec .engineRelease s = .next { s with
        dev := s.dev.mbReply 5 stBadParam [] }) ∧
    (
      s.dev.domOn 1 = true →
      s.dev.lcs.mbBusy = some 5 →
      s.dev.fwRuns = true ∨ s.dev.romAnswers = true →
      debugGrant s.dev.lcs.state s.dev.mode ≠ 0 →
      leNat (s.dev.mbiBytes 0 1) = 3 →
      s.dev.mbArg 0 < 64 →
      s.dev.domOn (9 + s.dev.mbArg 0 / 8) = false →
      exec .engineRelease s = .next { s with
        dev := s.dev.mbReply 5 stNotReady [] }) ∧
    (
      s.dev.domOn 1 = true →
      s.dev.lcs.mbBusy = some 5 →
      s.dev.fwRuns = true ∨ s.dev.romAnswers = true →
      debugGrant s.dev.lcs.state s.dev.mode ≠ 0 →
      leNat (s.dev.mbiBytes 0 1) = 3 →
      s.dev.mbArg 0 < 64 →
      s.dev.domOn (9 + s.dev.mbArg 0 / 8) = true →
      s.dev.unlockReach (s.dev.engWorld (s.dev.mbArg 0)) = false →
      exec .engineRelease s = .next { s with
        dev := s.dev.mbReply 5 stDenied [] }) ∧
    (
      s.dev.domOn 1 = true →
      s.dev.lcs.mbBusy = some 5 →
      s.dev.fwRuns = true ∨ s.dev.romAnswers = true →
      debugGrant s.dev.lcs.state s.dev.mode ≠ 0 →
      leNat (s.dev.mbiBytes 0 1) = 2 →
      s.dev.mode ≠ 4 →
      exec .engineStep s = .next { s with
        dev := s.dev.mbReply 5 stBadMode [] }) ∧
    (∀ (hs : List Nat), 
      s.dev.domOn 1 = true →
      s.dev.lcs.mbBusy = some 5 →
      s.dev.fwRuns = true ∨ s.dev.romAnswers = true →
      debugGrant s.dev.lcs.state s.dev.mode ≠ 0 →
      leNat (s.dev.mbiBytes 0 1) = 2 →
      s.dev.mode = 4 →
      hs = onesBelow 8 (s.dev.mbArg 0) →
      hs.any (fun h => !s.dev.unlockReach (s.dev.hiveWorld h)) = true →
      exec .engineStep s = .next { s with
        dev := s.dev.mbReply 5 stDenied [] }) ∧
    (∀ (hs : List Nat), 
      s.dev.domOn 1 = true →
      s.dev.lcs.mbBusy = some 5 →
      s.dev.fwRuns = true ∨ s.dev.romAnswers = true →
      debugGrant s.dev.lcs.state s.dev.mode ≠ 0 →
      leNat (s.dev.mbiBytes 0 1) = 2 →
      s.dev.mode = 4 →
      hs = onesBelow 8 (s.dev.mbArg 0) →
      hs.any (fun h => !s.dev.unlockReach (s.dev.hiveWorld h)) = false →
      exec .engineStep s = .next { s with
        dev := (s.dev.each hs (fun x h => x.onHive h (fun y => { y with stepStart := some (s.dev.tickIn20us, leNat (s.dev.mbiBytes 6 2)) }))).mbReply 5 stAccepted [] })

/-- R449 to R456, R463 to R471: debug registers, trace unit, health monitors, error logs. -/
def Obligations.DebugTraceAndHealthAct : Prop :=
  ∀ (s : State),
    (∀ (rq : Req) (m : Nat) (v : Word), wellFormed (.dbgCreqStop rq m v) = true →
      s.dev.reaches rq 31 = true →
      (s.dev.dbgAdmits rq (s.dev.core m).world && true) = true →
      s.dev.domOn (18 + m) = true →
      v.getLsbD 0 = true →
      exec (.dbgCreqStop rq m v) s = .next { s with
        dev := (s.dev.fs F.DBG_CSTAT_HALTREQ m 1).ok 0 }) ∧
    (∀ (rq : Req) (m : Nat) (v : Word), wellFormed (.dbgCreqStop rq m v) = true →
      s.dev.reaches rq 31 = true →
      (s.dev.dbgAdmits rq (s.dev.core m).world && true) = true →
      s.dev.domOn (18 + m) = true →
      v.getLsbD 0 = false →
      exec (.dbgCreqStop rq m v) s = .next { s with
        dev := s.dev.ok 0 }) ∧
    (∀ (rq : Req) (m : Nat) (v : Word), wellFormed (.dbgDtxWrite rq m v) = true →
      s.dev.reaches rq 31 = true →
      (s.dev.dbgAdmits rq (s.dev.core m).world && !rq.debug) = true →
      s.dev.domOn (18 + m) = true →
      rq.ofCore m = true →
      exec (.dbgDtxWrite rq m v) s = .next { s with
        dev := (((s.dev.cond (decide (s.dev.fg F.DBG_DCCSTAT_DTXF m = 1)) (fun x => x.fs F.DBG_DCCSTAT_LOST m 1)).wr .DBG_DTX m v).fs F.DBG_DCCSTAT_DTXF m 1).ok 0 }) ∧
    (∀ (rq : Req) (m : Nat) (v : Word), wellFormed (.dbgDtxWrite rq m v) = true →
      s.dev.reaches rq 31 = true →
      (s.dev.dbgAdmits rq (s.dev.core m).world && !rq.debug) = true →
      s.dev.domOn (18 + m) = true →
      rq.ofCore m = false →
      exec (.dbgDtxWrite rq m v) s = .next { s with
        dev := ((s.dev.cond (decide (s.dev.fg F.DBG_DCCSTAT_DTXF m = 1)) (fun x => x.fs F.DBG_DCCSTAT_LOST m 1)).wr .DBG_DTX m v).ok 0 }) ∧
    (∀ (rq : Req) (m : Nat) (v : Word), wellFormed (.dbgDrxWrite rq m v) = true →
      s.dev.reaches rq 31 = true →
      (s.dev.dbgAdmits rq (s.dev.core m).world && (rq.svp || rq.debug)) = true →
      s.dev.domOn (18 + m) = true →
      rq.debug = true →
      exec (.dbgDrxWrite rq m v) s = .next { s with
        dev := ((((s.dev.cond (decide (s.dev.fg F.DBG_DCCSTAT_DRXF m = 1)) (fun x => x.fs F.DBG_DCCSTAT_LOST m 1)).wr .DBG_DRX m v).fs F.DBG_DCCSTAT_DRXF m 1).setEvtBit 257 F.DBG_EVT_DRX 0 m).ok 0 }) ∧
    (∀ (rq : Req) (m : Nat) (v : Word), wellFormed (.dbgDrxWrite rq m v) = true →
      s.dev.reaches rq 31 = true →
      (s.dev.dbgAdmits rq (s.dev.core m).world && (rq.svp || rq.debug)) = true →
      s.dev.domOn (18 + m) = true →
      rq.debug = false →
      exec (.dbgDrxWrite rq m v) s = .next { s with
        dev := ((s.dev.cond (decide (s.dev.fg F.DBG_DCCSTAT_DRXF m = 1)) (fun x => x.fs F.DBG_DCCSTAT_LOST m 1)).wr .DBG_DRX m v).ok 0 }) ∧
    (∀ (rq : Req) (m : Nat), wellFormed (.dbgDtxRead rq m) = true →
      s.dev.reaches rq 31 = true →
      (s.dev.dbgAdmits rq (s.dev.core m).world && true) = true →
      s.dev.domOn (18 + m) = true →
      rq.debug = true →
      rq.peek = false →
      exec (.dbgDtxRead rq m) s = .next { s with
        dev := (((s.dev.wr .DBG_DTX m 0).fs F.DBG_DCCSTAT_DTXF m 0).setEvtBit 257 F.DBG_EVT_DTX 0 m).ok (s.dev.rd .DBG_DTX m).toNat }) ∧
    (∀ (rq : Req) (m : Nat), wellFormed (.dbgDtxRead rq m) = true →
      s.dev.reaches rq 31 = true →
      (s.dev.dbgAdmits rq (s.dev.core m).world && true) = true →
      s.dev.domOn (18 + m) = true →
      rq.debug = true →
      rq.peek = true →
      exec (.dbgDtxRead rq m) s = .next { s with
        dev := s.dev.ok (s.dev.rd .DBG_DTX m).toNat }) ∧
    (∀ (rq : Req) (m : Nat), wellFormed (.dbgDtxRead rq m) = true →
      s.dev.reaches rq 31 = true →
      (s.dev.dbgAdmits rq (s.dev.core m).world && true) = true →
      s.dev.domOn (18 + m) = true →
      rq.debug = false →
      exec (.dbgDtxRead rq m) s = .next { s with
        dev := (s.dev.wr .DBG_DTX m 0).ok (s.dev.rd .DBG_DTX m).toNat }) ∧
    (∀ (rq : Req) (m : Nat), wellFormed (.dbgDrxRead rq m) = true →
      s.dev.reaches rq 31 = true →
      (s.dev.dbgAdmits rq (s.dev.core m).world && true) = true →
      s.dev.domOn (18 + m) = true →
      (rq.debug && rq.peek) = false →
      rq.ofCore m = true →
      exec (.dbgDrxRead rq m) s = .next { s with
        dev := ((s.dev.wr .DBG_DRX m 0).fs F.DBG_DCCSTAT_DRXF m 0).ok (s.dev.rd .DBG_DRX m).toNat }) ∧
    (∀ (rq : Req) (m : Nat), wellFormed (.dbgDrxRead rq m) = true →
      s.dev.reaches rq 31 = true →
      (s.dev.dbgAdmits rq (s.dev.core m).world && true) = true →
      s.dev.domOn (18 + m) = true →
      (rq.debug && rq.peek) = false →
      rq.ofCore m = false →
      exec (.dbgDrxRead rq m) s = .next { s with
        dev := (s.dev.wr .DBG_DRX m 0).ok (s.dev.rd .DBG_DRX m).toNat }) ∧
    (∀ (rq : Req) (m : Nat), wellFormed (.dbgDrxRead rq m) = true →
      s.dev.reaches rq 31 = true →
      (s.dev.dbgAdmits rq (s.dev.core m).world && true) = true →
      s.dev.domOn (18 + m) = true →
      (rq.debug && rq.peek) = true →
      exec (.dbgDrxRead rq m) s = .next { s with
        dev := s.dev.ok (s.dev.rd .DBG_DRX m).toNat }) ∧
    (∀ (rq : Req) (v : Word), wellFormed (.trcClear rq v) = true →
      s.dev.reaches rq 31 = true →
      (rq.svp || (rq.debug && (List.range 3).all (fun w => !s.dev.trc.worlds.testBit w || s.dev.unlockReach w))) = true →
      exec (.trcClear rq v) s = .next { s with
        dev := (s.dev.trcCtlWrite (v ||| 8)).ok 0 }) ∧
    (∀ (rq : Req) (m : Nat) (v : Word), wellFormed (.trcSw rq m v) = true →
      s.dev.reaches rq 31 = true →
      rq.ofCore m = true →
      exec (.trcSw rq m v) s = .next { s with
        dev := (s.dev.trcEmit m (s.dev.syncBytes m (s.dev.trcSrc m).pos) (traceHead 9 m :: leBytes 8 v.toNat)).ok 0 }) ∧
    (∀ (rq : Req) (m : Nat) (v : Word), wellFormed (.trcSw rq m v) = true →
      s.dev.reaches rq 31 = true →
      rq.ofCore m = false →
      exec (.trcSw rq m v) s = .next { s with
        dev := s.dev.errResp 27 rq 0x01 (devAddr 27 (0x100 + 4 * m)) (0x100 + 4 * m) }) ∧
    (∀ (n : Nat) (v : BitVec 16), wellFormed (.hltSample n v) = true →
      s.dev.pwr.powered = false →
      exec (.hltSample n v) s = .next s) ∧
    (∀ (n k : Nat) (v : BitVec 16) (d : Dev), wellFormed (.hltSample n v) = true →
      s.dev.pwr.powered = true →
      d = (s.dev.fs F.HLT_MON_VAL_VALUE n (s.dev.monValue n v.toNat)).fs F.HLT_MON_VAL_SAMPLED n (b2n (s.dev.monLive n)) →
      k = (if s.dev.monLive n = true then
        monStage (monKind n) (s.dev.fg F.HLT_MON_VAL_STATE n) (d.monMeasure n (s.dev.monValue n v.toNat))
          (monThreshold n (d.fg F.HLT_MON_THRESH_WARN n)) (monThreshold n (d.fg F.HLT_MON_THRESH_ALARM n)) else 0) →
      12 ≤ n →
      exec (.hltSample n v) s = .next { s with
        dev := d.monChange n (s.dev.fg F.HLT_MON_VAL_STATE n) k (s.dev.monValue n v.toNat) }) ∧
    (∀ (n k : Nat) (v : BitVec 16) (d : Dev), wellFormed (.hltSample n v) = true →
      s.dev.pwr.powered = true →
      d = (s.dev.fs F.HLT_MON_VAL_VALUE n (s.dev.monValue n v.toNat)).fs F.HLT_MON_VAL_SAMPLED n (b2n (s.dev.monLive n)) →
      k = (if s.dev.monLive n = true then
        monStage (monKind n) (s.dev.fg F.HLT_MON_VAL_STATE n) (d.monMeasure n (s.dev.monValue n v.toNat))
          (monThreshold n (d.fg F.HLT_MON_THRESH_WARN n)) (monThreshold n (d.fg F.HLT_MON_THRESH_ALARM n)) else 0) →
      n < 12 →
      exec (.hltSample n v) s = .next { s with
        dev := ((d.monChange n (s.dev.fg F.HLT_MON_VAL_STATE n) k (s.dev.monValue n v.toNat)).tjUpdate).otSample n (s.dev.monValue n v.toNat) }) ∧
    (∀ (rq : Req) (j : Nat) (v : Word) (d : Dev), wellFormed (.errValidClear rq j v) = true →
      s.dev.reaches rq 28 = true →
      rq.svp = true →
      s.dev.domOn (errDom j) = true →
      d = s.dev.edge (192 + j) (fun x => x.fs F.ERR_STAT_IEN j (bits v.toNat 2 2)) →
      exec (.errValidClear rq j v) s = .next { s with
        dev := (if v.getLsbD 0 then d.fs F.ERR_STAT_VALID j 0 else d).ok 0 }) ∧
    (∀ (rq : Req) (j : Nat) (v : Word) (d : Dev), wellFormed (.errValidClear rq j v) = true →
      s.dev.reaches rq 28 = true →
      rq.svp = false →
      (decide (32 ≤ j) && decide (j < 40) && rq.ofCore (j - 32)) = true →
      s.dev.domOn (errDom j) = true →
      d = s.dev →
      exec (.errValidClear rq j v) s = .next { s with
        dev := (if v.getLsbD 0 then d.fs F.ERR_STAT_VALID j 0 else d).ok 0 }) ∧
    (∀ (rq : Req) (j : Nat) (v : Word), wellFormed (.errValidClear rq j v) = true →
      s.dev.reaches rq 28 = true →
      rq.svp = true →
      s.dev.domOn (errDom j) = false →
      exec (.errValidClear rq j v) s = .next { s with
        dev := s.dev.ok 0 })

/-- R2 to R5, R34, R373: accesses of registers and windows. -/
def Obligations.RegisterAccessesAct : Prop :=
  ∀ (s : State),
    (∀ (rq : Req) (addr b off i : Nat) (r : RName) (d : Dev) (h : RName), wellFormed (.reg64LoRead rq addr) = true →
      target addr = .dev b off →
      s.dev.reach rq b off 4 addr = .ok (r, i) →
      d = s.dev.regSync r i (r.clears .rc) →
      d.mayRead rq r i = true →
      r ∉ [RName.IC_CLAIM, .IC_QCLAIM, .DBG_DTX, .DBG_DRX, .TMR_CNT] →
      r.hiHalf = some h →
      r.loHalf = none →
      r.mask (fun a => decide (a = .rc)) = 0 →
      s.dev.fenced rq = false →
      exec (.reg64LoRead rq addr) s = .next { s with
        dev := ((d.setLatch rq.port h i (some (BitVec.ofNat 32 (d.regValue rq h i)))).ok (d.regValue rq r i)).regAfter r i (r.clears .rc) }) ∧
    (∀ (rq : Req) (addr b off i : Nat) (r : RName) (d : Dev) (w : Word), wellFormed (.reg64HiRead rq addr) = true →
      target addr = .dev b off →
      s.dev.reach rq b off 4 addr = .ok (r, i) →
      d = s.dev.regSync r i (r.clears .rc) →
      d.mayRead rq r i = true →
      r ∉ [RName.IC_CLAIM, .IC_QCLAIM, .DBG_DTX, .DBG_DRX, .TMR_CNT] →
      r.hiHalf = none →
      r.loHalf.isSome = true →
      r.mask (fun a => decide (a = .rc)) = 0 →
      d.latchOf rq.port r i = some w →
      s.dev.fenced rq = false →
      exec (.reg64HiRead rq addr) s = .next { s with
        dev := ((d.setLatch rq.port r i none).ok w.toNat).regAfter r i (r.clears .rc) }) ∧
    (∀ (rq : Req) (addr b off i : Nat) (r : RName) (d : Dev), wellFormed (.reg64HiRead rq addr) = true →
      target addr = .dev b off →
      s.dev.reach rq b off 4 addr = .ok (r, i) →
      d = s.dev.regSync r i (r.clears .rc) →
      d.mayRead rq r i = true →
      r ∉ [RName.IC_CLAIM, .IC_QCLAIM, .DBG_DTX, .DBG_DRX, .TMR_CNT] →
      r.hiHalf = none →
      r.loHalf.isSome = true →
      r.mask (fun a => decide (a = .rc)) = 0 →
      d.latchOf rq.port r i = none →
      s.dev.fenced rq = false →
      exec (.reg64HiRead rq addr) s = .next { s with
        dev := (d.ok (d.regValue rq r i)).regAfter r i (r.clears .rc) }) ∧
    (∀ (rq : Req) (addr b off i : Nat) (r : RName) (d : Dev) (e : Dev), wellFormed (.readClearsRead rq addr) = true →
      target addr = .dev b off →
      s.dev.reach rq b off 4 addr = .ok (r, i) →
      d = s.dev.regSync r i (r.clears .rc) →
      d.mayRead rq r i = true →
      r ∉ [RName.IC_CLAIM, .IC_QCLAIM, .DBG_DTX, .DBG_DRX, .TMR_CNT] →
      r.hiHalf = none →
      r.loHalf = none →
      e = d.cond (decide (r = .PWR_INPUT) || decide (r = .NOC_MAXWAIT)) Dev.draw →
      r.mask (fun a => decide (a = .rc)) ≠ 0 →
      (rq.debug && rq.peek) = false →
      s.dev.fenced rq = false →
      exec (.readClearsRead rq addr) s = .next { s with
        dev := ((e.wr r i ((e.rd r i &&& ~~~(r.mask (fun a => decide (a = .rc)))) ||| (r.reset i &&& r.mask (fun a => decide (a = .rc))))).ok (d.regValue rq r i)).regAfter r i (r.clears .rc) }) ∧
    (∀ (rq : Req) (addr b off i : Nat) (r : RName) (d : Dev) (e : Dev), wellFormed (.readClearsRead rq addr) = true →
      target addr = .dev b off →
      s.dev.reach rq b off 4 addr = .ok (r, i) →
      d = s.dev.regSync r i (r.clears .rc) →
      d.mayRead rq r i = true →
      r ∉ [RName.IC_CLAIM, .IC_QCLAIM, .DBG_DTX, .DBG_DRX, .TMR_CNT] →
      r.hiHalf = none →
      r.loHalf = none →
      e = d.cond (decide (r = .PWR_INPUT) || decide (r = .NOC_MAXWAIT)) Dev.draw →
      (rq.debug && rq.peek) = true →
      s.dev.fenced rq = false →
      exec (.readClearsRead rq addr) s = .next { s with
        dev := (e.ok (d.regValue rq r i)).regAfter r i (r.clears .rc) }) ∧
    (∀ (rq : Req) (addr b off : Nat) (d : Dev), wellFormed (.reg64LoRead rq addr) = true →
      target addr = .dev b off →
      s.dev.reach rq b off 4 addr = .error d →
      s.dev.fenced rq = false →
      exec (.reg64LoRead rq addr) s = .next { s with
        dev := d }) ∧
    (∀ (rq : Req) (addr b off i : Nat) (r : RName) (d : Dev), wellFormed (.reg64LoRead rq addr) = true →
      target addr = .dev b off →
      s.dev.reach rq b off 4 addr = .ok (r, i) →
      d = s.dev.regSync r i (r.clears .rc) →
      d.mayRead rq r i = false →
      s.dev.fenced rq = false →
      exec (.reg64LoRead rq addr) s = .next { s with
        dev := (d.regRefuse rq b addr off).regAfter r i (r.clears .rc) }) ∧
    (∀ (rq : Req) (addr b off : Nat) (d : Dev), wellFormed (.reg64HiRead rq addr) = true →
      target addr = .dev b off →
      s.dev.reach rq b off 4 addr = .error d →
      s.dev.fenced rq = false →
      exec (.reg64HiRead rq addr) s = .next { s with
        dev := d }) ∧
    (∀ (rq : Req) (addr b off i : Nat) (r : RName) (d : Dev), wellFormed (.reg64HiRead rq addr) = true →
      target addr = .dev b off →
      s.dev.reach rq b off 4 addr = .ok (r, i) →
      d = s.dev.regSync r i (r.clears .rc) →
      d.mayRead rq r i = false →
      s.dev.fenced rq = false →
      exec (.reg64HiRead rq addr) s = .next { s with
        dev := (d.regRefuse rq b addr off).regAfter r i (r.clears .rc) }) ∧
    (∀ (rq : Req) (addr b off : Nat) (d : Dev), wellFormed (.readClearsRead rq addr) = true →
      target addr = .dev b off →
      s.dev.reach rq b off 4 addr = .error d →
      s.dev.fenced rq = false →
      exec (.readClearsRead rq addr) s = .next { s with
        dev := d }) ∧
    (∀ (rq : Req) (addr b off i : Nat) (r : RName) (d : Dev), wellFormed (.readClearsRead rq addr) = true →
      target addr = .dev b off →
      s.dev.reach rq b off 4 addr = .ok (r, i) →
      d = s.dev.regSync r i (r.clears .rc) →
      d.mayRead rq r i = false →
      s.dev.fenced rq = false →
      exec (.readClearsRead rq addr) s = .next { s with
        dev := (d.regRefuse rq b addr off).regAfter r i (r.clears .rc) }) ∧
    (∀ (rq : Req) (addr size b off i : Nat) (v : Word) (r : RName) (d e : Dev), wellFormed (.registerWrite rq addr size v) = true →
      target addr = .dev b off →
      s.dev.reach rq b off size addr = .ok (r, i) →
      d = s.dev.regSync r i (r.clears .w1c) →
      d.mayWrite rq r i v = true →
      e = d.writeTake rq b addr off r i v →
      e.resp.err = false →
      s.dev.fenced rq = false →
      exec (.registerWrite rq addr size v) s = .next { s with
        dev := (e.endLatches r i).regAfter r i (r.clears .w1c) }) ∧
    (∀ (rq : Req) (addr size b off i : Nat) (v : Word) (r : RName) (d e : Dev), wellFormed (.registerWrite rq addr size v) = true →
      target addr = .dev b off →
      s.dev.reach rq b off size addr = .ok (r, i) →
      d = s.dev.regSync r i (r.clears .w1c) →
      d.mayWrite rq r i v = true →
      e = d.writeTake rq b addr off r i v →
      e.resp.err = true →
      s.dev.fenced rq = false →
      exec (.registerWrite rq addr size v) s = .next { s with
        dev := e.regAfter r i (r.clears .w1c) }) ∧
    (∀ (rq : Req) (addr size b off i : Nat) (v : Word) (r : RName) (d : Dev), wellFormed (.registerWrite rq addr size v) = true →
      target addr = .dev b off →
      s.dev.reach rq b off size addr = .ok (r, i) →
      d = s.dev.regSync r i (r.clears .w1c) →
      d.mayWrite rq r i v = false →
      s.dev.fenced rq = false →
      exec (.registerWrite rq addr size v) s = .next { s with
        dev := (d.regRefuse rq b addr off).regAfter r i (r.clears .w1c) }) ∧
    (∀ (rq : Req) (addr size b off : Nat) (v : Word) (d : Dev), wellFormed (.registerWrite rq addr size v) = true →
      target addr = .dev b off →
      s.dev.reach rq b off size addr = .error d →
      s.dev.fenced rq = false →
      exec (.registerWrite rq addr size v) s = .next { s with
        dev := d }) ∧
    (∀ (rq : Req) (addr size h off : Nat) (v : Word), wellFormed (.registerWrite rq addr size v) = true →
      target addr = .hsm h off →
      s.dev.domOn (9 + h) = true →
      wordWidth off size = true →
      s.dev.hsmSees rq h = true →
      s.dev.fenced rq = false →
      exec (.registerWrite rq addr size v) s = .next { s with
        dev := (((s.dev.serveHive h).each (List.range (size / 2)) (fun x i => x.port2Hsm h (off / 2 + i) (BitVec.ofNat 16 (v.toNat / 2 ^ (16 * i))))).ok 0) }) ∧
    (∀ (rq : Req) (addr size : Nat) (v : Word), wellFormed (.registerWrite rq addr size v) = true →
      target addr = .hole →
      s.dev.fenced rq = false →
      exec (.registerWrite rq addr size v) s = .next { s with
        dev := s.dev.errResp 18 rq 0x03 addr 0 })

/-- The invariants hold after reset.  The idle step is the model's own (log 1), and so is what unwritten DRAM reads (boot clears it). -/
def Obligations.ResetMeetsInvariants : Prop :=
  QueueOk State.reset ∧ State.reset.pending = [] ∧
  SMap.wf (dramBlank State.reset.dev.mem.lost) State.reset.dev.mem.dram = true ∧
  (∀ a, State.reset.dev.dramByte a = 0) ∧ ∃ t, step State.reset = .next t ∧ t.pending = []

/-- R276 to R278 with R457: the frame of the arithmetic units of the A-profile. -/
def Obligations.CoreArithmeticFrame : Prop :=
  ∀ (s t : State) (m : Nat),
    ((∃ u op v, exec (.aIaluOp m u op v) s = .next t) ∨ (∃ op v, exec (.aMduMul m op v) s = .next t) ∨
      (∃ op v, exec (.aMduDiv m op v) s = .next t) ∨ (∃ u op v, exec (.aFpuOp m u op v) s = .next t) ∨
      (∃ u op v, exec (.aFpuDivSqrt m u op v) s = .next t)) →
    t.dev = { s.dev with regs := t.dev.regs, clk := t.dev.clk, time := t.dev.time, cores := t.dev.cores } ∧
    (∀ j, j ≠ m → t.dev.core j = s.dev.core j) ∧
    t.dev.core m = { s.dev.core m with cyc := (t.dev.core m).cyc, nextAt := (t.dev.core m).nextAt
                                       fly := (t.dev.core m).fly, seqno := (t.dev.core m).seqno, busy := (t.dev.core m).busy } ∧
    ∀ r j, r ∉ [RName.PMU_CNT_LO, .PMU_CNT_HI, .PMU_OVF, .PMU_CTL, .IC_PSET] → t.dev.rd r j = s.dev.rd r j

/-- R197 to R200: the frame of the arithmetic units of the E-profile. -/
def Obligations.EngineArithmeticFrame : Prop :=
  ∀ (s t : State) (e : Nat),
    (((∃ u op v, exec (.eIaluOp e u op v) s = .next t) ∨ (∃ u op v, exec (.eFmacOp e u op v) s = .next t) ∨
        (∃ v, exec (.eDsqDiv e v) s = .next t) ∨ (∃ v, exec (.eDsqSqrt e v) s = .next t) ∨
        (∃ op v, exec (.eRotOp e op v) s = .next t)) →
      (t.dev.eng e).sdft = (s.dev.eng e).sdft) ∧
    (((∃ u op v, exec (.eIaluOp e u op v) s = .next t) ∨ (∃ u op v, exec (.eFmacOp e u op v) s = .next t) ∨
        (∃ v, exec (.eDsqDiv e v) s = .next t) ∨ (∃ v, exec (.eDsqSqrt e v) s = .next t) ∨
        (∃ op v, exec (.eRotOp e op v) s = .next t) ∨ (∃ v, exec (.eSdftCfg e v) s = .next t) ∨
        (∃ v, exec (.eSdftUpd e v) s = .next t) ∨ (∃ v, exec (.eSdftRd e v) s = .next t) ∨
        (∃ v, exec (.eSdftLoad e v) s = .next t)) →
      t.dev = { s.dev with engines := t.dev.engines } ∧ (∀ j, j ≠ e → t.dev.eng j = s.dev.eng j) ∧
      t.dev.eng e = { s.dev.eng e with fly := (t.dev.eng e).fly, busy := (t.dev.eng e).busy, sdft := (t.dev.eng e).sdft })

/-- R341, R364, R374: a write of a requester without a cache reaches DRAM at its home slice, after the transactions that came first on its lines, and only the lines it touches. -/
def Obligations.DramWriteFrame : Prop :=
  ∀ (s : State) (rq : Req) (a size : Nat) (v : Word), wellFormed (.registerWrite rq a size v) = true → s.dev.fenced rq = false → target a = .dram →
    ∃ t, exec (.registerWrite rq a size v) s = .next t ∧
      (∀ b, b / 64 < a / 64 ∨ (a + size - 1) / 64 < b / 64 →
        t.dev.dramByte b = (s.dev.freeLines (linesOf a size) true).dramByte b ∧
        t.dev.memByte b = (s.dev.freeLines (linesOf a size) true).memByte b) ∧
      ((∀ l, a / 64 ≤ l → l ≤ (a + size - 1) / 64 → (s.dev.dirAt l).busy = none ∧
          ∀ m, m < 9 → ∀ e ∈ (s.dev.core m).sb, e.stx = true → ∀ x ∈ e.cells, x.1 / 64 ≠ l) →
        ∀ b, b / 64 < a / 64 ∨ (a + size - 1) / 64 < b / 64 →
          t.dev.dramByte b = s.dev.dramByte b ∧ t.dev.memByte b = s.dev.memByte b) ∧
      (SMap.wf (dramBlank s.dev.mem.lost) s.dev.mem.dram = true →
        SMap.wf (dramBlank t.dev.mem.lost) t.dev.mem.dram = true) ∧
      (t.dev.resp.err = false → ∀ i, i < size →
        t.dev.dramByte (a + i) = BitVec.ofNat 8 (v.toNat / 256 ^ i) ∧ t.dev.memByte (a + i) = BitVec.ofNat 8 (v.toNat / 256 ^ i))

/-- R314, for INTERRUPT_ENTRY: what the entry saves, what STATUS becomes, where it goes, and its frame. -/
def Obligations.InterruptEntrySavesTheProcessor : Prop :=
  ∀ (s : State) (m : Nat) (d e : Dev) (i : Dev × Exc), wellFormed (.interruptEntry m) = true → s.dev.coreLive m = true →
    (s.dev.icLine m false).isSome = true → d = (s.dev.endRunAhead m).coreSync m → d.debugFirst m = none → d.mayInt m = true →
    (d.icLine m true).isSome = false ∨ d.mayQuick m = false → i = d.multiStop m → e = i.1.drainOps m →
    ∃ t, exec (.interruptEntry m) s = .next t ∧
      (t.dev.sr m 0x20 = e.pc m ∧ t.dev.sr m 0x21 = e.savedStatus m ∧ t.dev.sr m 0x22 = cInterrupt ∧
        t.dev.sr m 0x23 = i.2.addr % 2 ^ 64 ∧ t.dev.sr m 0x24 = i.2.prog % 2 ^ 64 ∧ t.dev.sr m 0x25 = edlyOf (e.core m).xfer % 2 ^ 64) ∧
      (∀ k, k < 7 → t.dev.sr m (0x28 + k) = e.resPort m (nth shadowPorts k)) ∧
      (t.dev.lvl m = topLvl m ∧ t.dev.stIE m = false ∧ t.dev.stEXL m = true ∧ t.dev.stQIE m = e.stQIE m ∧ t.dev.stTE m = e.stTE m) ∧
      ((t.dev.core m).latch = [] ∧ (t.dev.core m).resv = none ∧ t.dev.pc m = e.sr m 0x10) ∧
      ((t.dev.core m).frames = (e.core m).frames ∧ (t.dev.core m).x = (e.core m).x ∧ (t.dev.core m).q = (e.core m).q ∧
        (t.dev.core m).g = (e.core m).g ∧ (t.dev.core m).res = (e.core m).res) ∧
      (∀ n, n ≠ 0 → n < 0x20 ∨ 0x2E < n → t.dev.sr m n = e.sr m n) ∧
      ((d.core m).multi = none → (d.core m).resumes (d.core m).pc.toNat = false →
        e = d.drainOps m ∧ t.dev.sr m 0x23 = 0 ∧ t.dev.sr m 0x24 = 0)

/-- R279 to R285, R362: when the operations of the load-store unit complete, by conditions on the processor and the line alone. -/
def Obligations.CoreMemoryOperationsComplete : Prop :=
  ∀ (s : State),
    (∀ (m op va : Nat) (d e : Dev) (t : DWord) (p : Phys), wellFormed (.aLoad m 0 op t) = true →
      AtRest s.dev d m →
      va = (d.lat m 0xA0 + t.toNat) % 2 ^ 64 →
      InLine d m va (lsuSize (0xA3 + op)) .load p →
      LineReady d m (p.pa / 64) false →
      e = ((d.noMiss m).bringLine m (p.pa / 64) false).1 →
      Unwatched e m (prevPc d m) →
      exec (.aLoad m 0 op t) s = .next { s with
        dev := (((e.notAlone m).loadGo m (0xA3 + op) (linePlan (d.noMiss m) m p.pa (lsuSize (0xA3 + op)))).setPc m (d.pc m)).noProg m }) ∧
    (∀ (m op va : Nat) (d : Dev) (t : DWord) (p : Phys), wellFormed (.aStore m 0 op t) = true →
      AtRest s.dev d m →
      va = (d.lat m 0xA0 + t.toNat) % 2 ^ 64 →
      InLine d m va (lsuSize (0xAA + op)) .store p →
      Unwatched (d.noMiss m) m (prevPc d m) →
      exec (.aStore m 0 op t) s = .next { s with
        dev := (((((d.noMiss m).prefetchAt m 1 (oldCode (d.pc m))).notAlone m).storeGo m ⟨bytesAt p.pa (lsuSize (0xAA + op)), 0⟩ (d.lat m 0xA1)).setPc m (d.pc m)).noProg m }) ∧
    (∀ (m va : Nat) (d : Dev) (t : DWord) (p : Phys), wellFormed (.aStnt m t) = true →
      AtRest s.dev d m →
      va = (d.lat m 0xA0 + t.toNat) % 2 ^ 64 →
      InLine d m va 8 .store p →
      va % 8 = 0 →
      Unwatched (d.noMiss m) m (prevPc d m) →
      exec (.aStnt m t) s = .next { s with
        dev := (((((d.noMiss m).prefetchAt m 1 (oldCode (d.pc m))).notAlone m).stntGo m ⟨bytesAt p.pa 8, 0⟩ (d.lat m 0xA1)).setPc m (d.pc m)).noProg m }) ∧
    (∀ (m va : Nat) (d e : Dev) (t : DWord) (p : Phys), wellFormed (.aLdx m t) = true →
      AtRest s.dev d m →
      va = (d.lat m 0xA0 + t.toNat) % 2 ^ 64 →
      InLine d m va 8 .load p →
      va % 8 = 0 →
      LineReady d m (p.pa / 64) true →
      e = ((d.noMiss m).bringLine m (p.pa / 64) true).1 →
      Unwatched e m (prevPc d m) →
      exec (.aLdx m t) s = .next { s with
        dev := (((e.notAlone m).ldxGo m (linePlan (d.noMiss m) m p.pa 8)).setPc m (d.pc m)).noProg m }) ∧
    (∀ (m va : Nat) (d e : Dev) (t : DWord) (p : Phys), wellFormed (.aStx m t) = true →
      AtRest s.dev d m →
      va = (d.lat m 0xA0 + t.toNat) % 2 ^ 64 →
      InLine d m va 8 .store p →
      va % 8 = 0 →
      (d.core m).resv = some (p.pa / 64) →
      LineReady d m (p.pa / 64) true →
      e = ((d.noMiss m).bringLine m (p.pa / 64) true).1 →
      Unwatched e m (prevPc d m) →
      exec (.aStx m t) s = .next { s with
        dev := ((((e.prefetchAt m 1 (oldCode (d.pc m))).notAlone m).stxGo m ⟨bytesAt p.pa 8, 0⟩ (d.lat m 0xA1)).setPc m (d.pc m)).noProg m }) ∧
    (∀ (m va : Nat) (d : Dev) (t : DWord) (p : Phys), wellFormed (.aStx m t) = true →
      AtRest s.dev d m →
      va = (d.lat m 0xA0 + t.toNat) % 2 ^ 64 →
      InLine d m va 8 .store p →
      va % 8 = 0 →
      (d.core m).resv ≠ some (p.pa / 64) →
      Unwatched (d.noMiss m) m (prevPc d m) →
      exec (.aStx m t) s = .next { s with
        dev := (((((d.noMiss m).prefetchAt m 1 (oldCode (d.pc m))).notAlone m).stxGo m ⟨bytesAt p.pa 8, 0⟩ (d.lat m 0xA1)).setPc m (d.pc m)).noProg m }) ∧
    (∀ (m op va : Nat) (d e : Dev) (t : DWord) (p : Phys), wellFormed (.aAtomic m op t) = true →
      AtRest s.dev d m →
      va = (d.lat m 0xA0 + t.toNat) % 2 ^ 64 →
      InLine d m va 8 .atomic p →
      va % 8 = 0 →
      LineReady d m (p.pa / 64) true →
      e = ((d.noMiss m).bringLine m (p.pa / 64) true).1 →
      Unwatched e m (prevPc d m) →
      exec (.aAtomic m op t) s = .next { s with
        dev := ((((e.prefetchAt m 1 (oldCode (d.pc m))).notAlone m).atomicGo m op
          ⟨⟨bytesAt p.pa 8, 0⟩, some (leNat ((bytesAt p.pa 8).map (fun a => e.loadByte m a))), 0⟩ (d.lat m 0xA1) (d.lat m 0xA2)).setPc m (d.pc m)).noProg m }) ∧
    (∀ (m r : Nat) (c d e : Dev) (t : DWord) (p : Phys), wellFormed (.aLdm m t) = true →
      AtRest s.dev d m →
      t.toNat % 65536 = 2 ^ r →
      InLine d m (d.lat m 0xA0) 8 .load p →
      d.lat m 0xA0 % 8 = 0 →
      c = (d.noMiss m).notAlone m →
      InLine c m (d.lat m 0xA0) 8 .load p →
      (c.core m).cb = [] →
      LineReady d m (p.pa / 64) false →
      e = (c.bringLine m (p.pa / 64) false).1 →
      Unwatched e m (prevPc d m) →
      exec (.aLdm m t) s = .next { s with
        dev := (((let g := e.onCore m (fun b => { b with multi := some (⟨prevPc d m, b.xfer, false, bits t.toNat 16 16, b.cyc, [⟨some (16 * bits t.toNat 16 16 + r), d.lat m 0xA0, bytesAt p.pa 8, 0, none, c.loadReach m (c.coreWorld m) (p.pa / 64)⟩], true⟩ : MultiRun) })
            (g.multiStep m false 16).aBusy m 4 (1 + g.tlbCost m))).setPc m (d.pc m)).noProg m }) ∧
    (∀ (m r : Nat) (c d : Dev) (t : DWord) (p : Phys), wellFormed (.aStm m t) = true →
      AtRest s.dev d m →
      t.toNat % 65536 = 2 ^ r →
      InLine d m (d.lat m 0xA0) 8 .store p →
      d.lat m 0xA0 % 8 = 0 →
      c = (((d.noMiss m).prefetchAt m 1 (oldCode (d.pc m))).notAlone m) →
      InLine c m (d.lat m 0xA0) 8 .store p →
      (c.core m).progPc = none →
      Unwatched c m (prevPc d m) →
      exec (.aStm m t) s = .next { s with
        dev := (((let g := c.onCore m (fun b => { b with multi := some (⟨prevPc d m, b.xfer, true, bits t.toNat 16 16, b.cyc, [⟨some (16 * bits t.toNat 16 16 + r), d.lat m 0xA0, bytesAt p.pa 8, 0, some (c.regRead m (16 * bits t.toNat 16 16 + r)), 0⟩], true⟩ : MultiRun) })
            (g.multiStep m false 16).aBusy m 4 (1 + g.tlbCost m))).setPc m (d.pc m)).noProg m }) ∧
    (∀ (m : Nat) (d : Dev) (t : DWord), wellFormed (.aFenceL m t) = true →
      AtRest s.dev d m →
      exec (.aFenceL m t) s = .next { s with
        dev := ((((d.noMiss m).notAlone m).fenceL m).setPc m (d.pc m)).noProg m }) ∧
    (∀ (m : Nat) (d : Dev) (t : DWord), wellFormed (.aFenceS m t) = true →
      AtRest s.dev d m →
      exec (.aFenceS m t) s = .next { s with
        dev := ((((d.noMiss m).notAlone m).fenceS m).setPc m (d.pc m)).noProg m }) ∧
    (∀ (m : Nat) (d : Dev) (t : DWord), wellFormed (.aFenceLs m t) = true →
      AtRest s.dev d m →
      exec (.aFenceLs m t) s = .next { s with
        dev := ((((d.noMiss m).notAlone m).fenceLS m).setPc m (d.pc m)).noProg m }) ∧
    (∀ (m : Nat) (d : Dev) (t : DWord), wellFormed (.aIfence m t) = true →
      AtRest s.dev d m →
      exec (.aIfence m t) s = .next { s with
        dev := ((((d.noMiss m).notAlone m).iFence m).setPc m (d.pc m)).noProg m }) ∧
    (∀ (m : Nat) (d : Dev) (t : DWord), wellFormed (.aPref m t) = true →
      AtRest s.dev d m →
      exec (.aPref m t) s = .next { s with
        dev := ((((d.noMiss m).notAlone m).prefGo m (d.lat m 0xA0 + t.toNat)).setPc m (d.pc m)).noProg m }) ∧
    (∀ (m va : Nat) (d : Dev) (t : DWord) (p : Phys), wellFormed (.aDccln m t) = true →
      AtRest s.dev d m →
      va = (d.lat m 0xA0 + t.toNat) % 2 ^ 64 →
      Mapped (d.noMiss m) m va ((d.noMiss m).maintKind m 0xBF) p →
      exec (.aDccln m t) s = .next { s with
        dev := ((((d.noMiss m).notAlone m).maintGo m 0xBF ⟨[p.pa], p.mt⟩).setPc m (d.pc m)).noProg m }) ∧
    (∀ (m va : Nat) (d : Dev) (t : DWord) (p : Phys), wellFormed (.aDcinv m t) = true →
      AtRest s.dev d m →
      va = (d.lat m 0xA0 + t.toNat) % 2 ^ 64 →
      Mapped (d.noMiss m) m va ((d.noMiss m).maintKind m 0xC0) p →
      exec (.aDcinv m t) s = .next { s with
        dev := ((((d.noMiss m).notAlone m).maintGo m 0xC0 ⟨[p.pa], p.mt⟩).setPc m (d.pc m)).noProg m }) ∧
    (∀ (m va : Nat) (d : Dev) (t : DWord) (p : Phys), wellFormed (.aDcci m t) = true →
      AtRest s.dev d m →
      va = (d.lat m 0xA0 + t.toNat) % 2 ^ 64 →
      Mapped (d.noMiss m) m va ((d.noMiss m).maintKind m 0xC1) p →
      exec (.aDcci m t) s = .next { s with
        dev := ((((d.noMiss m).notAlone m).maintGo m 0xC1 ⟨[p.pa], p.mt⟩).setPc m (d.pc m)).noProg m }) ∧
    (∀ (m va : Nat) (d : Dev) (t : DWord) (p : Phys), wellFormed (.aIcinv m t) = true →
      AtRest s.dev d m →
      va = (d.lat m 0xA0 + t.toNat) % 2 ^ 64 →
      Mapped (d.noMiss m) m va ((d.noMiss m).maintKind m 0xC2) p →
      exec (.aIcinv m t) s = .next { s with
        dev := ((((d.noMiss m).notAlone m).maintGo m 0xC2 ⟨[p.pa], p.mt⟩).setPc m (d.pc m)).noProg m })

/-- R288, R295, R311, R321 to R323, R339: when control and system operations complete, by conditions on the processor and the operands alone. -/
def Obligations.CoreControlAndSystemComplete : Prop :=
  ∀ (s : State),
    (∀ (m : Nat) (d : Dev) (t : DWord), wellFormed (.aJmp m t) = true →
      AtRest s.dev d m →
      t.toNat % 16 = 0 →
      exec (.aJmp m t) s = .next { s with
        dev := ((d.passBy m).onCore m (fun c => { c with
            xfer := some
              { target := t.toNat, left := 2, taken := true, squash := false, kind := 0
                link := (prevPc d m + 48) % 2 ^ 64, data := 0, issued := c.cyc } })).settleFrames m }) ∧
    (∀ (m : Nat) (d : Dev) (t : DWord), wellFormed (.aCall m t) = true →
      AtRest s.dev d m →
      t.toNat % 16 = 0 →
      d.stQB m = false →
      (d.core m).frames.length < 5 →
      exec (.aCall m t) s = .next { s with
        dev := ((d.passBy m).onCore m (fun c => { c with
            xfer := some
              { target := t.toNat, left := 2, taken := true, squash := false, kind := 1
                link := (prevPc d m + 48) % 2 ^ 64, data := 0, issued := c.cyc } })).settleFrames m }) ∧
    (∀ (m : Nat) (d : Dev) (t : DWord) (f g : Frame) (l : List Frame), wellFormed (.aRet m t) = true →
      AtRest s.dev d m →
      (d.core m).frames = f :: g :: l →
      d.stQB m = false →
      exec (.aRet m t) s = .next { s with
        dev := ((d.passBy m).onCore m (fun c => { c with
            xfer := some
              { target := f.link.toNat, left := 2, taken := true, squash := false, kind := 2
                link := (prevPc d m + 48) % 2 ^ 64, data := 0, issued := c.cyc } })).settleFrames m }) ∧
    (∀ (m : Nat) (d : Dev) (t : DWord), wellFormed (.aBranch m 0 t) = true →
      AtRest s.dev d m →
      t.toNat % 16 = 0 →
      exec (.aBranch m 0 t) s = .next { s with
        dev := ((d.passBy m).onCore m (fun c => { c with
            xfer := some
              { target := t.toNat, left := 2, taken := decide ((d.passBy m).lat m 0xD0 = 0), squash := false, kind := 0
                link := (prevPc d m + 48) % 2 ^ 64, data := 0, issued := c.cyc } })).settleFrames m }) ∧
    (∀ (m : Nat) (d : Dev) (t : DWord), wellFormed (.aBranch m 1 t) = true →
      AtRest s.dev d m →
      t.toNat % 16 = 0 →
      exec (.aBranch m 1 t) s = .next { s with
        dev := ((d.passBy m).onCore m (fun c => { c with
            xfer := some
              { target := t.toNat, left := 2, taken := decide ((d.passBy m).lat m 0xD0 = 0), squash := !decide ((d.passBy m).lat m 0xD0 = 0), kind := 0
                link := (prevPc d m + 48) % 2 ^ 64, data := 0, issued := c.cyc } })).settleFrames m }) ∧
    (∀ (m : Nat) (d : Dev) (t : DWord), wellFormed (.aBranch m 2 t) = true →
      AtRest s.dev d m →
      t.toNat % 16 = 0 →
      exec (.aBranch m 2 t) s = .next { s with
        dev := ((d.passBy m).onCore m (fun c => { c with
            xfer := some
              { target := t.toNat, left := 2, taken := decide ((d.passBy m).lat m 0xD0 ≠ 0), squash := false, kind := 0
                link := (prevPc d m + 48) % 2 ^ 64, data := 0, issued := c.cyc } })).settleFrames m }) ∧
    (∀ (m : Nat) (d : Dev) (t : DWord), wellFormed (.aBranch m 3 t) = true →
      AtRest s.dev d m →
      t.toNat % 16 = 0 →
      exec (.aBranch m 3 t) s = .next { s with
        dev := ((d.passBy m).onCore m (fun c => { c with
            xfer := some
              { target := t.toNat, left := 2, taken := decide ((d.passBy m).lat m 0xD0 ≠ 0), squash := !decide ((d.passBy m).lat m 0xD0 ≠ 0), kind := 0
                link := (prevPc d m + 48) % 2 ^ 64, data := 0, issued := c.cyc } })).settleFrames m }) ∧
    (∀ (m : Nat) (d : Dev) (t : DWord), wellFormed (.aSyscall m t) = true →
      AtRest s.dev d m →
      d.lvl m = 0 →
      exec (.aSyscall m t) s = .next { s with
        dev := ((d.passBy m).onCore m (fun c => { c with
            xfer := some
              { target := t.toNat, left := 2, taken := true, squash := false, kind := 3
                link := (prevPc d m + 48) % 2 ^ 64, data := t.toNat % 65536, issued := c.cyc } })).settleFrames m }) ∧
    (∀ (m : Nat) (d : Dev) (t : DWord) (f : Frame) (l : List Frame), wellFormed (.aSysret m t) = true →
      AtRest s.dev d m →
      (d.core m).frames = f :: l →
      d.lvl m ≠ 0 →
      f.lvl = d.srf m 0x31 1 0 →
      exec (.aSysret m t) s = .next { s with
        dev := ((d.passBy m).onCore m (fun c => { c with
            xfer := some
              { target := 0, left := 2, taken := true, squash := false, kind := 4
                link := (prevPc d m + 48) % 2 ^ 64, data := 0, issued := c.cyc } })).settleFrames m }) ∧
    (∀ (m : Nat) (d : Dev) (t : DWord) (f : Frame) (l : List Frame), wellFormed (.aEret m t) = true →
      AtRest s.dev d m →
      (d.core m).frames = f :: l →
      d.lvl m ≠ 0 →
      f.lvl = d.srf m (if d.stDFL m then 0x51 else if d.stQB m then 0x41 else 0x21) 1 0 →
      exec (.aEret m t) s = .next { s with
        dev := (((d.passBy m).setSt m 4 true).onCore m (fun c => { c with
            xfer := some
              { target := 0, left := 2, taken := true, squash := false, kind := 5
                link := (prevPc d m + 48) % 2 ^ 64, data := 0, issued := c.cyc } })).settleFrames m }) ∧
    (∀ (m : Nat) (d e : Dev) (t : DWord), wellFormed (.aSruRd m t) = true →
      AtRest s.dev d m →
      srExists m (t.toNat % 4096) = true →
      d.lvl m ≠ 0 ∨ t.toNat % 4096 = 3 ∨ t.toNat % 4096 = 2 →
      e = d.passBy m →
      exec (.aSruRd m t) s = .next { s with
        dev := (e.aLaunch m 6 [(0x48, e.srRead m (t.toNat % 4096))] 2 0).settleFrames m }) ∧
    (∀ (m : Nat) (d e : Dev) (t : DWord), wellFormed (.aSruWr m t) = true →
      AtRest s.dev d m →
      srExists m (t.toNat % 4096) = true →
      d.lvl m ≠ 0 ∨ t.toNat % 4096 = 3 →
      e = d.passBy m →
      exec (.aSruWr m t) s = .next { s with
        dev := (e.sruWriteGo m (t.toNat % 4096) (e.lat m 0xE0)).settleFrames m }) ∧
    (∀ (m : Nat) (d e : Dev) (t : DWord), wellFormed (.aSruSet m t) = true →
      AtRest s.dev d m →
      srExists m (t.toNat % 4096) = true →
      d.lvl m ≠ 0 ∨ t.toNat % 4096 = 3 →
      e = d.passBy m →
      exec (.aSruSet m t) s = .next { s with
        dev := (e.sruWriteGo m (t.toNat % 4096) (Nat.lor (e.srRead m (t.toNat % 4096)) (e.lat m 0xE0))).settleFrames m }) ∧
    (∀ (m : Nat) (d e : Dev) (t : DWord), wellFormed (.aSruClr m t) = true →
      AtRest s.dev d m →
      srExists m (t.toNat % 4096) = true →
      d.lvl m ≠ 0 ∨ t.toNat % 4096 = 3 →
      e = d.passBy m →
      exec (.aSruClr m t) s = .next { s with
        dev := (e.sruWriteGo m (t.toNat % 4096) (Nat.land (e.srRead m (t.toNat % 4096)) (2 ^ 64 - 1 - e.lat m 0xE0))).settleFrames m }) ∧
    (∀ (m : Nat) (d : Dev) (t : DWord) (f : Frame), wellFormed (.aFlushw m t) = true →
      AtRest s.dev d m →
      (d.core m).frames = [f] →
      exec (.aFlushw m t) s = .next { s with
        dev := ((((d.passBy m).onCore m (fun c => { c with flush := true })).startFrames m).settleFrames m) }) ∧
    (∀ (m : Nat) (d e : Dev) (t : DWord) (f g : Frame), wellFormed (.aFlushw m t) = true →
      AtRest s.dev d m →
      (d.core m).frames = [f, g] →
      d.stTE m = false →
      g.lvl ≠ 0 →
      d.sr m (srFsPtr g.lvl) + recordLen ≤ d.sr m (srFsLim g.lvl) →
      d.sr m (srFsPtr g.lvl) + recordLen ≤ dramSize →
      e = (recordPages (d.sr m (srFsPtr g.lvl))).foldl (fun x v => x.onCore m (fun c => { c with fsMap := SMap.set (fun _ => 0) c.fsMap (v / 4096) (v / 4096 + 1) })) d →
      exec (.aFlushw m t) s = .next { s with
        dev := ((((e.passBy m).onCore m (fun c => { c with flush := true })).startFrames m).settleFrames m) }) ∧
    (∀ (m : Nat) (d e : Dev) (t : DWord), wellFormed (.aSleep m t) = true →
      AtRest s.dev d m →
      e = d.passBy m →
      exec (.aSleep m t) s = .next { s with
        dev := (e.sleepGo m).settleFrames m }) ∧
    (∀ (m : Nat) (d e : Dev) (t : DWord), wellFormed (.aTlbiva m t) = true →
      AtRest s.dev d m →
      d.lvl m ≠ 0 →
      e = d.passBy m →
      exec (.aTlbiva m t) s = .next { s with
        dev := (e.tlbDrop m (fun x => x.at (t.toNat % 2 ^ 48) && (x.glob || decide (x.asid = e.lat m 0xE0 % 4096)))).settleFrames m }) ∧
    (∀ (m : Nat) (d e : Dev) (t : DWord), wellFormed (.aTlbiasid m t) = true →
      AtRest s.dev d m →
      d.lvl m ≠ 0 →
      e = d.passBy m →
      exec (.aTlbiasid m t) s = .next { s with
        dev := (e.tlbDrop m (fun x => !x.glob && decide (x.asid = t.toNat % 4096))).settleFrames m }) ∧
    (∀ (m : Nat) (d e : Dev) (t : DWord), wellFormed (.aTlbiall m t) = true →
      AtRest s.dev d m →
      d.lvl m ≠ 0 →
      e = d.passBy m →
      exec (.aTlbiall m t) s = .next { s with
        dev := (e.tlbDrop m (fun _ => true)).settleFrames m })

/-- R371, second point: every request a dead agent makes gets an error response. -/
def Obligations.FencedRequestersDrawErrors : Prop :=
  ∀ (s : State),
    (∀ (rq : Req) (off size : Nat), wellFormed (.combWindowRead rq off size) = true →
      s.dev.fenced rq = true →
      exec (.combWindowRead rq off size) s = .next { s with
        dev := s.dev.bad }) ∧
    (∀ (rq : Req) (h : Nat) (v : Word), wellFormed (.hivMail rq h v) = true →
      s.dev.fenced rq = true →
      exec (.hivMail rq h v) s = .next { s with
        dev := s.dev.bad }) ∧
    (∀ (rq : Req) (e : Nat) (v : Word), wellFormed (.peCtlHalt rq e v) = true →
      s.dev.fenced rq = true →
      exec (.peCtlHalt rq e v) s = .next { s with
        dev := s.dev.bad }) ∧
    (∀ (rq : Req) (e : Nat) (v : Word), wellFormed (.peCtlRun rq e v) = true →
      s.dev.fenced rq = true →
      exec (.peCtlRun rq e v) s = .next { s with
        dev := s.dev.bad }) ∧
    (∀ (rq : Req) (e off size : Nat) (data : BitVec 128), wellFormed (.programMemoryWrite rq e off size data) = true →
      s.dev.fenced rq = true →
      exec (.programMemoryWrite rq e off size data) s = .next { s with
        dev := s.dev.bad }) ∧
    (∀ (rq : Req) (e : Nat) (v : Word), wellFormed (.peDbgRelease rq e v) = true →
      s.dev.fenced rq = true →
      exec (.peDbgRelease rq e v) s = .next { s with
        dev := s.dev.bad }) ∧
    (∀ (rq : Req) (e off size : Nat) (data : DWord), wellFormed (.shadowBankWrite rq e off size data) = true →
      s.dev.fenced rq = true →
      exec (.shadowBankWrite rq e off size data) s = .next { s with
        dev := s.dev.bad }) ∧
    (∀ (rq : Req) (off size : Nat), wellFormed (.journalWindowRead rq off size) = true →
      s.dev.fenced rq = true →
      exec (.journalWindowRead rq off size) s = .next { s with
        dev := s.dev.bad }) ∧
    (∀ (rq : Req) (addr : Nat), wellFormed (.reg64LoRead rq addr) = true →
      s.dev.fenced rq = true →
      exec (.reg64LoRead rq addr) s = .next { s with
        dev := s.dev.bad }) ∧
    (∀ (rq : Req) (addr : Nat), wellFormed (.reg64HiRead rq addr) = true →
      s.dev.fenced rq = true →
      exec (.reg64HiRead rq addr) s = .next { s with
        dev := s.dev.bad }) ∧
    (∀ (rq : Req) (addr : Nat), wellFormed (.readClearsRead rq addr) = true →
      s.dev.fenced rq = true →
      exec (.readClearsRead rq addr) s = .next { s with
        dev := s.dev.bad }) ∧
    (∀ (rq : Req) (addr size : Nat) (v : Word), wellFormed (.registerWrite rq addr size v) = true →
      s.dev.fenced rq = true →
      exec (.registerWrite rq addr size v) s = .next { s with
        dev := s.dev.bad }) ∧
    (∀ (rq : Req) (v : Word), wellFormed (.pwrHuack rq v) = true →
      s.dev.fenced rq = true →
      exec (.pwrHuack rq v) s = .next { s with
        dev := s.dev.bad }) ∧
    (∀ (rq : Req) (half : Nat) (v : Word), wellFormed (.pwrDon rq half v) = true →
      s.dev.fenced rq = true →
      exec (.pwrDon rq half v) s = .next { s with
        dev := s.dev.bad }) ∧
    (∀ (rq : Req) (half : Nat) (v : Word), wellFormed (.pwrDoff rq half v) = true →
      s.dev.fenced rq = true →
      exec (.pwrDoff rq half v) s = .next { s with
        dev := s.dev.bad }) ∧
    (∀ (rq : Req) (ring : Nat) (v : Word), wellFormed (.cmdDb rq ring v) = true →
      s.dev.fenced rq = true →
      exec (.cmdDb rq ring v) s = .next { s with
        dev := s.dev.bad }) ∧
    (∀ (rq : Req) (ring : Nat) (v : Word), wellFormed (.cmdPhead rq ring v) = true →
      s.dev.fenced rq = true →
      exec (.cmdPhead rq ring v) s = .next { s with
        dev := s.dev.bad }) ∧
    (∀ (rq : Req) (ring : Nat) (v : Word), wellFormed (.cmdRseq rq ring v) = true →
      s.dev.fenced rq = true →
      exec (.cmdRseq rq ring v) s = .next { s with
        dev := s.dev.bad }) ∧
    (∀ (rq : Req) (ring : Nat) (v : Word), wellFormed (.cmdRctlRst rq ring v) = true →
      s.dev.fenced rq = true →
      exec (.cmdRctlRst rq ring v) s = .next { s with
        dev := s.dev.bad }) ∧
    (∀ (rq : Req) (v : Word), wellFormed (.tmbMeas rq v) = true →
      s.dev.fenced rq = true →
      exec (.tmbMeas rq v) s = .next { s with
        dev := s.dev.bad }) ∧
    (∀ (rq : Req) (v : Word), wellFormed (.tkgCtlArm rq v) = true →
      s.dev.fenced rq = true →
      exec (.tkgCtlArm rq v) s = .next { s with
        dev := s.dev.bad }) ∧
    (∀ (rq : Req) (k : Nat), wellFormed (.tmrCntRead rq k) = true →
      s.dev.fenced rq = true →
      exec (.tmrCntRead rq k) s = .next { s with
        dev := s.dev.bad }) ∧
    (∀ (rq : Req) (half : Nat) (v : Word), wellFormed (.tsuSwtrig rq half v) = true →
      s.dev.fenced rq = true →
      exec (.tsuSwtrig rq half v) s = .next { s with
        dev := s.dev.bad }) ∧
    (∀ (rq : Req) (g : Nat) (v : Word), wellFormed (.setPgArm rq g v) = true →
      s.dev.fenced rq = true →
      exec (.setPgArm rq g v) s = .next { s with
        dev := s.dev.bad }) ∧
    (∀ (rq : Req) (half : Nat) (v : Word), wellFormed (.setValid rq half v) = true →
      s.dev.fenced rq = true →
      exec (.setValid rq half v) s = .next { s with
        dev := s.dev.bad }) ∧
    (∀ (rq : Req) (t : Nat), wellFormed (.icClaim rq t) = true →
      s.dev.fenced rq = true →
      exec (.icClaim rq t) s = .next { s with
        dev := s.dev.bad }) ∧
    (∀ (rq : Req) (t : Nat), wellFormed (.icQclaim rq t) = true →
      s.dev.fenced rq = true →
      exec (.icQclaim rq t) s = .next { s with
        dev := s.dev.bad }) ∧
    (∀ (rq : Req) (t : Nat) (v : Word), wellFormed (.icCompl rq t v) = true →
      s.dev.fenced rq = true →
      exec (.icCompl rq t v) s = .next { s with
        dev := s.dev.bad }) ∧
    (∀ (rq : Req) (v : Word), wellFormed (.icRearm rq v) = true →
      s.dev.fenced rq = true →
      exec (.icRearm rq v) s = .next { s with
        dev := s.dev.bad }) ∧
    (∀ (rq : Req) (w : Nat) (v : Word), wellFormed (.icPset rq w v) = true →
      s.dev.fenced rq = true →
      exec (.icPset rq w v) s = .next { s with
        dev := s.dev.bad }) ∧
    (∀ (rq : Req) (w : Nat) (v : Word), wellFormed (.wdgSvc rq w v) = true →
      s.dev.fenced rq = true →
      exec (.wdgSvc rq w v) s = .next { s with
        dev := s.dev.bad }) ∧
    (∀ (rq : Req) (w : Nat) (v : Word), wellFormed (.wdgLock rq w v) = true →
      s.dev.fenced rq = true →
      exec (.wdgLock rq w v) s = .next { s with
        dev := s.dev.bad }) ∧
    (∀ (rq : Req) (r w : Nat) (v : Word), wellFormed (.nocFwWrite rq r w v) = true →
      s.dev.fenced rq = true →
      exec (.nocFwWrite rq r w v) s = .next { s with
        dev := s.dev.bad }) ∧
    (∀ (rq : Req) (off : Nat) (v : Word), wellFormed (.dmcMaskWrite rq off v) = true →
      s.dev.fenced rq = true →
      exec (.dmcMaskWrite rq off v) s = .next { s with
        dev := s.dev.bad }) ∧
    (∀ (rq : Req) (p : Nat) (v : Word), wellFormed (.ethTxtail rq p v) = true →
      s.dev.fenced rq = true →
      exec (.ethTxtail rq p v) s = .next { s with
        dev := s.dev.bad }) ∧
    (∀ (rq : Req) (p : Nat) (v : Word), wellFormed (.ethRxtail rq p v) = true →
      s.dev.fenced rq = true →
      exec (.ethRxtail rq p v) s = .next { s with
        dev := s.dev.bad }) ∧
    (∀ (rq : Req) (m : Nat) (v : Word), wellFormed (.dbgCreqStop rq m v) = true →
      s.dev.fenced rq = true →
      exec (.dbgCreqStop rq m v) s = .next { s with
        dev := s.dev.bad }) ∧
    (∀ (rq : Req) (m : Nat) (v : Word), wellFormed (.dbgDtxWrite rq m v) = true →
      s.dev.fenced rq = true →
      exec (.dbgDtxWrite rq m v) s = .next { s with
        dev := s.dev.bad }) ∧
    (∀ (rq : Req) (m : Nat), wellFormed (.dbgDtxRead rq m) = true →
      s.dev.fenced rq = true →
      exec (.dbgDtxRead rq m) s = .next { s with
        dev := s.dev.bad }) ∧
    (∀ (rq : Req) (m : Nat) (v : Word), wellFormed (.dbgDrxWrite rq m v) = true →
      s.dev.fenced rq = true →
      exec (.dbgDrxWrite rq m v) s = .next { s with
        dev := s.dev.bad }) ∧
    (∀ (rq : Req) (m : Nat), wellFormed (.dbgDrxRead rq m) = true →
      s.dev.fenced rq = true →
      exec (.dbgDrxRead rq m) s = .next { s with
        dev := s.dev.bad }) ∧
    (∀ (rq : Req) (v : Word), wellFormed (.trcClear rq v) = true →
      s.dev.fenced rq = true →
      exec (.trcClear rq v) s = .next { s with
        dev := s.dev.bad }) ∧
    (∀ (rq : Req) (m : Nat) (v : Word), wellFormed (.trcSw rq m v) = true →
      s.dev.fenced rq = true →
      exec (.trcSw rq m v) s = .next { s with
        dev := s.dev.bad }) ∧
    (∀ (rq : Req) (j : Nat) (v : Word), wellFormed (.errValidClear rq j v) = true →
      s.dev.fenced rq = true →
      exec (.errValidClear rq j v) s = .next { s with
        dev := s.dev.bad })
end

