-- ==== Sys2Proof/Laws/Cipher.lean ====
section
/-!
SUPPORT. Sys2Proof/Laws/Cipher.lean: what sealing and opening a message do to each other.
-/

namespace Sys2Proof.Machine

theorem length_xorList (a b : List Nat) : (xorList a b).length = min a.length b.length := List.length_zipWith

/-- A round key has 16 octets where the schedule that is left is long enough. -/
theorem length_aesRounds (n : Nat) : ∀ keys b : List Nat, 16 * n ≤ keys.length → b.length = 16 → (aesRounds n keys b).length = 16 := by
  induction n with
  | zero => intro keys b _ h; exact h
  | succ n ih =>
    intro keys b hk hb
    unfold aesRounds
    refine ih _ _ (by rw [List.length_drop]; omega) ?_
    have hs : (aesShift (b.map aesSub)).length = 16 := by simp [aesShift]
    have hm : (aesMix (aesShift (b.map aesSub))).length = 16 := by simp [aesMix]
    rw [length_xorList, List.length_take]
    split
    · rw [hs]; omega
    · rw [hm]; omega

/-- The key stream of n blocks has 16 octets a block. -/
theorem length_gcmStream (keys : List Nat) (iv : List Byte) (hk : 240 ≤ keys.length) (hi : iv.length = 12) (n : Nat) :
    ∀ c, (gcmStream keys iv n c).length = 16 * n := by
  induction n with
  | zero => intro c; rfl
  | succ n ih =>
    intro c
    have hb : (gcmCounter iv c).length = 16 := by simp [gcmCounter, beBytes, leBytes, hi]
    unfold gcmStream
    rw [List.length_append, List.length_map, ih]
    unfold aesBlock
    rw [length_aesRounds _ _ _ (by rw [List.length_drop]; omega) (by rw [length_xorList, List.length_take, hb]; omega)]
    omega

/-- Eight words follow eight words. -/
theorem length_aesNextKey (rc : Nat) (k : List Nat) (h : k.length = 32) : (aesNextKey rc k).length = 32 := by
  simp [aesNextKey, length_xorList, h]

theorem length_aesExpand (n : Nat) : ∀ (rc : Nat) (k : List Nat), k.length = 32 → (aesExpand n rc k).length = 32 * (n + 1) := by
  induction n with
  | zero => intro rc k h; simpa [aesExpand] using h
  | succ n ih =>
    intro rc k h
    unfold aesExpand
    rw [List.length_append, ih _ _ (length_aesNextKey rc k h), h]
    omega

/-- The schedule of a key of 32 octets is long enough for 15 round keys. -/
theorem length_aesKey {key : List Byte} (h : key.length = 32) : 240 ≤ (aesKey key).length := by
  unfold aesKey
  rw [length_aesExpand _ _ _ (by rw [List.length_map, h])]
  omega

/-- Octets combined twice with one stream are themselves. -/
theorem zipWith_xor_self : ∀ (l k : List Byte), l.length ≤ k.length →
    List.zipWith (fun a b => a ^^^ b) (List.zipWith (fun a b => a ^^^ b) l k) k = l
  | [], _, _ => by simp
  | a :: l, [], h => by simp at h
  | a :: l, b :: k, h => by
    have h' : l.length ≤ k.length := by simpa using h
    simp only [List.zipWith_cons_cons, zipWith_xor_self l k h', List.cons.injEq, and_true]
    rw [BitVec.xor_assoc, BitVec.xor_self, BitVec.xor_zero]

/-- A sealed message opens to what was sealed, under a key of 32 octets and an IV of 12. -/
theorem gcmOpen_gcmSeal (key iv pt : List Byte) (hk : key.length = 32) (hi : iv.length = 12) :
    gcmOpen key (gcmSeal key iv pt) = some pt := by
  have hs := length_gcmStream (aesKey key) iv (length_aesKey hk) hi (gcmCount pt) 2
  have hl : pt.length ≤ (gcmStream (aesKey key) iv (gcmCount pt) 2).length := by rw [hs]; unfold gcmCount; omega
  have hc : (gcmCrypt key iv pt).length = pt.length := by
    unfold gcmCrypt; rw [List.length_zipWith]; omega
  have hn : gcmCount (gcmCrypt key iv pt) = gcmCount pt := by unfold gcmCount; rw [hc]
  unfold gcmOpen gcmSeal
  dsimp only
  rw [if_pos rfl]
  refine congrArg some ?_
  show List.zipWith _ (gcmCrypt key iv pt) (gcmStream (aesKey key) iv (gcmCount (gcmCrypt key iv pt)) 2) = pt
  rw [hn]
  exact zipWith_xor_self pt _ hl

/-- A message with another tag does not open. -/
theorem gcmOpen_tag {key : List Byte} {m : Sealed} (h : m.tag ≠ gcmTag key m.iv [] m.ct) : gcmOpen key m = none := if_neg h

end Sys2Proof.Machine
end

