-- ==== Sys2Proof/Laws/SMap.lean ====
section
/-!
SUPPORT. Sys2Proof/Laws/SMap.lean: the laws of the sparse maps.  A read after a write gives the value written, a write leaves
every other key alone, every operation keeps the canonical form, and canonical maps that read alike are equal.
-/

namespace Sys2Proof.Machine

variable {α : Type} {d : Nat → α} {m : SMap α} {j k : Nat} {v : α}

@[simp] theorem SMap.get_nil : SMap.get d ([] : SMap α) k = d k := rfl

theorem SMap.above_mono (h : j ≤ k) : ∀ {m : SMap α}, SMap.above k m = true → SMap.above j m = true
  | [], _ => rfl
  | (_, _) :: _, ha => by simp only [SMap.above, decide_eq_true_eq] at *; omega

/-- Below every key a map reads as its default. -/
theorem SMap.get_of_above : ∀ {m : SMap α}, SMap.above k m = true → j ≤ k → SMap.get d m j = d j
  | [], _, _ => rfl
  | (i, _) :: _, ha, h => by
    simp only [SMap.above, decide_eq_true_eq] at ha
    have h1 : j ≠ i := by omega
    have h2 : j < i := by omega
    simp [SMap.get, h1, h2]

theorem SMap.get_dropLe_self : ∀ (m : SMap α) (k : Nat), SMap.get d (SMap.dropLe k m) k = d k
  | [], _ => rfl
  | (i, v) :: t, k => by
    by_cases h : i ≤ k
    · simpa [SMap.dropLe, h] using SMap.get_dropLe_self t k
    · have h1 : k ≠ i := by omega
      have h2 : k < i := by omega
      simp [SMap.dropLe, h, SMap.get, h1, h2]

/-- A key reads as what was written to it. -/
@[simp] theorem SMap.get_set_self [DecidableEq α] (d : Nat → α) : ∀ (m : SMap α) (k : Nat) (v : α),
    SMap.get d (SMap.set d m k v) k = v
  | [], k, v => by by_cases h : v = d k <;> simp [SMap.set, h, SMap.get]
  | (i, w) :: t, k, v => by
    unfold SMap.set
    by_cases h1 : k < i
    · by_cases h2 : v = d k
      · have h3 : k ≠ i := by omega
        simp [h1, h2, SMap.get, h3]
      · simp [h1, h2, SMap.get]
    · by_cases h2 : k = i
      · subst h2
        by_cases h3 : v = d k
        · simp [h3, SMap.get_dropLe_self]
        · simp [h3, SMap.get]
      · simp [h1, h2, SMap.get, SMap.get_set_self d t k v]

theorem SMap.above_dropLe (k : Nat) : ∀ m : SMap α, SMap.above k (SMap.dropLe k m) = true
  | [] => rfl
  | (i, v) :: t => by
    by_cases h : i ≤ k
    · simpa [SMap.dropLe, h] using SMap.above_dropLe k t
    · simpa [SMap.dropLe, h, SMap.above] using Nat.lt_of_not_le h

theorem SMap.get_dropLe_above : ∀ (m : SMap α) {j k : Nat}, k < j → SMap.get d (SMap.dropLe k m) j = SMap.get d m j
  | [], _, _, _ => rfl
  | (i, v) :: t, j, k, hj => by
    by_cases h : i ≤ k
    · have h1 : j ≠ i := by omega
      have h2 : ¬ j < i := by omega
      simpa [SMap.dropLe, h, SMap.get, h1, h2] using SMap.get_dropLe_above t hj
    · simp [SMap.dropLe, h]

/-- A write leaves every other key as it read. -/
theorem SMap.get_set_ne [DecidableEq α] (d : Nat → α) : ∀ (m : SMap α) {j k : Nat} (v : α), j ≠ k →
    SMap.get d (SMap.set d m k v) j = SMap.get d m j
  | [], j, k, v, h => by
    by_cases hv : v = d k
    · simp [SMap.set, hv]
    · by_cases hj : j < k <;> simp [SMap.set, hv, SMap.get, h, hj]
  | (i, w) :: t, j, k, v, h => by
    unfold SMap.set
    by_cases h1 : k < i
    · by_cases hv : v = d k
      · simp [h1, hv]
      · by_cases hj : j < k
        · have h2 : j ≠ i := by omega
          have h3 : j < i := by omega
          simp [h1, hv, SMap.get, h, hj, h2, h3]
        · simp [h1, hv, SMap.get, h, hj]
    · by_cases h2 : k = i
      · subst h2
        by_cases hv : v = d k
        · by_cases hj : j < k
          · simp [hv, SMap.get, h, hj, SMap.get_of_above (SMap.above_dropLe k t) (Nat.le_of_lt hj)]
          · have hk : k < j := by omega
            simp [hv, SMap.get, h, hj, SMap.get_dropLe_above t hk]
        · simp [hv, SMap.get, h]
      · simp [h1, h2, SMap.get, SMap.get_set_ne d t v h]

/-- One lemma for both: what a key reads as after a write. -/
theorem SMap.get_set [DecidableEq α] (d : Nat → α) (m : SMap α) (j k : Nat) (v : α) :
    SMap.get d (SMap.set d m k v) j = if j = k then v else SMap.get d m j := by
  by_cases h : j = k
  · simp [h]
  · simp [h, SMap.get_set_ne d m v h]

theorem SMap.get_mod [DecidableEq α] (d : Nat → α) (m : SMap α) (j k : Nat) (f : α → α) :
    SMap.get d (SMap.mod d m k f) j = if j = k then f (SMap.get d m k) else SMap.get d m j :=
  SMap.get_set d m j k _

/-! ## The canonical form -/

theorem SMap.wf_tail [DecidableEq α] {p : Nat × α} (h : SMap.wf d (p :: m) = true) : SMap.wf d m = true := by
  simp only [SMap.wf, Bool.and_eq_true] at h; exact h.2

theorem SMap.dropLe_of_above : ∀ {m : SMap α}, SMap.above k m = true → SMap.dropLe k m = m
  | [], _ => rfl
  | (i, v) :: t, h => by
    simp only [SMap.above, decide_eq_true_eq] at h
    simp [SMap.dropLe, Nat.not_le.mpr h]

theorem SMap.above_set [DecidableEq α] (hj : j < k) : ∀ {m : SMap α}, SMap.above j m = true → SMap.wf d m = true →
    SMap.above j (SMap.set d m k v) = true
  | [], _, _ => by by_cases h : v = d k <;> simp [SMap.set, h, SMap.above, hj]
  | (i, w) :: t, ha, hw => by
    unfold SMap.set
    have ha' := ha
    simp only [SMap.wf, Bool.and_eq_true, decide_eq_true_eq] at hw
    simp only [SMap.above, decide_eq_true_eq] at ha
    by_cases h1 : k < i
    · by_cases hv : v = d k <;> simp [h1, hv, SMap.above, ha, hj]
    · by_cases h2 : k = i
      · subst h2
        by_cases hv : v = d k
        · simp only [hv, Nat.lt_irrefl, if_true, if_false, SMap.dropLe_of_above hw.1.1]
          exact SMap.above_mono (Nat.le_of_lt hj) hw.1.1
        · simp [hv, SMap.above, hj]
      · simpa [h1, h2, SMap.above] using ha

/-- Every write keeps the canonical form. -/
theorem SMap.wf_set [DecidableEq α] : ∀ {m : SMap α}, SMap.wf d m = true → SMap.wf d (SMap.set d m k v) = true
  | [], _ => by by_cases h : v = d k <;> simp [SMap.set, h, SMap.wf, SMap.above]
  | (i, w) :: t, hw => by
    unfold SMap.set
    have hw' := hw
    simp only [SMap.wf, Bool.and_eq_true, decide_eq_true_eq] at hw
    by_cases h1 : k < i
    · by_cases hv : v = d k
      · simpa [h1, hv] using hw'
      · simp only [h1, hv, if_true, if_false]
        have h3 : SMap.above k ((i, w) :: t) = true := by simpa [SMap.above] using h1
        simp only [SMap.wf, h3, hw.1.1, hw.1.2, hw.2, ne_eq, hv, not_false_eq_true, decide_true, Bool.and_self]
    · by_cases h2 : k = i
      · subst h2
        by_cases hv : v = d k
        · simpa [hv, SMap.dropLe_of_above hw.1.1] using hw.2
        · simp [hv, SMap.wf, hw.1.1, hw.2]
      · have h3 : i < k := by omega
        simp [h1, h2, SMap.wf, SMap.above_set h3 hw.1.1 hw.2, hw.1.2, SMap.wf_set hw.2]

theorem SMap.wf_mod [DecidableEq α] {f : α → α} (h : SMap.wf d m = true) : SMap.wf d (SMap.mod d m k f) = true :=
  SMap.wf_set h

theorem SMap.wf_setMany [DecidableEq α] {f : Nat → α} : ∀ {ks : List Nat} {m : SMap α}, SMap.wf d m = true →
    SMap.wf d (SMap.setMany d m ks f) = true
  | [], _, h => h
  | _ :: ks, _, h => SMap.wf_setMany (ks := ks) (SMap.wf_set h)

/-- Canonical maps that read alike at every key are the same list. -/
theorem SMap.eq_of_get [DecidableEq α] : ∀ {m n : SMap α}, SMap.wf d m = true → SMap.wf d n = true →
    (∀ k, SMap.get d m k = SMap.get d n k) → m = n
  | [], [], _, _, _ => rfl
  | [], (k, v) :: t, _, hn, h => by
    simp only [SMap.wf, Bool.and_eq_true, decide_eq_true_eq] at hn
    have := h k
    simp [SMap.get] at this
    exact absurd this.symm hn.1.2
  | (k, v) :: t, [], hm, _, h => by
    simp only [SMap.wf, Bool.and_eq_true, decide_eq_true_eq] at hm
    have := h k
    simp [SMap.get] at this
    exact absurd this hm.1.2
  | (i, v) :: t, (j, w) :: u, hm, hn, h => by
    simp only [SMap.wf, Bool.and_eq_true, decide_eq_true_eq] at hm hn
    have hij : i = j := by
      rcases Nat.lt_trichotomy i j with h1 | h1 | h1
      · have := h i
        simp [SMap.get, h1, Nat.ne_of_lt h1] at this
        exact absurd this hm.1.2
      · exact h1
      · have := h j
        simp [SMap.get, h1, Nat.ne_of_lt h1] at this
        exact absurd this.symm hn.1.2
    subst hij
    have hvw : v = w := by simpa [SMap.get] using h i
    subst hvw
    have : t = u := SMap.eq_of_get hm.2 hn.2 (fun k => by
      rcases Nat.lt_trichotomy k i with h1 | h1 | h1
      · rw [SMap.get_of_above hm.1.1 (Nat.le_of_lt h1), SMap.get_of_above hn.1.1 (Nat.le_of_lt h1)]
      · subst h1
        rw [SMap.get_of_above hm.1.1 (Nat.le_refl _), SMap.get_of_above hn.1.1 (Nat.le_refl _)]
      · have h2 := h k
        have h3 : k ≠ i := by omega
        have h4 : ¬ k < i := by omega
        simpa [SMap.get, h3, h4] using h2)
    rw [this]

end Sys2Proof.Machine
end

