-- ==== Sys2Proof/Laws/State.lean ====
section
/-!
SUPPORT. Sys2Proof/Laws/State.lean: for each update of the module one lemma per field, and what a register, a field of a
register or a unit reads as after each update.
-/

namespace Sys2Proof.Machine

/-- The registers' places in the register file are distinct. -/
theorem RName.ctorIdx_inj {a b : RName} (h : a.ctorIdx = b.ctorIdx) : a = b := by
  rw [← RName.ofNat_ctorIdx a, h, RName.ofNat_ctorIdx]

/-! ## Registers -/

/-- What register q, index j, reads as after register r, index i, is set. -/
theorem Dev.rd_wr (s : Dev) (r q : RName) (i j : Nat) (v : Word) :
    (s.wr r i v).rd q j = if q = r ∧ j = i then v else s.rd q j := by
  unfold Dev.rd Dev.wr
  by_cases h : q = r
  · subst h
    simp [SMap.get_set]
  · have h' : q.ctorIdx ≠ r.ctorIdx := fun e => h (RName.ctorIdx_inj e)
    simp [h, h', SMap.get_set]

@[simp] theorem Dev.rd_wr_self (s : Dev) (r : RName) (i : Nat) (v : Word) : (s.wr r i v).rd r i = v := by
  simp [Dev.rd_wr]

@[simp] theorem Dev.rd_wr_ne (s : Dev) {r q : RName} (i j : Nat) (v : Word) (h : q ≠ r) :
    (s.wr r i v).rd q j = s.rd q j := by simp [Dev.rd_wr, h]

@[simp] theorem Dev.rd_wr_idx (s : Dev) {r : RName} {i j : Nat} (v : Word) (h : j ≠ i) :
    (s.wr r i v).rd r j = s.rd r j := by simp [Dev.rd_wr, h]

/-! ## What `wr` leaves -/

@[simp] theorem Dev.latch_wr (s : Dev) (r : RName) (i : Nat) (v : Word) : (s.wr r i v).latch = s.latch := rfl
@[simp] theorem Dev.resp_wr (s : Dev) (r : RName) (i : Nat) (v : Word) : (s.wr r i v).resp = s.resp := rfl
@[simp] theorem Dev.freeCtr_wr (s : Dev) (r : RName) (i : Nat) (v : Word) : (s.wr r i v).freeCtr = s.freeCtr := rfl
@[simp] theorem Dev.clk_wr (s : Dev) (r : RName) (i : Nat) (v : Word) : (s.wr r i v).clk = s.clk := rfl
@[simp] theorem Dev.time_wr (s : Dev) (r : RName) (i : Nat) (v : Word) : (s.wr r i v).time = s.time := rfl
@[simp] theorem Dev.pwr_wr (s : Dev) (r : RName) (i : Nat) (v : Word) : (s.wr r i v).pwr = s.pwr := rfl
@[simp] theorem Dev.svp_wr (s : Dev) (r : RName) (i : Nat) (v : Word) : (s.wr r i v).svp = s.svp := rfl
@[simp] theorem Dev.lcs_wr (s : Dev) (r : RName) (i : Nat) (v : Word) : (s.wr r i v).lcs = s.lcs := rfl
@[simp] theorem Dev.cmd_wr (s : Dev) (r : RName) (i : Nat) (v : Word) : (s.wr r i v).cmd = s.cmd := rfl
@[simp] theorem Dev.timers_wr (s : Dev) (r : RName) (i : Nat) (v : Word) : (s.wr r i v).timers = s.timers := rfl
@[simp] theorem Dev.ing_wr (s : Dev) (r : RName) (i : Nat) (v : Word) : (s.wr r i v).ing = s.ing := rfl
@[simp] theorem Dev.comb_wr (s : Dev) (r : RName) (i : Nat) (v : Word) : (s.wr r i v).comb = s.comb := rfl
@[simp] theorem Dev.engines_wr (s : Dev) (r : RName) (i : Nat) (v : Word) : (s.wr r i v).engines = s.engines := rfl
@[simp] theorem Dev.hives_wr (s : Dev) (r : RName) (i : Nat) (v : Word) : (s.wr r i v).hives = s.hives := rfl
@[simp] theorem Dev.cores_wr (s : Dev) (r : RName) (i : Nat) (v : Word) : (s.wr r i v).cores = s.cores := rfl
@[simp] theorem Dev.mem_wr (s : Dev) (r : RName) (i : Nat) (v : Word) : (s.wr r i v).mem = s.mem := rfl
@[simp] theorem Dev.trg_wr (s : Dev) (r : RName) (i : Nat) (v : Word) : (s.wr r i v).trg = s.trg := rfl
@[simp] theorem Dev.pub_wr (s : Dev) (r : RName) (i : Nat) (v : Word) : (s.wr r i v).pub = s.pub := rfl
@[simp] theorem Dev.jrn_wr (s : Dev) (r : RName) (i : Nat) (v : Word) : (s.wr r i v).jrn = s.jrn := rfl
@[simp] theorem Dev.ic_wr (s : Dev) (r : RName) (i : Nat) (v : Word) : (s.wr r i v).ic = s.ic := rfl
@[simp] theorem Dev.wdg_wr (s : Dev) (r : RName) (i : Nat) (v : Word) : (s.wr r i v).wdg = s.wdg := rfl
@[simp] theorem Dev.eth_wr (s : Dev) (r : RName) (i : Nat) (v : Word) : (s.wr r i v).eth = s.eth := rfl
@[simp] theorem Dev.dup_wr (s : Dev) (r : RName) (i : Nat) (v : Word) : (s.wr r i v).dup = s.dup := rfl
@[simp] theorem Dev.blk_wr (s : Dev) (r : RName) (i : Nat) (v : Word) : (s.wr r i v).blk = s.blk := rfl
@[simp] theorem Dev.zdp_wr (s : Dev) (r : RName) (i : Nat) (v : Word) : (s.wr r i v).zdp = s.zdp := rfl
@[simp] theorem Dev.trc_wr (s : Dev) (r : RName) (i : Nat) (v : Word) : (s.wr r i v).trc = s.trc := rfl

/-! ## What `fs` leaves -/

@[simp] theorem Dev.latch_fs (s : Dev) (f : Fld) (i v : Nat) : (s.fs f i v).latch = s.latch := rfl
@[simp] theorem Dev.resp_fs (s : Dev) (f : Fld) (i v : Nat) : (s.fs f i v).resp = s.resp := rfl
@[simp] theorem Dev.freeCtr_fs (s : Dev) (f : Fld) (i v : Nat) : (s.fs f i v).freeCtr = s.freeCtr := rfl
@[simp] theorem Dev.clk_fs (s : Dev) (f : Fld) (i v : Nat) : (s.fs f i v).clk = s.clk := rfl
@[simp] theorem Dev.time_fs (s : Dev) (f : Fld) (i v : Nat) : (s.fs f i v).time = s.time := rfl
@[simp] theorem Dev.pwr_fs (s : Dev) (f : Fld) (i v : Nat) : (s.fs f i v).pwr = s.pwr := rfl
@[simp] theorem Dev.svp_fs (s : Dev) (f : Fld) (i v : Nat) : (s.fs f i v).svp = s.svp := rfl
@[simp] theorem Dev.lcs_fs (s : Dev) (f : Fld) (i v : Nat) : (s.fs f i v).lcs = s.lcs := rfl
@[simp] theorem Dev.cmd_fs (s : Dev) (f : Fld) (i v : Nat) : (s.fs f i v).cmd = s.cmd := rfl
@[simp] theorem Dev.timers_fs (s : Dev) (f : Fld) (i v : Nat) : (s.fs f i v).timers = s.timers := rfl
@[simp] theorem Dev.ing_fs (s : Dev) (f : Fld) (i v : Nat) : (s.fs f i v).ing = s.ing := rfl
@[simp] theorem Dev.comb_fs (s : Dev) (f : Fld) (i v : Nat) : (s.fs f i v).comb = s.comb := rfl
@[simp] theorem Dev.engines_fs (s : Dev) (f : Fld) (i v : Nat) : (s.fs f i v).engines = s.engines := rfl
@[simp] theorem Dev.hives_fs (s : Dev) (f : Fld) (i v : Nat) : (s.fs f i v).hives = s.hives := rfl
@[simp] theorem Dev.cores_fs (s : Dev) (f : Fld) (i v : Nat) : (s.fs f i v).cores = s.cores := rfl
@[simp] theorem Dev.mem_fs (s : Dev) (f : Fld) (i v : Nat) : (s.fs f i v).mem = s.mem := rfl
@[simp] theorem Dev.trg_fs (s : Dev) (f : Fld) (i v : Nat) : (s.fs f i v).trg = s.trg := rfl
@[simp] theorem Dev.pub_fs (s : Dev) (f : Fld) (i v : Nat) : (s.fs f i v).pub = s.pub := rfl
@[simp] theorem Dev.jrn_fs (s : Dev) (f : Fld) (i v : Nat) : (s.fs f i v).jrn = s.jrn := rfl
@[simp] theorem Dev.ic_fs (s : Dev) (f : Fld) (i v : Nat) : (s.fs f i v).ic = s.ic := rfl
@[simp] theorem Dev.wdg_fs (s : Dev) (f : Fld) (i v : Nat) : (s.fs f i v).wdg = s.wdg := rfl
@[simp] theorem Dev.eth_fs (s : Dev) (f : Fld) (i v : Nat) : (s.fs f i v).eth = s.eth := rfl
@[simp] theorem Dev.dup_fs (s : Dev) (f : Fld) (i v : Nat) : (s.fs f i v).dup = s.dup := rfl
@[simp] theorem Dev.blk_fs (s : Dev) (f : Fld) (i v : Nat) : (s.fs f i v).blk = s.blk := rfl
@[simp] theorem Dev.zdp_fs (s : Dev) (f : Fld) (i v : Nat) : (s.fs f i v).zdp = s.zdp := rfl
@[simp] theorem Dev.trc_fs (s : Dev) (f : Fld) (i v : Nat) : (s.fs f i v).trc = s.trc := rfl

/-! ## What `ok` leaves -/

@[simp] theorem Dev.regs_ok (s : Dev) (v : Nat) : (s.ok v).regs = s.regs := rfl
@[simp] theorem Dev.latch_ok (s : Dev) (v : Nat) : (s.ok v).latch = s.latch := rfl
@[simp] theorem Dev.freeCtr_ok (s : Dev) (v : Nat) : (s.ok v).freeCtr = s.freeCtr := rfl
@[simp] theorem Dev.clk_ok (s : Dev) (v : Nat) : (s.ok v).clk = s.clk := rfl
@[simp] theorem Dev.time_ok (s : Dev) (v : Nat) : (s.ok v).time = s.time := rfl
@[simp] theorem Dev.pwr_ok (s : Dev) (v : Nat) : (s.ok v).pwr = s.pwr := rfl
@[simp] theorem Dev.svp_ok (s : Dev) (v : Nat) : (s.ok v).svp = s.svp := rfl
@[simp] theorem Dev.lcs_ok (s : Dev) (v : Nat) : (s.ok v).lcs = s.lcs := rfl
@[simp] theorem Dev.cmd_ok (s : Dev) (v : Nat) : (s.ok v).cmd = s.cmd := rfl
@[simp] theorem Dev.timers_ok (s : Dev) (v : Nat) : (s.ok v).timers = s.timers := rfl
@[simp] theorem Dev.ing_ok (s : Dev) (v : Nat) : (s.ok v).ing = s.ing := rfl
@[simp] theorem Dev.comb_ok (s : Dev) (v : Nat) : (s.ok v).comb = s.comb := rfl
@[simp] theorem Dev.engines_ok (s : Dev) (v : Nat) : (s.ok v).engines = s.engines := rfl
@[simp] theorem Dev.hives_ok (s : Dev) (v : Nat) : (s.ok v).hives = s.hives := rfl
@[simp] theorem Dev.cores_ok (s : Dev) (v : Nat) : (s.ok v).cores = s.cores := rfl
@[simp] theorem Dev.mem_ok (s : Dev) (v : Nat) : (s.ok v).mem = s.mem := rfl
@[simp] theorem Dev.trg_ok (s : Dev) (v : Nat) : (s.ok v).trg = s.trg := rfl
@[simp] theorem Dev.pub_ok (s : Dev) (v : Nat) : (s.ok v).pub = s.pub := rfl
@[simp] theorem Dev.jrn_ok (s : Dev) (v : Nat) : (s.ok v).jrn = s.jrn := rfl
@[simp] theorem Dev.ic_ok (s : Dev) (v : Nat) : (s.ok v).ic = s.ic := rfl
@[simp] theorem Dev.wdg_ok (s : Dev) (v : Nat) : (s.ok v).wdg = s.wdg := rfl
@[simp] theorem Dev.eth_ok (s : Dev) (v : Nat) : (s.ok v).eth = s.eth := rfl
@[simp] theorem Dev.dup_ok (s : Dev) (v : Nat) : (s.ok v).dup = s.dup := rfl
@[simp] theorem Dev.blk_ok (s : Dev) (v : Nat) : (s.ok v).blk = s.blk := rfl
@[simp] theorem Dev.zdp_ok (s : Dev) (v : Nat) : (s.ok v).zdp = s.zdp := rfl
@[simp] theorem Dev.trc_ok (s : Dev) (v : Nat) : (s.ok v).trc = s.trc := rfl
@[simp] theorem Dev.rd_ok (s : Dev) (v : Nat) (q : RName) (j : Nat) : (s.ok v).rd q j = s.rd q j := rfl
@[simp] theorem Dev.fg_ok (s : Dev) (v : Nat) (g : Fld) (j : Nat) : (s.ok v).fg g j = s.fg g j := rfl

/-! ## What `bad` leaves -/

@[simp] theorem Dev.regs_bad (s : Dev) : (s.bad).regs = s.regs := rfl
@[simp] theorem Dev.latch_bad (s : Dev) : (s.bad).latch = s.latch := rfl
@[simp] theorem Dev.freeCtr_bad (s : Dev) : (s.bad).freeCtr = s.freeCtr := rfl
@[simp] theorem Dev.clk_bad (s : Dev) : (s.bad).clk = s.clk := rfl
@[simp] theorem Dev.time_bad (s : Dev) : (s.bad).time = s.time := rfl
@[simp] theorem Dev.pwr_bad (s : Dev) : (s.bad).pwr = s.pwr := rfl
@[simp] theorem Dev.svp_bad (s : Dev) : (s.bad).svp = s.svp := rfl
@[simp] theorem Dev.lcs_bad (s : Dev) : (s.bad).lcs = s.lcs := rfl
@[simp] theorem Dev.cmd_bad (s : Dev) : (s.bad).cmd = s.cmd := rfl
@[simp] theorem Dev.timers_bad (s : Dev) : (s.bad).timers = s.timers := rfl
@[simp] theorem Dev.ing_bad (s : Dev) : (s.bad).ing = s.ing := rfl
@[simp] theorem Dev.comb_bad (s : Dev) : (s.bad).comb = s.comb := rfl
@[simp] theorem Dev.engines_bad (s : Dev) : (s.bad).engines = s.engines := rfl
@[simp] theorem Dev.hives_bad (s : Dev) : (s.bad).hives = s.hives := rfl
@[simp] theorem Dev.cores_bad (s : Dev) : (s.bad).cores = s.cores := rfl
@[simp] theorem Dev.mem_bad (s : Dev) : (s.bad).mem = s.mem := rfl
@[simp] theorem Dev.trg_bad (s : Dev) : (s.bad).trg = s.trg := rfl
@[simp] theorem Dev.pub_bad (s : Dev) : (s.bad).pub = s.pub := rfl
@[simp] theorem Dev.jrn_bad (s : Dev) : (s.bad).jrn = s.jrn := rfl
@[simp] theorem Dev.ic_bad (s : Dev) : (s.bad).ic = s.ic := rfl
@[simp] theorem Dev.wdg_bad (s : Dev) : (s.bad).wdg = s.wdg := rfl
@[simp] theorem Dev.eth_bad (s : Dev) : (s.bad).eth = s.eth := rfl
@[simp] theorem Dev.dup_bad (s : Dev) : (s.bad).dup = s.dup := rfl
@[simp] theorem Dev.blk_bad (s : Dev) : (s.bad).blk = s.blk := rfl
@[simp] theorem Dev.zdp_bad (s : Dev) : (s.bad).zdp = s.zdp := rfl
@[simp] theorem Dev.trc_bad (s : Dev) : (s.bad).trc = s.trc := rfl
@[simp] theorem Dev.rd_bad (s : Dev) (q : RName) (j : Nat) : (s.bad).rd q j = s.rd q j := rfl
@[simp] theorem Dev.fg_bad (s : Dev) (g : Fld) (j : Nat) : (s.bad).fg g j = s.fg g j := rfl

/-! ## What `draw` leaves -/

@[simp] theorem Dev.regs_draw (s : Dev) : (s.draw).regs = s.regs := rfl
@[simp] theorem Dev.latch_draw (s : Dev) : (s.draw).latch = s.latch := rfl
@[simp] theorem Dev.resp_draw (s : Dev) : (s.draw).resp = s.resp := rfl
@[simp] theorem Dev.clk_draw (s : Dev) : (s.draw).clk = s.clk := rfl
@[simp] theorem Dev.time_draw (s : Dev) : (s.draw).time = s.time := rfl
@[simp] theorem Dev.pwr_draw (s : Dev) : (s.draw).pwr = s.pwr := rfl
@[simp] theorem Dev.svp_draw (s : Dev) : (s.draw).svp = s.svp := rfl
@[simp] theorem Dev.lcs_draw (s : Dev) : (s.draw).lcs = s.lcs := rfl
@[simp] theorem Dev.cmd_draw (s : Dev) : (s.draw).cmd = s.cmd := rfl
@[simp] theorem Dev.timers_draw (s : Dev) : (s.draw).timers = s.timers := rfl
@[simp] theorem Dev.ing_draw (s : Dev) : (s.draw).ing = s.ing := rfl
@[simp] theorem Dev.comb_draw (s : Dev) : (s.draw).comb = s.comb := rfl
@[simp] theorem Dev.engines_draw (s : Dev) : (s.draw).engines = s.engines := rfl
@[simp] theorem Dev.hives_draw (s : Dev) : (s.draw).hives = s.hives := rfl
@[simp] theorem Dev.cores_draw (s : Dev) : (s.draw).cores = s.cores := rfl
@[simp] theorem Dev.mem_draw (s : Dev) : (s.draw).mem = s.mem := rfl
@[simp] theorem Dev.trg_draw (s : Dev) : (s.draw).trg = s.trg := rfl
@[simp] theorem Dev.pub_draw (s : Dev) : (s.draw).pub = s.pub := rfl
@[simp] theorem Dev.jrn_draw (s : Dev) : (s.draw).jrn = s.jrn := rfl
@[simp] theorem Dev.ic_draw (s : Dev) : (s.draw).ic = s.ic := rfl
@[simp] theorem Dev.wdg_draw (s : Dev) : (s.draw).wdg = s.wdg := rfl
@[simp] theorem Dev.eth_draw (s : Dev) : (s.draw).eth = s.eth := rfl
@[simp] theorem Dev.dup_draw (s : Dev) : (s.draw).dup = s.dup := rfl
@[simp] theorem Dev.blk_draw (s : Dev) : (s.draw).blk = s.blk := rfl
@[simp] theorem Dev.zdp_draw (s : Dev) : (s.draw).zdp = s.zdp := rfl
@[simp] theorem Dev.trc_draw (s : Dev) : (s.draw).trc = s.trc := rfl
@[simp] theorem Dev.rd_draw (s : Dev) (q : RName) (j : Nat) : (s.draw).rd q j = s.rd q j := rfl
@[simp] theorem Dev.fg_draw (s : Dev) (g : Fld) (j : Nat) : (s.draw).fg g j = s.fg g j := rfl

/-! ## What `onEng` leaves -/

@[simp] theorem Dev.regs_onEng (s : Dev) (e : Nat) (f : Engine → Engine) : (s.onEng e f).regs = s.regs := rfl
@[simp] theorem Dev.latch_onEng (s : Dev) (e : Nat) (f : Engine → Engine) : (s.onEng e f).latch = s.latch := rfl
@[simp] theorem Dev.resp_onEng (s : Dev) (e : Nat) (f : Engine → Engine) : (s.onEng e f).resp = s.resp := rfl
@[simp] theorem Dev.freeCtr_onEng (s : Dev) (e : Nat) (f : Engine → Engine) : (s.onEng e f).freeCtr = s.freeCtr := rfl
@[simp] theorem Dev.clk_onEng (s : Dev) (e : Nat) (f : Engine → Engine) : (s.onEng e f).clk = s.clk := rfl
@[simp] theorem Dev.time_onEng (s : Dev) (e : Nat) (f : Engine → Engine) : (s.onEng e f).time = s.time := rfl
@[simp] theorem Dev.pwr_onEng (s : Dev) (e : Nat) (f : Engine → Engine) : (s.onEng e f).pwr = s.pwr := rfl
@[simp] theorem Dev.svp_onEng (s : Dev) (e : Nat) (f : Engine → Engine) : (s.onEng e f).svp = s.svp := rfl
@[simp] theorem Dev.lcs_onEng (s : Dev) (e : Nat) (f : Engine → Engine) : (s.onEng e f).lcs = s.lcs := rfl
@[simp] theorem Dev.cmd_onEng (s : Dev) (e : Nat) (f : Engine → Engine) : (s.onEng e f).cmd = s.cmd := rfl
@[simp] theorem Dev.timers_onEng (s : Dev) (e : Nat) (f : Engine → Engine) : (s.onEng e f).timers = s.timers := rfl
@[simp] theorem Dev.ing_onEng (s : Dev) (e : Nat) (f : Engine → Engine) : (s.onEng e f).ing = s.ing := rfl
@[simp] theorem Dev.comb_onEng (s : Dev) (e : Nat) (f : Engine → Engine) : (s.onEng e f).comb = s.comb := rfl
@[simp] theorem Dev.hives_onEng (s : Dev) (e : Nat) (f : Engine → Engine) : (s.onEng e f).hives = s.hives := rfl
@[simp] theorem Dev.cores_onEng (s : Dev) (e : Nat) (f : Engine → Engine) : (s.onEng e f).cores = s.cores := rfl
@[simp] theorem Dev.mem_onEng (s : Dev) (e : Nat) (f : Engine → Engine) : (s.onEng e f).mem = s.mem := rfl
@[simp] theorem Dev.trg_onEng (s : Dev) (e : Nat) (f : Engine → Engine) : (s.onEng e f).trg = s.trg := rfl
@[simp] theorem Dev.pub_onEng (s : Dev) (e : Nat) (f : Engine → Engine) : (s.onEng e f).pub = s.pub := rfl
@[simp] theorem Dev.jrn_onEng (s : Dev) (e : Nat) (f : Engine → Engine) : (s.onEng e f).jrn = s.jrn := rfl
@[simp] theorem Dev.ic_onEng (s : Dev) (e : Nat) (f : Engine → Engine) : (s.onEng e f).ic = s.ic := rfl
@[simp] theorem Dev.wdg_onEng (s : Dev) (e : Nat) (f : Engine → Engine) : (s.onEng e f).wdg = s.wdg := rfl
@[simp] theorem Dev.eth_onEng (s : Dev) (e : Nat) (f : Engine → Engine) : (s.onEng e f).eth = s.eth := rfl
@[simp] theorem Dev.dup_onEng (s : Dev) (e : Nat) (f : Engine → Engine) : (s.onEng e f).dup = s.dup := rfl
@[simp] theorem Dev.blk_onEng (s : Dev) (e : Nat) (f : Engine → Engine) : (s.onEng e f).blk = s.blk := rfl
@[simp] theorem Dev.zdp_onEng (s : Dev) (e : Nat) (f : Engine → Engine) : (s.onEng e f).zdp = s.zdp := rfl
@[simp] theorem Dev.trc_onEng (s : Dev) (e : Nat) (f : Engine → Engine) : (s.onEng e f).trc = s.trc := rfl
@[simp] theorem Dev.rd_onEng (s : Dev) (e : Nat) (f : Engine → Engine) (q : RName) (j : Nat) : (s.onEng e f).rd q j = s.rd q j := rfl
@[simp] theorem Dev.fg_onEng (s : Dev) (e : Nat) (f : Engine → Engine) (g : Fld) (j : Nat) : (s.onEng e f).fg g j = s.fg g j := rfl

/-! ## What `onHive` leaves -/

@[simp] theorem Dev.regs_onHive (s : Dev) (h : Nat) (f : Hive → Hive) : (s.onHive h f).regs = s.regs := rfl
@[simp] theorem Dev.latch_onHive (s : Dev) (h : Nat) (f : Hive → Hive) : (s.onHive h f).latch = s.latch := rfl
@[simp] theorem Dev.resp_onHive (s : Dev) (h : Nat) (f : Hive → Hive) : (s.onHive h f).resp = s.resp := rfl
@[simp] theorem Dev.freeCtr_onHive (s : Dev) (h : Nat) (f : Hive → Hive) : (s.onHive h f).freeCtr = s.freeCtr := rfl
@[simp] theorem Dev.clk_onHive (s : Dev) (h : Nat) (f : Hive → Hive) : (s.onHive h f).clk = s.clk := rfl
@[simp] theorem Dev.time_onHive (s : Dev) (h : Nat) (f : Hive → Hive) : (s.onHive h f).time = s.time := rfl
@[simp] theorem Dev.pwr_onHive (s : Dev) (h : Nat) (f : Hive → Hive) : (s.onHive h f).pwr = s.pwr := rfl
@[simp] theorem Dev.svp_onHive (s : Dev) (h : Nat) (f : Hive → Hive) : (s.onHive h f).svp = s.svp := rfl
@[simp] theorem Dev.lcs_onHive (s : Dev) (h : Nat) (f : Hive → Hive) : (s.onHive h f).lcs = s.lcs := rfl
@[simp] theorem Dev.cmd_onHive (s : Dev) (h : Nat) (f : Hive → Hive) : (s.onHive h f).cmd = s.cmd := rfl
@[simp] theorem Dev.timers_onHive (s : Dev) (h : Nat) (f : Hive → Hive) : (s.onHive h f).timers = s.timers := rfl
@[simp] theorem Dev.ing_onHive (s : Dev) (h : Nat) (f : Hive → Hive) : (s.onHive h f).ing = s.ing := rfl
@[simp] theorem Dev.comb_onHive (s : Dev) (h : Nat) (f : Hive → Hive) : (s.onHive h f).comb = s.comb := rfl
@[simp] theorem Dev.engines_onHive (s : Dev) (h : Nat) (f : Hive → Hive) : (s.onHive h f).engines = s.engines := rfl
@[simp] theorem Dev.cores_onHive (s : Dev) (h : Nat) (f : Hive → Hive) : (s.onHive h f).cores = s.cores := rfl
@[simp] theorem Dev.mem_onHive (s : Dev) (h : Nat) (f : Hive → Hive) : (s.onHive h f).mem = s.mem := rfl
@[simp] theorem Dev.trg_onHive (s : Dev) (h : Nat) (f : Hive → Hive) : (s.onHive h f).trg = s.trg := rfl
@[simp] theorem Dev.pub_onHive (s : Dev) (h : Nat) (f : Hive → Hive) : (s.onHive h f).pub = s.pub := rfl
@[simp] theorem Dev.jrn_onHive (s : Dev) (h : Nat) (f : Hive → Hive) : (s.onHive h f).jrn = s.jrn := rfl
@[simp] theorem Dev.ic_onHive (s : Dev) (h : Nat) (f : Hive → Hive) : (s.onHive h f).ic = s.ic := rfl
@[simp] theorem Dev.wdg_onHive (s : Dev) (h : Nat) (f : Hive → Hive) : (s.onHive h f).wdg = s.wdg := rfl
@[simp] theorem Dev.eth_onHive (s : Dev) (h : Nat) (f : Hive → Hive) : (s.onHive h f).eth = s.eth := rfl
@[simp] theorem Dev.dup_onHive (s : Dev) (h : Nat) (f : Hive → Hive) : (s.onHive h f).dup = s.dup := rfl
@[simp] theorem Dev.blk_onHive (s : Dev) (h : Nat) (f : Hive → Hive) : (s.onHive h f).blk = s.blk := rfl
@[simp] theorem Dev.zdp_onHive (s : Dev) (h : Nat) (f : Hive → Hive) : (s.onHive h f).zdp = s.zdp := rfl
@[simp] theorem Dev.trc_onHive (s : Dev) (h : Nat) (f : Hive → Hive) : (s.onHive h f).trc = s.trc := rfl
@[simp] theorem Dev.rd_onHive (s : Dev) (h : Nat) (f : Hive → Hive) (q : RName) (j : Nat) : (s.onHive h f).rd q j = s.rd q j := rfl
@[simp] theorem Dev.fg_onHive (s : Dev) (h : Nat) (f : Hive → Hive) (g : Fld) (j : Nat) : (s.onHive h f).fg g j = s.fg g j := rfl

/-! ## What `onCore` leaves -/

@[simp] theorem Dev.regs_onCore (s : Dev) (m : Nat) (f : ACore → ACore) : (s.onCore m f).regs = s.regs := rfl
@[simp] theorem Dev.latch_onCore (s : Dev) (m : Nat) (f : ACore → ACore) : (s.onCore m f).latch = s.latch := rfl
@[simp] theorem Dev.resp_onCore (s : Dev) (m : Nat) (f : ACore → ACore) : (s.onCore m f).resp = s.resp := rfl
@[simp] theorem Dev.freeCtr_onCore (s : Dev) (m : Nat) (f : ACore → ACore) : (s.onCore m f).freeCtr = s.freeCtr := rfl
@[simp] theorem Dev.clk_onCore (s : Dev) (m : Nat) (f : ACore → ACore) : (s.onCore m f).clk = s.clk := rfl
@[simp] theorem Dev.time_onCore (s : Dev) (m : Nat) (f : ACore → ACore) : (s.onCore m f).time = s.time := rfl
@[simp] theorem Dev.pwr_onCore (s : Dev) (m : Nat) (f : ACore → ACore) : (s.onCore m f).pwr = s.pwr := rfl
@[simp] theorem Dev.svp_onCore (s : Dev) (m : Nat) (f : ACore → ACore) : (s.onCore m f).svp = s.svp := rfl
@[simp] theorem Dev.lcs_onCore (s : Dev) (m : Nat) (f : ACore → ACore) : (s.onCore m f).lcs = s.lcs := rfl
@[simp] theorem Dev.cmd_onCore (s : Dev) (m : Nat) (f : ACore → ACore) : (s.onCore m f).cmd = s.cmd := rfl
@[simp] theorem Dev.timers_onCore (s : Dev) (m : Nat) (f : ACore → ACore) : (s.onCore m f).timers = s.timers := rfl
@[simp] theorem Dev.ing_onCore (s : Dev) (m : Nat) (f : ACore → ACore) : (s.onCore m f).ing = s.ing := rfl
@[simp] theorem Dev.comb_onCore (s : Dev) (m : Nat) (f : ACore → ACore) : (s.onCore m f).comb = s.comb := rfl
@[simp] theorem Dev.engines_onCore (s : Dev) (m : Nat) (f : ACore → ACore) : (s.onCore m f).engines = s.engines := rfl
@[simp] theorem Dev.hives_onCore (s : Dev) (m : Nat) (f : ACore → ACore) : (s.onCore m f).hives = s.hives := rfl
@[simp] theorem Dev.mem_onCore (s : Dev) (m : Nat) (f : ACore → ACore) : (s.onCore m f).mem = s.mem := rfl
@[simp] theorem Dev.trg_onCore (s : Dev) (m : Nat) (f : ACore → ACore) : (s.onCore m f).trg = s.trg := rfl
@[simp] theorem Dev.pub_onCore (s : Dev) (m : Nat) (f : ACore → ACore) : (s.onCore m f).pub = s.pub := rfl
@[simp] theorem Dev.jrn_onCore (s : Dev) (m : Nat) (f : ACore → ACore) : (s.onCore m f).jrn = s.jrn := rfl
@[simp] theorem Dev.ic_onCore (s : Dev) (m : Nat) (f : ACore → ACore) : (s.onCore m f).ic = s.ic := rfl
@[simp] theorem Dev.wdg_onCore (s : Dev) (m : Nat) (f : ACore → ACore) : (s.onCore m f).wdg = s.wdg := rfl
@[simp] theorem Dev.eth_onCore (s : Dev) (m : Nat) (f : ACore → ACore) : (s.onCore m f).eth = s.eth := rfl
@[simp] theorem Dev.dup_onCore (s : Dev) (m : Nat) (f : ACore → ACore) : (s.onCore m f).dup = s.dup := rfl
@[simp] theorem Dev.blk_onCore (s : Dev) (m : Nat) (f : ACore → ACore) : (s.onCore m f).blk = s.blk := rfl
@[simp] theorem Dev.zdp_onCore (s : Dev) (m : Nat) (f : ACore → ACore) : (s.onCore m f).zdp = s.zdp := rfl
@[simp] theorem Dev.trc_onCore (s : Dev) (m : Nat) (f : ACore → ACore) : (s.onCore m f).trc = s.trc := rfl
@[simp] theorem Dev.rd_onCore (s : Dev) (m : Nat) (f : ACore → ACore) (q : RName) (j : Nat) : (s.onCore m f).rd q j = s.rd q j := rfl
@[simp] theorem Dev.fg_onCore (s : Dev) (m : Nat) (f : ACore → ACore) (g : Fld) (j : Nat) : (s.onCore m f).fg g j = s.fg g j := rfl

/-! ## Answers and units -/

@[simp] theorem Dev.resp_ok (s : Dev) (v : Nat) : (s.ok v).resp = { err := false, val := BitVec.ofNat 64 v } := rfl
@[simp] theorem Dev.resp_bad (s : Dev) : s.bad.resp = { err := true, val := 0 } := rfl
@[simp] theorem Dev.freeCtr_draw (s : Dev) : s.draw.freeCtr = s.freeCtr + 1 := rfl

theorem Dev.eng_onEng (s : Dev) (e j : Nat) (f : Engine → Engine) :
    (s.onEng e f).eng j = if j = e then f (s.eng e) else s.eng j := SMap.get_mod _ _ _ _ _

theorem Dev.hive_onHive (s : Dev) (h j : Nat) (f : Hive → Hive) :
    (s.onHive h f).hive j = if j = h then f (s.hive h) else s.hive j := SMap.get_mod _ _ _ _ _

theorem Dev.core_onCore (s : Dev) (m j : Nat) (f : ACore → ACore) :
    (s.onCore m f).core j = if j = m then f (s.core m) else s.core j := SMap.get_mod _ _ _ _ _

@[simp] theorem Dev.eng_onEng_self (s : Dev) (e : Nat) (f : Engine → Engine) : (s.onEng e f).eng e = f (s.eng e) := by
  simp [Dev.eng_onEng]
@[simp] theorem Dev.hive_onHive_self (s : Dev) (h : Nat) (f : Hive → Hive) : (s.onHive h f).hive h = f (s.hive h) := by
  simp [Dev.hive_onHive]
@[simp] theorem Dev.core_onCore_self (s : Dev) (m : Nat) (f : ACore → ACore) : (s.onCore m f).core m = f (s.core m) := by
  simp [Dev.core_onCore]

/-! ## Fields -/

/-- A field that lies within a register. -/
abbrev Fld.fits (f : Fld) : Prop := f.lo ≤ f.hi ∧ f.hi < 32

/-- Two fields that share no bit. -/
abbrev Fld.apart (f g : Fld) : Prop := f.reg ≠ g.reg ∨ f.hi < g.lo ∨ g.hi < f.lo

@[simp] theorem Dev.rd_fs_ne (s : Dev) {f : Fld} {q : RName} (i j v : Nat) (h : q ≠ f.reg) :
    (s.fs f i v).rd q j = s.rd q j := Dev.rd_wr_ne s i j _ h

@[simp] theorem Dev.rd_fs_idx (s : Dev) {f : Fld} {q : RName} {i j : Nat} (v : Nat) (h : j ≠ i) :
    (s.fs f i v).rd q j = s.rd q j := by
  unfold Dev.fs; rw [Dev.rd_wr]; simp [h]

@[simp] theorem Dev.fg_wr_ne (s : Dev) {r : RName} {g : Fld} (i j : Nat) (v : Word) (h : g.reg ≠ r) :
    (s.wr r i v).fg g j = s.fg g j := by unfold Dev.fg; rw [Dev.rd_wr_ne s i j v h]

theorem Dev.fg_congr {s t : Dev} {f : Fld} {i : Nat} (h : s.rd f.reg i = t.rd f.reg i) : s.fg f i = t.fg f i := by
  unfold Dev.fg; rw [h]

/-- A field's value lies in its width. -/
theorem Dev.fg_lt (s : Dev) (f : Fld) (i : Nat) : s.fg f i < 2 ^ (f.hi + 1 - f.lo) := by
  unfold Dev.fg; exact Nat.mod_lt _ (Nat.two_pow_pos _)

/-- The bits of a word with the bits of a mask replaced. -/
theorem word_field_bit (w m x : BitVec 32) (k : Nat) :
    ((w &&& ~~~m) ||| x).getLsbD k = ((w.getLsbD k && (decide (k < 32) && !m.getLsbD k)) || x.getLsbD k) := by
  simp

theorem fieldMask_bit (lo n k : Nat) : ((2 ^ n - 1) * 2 ^ lo).testBit k = (decide (lo ≤ k) && decide (k - lo < n)) := by
  rw [Nat.testBit_mul_two_pow, Nat.testBit_two_pow_sub_one]

theorem fieldVal_bit (lo n v k : Nat) :
    (v % 2 ^ n * 2 ^ lo).testBit k = (decide (lo ≤ k) && (decide (k - lo < n) && v.testBit (k - lo))) := by
  rw [Nat.testBit_mul_two_pow, Nat.testBit_mod_two_pow]

/-- Bit k of the register after a field of it is set. -/
theorem Dev.bit_fs (s : Dev) (f : Fld) (i v k : Nat) (hk : k < 32) :
    ((s.fs f i v).rd f.reg i).toNat.testBit k =
      if f.lo ≤ k ∧ k < f.hi + 1 then v.testBit (k - f.lo) else (s.rd f.reg i).toNat.testBit k := by
  unfold Dev.fs
  rw [Dev.rd_wr_self]
  have e : ∀ x : BitVec 32, x.toNat.testBit k = x.getLsbD k := fun x => rfl
  rw [e, word_field_bit, BitVec.getLsbD_ofNat, BitVec.getLsbD_ofNat, fieldMask_bit, fieldVal_bit, ← e]
  by_cases h1 : f.lo ≤ k
  · by_cases h2 : k < f.hi + 1
    · have h3 : k - f.lo < f.hi + 1 - f.lo := by omega
      simp [hk, h1, h2, h3]
    · have h3 : ¬ k - f.lo < f.hi + 1 - f.lo := by omega
      simp [hk, h2, h3]
  · simp [hk, h1]

theorem Dev.bit_fg (s : Dev) (f : Fld) (i k : Nat) :
    (s.fg f i).testBit k = (decide (k < f.hi + 1 - f.lo) && (s.rd f.reg i).toNat.testBit (f.lo + k)) := by
  unfold Dev.fg
  rw [Nat.testBit_mod_two_pow, Nat.testBit_shiftRight]

/-- A field reads as the low bits of what was written to it. -/
theorem Dev.fg_fs_self (s : Dev) (f : Fld) (i v : Nat) (h : f.fits) :
    (s.fs f i v).fg f i = v % 2 ^ (f.hi + 1 - f.lo) := by
  obtain ⟨h1, h2⟩ := h
  apply Nat.eq_of_testBit_eq
  intro k
  rw [Dev.bit_fg, Nat.testBit_mod_two_pow]
  by_cases hk : k < f.hi + 1 - f.lo
  · have h3 : f.lo + k < f.hi + 1 := by omega
    rw [Dev.bit_fs s f i v (f.lo + k) (by omega)]
    simp [hk, h3]
  · simp [hk]

/-- A write of one field leaves every field that shares no bit with it. -/
theorem Dev.fg_fs_apart (s : Dev) (f g : Fld) (i j v : Nat) (hg : g.fits) (h : f.apart g) :
    (s.fs f i v).fg g j = s.fg g j := by
  by_cases hr : g.reg = f.reg
  · by_cases hj : j = i
    · subst hj
      obtain ⟨h1, h2⟩ := hg
      rcases h with h | h
      · exact absurd hr.symm h
      · apply Nat.eq_of_testBit_eq
        intro k
        rw [Dev.bit_fg, Dev.bit_fg, hr]
        by_cases hk : k < g.hi + 1 - g.lo
        · rw [Dev.bit_fs s f j v (g.lo + k) (by omega)]
          have h3 : ¬ (f.lo ≤ g.lo + k ∧ g.lo + k < f.hi + 1) := by omega
          rw [if_neg h3]
        · simp [hk]
    · exact Dev.fg_congr (Dev.rd_fs_idx s v hj)
  · exact Dev.fg_congr (Dev.rd_fs_ne s i j v hr)

/-- A write of a field leaves every field of another index. -/
@[simp] theorem Dev.fg_fs_idx (s : Dev) {f g : Fld} {i j : Nat} (v : Nat) (h : j ≠ i) :
    (s.fs f i v).fg g j = s.fg g j := Dev.fg_congr (Dev.rd_fs_idx s v h)

/-! ## Running a command -/

@[simp] theorem run_true (f : Dev → Dev) (s : State) : run true f s = .next { s with dev := f s.dev } := rfl

theorem run_ok {b : Bool} (h : b = true) (f : Dev → Dev) (s : State) : run b f s = .next { s with dev := f s.dev } := by
  rw [h]; rfl

theorem run_ill {b : Bool} (h : b = false) (f : Dev → Dev) (s : State) : run b f s = .fault .noUnit := by
  rw [h]; rfl

/-- A command that answers a next state leaves the queue. -/
theorem run_next {b : Bool} {f : Dev → Dev} {s t : State} (h : run b f s = .next t) :
    b = true ∧ t.pending = s.pending ∧ t.dev = f s.dev := by
  cases b with
  | true => simp only [run_true, Host.Outcome.next.injEq] at h; subst h; exact ⟨rfl, rfl, rfl⟩
  | false => simp [run] at h

end Sys2Proof.Machine
end

