-- ==== Sys2Proof/Laws/Exec.lean ====
section
/-!
SUPPORT. Sys2Proof/Laws/Exec.lean: what exec and step can do, said once.
-/

namespace Sys2Proof.Machine

/-- Every command is an effect on the module, made when the command is well-formed. -/
theorem exec_is_run (c : Instr) (s : State) : ∃ f : Dev → Dev, exec c s = run (wellFormed c) f s := by
  cases c with
  | inputQualification => exact ⟨_, by delta exec execInputQualification; rfl⟩
  | inputLoss => exact ⟨_, by delta exec execInputLoss; rfl⟩
  | bulkWarn => exact ⟨_, by delta exec execBulkWarn; rfl⟩
  | bulkLow => exact ⟨_, by delta exec execBulkLow; rfl⟩
  | pwrHuack _ _ => exact ⟨_, by delta exec execPwrHuack; rfl⟩
  | holdupDrainWindowEnd _ => exact ⟨_, by delta exec execHoldupDrainWindowEnd; rfl⟩
  | holdupWriteBackDone => exact ⟨_, by delta exec execHoldupWriteBackDone; rfl⟩
  | holdupJournalFlushDone => exact ⟨_, by delta exec execHoldupJournalFlushDone; rfl⟩
  | holdupReturn => exact ⟨_, by delta exec execHoldupReturn; rfl⟩
  | shutdownDomainCuts => exact ⟨_, by delta exec execShutdownDomainCuts; rfl⟩
  | pd00Stop => exact ⟨_, by delta exec execPd00Stop; rfl⟩
  | mrstNPulse _ => exact ⟨_, by delta exec execMrstNPulse; rfl⟩
  | wakeSequencer => exact ⟨_, by delta exec execWakeSequencer; rfl⟩
  | pwrDon _ _ _ => exact ⟨_, by delta exec execPwrDon; rfl⟩
  | pwrDoff _ _ _ => exact ⟨_, by delta exec execPwrDoff; rfl⟩
  | domainPowerGood => exact ⟨_, by delta exec execDomainPowerGood; rfl⟩
  | domainDrainDone => exact ⟨_, by delta exec execDomainDrainDone; rfl⟩
  | drainLimit => exact ⟨_, by delta exec execDrainLimit; rfl⟩
  | lockstepMismatch _ => exact ⟨_, by delta exec execLockstepMismatch; rfl⟩
  | svpRestartComplete => exact ⟨_, by delta exec execSvpRestartComplete; rfl⟩
  | bootStep _ => exact ⟨_, by delta exec execBootStep; rfl⟩
  | bootwaitExpiry => exact ⟨_, by delta exec execBootwaitExpiry; rfl⟩
  | cmdDb _ _ _ => exact ⟨_, by delta exec execCmdDb; rfl⟩
  | cmdPhead _ _ _ => exact ⟨_, by delta exec execCmdPhead; rfl⟩
  | cmdRseq _ _ _ => exact ⟨_, by delta exec execCmdRseq; rfl⟩
  | cmdRctlRst _ _ _ => exact ⟨_, by delta exec execCmdRctlRst; rfl⟩
  | ringService => exact ⟨_, by delta exec execRingService; rfl⟩
  | longCommandCompletion _ => exact ⟨_, by delta exec execLongCommandCompletion; rfl⟩
  | modeSet _ _ => exact ⟨_, by delta exec execModeSet; rfl⟩
  | modeGet _ => exact ⟨_, by delta exec execModeGet; rfl⟩
  | domainOn _ _ => exact ⟨_, by delta exec execDomainOn; rfl⟩
  | domainOff _ _ => exact ⟨_, by delta exec execDomainOff; rfl⟩
  | worldAssign _ _ _ _ => exact ⟨_, by delta exec execWorldAssign; rfl⟩
  | worldStart _ _ _ => exact ⟨_, by delta exec execWorldStart; rfl⟩
  | worldRegion _ _ _ _ _ => exact ⟨_, by delta exec execWorldRegion; rfl⟩
  | worldRingcfg _ _ _ _ => exact ⟨_, by delta exec execWorldRingcfg; rfl⟩
  | castLoad _ _ _ => exact ⟨_, by delta exec execCastLoad; rfl⟩
  | castHalt _ _ => exact ⟨_, by delta exec execCastHalt; rfl⟩
  | castRun _ _ => exact ⟨_, by delta exec execCastRun; rfl⟩
  | bindSet _ _ _ _ _ _ => exact ⟨_, by delta exec execBindSet; rfl⟩
  | bindClear _ _ _ => exact ⟨_, by delta exec execBindClear; rfl⟩
  | streamTable _ _ => exact ⟨_, by delta exec execStreamTable; rfl⟩
  | streamEnable _ _ _ => exact ⟨_, by delta exec execStreamEnable; rfl⟩
  | streamSimsel _ _ _ => exact ⟨_, by delta exec execStreamSimsel; rfl⟩
  | combConfig _ _ _ _ _ => exact ⟨_, by delta exec execCombConfig; rfl⟩
  | setsStage _ _ _ => exact ⟨_, by delta exec execSetsStage; rfl⟩
  | pourGroup _ _ _ => exact ⟨_, by delta exec execPourGroup; rfl⟩
  | pourArm _ _ _ => exact ⟨_, by delta exec execPourArm; rfl⟩
  | pourDisarm _ _ => exact ⟨_, by delta exec execPourDisarm; rfl⟩
  | tripgatePair _ _ _ _ _ => exact ⟨_, by delta exec execTripgatePair; rfl⟩
  | tripgateSolo _ _ _ => exact ⟨_, by delta exec execTripgateSolo; rfl⟩
  | tripgateMap _ _ => exact ⟨_, by delta exec execTripgateMap; rfl⟩
  | publishTable _ _ => exact ⟨_, by delta exec execPublishTable; rfl⟩
  | publishEnable _ _ _ => exact ⟨_, by delta exec execPublishEnable; rfl⟩
  | timeSource _ _ => exact ⟨_, by delta exec execTimeSource; rfl⟩
  | timeFreerun _ _ => exact ⟨_, by delta exec execTimeFreerun; rfl⟩
  | timeRate _ _ => exact ⟨_, by delta exec execTimeRate; rfl⟩
  | timeUtcofs _ _ => exact ⟨_, by delta exec execTimeUtcofs; rfl⟩
  | journalMark _ _ => exact ⟨_, by delta exec execJournalMark; rfl⟩
  | journalSeal _ _ => exact ⟨_, by delta exec execJournalSeal; rfl⟩
  | journalTrigger _ _ _ => exact ⟨_, by delta exec execJournalTrigger; rfl⟩
  | keysRevoke _ _ _ => exact ⟨_, by delta exec execKeysRevoke; rfl⟩
  | keysArb _ _ _ => exact ⟨_, by delta exec execKeysArb; rfl⟩
  | keysSealput _ _ _ => exact ⟨_, by delta exec execKeysSealput; rfl⟩
  | lifeGo _ _ _ => exact ⟨_, by delta exec execLifeGo; rfl⟩
  | healthThresh _ _ _ _ => exact ⟨_, by delta exec execHealthThresh; rfl⟩
  | healthPolicy _ _ _ => exact ⟨_, by delta exec execHealthPolicy; rfl⟩
  | healthRead _ _ => exact ⟨_, by delta exec execHealthRead; rfl⟩
  | resetRing _ _ => exact ⟨_, by delta exec execResetRing; rfl⟩
  | resetHive _ _ => exact ⟨_, by delta exec execResetHive; rfl⟩
  | resetCore _ _ => exact ⟨_, by delta exec execResetCore; rfl⟩
  | resetModule _ => exact ⟨_, by delta exec execResetModule; rfl⟩
  | debugEngbrk _ _ _ _ _ => exact ⟨_, by delta exec execDebugEngbrk; rfl⟩
  | debugStep _ _ _ => exact ⟨_, by delta exec execDebugStep; rfl⟩
  | modeSwitch => exact ⟨_, by delta exec execModeSwitch; rfl⟩
  | tmbMeas _ _ => exact ⟨_, by delta exec execTmbMeas; rfl⟩
  | irigFrame _ => exact ⟨_, by delta exec execIrigFrame; rfl⟩
  | ppsInEdge => exact ⟨_, by delta exec execPpsInEdge; rfl⟩
  | timeSourceLoss _ => exact ⟨_, by delta exec execTimeSourceLoss; rfl⟩
  | holdoverLimit => exact ⟨_, by delta exec execHoldoverLimit; rfl⟩
  | leapSecond => exact ⟨_, by delta exec execLeapSecond; rfl⟩
  | ppsOutPulse => exact ⟨_, by delta exec execPpsOutPulse; rfl⟩
  | ppsOutEnd => exact ⟨_, by delta exec execPpsOutEnd; rfl⟩
  | tick => exact ⟨_, by delta exec execTick; rfl⟩
  | half => exact ⟨_, by delta exec execHalf; rfl⟩
  | rateChange => exact ⟨_, by delta exec execRateChange; rfl⟩
  | tkgCtlArm _ _ => exact ⟨_, by delta exec execTkgCtlArm; rfl⟩
  | timerCount _ => exact ⟨_, by delta exec execTimerCount; rfl⟩
  | tmrCntRead _ _ => exact ⟨_, by delta exec execTmrCntRead; rfl⟩
  | tsuSwtrig _ _ _ => exact ⟨_, by delta exec execTsuSwtrig; rfl⟩
  | svFrame _ _ => exact ⟨_, by delta exec execSvFrame; rfl⟩
  | gooseFrame _ _ => exact ⟨_, by delta exec execGooseFrame; rfl⟩
  | validityWindowClose _ => exact ⟨_, by delta exec execValidityWindowClose; rfl⟩
  | streamSwitch => exact ⟨_, by delta exec execStreamSwitch; rfl⟩
  | combWindowRead _ _ _ => exact ⟨_, by delta exec execCombWindowRead; rfl⟩
  | eBundle _ => exact ⟨_, by delta exec execEBundle; rfl⟩
  | operationComplete _ _ => exact ⟨_, by delta exec execOperationComplete; rfl⟩
  | eIaluOp _ _ _ _ => exact ⟨_, by delta exec execEIaluOp; rfl⟩
  | eFmacOp _ _ _ _ => exact ⟨_, by delta exec execEFmacOp; rfl⟩
  | eDsqDiv _ _ => exact ⟨_, by delta exec execEDsqDiv; rfl⟩
  | eDsqSqrt _ _ => exact ⟨_, by delta exec execEDsqSqrt; rfl⟩
  | eRotOp _ _ _ => exact ⟨_, by delta exec execERotOp; rfl⟩
  | eSdftCfg _ _ => exact ⟨_, by delta exec execESdftCfg; rfl⟩
  | eSdftUpd _ _ => exact ⟨_, by delta exec execESdftUpd; rfl⟩
  | eSdftRd _ _ => exact ⟨_, by delta exec execESdftRd; rfl⟩
  | eSdftLoad _ _ => exact ⟨_, by delta exec execESdftLoad; rfl⟩
  | eLoopArm _ _ _ => exact ⟨_, by delta exec execELoopArm; rfl⟩
  | eLoopClr _ _ => exact ⟨_, by delta exec execELoopClr; rfl⟩
  | eJmp _ _ => exact ⟨_, by delta exec execEJmp; rfl⟩
  | eCall _ _ => exact ⟨_, by delta exec execECall; rfl⟩
  | eBranch _ _ _ => exact ⟨_, by delta exec execEBranch; rfl⟩
  | eDone _ _ => exact ⟨_, by delta exec execEDone; rfl⟩
  | eTrip _ _ => exact ⟨_, by delta exec execETrip; rfl⟩
  | eEvt _ _ => exact ⟨_, by delta exec execEEvt; rfl⟩
  | eDmaGet _ _ => exact ⟨_, by delta exec execEDmaGet; rfl⟩
  | eDmaPut _ _ => exact ⟨_, by delta exec execEDmaPut; rfl⟩
  | eDmaStat _ _ => exact ⟨_, by delta exec execEDmaStat; rfl⟩
  | dmaTransferEnd _ _ => exact ⟨_, by delta exec execDmaTransferEnd; rfl⟩
  | eLsuLoad _ _ _ => exact ⟨_, by delta exec execELsuLoad; rfl⟩
  | eLsuStore _ _ _ => exact ⟨_, by delta exec execELsuStore; rfl⟩
  | eSetRead _ _ _ => exact ⟨_, by delta exec execESetRead; rfl⟩
  | eHsmLoad _ _ _ => exact ⟨_, by delta exec execEHsmLoad; rfl⟩
  | eHsmStore _ _ _ => exact ⟨_, by delta exec execEHsmStore; rfl⟩
  | eHsmMail _ _ => exact ⟨_, by delta exec execEHsmMail; rfl⟩
  | eCmbRead _ _ => exact ⟨_, by delta exec execECmbRead; rfl⟩
  | hiveMail _ => exact ⟨_, by delta exec execHiveMail; rfl⟩
  | hivMail _ _ _ => exact ⟨_, by delta exec execHivMail; rfl⟩
  | contextSwitch _ => exact ⟨_, by delta exec execContextSwitch; rfl⟩
  | peCtlHalt _ _ _ => exact ⟨_, by delta exec execPeCtlHalt; rfl⟩
  | peCtlRun _ _ _ => exact ⟨_, by delta exec execPeCtlRun; rfl⟩
  | engineStart _ => exact ⟨_, by delta exec execEngineStart; rfl⟩
  | programMemoryWrite _ _ _ _ _ => exact ⟨_, by delta exec execProgramMemoryWrite; rfl⟩
  | peDbgRelease _ _ _ => exact ⟨_, by delta exec execPeDbgRelease; rfl⟩
  | setPgArm _ _ _ => exact ⟨_, by delta exec execSetPgArm; rfl⟩
  | shadowBankWrite _ _ _ _ _ => exact ⟨_, by delta exec execShadowBankWrite; rfl⟩
  | setValid _ _ _ => exact ⟨_, by delta exec execSetValid; rfl⟩
  | publishPoint _ => exact ⟨_, by delta exec execPublishPoint; rfl⟩
  | gooseRetransmission _ => exact ⟨_, by delta exec execGooseRetransmission; rfl⟩
  | journalFlush => exact ⟨_, by delta exec execJournalFlush; rfl⟩
  | lostRecord => exact ⟨_, by delta exec execLostRecord; rfl⟩
  | mramScrub _ => exact ⟨_, by delta exec execMramScrub; rfl⟩
  | journalWindowRead _ _ _ => exact ⟨_, by delta exec execJournalWindowRead; rfl⟩
  | disturbanceCaptureStart => exact ⟨_, by delta exec execDisturbanceCaptureStart; rfl⟩
  | disturbanceCaptureEnd => exact ⟨_, by delta exec execDisturbanceCaptureEnd; rfl⟩
  | icAssign _ => exact ⟨_, by delta exec execIcAssign; rfl⟩
  | icClaim _ _ => exact ⟨_, by delta exec execIcClaim; rfl⟩
  | icQclaim _ _ => exact ⟨_, by delta exec execIcQclaim; rfl⟩
  | icCompl _ _ _ => exact ⟨_, by delta exec execIcCompl; rfl⟩
  | icRearm _ _ => exact ⟨_, by delta exec execIcRearm; rfl⟩
  | icPset _ _ _ => exact ⟨_, by delta exec execIcPset; rfl⟩
  | interruptEntry _ => exact ⟨_, by delta exec execInterruptEntry; rfl⟩
  | quickInterruptEntry _ => exact ⟨_, by delta exec execQuickInterruptEntry; rfl⟩
  | wake _ => exact ⟨_, by delta exec execWake; rfl⟩
  | wdgSvc _ _ _ => exact ⟨_, by delta exec execWdgSvc; rfl⟩
  | wdgWarning _ => exact ⟨_, by delta exec execWdgWarning; rfl⟩
  | wdgExpiry _ => exact ⟨_, by delta exec execWdgExpiry; rfl⟩
  | wdgLock _ _ _ => exact ⟨_, by delta exec execWdgLock; rfl⟩
  | aBundle _ => exact ⟨_, by delta exec execABundle; rfl⟩
  | runAheadEnd _ => exact ⟨_, by delta exec execRunAheadEnd; rfl⟩
  | aIaluOp _ _ _ _ => exact ⟨_, by delta exec execAIaluOp; rfl⟩
  | aMduMul _ _ _ => exact ⟨_, by delta exec execAMduMul; rfl⟩
  | aMduDiv _ _ _ => exact ⟨_, by delta exec execAMduDiv; rfl⟩
  | aFpuOp _ _ _ _ => exact ⟨_, by delta exec execAFpuOp; rfl⟩
  | aFpuDivSqrt _ _ _ _ => exact ⟨_, by delta exec execAFpuDivSqrt; rfl⟩
  | aLoad _ _ _ _ => exact ⟨_, by delta exec execALoad; rfl⟩
  | aStore _ _ _ _ => exact ⟨_, by delta exec execAStore; rfl⟩
  | aStnt _ _ => exact ⟨_, by delta exec execAStnt; rfl⟩
  | aLdx _ _ => exact ⟨_, by delta exec execALdx; rfl⟩
  | aStx _ _ => exact ⟨_, by delta exec execAStx; rfl⟩
  | aAtomic _ _ _ => exact ⟨_, by delta exec execAAtomic; rfl⟩
  | aLdm _ _ => exact ⟨_, by delta exec execALdm; rfl⟩
  | aStm _ _ => exact ⟨_, by delta exec execAStm; rfl⟩
  | aFenceL _ _ => exact ⟨_, by delta exec execAFenceL; rfl⟩
  | aFenceS _ _ => exact ⟨_, by delta exec execAFenceS; rfl⟩
  | aFenceLs _ _ => exact ⟨_, by delta exec execAFenceLs; rfl⟩
  | aIfence _ _ => exact ⟨_, by delta exec execAIfence; rfl⟩
  | aDccln _ _ => exact ⟨_, by delta exec execADccln; rfl⟩
  | aDcinv _ _ => exact ⟨_, by delta exec execADcinv; rfl⟩
  | aDcci _ _ => exact ⟨_, by delta exec execADcci; rfl⟩
  | aIcinv _ _ => exact ⟨_, by delta exec execAIcinv; rfl⟩
  | aPref _ _ => exact ⟨_, by delta exec execAPref; rfl⟩
  | aJmp _ _ => exact ⟨_, by delta exec execAJmp; rfl⟩
  | aCall _ _ => exact ⟨_, by delta exec execACall; rfl⟩
  | aRet _ _ => exact ⟨_, by delta exec execARet; rfl⟩
  | aBranch _ _ _ => exact ⟨_, by delta exec execABranch; rfl⟩
  | aSyscall _ _ => exact ⟨_, by delta exec execASyscall; rfl⟩
  | aSysret _ _ => exact ⟨_, by delta exec execASysret; rfl⟩
  | aEret _ _ => exact ⟨_, by delta exec execAEret; rfl⟩
  | aSruRd _ _ => exact ⟨_, by delta exec execASruRd; rfl⟩
  | aSruWr _ _ => exact ⟨_, by delta exec execASruWr; rfl⟩
  | aSruSet _ _ => exact ⟨_, by delta exec execASruSet; rfl⟩
  | aSruClr _ _ => exact ⟨_, by delta exec execASruClr; rfl⟩
  | aFlushw _ _ => exact ⟨_, by delta exec execAFlushw; rfl⟩
  | aSleep _ _ => exact ⟨_, by delta exec execASleep; rfl⟩
  | aTlbiva _ _ => exact ⟨_, by delta exec execATlbiva; rfl⟩
  | aTlbiasid _ _ => exact ⟨_, by delta exec execATlbiasid; rfl⟩
  | aTlbiall _ _ => exact ⟨_, by delta exec execATlbiall; rfl⟩
  | frameSpill _ => exact ⟨_, by delta exec execFrameSpill; rfl⟩
  | frameFill _ => exact ⟨_, by delta exec execFrameFill; rfl⟩
  | storePerformed _ _ => exact ⟨_, by delta exec execStorePerformed; rfl⟩
  | combiningWriteOut _ => exact ⟨_, by delta exec execCombiningWriteOut; rfl⟩
  | homeSliceRequest _ => exact ⟨_, by delta exec execHomeSliceRequest; rfl⟩
  | snoop _ _ _ => exact ⟨_, by delta exec execSnoop; rfl⟩
  | lineHoldEnd _ => exact ⟨_, by delta exec execLineHoldEnd; rfl⟩
  | deadAgent _ => exact ⟨_, by delta exec execDeadAgent; rfl⟩
  | nocFwWrite _ _ _ _ => exact ⟨_, by delta exec execNocFwWrite; rfl⟩
  | dramRequest _ _ _ _ _ => exact ⟨_, by delta exec execDramRequest; rfl⟩
  | dramCommandIssue _ _ _ => exact ⟨_, by delta exec execDramCommandIssue; rfl⟩
  | refresh _ => exact ⟨_, by delta exec execRefresh; rfl⟩
  | activateTableClear _ => exact ⟨_, by delta exec execActivateTableClear; rfl⟩
  | rowIdleClose _ _ => exact ⟨_, by delta exec execRowIdleClose; rfl⟩
  | patrolScrub _ _ => exact ⟨_, by delta exec execPatrolScrub; rfl⟩
  | dmcMaskWrite _ _ _ => exact ⟨_, by delta exec execDmcMaskWrite; rfl⟩
  | ethReceive _ _ => exact ⟨_, by delta exec execEthReceive; rfl⟩
  | ethTransmit _ => exact ⟨_, by delta exec execEthTransmit; rfl⟩
  | linkChange _ _ => exact ⟨_, by delta exec execLinkChange; rfl⟩
  | ethTxtail _ _ _ => exact ⟨_, by delta exec execEthTxtail; rfl⟩
  | ethRxtail _ _ _ => exact ⟨_, by delta exec execEthRxtail; rfl⟩
  | duplicateEntryExpiry _ => exact ⟨_, by delta exec execDuplicateEntryExpiry; rfl⟩
  | supervisionFrame _ => exact ⟨_, by delta exec execSupervisionFrame; rfl⟩
  | hsrForward _ => exact ⟨_, by delta exec execHsrForward; rfl⟩
  | tickFrame _ => exact ⟨_, by delta exec execTickFrame; rfl⟩
  | cardFrame _ _ => exact ⟨_, by delta exec execCardFrame; rfl⟩
  | linkLoss _ => exact ⟨_, by delta exec execLinkLoss; rfl⟩
  | symbolLockLoss _ => exact ⟨_, by delta exec execSymbolLockLoss; rfl⟩
  | tapReset => exact ⟨_, by delta exec execTapReset; rfl⟩
  | zdpNop => exact ⟨_, by delta exec execZdpNop; rfl⟩
  | zdpRead4 _ _ _ _ => exact ⟨_, by delta exec execZdpRead4; rfl⟩
  | zdpWrite4 _ _ _ _ _ => exact ⟨_, by delta exec execZdpWrite4; rfl⟩
  | zdpRead8 _ _ _ _ => exact ⟨_, by delta exec execZdpRead8; rfl⟩
  | zdpWrite8 _ _ _ _ _ => exact ⟨_, by delta exec execZdpWrite8; rfl⟩
  | zdpMbwr _ _ => exact ⟨_, by delta exec execZdpMbwr; rfl⟩
  | zdpMbrd _ => exact ⟨_, by delta exec execZdpMbrd; rfl⟩
  | zdpMbgo _ => exact ⟨_, by delta exec execZdpMbgo; rfl⟩
  | ident => exact ⟨_, by delta exec execIdent; rfl⟩
  | challenge => exact ⟨_, by delta exec execChallenge; rfl⟩
  | unlock => exact ⟨_, by delta exec execUnlock; rfl⟩
  | close => exact ⟨_, by delta exec execClose; rfl⟩
  | engineEngbrk => exact ⟨_, by delta exec execEngineEngbrk; rfl⟩
  | engineStep => exact ⟨_, by delta exec execEngineStep; rfl⟩
  | engineRelease => exact ⟨_, by delta exec execEngineRelease; rfl⟩
  | challengeExpiry => exact ⟨_, by delta exec execChallengeExpiry; rfl⟩
  | lockoutEnd => exact ⟨_, by delta exec execLockoutEnd; rfl⟩
  | dbgCreqStop _ _ _ => exact ⟨_, by delta exec execDbgCreqStop; rfl⟩
  | dbgDtxWrite _ _ _ => exact ⟨_, by delta exec execDbgDtxWrite; rfl⟩
  | dbgDtxRead _ _ => exact ⟨_, by delta exec execDbgDtxRead; rfl⟩
  | dbgDrxWrite _ _ _ => exact ⟨_, by delta exec execDbgDrxWrite; rfl⟩
  | dbgDrxRead _ _ => exact ⟨_, by delta exec execDbgDrxRead; rfl⟩
  | trcClear _ _ => exact ⟨_, by delta exec execTrcClear; rfl⟩
  | trcSw _ _ _ => exact ⟨_, by delta exec execTrcSw; rfl⟩
  | hltSample _ _ => exact ⟨_, by delta exec execHltSample; rfl⟩
  | errValidClear _ _ _ => exact ⟨_, by delta exec execErrValidClear; rfl⟩
  | reg64LoRead _ _ => exact ⟨_, by delta exec execReg64LoRead; rfl⟩
  | reg64HiRead _ _ => exact ⟨_, by delta exec execReg64HiRead; rfl⟩
  | readClearsRead _ _ => exact ⟨_, by delta exec execReadClearsRead; rfl⟩
  | registerWrite _ _ _ _ => exact ⟨_, by delta exec execRegisterWrite; rfl⟩
  | symbolLockAcquired _ => exact ⟨_, by delta exec execSymbolLockAcquired; rfl⟩
  | frameTransmissionComplete _ => exact ⟨_, by delta exec execFrameTransmissionComplete; rfl⟩
  | ptpInterval _ _ => exact ⟨_, by delta exec execPtpInterval; rfl⟩

/-- A well-formed command answers a next state, with the queue as it was. -/
theorem exec_next {c : Instr} (h : wellFormed c = true) (s : State) : ∃ t, exec c s = .next t ∧ t.pending = s.pending := by
  obtain ⟨f, hf⟩ := exec_is_run c s
  exact ⟨_, hf.trans (run_ok h f s), rfl⟩

/-- What a well-formed command answers, from the effect its meaning has. -/
theorem exec_eq {c : Instr} {s : State} {f : Dev → Dev} {d : Dev} (h : exec c s = run (wellFormed c) f s)
    (hw : wellFormed c = true) (hd : f s.dev = d) : exec c s = .next { s with dev := d } := by
  rw [h, run_ok hw, hd]

/-- An ill-formed command is a fault. -/
theorem exec_ill {c : Instr} (h : wellFormed c = false) (s : State) : exec c s = .fault .noUnit := by
  obtain ⟨f, hf⟩ := exec_is_run c s
  rw [hf, run_ill h]

@[simp] theorem step_cons (c : Instr) (rest : List Instr) (d : Dev) :
    step ⟨c :: rest, d⟩ = exec c ⟨rest, d⟩ := rfl

@[simp] theorem step_nil (d : Dev) : step ⟨[], d⟩ = .next ⟨[], d.moveClk (d.clk + 1)⟩ := rfl

/-- A run of k + 1 steps is a step and a run of k steps. -/
theorem core_run_succ (M : Host.Core) (k : Nat) (s t : M.State) (h : M.step s = .next t) :
    M.run (k + 1) s = M.run k t := by
  rw [Host.Core.run, h]

end Sys2Proof.Machine
end

