-- ==== Sys2Proof/Laws/Ops.lean ====
section
/-!
SUPPORT. Sys2Proof/Laws/Ops.lean: what each shared operation can do, said once: counts, interrupt edges, error logs, the
gate of a register access, journal records, the clock.
-/

namespace Sys2Proof.Machine

/-! ## Lists of effects -/

@[simp] theorem Dev.cond_true (s : Dev) (f : Dev → Dev) : s.cond true f = f s := rfl
@[simp] theorem Dev.cond_false (s : Dev) (f : Dev → Dev) : s.cond false f = s := rfl
@[simp] theorem Dev.each_nil (s : Dev) (f : Dev → Nat → Dev) : s.each [] f = s := rfl
@[simp] theorem Dev.each_cons (s : Dev) (a : Nat) (l : List Nat) (f : Dev → Nat → Dev) :
    s.each (a :: l) f = (f s a).each l f := rfl

/-- What every effect of a list keeps, the list keeps. -/
theorem Dev.each_keeps {α : Type} (p : Dev → α) {f : Dev → Nat → Dev} (h : ∀ s a, p (f s a) = p s) :
    ∀ (l : List Nat) (s : Dev), p (s.each l f) = p s
  | [], _ => rfl
  | a :: l, s => by rw [Dev.each_cons, Dev.each_keeps p h l, h]

theorem Dev.cond_keeps {α : Type} (p : Dev → α) {f : Dev → Dev} (h : ∀ s, p (f s) = p s) (b : Bool) (s : Dev) :
    p (s.cond b f) = p s := by cases b <;> simp [h]

/-! ## Counts -/

/-- A count below its field's largest value goes up by one. -/
theorem Dev.inc_lt {s : Dev} {f : Fld} {i : Nat} (h : s.fg f i < f.max) : s.inc f i = s.fs f i (s.fg f i + 1) := by
  simp [Dev.inc, h]

/-- A saturated count stays. -/
theorem Dev.inc_max {s : Dev} {f : Fld} {i : Nat} (h : ¬ s.fg f i < f.max) : s.inc f i = s := by simp [Dev.inc, h]

/-- A count goes up by one, up to its field's largest value. -/
theorem Dev.fg_inc_self (s : Dev) (f : Fld) (i : Nat) (h : f.fits) (hm : f.max + 1 = 2 ^ (f.hi + 1 - f.lo)) :
    (s.inc f i).fg f i = min (s.fg f i + 1) f.max := by
  have hlt := Dev.fg_lt s f i
  rw [← hm] at hlt
  unfold Dev.inc
  split
  · rename_i hl
    rw [Dev.fg_fs_self _ _ _ _ h, ← hm, Nat.mod_eq_of_lt (by omega)]
    omega
  · omega

@[simp] theorem Dev.rd_inc_ne (s : Dev) {f : Fld} {q : RName} (i j : Nat) (h : q ≠ f.reg) :
    (s.inc f i).rd q j = s.rd q j := by
  unfold Dev.inc; split
  · exact Dev.rd_fs_ne s i j _ h
  · rfl

@[simp] theorem Dev.rd_wr64_ne (s : Dev) {lo hi q : RName} (i j v : Nat) (h : q ≠ lo) (h' : q ≠ hi) :
    (s.wr64 lo hi i v).rd q j = s.rd q j := by simp [Dev.wr64, h, h']

/-! ## Interrupt edges (R422) -/

/-- An edge is the effect, with the source's pending bit set or not. -/
theorem Dev.edge_cases (s : Dev) (n : Nat) (f : Dev → Dev) :
    (s.edge n f = f s ∧ (s.icCond n = true ∨ (f s).icCond n = false)) ∨
    (s.edge n f = (f s).icPend n ∧ s.icCond n = false ∧ (f s).icCond n = true) := by
  unfold Dev.edge
  cases h1 : s.icCond n <;> cases h2 : (f s).icCond n <;> simp [h2]

/-- An edge leaves every register that the effect leaves, IC_PSET apart. -/
theorem Dev.rd_edge (s : Dev) (n : Nat) (f : Dev → Dev) {q : RName} (j : Nat) (h : q ≠ .IC_PSET) :
    (s.edge n f).rd q j = (f s).rd q j := by
  rcases Dev.edge_cases s n f with ⟨e, _⟩ | ⟨e, _⟩ <;> rw [e]
  exact Dev.rd_wr_ne _ _ j _ h

@[simp] theorem Dev.rd_setEvt_ne (s : Dev) (n : Nat) {f : Fld} (i : Nat) {q : RName} (j : Nat) (h : q ≠ .IC_PSET)
    (h' : q ≠ f.reg) : (s.setEvt n f i).rd q j = s.rd q j := by
  unfold Dev.setEvt; rw [Dev.rd_edge _ _ _ _ h, Dev.rd_fs_ne _ _ _ _ h']

@[simp] theorem Dev.rd_setEvtBit_ne (s : Dev) (n : Nat) {f : Fld} (i b : Nat) {q : RName} (j : Nat) (h : q ≠ .IC_PSET)
    (h' : q ≠ f.reg) : (s.setEvtBit n f i b).rd q j = s.rd q j := by
  unfold Dev.setEvtBit; rw [Dev.rd_edge _ _ _ _ h, Dev.rd_fs_ne _ _ _ _ h']

/-- An edge changes nothing but the registers where its effect does not. -/
theorem Dev.edge_keeps {α : Type} (p : Dev → α) (hw : ∀ s r i v, p (Dev.wr s r i v) = p s) (s : Dev) (n : Nat)
    (f : Dev → Dev) (h : p (f s) = p s) : p (s.edge n f) = p s := by
  rcases Dev.edge_cases s n f with ⟨e, _⟩ | ⟨e, _⟩ <;> rw [e]
  · exact h
  · exact (hw _ _ _ _).trans h

/-! ## Error logs (R470) and error responses -/

/-- The registers that a capture may write. -/
def errNames : List RName :=
  [.ERR_STAT, .ERR_ADDR_LO, .ERR_ADDR_HI, .ERR_INFO, .ERR_TIME_LO, .ERR_TIME_HI, .ERR_OVF, .IC_PSET]

/-- A capture leaves every other register. -/
theorem Dev.rd_errCap (s : Dev) (k : Nat) (e : ErrInfo) {q : RName} (j : Nat) (h : q ∉ errNames) :
    (s.errCap k e).rd q j = s.rd q j := by
  simp only [errNames, List.mem_cons, List.not_mem_nil, or_false, not_or] at h
  obtain ⟨h1, h2, h3, h4, h5, h6, h7, h8⟩ := h
  unfold Dev.errCap
  split
  · exact Dev.rd_inc_ne s k j h7
  · rw [Dev.rd_edge _ _ _ _ h8]
    simp [Dev.wr64, h1, h2, h3, h4, h5, h6]

/-- A capture changes registers alone. -/
theorem Dev.errCap_keeps {α : Type} (p : Dev → α) (hw : ∀ s r i v, p (Dev.wr s r i v) = p s) (s : Dev) (k : Nat)
    (e : ErrInfo) : p (s.errCap k e) = p s := by
  unfold Dev.errCap
  split
  · unfold Dev.inc Dev.fs
    split
    · exact hw _ _ _ _
    · rfl
  · apply Dev.edge_keeps p hw
    simp [Dev.wr64, hw]

@[simp] theorem Dev.resp_errResp (s : Dev) (j : Nat) (rq : Req) (ty a i : Nat) :
    (s.errResp j rq ty a i).resp = { err := true, val := 0 } := rfl

/-- The four answers of a register access: an error response to a fenced requester, refused by a domain that is off, refused by the
block, made. -/
theorem Dev.gate_cases (s : Dev) (rq : Req) (i off d : Nat) (b : Bool) (f : Dev → Dev) :
    (s.fenced rq = true ∧ s.gate rq i off d b f = s.bad) ∨
    (s.fenced rq = false ∧ s.domOn d = false ∧ s.gate rq i off d b f = s.errResp 18 rq 0x11 (devAddr i off) d) ∨
    (s.reaches rq d = true ∧ b = false ∧ s.gate rq i off d b f = s.errResp i rq 0x01 (devAddr i off) off) ∨
    (s.reaches rq d = true ∧ b = true ∧ s.gate rq i off d b f = f s) := by
  unfold Dev.gate Dev.reaches
  cases h : s.domOn d <;> cases b <;> cases s.fenced rq <;> simp

/-- A requester that is not fenced is served. -/
theorem Dev.byFence_free {s : Dev} {rq : Req} (h : s.fenced rq = false) (f : Dev → Dev) : s.byFence rq f = f s := by
  simp [Dev.byFence, h]

/-- A requester that is fenced gets an error response. -/
theorem Dev.byFence_fenced {s : Dev} {rq : Req} (h : s.fenced rq = true) (f : Dev → Dev) : s.byFence rq f = s.bad := by
  simp [Dev.byFence, h]

/-- A register access of a fenced requester gets an error response. -/
theorem Dev.gate_fenced {s : Dev} {rq : Req} (h : s.fenced rq = true) (i off d : Nat) (b : Bool) (f : Dev → Dev) :
    s.gate rq i off d b f = s.bad := by simp [Dev.gate, h]

/-- A requester that reaches a block which does not admit it is refused there. -/
theorem Dev.gate_denies {s : Dev} {rq : Req} {d : Nat} (h : s.reaches rq d = true) (i off : Nat) (f : Dev → Dev) :
    s.gate rq i off d false f = s.errResp i rq 0x01 (devAddr i off) off := by
  obtain ⟨h1, h2⟩ : s.domOn d = true ∧ s.fenced rq = false := by simpa [Dev.reaches] using h
  simp [Dev.gate, h1, h2]

/-- An access that its domain and its block admit is made. -/
theorem Dev.gate_admits {s : Dev} {rq : Req} {d : Nat} (h : s.reaches rq d = true) (i off : Nat) (f : Dev → Dev) :
    s.gate rq i off d true f = f s := by
  obtain ⟨h1, h2⟩ : s.domOn d = true ∧ s.fenced rq = false := by simpa [Dev.reaches] using h
  simp [Dev.gate, h1, h2]

/-! ## Journal records (R268) -/

/-- The registers that a record may write. -/
def jrnNames : List RName :=
  [.JRN_ONEXT_LO, .JRN_ONEXT_HI, .JRN_SNEXT_LO, .JRN_SNEXT_HI, .JRN_WEARO, .JRN_WEARS, .JRN_UNFL, .JRN_LOST, .JRN_EVT, .IC_PSET]

theorem Dev.rd_jrnPlace (s : Dev) (r : JRec) {q : RName} (j : Nat) (h : q ∉ jrnNames) :
    (s.jrnPlace r).rd q j = s.rd q j := by
  simp only [jrnNames, List.mem_cons, List.not_mem_nil, or_false, not_or] at h
  obtain ⟨h1, h2, h3, h4, h5, h6, h7, h8, h9, h10⟩ := h
  unfold Dev.jrnPlace Dev.mramFresh
  split
  · dsimp only
    split
    · rw [Dev.rd_inc_ne _ _ _ h6]; rfl
    · rfl
  · dsimp only
    split
    · rw [Dev.rd_inc_ne _ _ _ h5]; rfl
    · rfl

theorem Dev.rd_setDramBytes (q : RName) (j : Nat) (l : List Byte) :
    ∀ (s : Dev) (a : Nat), (s.setDramBytes a l).rd q j = s.rd q j := by
  induction l with
  | nil => intro s a; rfl
  | cons b l ih => intro s a; exact (ih _ _).trans rfl

theorem Dev.rd_jrnStage (s : Dev) (r : JRec) {q : RName} (j : Nat) (h : q ≠ .JRN_UNFL) :
    (s.jrnStage r).rd q j = s.rd q j := by
  unfold Dev.jrnStage Dev.jrnUnfl
  rw [Dev.rd_fs_ne _ _ _ _ h]
  show (if _ then s.setDramBytes _ _ else s).rd q j = _
  split
  · exact Dev.rd_setDramBytes ..
  · rfl

/-- A record leaves every other register. -/
theorem Dev.rd_recordAt (s : Dev) (ty src w x : Nat) (l : List Byte) {q : RName} (j : Nat) (h : q ∉ jrnNames) :
    (s.recordAt ty src w x l).rd q j = s.rd q j := by
  have h0 := h
  simp only [jrnNames, List.mem_cons, List.not_mem_nil, or_false, not_or] at h
  obtain ⟨h1, h2, h3, h4, h5, h6, h7, h8, h9, h10⟩ := h
  have hwin : ∀ s : Dev, s.jrnWindow.rd q j = s.rd q j := fun s => by unfold Dev.jrnWindow; split <;> rfl
  have hset : ∀ (s : Dev) (w v : Nat), (s.setJrnNext w v).rd q j = s.rd q j := fun s w v => by
    unfold Dev.setJrnNext; split
    · exact Dev.rd_wr64_ne _ _ _ _ h3 h4
    · exact Dev.rd_wr64_ne _ _ _ _ h1 h2
  unfold Dev.recordAt
  split
  · unfold Dev.jrnAccept
    dsimp only
    split
    · rw [Dev.rd_jrnPlace _ _ _ h0]
      exact (hset _ _ _).trans (hwin s)
    · rw [Dev.rd_jrnStage _ _ _ h7]
      exact (hset _ _ _).trans (hwin s)
  · unfold Dev.jrnLose
    dsimp only
    rw [Dev.rd_setEvt_ne _ _ _ _ h10 h9, Dev.rd_inc_ne _ _ _ h8]
    split <;> rfl

@[simp] theorem Dev.rd_record (s : Dev) (ty src w : Nat) (l : List Byte) {q : RName} (j : Nat) (h : q ∉ jrnNames) :
    (s.record ty src w l).rd q j = s.rd q j := Dev.rd_recordAt s ty src w _ l j h

/-! ## The clock -/

@[simp] theorem Dev.rd_moveTo (s : Dev) (x : Nat) (q : RName) (j : Nat) : (s.moveTo x).rd q j = s.rd q j := by
  unfold Dev.moveTo; split <;> rfl

@[simp] theorem Dev.rd_moveClk (s : Dev) (c : Nat) (q : RName) (j : Nat) : (s.moveClk c).rd q j = s.rd q j := by
  unfold Dev.moveClk; split <;> rfl

@[simp] theorem Dev.fg_moveTo (s : Dev) (x : Nat) (f : Fld) (j : Nat) : (s.moveTo x).fg f j = s.fg f j :=
  Dev.fg_congr (Dev.rd_moveTo s x _ j)

@[simp] theorem Dev.fg_moveClk (s : Dev) (c : Nat) (f : Fld) (j : Nat) : (s.moveClk c).fg f j = s.fg f j :=
  Dev.fg_congr (Dev.rd_moveClk s c _ j)

/-! What the clock leaves as it is. -/

@[simp] theorem Dev.pwr_moveTo (s : Dev) (x : Nat) : (s.moveTo x).pwr = s.pwr := by unfold Dev.moveTo; split <;> rfl
@[simp] theorem Dev.pwr_moveClk (s : Dev) (c : Nat) : (s.moveClk c).pwr = s.pwr := by unfold Dev.moveClk; split <;> rfl
@[simp] theorem Dev.svp_moveTo (s : Dev) (x : Nat) : (s.moveTo x).svp = s.svp := by unfold Dev.moveTo; split <;> rfl
@[simp] theorem Dev.svp_moveClk (s : Dev) (c : Nat) : (s.moveClk c).svp = s.svp := by unfold Dev.moveClk; split <;> rfl
@[simp] theorem Dev.lcs_moveTo (s : Dev) (x : Nat) : (s.moveTo x).lcs = s.lcs := by unfold Dev.moveTo; split <;> rfl
@[simp] theorem Dev.lcs_moveClk (s : Dev) (c : Nat) : (s.moveClk c).lcs = s.lcs := by unfold Dev.moveClk; split <;> rfl
@[simp] theorem Dev.cmd_moveTo (s : Dev) (x : Nat) : (s.moveTo x).cmd = s.cmd := by unfold Dev.moveTo; split <;> rfl
@[simp] theorem Dev.cmd_moveClk (s : Dev) (c : Nat) : (s.moveClk c).cmd = s.cmd := by unfold Dev.moveClk; split <;> rfl
@[simp] theorem Dev.timers_moveTo (s : Dev) (x : Nat) : (s.moveTo x).timers = s.timers := by unfold Dev.moveTo; split <;> rfl
@[simp] theorem Dev.timers_moveClk (s : Dev) (c : Nat) : (s.moveClk c).timers = s.timers := by unfold Dev.moveClk; split <;> rfl
@[simp] theorem Dev.ing_moveTo (s : Dev) (x : Nat) : (s.moveTo x).ing = s.ing := by unfold Dev.moveTo; split <;> rfl
@[simp] theorem Dev.ing_moveClk (s : Dev) (c : Nat) : (s.moveClk c).ing = s.ing := by unfold Dev.moveClk; split <;> rfl
@[simp] theorem Dev.comb_moveTo (s : Dev) (x : Nat) : (s.moveTo x).comb = s.comb := by unfold Dev.moveTo; split <;> rfl
@[simp] theorem Dev.comb_moveClk (s : Dev) (c : Nat) : (s.moveClk c).comb = s.comb := by unfold Dev.moveClk; split <;> rfl
@[simp] theorem Dev.engines_moveTo (s : Dev) (x : Nat) : (s.moveTo x).engines = s.engines := by unfold Dev.moveTo; split <;> rfl
@[simp] theorem Dev.engines_moveClk (s : Dev) (c : Nat) : (s.moveClk c).engines = s.engines := by unfold Dev.moveClk; split <;> rfl
@[simp] theorem Dev.hives_moveTo (s : Dev) (x : Nat) : (s.moveTo x).hives = s.hives := by unfold Dev.moveTo; split <;> rfl
@[simp] theorem Dev.hives_moveClk (s : Dev) (c : Nat) : (s.moveClk c).hives = s.hives := by unfold Dev.moveClk; split <;> rfl
@[simp] theorem Dev.cores_moveTo (s : Dev) (x : Nat) : (s.moveTo x).cores = s.cores := by unfold Dev.moveTo; split <;> rfl
@[simp] theorem Dev.cores_moveClk (s : Dev) (c : Nat) : (s.moveClk c).cores = s.cores := by unfold Dev.moveClk; split <;> rfl
@[simp] theorem Dev.mem_moveTo (s : Dev) (x : Nat) : (s.moveTo x).mem = s.mem := by unfold Dev.moveTo; split <;> rfl
@[simp] theorem Dev.mem_moveClk (s : Dev) (c : Nat) : (s.moveClk c).mem = s.mem := by unfold Dev.moveClk; split <;> rfl
@[simp] theorem Dev.trg_moveTo (s : Dev) (x : Nat) : (s.moveTo x).trg = s.trg := by unfold Dev.moveTo; split <;> rfl
@[simp] theorem Dev.trg_moveClk (s : Dev) (c : Nat) : (s.moveClk c).trg = s.trg := by unfold Dev.moveClk; split <;> rfl
@[simp] theorem Dev.pub_moveTo (s : Dev) (x : Nat) : (s.moveTo x).pub = s.pub := by unfold Dev.moveTo; split <;> rfl
@[simp] theorem Dev.pub_moveClk (s : Dev) (c : Nat) : (s.moveClk c).pub = s.pub := by unfold Dev.moveClk; split <;> rfl
@[simp] theorem Dev.jrn_moveTo (s : Dev) (x : Nat) : (s.moveTo x).jrn = s.jrn := by unfold Dev.moveTo; split <;> rfl
@[simp] theorem Dev.jrn_moveClk (s : Dev) (c : Nat) : (s.moveClk c).jrn = s.jrn := by unfold Dev.moveClk; split <;> rfl
@[simp] theorem Dev.ic_moveTo (s : Dev) (x : Nat) : (s.moveTo x).ic = s.ic := by unfold Dev.moveTo; split <;> rfl
@[simp] theorem Dev.ic_moveClk (s : Dev) (c : Nat) : (s.moveClk c).ic = s.ic := by unfold Dev.moveClk; split <;> rfl
@[simp] theorem Dev.wdg_moveTo (s : Dev) (x : Nat) : (s.moveTo x).wdg = s.wdg := by unfold Dev.moveTo; split <;> rfl
@[simp] theorem Dev.wdg_moveClk (s : Dev) (c : Nat) : (s.moveClk c).wdg = s.wdg := by unfold Dev.moveClk; split <;> rfl
@[simp] theorem Dev.eth_moveTo (s : Dev) (x : Nat) : (s.moveTo x).eth = s.eth := by unfold Dev.moveTo; split <;> rfl
@[simp] theorem Dev.eth_moveClk (s : Dev) (c : Nat) : (s.moveClk c).eth = s.eth := by unfold Dev.moveClk; split <;> rfl
@[simp] theorem Dev.dup_moveTo (s : Dev) (x : Nat) : (s.moveTo x).dup = s.dup := by unfold Dev.moveTo; split <;> rfl
@[simp] theorem Dev.dup_moveClk (s : Dev) (c : Nat) : (s.moveClk c).dup = s.dup := by unfold Dev.moveClk; split <;> rfl
@[simp] theorem Dev.blk_moveTo (s : Dev) (x : Nat) : (s.moveTo x).blk = s.blk := by unfold Dev.moveTo; split <;> rfl
@[simp] theorem Dev.blk_moveClk (s : Dev) (c : Nat) : (s.moveClk c).blk = s.blk := by unfold Dev.moveClk; split <;> rfl
@[simp] theorem Dev.zdp_moveTo (s : Dev) (x : Nat) : (s.moveTo x).zdp = s.zdp := by unfold Dev.moveTo; split <;> rfl
@[simp] theorem Dev.zdp_moveClk (s : Dev) (c : Nat) : (s.moveClk c).zdp = s.zdp := by unfold Dev.moveClk; split <;> rfl
@[simp] theorem Dev.trc_moveTo (s : Dev) (x : Nat) : (s.moveTo x).trc = s.trc := by unfold Dev.moveTo; split <;> rfl
@[simp] theorem Dev.trc_moveClk (s : Dev) (c : Nat) : (s.moveClk c).trc = s.trc := by unfold Dev.moveClk; split <;> rfl
@[simp] theorem Dev.resp_moveTo (s : Dev) (x : Nat) : (s.moveTo x).resp = s.resp := by unfold Dev.moveTo; split <;> rfl
@[simp] theorem Dev.resp_moveClk (s : Dev) (c : Nat) : (s.moveClk c).resp = s.resp := by unfold Dev.moveClk; split <;> rfl
@[simp] theorem Dev.freeCtr_moveTo (s : Dev) (x : Nat) : (s.moveTo x).freeCtr = s.freeCtr := by unfold Dev.moveTo; split <;> rfl
@[simp] theorem Dev.freeCtr_moveClk (s : Dev) (c : Nat) : (s.moveClk c).freeCtr = s.freeCtr := by unfold Dev.moveClk; split <;> rfl

/-- The timebase stands at x or beyond once it has been moved there. -/
theorem Dev.now_moveTo (s : Dev) (x : Nat) : (s.moveTo x).time.now = max s.time.now x := by
  unfold Dev.moveTo
  split
  · exact (Nat.max_eq_right (Nat.le_of_lt (by assumption))).symm
  · exact (Nat.max_eq_left (by omega)).symm

/-- The clock stands at c or beyond once it has been moved there. -/
theorem Dev.clk_moveClk (s : Dev) (c : Nat) : (s.moveClk c).clk = max s.clk c := by
  unfold Dev.moveClk
  split
  · exact (Nat.max_eq_right (Nat.le_of_lt (by assumption))).symm
  · exact (Nat.max_eq_left (by omega)).symm

end Sys2Proof.Machine
end

