-- ==== Sys2Proof/Laws/Mem.lean ====
section
/-!
SUPPORT. Sys2Proof/Laws/Mem.lean: DRAM reads after writes, the canonical form that every write keeps, and what the memory
system's transactions leave alone: everything but memory, the processors' caches and reservations, and its own logs.
-/

namespace Sys2Proof.Machine

/-! ## DRAM bytes -/

/-- DRAM in canonical form. -/
abbrev Dev.dramWf (s : Dev) : Prop := SMap.wf (dramBlank s.mem.lost) s.mem.dram = true

theorem Dev.dramWf_reset : State.reset.dev.dramWf := rfl

/-- Every DRAM write keeps the canonical form. -/
theorem Dev.dramWf_set {s : Dev} (h : s.dramWf) (a : Nat) (b : Byte) : (s.setDramByte a b).dramWf := SMap.wf_set h

/-- A byte reads as what was last written to it; every other byte as it read. -/
theorem Dev.dramByte_set (s : Dev) (a c : Nat) (b : Byte) :
    (s.setDramByte a b).dramByte c = if c = a then b else s.dramByte c := SMap.get_set _ _ _ _ _

@[simp] theorem Dev.dramByte_set_self (s : Dev) (a : Nat) (b : Byte) : (s.setDramByte a b).dramByte a = b := by
  simp [Dev.dramByte_set]

/-- Writes of a list of distinct bytes. -/
theorem Dev.dramByte_each (v : Nat → Byte) (base : Nat) : ∀ (n : Nat) (s : Dev) (a : Nat),
    (s.each (List.range n) (fun s i => s.setDramByte (base + i) (v i))).dramByte a =
      if base ≤ a ∧ a < base + n then v (a - base) else s.dramByte a
  | 0, s, a => by
    have : ¬ (base ≤ a ∧ a < base + 0) := by omega
    rw [if_neg this]; rfl
  | n + 1, s, a => by
    have e : s.each (List.range (n + 1)) (fun s i => s.setDramByte (base + i) (v i)) =
        (s.each (List.range n) (fun s i => s.setDramByte (base + i) (v i))).setDramByte (base + n) (v n) := by
      unfold Dev.each; rw [List.range_succ, List.foldl_append]; rfl
    rw [e, Dev.dramByte_set, Dev.dramByte_each v base n s a]
    by_cases h : a = base + n
    · subst h
      have h1 : base ≤ base + n ∧ base + n < base + (n + 1) := by omega
      simp [h1]
    · by_cases h2 : base ≤ a ∧ a < base + n
      · have h3 : base ≤ a ∧ a < base + (n + 1) := by omega
        simp [h, h2, h3]
      · have h3 : ¬ (base ≤ a ∧ a < base + (n + 1)) := by omega
        simp [h, h2, h3]

/-- A line written: its 64 bytes, and no other. -/
theorem Dev.dramByte_setLine (s : Dev) (l v a : Nat) :
    (s.setDramLine l v).dramByte a =
      if 64 * l ≤ a ∧ a < 64 * l + 64 then BitVec.ofNat 8 (v / 2 ^ (8 * (a - 64 * l))) else s.dramByte a :=
  Dev.dramByte_each (fun i => BitVec.ofNat 8 (v / 2 ^ (8 * i))) (64 * l) 64 s a

theorem Dev.dramWf_setLine {s : Dev} (h : s.dramWf) (l v : Nat) : (s.setDramLine l v).dramWf := by
  unfold Dev.setDramLine Dev.each
  generalize List.range 64 = is
  induction is generalizing s with
  | nil => exact h
  | cons i is ih => exact ih (Dev.dramWf_set h _ _)

/-! ## What the transactions leave -/

/-- The registers in which the home slices log what they refuse and count back-invalidations. -/
def memNames : List RName := errNames ++ [.HN_FWCNT, .HN_EVT, .HN_BACKINV]

/-- What the memory system's transactions are made of: `MemPath t s` says that t comes from s by changes of memory, of the
processors, of the home slices' logs and counters, of the clock and of the answer alone; DRAM bytes by writes of a byte. -/
inductive MemPath : Dev → Dev → Prop
  | refl (s : Dev) : MemPath s s
  | trans {s t u : Dev} : MemPath u t → MemPath t s → MemPath u s
  | byte (s : Dev) (a : Nat) (b : Byte) : MemPath (s.setDramByte a b) s
  | side (s : Dev) (m : MemSt) : m.dram = s.mem.dram → m.lost = s.mem.lost → MemPath { s with mem := m } s
  | cores (s : Dev) (c : SMap ACore) : MemPath { s with cores := c } s
  | ctr (s : Dev) (n : Nat) : MemPath { s with freeCtr := n } s
  | resp (s : Dev) (r : Resp) : MemPath { s with resp := r } s
  | clk (s : Dev) (k : Nat) : MemPath (s.moveClk k) s
  | regs (s : Dev) (r : RName) (i : Nat) (v : Word) : r ∈ memNames → MemPath (Dev.wr s r i v) s

/-- A part of the module that lies outside memory, the processors, the home slices' logs, the clock, and the answers that a
transaction may give on its way. -/
structure MemApart {α : Type} (p : Dev → α) : Prop where
  mem : ∀ s m, p { s with mem := m } = p s
  cores : ∀ s c, p { s with cores := c } = p s
  ctr : ∀ s n, p { s with freeCtr := n } = p s
  resp : ∀ s r, p { s with resp := r } = p s
  clk : ∀ s k, p (Dev.moveClk s k) = p s
  regs : ∀ s r i v, r ∈ memNames → p (Dev.wr s r i v) = p s

/-- Such a part is as it was. -/
theorem MemApart.of_path {α : Type} {p : Dev → α} (h : MemApart p) {s t : Dev} (m : MemPath t s) : p t = p s := by
  induction m with
  | refl s => rfl
  | trans _ _ a b => exact a.trans b
  | byte s a b => exact h.mem _ _
  | side s m _ _ => exact h.mem _ _
  | cores s c => exact h.cores _ _
  | ctr s n => exact h.ctr _ _
  | resp s r => exact h.resp _ _
  | clk s k => exact h.clk _ _
  | regs s r i v hr => exact h.regs _ _ _ _ hr

/-- DRAM stays in canonical form. -/
theorem MemPath.dramWf {s t : Dev} (m : MemPath t s) : s.dramWf → t.dramWf := by
  induction m with
  | refl s => exact id
  | trans _ _ a b => exact fun h => a (b h)
  | byte s a b => exact fun h => Dev.dramWf_set h a b
  | side s m h1 h2 => intro h; unfold Dev.dramWf at h ⊢; dsimp only; rw [h1, h2]; exact h
  | cores s c => exact id
  | ctr s n => exact id
  | resp s r => exact id
  | clk s k =>
    intro h
    have : (s.moveClk k).mem = s.mem := by unfold Dev.moveClk; split <;> rfl
    unfold Dev.dramWf
    rw [this]
    exact h
  | regs s r i v _ => exact id

@[refl] theorem MemPath.rfl' (s : Dev) : MemPath s s := .refl s

namespace MemPath

theorem fs (s : Dev) (f : Fld) (i v : Nat) (hf : f.reg ∈ memNames) : MemPath (s.fs f i v) s :=
  regs _ _ _ _ hf

theorem inc (s : Dev) (f : Fld) (i : Nat) (hf : f.reg ∈ memNames) : MemPath (s.inc f i) s := by
  unfold Dev.inc; split
  · exact fs _ _ _ _ hf
  · rfl

theorem edge (s : Dev) (n : Nat) (f : Dev → Dev) (hf : MemPath (f s) s) : MemPath (s.edge n f) s := by
  rcases Dev.edge_cases s n f with ⟨e, _⟩ | ⟨e, _⟩ <;> rw [e]
  · exact hf
  · exact (regs _ _ _ _ (by decide)).trans hf

theorem errCap (s : Dev) (k : Nat) (e : ErrInfo) : MemPath (s.errCap k e) s := by
  unfold Dev.errCap; split
  · exact inc _ _ _ (by decide)
  · refine edge _ _ _ ?_
    simp only [Dev.wr64]
    exact (regs _ .ERR_TIME_HI _ _ (by decide)).trans ((regs _ .ERR_TIME_LO _ _ (by decide)).trans
      ((regs _ .ERR_INFO _ _ (by decide)).trans ((regs _ .ERR_ADDR_HI _ _ (by decide)).trans
        ((regs _ .ERR_ADDR_LO _ _ (by decide)).trans (regs _ .ERR_STAT _ _ (by decide))))))

theorem hnEvt (s : Dev) (sl : Nat) (f : Fld) (hf : f.reg = .HN_EVT) : MemPath (s.hnEvt sl f) s := by
  unfold Dev.hnEvt Dev.setEvt
  exact edge _ _ _ (fs _ _ _ _ (by rw [hf]; decide))

theorem fwRefuse (s : Dev) (port w pa : Nat) : MemPath (s.fwRefuse port w pa) s := by
  unfold Dev.fwRefuse
  exact (hnEvt _ _ _ rfl).trans ((inc _ _ _ (by decide)).trans (errCap _ _ _))

theorem fwDiscard (s : Dev) (port w pa : Nat) : MemPath (s.fwDiscard port w pa) s := by
  unfold Dev.fwDiscard
  exact (hnEvt _ _ _ rfl).trans ((inc _ _ _ (by decide)).trans (errCap _ _ _))

theorem poisonRefuse (s : Dev) (port w pa : Nat) : MemPath (s.poisonRefuse port w pa) s := by
  unfold Dev.poisonRefuse
  exact (hnEvt _ _ _ rfl).trans (errCap _ _ _)

theorem homeRefuse {s t : Dev} {port w pa : Nat} (e : s.homeRefuse port w pa = some t) : MemPath t s := by
  unfold Dev.homeRefuse at e
  split at e
  · cases e; exact .refl _
  · split at e
    · cases e; exact errCap _ _ _
    · split at e
      · cases e; exact fwRefuse _ _ _ _
      · cases e

theorem each (s : Dev) (l : List Nat) (f : Dev → Nat → Dev) (hf : ∀ s a, MemPath (f s a) s) :
    MemPath (s.each l f) s := by
  induction l generalizing s with
  | nil => exact .refl _
  | cons a l ih => exact (ih (f s a)).trans (hf s a)

theorem onCore (s : Dev) (m : Nat) (f : ACore → ACore) : MemPath (s.onCore m f) s := cores _ _

theorem setDramByte (s : Dev) (a : Nat) (b : Byte) : MemPath (s.setDramByte a b) s := byte _ _ _

theorem setDramLine (s : Dev) (l v : Nat) : MemPath (s.setDramLine l v) s :=
  each _ _ _ (fun _ _ => setDramByte _ _ _)

theorem setPoison (s : Dev) (l : Nat) (b : Bool) : MemPath (s.setPoison l b) s := side _ _ rfl rfl

theorem setL2 (s : Dev) (c l : Nat) (x : L2Line) : MemPath (s.setL2 c l x) s := side _ _ rfl rfl

theorem setSys (s : Dev) (l : Nat) (x : SysLine) : MemPath (s.setSys l x) s := side _ _ rfl rfl

theorem onDir (s : Dev) (l : Nat) (f : DirEntry → DirEntry) : MemPath (s.onDir l f) s := side _ _ rfl rfl

theorem syncDir (s : Dev) (l : Nat) : MemPath (s.syncDir l) s := onDir _ _ _

theorem loseResvs (s : Dev) (l keep : Nat) : MemPath (s.loseResvs l keep) s :=
  each _ _ _ (fun _ _ => onCore _ _ _)

theorem draw (s : Dev) : MemPath s.draw s := ctr _ _

theorem ok (s : Dev) (v : Nat) : MemPath (s.ok v) s := resp _ _

theorem bad (s : Dev) : MemPath s.bad s := resp _ _

theorem dropL1 (s : Dev) (m l : Nat) : MemPath (s.dropL1 m l) s := onCore _ _ _

theorem dropL1i (s : Dev) (m l : Nat) : MemPath (s.dropL1i m l) s := onCore _ _ _

theorem holdTo (s : Dev) (l k c : Nat) : MemPath (s.holdTo l k c) s := onDir _ _ _

theorem writeBack (s : Dev) (c l : Nat) (x : L2Line) : MemPath (s.writeBack c l x) s := by
  unfold Dev.writeBack
  split
  · exact setPoison _ _ _
  · split
    · exact (setSys _ _ _).trans (setDramLine _ _ _)
    · exact fwDiscard _ _ _ _

theorem snoopL2 (s : Dev) (c l : Nat) (inv : Bool) : MemPath (s.snoopL2 c l inv) s := by
  unfold Dev.snoopL2
  dsimp only
  split
  · rfl
  · have h1 : ∀ t : Dev, MemPath (t.each (coresOf c) (fun s m => s.dropL1 m l)) t :=
      fun t => each _ _ _ (fun _ _ => dropL1 _ _ _)
    have h2 : ∀ t : Dev, MemPath (t.each (coresOf c) (fun s m => s.onCore m (fun k => k.shareL1 l))) t :=
      fun t => each _ _ _ (fun _ _ => onCore _ _ _)
    generalize e : (if (s.l2line c l).st = 3 then s.writeBack c l (s.l2line c l) else s) = t
    have h3 : MemPath t s := by
      rw [← e]; split
      · exact writeBack _ _ _ _
      · rfl
    refine (syncDir _ _).trans ?_
    split
    · exact (h1 _).trans ((setL2 _ _ _ _).trans h3)
    · exact (h2 _).trans ((setL2 _ _ _ _).trans h3)

/-! ### Room -/

theorem victim {s t : Dev} {n : Nat} {ls : List Nat} {v : Option Nat} (e : s.victim n ls = (t, v)) :
    MemPath t s := by
  unfold Dev.victim at e
  split at e
  · cases e; rfl
  · cases e; exact (clk _ _).trans (draw _)

theorem sysEvict (s : Dev) (l : Nat) : MemPath (s.sysEvict l) s := by
  unfold Dev.sysEvict
  refine (setSys _ _ _).trans ?_
  split
  · exact setDramLine _ _ _
  · rfl

theorem sysPut (s : Dev) (l : Nat) (x : SysLine) : MemPath (s.sysPut l x) s := by
  unfold Dev.sysPut
  refine (setSys _ _ _).trans ?_
  split
  · rfl
  · split <;> rename_i e
    · exact (sysEvict _ _).trans (victim e)
    · exact victim e

theorem l2Evict (s : Dev) (c l : Nat) : MemPath (s.l2Evict c l) s := by
  unfold Dev.l2Evict
  refine (syncDir _ _).trans ((setL2 _ _ _ _).trans ?_)
  have h0 : MemPath (s.each (coresOf c) (fun s m => (s.dropL1 m l).dropL1i m l)) s :=
    each _ _ _ (fun _ _ => (dropL1i _ _ _).trans (dropL1 _ _ _))
  split
  · exact (setPoison _ _ _).trans h0
  · split
    · split
      · exact (sysPut _ _ _).trans h0
      · split
        · exact h0
        · exact (sysPut _ _ _).trans h0
    · split
      · exact (fwDiscard _ _ _ _).trans h0
      · exact h0

theorem backInv (s : Dev) (l : Nat) : MemPath (s.backInv l) s := by
  unfold Dev.backInv
  exact (each _ _ _ (fun _ _ => dropL1i _ _ _)).trans
    ((inc _ _ _ (by decide)).trans ((snoopL2 _ _ _ _).trans (snoopL2 _ _ _ _)))

theorem makeRoom (s : Dev) (c l : Nat) : MemPath (s.makeRoom c l) s := by
  unfold Dev.makeRoom
  generalize e : (if (s.dirAt l).st ≠ 0 then s
    else match s.victim 16 (setMates dirSet l ((s.mem.dir.filter (fun x => decide (x.2.st ≠ 0))).map (fun x => x.1))) with
      | (s, some v) => s.backInv v
      | (s, none) => s) = t
  have ht : MemPath t s := by
    rw [← e]; split
    · rfl
    · split <;> rename_i e
      · exact (backInv _ _).trans (victim e)
      · exact victim e
  dsimp only
  split
  · exact ht
  · split <;> rename_i e
    · exact (l2Evict _ _ _).trans ((victim e).trans ht)
    · exact (victim e).trans ht

/-! ### Transactions -/

theorem uncRead (s : Dev) (port w l : Nat) : MemPath (s.uncRead port w l).1 s := by
  unfold Dev.uncRead
  split
  · rename_i t e; exact homeRefuse e
  · have hs : MemPath ((s.snoopL2 0 l false).snoopL2 1 l false) s := (snoopL2 _ _ _ _).trans (snoopL2 _ _ _ _)
    generalize (s.snoopL2 0 l false).snoopL2 1 l false = t at *
    dsimp only
    split
    · exact (poisonRefuse _ _ _ _).trans hs
    · split
      · exact hs
      · exact (sysPut _ _ _).trans hs

theorem uncWrite (s : Dev) (port w l data mask keep : Nat) :
    MemPath (s.uncWrite port w l data mask keep).1 s := by
  unfold Dev.uncWrite
  split
  · rename_i t e; exact homeRefuse e
  · dsimp only
    have h1 : MemPath (((s.snoopL2 0 l true).snoopL2 1 l true).loseResvs l keep) s :=
      (loseResvs _ _ _).trans ((snoopL2 _ _ _ _).trans (snoopL2 _ _ _ _))
    split
    · exact (poisonRefuse _ _ _ _).trans h1
    · dsimp only
      exact (setDramLine _ _ _).trans ((setSys _ _ _).trans ((setPoison _ _ _).trans h1))

theorem cond (s : Dev) (b : Bool) (f : Dev → Dev) (hf : MemPath (f s) s) : MemPath (s.cond b f) s := by
  unfold Dev.cond; split
  · exact hf
  · rfl

theorem l2Snoop (s : Dev) (c w l : Nat) (excl : Bool) : MemPath (s.l2Snoop c w l excl) s := by
  unfold Dev.l2Snoop
  refine (snoopL2 _ _ _ _).trans ?_
  split
  · rfl
  · exact snoopL2 _ _ _ _

theorem l2Take (s : Dev) (c w l : Nat) (excl : Bool) : MemPath (s.l2Take c w l excl) s := by
  unfold Dev.l2Take
  exact (holdTo _ _ _ _).trans ((syncDir _ _).trans ((cond _ _ _ (setSys _ _ _)).trans
    ((setL2 _ _ _ _).trans (makeRoom _ _ _))))

theorem l2Fill (s : Dev) (c w l : Nat) (excl : Bool) : MemPath (s.l2Fill c w l excl).1 s := by
  unfold Dev.l2Fill
  split
  · rfl
  · split
    · rename_i t e; exact homeRefuse e
    · dsimp only
      split
      · exact (poisonRefuse _ _ _ _).trans (l2Snoop _ _ _ _ _)
      · exact (l2Take _ _ _ _ _).trans (l2Snoop _ _ _ _ _)

theorem stxLand (s : Dev) (m : Nat) (e : SbEntry) : MemPath (s.stxLand m e) s := by
  unfold Dev.stxLand
  extract_lets l d k c x t
  split
  · exact (setL2 _ _ _ _).trans (dropL1i _ _ _)
  · exact (uncWrite _ _ _ _ _ _ _).trans (dropL1i _ _ _)

theorem stxSettle (s : Dev) (l : Nat) : MemPath (s.stxSettle l) s := by
  unfold Dev.stxSettle
  refine each _ _ _ (fun s m => ?_)
  dsimp only
  split
  · rfl
  · exact (stxLand _ _ _).trans (onCore _ _ _)

theorem serveHome (s : Dev) (r : HomeReq) : MemPath (s.serveHome r) s := by
  have ha : ∀ (t : Dev) (b : Bool), MemPath (if b = true then t.ok (t.newest r.line % 2 ^ 64) else t.bad) t := by
    intro t b; split
    · exact ok _ _
    · exact bad _
  unfold Dev.serveHome
  split
  · exact (ha _ _).trans (l2Fill _ _ _ _ _)
  · exact (ha _ _).trans (l2Fill _ _ _ _ _)
  · exact (ha _ _).trans (uncRead _ _ _ _)
  · exact (ha _ _).trans (uncWrite _ _ _ _ _ _ _)
  · exact (ok _ _).trans ((l2Evict _ _ _).trans (setL2 _ _ _ _))
  · exact (ha _ _).trans (uncWrite _ _ _ _ _ _ _)

theorem startHome (s : Dev) (r : HomeReq) : MemPath (s.startHome r) s := by
  have h0 := cond s (reqTakes r) (fun s => s.stxSettle r.line) (stxSettle _ _)
  unfold Dev.startHome
  dsimp only
  split
  · exact (onDir _ _ _).trans h0
  · exact (serveHome _ _).trans h0

theorem drainHome (l : Nat) : ∀ (n : Nat) (s : Dev), MemPath (s.drainHome l n) s
  | 0, _ => .refl _
  | n + 1, s => by
    unfold Dev.drainHome
    dsimp only
    split
    · rfl
    · split
      · rfl
      · exact (drainHome l n _).trans ((startHome _ _).trans (onDir _ _ _))

theorem fold {β : Type} (f : Dev → β → Dev) (hf : ∀ s b, MemPath (f s b) s) :
    ∀ (l : List β) (s : Dev), MemPath (l.foldl f s) s
  | [], _ => .refl _
  | b :: l, s => (fold f hf l (f s b)).trans (hf s b)

theorem finishHome (s : Dev) (l : Nat) : MemPath (s.finishHome l) s := by
  unfold Dev.finishHome
  dsimp only
  split
  · rfl
  · exact (drainHome _ _ _).trans ((serveHome _ _).trans ((fold _ (fun _ _ => serveHome _ _) _ _).trans (onDir _ _ _)))

theorem clearLine (l : Nat) : ∀ (n : Nat) (s : Dev), MemPath (s.clearLine l n) s
  | 0, _ => .refl _
  | n + 1, s => by
    unfold Dev.clearLine
    split
    · rfl
    · exact (clearLine l n _).trans ((finishHome _ _).trans (clk _ _))

theorem freeLine (s : Dev) (who l : Nat) (excl : Bool) : MemPath (s.freeLine who l excl) s := by
  have h0 := cond s excl (fun s => s.stxSettle l) (stxSettle _ _)
  unfold Dev.freeLine
  dsimp only
  refine (clk _ _).trans ?_
  split
  · exact (clearLine _ _ _).trans h0
  · exact h0

theorem freeLines (s : Dev) (ls : List Nat) (excl : Bool) : MemPath (s.freeLines ls excl) s :=
  fold _ (fun _ _ => freeLine _ _ _ _) _ _

theorem dmaFold {β : Type} (f : Dev × β → Nat → Dev × β) (hf : ∀ q l, MemPath (f q l).1 q.1) :
    ∀ (l : List Nat) (q : Dev × β), MemPath (l.foldl f q).1 q.1
  | [], _ => .refl _
  | a :: l, q => (dmaFold f hf l (f q a)).trans (hf q a)

theorem dmaWrite (s : Dev) (port w a : Nat) (bs : List Byte) : MemPath (s.dmaWrite port w a bs).1 s := by
  unfold Dev.dmaWrite
  refine (dmaFold _ ?_ _ _).trans (freeLines _ _ _)
  intro q l
  split
  · exact uncWrite _ _ _ _ _ _ _
  · rfl

theorem dmaRead (s : Dev) (port w a n : Nat) : MemPath (s.dmaRead port w a n).1 s := by
  unfold Dev.dmaRead
  dsimp only
  refine (dmaFold _ ?_ _ _).trans (freeLines _ _ _)
  intro q l
  split
  · exact uncRead _ _ _ _
  · rfl

end MemPath

/-- No transaction of line l is in progress, no STX store of it is buffered, and no hold of it runs. -/
structure Dev.LineFree (s : Dev) (l : Nat) : Prop where
  busy : (s.dirAt l).busy = none
  stx : ∀ m, m < 9 → (s.core m).sb.find? (fun e => e.stx && e.cells.any (fun x => decide (x.1 / 64 = l))) = none
  hold : ∀ ks, s.holdEnd l ks ≤ s.clk

theorem Dev.stxSettle_free {s : Dev} {l : Nat} (h : s.LineFree l) : s.stxSettle l = s := by
  unfold Dev.stxSettle Dev.each
  have : ∀ is : List Nat, (∀ m ∈ is, m < 9) → is.foldl (fun s m =>
      let p := fun (e : SbEntry) => e.stx && e.cells.any (fun x => decide (x.1 / 64 = l))
      match (s.core m).sb.find? p with
      | none => s
      | some e => (s.onCore m (fun c => { c with sb := c.sb.filter (fun e => !p e) })).stxLand m e) s = s := by
    intro is
    induction is with
    | nil => intro _; rfl
    | cons m is ih =>
      intro hm
      rw [List.foldl_cons]
      dsimp only
      rw [h.stx m (hm m (List.mem_cons_self ..))]
      exact ih (fun k hk => hm k (List.mem_cons_of_mem _ hk))
  exact this _ (fun m hm => List.mem_range.1 hm)

/-- A requester's transaction on such a line goes on at once. -/
theorem Dev.freeLine_free {s : Dev} {l : Nat} (h : s.LineFree l) (who : Nat) (excl : Bool) : s.freeLine who l excl = s := by
  have h0 : s.cond excl (fun s => s.stxSettle l) = s := by
    unfold Dev.cond; split
    · exact Dev.stxSettle_free h
    · rfl
  unfold Dev.freeLine
  dsimp only
  rw [h0, h.busy]
  have : ¬ s.clk < s.holdEnd l (s.holders who l excl) := Nat.not_lt.2 (h.hold _)
  simp [Dev.moveClk, this]

theorem Dev.freeLines_free {s : Dev} {ls : List Nat} (h : ∀ l ∈ ls, s.LineFree l) (excl : Bool) : s.freeLines ls excl = s := by
  unfold Dev.freeLines
  induction ls with
  | nil => rfl
  | cons l ls ih =>
    rw [List.foldl_cons, Dev.freeLine_free (h l (List.mem_cons_self ..))]
    exact ih (fun k hk => h k (List.mem_cons_of_mem _ hk))

/-- Every register but the home slices' and ERR's own lies apart from memory. -/
theorem MemApart.rd {q : RName} (j : Nat) (h : q ∉ memNames) : MemApart (fun s => s.rd q j) where
  mem _ _ := rfl
  cores _ _ := rfl
  ctr _ _ := rfl
  resp _ _ := rfl
  clk s k := Dev.rd_moveClk s k q j
  regs s _ i v hr := Dev.rd_wr_ne s i j v (fun e => h (e ▸ hr))

end Sys2Proof.Machine
end

