-- ==== Sys2Proof/Laws/Commands.lean ====
section
/-!
SUPPORT. Sys2Proof/Laws/Commands.lean: what firmware's taking of a command does, and what a reply leaves.
-/

namespace Sys2Proof.Machine

open Sys2Proof.Safety

theorem Dev.rd_servedNow (s : Dev) (r : Nat) {q : RName} (j : Nat) (h1 : q ≠ .CMD_STAT) (h2 : q ≠ .CMD_RSTAT) :
    (s.servedNow r).rd q j = s.rd q j := by
  unfold Dev.servedNow
  rw [Dev.rd_fs_ne _ _ _ _ h2, Dev.rd_fs_ne _ _ _ _ h1]

theorem rd_atHead (s : Dev) (h : CmdHdr) (op : Nat) {q : RName} (j : Nat) (h1 : q ≠ .CMD_STAT) (h2 : q ≠ .CMD_RSTAT)
    (h3 : q ≠ .CMD_RSEQ) : (atHead s h op).rd q j = s.rd q j := by
  unfold atHead Dev.seqNext
  rw [Dev.rd_wr_ne _ _ _ _ h3, Dev.rd_servedNow s _ _ h1 h2]

/-- A served command whose SEQ is not the one expected is refused with BAD_SEQ. -/
theorem takeCmd_badSeq {s : Dev} {h : CmdHdr} {op : Nat} (hs : Served s h)
    (hl : (((opInfo op).map (fun x => x.2.2.1)).getD 0) ≤ 112) (hq : s.rd .CMD_RSEQ h.ring ≠ BitVec.ofNat 32 h.seq)
    (body : Cid → Dev → Dev) :
    s.takeCmd h op body = (s.servedNow h.ring).refuse ⟨h, op⟩ stBadSeq 0 := by
  obtain ⟨h1, h2, h3, h4, h5⟩ := hs
  have h6 : (h.fence && decide (0 < s.ringLongs h.ring)) = false := by
    cases hf : h.fence with
    | true => simp [h5 hf]
    | false => rfl
  unfold Dev.takeCmd
  simp only [h1, h2, h3, h4, h6, Bool.not_true, Bool.false_eq_true, if_false]
  have h7 : ¬ 112 < (((opInfo op).map (fun x => x.2.2.1)).getD 0) := by omega
  have h8 : (s.servedNow h.ring).seqMet ⟨h, op⟩ = false := by
    unfold Dev.seqMet
    rw [Dev.rd_servedNow s _ _ (by decide) (by decide)]
    exact decide_eq_false hq
  unfold Dev.judge
  rw [if_neg h7, h8]
  rfl

/-- A served command with the SEQ expected is judged by the shared rules, and runs if they refuse nothing. -/
theorem takeCmd_served {s : Dev} {h : CmdHdr} {op : Nat} (hs : Served s h)
    (hl : (((opInfo op).map (fun x => x.2.2.1)).getD 0) ≤ 112) (hq : s.rd .CMD_RSEQ h.ring = BitVec.ofNat 32 h.seq)
    (body : Cid → Dev → Dev) :
    s.takeCmd h op body =
      match (atHead s h op).refusal ⟨h, op⟩ (((opInfo op).map (fun x => x.2.2.1)).getD 0) true with
      | some st => ((atHead s h op).refuse ⟨h, op⟩ st 0).spendNonce ⟨h, op⟩
      | none => (body ⟨h, op⟩ (atHead s h op)).spendNonce ⟨h, op⟩ := by
  obtain ⟨h1, h2, h3, h4, h5⟩ := hs
  have h6 : (h.fence && decide (0 < s.ringLongs h.ring)) = false := by
    cases hf : h.fence with
    | true => simp [h5 hf]
    | false => rfl
  unfold Dev.takeCmd
  simp only [h1, h2, h3, h4, h6, Bool.not_true, Bool.false_eq_true, if_false]
  have h7 : ¬ 112 < (((opInfo op).map (fun x => x.2.2.1)).getD 0) := by omega
  have h8 : (s.servedNow h.ring).seqMet ⟨h, op⟩ = true := by
    unfold Dev.seqMet
    rw [Dev.rd_servedNow s _ _ (by decide) (by decide)]
    exact decide_eq_true hq
  unfold Dev.judge
  rw [if_neg h7, h8]
  rfl

/-- A command that is no KEYS or LIFE command leaves the nonce. -/
theorem Dev.spendNonce_other {c : Cid} (h : keyOp c.op = false) (s : Dev) : s.spendNonce c = s := by
  simp [Dev.spendNonce, h, Dev.cond]

/-- The shared rules judge the command as the state before it was taken says. -/
theorem refusal_atHead (s : Dev) (h : CmdHdr) (op len : Nat) (rsv : Bool) :
    (atHead s h op).refusal ⟨h, op⟩ len rsv = s.refusal ⟨h, op⟩ len rsv := by
  have e1 : (atHead s h op).ringWorld h.ring = s.ringWorld h.ring :=
    Dev.fg_congr (rd_atHead s h op _ (by decide) (by decide) (by decide))
  have e2 : (atHead s h op).ringSys h.ring = s.ringSys h.ring := by
    unfold Dev.ringSys
    rw [Dev.fg_congr (rd_atHead s h op _ (by decide) (by decide) (by decide))]
  have e3 : ∀ l, (atHead s h op).modeIn l = s.modeIn l := by
    intro l
    unfold Dev.modeIn Dev.mode
    rw [Dev.fg_congr (rd_atHead s h op _ (by decide) (by decide) (by decide)),
      Dev.fg_congr (f := F.LCS_BOOT_STEP) (rd_atHead s h op _ (by decide) (by decide) (by decide))]
  have e4 : ∀ r, (atHead s h op).ringLongs r = s.ringLongs r := fun _ => rfl
  unfold Dev.refusal
  simp only [e1, e2, e3, e4]

/-- A command that is taken runs its own work on the module with the command taken; a KEYS or LIFE command may spend the
nonce. -/
theorem takeCmd_runs {s : Dev} {h : CmdHdr} {op : Nat} (ht : Taken s h op) (body : Cid → Dev → Dev) :
    s.takeCmd h op body = (body ⟨h, op⟩ (atHead s h op)).spendNonce ⟨h, op⟩ := by
  obtain ⟨hs, hq, hw, sys, long, n, modes, ho, hn, h1, h2, h3⟩ := ht
  have hlen : (((opInfo op).map (fun x => x.2.2.1)).getD 0) = n := by rw [ho]; rfl
  rw [takeCmd_served hs (by rw [hlen]; exact hn) hq body, refusal_atHead, hlen]
  have hr : s.refusal ⟨h, op⟩ n true = none := by
    have a1 : (sys && !s.ringSys h.ring) = false := by
      cases sys with
      | true => simp [h1 rfl]
      | false => rfl
    have a2 : (long && decide (4 ≤ s.ringLongs h.ring)) = false := by
      cases long with
      | true => have := h3 rfl; simp; omega
      | false => rfl
    unfold Dev.refusal
    simp [hw, ho, a1, a2, h2]
  rw [hr]

/-- A command that is taken runs its own work on the module with the command taken. -/
theorem takeCmd_taken {s : Dev} {h : CmdHdr} {op : Nat} (ht : Taken s h op) (body : Cid → Dev → Dev)
    (hk : keyOp op = false := by rfl) : s.takeCmd h op body = body ⟨h, op⟩ (atHead s h op) := by
  rw [takeCmd_runs ht, Dev.spendNonce_other hk]

theorem Dev.rd_setCmd (s : Dev) (c : CmdSt) (q : RName) (j : Nat) : ({ s with cmd := c } : Dev).rd q j = s.rd q j := rfl

/-- A reply leaves every register but its ring's PTAIL and REPLY, memory's logs and the interrupt bits. -/
theorem Dev.rd_putReply (s : Dev) (x : Reply) {q : RName} (j : Nat) (h : q ∉ memNames) (h1 : q ≠ .CMD_PTAIL)
    (h2 : q ≠ .CMD_RSTAT) : (s.putReply x).rd q j = s.rd q j := by
  have h3 : q ≠ .IC_PSET := fun e => h (by rw [e]; decide)
  unfold Dev.putReply
  dsimp only
  rw [Dev.rd_setCmd, Dev.rd_edge _ _ _ _ h3, Dev.rd_fs_ne _ _ _ _ h2, Dev.rd_fs_ne _ _ _ _ h1]
  exact (MemApart.rd j h).of_path (MemPath.dmaWrite _ _ _ _ _)

/-- A reply is the latest one given. -/
theorem Dev.last_putReply (s : Dev) (x : Reply) : (s.putReply x).cmd.last = some x := by
  unfold Dev.putReply
  rfl

/-- A KEYS or LIFE command that is accepted as a long one does not yet spend the nonce (R65). -/
theorem Dev.spendNonce_start (s : Dev) (c c' : Cid) (res : List Nat) (arg arg2 : Nat) (data : List Byte) :
    (s.start c res arg arg2 data).spendNonce c' = s.start c res arg arg2 data := by
  have h : (s.start c res arg arg2 data).cmd.last.map (fun x => x.status) = some stAccepted := by
    change (s.answer c stAccepted 0 []).cmd.last.map (fun x => x.status) = some stAccepted
    unfold Dev.answer
    rw [Dev.last_putReply]; rfl
  simp [Dev.spendNonce, h, Dev.cond]

/-- A reply leaves every part of the module but the registers, memory and the CMD block's note of it. -/
theorem Dev.putReply_keeps {α : Type} (p : Dev → α) (hm : MemApart p) (hw : ∀ s r i v, p (Dev.wr s r i v) = p s)
    (hc : ∀ (d : Dev) (x : Option Reply), p { d with cmd := { d.cmd with last := x } } = p d) (s : Dev) (x : Reply) :
    p (s.putReply x) = p s := by
  unfold Dev.putReply
  dsimp only
  rw [hc, Dev.edge_keeps p hw _ _ _ (hw _ _ _ _)]
  exact (hw _ _ _ _).trans (hm.of_path (MemPath.dmaWrite _ _ _ _ _))

theorem Dev.rd_setLong (s : Dev) (l : List LongCmd) {q : RName} (j : Nat) (h : q ≠ .CMD_RSTAT) :
    (s.setLong l).rd q j = s.rd q j := by
  unfold Dev.setLong Dev.syncLongs
  rw [Dev.each_keeps (fun d => d.rd q j) (fun d a => Dev.rd_fs_ne _ _ _ _ h)]
  rfl

/-- A command on an engine that it may name runs its own work. -/
theorem onLive_of {d : Dev} {c : Cid} {e : Nat} {r91 : Bool} (h : MayEngine d c e r91) (f : Dev → Dev) :
    d.onLiveEngine c e r91 f = f d := by
  obtain ⟨h1, h2, h3, h4, h5⟩ := h
  have h6 : (r91 && decide (d.mode = 3) && !d.solo e) = false := by
    cases r91 with
    | false => rfl
    | true =>
      by_cases hm : d.mode = 3
      · simp [h3 rfl hm]
      · simp [hm]
  have h7 : ¬ 64 ≤ e := by omega
  unfold Dev.onLiveEngine Dev.onEngine Dev.naming
  simp only [h7, if_false, h2, Bool.not_true, Bool.false_eq_true, h6, h4, h5]

/-- A bulk object that can be copied, with the digest given, goes on to the command's own work. -/
theorem bulk_of {d t : Dev} {c : Cid} {b : BulkRef} {bs : List Byte} (h : Copied d t c b bs) (i : Nat)
    (f : Dev → List Byte → Dev) : d.bulk c i b f = f t bs := by
  obtain ⟨h1, h2, h3, h4, h5⟩ := h
  have h6 : ¬ (b.addr % 64 ≠ 0 ∨ b.length < 64 ∨ 16777216 < b.length) := by omega
  unfold Dev.bulk
  rw [if_neg h6, h4]
  exact if_pos h5

/-! ## Answers without firmware -/

theorem Dev.rd_ringPeek (s : Dev) (r : Nat) {q : RName} (j : Nat) (h : q ∉ memNames) :
    (s.ringPeek r).1.rd q j = s.rd q j := by
  unfold Dev.ringPeek
  dsimp only
  split
  · rfl
  · have hd := (MemApart.rd j h).of_path (MemPath.dmaRead s 2 (s.ringWorld r) (s.cmdEntry r (s.fg F.CMD_HEAD_IDX r)) 64)
    split
    · rename_i t e; rw [e] at hd; exact hd
    · rename_i t b e
      rw [e] at hd
      split <;> exact hd

theorem Dev.rd_proxyOne (s : Dev) (st r : Nat) {q : RName} (j : Nat) (h : q ∉ memNames) (h1 : q ≠ .CMD_PTAIL)
    (h2 : q ≠ .CMD_RSTAT) (h3 : q ≠ .CMD_HEAD) (h4 : q ≠ .CMD_RSEQ) : (s.proxyOne st r).1.rd q j = s.rd q j := by
  have hp := Dev.rd_ringPeek s r j h
  unfold Dev.proxyOne
  split
  · rename_i t e; rw [e] at hp; exact hp
  · rename_i t b e
    rw [e] at hp
    dsimp only at hp
    split
    · refine (Dev.rd_putReply _ _ _ h h1 h2).trans ?_
      rw [Dev.rd_fs_ne _ _ _ _ h2, Dev.rd_wr_ne _ _ _ _ h4]
      unfold Dev.ringAdvance
      rw [Dev.rd_fs_ne _ _ _ _ h3]
      exact hp
    · exact (Dev.rd_fs_ne _ _ _ _ h2).trans hp

theorem Dev.rd_proxyRing (st r : Nat) {q : RName} (j : Nat) (h : q ∉ memNames) (h1 : q ≠ .CMD_PTAIL)
    (h2 : q ≠ .CMD_RSTAT) (h3 : q ≠ .CMD_HEAD) (h4 : q ≠ .CMD_RSEQ) :
    ∀ (n : Nat) (s : Dev), (s.proxyRing st r n).rd q j = s.rd q j
  | 0, _ => rfl
  | n + 1, s => by
    have hp := Dev.rd_proxyOne s st r j h h1 h2 h3 h4
    rw [Dev.proxyRing]
    split
    · rename_i t e; rw [e] at hp; exact (Dev.rd_proxyRing st r j h h1 h2 h3 h4 n t).trans hp
    · rename_i t e; rw [e] at hp; exact hp

/-- The CMD block's answers leave every register but those of the rings' service, memory's logs and the interrupt bits. -/
theorem Dev.rd_proxyAll (s : Dev) {q : RName} (j : Nat) (h : q ∉ memNames) (h1 : q ≠ .CMD_PTAIL)
    (h2 : q ≠ .CMD_RSTAT) (h3 : q ≠ .CMD_HEAD) (h4 : q ≠ .CMD_RSEQ) : s.proxyAll.rd q j = s.rd q j := by
  unfold Dev.proxyAll
  split
  · split
    · exact Dev.each_keeps (fun d => d.rd q j) (fun d a => Dev.rd_proxyRing _ _ j h h1 h2 h3 h4 _ d) _ _
    · rfl
  · rfl

/-! ## Ring resets -/

theorem Dev.rd_ringReset_ne (s : Dev) (r : Nat) {q : RName} (j : Nat) (h1 : q ≠ .CMD_RSTAT) (h2 : q ≠ .CMD_HEAD)
    (h3 : q ≠ .CMD_TAIL) (h4 : q ≠ .CMD_PTAIL) (h5 : q ≠ .CMD_PHEAD) :
    (s.ringReset r).rd q j = (s.fs F.CMD_RCTL_EN r 0).rd q j := by
  unfold Dev.ringReset
  dsimp only
  rw [Dev.rd_setLong _ _ _ h1, Dev.rd_fs_ne _ _ _ _ h5, Dev.rd_fs_ne _ _ _ _ h4, Dev.rd_fs_ne _ _ _ _ h3,
    Dev.rd_fs_ne _ _ _ _ h2, Dev.rd_fs_ne _ _ _ _ h1]

/-- A ring reset brings the four indices to 0. -/
theorem Dev.ringReset_idx (s : Dev) (r : Nat) :
    (s.ringReset r).fg F.CMD_HEAD_IDX r = 0 ∧ (s.ringReset r).fg F.CMD_TAIL_IDX r = 0 ∧
      (s.ringReset r).fg F.CMD_PTAIL_IDX r = 0 ∧ (s.ringReset r).fg F.CMD_PHEAD_IDX r = 0 := by
  unfold Dev.ringReset
  dsimp only
  refine ⟨?_, ?_, ?_, ?_⟩
  · rw [Dev.fg_congr (f := F.CMD_HEAD_IDX) (Dev.rd_setLong _ _ _ (by decide)),
      Dev.fg_congr (f := F.CMD_HEAD_IDX) (Dev.rd_fs_ne _ _ _ _ (by decide)),
      Dev.fg_congr (f := F.CMD_HEAD_IDX) (Dev.rd_fs_ne _ _ _ _ (by decide)),
      Dev.fg_congr (f := F.CMD_HEAD_IDX) (Dev.rd_fs_ne _ _ _ _ (by decide)), Dev.fg_fs_self _ _ _ _ (by decide)]
    rfl
  · rw [Dev.fg_congr (f := F.CMD_TAIL_IDX) (Dev.rd_setLong _ _ _ (by decide)),
      Dev.fg_congr (f := F.CMD_TAIL_IDX) (Dev.rd_fs_ne _ _ _ _ (by decide)),
      Dev.fg_congr (f := F.CMD_TAIL_IDX) (Dev.rd_fs_ne _ _ _ _ (by decide)), Dev.fg_fs_self _ _ _ _ (by decide)]
    rfl
  · rw [Dev.fg_congr (f := F.CMD_PTAIL_IDX) (Dev.rd_setLong _ _ _ (by decide)),
      Dev.fg_congr (f := F.CMD_PTAIL_IDX) (Dev.rd_fs_ne _ _ _ _ (by decide)), Dev.fg_fs_self _ _ _ _ (by decide)]
    rfl
  · rw [Dev.fg_congr (f := F.CMD_PHEAD_IDX) (Dev.rd_setLong _ _ _ (by decide)), Dev.fg_fs_self _ _ _ _ (by decide)]
    rfl

theorem Dev.long_setLong (s : Dev) (l : List LongCmd) : (s.setLong l).cmd.long = l := by
  unfold Dev.setLong Dev.syncLongs
  exact Dev.each_keeps (fun d : Dev => d.cmd.long)
    (f := fun s r => s.fs F.CMD_RSTAT_LONG r (min 4 (s.ringLongs r))) (fun _ _ => rfl) _ _

/-- A ring reset marks its outstanding commands for discard. -/
theorem Dev.ringReset_long (s : Dev) (r : Nat) :
    (s.ringReset r).cmd.long = s.cmd.long.map (fun c => if c.ring = r then { c with discard := true } else c) := by
  unfold Dev.ringReset
  dsimp only
  rw [Dev.long_setLong]
  rfl

end Sys2Proof.Machine
end

