-- ==== Sys2Proof/Laws/CommandRows.lean ====
section
/-!
SUPPORT. Sys2Proof/Laws/CommandRows.lean: each command of Table 4.5 is a command taken from its ring.
-/

namespace Sys2Proof.Machine

open Sys2Proof.Safety

/-- The meaning of each command of Table 4.5 is firmware's taking of it, with a work of its own. -/
theorem commandOf_exec (i : Instr) (h : CmdHdr) (op : Nat) (hc : commandOf i = some (h, op)) :
    ∃ body : Cid → Dev → Dev, (((opInfo op).map (fun x => x.2.2.1)).getD 0) ≤ 112 ∧
      ∀ s : State, exec i s = run (wellFormed i) (fun s => s.takeCmd h op body) s := by
  cases i with
  | modeSet _ _ => cases hc; exact ⟨_, by decide, fun s => by delta exec execModeSet; rfl⟩
  | modeGet _ => cases hc; exact ⟨_, by decide, fun s => by delta exec execModeGet; rfl⟩
  | domainOn _ _ => cases hc; exact ⟨_, by decide, fun s => by delta exec execDomainOn; rfl⟩
  | domainOff _ _ => cases hc; exact ⟨_, by decide, fun s => by delta exec execDomainOff; rfl⟩
  | worldAssign _ _ _ _ => cases hc; exact ⟨_, by decide, fun s => by delta exec execWorldAssign; rfl⟩
  | worldStart _ _ _ => cases hc; exact ⟨_, by decide, fun s => by delta exec execWorldStart; rfl⟩
  | worldRegion _ _ _ _ _ => cases hc; exact ⟨_, by decide, fun s => by delta exec execWorldRegion; rfl⟩
  | worldRingcfg _ _ _ _ => cases hc; exact ⟨_, by decide, fun s => by delta exec execWorldRingcfg; rfl⟩
  | castLoad _ _ _ => cases hc; exact ⟨_, by decide, fun s => by delta exec execCastLoad; rfl⟩
  | castHalt _ _ => cases hc; exact ⟨_, by decide, fun s => by delta exec execCastHalt; rfl⟩
  | castRun _ _ => cases hc; exact ⟨_, by decide, fun s => by delta exec execCastRun; rfl⟩
  | bindSet _ _ _ _ _ _ => cases hc; exact ⟨_, by decide, fun s => by delta exec execBindSet; rfl⟩
  | bindClear _ _ _ => cases hc; exact ⟨_, by decide, fun s => by delta exec execBindClear; rfl⟩
  | streamTable _ _ => cases hc; exact ⟨_, by decide, fun s => by delta exec execStreamTable; rfl⟩
  | streamEnable _ _ _ => cases hc; exact ⟨_, by decide, fun s => by delta exec execStreamEnable; rfl⟩
  | streamSimsel _ _ _ => cases hc; exact ⟨_, by decide, fun s => by delta exec execStreamSimsel; rfl⟩
  | combConfig _ _ _ _ _ => cases hc; exact ⟨_, by decide, fun s => by delta exec execCombConfig; rfl⟩
  | setsStage _ _ _ => cases hc; exact ⟨_, by decide, fun s => by delta exec execSetsStage; rfl⟩
  | pourGroup _ _ _ => cases hc; exact ⟨_, by decide, fun s => by delta exec execPourGroup; rfl⟩
  | pourArm _ _ _ => cases hc; exact ⟨_, by decide, fun s => by delta exec execPourArm; rfl⟩
  | pourDisarm _ _ => cases hc; exact ⟨_, by decide, fun s => by delta exec execPourDisarm; rfl⟩
  | tripgatePair _ _ _ _ _ => cases hc; exact ⟨_, by decide, fun s => by delta exec execTripgatePair; rfl⟩
  | tripgateSolo _ _ _ => cases hc; exact ⟨_, by decide, fun s => by delta exec execTripgateSolo; rfl⟩
  | tripgateMap _ _ => cases hc; exact ⟨_, by decide, fun s => by delta exec execTripgateMap; rfl⟩
  | publishTable _ _ => cases hc; exact ⟨_, by decide, fun s => by delta exec execPublishTable; rfl⟩
  | publishEnable _ _ _ => cases hc; exact ⟨_, by decide, fun s => by delta exec execPublishEnable; rfl⟩
  | timeSource _ _ => cases hc; exact ⟨_, by decide, fun s => by delta exec execTimeSource; rfl⟩
  | timeFreerun _ _ => cases hc; exact ⟨_, by decide, fun s => by delta exec execTimeFreerun; rfl⟩
  | timeRate _ _ => cases hc; exact ⟨_, by decide, fun s => by delta exec execTimeRate; rfl⟩
  | timeUtcofs _ _ => cases hc; exact ⟨_, by decide, fun s => by delta exec execTimeUtcofs; rfl⟩
  | journalMark _ _ => cases hc; exact ⟨_, by decide, fun s => by delta exec execJournalMark; rfl⟩
  | journalSeal _ _ => cases hc; exact ⟨_, by decide, fun s => by delta exec execJournalSeal; rfl⟩
  | journalTrigger _ _ _ => cases hc; exact ⟨_, by decide, fun s => by delta exec execJournalTrigger; rfl⟩
  | keysRevoke _ _ _ => cases hc; exact ⟨_, by decide, fun s => by delta exec execKeysRevoke; rfl⟩
  | keysArb _ _ _ => cases hc; exact ⟨_, by decide, fun s => by delta exec execKeysArb; rfl⟩
  | keysSealput _ _ _ => cases hc; exact ⟨_, by decide, fun s => by delta exec execKeysSealput; rfl⟩
  | lifeGo _ _ _ => cases hc; exact ⟨_, by decide, fun s => by delta exec execLifeGo; rfl⟩
  | healthThresh _ _ _ _ => cases hc; exact ⟨_, by decide, fun s => by delta exec execHealthThresh; rfl⟩
  | healthPolicy _ _ _ => cases hc; exact ⟨_, by decide, fun s => by delta exec execHealthPolicy; rfl⟩
  | healthRead _ _ => cases hc; exact ⟨_, by decide, fun s => by delta exec execHealthRead; rfl⟩
  | resetRing _ _ => cases hc; exact ⟨_, by decide, fun s => by delta exec execResetRing; rfl⟩
  | resetHive _ _ => cases hc; exact ⟨_, by decide, fun s => by delta exec execResetHive; rfl⟩
  | resetCore _ _ => cases hc; exact ⟨_, by decide, fun s => by delta exec execResetCore; rfl⟩
  | resetModule _ => cases hc; exact ⟨_, by decide, fun s => by delta exec execResetModule; rfl⟩
  | debugEngbrk _ _ _ _ _ => cases hc; exact ⟨_, by decide, fun s => by delta exec execDebugEngbrk; rfl⟩
  | debugStep _ _ _ => cases hc; exact ⟨_, by decide, fun s => by delta exec execDebugStep; rfl⟩
  | _ => cases hc

end Sys2Proof.Machine
end

