-- ==== Sys2Proof/Laws/Cores.lean ====
section
/-!
SUPPORT. Sys2Proof/Laws/Cores.lean: when a unit's operation of an application core or the SVP starts, and what one bundle's
issue comes to.
-/

namespace Sys2Proof.Machine

/-- A unit that is free starts an operation of a core that runs. -/
theorem Dev.aUnitOp_runs {s d : Dev} {m u : Nat} (h1 : s.coreLive m = true) (h2 : (s.core m).ra = none)
    (h3 : d = s.coreClock m) (h4 : d.aFree m u ≤ (d.core m).cyc) (f : Dev → Dev) : s.aUnitOp m u f = f d := by
  unfold Dev.aUnitOp
  rw [h1, h2, ← h3]
  simp [h4]

/-- The bundle that a trigger by itself stands in has no moves. -/
theorem bare_delay (g : BitVec 3) (b : Bool) : (Bundle.delayCtl profileA ⟨0, [], 0⟩ g b).toList = [] := by
  unfold Bundle.delayCtl
  cases b <;> rfl

theorem Dev.bare_ill (s : Dev) (m : Nat) (b : Bool) :
    ((Bundle.delayCtl profileA ⟨0, [], 0⟩ (s.core m).g b).toList ++ (multiAlone []).toList ++
      userQ (s.lvl m) []).map (fun k => exc cIllOp k 0) = [] := by
  rw [bare_delay]
  unfold userQ
  split <;> rfl

/-- A trigger of the LSU has no fault of the plain kind. -/
theorem Dev.plainFaults_lsu (s : Dev) (m code t : Nat) (b : Bool) (h : aTrigUnit code = some 4) :
    s.plainFaults m b ⟨0, [], 0⟩ [] [(0, code, t)] = (s, []) := by
  unfold Dev.plainFaults
  dsimp only
  rw [Dev.bare_ill]
  simp [h]

/-- A trigger of the system-register unit, FLUSHW apart, has the faults of its check. -/
theorem Dev.plainFaults_sru (s : Dev) (m code t : Nat) (b : Bool) (h : aTrigUnit code = some 6) (h5 : code ≠ 0xE5) :
    s.plainFaults m b ⟨0, [], 0⟩ [] [(0, code, t)] = (s, s.sruCheck m 0 code t) := by
  unfold Dev.plainFaults
  dsimp only
  rw [Dev.bare_ill]
  simp [h, h5]

/-- A control transfer outside delay bundles has the faults of its check. -/
theorem Dev.plainFaults_ctl (s : Dev) (m code t : Nat) (h : aTrigUnit code = some 5) :
    s.plainFaults m false ⟨0, [], 0⟩ [] [(0, code, t)] = s.ctlCheck m 0 code t := by
  unfold Dev.plainFaults
  dsimp only
  rw [Dev.bare_ill]
  simp [h]

/-- FLUSHW has the fault of its spills' check. -/
theorem Dev.plainFaults_flushw (s e : Dev) (m t : Nat) (b : Bool) (h : s.flushCheck m 0 = (e, none)) :
    s.plainFaults m b ⟨0, [], 0⟩ [] [(0, 0xE5, t)] = (e, []) := by
  unfold Dev.plainFaults
  dsimp only
  rw [Dev.bare_ill]
  have : aTrigUnit 0xE5 = some 6 := rfl
  simp [this, h, Dev.sruCheck]

/-- A trigger by itself after what the next bundle waited for: c is the processor's present, d the state then. -/
theorem Dev.trigOp_judged {s c : Dev} {m code : Nat} {t : DWord} (h1 : s.coreLive m = true) (h2 : (s.core m).ra = none)
    (h3 : c = s.coreSync m) (hf : (c.core m).fenceWait = none) (h4 : (c.passFence m).trigStall m code t.toNat = none)
    (h6 : profileA.control code = true → ((c.passFence m).core m).xfer = none) :
    s.trigOp m code t =
      let r := (c.passFence m).plainFaults m ((c.passFence m).core m).xfer.isSome ⟨0, [], 0⟩ [] [(0, code, t.toNat)]
      let pc := (c.passFence m).trigPc m code
      match Exc.first r.2 with
      | some x => (r.1.setPc m pc).raiseExc m x
      | none =>
        if aTrigUnit code = some 4 then
          if r.1.lsuWaits m 0 code (r.1.lat m 0xA0) t.toNat then r.1.coreStall m 0x08
          else match (r.1.noMiss m).lsuCheck m pc 0 code (r.1.lat m 0xA0) (r.1.lat m 0xA1) (r.1.lat m 0xA2) t.toNat with
            | (e, .error x) => (e.setPc m pc).raiseExc m x
            | (e, .ok p) =>
              match ((e.cond (storesCode code) (fun s => s.prefetchAt m 1 (oldCode ((pc + 16) % 2 ^ 64)))).notAlone m).lsuGo m pc 0
                  code (r.1.lat m 0xA0) (r.1.lat m 0xA1) (r.1.lat m 0xA2) t.toNat p with
              | (f, some x) => (f.setPc m pc).raiseExc m x
              | (f, none) => (f.setPc m ((pc + 16) % 2 ^ 64)).noProg m
        else ((r.1.passBy m).aTrig m pc code t.toNat).settleFrames m := by
  have hl : (if (((c.passFence m).core m).xfer.isSome && profileA.control code) = true then [exc cIllOp 0 0] else []) = [] := by
    cases hc : profileA.control code with
    | false => simp
    | true => simp [h6 hc]
  unfold Dev.trigOp
  simp only [h1, h2, ← h3, hf, h4, hl, Bool.not_true, Option.isSome_none, Bool.or_self, Bool.false_eq_true, if_false,
    List.nil_append] <;> rfl

/-- A trigger by itself that neither stalls nor faults and is not the LSU's. -/
theorem Dev.trigOp_runs {s c d e : Dev} {m code : Nat} {t : DWord} (h1 : s.coreLive m = true) (h2 : (s.core m).ra = none)
    (h3 : c = s.coreSync m) (hf : (c.core m).fenceWait = none) (hd : d = c.passFence m)
    (h4 : d.trigStall m code t.toNat = none)
    (h5 : d.plainFaults m (d.core m).xfer.isSome ⟨0, [], 0⟩ [] [(0, code, t.toNat)] = (e, []))
    (h6 : profileA.control code = true → (d.core m).xfer = none) (h7 : aTrigUnit code ≠ some 4) :
    s.trigOp m code t = ((e.passBy m).aTrig m (d.trigPc m code) code t.toNat).settleFrames m := by
  subst hd
  rw [Dev.trigOp_judged h1 h2 h3 hf h4 h6, h5]
  simp only [Exc.first, if_neg h7]

/-- A trigger by itself whose check finds a fault. -/
theorem Dev.trigOp_faults {s c d e : Dev} {m code : Nat} {t : DWord} {l : List Exc} {x : Exc} (h1 : s.coreLive m = true)
    (h2 : (s.core m).ra = none) (h3 : c = s.coreSync m) (hf : (c.core m).fenceWait = none) (hd : d = c.passFence m)
    (h4 : d.trigStall m code t.toNat = none)
    (h5 : d.plainFaults m (d.core m).xfer.isSome ⟨0, [], 0⟩ [] [(0, code, t.toNat)] = (e, l))
    (h6 : profileA.control code = true → (d.core m).xfer = none) (h7 : Exc.first l = some x) :
    s.trigOp m code t = (e.setPc m (d.trigPc m code)).raiseExc m x := by
  subst hd
  rw [Dev.trigOp_judged h1 h2 h3 hf h4 h6, h5]
  simp only [h7]

/-- A trigger by itself that waits for a barrier or a FLUSHW. -/
theorem Dev.trigOp_waits {s c : Dev} {m code ev : Nat} {t : DWord} (h1 : s.coreLive m = true) (h2 : (s.core m).ra = none)
    (h3 : c = s.coreSync m) (hf : (c.core m).fenceWait = some ev) : s.trigOp m code t = c.coreStall m ev := by
  unfold Dev.trigOp
  simp only [h1, h2, ← h3, hf, Bool.not_true, Option.isSome_none, Bool.or_self, Bool.false_eq_true, if_false]

/-- Codes of the LSU's triggers. -/
theorem aTrigUnit_lsu {c : Nat} (h1 : 0xA3 ≤ c) (h2 : c ≤ 0xC3) : aTrigUnit c = some 4 := by
  unfold aTrigUnit
  rw [if_neg (by omega), if_neg (by omega), if_neg (by omega), if_neg (by omega), if_pos ⟨h1, h2⟩]

theorem aControl_lsu {c : Nat} (h2 : c ≤ 0xC3) : profileA.control c = false := by
  unfold profileA
  simp
  omega

/-- A trigger by itself of the LSU that its check lets through and that takes effect. -/
theorem Dev.trigOp_lsu {s c d e f : Dev} {m code : Nat} {t : DWord} {p : LsuPlan} (h1 : s.coreLive m = true)
    (h2 : (s.core m).ra = none) (h3 : c = s.coreSync m) (hf : (c.core m).fenceWait = none) (hd : d = c.passFence m)
    (h4 : d.trigStall m code t.toNat = none) (h5 : 0xA3 ≤ code ∧ code ≤ 0xC3)
    (hw : d.lsuWaits m 0 code (d.lat m 0xA0) t.toNat = false)
    (h6 : (d.noMiss m).lsuCheck m (d.trigPc m code) 0 code (d.lat m 0xA0) (d.lat m 0xA1) (d.lat m 0xA2) t.toNat = (e, .ok p))
    (h7 : ((e.cond (storesCode code) (fun s => s.prefetchAt m 1 (oldCode ((d.trigPc m code + 16) % 2 ^ 64)))).notAlone m).lsuGo m
      (d.trigPc m code) 0 code (d.lat m 0xA0) (d.lat m 0xA1) (d.lat m 0xA2) t.toNat p = (f, none)) :
    s.trigOp m code t = (f.setPc m ((d.trigPc m code + 16) % 2 ^ 64)).noProg m := by
  have hu := aTrigUnit_lsu h5.1 h5.2
  have hc := aControl_lsu h5.2
  subst hd
  rw [Dev.trigOp_judged h1 h2 h3 hf h4 (by rw [hc]; intro h; cases h), Dev.plainFaults_lsu _ _ _ _ _ hu]
  simp only [Exc.first, if_pos hu, hw, Bool.false_eq_true, if_false, h6, h7]

/-- A trigger by itself of the LSU whose check finds a fault. -/
theorem Dev.trigOp_lsu_faults {s c d e : Dev} {m code : Nat} {t : DWord} {x : Exc} (h1 : s.coreLive m = true)
    (h2 : (s.core m).ra = none) (h3 : c = s.coreSync m) (hf : (c.core m).fenceWait = none) (hd : d = c.passFence m)
    (h4 : d.trigStall m code t.toNat = none) (h5 : 0xA3 ≤ code ∧ code ≤ 0xC3)
    (hw : d.lsuWaits m 0 code (d.lat m 0xA0) t.toNat = false)
    (h6 : (d.noMiss m).lsuCheck m (d.trigPc m code) 0 code (d.lat m 0xA0) (d.lat m 0xA1) (d.lat m 0xA2) t.toNat = (e, .error x)) :
    s.trigOp m code t = (e.setPc m (d.trigPc m code)).raiseExc m x := by
  have hu := aTrigUnit_lsu h5.1 h5.2
  have hc := aControl_lsu h5.2
  subst hd
  rw [Dev.trigOp_judged h1 h2 h3 hf h4 (by rw [hc]; intro h; cases h), Dev.plainFaults_lsu _ _ _ _ _ hu]
  simp only [Exc.first, if_pos hu, hw, Bool.false_eq_true, if_false, h6]

/-! ## The issue of a bundle -/

/-- The processor's present, before the bundle at its PC: no run-ahead, no transfer due. -/
theorem Dev.bundleNow_issues {s d : Dev} {m : Nat} (h1 : s.coreLive m = true) (h2 : d = s.coreSync m)
    (h3 : (d.core m).ra = none) (h4 : ∀ x, (d.core m).xfer = some x → x.left ≠ 0) : s.bundleNow m = d.issueCore m := by
  unfold Dev.bundleNow
  rw [h1, ← h2]
  simp only [Bool.not_true, Bool.false_eq_true, if_false]
  rw [h3]
  simp only [Option.isSome_none, Bool.false_eq_true, if_false]
  cases hx : (d.core m).xfer with
  | none => dsimp only; rw [hx]; rfl
  | some x =>
    have := h4 x hx
    dsimp only
    simp only [this, if_false]
    rw [hx]
    simp [this]

/-- The bundle at the PC is fetched when no barrier, trace stall, squash, debug event or interrupt comes first. -/
theorem Dev.issueCore_fetches {s e : Dev} {m : Nat} (h1 : (s.core m).fenceWait = none)
    (h2 : e = s.passFence m)
    (h3 : e.trcStalls m = false) (h4 : (s.core m).xfer.any (fun x => x.squash) = false) (h5 : e.debugFirst m = none)
    (h6 : (e.mayQuick m && (e.icLine m true).isSome) = false) (h7 : (e.mayInt m && (e.icLine m false).isSome) = false) :
    s.issueCore m = (match e.fetchNext m (s.pc m) with
      | (f, .error x) => f.raiseExc m x
      | (f, .ok w) => f.issueBundle m (s.pc m) ((s.core m).queued (s.pc m)).isSome w) := by
  unfold Dev.issueCore
  dsimp only
  rw [h1]
  dsimp only
  rw [← h2, h3, h4]
  simp only [Bool.false_eq_true, if_false]
  rw [h5]
  dsimp only
  rw [h6, h7]
  simp only [Bool.false_eq_true, if_false]
  all_goals (rcases e.fetchNext m (s.pc m) with ⟨f, x | w⟩ <;> rfl)

/-- An interrupt taken at the boundary before a bundle. -/
theorem Dev.issueCore_interrupts {s e : Dev} {m : Nat} (h1 : (s.core m).fenceWait = none)
    (h2 : e = s.passFence m)
    (h3 : e.trcStalls m = false) (h4 : (s.core m).xfer.any (fun x => x.squash) = false) (h5 : e.debugFirst m = none)
    (h6 : (e.mayQuick m && (e.icLine m true).isSome) = true ∨ (e.mayInt m && (e.icLine m false).isSome) = true) :
    s.issueCore m = (if (e.mayQuick m && (e.icLine m true).isSome) = true then e.enterQ m (exc cQuick 0 0)
      else e.takeInt m) := by
  unfold Dev.issueCore
  dsimp only
  rw [h1]
  dsimp only
  rw [← h2, h3, h4]
  simp only [Bool.false_eq_true, if_false]
  rw [h5]
  dsimp only
  cases hq : (e.mayQuick m && (e.icLine m true).isSome) with
  | true => rfl
  | false =>
    have : (e.mayInt m && (e.icLine m false).isSome) = true := by simpa [hq] using h6
    rw [this]
    rfl

/-- An illegal bundle faults, with the lowest slot that any condition of Table 7.7 names. -/
theorem Dev.issueBundle_illegal {s : Dev} {m pc k : Nat} {used : Bool} {w : BitVec 128} {bun : Bundle} (h1 : bun = Bundle.dec w)
    (h2 : bun.illegal profileA (s.core m).g = some k) :
    s.issueBundle m pc used w = s.raiseExc m
      (exc cIllBundle ((lowest (k :: (bun.delayCtl profileA (s.core m).g (s.core m).xfer.isSome).toList)).getD k) 0) := by
  unfold Dev.issueBundle
  simp only [← h1, h2]

/-- A legal bundle with no stall, no fault and no LSU trigger takes effect. -/
theorem Dev.issueBundle_commits {s d : Dev} {m pc : Nat} {used : Bool} {w : BitVec 128} {bun : Bundle}
    {vals trig : List (Nat × Nat × Nat)} (h1 : bun = Bundle.dec w) (h2 : bun.illegal profileA (s.core m).g = none)
    (h3 : s.resWaits m (bun.live (s.core m).g) = false)
    (h4 : vals = (bun.live (s.core m).g).map (fun x => (x.1, x.2.dst.toNat, s.aSource m pc bun x.2.src.toNat)))
    (h5 : trig = vals.filter (fun v => (aTrigUnit v.2.1).isSome))
    (h6 : trig.findSome? (fun v => (s.trigStall m v.2.1 v.2.2).map (fun ev => (v.2.1, ev))) = none)
    (h7 : s.plainFaults m (s.core m).xfer.isSome bun (bun.live (s.core m).g) trig = (d, []))
    (h8 : trig.find? (fun v => decide (aTrigUnit v.2.1 = some 4)) = none) :
    s.issueBundle m pc used w = d.commitCore m pc used (bun.live (s.core m).g) vals trig none
      (d.latAfter m 0xA0 vals, d.latAfter m 0xA1 vals, d.latAfter m 0xA2 vals) := by
  unfold Dev.issueBundle
  simp only [← h1, h2, h3, ← h4, ← h5, h6, h7, h8, Bool.false_eq_true, if_false, Dev.withLsu, Exc.first]

end Sys2Proof.Machine
end

