-- ==== Sys2Proof/Laws/Dram.lean ====
section
/-!
SUPPORT.  What a write by a requester without a cache does to DRAM and to what a coherent observer reads: the lines it
touches, and those it leaves.
-/

namespace Sys2Proof.Machine


/-! ### Bytes of numbers -/

def byteOf (v i : Nat) : Nat := v / 2 ^ (8 * i) % 256

/-- Numbers equal below bit 8i have equal bytes below i. -/
theorem byteOf_low {u v i j : Nat} (h : u % 2 ^ (8 * i) = v % 2 ^ (8 * i)) (hj : j < i) : byteOf u j = byteOf v j := by
  have e : ∀ x : Nat, byteOf x j = x % 2 ^ (8 * i) % 2 ^ (8 * j + 8) / 2 ^ (8 * j) := by
    intro x
    rw [Nat.mod_mod_of_dvd _ (Nat.pow_dvd_pow 2 (by omega)), Nat.pow_add, Nat.mod_mul_right_div_self]
    rfl
  rw [e, e, h]

/-- Numbers equal from bit 8i on have equal bytes from i on. -/
theorem byteOf_high {u v i j : Nat} (h : u / 2 ^ (8 * i) = v / 2 ^ (8 * i)) (hj : i ≤ j) : byteOf u j = byteOf v j := by
  have e : ∀ x : Nat, byteOf x j = x / 2 ^ (8 * i) / 2 ^ (8 * (j - i)) % 256 := by
    intro x
    rw [Nat.div_div_eq_div_mul, ← Nat.pow_add, show 8 * i + 8 * (j - i) = 8 * j by omega]
    rfl
  rw [e, e, h]

/-- A byte field replaced, as a sum of what stands below, in and above it. -/
theorem setBits_form (v i x : Nat) :
    setBits v (8 * i + 7) (8 * i) x = v / 2 ^ (8 * i + 8) * 2 ^ (8 * i + 8) + x % 256 * 2 ^ (8 * i) + v % 2 ^ (8 * i) := by
  have e : 8 * i + 7 + 1 - 8 * i = 8 := by omega
  unfold setBits bits
  rw [e, Nat.shiftRight_eq_div_pow]
  have h1 : v = v / 2 ^ (8 * i) * 2 ^ (8 * i) + v % 2 ^ (8 * i) := by rw [Nat.mul_comm]; exact (Nat.div_add_mod _ _).symm
  have h2 : v / 2 ^ (8 * i) = v / 2 ^ (8 * i + 8) * 256 + v / 2 ^ (8 * i) % 256 := by
    rw [Nat.pow_add, ← Nat.div_div_eq_div_mul]
    have := Nat.div_add_mod (v / 2 ^ (8 * i)) 256
    omega
  have h3 : v / 2 ^ (8 * i + 8) * 2 ^ (8 * i + 8) = v / 2 ^ (8 * i + 8) * 256 * 2 ^ (8 * i) := by
    rw [Nat.pow_add, Nat.mul_assoc, Nat.mul_comm (2 ^ (8 * i))]
  have h4 : v = (v / 2 ^ (8 * i + 8) * 256) * 2 ^ (8 * i) + (v / 2 ^ (8 * i) % 256) * 2 ^ (8 * i) + v % 2 ^ (8 * i) := by
    conv => lhs; rw [h1, h2, Nat.add_mul]
  rw [h3]
  show v - v / 2 ^ (8 * i) % 256 * 2 ^ (8 * i) + x % 256 * 2 ^ (8 * i) = _
  omega

/-- One byte replaced: that byte, and no other. -/
theorem byteOf_setBits (v i x j : Nat) : byteOf (setBits v (8 * i + 7) (8 * i) x) j = if j = i then x % 256 else byteOf v j := by
  rw [setBits_form]
  have hp := Nat.two_pow_pos (8 * i)
  have hlo : v % 2 ^ (8 * i) < 2 ^ (8 * i) := Nat.mod_lt _ hp
  rcases Nat.lt_trichotomy j i with h | h | h
  · rw [if_neg (by omega)]
    refine byteOf_low ?_ h
    rw [Nat.pow_add, Nat.mul_comm (2 ^ (8 * i)), ← Nat.mul_assoc, ← Nat.add_mul, Nat.add_comm, Nat.add_mul_mod_self_right, Nat.mod_mod]
  · subst h
    rw [if_pos rfl]
    unfold byteOf
    rw [Nat.pow_add, Nat.mul_comm (2 ^ (8 * j)), ← Nat.mul_assoc, ← Nat.add_mul, Nat.add_comm, Nat.add_mul_div_right _ _ hp,
      Nat.div_eq_of_lt hlo]
    omega
  · rw [if_neg (by omega)]
    refine byteOf_high (i := i + 1) ?_ h
    have e : 8 * (i + 1) = 8 * i + 8 := by omega
    rw [e]
    have hx : x % 256 * 2 ^ (8 * i) + v % 2 ^ (8 * i) < 2 ^ (8 * i + 8) := by
      rw [Nat.pow_add]
      have : x % 256 ≤ 255 := by omega
      have := Nat.mul_le_mul_right (2 ^ (8 * i)) this
      omega
    rw [Nat.add_assoc, Nat.add_comm, Nat.add_mul_div_right _ _ (Nat.two_pow_pos _), Nat.div_eq_of_lt hx, Nat.zero_add]

/-- A merged line holds the new byte where the mask has a bit, and the old one elsewhere. -/
theorem byteOf_merge (old new mask k : Nat) (hk : k < 64) :
    byteOf (mergeLine old new mask) k = if mask.testBit k then byteOf new k else byteOf old k := by
  have key : ∀ n k, byteOf ((List.range n).foldl (fun v i =>
      if mask.testBit i then setBits v (8 * i + 7) (8 * i) (bits new (8 * i + 7) (8 * i)) else v) old) k =
      if k < n ∧ mask.testBit k = true then byteOf new k else byteOf old k := by
    intro n
    induction n with
    | zero => intro k; simp
    | succ n ih =>
      intro k
      rw [List.range_succ, List.foldl_append]
      simp only [List.foldl_cons, List.foldl_nil]
      have hb : bits new (8 * n + 7) (8 * n) % 256 = byteOf new n := by
        unfold bits byteOf
        rw [Nat.shiftRight_eq_div_pow, show 8 * n + 7 + 1 - 8 * n = 8 by omega]
        show _ % 256 % 256 = _
        rw [Nat.mod_mod]
      by_cases hm : mask.testBit n = true
      · rw [if_pos hm, byteOf_setBits, ih, hb]
        by_cases hkn : k = n
        · subst hkn; simp [hm]
        · rw [if_neg hkn]
          have : (k < n ∧ mask.testBit k = true) ↔ (k < n + 1 ∧ mask.testBit k = true) := by
            constructor
            · rintro ⟨a, b⟩; exact ⟨by omega, b⟩
            · rintro ⟨a, b⟩; exact ⟨by omega, b⟩
          simp only [this]
      · rw [if_neg hm, ih]
        by_cases hkn : k = n
        · subst hkn; simp [hm]
        · have : (k < n ∧ mask.testBit k = true) ↔ (k < n + 1 ∧ mask.testBit k = true) := by
            constructor
            · rintro ⟨a, b⟩; exact ⟨by omega, b⟩
            · rintro ⟨a, b⟩; exact ⟨by omega, b⟩
          simp only [this]
  unfold mergeLine
  rw [key]
  simp [hk]

/-- One byte more in a write. -/
theorem lineSlice_snoc (a : Nat) (bs : List Byte) (x : Byte) (l : Nat) :
    lineSlice a (bs ++ [x]) l = if (a + bs.length) / 64 = l then
      ((lineSlice a bs l).1 + x.toNat * 2 ^ (8 * ((a + bs.length) % 64)), (lineSlice a bs l).2 + 2 ^ ((a + bs.length) % 64))
      else lineSlice a bs l := by
  unfold lineSlice
  rw [List.length_append, List.length_singleton, List.range_succ, List.zip_append (by simp), List.foldl_append]
  rfl

/-- A byte added above a number that does not reach it. -/
theorem byteOf_add_high {u x k j : Nat} (hu : u < 2 ^ (8 * k)) (hx : x < 256) :
    byteOf (u + x * 2 ^ (8 * k)) j = if j = k then x else if j < k then byteOf u j else byteOf (u + x * 2 ^ (8 * k)) j := by
  rcases Nat.lt_trichotomy j k with h | h | h
  · rw [if_neg (by omega), if_pos h]
    refine byteOf_low ?_ h
    rw [Nat.add_mul_mod_self_right]
  · subst h
    rw [if_pos rfl]
    unfold byteOf
    rw [Nat.add_mul_div_right _ _ (Nat.two_pow_pos _), Nat.div_eq_of_lt hu]
    omega
  · rw [if_neg (by omega), if_neg (by omega)]

/-- The data and mask that a write puts into line l are its own bytes there. -/
def SliceOk (a l : Nat) (bs : List Byte) : Prop :=
    (∀ i (h : i < bs.length), (a + i) / 64 = l → (lineSlice a bs l).2.testBit ((a + i) % 64) = true ∧
      byteOf (lineSlice a bs l).1 ((a + i) % 64) = (bs[i]).toNat) ∧
    (∀ i, bs.length ≤ i → (a + i) / 64 = l → (lineSlice a bs l).1 < 2 ^ (8 * ((a + i) % 64)) ∧ (lineSlice a bs l).2 < 2 ^ ((a + i) % 64))

/-- SliceOk for one byte more. -/
theorem lineSlice_snoc_ok (a l : Nat) (bs : List Byte) (x : Byte) (ih : SliceOk a l bs) : SliceOk a l (bs ++ [x]) := by
  obtain ⟨ih1, ih2⟩ := ih
  unfold SliceOk
  rw [lineSlice_snoc]
  by_cases hl : (a + bs.length) / 64 = l
  · rw [if_pos hl]
    obtain ⟨b1, b2⟩ := ih2 bs.length (Nat.le_refl _) hl
    have hx : x.toNat < 256 := x.isLt
    constructor
    · intro i h hi
      rw [List.length_append, List.length_singleton] at h
      dsimp only
      by_cases hi2 : i = bs.length
      · subst hi2
        constructor
        · rw [Nat.add_comm, Nat.testBit_two_pow_add_eq, Nat.testBit_lt_two_pow b2]; rfl
        · rw [byteOf_add_high b1 hx, if_pos rfl]; simp
      · have hlt : i < bs.length := by omega
        have hm : (a + i) % 64 < (a + bs.length) % 64 := by omega
        obtain ⟨c1, c2⟩ := ih1 i hlt hi
        constructor
        · rw [Nat.add_comm, Nat.testBit_two_pow_add_gt hm]; exact c1
        · rw [byteOf_add_high b1 hx, if_neg (by omega), if_pos hm, c2, List.getElem_append_left hlt]
    · intro i h hi
      rw [List.length_append, List.length_singleton] at h
      dsimp only
      have hm : (a + bs.length) % 64 + 1 ≤ (a + i) % 64 := by omega
      have p1 : 2 ^ (8 * ((a + bs.length) % 64)) * 256 ≤ 2 ^ (8 * ((a + i) % 64)) := by
        rw [show (256 : Nat) = 2 ^ 8 from rfl, ← Nat.pow_add]
        exact Nat.pow_le_pow_right (by decide) (by omega)
      have p2 : 2 ^ ((a + bs.length) % 64) * 2 ≤ 2 ^ ((a + i) % 64) := by
        rw [← Nat.pow_succ]
        exact Nat.pow_le_pow_right (by decide) hm
      constructor
      · have : x.toNat * 2 ^ (8 * ((a + bs.length) % 64)) ≤ 255 * 2 ^ (8 * ((a + bs.length) % 64)) :=
          Nat.mul_le_mul_right _ (by omega)
        omega
      · omega
  · rw [if_neg hl]
    constructor
    · intro i h hi
      rw [List.length_append, List.length_singleton] at h
      have hlt : i < bs.length := by
        rcases Nat.lt_or_ge i bs.length with c | c
        · exact c
        · exact absurd (by rw [show i = bs.length by omega] at hi; exact hi) hl
      obtain ⟨c1, c2⟩ := ih1 i hlt hi
      exact ⟨c1, by rw [c2, List.getElem_append_left hlt]⟩
    · intro i h hi
      rw [List.length_append, List.length_singleton] at h
      exact ih2 i (by omega) hi

/-- The data and mask of every line of a write are its own bytes there. -/
theorem lineSlice_spec (a l : Nat) (bs : List Byte) : SliceOk a l bs := by
  have h : ∀ r : List Byte, SliceOk a l r.reverse := by
    intro r
    induction r with
    | nil => exact ⟨fun i h => absurd h (by simp), fun i _ _ => ⟨Nat.two_pow_pos _, Nat.two_pow_pos _⟩⟩
    | cons x r ih => rw [List.reverse_cons]; exact lineSlice_snoc_ok a l _ x ih
  have := h bs.reverse
  rwa [List.reverse_reverse] at this

/-! ### What a write of one line leaves -/

/-- Nothing of memory that is read differs outside line l. -/
structure LineOnly (l : Nat) (s t : Dev) : Prop where
  l2 : ∀ c k, k ≠ l → t.l2line c k = s.l2line c k
  sys : ∀ k, k ≠ l → t.sysLine k = s.sysLine k
  byte : ∀ b, b / 64 ≠ l → t.dramByte b = s.dramByte b
  lost : t.mem.lost = s.mem.lost
  wf : SMap.wf (dramBlank s.mem.lost) s.mem.dram = true → SMap.wf (dramBlank t.mem.lost) t.mem.dram = true

theorem LineOnly.of_mem {l : Nat} {s t : Dev} (h : t.mem = s.mem) : LineOnly l s t where
  l2 := fun c k _ => by simp only [Dev.l2line, h]
  sys := fun k _ => by simp only [Dev.sysLine, h]
  byte := fun b _ => by simp only [Dev.dramByte, h]
  lost := by rw [h]
  wf := fun w => by rw [h]; exact w

theorem LineOnly.refl (l : Nat) (s : Dev) : LineOnly l s s := LineOnly.of_mem rfl

theorem LineOnly.trans {l : Nat} {s t u : Dev} (a : LineOnly l s t) (b : LineOnly l t u) : LineOnly l s u where
  l2 := fun c k h => (b.l2 c k h).trans (a.l2 c k h)
  sys := fun k h => (b.sys k h).trans (a.sys k h)
  byte := fun k h => (b.byte k h).trans (a.byte k h)
  lost := b.lost.trans a.lost
  wf := fun w => b.wf (a.wf w)

theorem LineOnly.setL2 (l : Nat) (s : Dev) (c : Nat) (x : L2Line) : LineOnly l s (s.setL2 c l x) where
  l2 := fun d k h => by
    unfold Dev.l2line Dev.setL2
    dsimp only
    rw [SMap.get_set]
    split
    · rename_i e; subst e; rw [SMap.get_set, if_neg h]
    · rfl
  sys := fun _ _ => rfl
  byte := fun _ _ => rfl
  lost := rfl
  wf := fun w => w

theorem LineOnly.setSys (l : Nat) (s : Dev) (x : SysLine) : LineOnly l s (s.setSys l x) where
  l2 := fun _ _ _ => rfl
  sys := fun k h => by unfold Dev.sysLine Dev.setSys; dsimp only; rw [SMap.get_set, if_neg h]
  byte := fun _ _ => rfl
  lost := rfl
  wf := fun w => w

theorem LineOnly.setPoison (l k : Nat) (s : Dev) (b : Bool) : LineOnly l s (s.setPoison k b) :=
  ⟨fun _ _ _ => rfl, fun _ _ => rfl, fun _ _ => rfl, rfl, fun w => w⟩

theorem LineOnly.syncDir (l k : Nat) (s : Dev) : LineOnly l s (s.syncDir k) :=
  ⟨fun _ _ _ => rfl, fun _ _ => rfl, fun _ _ => rfl, rfl, fun w => w⟩

theorem mem_errs (s : Dev) (k : Nat) (e : ErrInfo) : (s.errCap k e).mem = s.mem := Dev.errCap_keeps (fun s => s.mem) (fun _ _ _ _ => rfl) s k e

theorem mem_hnEvt (s : Dev) (k : Nat) (f : Fld) : (s.hnEvt k f).mem = s.mem := by
  unfold Dev.hnEvt Dev.setEvt
  exact Dev.edge_keeps (fun s => s.mem) (fun _ _ _ _ => rfl) s _ _ rfl

theorem mem_inc (s : Dev) (f : Fld) (i : Nat) : (s.inc f i).mem = s.mem := by
  unfold Dev.inc; split <;> rfl

theorem mem_refuse {s t : Dev} {port w pa : Nat} (h : s.homeRefuse port w pa = some t) : t.mem = s.mem := by
  unfold Dev.homeRefuse at h
  split at h
  · cases h; rfl
  · split at h
    · cases h; exact mem_errs _ _ _
    · split at h
      · cases h
        unfold Dev.fwRefuse
        dsimp only
        rw [mem_hnEvt, mem_inc, mem_errs]
      · cases h

theorem mem_poisonRefuse (s : Dev) (port w pa : Nat) : (s.poisonRefuse port w pa).mem = s.mem := by
  unfold Dev.poisonRefuse; dsimp only; rw [mem_hnEvt, mem_errs]

theorem mem_eachCore (l : List Nat) (f : Nat → ACore → ACore) (s : Dev) : (s.each l (fun s m => s.onCore m (f m))).mem = s.mem :=
  Dev.each_keeps (fun s => s.mem) (f := fun s m => s.onCore m (f m)) (fun _ _ => rfl) l s

theorem mem_dropEach (l : Nat) (cs : List Nat) (s : Dev) : (s.each cs (fun s m => s.dropL1 m l)).mem = s.mem :=
  Dev.each_keeps (fun s => s.mem) (f := fun s m => s.dropL1 m l) (fun _ _ => rfl) cs s

theorem mem_shareEach (l : Nat) (cs : List Nat) (s : Dev) : (s.each cs (fun s m => s.onCore m (fun k => k.shareL1 l))).mem = s.mem :=
  mem_eachCore cs (fun _ k => k.shareL1 l) s

theorem mem_setLine (s : Dev) (l v : Nat) :
    (s.setDramLine l v).mem = { s.mem with dram := (s.setDramLine l v).mem.dram } := by
  have hm : ∀ (is : List Nat) (s : Dev), (s.each is (fun s i => s.setDramByte (64 * l + i) (BitVec.ofNat 8 (v / 2 ^ (8 * i))))).mem =
      { s.mem with dram := (s.each is (fun s i => s.setDramByte (64 * l + i) (BitVec.ofNat 8 (v / 2 ^ (8 * i))))).mem.dram } := by
    intro is
    induction is with
    | nil => intro s; rfl
    | cons i is ih => intro s; rw [Dev.each_cons, ih]; rfl
  exact hm (List.range 64) s

theorem l2_setLine (s : Dev) (l v c k : Nat) : (s.setDramLine l v).l2line c k = s.l2line c k := by
  unfold Dev.l2line; rw [mem_setLine]

theorem LineOnly.setLine (l : Nat) (s : Dev) (v : Nat) : LineOnly l s (s.setDramLine l v) where
  l2 := fun c k _ => l2_setLine s l v c k
  sys := fun k _ => by unfold Dev.sysLine; rw [mem_setLine]
  byte := fun b hb => by rw [Dev.dramByte_setLine, if_neg (by omega)]
  lost := by rw [mem_setLine]
  wf := fun w => Dev.dramWf_setLine w l v

theorem mem_fwDiscard (s : Dev) (port w pa : Nat) : (s.fwDiscard port w pa).mem = s.mem := by
  unfold Dev.fwDiscard; dsimp only; rw [mem_hnEvt, mem_inc, mem_errs]

theorem l2_setSys (s : Dev) (k : Nat) (x : SysLine) (c l : Nat) : (s.setSys k x).l2line c l = s.l2line c l := rfl

theorem l2_setPoison (s : Dev) (k : Nat) (b : Bool) (c l : Nat) : (s.setPoison k b).l2line c l = s.l2line c l := rfl

theorem l2_writeBack (s : Dev) (c l : Nat) (x : L2Line) (d k : Nat) : (s.writeBack c l x).l2line d k = s.l2line d k := by
  unfold Dev.writeBack
  split
  · exact l2_setPoison _ _ _ _ _
  · split
    · rw [l2_setSys, l2_setLine]
    · unfold Dev.l2line; rw [mem_fwDiscard]

theorem LineOnly.writeBack (l : Nat) (s : Dev) (c : Nat) (x : L2Line) : LineOnly l s (s.writeBack c l x) := by
  unfold Dev.writeBack
  split
  · exact LineOnly.setPoison l l s true
  · split
    · exact (LineOnly.setLine l s _).trans (LineOnly.setSys l _ _)
    · exact LineOnly.of_mem (mem_fwDiscard _ _ _ _)

theorem LineOnly.snoop (l : Nat) (s : Dev) (c : Nat) (inv : Bool) : LineOnly l s (s.snoopL2 c l inv) := by
  unfold Dev.snoopL2
  dsimp only
  split
  · exact LineOnly.refl l s
  · generalize e : (if (s.l2line c l).st = 3 then s.writeBack c l (s.l2line c l) else s) = t
    have h3 : LineOnly l s t := by
      rw [← e]; split
      · exact LineOnly.writeBack l s c _
      · exact LineOnly.refl l s
    refine LineOnly.trans ?_ (LineOnly.syncDir l l _)
    split
    · exact (h3.trans (LineOnly.setL2 l _ c _)).trans (LineOnly.of_mem (mem_dropEach _ _ _))
    · exact (h3.trans (LineOnly.setL2 l _ c _)).trans (LineOnly.of_mem (mem_shareEach _ _ _))

theorem l2_after_snoop (s : Dev) (c l : Nat) : (s.snoopL2 c l true).l2line c l = (if (s.l2line c l).st = 0 then s.l2line c l else {}) := by
  unfold Dev.snoopL2
  dsimp only
  split
  · rfl
  · rw [Bool.true_or, if_pos rfl, if_pos rfl]
    have : ∀ x : Dev, (x.syncDir l).l2line c l = x.l2line c l := fun _ => rfl
    rw [this]
    have hm : ∀ x : Dev, (x.each (coresOf c) (fun s m => s.dropL1 m l)).l2line c l = x.l2line c l := by
      intro x; unfold Dev.l2line; rw [mem_dropEach]
    rw [hm]
    unfold Dev.l2line Dev.setL2
    dsimp only
    rw [SMap.get_set_self, SMap.get_set_self]

theorem l2_other_snoop (s : Dev) (c d l : Nat) (h : d ≠ c) (inv : Bool) : (s.snoopL2 c l inv).l2line d l = s.l2line d l := by
  unfold Dev.snoopL2
  dsimp only
  split
  · rfl
  · have hs : ∀ x : Dev, (x.syncDir l).l2line d l = x.l2line d l := fun _ => rfl
    rw [hs]
    have hm : ∀ x : Dev, (x.each (coresOf c) (fun s m => s.dropL1 m l)).l2line d l = x.l2line d l := by
      intro x; unfold Dev.l2line; rw [mem_dropEach]
    have hn : ∀ x : Dev, (x.each (coresOf c) (fun s m => s.onCore m (fun k => k.shareL1 l))).l2line d l = x.l2line d l := by
      intro x; unfold Dev.l2line; rw [mem_shareEach]
    have h2 : ∀ (x : Dev) (y : L2Line), (x.setL2 c l y).l2line d l = x.l2line d l := by
      intro x y; unfold Dev.l2line Dev.setL2; dsimp only; rw [SMap.get_set, if_neg h]
    generalize e : (if (s.l2line c l).st = 3 then s.writeBack c l (s.l2line c l) else s) = t
    have h3 : t.l2line d l = s.l2line d l := by
      rw [← e]; split
      · exact l2_writeBack _ _ _ _ _ _
      · rfl
    split
    · exact (hm _).trans ((h2 _ _).trans h3)
    · exact (hn _).trans ((h2 _ _).trans h3)

/-- What a write of one line stores, when it is answered. -/
structure LineHas (l : Nat) (mask data : Nat) (t : Dev) : Prop where
  st0 : (t.l2line 0 l).st = 0
  st1 : (t.l2line 1 l).st = 0
  sys : (t.sysLine l).dirty = false
  byte : ∀ k, k < 64 → mask.testBit k = true → (t.dramByte (64 * l + k)).toNat = byteOf data k

theorem uncWrite_only (s : Dev) (port w l data mask keep : Nat) : LineOnly l s (s.uncWrite port w l data mask keep).1 := by
  unfold Dev.uncWrite
  split
  · rename_i t e; exact LineOnly.of_mem (mem_refuse e)
  · dsimp only
    have h1 : LineOnly l s (((s.snoopL2 0 l true).snoopL2 1 l true).loseResvs l keep) :=
      ((LineOnly.snoop l s 0 true).trans (LineOnly.snoop l _ 1 true)).trans (LineOnly.of_mem (mem_eachCore _ (fun _ c => c.loseResv l) _))
    split
    · exact h1.trans (LineOnly.of_mem (mem_poisonRefuse _ _ _ _))
    · exact ((h1.trans (LineOnly.setPoison l l _ _)).trans (LineOnly.setSys l _ _)).trans (LineOnly.setLine l _ _)

theorem uncWrite_has (s : Dev) (port w l data mask keep : Nat) (h : (s.uncWrite port w l data mask keep).2 = true) :
    LineHas l mask data (s.uncWrite port w l data mask keep).1 := by
  unfold Dev.uncWrite at h ⊢
  split at h
  · cases h
  · rename_i e
    dsimp only at h ⊢
    split at h
    · cases h
    · rename_i hp
      rw [if_neg hp]
      dsimp only
      have hre : ∀ (x : Dev) (c : Nat), (x.loseResvs l keep).l2line c l = x.l2line c l := by
        intro x c; unfold Dev.l2line Dev.loseResvs; rw [mem_eachCore _ (fun _ c => c.loseResv l)]
      have z : ∀ (x : Dev) (c : Nat), ((x.snoopL2 c l true).l2line c l).st = 0 := by
        intro x c
        rw [l2_after_snoop]
        split
        · assumption
        · rfl
      refine ⟨?_, ?_, ?_, fun k hk hm => ?_⟩
      · rw [l2_setLine]
        show (Dev.l2line (((s.snoopL2 0 l true).snoopL2 1 l true).loseResvs l keep) 0 l).st = 0
        rw [hre, l2_other_snoop _ _ _ _ (by decide)]
        exact z s 0
      · rw [l2_setLine]
        show (Dev.l2line (((s.snoopL2 0 l true).snoopL2 1 l true).loseResvs l keep) 1 l).st = 0
        rw [hre]
        exact z _ 1
      · unfold Dev.sysLine
        rw [mem_setLine]
        unfold Dev.setSys
        dsimp only
        rw [SMap.get_set_self]
      · rw [Dev.dramByte_setLine, if_pos (by omega), show 64 * l + k - 64 * l = k by omega, BitVec.toNat_ofNat]
        have := byteOf_merge ((((s.snoopL2 0 l true).snoopL2 1 l true).loseResvs l keep).homeData l) data mask k hk
        rw [if_pos hm] at this
        exact this

theorem LineHas.keep {l k mask data : Nat} {s t : Dev} (h : LineHas l mask data s) (o : LineOnly k s t) (n : l ≠ k) : LineHas l mask data t where
  st0 := by rw [o.l2 0 l n]; exact h.st0
  st1 := by rw [o.l2 1 l n]; exact h.st1
  sys := by rw [o.sys l n]; exact h.sys
  byte := fun i hi hm => by rw [o.byte _ (by omega)]; exact h.byte i hi hm

/-- The fold of a write over its lines. -/
theorem dmaFold_spec (port w a : Nat) (bs : List Byte) : ∀ (ls : List Nat) (s : Dev) (ok : Bool), ls.Nodup →
    (∀ b, b / 64 ∉ ls → (ls.foldl (fun (p : Dev × Bool) l =>
      if p.2 then (let (d, k) := lineSlice a bs l; p.1.uncWrite port w l d k 9) else p) (s, ok)).1.dramByte b = s.dramByte b ∧
      (ls.foldl (fun (p : Dev × Bool) l =>
      if p.2 then (let (d, k) := lineSlice a bs l; p.1.uncWrite port w l d k 9) else p) (s, ok)).1.memByte b = s.memByte b) ∧
    (SMap.wf (dramBlank s.mem.lost) s.mem.dram = true → SMap.wf (dramBlank (ls.foldl (fun (p : Dev × Bool) l =>
      if p.2 then (let (d, k) := lineSlice a bs l; p.1.uncWrite port w l d k 9) else p) (s, ok)).1.mem.lost) (ls.foldl (fun (p : Dev × Bool) l =>
      if p.2 then (let (d, k) := lineSlice a bs l; p.1.uncWrite port w l d k 9) else p) (s, ok)).1.mem.dram = true) ∧
    (∀ l mask data, l ∉ ls → LineHas l mask data s → LineHas l mask data (ls.foldl (fun (p : Dev × Bool) l =>
      if p.2 then (let (d, k) := lineSlice a bs l; p.1.uncWrite port w l d k 9) else p) (s, ok)).1) ∧
    ((ls.foldl (fun (p : Dev × Bool) l =>
      if p.2 then (let (d, k) := lineSlice a bs l; p.1.uncWrite port w l d k 9) else p) (s, ok)).2 = true →
      ok = true ∧ ∀ l ∈ ls, LineHas l (lineSlice a bs l).2 (lineSlice a bs l).1 (ls.foldl (fun (p : Dev × Bool) l =>
      if p.2 then (let (d, k) := lineSlice a bs l; p.1.uncWrite port w l d k 9) else p) (s, ok)).1) := by
  intro ls
  generalize hf : (fun (p : Dev × Bool) l => if p.2 then (let (d, k) := lineSlice a bs l; p.1.uncWrite port w l d k 9) else p) = f
  have hf1 : ∀ x l, f (x, true) l = x.uncWrite port w l (lineSlice a bs l).1 (lineSlice a bs l).2 9 := by intro x l; rw [← hf]; rfl
  have hf0 : ∀ x l, f (x, false) l = (x, false) := by intro x l; rw [← hf]; rfl
  clear hf
  induction ls with
  | nil => intro s ok _; exact ⟨fun b _ => ⟨rfl, rfl⟩, fun w => w, fun _ _ _ _ h => h, fun h => ⟨h, fun l hl => absurd hl (by simp)⟩⟩
  | cons l ls ih =>
    intro s ok hn
    rw [List.nodup_cons] at hn
    rw [List.foldl_cons]
    cases ok with
    | false =>
      rw [hf0]
      obtain ⟨i1, i2, i3, i4⟩ := ih s false hn.2
      refine ⟨fun b hb => i1 b (fun c => hb (List.mem_cons_of_mem _ c)), i2,
        fun k m d hk => i3 k m d (fun c => hk (List.mem_cons_of_mem _ c)), fun h => ?_⟩
      have := (i4 h).1
      cases this
    | true =>
      rw [hf1]
      have o := uncWrite_only s port w l (lineSlice a bs l).1 (lineSlice a bs l).2 9
      have hh := uncWrite_has s port w l (lineSlice a bs l).1 (lineSlice a bs l).2 9
      generalize s.uncWrite port w l (lineSlice a bs l).1 (lineSlice a bs l).2 9 = q at *
      obtain ⟨u, ok⟩ := q
      dsimp only at o hh ⊢
      obtain ⟨i1, i2, i3, i4⟩ := ih u ok hn.2
      refine ⟨fun b hb => ?_, fun wf => i2 (o.wf wf), fun k m d hk h => ?_, fun h => ?_⟩
      · rw [List.mem_cons, not_or] at hb
        obtain ⟨j1, j2⟩ := i1 b hb.2
        refine ⟨j1.trans (o.byte b hb.1), j2.trans ?_⟩
        unfold Dev.memByte
        dsimp only
        rw [o.l2 0 _ hb.1, o.l2 1 _ hb.1, o.sys _ hb.1, o.byte b hb.1]
      · rw [List.mem_cons, not_or] at hk
        exact i3 k m d hk.2 (h.keep o hk.1)
      · obtain ⟨j1, j2⟩ := i4 h
        refine ⟨rfl, fun k hk => ?_⟩
        rw [List.mem_cons] at hk
        rcases hk with rfl | hk
        · exact i3 k _ _ hn.1 (hh j1)
        · exact j2 k hk
/-- The number of bytes of a value. -/
theorem leBytes_length (n v : Nat) : (leBytes n v).length = n := by
  induction n generalizing v with
  | zero => rfl
  | succ n ih => rw [leBytes, List.length_cons, ih]

/-- Byte i of a value, lowest first. -/
theorem leBytes_get (n v i : Nat) (h : i < (leBytes n v).length) : (leBytes n v)[i] = BitVec.ofNat 8 (v / 256 ^ i) := by
  induction n generalizing v i with
  | zero => rw [leBytes_length] at h; omega
  | succ n ih =>
    cases i with
    | zero => simp [leBytes]
    | succ i =>
      simp only [leBytes, List.getElem_cons_succ]
      rw [ih, Nat.div_div_eq_div_mul, Nat.pow_succ, Nat.mul_comm 256]

/-- The lines of an access, each once. -/
theorem linesOf_nodup (a n : Nat) : (linesOf a n).Nodup := by
  unfold linesOf
  split
  · exact List.nodup_nil
  · exact List.Pairwise.map _ (fun x y (h : x ≠ y) => by show a / 64 + x ≠ a / 64 + y; omega) List.nodup_range

/-- Which lines an access touches. -/
theorem mem_linesOf (a n l : Nat) : l ∈ linesOf a n ↔ 0 < n ∧ a / 64 ≤ l ∧ l ≤ (a + n - 1) / 64 := by
  unfold linesOf
  split
  · simp; omega
  · rw [List.mem_map]
    constructor
    · rintro ⟨i, hi, rfl⟩
      rw [List.mem_range] at hi
      have : a / 64 ≤ (a + n - 1) / 64 := Nat.div_le_div_right (by omega)
      omega
    · rintro ⟨_, h1, h2⟩
      exact ⟨l - a / 64, by rw [List.mem_range]; omega, by omega⟩

/-- No request waits on line l, and no store-conditional to it stands in a store buffer. -/
def LineQuiet (s : Dev) (l : Nat) : Prop :=
  (s.dirAt l).busy = none ∧ ∀ m, m < 9 → ∀ e ∈ (s.core m).sb, e.stx = true → ∀ x ∈ e.cells, x.1 / 64 ≠ l

theorem each_same {f : Dev → Nat → Dev} {s : Dev} : ∀ l : List Nat, (∀ x ∈ l, f s x = s) → s.each l f = s
  | [], _ => rfl
  | x :: l, h => by
    rw [Dev.each_cons, h x (List.mem_cons_self ..)]
    exact each_same l (fun y hy => h y (List.mem_cons_of_mem _ hy))

/-- Nothing comes first on a quiet line: only the clock may move. -/
theorem freeLine_quiet {s : Dev} {l : Nat} (h : LineQuiet s l) (who : Nat) (excl : Bool) :
    (s.freeLine who l excl).mem = s.mem ∧ (s.freeLine who l excl).cores = s.cores := by
  have a : s.stxSettle l = s := by
    refine each_same _ (fun m hm => ?_)
    have n : (s.core m).sb.find? (fun e => e.stx && e.cells.any (fun x => decide (x.1 / 64 = l))) = none := by
      rw [List.find?_eq_none]
      intro e he
      cases hx : e.stx with
      | false => simp
      | true =>
        have := h.2 m (List.mem_range.mp hm) e he hx
        simpa using this
    dsimp only
    rw [n]
  have b : s.cond excl (fun s => s.stxSettle l) = s := by
    cases excl with
    | true => exact a
    | false => rfl
  unfold Dev.freeLine
  dsimp only
  rw [b, h.1]
  exact ⟨Dev.mem_moveClk _ _, Dev.cores_moveClk _ _⟩

/-- Nothing comes first on quiet lines. -/
theorem freeLines_quiet (excl : Bool) : ∀ (ls : List Nat) (s : Dev), (∀ l ∈ ls, LineQuiet s l) → (s.freeLines ls excl).mem = s.mem
  | [], _, _ => rfl
  | l :: ls, s, h => by
    obtain ⟨m, c⟩ := freeLine_quiet (h l (List.mem_cons_self ..)) 11 excl
    have := freeLines_quiet excl ls (s.freeLine 11 l excl) (fun k hk => by
      have q := h k (List.mem_cons_of_mem _ hk)
      unfold LineQuiet Dev.dirAt Dev.core at *
      rw [m, c]
      exact q)
    exact this.trans m

/-- All that a write by a requester without a cache does to DRAM and to what a coherent observer reads, after the transactions
of its lines that came first. -/
theorem dmaWrite_spec (s : Dev) (port w a : Nat) (bs : List Byte) :
    (∀ b, b / 64 ∉ linesOf a bs.length →
      (s.dmaWrite port w a bs).1.dramByte b = (s.freeLines (linesOf a bs.length) true).dramByte b ∧
      (s.dmaWrite port w a bs).1.memByte b = (s.freeLines (linesOf a bs.length) true).memByte b) ∧
    (s.dramWf → (s.dmaWrite port w a bs).1.dramWf) ∧
    ((s.dmaWrite port w a bs).2 = true → ∀ i (h : i < bs.length), (s.dmaWrite port w a bs).1.dramByte (a + i) = bs[i] ∧
      (s.dmaWrite port w a bs).1.memByte (a + i) = bs[i]) := by
  obtain ⟨h1, _, _, h4⟩ :=
    dmaFold_spec port w a bs (linesOf a bs.length) (s.freeLines (linesOf a bs.length) true) true (linesOf_nodup _ _)
  refine ⟨h1, (MemPath.dmaWrite s port w a bs).dramWf, fun hok i hi => ?_⟩
  have hl : (a + i) / 64 ∈ linesOf a bs.length := by
    rw [mem_linesOf]
    exact ⟨by omega, Nat.div_le_div_right (by omega), Nat.div_le_div_right (by omega)⟩
  have hh := (h4 hok).2 _ hl
  change LineHas _ _ _ (s.dmaWrite port w a bs).1 at hh
  obtain ⟨s1, s2⟩ := (lineSlice_spec a ((a + i) / 64) bs).1 i hi rfl
  have hb := hh.byte ((a + i) % 64) (Nat.mod_lt _ (by omega)) s1
  rw [s2, Nat.div_add_mod] at hb
  have hd : (s.dmaWrite port w a bs).1.dramByte (a + i) = bs[i] := BitVec.eq_of_toNat_eq hb
  refine ⟨hd, ?_⟩
  unfold Dev.memByte
  dsimp only
  rw [hh.st0, hh.st1, hh.sys, if_neg (by decide), if_neg (by decide), if_neg (by decide), hd]

end Sys2Proof.Machine
end

