-- ==== Sys2Proof/Laws/Entry.lean ====
section
/-!
SUPPORT. Sys2Proof/Laws/Entry.lean: what taking an exception does to a processor: the saved registers, STATUS, the address
of the next bundle, and what counters and trace leave alone.
-/

namespace Sys2Proof.Machine

/-! ## Fields of a number -/

/-- A field replaced: what stands below, in and above it. -/
theorem setBits_parts (v hi lo x : Nat) (h : lo ≤ hi) :
    setBits v hi lo x = 2 ^ lo * (2 ^ (hi + 1 - lo) * (v / 2 ^ (hi + 1)) + x % 2 ^ (hi + 1 - lo)) + v % 2 ^ lo := by
  have e : v / 2 ^ (hi + 1) = v / 2 ^ lo / 2 ^ (hi + 1 - lo) := by
    rw [Nat.div_div_eq_div_mul, ← Nat.pow_add, show lo + (hi + 1 - lo) = hi + 1 by omega]
  unfold setBits bits
  rw [Nat.shiftRight_eq_div_pow, e]
  have h1 := Nat.div_add_mod v (2 ^ lo)
  have h2 := Nat.div_add_mod (v / 2 ^ lo) (2 ^ (hi + 1 - lo))
  generalize v / 2 ^ lo / 2 ^ (hi + 1 - lo) = a at *
  generalize v / 2 ^ lo % 2 ^ (hi + 1 - lo) = b at *
  generalize v % 2 ^ lo = c at *
  generalize x % 2 ^ (hi + 1 - lo) = y at *
  rw [← h2] at h1
  rw [Nat.mul_add, ← h1, Nat.mul_add, Nat.mul_comm b, Nat.mul_comm y]
  omega

/-- A bit after a field is replaced. -/
theorem testBit_setBits (v hi lo x i : Nat) (h : lo ≤ hi) :
    (setBits v hi lo x).testBit i = if lo ≤ i ∧ i ≤ hi then x.testBit (i - lo) else v.testBit i := by
  rw [setBits_parts v hi lo x h, Nat.testBit_two_pow_mul_add _ (Nat.mod_lt _ (Nat.two_pow_pos _)),
    Nat.testBit_two_pow_mul_add _ (Nat.mod_lt _ (Nat.two_pow_pos _)), Nat.testBit_mod_two_pow, Nat.testBit_mod_two_pow,
    Nat.testBit_div_two_pow]
  by_cases h1 : i < lo
  · rw [if_pos h1, if_neg (by omega)]; simp [h1]
  · rw [if_neg h1]
    by_cases h2 : i - lo < hi + 1 - lo
    · rw [if_pos h2, if_pos (by omega)]; simp [h2]
    · rw [if_neg h2, if_neg (by omega), show i - lo - (hi + 1 - lo) + (hi + 1) = i by omega]

/-! ## System registers of a processor -/

/-- A system register after one is set. -/
theorem Dev.sr_setSr (s : Dev) (m n k v : Nat) : (s.setSr m n v).sr m k = if k = n then v % 2 ^ 64 else s.sr m k := by
  unfold Dev.sr Dev.setSr
  rw [Dev.core_onCore_self]
  dsimp only
  by_cases h : k = n
  · subst h; rw [SMap.get_set_self, if_pos rfl, BitVec.toNat_ofNat]
  · rw [SMap.get_set_ne _ _ _ h, if_neg h]

/-- What counters, the monitor's depth, the clock and the trace leave alone. -/
def Dev.calm (m : Nat) (s : Dev) : ACore := { s.core m with cyc := 0, nextAt := 0 }

theorem Dev.calm_cores {s t : Dev} (m : Nat) (h : t.cores = s.cores) : t.calm m = s.calm m := by
  unfold Dev.calm Dev.core; rw [h]

theorem Dev.cores_edge (s : Dev) (n : Nat) (f : Dev → Dev) (h : (f s).cores = s.cores) : (s.edge n f).cores = s.cores :=
  Dev.edge_keeps (fun s => s.cores) (fun _ _ _ _ => rfl) s n f h

theorem Dev.cores_inc (s : Dev) (f : Fld) (i : Nat) : (s.inc f i).cores = s.cores := by
  unfold Dev.inc; split <;> rfl

theorem Dev.cores_cond (s : Dev) (b : Bool) (f : Dev → Dev) (h : ∀ s, (f s).cores = s.cores) : (s.cond b f).cores = s.cores :=
  Dev.cond_keeps (fun s => s.cores) h b s

theorem Dev.cores_setEvt (s : Dev) (n : Nat) (f : Fld) (i : Nat) : (s.setEvt n f i).cores = s.cores := Dev.cores_edge s n _ rfl

theorem Dev.cores_setEvtBit (s : Dev) (n : Nat) (f : Fld) (i b : Nat) : (s.setEvtBit n f i b).cores = s.cores := Dev.cores_edge s n _ rfl

theorem Dev.cores_wr64 (s : Dev) (lo hi : RName) (i v : Nat) : (s.wr64 lo hi i v).cores = s.cores := rfl

theorem Dev.cores_ite {c : Prop} [Decidable c] {a b s : Dev} (ha : a.cores = s.cores) (hb : b.cores = s.cores) :
    (if c then a else b).cores = s.cores := by
  split
  · exact ha
  · exact hb

theorem Dev.cores_cPmuStep (s : Dev) (m k n : Nat) : (s.cPmuStep m k n).cores = s.cores := by
  unfold Dev.cPmuStep
  exact Dev.cores_ite ((Dev.cores_cond _ _ _ (fun s => Dev.cores_fs s _ _ _)).trans ((Dev.cores_setEvtBit _ _ _ _ _).trans
    (Dev.cores_wr64 _ _ _ _ _))) (Dev.cores_wr64 _ _ _ _ _)

theorem Dev.cores_cPmu (s : Dev) (m ev n : Nat) : (s.cPmu m ev n).cores = s.cores := by
  unfold Dev.cPmu
  split
  · exact Dev.each_keeps (fun s => s.cores) (fun s k => Dev.cores_ite (Dev.cores_cPmuStep _ _ _ _) rfl) _ s
  · rfl

theorem Dev.cores_monEnter (s : Dev) (m : Nat) : (s.monEnter m).cores = s.cores := by
  unfold Dev.monEnter; split
  · exact Dev.cores_inc _ _ _
  · rfl

theorem Dev.cores_onTrc (s : Dev) (m : Nat) (f : TrcSrc → TrcSrc) : (s.onTrc m f).cores = s.cores := rfl

theorem Dev.cores_trcWrap (s : Dev) : s.trcWrap.cores = s.cores := by
  unfold Dev.trcWrap
  split
  · exact Dev.cores_setEvt _ _ _ _
  · rfl

theorem Dev.cores_trcByte (s : Dev) (b : Byte) : (s.trcByte b).cores = s.cores := by
  unfold Dev.trcByte
  split
  · rfl
  · dsimp only
    split
    · rw [Dev.cores_trcWrap]; rfl
    · rfl

theorem Dev.cores_trcBytes (l : List Byte) : ∀ s : Dev, (s.trcBytes l).cores = s.cores := by
  induction l with
  | nil => intro s; rfl
  | cons b l ih => intro s; exact (ih _).trans (Dev.cores_trcByte s b)

theorem Dev.cores_trcPage (s : Dev) : s.trcPage.cores = s.cores := by
  have h : ∀ (l : List Nat) (u : Dev), (u.each l (fun s m => s.onTrc m (fun x => { x with needSync := true }))).cores = u.cores :=
    fun l u => Dev.each_keeps (fun s => s.cores) (f := fun s m => s.onTrc m (fun x => { x with needSync := true })) (fun s m => rfl) l u
  unfold Dev.trcPage
  generalize hu : s.trcBytes (traceHead 8 15 :: leBytes 8 (stamp s.time.now)) = u
  dsimp only
  rw [h, ← hu, Dev.cores_trcBytes]

theorem Dev.cores_trcRoom (s : Dev) (n : Nat) : (s.trcRoom n).cores = s.cores := by
  unfold Dev.trcRoom
  generalize hu : (if (!s.trc.pageNew && decide (s.trcLeft < n)) = true then s.trcBytes (List.replicate s.trcLeft 0) else s) = u
  have h : u.cores = s.cores := by
    rw [← hu]; split
    · exact Dev.cores_trcBytes _ _
    · rfl
  dsimp only
  split
  · rw [Dev.cores_trcPage, h]
  · exact h

theorem Dev.cores_trcDrain (s : Dev) : s.trcDrain.cores = s.cores := by
  have h : ∀ (g : Dev × Nat → Nat → Dev × Nat) (_ : ∀ p m, (g p m).1.cores = p.1.cores) (l : List Nat) (p : Dev × Nat),
      (l.foldl g p).1.cores = p.1.cores := by
    intro g hg l
    induction l with
    | nil => intro p; rfl
    | cons m l ih => intro p; rw [List.foldl_cons, ih, hg]
  unfold Dev.trcDrain
  dsimp only
  rw [h]
  intro p m
  dsimp only
  split
  · rfl
  · rfl

theorem Dev.cores_trcSync (s : Dev) (m : Nat) (l : List Byte) : (s.trcSync m l).cores = s.cores := by
  unfold Dev.trcSync
  rw [Dev.cores_onTrc, Dev.cores_trcBytes, Dev.cores_trcRoom]

theorem Dev.cores_trcPut (s : Dev) (m : Nat) (l p : List Byte) : (s.trcPut m l p).cores = s.cores := by
  have h : ∀ (u : Dev) (n : Nat), (if ((u.trcRoom n).trcSrc m).needSync then (u.trcRoom n).trcSync m l else u.trcRoom n).cores
      = u.cores := fun u n => (Dev.cores_ite (Dev.cores_trcSync _ _ _) rfl).trans (Dev.cores_trcRoom u n)
  unfold Dev.trcPut
  rw [Dev.cores_trcBytes]
  exact (h _ _).trans (h _ _)

theorem Dev.cores_trcEmit (s : Dev) (m : Nat) (sync pkt : List Byte) : (s.trcEmit m sync pkt).cores = s.cores := by
  unfold Dev.trcEmit
  refine Dev.cores_ite rfl (Dev.cores_ite ?_ ?_)
  · rw [Dev.cores_setEvt, Dev.cores_inc, Dev.cores_onTrc, Dev.cores_trcDrain]
  · rw [Dev.cores_onTrc, Dev.cores_trcPut]
    exact (Dev.cores_cond _ _ _ (fun s => by rw [Dev.cores_onTrc, Dev.cores_trcPut])).trans (Dev.cores_trcDrain s)

theorem Dev.cores_traceExc (s : Dev) (m cause dest : Nat) : (s.traceExc m cause dest).cores = s.cores := by
  unfold Dev.traceExc Dev.traceMove
  split
  · rfl
  · dsimp only
    rw [Dev.cores_onTrc, Dev.cores_trcEmit]

theorem Dev.cores_traceContext (s : Dev) (m : Nat) : (s.traceContext m).cores = s.cores := by
  unfold Dev.traceContext
  split
  · rfl
  · dsimp only
    rw [Dev.cores_onTrc, Dev.cores_trcEmit]

theorem Dev.cores_traceChange (s : Dev) (m : Nat) : (s.traceChange m).cores = s.cores := by
  unfold Dev.traceChange
  split
  · rfl
  · exact Dev.cores_traceContext s m

theorem Dev.calm_coreTick (s : Dev) (m n : Nat) : (s.coreTick m n).calm m = s.calm m := by
  unfold Dev.coreTick
  dsimp only
  refine (Dev.calm_cores m (Dev.cores_cond _ _ _ (fun s => Dev.cores_cPmu s _ _ _))).trans ?_
  refine (Dev.calm_cores m (Dev.cores_cPmu _ _ _ _)).trans ?_
  unfold Dev.calm
  rw [Dev.core_onCore_self]

/-! ## The entry -/

/-- A system register where nothing but the clock differs. -/
theorem Dev.calm_sr {s t : Dev} {m : Nat} (h : t.calm m = s.calm m) (n : Nat) : t.sr m n = s.sr m n := by
  have e : (t.calm m).sys = (s.calm m).sys := by rw [h]
  unfold Dev.sr
  rw [show (t.core m).sys = (s.core m).sys from e]

theorem Dev.sr_setSrf (s : Dev) (m n k hi lo v : Nat) :
    (s.setSrf m n hi lo v).sr m k = if k = n then setBits (s.sr m n) hi lo v % 2 ^ 64 else s.sr m k := Dev.sr_setSr _ _ _ _ _

theorem Dev.sr_setSt (s : Dev) (m k b : Nat) (v : Bool) :
    (s.setSt m b v).sr m k = if k = 0 then setBits (s.sr m 0) b b (b2n v) % 2 ^ 64 else s.sr m k := Dev.sr_setSr _ _ _ _ _

theorem Dev.sr_breakStream (s : Dev) (m n : Nat) : (s.breakStream m).sr m n = s.sr m n := by
  unfold Dev.sr Dev.breakStream; rw [Dev.core_onCore_self]

theorem Dev.sr_setPc (s : Dev) (m n a : Nat) : (s.setPc m a).sr m n = s.sr m n := by
  unfold Dev.sr Dev.setPc; rw [Dev.core_onCore_self]

theorem Dev.resPort_setSr (s : Dev) (m n v code : Nat) : (s.setSr m n v).resPort m code = s.resPort m code := by
  unfold Dev.resPort Dev.setSr; rw [Dev.core_onCore_self]

theorem Dev.sr_lt (s : Dev) (m n : Nat) : s.sr m n < 2 ^ 64 := BitVec.isLt _

theorem Dev.resPort_lt (s : Dev) (m code : Nat) : s.resPort m code < 2 ^ 64 := BitVec.isLt _

/-- The saved result ports, one register each. -/
theorem Dev.sr_savePorts (s : Dev) (m base k : Nat) :
    (s.savePorts m base).sr m k =
      if k = base + 6 then s.resPort m 0x48 else if k = base + 5 then s.resPort m 0x45 else if k = base + 4 then s.resPort m 0x44
      else if k = base + 3 then s.resPort m 0x43 else if k = base + 2 then s.resPort m 0x42 else if k = base + 1 then s.resPort m 0x41
      else if k = base then s.resPort m 0x40 else s.sr m k := by
  have e : s.savePorts m base = (((((((s.setSr m (base + 0) (s.resPort m 0x40)).setSr m (base + 1) (s.resPort m 0x41)).setSr m (base + 2)
      (s.resPort m 0x42)).setSr m (base + 3) (s.resPort m 0x43)).setSr m (base + 4) (s.resPort m 0x44)).setSr m (base + 5)
      (s.resPort m 0x45)).setSr m (base + 6) (s.resPort m 0x48)) := by
    show (([(0, 0x40), (1, 0x41), (2, 0x42), (3, 0x43), (4, 0x44), (5, 0x45), (6, 0x48)] : List (Nat × Nat)).foldl
      (fun s x => s.setSr m (base + x.1) (s.resPort m x.2)) s) = _
    simp only [List.foldl_cons, List.foldl_nil, Dev.resPort_setSr]
  rw [e]
  simp only [Dev.sr_setSr, Nat.mod_eq_of_lt (Dev.resPort_lt _ _ _), Nat.add_zero]

/-- A processor without its system registers. -/
def ACore.noSys (c : ACore) : ACore := { c with sys := [] }

theorem Dev.noSys_setSr (s : Dev) (m n v : Nat) : ((s.setSr m n v).core m).noSys = (s.core m).noSys := by
  unfold Dev.setSr; rw [Dev.core_onCore_self]; rfl

theorem Dev.noSys_setSrf (s : Dev) (m n hi lo v : Nat) : ((s.setSrf m n hi lo v).core m).noSys = (s.core m).noSys :=
  Dev.noSys_setSr _ _ _ _

theorem Dev.noSys_setSt (s : Dev) (m b : Nat) (v : Bool) : ((s.setSt m b v).core m).noSys = (s.core m).noSys :=
  Dev.noSys_setSr _ _ _ _

theorem Dev.noSys_savePorts (s : Dev) (m base : Nat) : ((s.savePorts m base).core m).noSys = (s.core m).noSys := by
  have h : ∀ (l : List (Nat × Nat)) (s : Dev), ((l.foldl (fun s x => s.setSr m (base + x.1) (s.resPort m x.2)) s).core m).noSys =
      (s.core m).noSys := by
    intro l
    induction l with
    | nil => intro s; rfl
    | cons x l ih => intro s; rw [List.foldl_cons, ih, Dev.noSys_setSr]
  exact h _ s

theorem Dev.noSys_breakStream (s : Dev) (m : Nat) : ((s.breakStream m).core m).noSys =
    { (s.core m).noSys with latch := [], resv := none, xfer := none, fq := [], fqN := 0, progPc := none, multi := none } := by
  unfold Dev.breakStream; rw [Dev.core_onCore_self]; rfl

theorem Dev.noSys_setPc (s : Dev) (m a : Nat) : ((s.setPc m a).core m).noSys = { (s.core m).noSys with pc := BitVec.ofNat 64 a } := by
  unfold Dev.setPc; rw [Dev.core_onCore_self]; rfl

/-- The level left, as an entry keeps it. -/
def Dev.leftAfter (s : Dev) (m : Nat) : Nat := if s.lvl m < topLvl m then s.lvl m else (s.core m).leftLvl

theorem Dev.sr_enterTop (s : Dev) (m k : Nat) :
    (s.enterTop m).sr m k = if k = 0 then setBits (s.sr m 0) 1 0 (topLvl m) % 2 ^ 64 else s.sr m k := by
  have h : ∀ n, (s.cond (decide (s.lvl m < topLvl m)) (fun t => t.onCore m (fun c => { c with leftLvl := s.lvl m }))).sr m n = s.sr m n :=
    fun n => Dev.cond_keeps (fun s => s.sr m n) (fun t => by unfold Dev.sr; rw [Dev.core_onCore_self]) _ s
  unfold Dev.enterTop
  dsimp only
  rw [Dev.sr_setSrf, h, h]

theorem Dev.noSys_enterTop (s : Dev) (m : Nat) : ((s.enterTop m).core m).noSys =
    { (s.core m).noSys with leftLvl := s.leftAfter m } := by
  unfold Dev.enterTop Dev.leftAfter
  dsimp only
  rw [Dev.noSys_setSrf]
  by_cases h : s.lvl m < topLvl m
  · simp only [h, decide_true, if_true, Dev.cond_true]
    rw [Dev.core_onCore_self]; rfl
  · simp only [h, decide_false, if_false, Dev.cond_false]
    rfl

/-- The level left depends on nothing but STATUS and the level left before. -/
theorem Dev.leftAfter_congr {s t : Dev} {m : Nat} (h : t.sr m 0 = s.sr m 0) (g : (t.core m).noSys = (s.core m).noSys) :
    t.leftAfter m = s.leftAfter m := by
  have e : (t.core m).leftLvl = (s.core m).leftLvl := by
    have := congrArg ACore.leftLvl g
    exact this
  unfold Dev.leftAfter Dev.lvl Dev.srf
  rw [h, e]

/-- What an entry has written when the clock, the counters and the trace take it up (R314). -/
def Dev.entryOf (e : Dev) (m : Nat) (x : Exc) : Dev :=
  let c := e.core m
  let dly := c.xfer.isSome && decide (x.code ≠ cInterrupt)
  let s := (e.setSr m 0x20 (e.pc m)).setSr m 0x21 (e.savedStatus m)
  let s := (s.savePorts m 0x28).setSr m 0x22 (causeOf x dly)
  let s := ((s.setSr m 0x23 x.addr).setSr m 0x24 x.prog).setSr m 0x25 (edlyOf c.xfer)
  let s := ((s.enterTop m).setSt m 2 false).setSt m 4 true
  (s.breakStream m).setPc m (s.sr m 0x10)

theorem Dev.calm_enterE (s : Dev) (m : Nat) (x : Exc) : (s.enterE m x).calm m = ((s.drainOps m).entryOf m x).calm m := by
  show Dev.calm m (((((((s.drainOps m).entryOf m x).cPmu m (if x.code = cInterrupt then 0x15 else 0x14) 1).monEnter m).coreTick m 14).traceExc m
    x.code _).traceChange m) = _
  rw [Dev.calm_cores m (Dev.cores_traceChange _ _), Dev.calm_cores m (Dev.cores_traceExc _ _ _ _), Dev.calm_coreTick,
    Dev.calm_cores m (Dev.cores_monEnter _ _), Dev.calm_cores m (Dev.cores_cPmu _ _ _ _)]

/-- The system registers after an entry. -/
theorem Dev.sr_enterE (s : Dev) (m : Nat) (x : Exc) (n : Nat) : (s.enterE m x).sr m n = ((s.drainOps m).entryOf m x).sr m n :=
  Dev.calm_sr (Dev.calm_enterE s m x) n

theorem Dev.statusOf_lt (s : Dev) (m : Nat) : s.statusOf m < 512 := by
  unfold Dev.statusOf
  have : s.sr m 0 % 256 < 256 := Nat.mod_lt _ (by decide)
  have : s.worldBit m < 2 := by
    unfold Dev.worldBit
    split
    · decide
    · exact Nat.mod_lt _ (by decide)
  omega

theorem Dev.savedStatus_lt (s : Dev) (m : Nat) : s.savedStatus m < 2 ^ 64 := by
  unfold Dev.savedStatus
  have := s.statusOf_lt m
  have : (s.core m).g.toNat < 8 := (s.core m).g.isLt
  omega

/-- A system register after an entry: the saved state, STATUS, and every other as it was. -/
theorem Dev.sr_entryOf (e : Dev) (m : Nat) (x : Exc) (n : Nat) :
    (e.entryOf m x).sr m n =
      if n = 0 then setBits (setBits (setBits (e.sr m 0) 1 0 (topLvl m) % 2 ^ 64) 2 2 0 % 2 ^ 64) 4 4 1 % 2 ^ 64
      else if n = 0x20 then e.pc m
      else if n = 0x21 then e.savedStatus m
      else if n = 0x22 then causeOf x ((e.core m).xfer.isSome && decide (x.code ≠ cInterrupt)) % 2 ^ 64
      else if n = 0x23 then x.addr % 2 ^ 64
      else if n = 0x24 then x.prog % 2 ^ 64
      else if n = 0x25 then edlyOf (e.core m).xfer % 2 ^ 64
      else if 0x28 ≤ n ∧ n ≤ 0x2E then e.resPort m (nth shadowPorts (n - 0x28))
      else e.sr m n := by
  unfold Dev.entryOf
  dsimp only
  simp only [Dev.sr_setPc, Dev.sr_breakStream, Dev.sr_setSt, Dev.sr_enterTop, Dev.sr_setSr, Dev.sr_savePorts, Dev.resPort_setSr]
  have hp : e.pc m % 2 ^ 64 = e.pc m := Nat.mod_eq_of_lt (BitVec.isLt _)
  have hs : e.savedStatus m % 2 ^ 64 = e.savedStatus m := Nat.mod_eq_of_lt (e.savedStatus_lt m)
  have hp' : e.pc m < 18446744073709551616 := BitVec.isLt _
  have hs' : e.savedStatus m < 18446744073709551616 := e.savedStatus_lt m
  by_cases h0 : n = 0
  · subst h0; rfl
  · by_cases h : n < 0x20 ∨ 0x2F ≤ n
    · repeat rw [if_neg (by omega)]
    · have : n ∈ [0x20, 0x21, 0x22, 0x23, 0x24, 0x25, 0x26, 0x27, 0x28, 0x29, 0x2A, 0x2B, 0x2C, 0x2D, 0x2E] := by simp; omega
      simp only [List.mem_cons, List.not_mem_nil, or_false] at this
      rcases this with h | h | h | h | h | h | h | h | h | h | h | h | h | h | h <;> subst h <;>
        simp [hp, hs, hp', hs', shadowPorts, nth]

/-- Of a processor without its system registers an entry changes the latches, the reservation, the pending transfer, the
fetch queue, the level left and the PC, which is EVEC. -/
theorem Dev.noSys_entryOf (e : Dev) (m : Nat) (x : Exc) : ((e.entryOf m x).core m).noSys =
    { (e.core m).noSys with latch := [], resv := none, xfer := none, fq := [], fqN := 0, progPc := none, multi := none,
                            leftLvl := e.leftAfter m, pc := BitVec.ofNat 64 (e.sr m 0x10) } := by
  unfold Dev.entryOf
  dsimp only
  rw [Dev.noSys_setPc, Dev.noSys_breakStream]
  simp only [Dev.noSys_setSt, Dev.noSys_enterTop, Dev.noSys_setSr, Dev.noSys_savePorts, Dev.sr_setSt, Dev.sr_enterTop, Dev.sr_setSr, Dev.sr_savePorts]
  rw [Dev.leftAfter_congr (s := e)]
  · rfl
  · simp [Dev.sr_setSr, Dev.sr_savePorts]
  · simp only [Dev.noSys_setSr, Dev.noSys_savePorts]

/-- A field of a processor that neither its clock nor its system registers decide, after an entry. -/
theorem Dev.core_enterE {α : Type} (p : ACore → α) (hp : ∀ c : ACore, p c = p { c.noSys with cyc := 0, nextAt := 0 }) (s : Dev)
    (m : Nat) (x : Exc) : p ((s.enterE m x).core m) =
    p { ((s.drainOps m).core m) with latch := [], resv := none, xfer := none, fq := [], fqN := 0, progPc := none,
                                       multi := none, leftLvl := (s.drainOps m).leftAfter m,
                                       pc := BitVec.ofNat 64 ((s.drainOps m).sr m 0x10) } := by
  have h : ∀ t : Dev, ({ (t.core m).noSys with cyc := 0, nextAt := 0 } : ACore) = (t.calm m).noSys := fun _ => rfl
  rw [hp, h, Dev.calm_enterE, ← h, Dev.noSys_entryOf, hp { ((s.drainOps m).core m) with
    latch := [], resv := none, xfer := none, fq := [], fqN := 0, progPc := none, multi := none,
    leftLvl := (s.drainOps m).leftAfter m, pc := BitVec.ofNat 64 ((s.drainOps m).sr m 0x10) }]
  rfl

end Sys2Proof.Machine
end

