-- ==== Sys2Proof/Laws/Ports.lean ====
section
/-!
SUPPORT. Sys2Proof/Laws/Ports.lean: when the gates of the debug port, the mailbox, the DBG registers and the register blocks
admit an access, and what follows then.
-/

namespace Sys2Proof.Machine

/-! ## The host ring of an Ethernet port -/

/-- A write that got through goes on. -/
theorem Dev.txWrote_ok (p : Nat) (g : Dev → Dev) (x : Dev) : Dev.txWrote p g (x, true) = g x := rfl

/-- A read that got through goes on. -/
theorem Dev.txRead_ok (p : Nat) (g : Dev → List Byte → Dev) (x : Dev) (l : List Byte) :
    Dev.txRead p g (x, some l) = g x l := rfl

/-- A read that drew an error response stops the ring. -/
theorem Dev.txRead_err (p : Nat) (g : Dev → List Byte → Dev) (x : Dev) : Dev.txRead p g (x, none) = x.txDmaErr p := rfl

/-! ## The debug port -/

/-- The port acts while PD01 is on. -/
theorem Dev.atPort_on {s : Dev} (h : s.domOn 1 = true) (f : Dev → Dev) : s.atPort f = f s := by simp [Dev.atPort, h]

/-- It does nothing while PD01 is off. -/
theorem Dev.atPort_off {s : Dev} (h : s.domOn 1 = false) (f : Dev → Dev) : s.atPort f = s := by simp [Dev.atPort, h]

/-- An access that the debug master may make. -/
theorem Dev.zAccess_makes {s : Dev} {inc : Bool} {world addr size a : Nat} (ha : a = s.zAddr inc addr) (hw : world ≠ 3)
    (hs : a % size = 0) (hp : s.domOn 31 = true) (hu : s.unlockReach world = true) (hg : s.windowGranted a = true)
    (f : Dev → Nat → Dev) :
    s.zAccess false inc world addr size f =
      (if (f s a).resp.err then (f s a).zAnswer zError a 0
       else { (f s a).zAnswer zOK a (f s a).resp.val.toNat with
              zdp := { ((f s a).zAnswer zOK a (f s a).resp.val.toNat).zdp with next := a + size } }) := by
  subst ha
  simp only [Dev.zAccess, hw, hs, hp, hu, hg, decide_false, Bool.or_self, ne_eq, not_true_eq_false, Bool.not_true,
    Bool.false_eq_true, if_false]

/-- One that it may not make. -/
theorem Dev.zAccess_refuses {s : Dev} {bad inc : Bool} {world addr size a : Nat} (ha : a = s.zAddr inc addr)
    (f : Dev → Nat → Dev) :
    (bad = true ∨ world = 3 ∨ a % size ≠ 0 → s.zAccess bad inc world addr size f = s.zAnswer zBadOp a 0) ∧
    (bad = false → world ≠ 3 → a % size = 0 → s.domOn 31 = false →
      s.zAccess bad inc world addr size f = s.zAnswer zNoPwr a 0) ∧
    (bad = false → world ≠ 3 → a % size = 0 → s.domOn 31 = true →
      s.unlockReach world = false ∨ s.windowGranted a = false →
      s.zAccess bad inc world addr size f = s.zAnswer zDenied a 0) := by
  subst ha
  refine ⟨fun h => ?_, fun h1 h2 h3 h4 => ?_, fun h1 h2 h3 h4 h5 => ?_⟩
  · rcases h with h | h | h <;> simp [Dev.zAccess, h]
  · simp [Dev.zAccess, h1, h2, h3, h4]
  · rcases h5 with h | h <;> simp [Dev.zAccess, h1, h2, h3, h4, h]

/-! ## The mailbox -/

/-- A message in progress is served by its firmware or by the ROM of a failed boot, where the life-cycle state and mode grant
anything. -/
theorem Dev.mbServe_runs {s : Dev} {code : Nat} (h1 : s.domOn 1 = true) (h2 : s.lcs.mbBusy = some code)
    (h3 : s.fwRuns = true ∨ s.romAnswers = true) (h4 : code = 1 ∨ debugGrant s.lcs.state s.mode ≠ 0) (f : Dev → Dev) :
    s.mbServe code f = f s := by
  unfold Dev.mbServe
  rw [if_pos ⟨h1, h2⟩, if_pos h3, if_neg (by rintro ⟨a, b⟩; rcases h4 with c | c <;> contradiction)]

/-- The stub of END takes a challenge and an unlock (R67). -/
theorem Dev.mbServe_stub {s : Dev} {code : Nat} (h1 : s.domOn 1 = true) (h2 : s.lcs.mbBusy = some code) (h3 : s.fwRuns = false)
    (h4 : s.romAnswers = false) (h5 : s.stubRuns = true) (h6 : code = 2 ∨ code = 3) (f : Dev → Dev) : s.mbServe code f = f s := by
  unfold Dev.mbServe
  rw [if_pos ⟨h1, h2⟩, h3, h4, if_neg (by simp), if_pos h5, if_pos h6]

/-- The stub of END refuses every other message (R67). -/
theorem Dev.mbServe_stub_denies {s : Dev} {code : Nat} (h1 : s.domOn 1 = true) (h2 : s.lcs.mbBusy = some code)
    (h3 : s.fwRuns = false) (h4 : s.romAnswers = false) (h5 : s.stubRuns = true) (h6 : ¬ (code = 2 ∨ code = 3)) (f : Dev → Dev) :
    s.mbServe code f = s.mbReply code stDenied [] := by
  unfold Dev.mbServe
  rw [if_pos ⟨h1, h2⟩, h3, h4, if_neg (by simp), if_pos h5, if_neg h6]

/-- Nothing is served while no message with this code is in progress. -/
theorem Dev.mbServe_waits {s : Dev} {code : Nat} (h : s.lcs.mbBusy ≠ some code) (f : Dev → Dev) : s.mbServe code f = s := by
  unfold Dev.mbServe
  rw [if_neg (by rintro ⟨-, a⟩; exact h a)]

/-! ## The DBG registers of a core -/

/-- An access of a per-core DBG register whose domains are on, by a requester that is admitted. -/
theorem Dev.dbgGate_admits {s : Dev} {rq : Req} {m : Nat} {only : Bool} (h1 : s.reaches rq 31 = true)
    (h2 : (s.dbgAdmits rq (s.core m).world && only) = true) (h3 : s.domOn (18 + m) = true) (o : Nat) (f : Dev → Dev) :
    s.dbgGate rq m o only f = f s := by
  unfold Dev.dbgGate
  rw [h2, Dev.gate_admits h1, if_pos h3]

/-! ## Register blocks -/

/-- The registers whose read has an effect of its own. -/
def readNames : List RName := [.IC_CLAIM, .IC_QCLAIM, .DBG_DTX, .DBG_DRX, .TMR_CNT]

/-- Every other register is read plainly. -/
theorem Dev.readTake_plain {r : RName} (h : r ∉ readNames) (s : Dev) (rq : Req) (i : Nat) :
    s.readTake rq r i = s.readPlain rq r i := by
  unfold Dev.readTake
  split <;> first | rfl | (exact absurd (by decide) h)

/-- A read of a register block that its rules admit. -/
theorem Dev.blockRead_admits {s : Dev} {rq : Req} {b off size addr i : Nat} {r : RName}
    (h1 : s.reach rq b off size addr = .ok (r, i)) (h2 : (s.regSync r i (r.clears .rc)).mayRead rq r i = true) :
    s.blockRead rq b off size addr =
      ((s.regSync r i (r.clears .rc)).readTake rq r i).regAfter r i (r.clears .rc) := by
  unfold Dev.blockRead
  rw [h1]
  dsimp only
  rw [if_pos h2]

end Sys2Proof.Machine
end

