-- ==== Sys2Proof/Laws/Power.lean ====
section
/-!
SUPPORT. Sys2Proof/Laws/Power.lean: what HOLDUP steps and the end of a shutdown leave in the PWR registers.
-/

namespace Sys2Proof.Machine

/-- A step of HOLDUP stands in HUSTEP. -/
theorem Dev.huStep_step (s : Dev) {n : Nat} (h : n < 8) : (s.huStep n).fg F.PWR_STAT_HUSTEP 0 = n := by
  unfold Dev.huStep
  rw [Dev.fg_congr (Dev.rd_record _ _ _ _ _ _ (by decide)), Dev.fg_fs_self _ _ _ _ (by decide)]
  exact Nat.mod_eq_of_lt h

/-- A write of another field of PWR_STAT leaves the mode. -/
theorem Dev.mode_fs (s : Dev) (f : Fld) (v : Nat) (h : Fld.apart f F.PWR_STAT_MODE) : (s.fs f 0 v).mode = s.mode :=
  Dev.fg_fs_apart s f _ 0 0 v (by decide) h

theorem Dev.rd_pwr (s : Dev) (p : PowerSt) (q : RName) (j : Nat) : ({ s with pwr := p } : Dev).rd q j = s.rd q j := rfl

theorem Dev.rd_toDormant (s : Dev) (q : RName) (j : Nat) : s.toDormant.rd q j = s.dormantRegs.rd q j := by
  unfold Dev.toDormant
  exact Dev.rd_pwr _ _ _ _

/-- DORMANT: mode 0, step 0, every domain off, PD32 in standby. -/
theorem Dev.toDormant_stat (s : Dev) :
    s.toDormant.mode = 0 ∧ s.toDormant.fg F.PWR_STAT_HUSTEP 0 = 0 ∧ s.toDormant.rd .PWR_DSTAT0 0 = 0 ∧
      s.toDormant.fg F.PWR_DSTAT1_ON32 0 = 0 ∧ s.toDormant.fg F.PWR_DSTAT1_STBY32 0 = 1 := by
  unfold Dev.mode
  simp only [Dev.fg_congr (Dev.rd_toDormant s _ _), Dev.rd_toDormant]
  unfold Dev.dormantRegs
  dsimp only
  generalize s.bare true = b
  unfold Dev.setDom32 Dev.monFresh
  refine ⟨?_, ?_, ?_, ?_, ?_⟩
  · rw [Dev.fg_wr_ne _ _ _ _ (by decide), Dev.fg_fs_apart _ _ _ _ _ _ (by decide) (by decide),
      Dev.fg_fs_apart _ _ _ _ _ _ (by decide) (by decide), Dev.fg_fs_apart _ _ _ _ _ _ (by decide) (by decide),
      Dev.fg_fs_apart _ _ _ _ _ _ (by decide) (by decide), Dev.fg_wr_ne _ _ _ _ (by decide),
      Dev.fg_fs_apart _ _ _ _ _ _ (by decide) (by decide), Dev.fg_fs_apart _ _ _ _ _ _ (by decide) (by decide),
      Dev.fg_fs_self _ _ _ _ (by decide)]
    decide
  · rw [Dev.fg_wr_ne _ _ _ _ (by decide), Dev.fg_fs_apart _ _ _ _ _ _ (by decide) (by decide),
      Dev.fg_fs_apart _ _ _ _ _ _ (by decide) (by decide), Dev.fg_fs_apart _ _ _ _ _ _ (by decide) (by decide),
      Dev.fg_fs_apart _ _ _ _ _ _ (by decide) (by decide), Dev.fg_wr_ne _ _ _ _ (by decide),
      Dev.fg_fs_self _ _ _ _ (by decide)]
    decide
  · rw [Dev.rd_wr_ne _ _ _ _ (by decide), Dev.rd_fs_ne _ _ _ _ (by decide), Dev.rd_fs_ne _ _ _ _ (by decide),
      Dev.rd_fs_ne _ _ _ _ (by decide), Dev.rd_fs_ne _ _ _ _ (by decide), Dev.rd_wr_self]
  · rw [Dev.fg_wr_ne _ _ _ _ (by decide), Dev.fg_fs_apart _ _ _ _ _ _ (by decide) (by decide),
      Dev.fg_fs_self _ _ _ _ (by decide)]
    decide
  · rw [Dev.fg_wr_ne _ _ _ _ (by decide), Dev.fg_fs_self _ _ _ _ (by decide)]
    decide

/-! ## The sequencer's service (R28, R29) -/

/-- An empty queue leaves nothing to serve. -/
theorem Dev.seqServe_idle (s : Dev) (n : Nat) (h : s.pwr.seqQ = []) : s.seqServe n = s.seqSync := by
  cases n with
  | zero => rfl
  | succ n => rw [Dev.seqServe]; cases h2 : s.pwr.act <;> simp [h]

/-- A switch or drain in progress is waited for. -/
theorem Dev.seqServe_busy (s : Dev) (n : Nat) (x) (h : s.pwr.act = some x) : s.seqServe n = s.seqSync := by
  cases n with
  | zero => rfl
  | succ n => rw [Dev.seqServe]; simp [h]

theorem Dev.eq_of_queue (s : Dev) (h : s.pwr.seqQ = []) : ({ s with pwr := { s.pwr with seqQ := [] } } : Dev) = s := by
  rcases s with ⟨a1,a2,a3,a4,a5,a6,a7,a8⟩
  rcases a7 with ⟨b1, b2, b3⟩
  simp_all

/-- The first request is served: it needs nothing, or is refused, or starts. -/
theorem Dev.seqServe_cons (X s : Dev) (n : Nat) (x : Bool × Nat) (q) (ha : X.pwr.act = none) (hq : X.pwr.seqQ = x :: q)
   (hs : ({ X with pwr := { X.pwr with seqQ := q } } : Dev) = s) :
    X.seqServe (n + 1) = if s.domOn x.2 = x.1 then s.seqServe n
      else if s.seqRefuses x.1 x.2 then s.seqErr.seqServe n
      else (Dev.cond { s with pwr := { s.pwr with act := some x } } (!x.1) (fun s => s.drainStart x.2)).seqSync := by
  subst hs
  rw [Dev.seqServe]
  split
  · rename_i h1 h2
    rw [hq] at h2
    cases h2
    rfl
  · rename_i h
    exact absurd hq (h _ _ ha)

/-- A single request for what is not so yet is refused or starts. -/
theorem Dev.seqServe_one (s : Dev) (n : Nat) (b : Bool) (d : Nat) (ha : s.pwr.act = none) (hq : s.pwr.seqQ = []) (h : s.domOn d ≠ b) :
    ({ s with pwr := { s.pwr with seqQ := [(b, d)] } } : Dev).seqServe (n + 1) =
     if s.seqRefuses b d = true then s.seqErr.seqSync else (Dev.cond { s with pwr := { s.pwr with act := some (b, d) } } (!b) (fun s => s.drainStart d)).seqSync := by
  refine (Dev.seqServe_cons { s with pwr := { s.pwr with seqQ := [(b, d)] } } s n (b, d) [] ha rfl (Dev.eq_of_queue s hq)).trans ?_
  simp only [if_neg h]
  by_cases hr : s.seqRefuses b d = true
  · simp only [hr, if_true]
    apply Dev.seqServe_idle
    have hk : s.seqErr.pwr = s.pwr :=
      Dev.edge_keeps (fun s => s.pwr) (fun _ _ _ _ => rfl) s 8 (fun s => s.fs F.PWR_EVT_SEQERR 0 1) rfl
    rw [hk, hq]
  · simp only [hr]; rfl

/-- A mode change that is due at tick n takes place there (R37). -/
theorem Dev.pendMode_due {s : Dev} {m t n : Nat} (h : s.pwr.pend = some (m, t)) (h3 : t ≤ n) :
    s.pendMode n = s.switchMode m n := by
  unfold Dev.pendMode
  rw [h]
  exact if_pos h3

end Sys2Proof.Machine
end

