-- ==== Sys2Proof/Laws/Rest.lean ====
section
/-!
SUPPORT. Sys2Proof/Laws/Rest.lean: a processor at rest: no trigger of it stalls, and what the checks of its loads, stores,
transfers, control transfers and system operations answer.
-/

namespace Sys2Proof.Machine

open Sys2Proof.Safety

/-! ## The present of a processor at rest -/

theorem Dev.calm_coreClock (s : Dev) (m : Nat) : (s.coreClock m).calm m = s.calm m := by
  unfold Dev.coreClock
  dsimp only
  refine (Dev.calm_cores m ((Dev.cores_moveClk _ _).trans (Dev.cores_cond _ _ _ (fun s => Dev.cores_cPmu s _ _ _)))).trans ?_
  refine (Dev.calm_cores m (Dev.cores_cPmu _ _ _ _)).trans ?_
  unfold Dev.calm
  rw [Dev.core_onCore_self]

/-- A field that the clock leaves alone. -/
theorem Dev.coreClock_keeps {α : Type} (p : ACore → α) (hp : ∀ c : ACore, p { c with cyc := 0, nextAt := 0 } = p c) (s : Dev)
    (m : Nat) : p ((s.coreClock m).core m) = p (s.core m) := by
  have h := congrArg p (Dev.calm_coreClock s m)
  unfold Dev.calm at h
  rw [hp, hp] at h
  exact h

theorem atRest_sync {s d : Dev} {m : Nat} (h : AtRest s d m) : s.coreSync m = s.coreClock m := by
  have a : ((s.coreClock m).core m).multi = none := (Dev.coreClock_keeps ACore.multi (fun _ => rfl) s m).trans h.multi
  have b : ((s.coreClock m).core m).fly = [] := (Dev.coreClock_keeps ACore.fly (fun _ => rfl) s m).trans h.fly
  have c : (s.coreClock m).multiStep m false 16 = s.coreClock m := by
    rw [show (16 : Nat) = 15 + 1 from rfl]
    unfold Dev.multiStep
    rw [a]
  unfold Dev.coreSync
  dsimp only
  rw [c, b]
  rfl

theorem atRest_fence {s d : Dev} {m : Nat} (h : AtRest s d m) : ((s.coreClock m).core m).fenceWait = none := by
  have a : ((s.coreClock m).core m).multi = none := (Dev.coreClock_keeps ACore.multi (fun _ => rfl) s m).trans h.multi
  have b : ((s.coreClock m).core m).fly = [] := (Dev.coreClock_keeps ACore.fly (fun _ => rfl) s m).trans h.fly
  have c : ((s.coreClock m).core m).sb = [] := (Dev.coreClock_keeps ACore.sb (fun _ => rfl) s m).trans h.sb
  have d : ((s.coreClock m).core m).cb = [] := (Dev.coreClock_keeps ACore.cb (fun _ => rfl) s m).trans h.cb
  have e : ((s.coreClock m).core m).flush = false := (Dev.coreClock_keeps ACore.flush (fun _ => rfl) s m).trans h.flush
  unfold ACore.fenceWait ACore.loading ACore.slotsLeft
  rw [a, b, c, d, e]
  simp

/-- A field that neither the clock nor a barrier that is over changes. -/
theorem atRest_keeps {α : Type} {s d : Dev} {m : Nat} (h : AtRest s d m) (p : ACore → α)
    (hp : ∀ c : ACore, p { c with cyc := 0, nextAt := 0 } = p c)
    (hq : ∀ (c : ACore) (b : Bool), p { c with loadFence := false, storeFence := false, flush := b } = p c) :
    p (d.core m) = p (s.core m) := by
  rw [h.now]
  unfold Dev.passFence
  rw [Dev.core_onCore_self, hq]
  exact Dev.coreClock_keeps p hp s m

theorem atRest_fly {s d : Dev} {m : Nat} (h : AtRest s d m) : (d.core m).fly = [] :=
  (atRest_keeps h ACore.fly (fun _ => rfl) (fun _ _ => rfl)).trans h.fly

theorem atRest_multi {s d : Dev} {m : Nat} (h : AtRest s d m) : (d.core m).multi = none :=
  (atRest_keeps h ACore.multi (fun _ => rfl) (fun _ _ => rfl)).trans h.multi

theorem atRest_sb {s d : Dev} {m : Nat} (h : AtRest s d m) : (d.core m).sb = [] :=
  (atRest_keeps h ACore.sb (fun _ => rfl) (fun _ _ => rfl)).trans h.sb

theorem atRest_cb {s d : Dev} {m : Nat} (h : AtRest s d m) : (d.core m).cb = [] :=
  (atRest_keeps h ACore.cb (fun _ => rfl) (fun _ _ => rfl)).trans h.cb

theorem atRest_xfer {s d : Dev} {m : Nat} (h : AtRest s d m) : (d.core m).xfer = none :=
  (atRest_keeps h ACore.xfer (fun _ => rfl) (fun _ _ => rfl)).trans h.xfer

theorem atRest_prog {s d : Dev} {m : Nat} (h : AtRest s d m) : (d.core m).progPc = none :=
  (atRest_keeps h ACore.progPc (fun _ => rfl) (fun _ _ => rfl)).trans h.prog

theorem atRest_flying {s d : Dev} {m : Nat} (h : AtRest s d m) : (d.core m).flying = false := by
  unfold ACore.flying ACore.slotsLeft
  rw [atRest_fly h, atRest_multi h]
  rfl

theorem popCount_le : ∀ n v : Nat, popCount n v ≤ n := by
  intro n v
  unfold popCount
  exact Nat.le_trans (List.length_filter_le _ _) (by simp)

/-- No trigger of the LSU, of control transfers or of the system-register unit stalls at rest. -/
theorem atRest_stall {s d : Dev} {m : Nat} (h : AtRest s d m) (code t : Nat) : d.trigStall m code t = none := by
  have fl := atRest_fly h
  have mu := atRest_multi h
  have un : ∀ u, ¬ (d.core m).cyc < d.aFree m u := fun u => Nat.not_lt.mpr (h.units u)
  have lo : (d.core m).loading = false := by unfold ACore.loading ACore.slotsLeft; rw [fl, mu]; rfl
  have pe : ∀ k, d.regPends m k = false := by
    intro k
    unfold Dev.regPends ACore.slotsLeft
    dsimp only
    rw [fl, mu]
    simp
  have ne : sbNeeds code t (d.mergeNow m) ≤ 24 := by
    unfold sbNeeds
    have := popCount_le 16 t
    split <;> try split <;> try split
    all_goals omega
  have mw : d.mergeWait m = false := by unfold Dev.mergeWait; dsimp only; rw [atRest_sb h, atRest_cb h]; simp
  have ls : d.lsuStall m code t = none := by
    unfold Dev.lsuStall
    dsimp only
    rw [if_neg (un 4), atRest_sb h, atRest_cb h, lo, mw]
    simp only [List.length_nil, Nat.zero_add, if_neg (Nat.not_lt.mpr ne), Bool.and_false, Bool.false_eq_true, if_false]
    have : (onesBelow 16 t).any (fun r => d.regPends m (16 * bits t 16 16 + r)) = false := by simp [pe]
    rw [this]
    simp
  have ss : d.sruStall m code t = none := by
    unfold Dev.sruStall
    dsimp only
    rw [fl, atRest_flying h, atRest_sb h]
    simp
  unfold Dev.trigStall
  split
  · rfl
  · split
    · exact ls
    · split
      · exact ss
      · rw [if_neg (un _)]

theorem atRest_pc {s d : Dev} {m : Nat} (h : AtRest s d m) (code : Nat) : d.trigPc m code = prevPc d m := by
  unfold Dev.trigPc ACore.resumes
  rw [atRest_prog h]
  simp [prevPc]

theorem Dev.pc_lt (s : Dev) (m : Nat) : s.pc m < 2 ^ 64 := BitVec.isLt _

theorem prevPc_next (d : Dev) (m : Nat) : (prevPc d m + 16) % 2 ^ 64 = d.pc m := by
  have := Dev.pc_lt d m
  unfold prevPc
  omega

/-! ## Places -/

theorem mapped_noMiss {d : Dev} {m va : Nat} {a : AccKind} {p : Phys} (h : Mapped d m va a p) : Mapped (d.noMiss m) m va a p := by
  have sr : ∀ n, (d.noMiss m).sr m n = d.sr m n := by
    intro n; unfold Dev.noMiss Dev.sr; rw [Dev.core_onCore_self]
  have hit : ((d.noMiss m).core m).tlbHit1 = (d.core m).tlbHit1 := by
    funext v i k
    unfold Dev.noMiss ACore.tlbHit1
    rw [Dev.core_onCore_self]
  unfold Mapped Dev.stTE Dev.lvl Dev.srf at *
  rw [hit]
  simpa only [sr] using h

/-- A mapped address translates, and nothing changes. -/
theorem translate_mapped {d : Dev} {m va : Nat} {a : AccKind} {p : Phys} (h : Mapped d m va a p) :
    d.translate m va (d.lvl m) a = (d, .ok p) := by
  unfold Dev.translate
  rcases h with ⟨te, lv, lt, rfl⟩ | ⟨te, ca, t, ht, pe, rfl⟩
  · have l2 : ¬ 2 ^ 40 ≤ va := by unfold dramSize at lt; omega
    have i : inDram va = true := by unfold inDram; simp [lt]
    rw [te]
    simp only [Bool.false_eq_true, if_false, if_neg lv, if_neg l2, i, if_true]
  · rw [te]
    simp only [if_true, ca, Bool.not_true, Bool.false_eq_true, if_false, ht]
    unfold TlbEntry.answer
    rw [pe]
    rfl

theorem mapped_inDram {d : Dev} {m va : Nat} {a : AccKind} {p : Phys} (h : Mapped d m va a p) (n : p.mt = 0) : inDram p.pa = true := by
  rcases h with ⟨te, lv, lt, rfl⟩ | ⟨te, ca, t, ht, pe, rfl⟩
  · unfold Machine.inDram; simp [lt]
  · cases hi : Machine.inDram (t.phys (va % 2 ^ 48)).pa with
    | true => rfl
    | false =>
      exfalso
      revert n hi
      unfold TlbEntry.phys typeAt
      dsimp only
      intro n hi
      rw [hi] at n
      simp only [Bool.not_false, Bool.and_true, decide_eq_true_eq] at n
      split at n
      · cases n
      · rename_i h
        exact h n

theorem pmuRefused_dram (d : Dev) (m pa : Nat) (a : AccKind) (h : inDram pa = true) : d.pmuRefused m pa a = false := by
  have l : pa < dramSize := by simpa [inDram] using h
  have b : ¬ devAddr 28 0 ≤ pa := by
    have : dramSize ≤ devAddr 28 0 := by decide
    omega
  unfold Dev.pmuRefused
  dsimp only
  simp [b]

/-- The place of an access within a line of normal memory. -/
theorem placeOf_inLine {d : Dev} {m va n : Nat} {a : AccKind} {p : Phys} (h : InLine d m va n a p) (hv : va < 2 ^ 64) (slot : Nat)
    (strict : Bool) (al : strict = true → va % n = 0) : d.placeOf m slot va n a strict = (d, .ok ⟨bytesAt p.pa n, 0⟩) := by
  have v : va % 2 ^ 64 = va := Nat.mod_eq_of_lt hv
  have k : min n (64 - va % 64) = n := Nat.min_eq_left (by have := h.fits; omega)
  have st : (strict && decide (va % n ≠ 0)) = false := by
    cases strict with
    | false => rfl
    | true => simp [al rfl]
  have f0 : foundType (.ok p) = some 0 := by show some p.mt = some 0; rw [h.normal]
  unfold Dev.placeOf
  dsimp only
  rw [v, st, k]
  simp only [Bool.false_eq_true, if_false, Nat.lt_irrefl, decide_false]
  rw [translate_mapped h.mapped]
  have pr := pmuRefused_dram d m p.pa a (mapped_inDram h.mapped h.normal)
  unfold halfFaults
  have e : decide (some 0 = some 2) = false := by decide
  simp only [f0, pr, e, Bool.or_self, Bool.false_and, Bool.and_false, Bool.false_eq_true, if_false, List.append_nil, Exc.first, h.normal,
    Dev.cond_false, Nat.max_self, bytesAt]

theorem bytesAt_lines {pa n : Nat} (h : pa % 64 + n ≤ 64) (h0 : 0 < n) : (Place.mk (bytesAt pa n) 0).lines = [pa / 64] := by
  have e : (bytesAt pa n).map (fun a => a / 64) = List.replicate n (pa / 64) := by
    rw [List.eq_replicate_iff]
    constructor
    · simp [bytesAt]
    · intro b hb
      simp only [bytesAt, List.map_map, List.mem_map, List.mem_range, Function.comp] at hb
      obtain ⟨i, hi, rfl⟩ := hb
      omega
  unfold Place.lines
  rw [e]
  obtain ⟨k, rfl⟩ : ∃ k, n = k + 1 := ⟨n - 1, by omega⟩
  rw [List.replicate_succ, List.eraseDups_cons]
  have : (List.replicate k (pa / 64)).filter (fun b => !b == pa / 64) = [] := by
    rw [List.filter_eq_nil_iff]
    intro b hb
    rw [List.eq_of_mem_replicate hb]
    simp
  rw [this]
  rfl

/-! ## Lines -/

theorem mem_ite {c : Prop} [Decidable c] {a b s : Dev} (ha : a.mem = s.mem) (hb : b.mem = s.mem) : (if c then a else b).mem = s.mem := by
  split
  · exact ha
  · exact hb

theorem mem_wr64 (s : Dev) (lo hi : RName) (i v : Nat) : (s.wr64 lo hi i v).mem = s.mem := rfl

theorem mem_setEvtBit (s : Dev) (n : Nat) (f : Fld) (i b : Nat) : (s.setEvtBit n f i b).mem = s.mem :=
  Dev.edge_keeps (fun s => s.mem) Dev.mem_wr s n _ rfl

theorem mem_cond (s : Dev) (b : Bool) (f : Dev → Dev) (h : ∀ s, (f s).mem = s.mem) : (s.cond b f).mem = s.mem :=
  Dev.cond_keeps (fun s => s.mem) h b s

theorem mem_cPmuStep (s : Dev) (m k n : Nat) : (s.cPmuStep m k n).mem = s.mem := by
  unfold Dev.cPmuStep
  exact mem_ite ((mem_cond _ _ _ (fun s => Dev.mem_fs s _ _ _)).trans ((mem_setEvtBit _ _ _ _ _).trans (mem_wr64 _ _ _ _ _)))
    (mem_wr64 _ _ _ _ _)

theorem mem_cPmu (s : Dev) (m ev n : Nat) : (s.cPmu m ev n).mem = s.mem := by
  have f : ∀ (t : Dev) (k : Nat), (if t.cPmuHas m ev k then t.cPmuStep m k n else t).mem = t.mem := by
    intro t k
    split
    · exact mem_cPmuStep t m k n
    · rfl
  unfold Dev.cPmu
  split
  · exact Dev.each_keeps (fun s => s.mem) f _ s
  · rfl

theorem l2Hit_mem {s t : Dev} (h : t.mem = s.mem) (m w l : Nat) (excl : Bool) : t.l2Hit m w l excl = s.l2Hit m w l excl := by
  unfold Dev.l2Hit Dev.l2line
  rw [h]

/-- A line that the L2 holds is brought without an error response. -/
theorem bringLine_hit {x : Dev} {m l : Nat} {excl : Bool} (hm : m < 8) (h : x.l2Hit m (x.coreWorld m) l excl = true) :
    (x.bringLine m l excl).2 = true := by
  have win : ∀ y : Dev, y.mem = x.mem → (y.winLine m (x.coreWorld m) l excl).2 = true := by
    intro y hy
    unfold Dev.winLine Dev.l2Get
    rw [(l2Hit_mem hy _ _ _ _).trans h]
    rfl
  have e : ((x.cond (decide (1 ≤ x.loadReach m (x.coreWorld m) l)) (fun s => s.cPmu m 0x0F 1)).cond
      (decide (2 ≤ x.loadReach m (x.coreWorld m) l)) (fun s => s.cPmu m 0x10 1)).mem = x.mem :=
    (Dev.cond_keeps (fun s => s.mem) (fun s => mem_cPmu s _ _ _) _ _).trans (Dev.cond_keeps (fun s => s.mem) (fun s => mem_cPmu s _ _ _) _ _)
  unfold Dev.bringLine
  dsimp only
  rw [if_neg (by omega)]
  exact win _ e

theorem bringLines_hit {x : Dev} {m l : Nat} {excl : Bool} (hm : m < 8) (h : x.l2Hit m (x.coreWorld m) l excl = true) :
    x.bringLines m [l] excl = ((x.bringLine m l excl).1, none) := by
  have b := bringLine_hit hm h
  unfold Dev.bringLines
  simp only [List.length_singleton, List.range_one, List.zip_cons_cons, List.zip_nil_left, List.foldl_cons, List.foldl_nil, b, if_true]

/-- A line that is ready for an access at its place makes it wait for nothing. -/
theorem lineReady_bring {d : Dev} {m l : Nat} {excl : Bool} (h : LineReady d m l excl) :
    ((d.noMiss m).l2Hit m ((d.noMiss m).coreWorld m) l excl) = true := by
  have w : (d.noMiss m).coreWorld m = d.coreWorld m := by
    unfold Dev.noMiss Dev.coreWorld; rw [Dev.core_onCore_self]
  rw [w]
  exact h.hit

/-! ## Checks of the load-store unit -/

theorem cb_evict {x : Dev} {m l : Nat} (h : (x.core m).cb = []) : x.evictCb m l = x := by
  unfold Dev.evictCb; rw [h]; rfl

theorem cond_same {s : Dev} {b : Bool} {f : Dev → Dev} (h : f s = s) : s.cond b f = s := by cases b <;> simp [h]

theorem watch_none {d : Dev} {m pc : Nat} (h : Unwatched d m pc) (a : WatchAcc) : d.watch m pc 0 a = none := h a

/-- The check of a load within a line that the L2 holds. -/
theorem loadCheck_inLine {x e : Dev} {m pc op va n : Nat} {p : Phys} {strict : Bool} (h : InLine x m va n .load p) (hv : va < 2 ^ 64)
    (hn : 0 < n) (al : strict = true → va % n = 0) (hm : m < 8)
    (hl : x.l2Hit m (x.coreWorld m) (p.pa / 64) (decide (op = 0xAF)) = true) (cb : (x.core m).cb = [])
    (he : e = (x.bringLine m (p.pa / 64) (decide (op = 0xAF))).1) (hw : Unwatched e m pc) :
    x.loadCheck m pc 0 op va n strict = (e, .ok (linePlan x m p.pa n)) := by
  have fit : p.pa % 64 + n ≤ 64 := by rw [h.same]; exact h.fits
  have ln := bytesAt_lines fit hn
  unfold Dev.loadCheck
  rw [placeOf_inLine h hv 0 strict al]
  dsimp only
  simp only [ln, nth, if_true]
  rw [cond_same (cb_evict cb), bringLines_hit hm hl, ← he]
  dsimp only
  rw [watch_none hw]
  simp [linePlan]

/-- The check of a store within a line. -/
theorem storeCheck_inLine {x : Dev} {m pc va n v : Nat} {p : Phys} {strict : Bool} (h : InLine x m va n .store p) (hv : va < 2 ^ 64)
    (al : strict = true → va % n = 0) (hw : Unwatched x m pc) :
    x.storeCheck m pc 0 va n v strict = (x, .ok ⟨bytesAt p.pa n, 0⟩) := by
  unfold Dev.storeCheck
  rw [placeOf_inLine h hv 0 strict al]
  dsimp only
  rw [watch_none hw]

/-- The check of an STX, with its reservation held or lost. -/
theorem stxCheck_inLine {x e : Dev} {m pc va v : Nat} {p : Phys} (h : InLine x m va 8 .store p) (hv : va < 2 ^ 64) (al : va % 8 = 0)
    (cb : (x.core m).cb = [])
    (he : ((x.core m).resv ≠ some (p.pa / 64) ∧ e = x) ∨
      ((x.core m).resv = some (p.pa / 64) ∧ m < 8 ∧ x.l2Hit m (x.coreWorld m) (p.pa / 64) true = true ∧
        e = (x.bringLine m (p.pa / 64) true).1)) (hw : Unwatched e m pc) :
    x.stxCheck m pc 0 va v = (e, .ok ⟨bytesAt p.pa 8, 0⟩) := by
  have fit : p.pa % 64 + 8 ≤ 64 := by rw [h.same]; exact h.fits
  have ln := bytesAt_lines fit (by omega : 0 < 8)
  unfold Dev.stxCheck Dev.place8
  rw [placeOf_inLine h hv 0 true (fun _ => al)]
  dsimp only
  simp only [ln, nth]
  rw [cb_evict cb]
  rcases he with ⟨r, rfl⟩ | ⟨r, hm, hl, he⟩
  · rw [show ([p.pa / 64][0]?.getD 0) = p.pa / 64 from rfl, if_neg r]
    simp only [Bool.not_true, Bool.false_eq_true, if_false, watch_none hw]
  · rw [show ([p.pa / 64][0]?.getD 0) = p.pa / 64 from rfl, if_pos r, bringLines_hit hm hl, ← he]
    simp only [if_true, Option.isNone_none, Bool.not_true, Bool.false_eq_true, if_false, watch_none hw]

/-- The check of an atomic on a line that the L2 holds to be changed. -/
theorem atomicCheck_inLine {x e : Dev} {m pc op va o2 o3 : Nat} {p : Phys} (h : InLine x m va 8 .atomic p) (hv : va < 2 ^ 64)
    (al : va % 8 = 0) (hm : m < 8) (hl : x.l2Hit m (x.coreWorld m) (p.pa / 64) true = true)
    (he : e = (x.bringLine m (p.pa / 64) true).1) (hw : Unwatched e m pc) :
    x.atomicCheck m pc 0 op va o2 o3 =
      (e, .ok ⟨⟨bytesAt p.pa 8, 0⟩, some (leNat ((bytesAt p.pa 8).map (fun a => e.loadByte m a))), 0⟩) := by
  have fit : p.pa % 64 + 8 ≤ 64 := by rw [h.same]; exact h.fits
  have ln := bytesAt_lines fit (by omega : 0 < 8)
  unfold Dev.atomicCheck Dev.place8
  rw [placeOf_inLine h hv 0 true (fun _ => al)]
  dsimp only
  simp only [ln, if_true]
  rw [bringLines_hit hm hl, ← he]
  dsimp only
  rw [watch_none hw]

/-- The check of a maintenance operation. -/
theorem maintCheck_mapped {x : Dev} {m code va : Nat} {p : Phys} (h : Mapped x m va (x.maintKind m code) p) (hv : va < 2 ^ 64) :
    x.maintCheck m 0 code va = (x, .ok ⟨[p.pa], p.mt⟩) := by
  unfold Dev.maintCheck
  dsimp only
  rw [Nat.mod_eq_of_lt hv, translate_mapped h]

/-- What an access waits for, with its line ready. -/
theorem lsuWaits_ready {d : Dev} {m code o1 t : Nat} {p : Phys}
    (h : InLine d m ((o1 + t) % 2 ^ 64) (lsuSize code) (lsuKind code) p)
    (al : lsuStrict code = true → (o1 + t) % 2 ^ 64 % lsuSize code = 0) (hn : 0 < lsuSize code)
    (hl : d.lineWaits m (d.coreWorld m) (p.pa / 64) (decide (0xAF ≤ code)) = false) : d.lsuWaits m 0 code o1 t = false := by
  have fit : p.pa % 64 + lsuSize code ≤ 64 := by rw [h.same]; exact h.fits
  have ln := bytesAt_lines fit hn
  unfold Dev.lsuWaits
  rw [placeOf_inLine h (Nat.mod_lt _ (by decide)) 0 _ al]
  dsimp only
  rw [ln]
  simp [hl]

/-! ## Triggers by themselves -/

/-- An LSU trigger at rest that its check lets through. -/
theorem trigOp_rest_lsu {s d e f : Dev} {m code : Nat} {t : DWord} {p : LsuPlan} (h : AtRest s d m) (hc : 0xA3 ≤ code ∧ code ≤ 0xC3)
    (hw : d.lsuWaits m 0 code (d.lat m 0xA0) t.toNat = false)
    (h6 : (d.noMiss m).lsuCheck m (prevPc d m) 0 code (d.lat m 0xA0) (d.lat m 0xA1) (d.lat m 0xA2) t.toNat = (e, .ok p))
    (h7 : ((e.cond (storesCode code) (fun s => s.prefetchAt m 1 (oldCode (d.pc m)))).notAlone m).lsuGo m (prevPc d m) 0 code
      (d.lat m 0xA0) (d.lat m 0xA1) (d.lat m 0xA2) t.toNat p = (f, none)) :
    s.trigOp m code t = (f.setPc m (d.pc m)).noProg m := by
  have n := prevPc_next d m
  have r := Dev.trigOp_lsu h.live h.ahead (atRest_sync h).symm (atRest_fence h) h.now (atRest_stall h code t.toNat) hc hw
    (by rw [atRest_pc h]; exact h6) (by rw [atRest_pc h, n]; exact h7)
  rw [r, atRest_pc h, n]

/-- A control transfer at rest whose check finds no fault. -/
theorem trigOp_rest_ctl {s d : Dev} {m code : Nat} {t : DWord} (h : AtRest s d m) (hc : aTrigUnit code = some 5)
    (h5 : d.ctlCheck m 0 code t.toNat = (d, [])) :
    s.trigOp m code t = ((d.passBy m).ctlGo m (prevPc d m) code t.toNat).settleFrames m := by
  have x := atRest_xfer h
  have r := Dev.trigOp_runs (t := t) (code := code) h.live h.ahead (atRest_sync h).symm (atRest_fence h) h.now
    (atRest_stall h code t.toNat) (by rw [x]; exact (Dev.plainFaults_ctl d m _ _ hc).trans h5) (fun _ => x) (by rw [hc]; decide)
  rw [r, atRest_pc h]
  unfold Dev.aTrig
  rw [hc]
  rfl

/-- A trigger of the system-register unit at rest, FLUSHW apart, whose check finds no fault. -/
theorem trigOp_rest_sru {s d : Dev} {m code : Nat} {t : DWord} (h : AtRest s d m) (hc : aTrigUnit code = some 6) (hn : code ≠ 0xE5)
    (hk : profileA.control code = false) (h5 : d.sruCheck m 0 code t.toNat = []) :
    s.trigOp m code t = ((d.passBy m).sruGo m code t.toNat).settleFrames m := by
  have r := Dev.trigOp_runs (t := t) (code := code) h.live h.ahead (atRest_sync h).symm (atRest_fence h) h.now
    (atRest_stall h code t.toNat) ((Dev.plainFaults_sru d m _ _ _ hc hn).trans (by rw [h5]))
    (fun g => absurd g (by rw [hk]; decide)) (by rw [hc]; decide)
  rw [r, atRest_pc h]
  unfold Dev.aTrig
  rw [hc]
  rfl

/-- A FLUSHW at rest whose spills' check finds no fault. -/
theorem trigOp_rest_flushw {s d e : Dev} {m : Nat} {t : DWord} (h : AtRest s d m) (h5 : d.flushCheck m 0 = (e, none)) :
    s.trigOp m 0xE5 t = ((e.passBy m).sruGo m 0xE5 t.toNat).settleFrames m := by
  have r := Dev.trigOp_runs (t := t) (code := 0xE5) h.live h.ahead (atRest_sync h).symm (atRest_fence h) h.now
    (atRest_stall h 0xE5 t.toNat) (Dev.plainFaults_flushw d e m _ _ h5) (fun g => absurd g (by decide)) (by decide)
  rw [r, atRest_pc h]
  rfl

/-! ## One slot of a multi-register transfer -/

theorem onesBelow_pow {r : Nat} (h : r < 16) : onesBelow 16 (2 ^ r) = [r] := by
  have : ∀ r : Fin 16, onesBelow 16 (2 ^ r.val) = [r.val] := by decide
  exact this ⟨r, h⟩

theorem popCount_pow {r : Nat} (h : r < 16) : popCount 16 (2 ^ r) = 1 := by
  have : ∀ r : Fin 16, popCount 16 (2 ^ r.val) = 1 := by decide
  exact this ⟨r, h⟩

/-- The check of a transfer's start within a line. -/
theorem multiCheck_inLine {x : Dev} {m : Nat} {y : MultiXfer} {p : Phys} (h : InLine x m y.addr 8 (if y.stm then .store else .load) p)
    (hv : y.addr < 2 ^ 64) (al : y.addr % 8 = 0) (b : Bool) : x.multiCheck m 0 y b = (x, none) := by
  unfold Dev.multiCheck Dev.place8
  rw [placeOf_inLine h hv 0 true (fun _ => al)]

/-- A transfer of one register whose slot's check finds no fault starts, and so does its slot. -/
theorem multiGo_one {x e g : Dev} {m pc r addr bank : Nat} {stm : Bool} {y : MultiSlot} (hr : r < 16)
    (h : x.slotCheck m pc 0 (16 * bank + r) ⟨addr, 2 ^ r, bank, stm⟩ = (e, .ok y))
    (hg : g = e.onCore m (fun c => { c with
      multi := some { pc := pc, xfer := c.xfer, stm := stm, bank := bank, start := c.cyc, slots := [y] } })) :
    x.multiGo m pc 0 ⟨addr, 2 ^ r, bank, stm⟩ false = ((g.multiStep m false 16).aBusy m 4 (1 + g.tlbCost m), none) := by
  unfold Dev.multiGo
  dsimp only
  rw [onesBelow_pow hr, popCount_pow hr]
  unfold Dev.multiSlots
  rw [h]
  simp only [Dev.multiSlots, Dev.cond_false, Nat.max_self]
  subst hg
  rfl

end Sys2Proof.Machine
end

