-- ==== Sys2Proof/Laws/Units.lean ====
section
/-!
SUPPORT. Sys2Proof/Laws/Units.lean: when an operation of an engine's unit starts, and the register writes that the SVP
makes in an engine's window.
-/

namespace Sys2Proof.Machine

/-- A unit that is free starts the running context's operation. -/
theorem Dev.unitOp_runs {s : Dev} {e u c : Nat} (h1 : (s.eng e).cur = some c) (h2 : s.running e = true)
    (h3 : (s.eng e).freeAt u ≤ s.clk) (f : Dev → Nat → Dev) : s.unitOp e u f = f s c := by
  simp [Dev.unitOp, h1, h2, h3]

/-- A transfer starts when none is pending. -/
theorem Dev.ctlOp_runs {s : Dev} {e c : Nat} (h1 : (s.eng e).cur = some c) (h2 : s.running e = true)
    (h3 : (s.eng e).freeAt 12 ≤ s.clk) (h4 : (s.ectx e c).xfer = none) (f : Dev → Nat → Dev) : s.ctlOp e f = f s c := by
  simp [Dev.ctlOp, Dev.unitOp_runs h1 h2 h3, h4]

/-- A memory port starts an access that does not fault. -/
theorem Dev.portOp_runs {s : Dev} {e u c : Nat} {bad : Dev → Nat → Option (Nat × Nat)} (h1 : (s.eng e).cur = some c)
    (h2 : s.running e = true) (h3 : (s.eng e).freeAt u ≤ s.clk) (h4 : bad s c = none) (f : Dev → Nat → Dev) :
    s.portOp e u bad f = f s c := by
  simp [Dev.portOp, Dev.unitOp_runs h1 h2 h3, h4]

/-- A memory port faults. -/
theorem Dev.portOp_faults {s : Dev} {e u c cause info : Nat} {bad : Dev → Nat → Option (Nat × Nat)}
    (h1 : (s.eng e).cur = some c) (h2 : s.running e = true) (h3 : (s.eng e).freeAt u ≤ s.clk)
    (h4 : bad s c = some (cause, info)) (f : Dev → Nat → Dev) : s.portOp e u bad f = s.opFault e c cause info := by
  simp [Dev.portOp, Dev.unitOp_runs h1 h2 h3, h4]

/-- An access inside its memory does not fault. -/
theorem rangeFault_inside {a size limit : Nat} (h : a + words size ≤ limit) (cause : Nat) :
    rangeFault cause a size limit = none := by
  unfold rangeFault
  rw [if_neg (by omega)]

/-- An access beyond its memory faults. -/
theorem rangeFault_beyond {a size limit : Nat} (h : limit < a + words size) (cause : Nat) :
    rangeFault cause a size limit = some (cause, a) := if_pos h

/-- The SVP's write in the window of an engine whose hive is on acts. -/
theorem Dev.engWriteGate_admits {s : Dev} {rq : Req} {e : Nat} (h1 : s.domOn (9 + e / 8) = true) (h2 : rq.svp = true)
    (off : Nat) (f : Dev → Dev) : s.engWriteGate rq e off f = f s := by
  have h3 : rq.debug = false := by
    unfold Req.svp at h2
    unfold Req.debug
    have := of_decide_eq_true h2
    exact decide_eq_false (by omega)
  simp [Dev.engWriteGate, h1, h2, h3]

/-- With no switch due, an issue is what the running context does with the bundle at its PC (R176). -/
theorem Dev.issue_runs {s d : Dev} {e c : Nat} (h1 : d = ((s.moveClk (s.eng e).lastIssue).commitDue e).ePmuClocks e)
    (h2 : ∀ f, (d.eng e).windowAt = some f → d.clk < f) (h3 : (d.eng e).cur = some c) :
    s.issue e = ((d.issueCtx e c).1.ePmuClock e ((d.eng e).incoming.getD c) (d.issueCtx e c).2).onEng e
      (fun x => { x with lastIssue := d.clk + 1 }) := by
  unfold Dev.issue
  dsimp only
  rw [← h1]
  cases hw : (d.eng e).windowAt with
  | none => simp only [h3]
  | some f =>
    have : ¬ f ≤ d.clk := by have := h2 f hw; omega
    simp only [this, if_false, h3]

end Sys2Proof.Machine
end

