-- ==== Sys2Proof/Tests/Slice0.lean ====
section
/-!
SUPPORT. Sys2Proof/Tests/Slice0.lean: the package's own tests: states that meet the hypotheses of every statement, an
ill-formed command for every check of WellFormed, and small examples that the spec works out.
-/

namespace Sys2Proof.Tests

set_option maxRecDepth 20000
set_option Elab.async false

open Sys2Proof.Machine Sys2Proof.Safety

/-! ## Small states -/

/-- The module after reset, changed. -/
def from0 (f : Dev → Dev) : State := { State.reset with dev := f State.reset.dev }

/-- The module of a state changed. -/
def State.tweak (s : State) (f : Dev → Dev) : State := { s with dev := f s.dev }

/-- A powered module in mode m, every domain on, firmware running. -/
def on (m : Nat) : State := from0 (fun d =>
  let d := ({ d with pwr := { d.pwr with powered := true } } : Dev).wr .PWR_DSTAT0 0 0xFFFFFFFF
  (((d.fs F.PWR_DSTAT1_ON32 0 1).fs F.PWR_STAT_MODE 0 m).fs F.PWR_STAT_INQ 0 0).fs F.SVP_STAT_RUN 0 1)

/-- A module without supply. -/
def unpowered : State := from0 (fun d => { d with pwr := { d.pwr with powered := false } })

/-- HOLDUP at step n, after OPERATION-like mode 3, with the input present. -/
def huAt (n : Nat) : State := State.tweak (on 5) (fun d =>
  ((d.fs F.PWR_STAT_HUSTEP 0 n).fs F.PWR_STAT_PREV 0 3).fs F.PWR_STAT_INQ 0 1)

/-- DORMANT, the input present. -/
def dormant : State := from0 (fun d => ({ d with pwr := { d.pwr with powered := true } } : Dev).fs F.PWR_STAT_INQ 0 1)

/-- Mode 3 with domain d off. -/
def offDom (d : Nat) : State := State.tweak (on 3) (fun s => s.wr .PWR_DSTAT0 0 (0xFFFFFFFF - BitVec.ofNat 32 (2 ^ d)))

/-- Mode 3 with the sequencer at work on a domain. -/
def acting (b : Bool) (d : Nat) : State := State.tweak (on 3) (fun s => { s with pwr := { s.pwr with act := some (b, d) } })

/-- A restart of the supervisor under way. -/
def restarting : State := State.tweak (on 3) (fun s => { s with svp := { s.svp with restarting := true } })

/-- A boot at step n; at step 6 it waits for SERVICE. -/
def bootAt (n : Nat) : State := State.tweak (on 1) (fun s =>
  ({ s with svp := { s.svp with waitAt := if n = 6 then some 7 else none } } : Dev).fs F.LCS_BOOT_STEP 0 n)

/-- Requests: application core 1, Open; the supervisor; a Sealed core. -/
def appCore : Req := { port := 0, world := 0, core := some 1 }
def svpReq : Req := { port := 2, world := 2 }
def sealedReq : Req := { port := 0, world := 1, core := some 2 }

/-! ## Commands -/

/-- Ring 3 enabled, with indices HEAD and TAIL and the command size code. -/
def ringAt (size head tail : Nat) : State := State.tweak (on 3) (fun s =>
  let s := s.setRegion 0 0 0 (2 ^ 32)
  (((s.fs F.CMD_RCFG_SIZE 3 size).fs F.CMD_HEAD_IDX 3 head).fs F.CMD_TAIL_IDX 3 tail).fs F.CMD_RCTL_EN 3 1)

/-- A command header of ring 3, Open, with a SEQ. -/
def cmdHdr (seq : Nat) : CmdHdr := { ring := 3, tag := 7, seq := seq, world := 0, fence := false }

/-- Ring 3 with four long commands outstanding: DEBUG STEP to tick 0 and to tick 100 among them. -/
def longRing : State := State.tweak (ringAt 0 4 9) (fun s => { s with cmd := { s.cmd with long :=
  [{ ring := 3, tag := 1, seq := 1, opcode := 0x0401 }, { ring := 3, tag := 1, seq := 2, opcode := 0x1202, arg2 := 0 },
   { ring := 3, tag := 1, seq := 3, opcode := 0x1202, arg2 := 9000 }, { ring := 3, tag := 1, seq := 4, opcode := 0x0801 }] } })

/-- Taken, as a test that computes. -/
def takenB (s : Dev) (h : CmdHdr) (op : Nat) : Bool :=
  s.ringUp h.ring && s.ringHasRoom h.ring && decide (s.proxyStatus = none) && s.fwRuns &&
    (!h.fence || decide (s.ringLongs h.ring = 0)) && decide (s.rd .CMD_RSEQ h.ring = BitVec.ofNat 32 h.seq) &&
    decide (h.world = s.ringWorld h.ring) &&
    (match opInfo op with
     | none => false
     | some (sys, long, n, modes) => decide (n ≤ 112) && (!sys || s.ringSys h.ring) && s.modeIn modes &&
         (!long || decide (s.ringLongs h.ring < 4)))

theorem taken_of {s : Dev} {h : CmdHdr} {op : Nat} (e : takenB s h op = true) : Taken s h op := by
  unfold takenB at e
  simp only [Bool.and_eq_true, decide_eq_true_eq] at e
  obtain ⟨⟨⟨⟨⟨⟨⟨h1, h2⟩, h3⟩, h4⟩, h5⟩, h6⟩, h7⟩, h8⟩ := e
  split at h8
  · cases h8
  · rename_i sys long n modes ho
    simp only [Bool.and_eq_true, decide_eq_true_eq] at h8
    obtain ⟨⟨⟨a, b⟩, c⟩, d⟩ := h8
    refine ⟨⟨h1, h2, h3, h4, ?_⟩, h6, h7, sys, long, n, modes, ho, a, ?_, c, ?_⟩
    · intro hf; simpa [hf] using h5
    · intro hs; simpa [hs] using b
    · intro hl; simpa [hl] using d

/-- Mode m with ring 3 an enabled system ring of world w, ready to take a command. -/
def cmdAt (m w : Nat) : State := State.tweak (on m) (fun s =>
  let s := s.setRegion 0 w 0 (2 ^ 32)
  ((s.fs F.CMD_RCFG_SYS 3 1).fs F.CMD_RCFG_WORLD 3 w).fs F.CMD_RCTL_EN 3 1)

/-- Bytes placed in DRAM from an address on. -/
def putBytes (d : Dev) (a : Nat) (bs : List Byte) : Dev :=
  { d with mem := { d.mem with dram := (((List.range bs.length).map (fun i => a + i)).zip bs).filter (fun x => decide (x.2 ≠ 0)) } }

/-- The bulk reference of an object at 0x1000. -/
def refOf (bs : List Byte) : BulkRef := { addr := 0x1000, length := bs.length, digest := BitVec.ofNat 384 (sha384 bs) }

/-- A command state with an object at 0x1000. -/
def bulkAt (m w : Nat) (bs : List Byte) : State := State.tweak (cmdAt m w) (fun d => putBytes d 0x1000 bs)

/-- The module after firmware's copy of an object. -/
def afterCopy (d : Dev) (c : Cid) (b : BulkRef) : Dev := (d.dmaRead 2 (d.ringWorld c.hdr.ring) b.addr b.length).1

theorem copied_of {d : Dev} {c : Cid} {b : BulkRef} {bs : List Byte}
    (h : decide (b.addr % 64 = 0 ∧ 64 ≤ b.length ∧ b.length ≤ 16777216 ∧
      (d.dmaRead 2 (d.ringWorld c.hdr.ring) b.addr b.length).2 = some bs ∧ sha384 bs = b.digest.toNat) = true) :
    Copied d (afterCopy d c b) c b bs := by
  obtain ⟨h1, h2, h3, h4, h5⟩ := of_decide_eq_true h
  exact ⟨h1, h2, h3, Prod.ext rfl h4, h5⟩

/-- A command with an object at 0x1000 just taken, in mode 2. -/
def takenAt (w : Nat) (op : Nat) (bs : List Byte) : Dev := atHead (bulkAt 2 w bs).dev { cmdHdr 0 with world := w } op

/-- The same command, and the module once its object is copied. -/
def cidAt (w op : Nat) : Cid := ⟨{ cmdHdr 0 with world := w }, op⟩
def copiedAt (w : Nat) (op : Nat) (bs : List Byte) : Dev := afterCopy (takenAt w op bs) (cidAt w op) (refOf bs)

/-- A casting with one bundle and context 0. -/
def tinyCast : List Byte :=
  leBytes 4 0x4143564D ++ leBytes 2 1 ++ leBytes 2 0 ++ leBytes 4 1 ++ leBytes 4 0 ++ List.replicate 16 0 ++
    leBytes 2 0 ++ leBytes 2 1 ++ leBytes 4 1000 ++ List.replicate 216 0 ++ List.replicate 16 0 ++ List.replicate 48 0

/-- A settings image of one word. -/
def tinySets : List Byte :=
  leBytes 4 0x5445534D ++ leBytes 2 1 ++ leBytes 2 0 ++ leBytes 4 1 ++ leBytes 4 7 ++ List.replicate 48 0 ++ leBytes 2 9 ++ List.replicate 62 0

/-- A stream table without streams, and a trip map of one voted bit of pair 0 on link 0. -/
def tinyStreams : List Byte := leBytes 4 0x5453564D ++ List.replicate 60 0
def tinyMap : List Byte :=
  leBytes 4 0x5052544D ++ leBytes 4 1 ++ leBytes 4 1 ++ List.replicate 52 0 ++ leBytes 4 1024 ++ List.replicate 60 0

/-- Envelopes over die 0, state 0, nonce 0 and operation bytes 0 and 1, each signed under a key of its own. -/
def keyA : Nat :=
  0x45af17d31109327de96ed8d1f08a7bab67ff079b31e17bf2935f2ceadc96b7fdae577f0c05507b70be6c3aa664e8e4954c8f81c4e5d350eb431b2909750bc9f7bb6f661ebb37a152cd7daa2909cd73bf8ef351b0116343370e7ff3c0a150c465e
def keyB : Nat :=
  0x4fb5088521f3f269212a1d30fc61b48005cda1c4d2cc3a487cc9f35eb122934bb3adb895fcc1d051a68065f64bbe3141a39666d05c216a2dc2b8c67fcf51783ff71c7dde8ddc01ec3ae182a9bedbeb1b9141a188bc3fd42dea0656be0fd163eac
def envA : List Byte :=
  beBytes 97 keyA ++ [0, 0, 0] ++
    beBytes 48 0xeaaffde2e74441ae05d69ba40930b059b182f7d5fd1f9bbd0cf7873563a4d4941894da624be73ea4bb0937c1e259b54d ++
    beBytes 48 0xa38fff4ba26c15e4ac9cde8c03103ac89080fd47545fde9446c8f192729eab7bd03a4d5c3187f75fe2a71b0ee50a4a40 ++
    List.replicate 60 0
def envB : List Byte :=
  beBytes 97 keyB ++ [0, 0, 0] ++
    beBytes 48 0x33a335934a29922fc647924452211d80b2404a0054caf76b5ec4fe2189641363b66623e1618f5cc20e955cbe1ddd62ac ++
    beBytes 48 0x33a335934a29922fc647924452211d80b2404a0054caf76b5ec4fe2189641363b66623e1618f5cc20e955cbe1ddd62ac ++
    List.replicate 9 0 ++ [1] ++ List.replicate 50 0

/-- The state for the signed commands: the keys stand in slots of either kind. -/
def keyAt (bs : List Byte) : State := State.tweak (bulkAt 2 1 bs) (fun d =>
  let k : KeySlot := { programmed := true, hash := BitVec.ofNat 384 (sha384 (beBytes 97 keyA)) }
  let l : KeySlot := { programmed := true, hash := BitVec.ofNat 384 (sha384 (beBytes 97 keyB)) }
  { d with lcs := { d.lcs with keys := [(0, l), (1, k), (2, k)] } })

/-! The hypotheses of EveryCommandCompletes can be met. -/

theorem test_wellformed_met : wellFormed .tick = true ∧ wellFormed (.hltSample 75 0) = false := by decide

/-! The hypotheses of QueueInvariantKept can be met. -/

theorem test_queue_met : QueueOk { State.reset with pending := [.tick, .bulkLow] } := by
  intro c h; revert c; decide

/-! The hypotheses of BundleRoundTrip can be met. -/

theorem test_bundle_met :
    (⟨1, List.replicate 5 ⟨0, 1, 2⟩, 7⟩ : Bundle).wf = true ∧ (0 : BitVec 128).extractLsb' 126 2 ≠ 3 := by decide

/-! The hypotheses of SupplyEventsAct can be met. -/

theorem test_supply_met :
    (on 3).dev.pwr.powered = true ∧ (on 3).dev.mode = 3 ∧ (on 0).dev.mode = 0 ∧ (on 5).dev.mode = 5 ∧
    (on 5).dev.fg F.PWR_STAT_HUSTEP 0 < 6 ∧ (on 0).dev.fg F.PWR_STAT_INQ 0 = 0 ∧
    unpowered.dev.pwr.powered = false := by decide

/-! The hypotheses of HoldupStepsFollow can be met. -/

theorem test_holdup_met :
    (huAt 2).dev.mode = 5 ∧ (huAt 2).dev.fg F.PWR_STAT_HUSTEP 0 = 2 ∧ (huAt 2).dev.reaches appCore 0 = true ∧
    (huAt 3).dev.fg F.PWR_STAT_HUSTEP 0 = 3 ∧ (huAt 4).dev.fg F.PWR_STAT_HUSTEP 0 = 4 ∧
    (huAt 5).dev.fg F.PWR_STAT_HUSTEP 0 = 5 ∧ (huAt 5).dev.fg F.PWR_STAT_INQ 0 = 1 ∧ (huAt 5).dev.pwr.ot = false ∧
    (huAt 5).dev.fg F.PWR_STAT_PREV 0 = 3 ∧ appCore.ok = true ∧ appCore.core = some 1 ∧
    (2 : Word).getLsbD 1 = true := by decide

/-! The hypotheses of EarlyReturnIsIgnored can be met. -/

theorem test_early_return_met : (huAt 2).dev.mode = 5 ∧ (huAt 2).dev.fg F.PWR_STAT_HUSTEP 0 < 5 ∧
    (huAt 2).dev.pwr.powered = true := by decide

/-! The hypotheses of ModuleResetAndWake can be met. -/

theorem test_reset_wake_met :
    (huAt 6).dev.mode = 5 ∧ (huAt 6).dev.fg F.PWR_STAT_HUSTEP 0 = 6 ∧ dormant.dev.pwr.powered = true ∧
    dormant.dev.mode = 0 ∧ dormant.dev.fg F.PWR_STAT_INQ 0 = 1 ∧ dormant.dev.pwr.mrstLow = false ∧
    dormant.dev.pwr.stay = false ∧ dormant.dev.fg F.PWR_STAT_OTL 0 = 0 := by decide

/-! The hypotheses of SequencerSwitchesOneDomain can be met. -/

theorem test_sequencer_met :
    svpReq.ok = true ∧ svpReq.svp = true ∧ (on 3).dev.reaches svpReq 0 = true ∧ (on 3).dev.pwr.act = none ∧
    (on 3).dev.pwr.seqQ = [] ∧ (offDom 25).dev.domOn 25 = false ∧ (offDom 25).dev.domReady 25 = true ∧
    (offDom 7).dev.domReady 3 = false ∧ (offDom 3).dev.domOn 3 = false ∧ (on 3).dev.domOn 25 = true ∧
    (on 3).dev.domUsed 25 = false ∧ (acting true 25).dev.pwr.act = some (true, 25) ∧
    (acting false 25).dev.pwr.act = some (false, 25) ∧ drainBounded 25 = false := by decide

/-! The hypotheses of SupervisorAndBootAct can be met. -/

/-- A firmware image without octets, its empty header signed under a Jalbiros key of its own. -/
def keyI : Nat :=
  0x04871c7522c7c9f317431849513410c8552f77ceea3dc5acab5a56c1b39da7b8132b905ef8af27ff394c4b7176156de98becd5cc51f759d66c9b854ce39fb0bb4a1f5e04ce15479cf73109b6f8b4b1697b3ceb5127d6575e26895500bb6000ce5c
def emptyImage : Image :=
  { wellFormed := true, build := 9, digest := hash384 [], key := beBytes 97 keyI
    sig := beBytes 48 0x283c1d7365ce4788f29f8ebf234edffead6fe997fbea5ffa2d58cc9dfa7b1c508b05526f55b9ebb2040f05b48fb6d0e1 ++
      beBytes 48 0x283c1d7365ce4788f29f8ebf234edffead6fe997fbea5ffa2d58cc9dfa7b1c508b05526f55b9ebb2040f05b48fb6d0e1 }
def restartingImage : Dev :=
  let d := restarting.dev
  let k : List (Nat × KeySlot) := [(0, { programmed := true, hash := hash384 (beBytes 97 keyI) })]
  let l : LcsSt := { d.lcs with keys := k, svpImg := [(0, emptyImage)] }
  { d with lcs := l }

theorem test_image_met : restartingImage.imagePick false = some (0, emptyImage) ∧ restarting.dev.imagePick false = none ∧
    restartingImage.svp.restarting = true ∧ restartingImage.mode ≠ 1 := by decide +kernel

theorem test_supervisor_met :
    (on 3).dev.domOn 1 = true ∧ (on 3).dev.fg F.SVP_STAT_DOWN 0 ≠ 1 ∧ restarting.dev.svp.restarting = true ∧
    restarting.dev.mode ≠ 1 ∧ (bootAt 5).dev.booting = true ∧ (bootAt 5).dev.fg F.LCS_BOOT_STEP 0 = 5 ∧
    (bootAt 6).dev.booting = true ∧ (bootAt 6).dev.svp.waitAt = some 7 := by decide

/-! The hypotheses of DoorbellRule can be met. -/

theorem test_doorbell_met :
    svpReq.ok = true ∧ svpReq.svp = true ∧ (ringAt 0 0x0FFA 0x1004).dev.reaches svpReq 1 = true ∧
    (ringAt 0 0x0FFA 0x1004).dev.fg F.CMD_RCTL_EN 3 ≠ 0 ∧ (on 3).dev.fg F.CMD_RCTL_EN 3 = 0 ∧
    (ringAt 0 0x0FFA 0x1004).dev.proxyStatus = none := by decide

/-- The worked example after R76: ring 3 refuses 0x100C and accepts 0x100A. -/
theorem test_doorbell_example :
    ((ringAt 0 0x0FFA 0x1004).dev.doorbell 3 0x100C).fg F.CMD_TAIL_IDX 3 = 0x1004 ∧
    ((ringAt 0 0x0FFA 0x1004).dev.doorbell 3 0x100C).fg F.CMD_RSTAT_OVF 3 = 1 ∧
    ((ringAt 0 0x0FFA 0x1004).dev.doorbell 3 0x100A).fg F.CMD_TAIL_IDX 3 = 0x100A := by decide

/-! The hypotheses of RingRegisterWrites can be met. -/

theorem test_ring_writes_met :
    (svpReq.svp || svpReq.ofWorld ((on 3).dev.fg F.CMD_RCFG_WORLD 3)) = true ∧ (on 3).dev.reaches svpReq 1 = true ∧ (on 3).dev.reaches sealedReq 1 = true ∧
    (on 3).dev.fg F.CMD_RCTL_EN 3 = 0 ∧ (ringAt 0 4 9).dev.fg F.CMD_RCTL_EN 3 ≠ 0 ∧ sealedReq.ok = true ∧
    (sealedReq.svp || sealedReq.ofWorld ((on 3).dev.fg F.CMD_RCFG_WORLD 3)) = false := by decide

/-! The hypotheses of BadSeqHasNoEffect can be met. -/

theorem test_bad_seq_met :
    commandOf (.modeGet (cmdHdr 5)) = some (cmdHdr 5, 0x0102) ∧ wellFormed (.modeGet (cmdHdr 5)) = true ∧
    Served (ringAt 0 4 9).dev (cmdHdr 5) ∧ (ringAt 0 4 9).dev.rd .CMD_RSEQ 3 ≠ BitVec.ofNat 32 5 :=
  ⟨rfl, by decide, ⟨by decide, by decide, by decide, by decide, by decide⟩, by decide⟩

/-! The hypotheses of SharedRefusals can be met. -/

theorem test_shared_refusals_met :
    Served (ringAt 0 4 9).dev (cmdHdr 0) ∧ (ringAt 0 4 9).dev.rd .CMD_RSEQ 3 = BitVec.ofNat 32 0 ∧
    (cmdHdr 0).world = (ringAt 0 4 9).dev.ringWorld 3 ∧ (ringAt 0 4 9).dev.ringSys 3 = false ∧
    opInfo 0x0C01 = some (true, false, 8, [2, 3, 4]) ∧ (ringAt 0 4 9).dev.modeIn [1, 2] = false ∧
    (longRing).dev.ringLongs 3 = 4 ∧ longRing.dev.modeIn [2, 3, 4] = true ∧ Served longRing.dev (cmdHdr 0) ∧
    ({ cmdHdr 0 with world := 1 } : CmdHdr).world ≠ (ringAt 0 4 9).dev.ringWorld 3 :=
  ⟨⟨by decide, by decide, by decide, by decide, by decide⟩, by decide, by decide, by decide, by decide, by decide,
   by decide, by decide, ⟨by decide, by decide, by decide, by decide, by decide⟩, by decide⟩

/-! The hypotheses of RingsServedInTurn can be met. -/

theorem test_service_met :
    (ringAt 0 4 9).dev.fwRuns = true ∧ (∀ j, j < 2 → (ringAt 0 4 9).dev.ringUp ((0 + 1 + j) % 16) = false) ∧
    (ringAt 0 4 9).dev.ringUp 3 = true ∧ (ringAt 0 4 9).dev.fg F.CMD_STAT_LAST 0 = 0 ∧
    ((ringAt 0 4 9).dev.ringPeek 3).2.isSome = true ∧ ((ringAt 0 4 9).dev.ringPeek 3).1.ringHasRoom 3 = true ∧
    ((ringAt 0 4 9).dev.ringPeek 3).1.ringLongs 3 = 0 := by decide

/-- A command with FENCE on a ring with a long command outstanding. -/
def fencedRing : State := State.tweak longRing (fun d => putBytes d 0x1000 [0, 2, 1, 0, 0, 1, 0, 0])

/-- An enabled ring without a command. -/
theorem test_service_idle_met :
    (ringAt 0 4 4).dev.fwRuns = true ∧ (∀ j, j < 2 → (ringAt 0 4 4).dev.ringUp ((0 + 1 + j) % 16) = false) ∧
    (ringAt 0 4 4).dev.ringUp 3 = true ∧ ((ringAt 0 4 4).dev.ringPeek 3).2 = none := by decide

/-! The hypotheses of LongWorkEnds can be met. -/

/-- One outstanding entry of each opcode with a long completion, DEBUG STEP also with its last tick ahead. -/
def longAll : State := State.tweak (ringAt 0 4 9) (fun s =>
  let e := fun (op arg arg2 : Nat) => ({ ring := 0, tag := 1, seq := 1, opcode := op, arg := arg, arg2 := arg2 } : LongCmd)
  ({ s with cmd := { s.cmd with long := [e 0x0201 0 0, e 0x0202 0 0, e 0x0401 0 0, e 0x0601 0 0, e 0x0801 0 0, e 0x0902 0 0,
      e 0x0902 1 7, e 0x0902 2 7, e 0x0902 3 0, e 0x0A03 0 0, e 0x0B01 0 0, e 0x0D02 5 0, e 0x0E01 0 0, e 0x0E02 0 0, e 0x0E03 0 0,
      e 0x0F01 1 0, e 0x0F01 4 1, e 0x1102 0 0, e 0x1202 0 0, e 0x1202 0 9000, e 0x0201 2 0] },
             jrn := { s.jrn with caps := [{ id := 5, hives := 1, pre := 1, post := 0, startTick := 0, base := 0, chans := [], world := 0 }] },
             pwr := { s.pwr with seqQ := [(true, 1)] } } : Dev).fs F.SET_PG_CTL_ARM 1 1 |>.fs F.SET_PG_CTL_INVAL 2 1
    |>.fs F.SET_PG_CTL_DONE 3 1)

theorem test_long_work_met :
    longAll.dev.domOn 1 = true ∧ longAll.dev.fwRuns = true ∧ longAll.dev.cmd.long.length = 21 ∧
    (longAll.dev.pwr.seqQ ++ longAll.dev.pwr.act.toList).map (fun x => (0 : Nat).testBit x.2) = [false] ∧ (2 : Nat).testBit 1 = true ∧
    longAll.dev.ing.switches = [] ∧ longAll.dev.fg F.SET_PG_CTL_ARM 1 = 1 ∧ longAll.dev.fg F.SET_PG_CTL_ARM 0 = 0 ∧
    longAll.dev.fg F.SET_PG_CTL_DONE 0 = 0 ∧ longAll.dev.fg F.SET_PG_CTL_INVAL 0 = 0 ∧ longAll.dev.fg F.SET_PG_CTL_INVAL 2 = 1 ∧
    longAll.dev.fg F.SET_PG_CTL_DONE 3 = 1 ∧ longAll.dev.rd64 .SET_PG_SWAP_LO .SET_PG_SWAP_HI 3 = 0 ∧
    (longAll.dev.findCap (fun y => decide (y.id = 5))).isSome = true ∧ longAll.dev.tickNo < 9000 ∧ 0 ≤ longAll.dev.tickNo := by decide

/-- A table switch that waits. -/
theorem test_table_switch_waits :
    (∃ x ∈ ({ longAll.dev with ing := { longAll.dev.ing with switches := [{ table := [] }] } } : Dev).ing.switches, x.kind = 0) := by decide

/-! The hypotheses of ModeDomainWorldDo can be met. -/

theorem test_mode_domain_world_taken : ∀ op ∈ [0x0101, 0x0102, 0x0201, 0x0202, 0x0301, 0x0302, 0x0303, 0x0304],
    takenB (cmdAt 2 0).dev (cmdHdr 0) op = true := by decide

theorem test_mode_domain_world_met :
    let d := atHead (cmdAt 2 0).dev (cmdHdr 0) 0x0101
    d.pwr.pend = none ∧ modeMay d.mode 4 = true ∧ (onesBelow 33 (2 ^ 25)).any domFixed = false ∧ d.mode ≠ 1 ∧
    d.resBusy ((onesBelow 33 (2 ^ 25)).map resDomain) = false ∧ (onesBelow 33 (2 ^ 25)).any d.domLive = false ∧
    d.resBusy ((onesBelow 8 1).map resHive) = false ∧ (∀ m ∈ onesBelow 8 2, (d.core m).released = false) ∧
    (∀ v ∈ onesBelow 8 1, ∀ e ∈ hiveEngines v, d.engHalted e = true) ∧
    (∀ m ∈ onesBelow 8 2, d.mayName ⟨cmdHdr 0, 0x0301⟩ (d.core m).world = true) ∧
    (∀ v ∈ onesBelow 8 1, d.mayName ⟨cmdHdr 0, 0x0301⟩ (d.hiveWorld v) = true) ∧
    d.mayName ⟨cmdHdr 0, 0x0302⟩ (d.core 1).world = true ∧ d.domOn (18 + 1) = true ∧ d.fg F.CMD_RCTL_EN 5 ≠ 1 ∧
    (((List.range 16).filter (fun r => decide (r ≠ 1) && decide (d.fwSize r ≠ 0))).any
      (fun r => rangesMeet (2 ^ 32) 65536 (d.fwBase r) (d.fwSize r)) ||
      rangesMeet (2 ^ 32) 65536 d.stagingBase (4 * 2 ^ 20) || rangesMeet (2 ^ 32) 65536 d.captureBase d.captureBytes) = false ∧
    wellFormed (.worldRegion (cmdHdr 0) 1 0 (2 ^ 32) 65536) = true := by decide

/-! The hypotheses of TimeJournalHealthResetDo can be met. -/

/-- Mode 2 with one capture record finished and room for more. -/
def capState : State := State.tweak (cmdAt 2 0) (fun d =>
  let d := (d.fs F.JRN_DRSIZE_MIB 0 16).fs F.JRN_DRLAST_ID 0 1
  ({ d with jrn := { d.jrn with caps := [{ id := 1, hives := 1, pre := 1, post := 0, startTick := 0, base := 0, chans := [(0, 1)],
                                            world := 0, st := 2 }] } } : Dev))

theorem test_time_health_taken : ∀ op ∈ [0x0C01, 0x0C02, 0x0C03, 0x0C04, 0x0D01, 0x0D02, 0x0D03, 0x1001, 0x1002, 0x1003,
      0x1101, 0x1102, 0x1103, 0x1104],
    takenB capState.dev (cmdHdr 0) op = true := by decide

theorem test_time_rate_met :
    let d := atHead capState.dev (cmdHdr 0) 0x0C03
    d.pourArmed = false ∧ d.overBudget (nsPerSec / rateHz 1) = none ∧ d.latePair (rateHz 1) = none := by decide

theorem test_journal_met :
    let d := atHead capState.dev (cmdHdr 0) 0x0D03
    d.jrnRoom 1 = true ∧ (d.findCap (fun y => decide (y.id = 1))).isSome = true ∧ d.sealable 1 = true ∧
    d.mayName ⟨cmdHdr 0, 0x0D03⟩ 0 = true ∧ (∀ v ∈ onesBelow 8 1, d.hiveWorld v = 0) ∧ 1 + d.cmbL + 1 ≤ d.cmbD ∧
    d.resBusy ((onesBelow 8 1).map resHive) = false ∧ (d.jrn.caps.filter (fun y => decide (y.st < 2))).length < 16 ∧
    ({ id := d.fg F.JRN_DRLAST_ID 0 + 1, hives := 1, pre := 1, post := d.fg F.JRN_DRPOST_POST 0, startTick := d.tickIn20us,
       base := d.capRoom.1, chans := (onesBelow 8 1).map (fun v => (d.fg F.JRN_DRCH_FIRST v, d.fg F.JRN_DRCH_COUNT v)),
       world := 0 } : Capture).size ≤ d.capRoom.2 := by decide

theorem test_health_reset_met :
    let d := atHead capState.dev (cmdHdr 0) 0x1001
    tempOk 800 = true ∧ sext 16 800 ≤ sext 16 880 ∧ d.mayName ⟨cmdHdr 0, 0x1102⟩ (d.hiveWorld 0) = true ∧
    d.cmd.long.any (fun k => decide (k.opcode = 0x1102) && decide (k.arg = 0)) = false ∧ d.domOn 9 = true ∧
    d.mayName ⟨cmdHdr 0, 0x1103⟩ (d.core 1).world = true ∧ d.domOn 19 = true ∧ (4 : Nat) ≠ (cmdHdr 0).ring := by decide

/-! The hypotheses of EngineCommandsDo can be met. -/

theorem test_engine_commands_taken :
    (∀ op ∈ [0x0401, 0x0402, 0x0403, 0x0501, 0x0502, 0x0701, 0x0801, 0x0901, 0x0902, 0x0903, 0x0A01, 0x0A02, 0x1201],
      takenB (cmdAt 2 0).dev (cmdHdr 0) op = true) ∧ takenB (cmdAt 4 0).dev (cmdHdr 0) 0x1202 = true := by decide

/-- Engine 5 may be named in mode 2. -/
theorem test_engine_named : ∀ op ∈ [0x0401, 0x0402, 0x0403, 0x0501, 0x0502, 0x1201], ∀ b : Bool,
    MayEngine (atHead (cmdAt 2 0).dev (cmdHdr 0) op) ⟨cmdHdr 0, op⟩ 5 b := by
  intro op h b
  unfold MayEngine
  revert b; revert op
  decide

/-- The casting is copied and accepted. -/
theorem test_cast_copied : Copied (takenAt 0 0x0401 tinyCast) (copiedAt 0 0x0401 tinyCast) (cidAt 0 0x0401) (refOf tinyCast) tinyCast :=
  copied_of (by decide +kernel)

theorem test_cast_accepted_met : (copiedAt 0 0x0401 tinyCast).castCheck 5 tinyCast = none := by decide +kernel

/-- The settings image is copied and accepted. -/
theorem test_sets_copied : Copied (takenAt 0 0x0801 tinySets) (copiedAt 0 0x0801 tinySets) (cidAt 0 0x0801) (refOf tinySets) tinySets :=
  copied_of (by decide +kernel)

theorem test_sets_accepted_met : setsCheck tinySets = none ∧ (onesBelow 64 32).findSome? ((copiedAt 0 0x0801 tinySets).setsRefuse (cidAt 0 0x0801) (objNat tinySets 6 2)) = none := by decide +kernel

theorem test_engine_commands_met :
    let d := atHead (cmdAt 2 0).dev (cmdHdr 0) 0x0701
    (∀ e, e < 64 → d.engHalted e = true) ∧ combLog 128 = some 7 ∧ d.resBusy ((onesBelow 64 32).map resEngine) = false ∧
    (∀ e ∈ d.pgEngines 2, d.mayName ⟨cmdHdr 0, 0x0901⟩ (d.engWorld e) = true) ∧
    (∀ e ∈ onesBelow 64 32, d.mayName ⟨cmdHdr 0, 0x0901⟩ (d.engWorld e) = true) ∧
    d.resBusy (resGroup 2 :: (onesBelow 64 32).map resEngine) = false ∧ d.pgArmed 2 = false ∧
    (onesBelow 64 32).any d.engArmed = false ∧ d.resBusy [resGroup 2] = false ∧ d.time.now + 20000 ≤ tickAt d.F 100000 ∧
    d.mayName ⟨cmdHdr 0, 0x0A01⟩ (d.pairWorld 3) = true ∧ d.resBusy [resPair 3] = false ∧ 5000 + 2000 ≤ nsPerSec / d.F := by decide

/-- Debug access to the Open world, for the DEBUG commands; an admitted engine 5, for CAST RUN; mode 4 for DEBUG STEP. -/
theorem test_debug_commands_met :
    let d := atHead (State.tweak (cmdAt 4 0) (fun s => (s.fs F.LCS_DBG_UNLOCK 0 1).fs F.PE_CTL_ADMIT 5 1)).dev (cmdHdr 0) 0x1202
    d.unlockReach (d.engWorld 5) = true ∧ (∀ v ∈ onesBelow 8 3, d.mayName ⟨cmdHdr 0, 0x1202⟩ (d.hiveWorld v) = true) ∧
    (∀ v ∈ onesBelow 8 3, d.unlockReach (d.hiveWorld v) = true) ∧ d.resBusy ((onesBelow 8 3).map resHive) = false ∧
    d.fg F.PE_CTL_ADMIT 5 ≠ 0 ∧ d.running 5 = false := by decide

/-! The hypotheses of TableKeyLifeDo can be met. -/

theorem test_table_commands_taken : ∀ op ∈ [0x0601, 0x0602, 0x0A03, 0x0B01, 0x0B02, 0x0E01, 0x0E02, 0x0F01],
    takenB (cmdAt 2 0).dev (cmdHdr 0) op = true := by decide

theorem test_sealed_commands_taken : (∀ op ∈ [0x0E01, 0x0E02, 0x0E03, 0x0F01],
    takenB (cmdAt 2 1).dev { cmdHdr 0 with world := 1 } op = true) ∧ takenB (cmdAt 4 0).dev (cmdHdr 0) 0x0603 = true := by decide

theorem test_streams_copied : Copied (takenAt 0 0x0601 tinyStreams) (copiedAt 0 0x0601 tinyStreams) (cidAt 0 0x0601) (refOf tinyStreams) tinyStreams :=
  copied_of (by decide +kernel)

theorem test_streams_accepted_met : (copiedAt 0 0x0601 tinyStreams).tabCheck (cidAt 0 0x0601) tinyStreams = none := by decide +kernel

theorem test_map_copied : Copied (takenAt 0 0x0A03 tinyMap) (copiedAt 0 0x0A03 tinyMap) (cidAt 0 0x0A03) (refOf tinyMap) tinyMap :=
  copied_of (by decide +kernel)

theorem test_map_accepted_met : (copiedAt 0 0x0A03 tinyMap).mapCheck (cidAt 0 0x0A03) tinyMap = none := by decide +kernel

/-- A control-block table whose one entry is empty. -/
def tinyPub : List Byte := List.replicate 1024 0

theorem test_pub_copied : Copied (takenAt 0 0x0B01 tinyPub) (copiedAt 0 0x0B01 tinyPub) (cidAt 0 0x0B01) (refOf tinyPub) tinyPub :=
  copied_of (by decide +kernel)

theorem test_pub_accepted_met : (copiedAt 0 0x0B01 tinyPub).pubCheck (cidAt 0 0x0B01) tinyPub = none := by decide +kernel

/-- The envelopes are copied, and accepted where the module holds their keys. -/
theorem test_env_copied : Copied (takenAt 1 0x0E01 envA) (copiedAt 1 0x0E01 envA) (cidAt 1 0x0E01) (refOf envA) envA :=
  copied_of (by decide +kernel)

theorem test_env_a : (keyAt envA).dev.envelope [1] (leBytes 1 0) envA = none ∧
    (keyAt envA).dev.envelope [2, 3] (leBytes 1 0) envA = none ∧ ((keyAt envA).dev.keySlot 1).revoked = false := by decide +kernel

theorem test_env_b : (keyAt envB).dev.envelope [0, 1] (leBytes 1 1) envB = none := by decide +kernel

theorem test_publish_met :
    let d := atHead (State.tweak (cmdAt 2 0) (fun s => s.onPub 7 (fun x => { x with loaded := true }))).dev (cmdHdr 0) 0x0B02
    (d.pblk 7).loaded = true ∧ d.mayName ⟨cmdHdr 0, 0x0B02⟩ (d.fg F.PUB_CFG_WORLD 7) = true ∧
    d.mayName ⟨cmdHdr 0, 0x0602⟩ (d.subWorld 600) = true ∧ d.resBusy [resTable kindPub] = false ∧ d.resBusy [resFuse] = false ∧
    lifeSlots d.lcs.state 1 = some [0, 1] ∧ d.mode = 2 := by decide

/-! The hypotheses of TimeSourcesAct can be met. -/

/-- Mode 2 with PTP of port 1 as the measured source, a valid second, HOLDOVER, PPS_OUT high. -/
def timeAt : State := State.tweak (on 2) (fun s =>
  let s := (((s.fs F.TMB_MEASSRC_SRC 0 1).fs F.TMB_STAT_SECVALID 0 1).fs F.TMB_STAT_STATE 0 3).fs F.TMB_PPSOUT_WIDTH 0 100
  let s := (s.fs F.TMB_UTCSEC_LO_SEC 0 5)
  { s with time := { s.time with lastMeas := [(3, some 9)], ppsHigh := true } })

/-- A valid B004 frame. -/
def goodIrig : IrigFrame :=
  { expr := 4, markersOk := true, digitsOk := true, parityOk := true, tq := 0, secOfYear := 0, year := 26, lsp := false, lss := false, edge := 0 }

theorem test_time_sources_met :
    svpReq.svp = true ∧ timeAt.dev.domOn 2 = true ∧ timeAt.dev.fg F.TMB_MEASSRC_SRC 0 = 1 ∧ (on 2).dev.fg F.TMB_MEASSRC_SRC 0 = 0 ∧
    timeAt.dev.fg F.TMB_STAT_SRC 0 ≠ 5 ∧ goodIrig.markersOk = true ∧ wellFormed (.irigFrame goodIrig) = true ∧
    (timeAt.dev.tsuCap 0x02 (goodIrig.edge - timeAt.dev.fg F.TMB_IRIGDLY_DLY 0)).irigOk goodIrig = true ∧
    (timeAt.dev.tsuCap 0x01 (timeAt.dev.time.now - timeAt.dev.fg F.TMB_PPSDLY_DLY 0)).time.lastPps = none ∧
    timeAt.dev.fg F.TMB_STAT_SECVALID 0 = 1 ∧ timeAt.dev.lastMeas 3 = some 9 ∧ timeAt.dev.fg F.TMB_STAT_STATE 0 = 3 ∧
    timeAt.dev.utcSec ≠ 0 ∧ timeAt.dev.time.now ≤ timeAt.dev.utcSec * nsPerSec ∧ timeAt.dev.ppsLive = true ∧
    timeAt.dev.time.ppsHigh = true := by decide

/-! The hypotheses of TickGridActs can be met. -/

/-- Mode 2 with rate 1 armed for second 9, mode 4 pending for the next tick, the first tick raised. -/
def gridAt : State := State.tweak (on 2) (fun s =>
  let s := (s.fs F.TKG_EFFSEC_LO_SEC 0 9).fs F.TKG_CTL_ARM 0 1
  { s with time := { s.time with tickRaised := true, halfDone := false }, pwr := { s.pwr with pend := some (4, 1) } })

theorem test_tick_grid_met :
    gridAt.dev.domOn 2 = true ∧ gridAt.dev.time.now < gridAt.dev.effSec * nsPerSec ∧ bits (2 : Word).toNat 3 1 < 6 ∧
    (on 2).dev.effSec * nsPerSec ≤ (on 2).dev.time.now ∧ gridAt.dev.fg F.TKG_CTL_ARM 0 = 1 ∧
    gridAt.dev.pwr.pend = some (4, 1) ∧ 1 ≤ gridAt.dev.nextTick ∧ gridAt.dev.time.halfDone = false ∧
    gridAt.dev.time.tickRaised = true ∧ 6 ≤ bits (12 : Word).toNat 3 1 ∧ (on 2).dev.fg F.TKG_CTL_ARM 0 = 0 := by decide

/-- The rate armed in mode m, with the timebase before its second. -/
def armAt (m : Nat) : Dev :=
  (State.tweak (on m) (fun s => ((s.fs F.TKG_EFFSEC_LO_SEC 0 9).fs F.TKG_CTL_NEXT 0 2).fs F.TKG_CTL_ARM 0 1)).dev
def armDue (m : Nat) : Dev := (armAt m).moveTo ((armAt m).effSec * nsPerSec)

theorem test_rate_met :
    (armAt 2).domOn 2 = true ∧ (armAt 2).fg F.TKG_CTL_ARM 0 = 1 ∧ (armDue 2).mode = 2 ∧ (armDue 3).mode = 3 ∧
    (armDue 2).fg F.TKG_CTL_NEXT 0 ≠ (armDue 2).fg F.TKG_RATE_CODE 0 := by decide +kernel

/-- Mode 2 with a change to a mode pending for the next tick. -/
def pendAt (m : Nat) : Dev := (State.tweak (on 2) (fun s => { s with pwr := { s.pwr with pend := some (m, s.nextTick) } })).dev

/-- What the tick finds: the module with the mode of the tick taken. -/
def tickTaken (s : Dev) : Dev :=
  ((((s.each (List.range 4) Dev.cmdDrop).applySwitches (tickAt s.F s.nextTick)).gridTo s.nextTick).pendMode s.nextTick).takeMode

theorem test_tick_met :
    (pendAt 0).domOn 2 = true ∧ (pendAt 0).pwr.pend = some (0, (pendAt 0).nextTick) ∧ (pendAt 0).fg F.TKG_CTL_ARM 0 = 0 ∧
    (tickTaken (pendAt 0)).mode = 0 ∧ (tickTaken (on 2).dev).mode ≠ 0 := by decide +kernel

/-! The hypotheses of TimersAct can be met. -/

theorem test_timers_met :
    let d := (on 2).dev.fs F.TMR_CTL_EN 3 1
    d.domOn 2 = true ∧ d.fg F.TMR_CTL_EN 3 = 1 ∧ d.fg F.TMR_CTL_CLKSEL 3 = 0 ∧ wellFormed (.timerCount 3) = true ∧
    d.clk % 2 ^ d.fg F.TMR_CTL_PRE 3 = 0 ∧ (d.tmr 3).lastClk + 1 ≤ d.clk + 1 ∧ (on 2).dev.fg F.TMR_CTL_EN 3 ≠ 1 := by decide

theorem test_timer_clock_met :
    let d := ((on 2).dev.fs F.TMR_CTL_EN 3 1).fs F.TMR_CTL_PRE 3 2
    let k := max d.clk ((d.tmr 3).lastClk + 1)
    let e := (k + 3) / 4 * 4
    e % 2 ^ d.fg F.TMR_CTL_PRE 3 = 0 ∧ k ≤ e ∧ e < k + 2 ^ d.fg F.TMR_CTL_PRE 3 := by decide

/-! The hypotheses of SvChecksInOrder can be met. -/

/-- Mode 3, port 0 enabled, one stream and one GOOSE subscription enabled on it. -/
def streamAt (credit : Nat) : State := State.tweak (on 3) (fun s =>
  let s := ((s.fs F.ETH_CFG_EN 0 1).fs F.ING_STAT_NSTREAM 0 1).fs F.ING_STAT_NGOOSE 0 1
  let s := (((s.wr .ING_SD 0 1).wr .ING_SD 1 0x40000000).wr .ING_SD 4 (4000 + 65536 + 0x40000000)).wr .ING_SD 5 (1 + 0x20000)
  let s := ((s.wr .ING_GD 0 1).wr .ING_GD 1 0x30000000).wr .ING_GD 5 0x18000
  let k := s.clk
  { s with ing := { s.ing with streams := [(0, { credit := credit, creditAt := k })] } })

/-- Octets of a frame of IEC 61850: addresses, EtherType, APPID, Length, the reserved words, APDU. -/
def frameOf (ty appid : Nat) (sim : Bool) (apdu : List Nat) : List Byte :=
  ((List.replicate 12 0 ++ [ty / 256, ty % 256, appid / 256, appid % 256, 0, 8 + apdu.length, 128 * b2n sim, 0, 0, 0] ++ apdu).map
    (BitVec.ofNat 8))

/-- A sampled-value frame of that stream, spelled out as Table 6.1 has it: noASDU 1, one ASDU without svID and channels. -/
def svOf (len cnt : Nat) (sim : Bool) (ext : Option AuthExt) : SvFrame :=
  let o := frameOf 0x88BA 0x4000 sim [0x60, 0x18, 0x80, 1, 1, 0xA2, 0x13, 0x30, 0x11, 0x80, 0, 0x82, 2, cnt / 256, cnt % 256,
    0x83, 4, 0, 0, 0, 0, 0x85, 1, 2, 0x87, 0]
  { hdr := { len := len, fcs := BitVec.ofNat 32 (crc32 o), dst := 1, src := 9 }, appid := 0x4000, sim := sim, noAsdu := 1,
    asdus := [{ svId := [], smpCnt := cnt, confRev := 0, smpSynch := 2, data := [] }], ext := ext, octets := o }

theorem test_sv_arrives :
    (streamAt 4000000000).dev.portOn 0 = true ∧ ((streamAt 4000000000).dev.rxCheck 0 (svOf 100 7 false none).hdr (svOf 100 7 false none).octets false).2 = .take ∧
    (svOf 60 7 false none).hdr.len < 64 ∧ (streamAt 4000000000).dev.fg F.ETH_CFG_COPYSUB 0 ≠ 1 ∧
    fcsOk { (svOf 100 7 false none).hdr with symErr := true } (svOf 100 7 false none).octets = false := by decide +kernel

/-- The module when the frame comes to ingest. -/
def svIn (credit : Nat) : Dev :=
  (((streamAt credit).dev.rxCheck 0 (svOf 100 7 false none).hdr (svOf 100 7 false none).octets false).1).hsrOffer 0 (svOf 100 7 false none).hdr []

theorem test_sv_checks_met :
    let e := svIn 4000000000
    (List.range e.nStream).find? (e.svMatch 0 (svOf 100 7 false none)) = some 0 ∧
    (List.range e.nStream).find? (e.svMatch 0 { svOf 100 7 false none with appid := 0x4001 }) = none ∧
    e.fg F.ETH_CFG_COPYSUB 0 ≠ 1 ∧ e.svPduOk 0 (svOf 100 5000 false none) = false ∧ e.svPduOk 0 (svOf 100 7 false none) = true ∧
    e.authOk (e.sdAuth 0) (e.sdKey 0) (e.sdWorld 0) none [] = true ∧
    ((e.wr .ING_SD 5 (1 + 0x20000 + 0x2000)).authOk 1 0 0 none []) = false ∧
    e.simPass (e.sdSimsel 0) (decide (e.fg F.ALN_SSTAT_SIMTAKEN 0 = 1)) true = false ∧
    e.simPass (e.sdSimsel 0) (decide (e.fg F.ALN_SSTAT_SIMTAKEN 0 = 1)) false = true ∧
    (e.svCredit 0).2 = true ∧ ((svIn 0).svCredit 0).2 = false := by decide +kernel

/-! The hypotheses of GooseFrameReplacesOrRefreshes can be met. -/

/-- A GOOSE frame of the subscription, and the module with the state already at stNum 5, sqNum 9 in an open window. -/
def gooseOf (st sq : Nat) : GooseFrame :=
  let o := frameOf 0x88B8 0x3000 false [0x61, 0x1F, 0x80, 0, 0x81, 1, 10, 0x82, 0, 0x84, 8, 0, 0, 0, 0, 0, 0, 0, 0, 0x85, 1, st,
    0x86, 1, sq, 0x88, 1, 0, 0x8A, 1, 0, 0xAB, 0]
  { hdr := { len := 100, fcs := BitVec.ofNat 32 (crc32 o), dst := 1, src := 9 }, appid := 0x3000, gocbRef := [], datSet := [], tal := 10,
    stNum := st, sqNum := sq, sim := false, confRev := 0, numEntries := 0, ndsCom := false, members := [], octets := o }
def gooseAt (got : Bool) : State := State.tweak (streamAt 0) (fun s =>
  let x := s.time.now + 5
  let s := { s with ing := { s.ing with gooses := [(0, { got := got, force := false, closed := false, closeAt := x })] } }
  ((s : Dev).wr .ALN_STNUM 0 5).wr .ALN_SQNUM 0 9)
def gooseIn (got : Bool) : Dev :=
  (((gooseAt got).dev.rxCheck 0 (gooseOf 5 9).hdr (gooseOf 5 9).octets false).1).hsrOffer 0 (gooseOf 5 9).hdr []

theorem test_goose_met :
    (gooseAt true).dev.portOn 0 = true ∧ ((gooseAt true).dev.rxCheck 0 (gooseOf 5 9).hdr (gooseOf 5 9).octets false).2 = .take ∧
    (let e := gooseIn true
     (List.range e.nGoose).find? (e.gooseMatch 0 (gooseOf 5 9)) = some 0 ∧ e.fg F.ETH_CFG_COPYSUB 0 ≠ 1 ∧ e.goosePduOk 0 (gooseOf 5 9) = true ∧
     e.authOk (e.gdAuth 0) (e.gdKey 0) (e.gdWorld 0) none [] = true ∧
     e.simPass (e.gdSimsel 0) (decide (e.fg F.ALN_GSTAT_SIMTAKEN 0 = 1)) false = true ∧ (e.gooseCredit 0).2 = true ∧
     (e.gooseCredit 0).1.gooseDue 0 = false ∧ numHigher 6 ((e.gooseCredit 0).1.rd .ALN_STNUM 0).toNat = true ∧
     numHigher 5 ((e.gooseCredit 0).1.rd .ALN_STNUM 0).toNat = false ∧ ((e.gooseCredit 0).1.gst 0).got = true ∧
     ((e.gooseCredit 0).1.rd .ALN_STNUM 0).toNat = 5 ∧ numHigher 10 ((e.gooseCredit 0).1.rd .ALN_SQNUM 0).toNat = true) ∧
    (((gooseIn false).gooseCredit 0).1.gst 0).got = false := by decide

/-! The hypotheses of IngestEventsAct can be met. -/

/-- Mode 3 with a window of subscription 0 open, a switch due, and a comb of 2 channels. -/
def combAt : State := State.tweak (gooseAt true) (fun s =>
  let s := s.fs F.CMB_CFG_CHANS 0 2
  { s with ing := { s.ing with switches := [{ kind := 1, due := 1 }] } })

theorem test_ingest_events_met :
    combAt.dev.domOn 7 = true ∧ (combAt.dev.gst 0).got = true ∧ (combAt.dev.gst 0).closed = false ∧
    combAt.dev.ing.switches = [{ kind := 1, due := 1 }] ∧ 1 ≤ combAt.dev.time.now + 1 ∧ combAt.dev.domOn 8 = true ∧
    combAt.dev.cmbC = 2 ∧ 8 / 8 < combAt.dev.cmbC * combAt.dev.cmbD ∧ combAt.dev.chanWorld (8 / 8 % combAt.dev.cmbC) = 0 ∧
    combAt.dev.mem.ue = [] ∧ (on 3).dev.cmbC * (on 3).dev.cmbD ≤ 80000000 / 8 ∧
    sealedReq.world < 2 ∧ combAt.dev.chanWorld 1 ≠ sealedReq.world := by decide

/-! The hypotheses of IntegerUnitOperations can be met. -/

/-- Mode 3, engine 0 running context 0 in tick 0, with latches. -/
def engAt (x : Engine) : State := State.tweak (on 3) (fun s =>
  (s.fs F.PE_STAT_STATE 0 1).onEng 0 (fun _ => { x with cur := some 0, ctx := [(0, { st := 2, wakeTick := 4000 })] }))

/-- What every operation of a free unit asks. -/
def freeUnit (d : Dev) (u : Nat) : Bool :=
  decide ((d.eng 0).cur = some 0) && d.running 0 && decide ((d.eng 0).freeAt u ≤ d.clk)

theorem test_engine_runs : (List.range 15).all (freeUnit (engAt {}).dev) = true := by decide

/-! The hypotheses of ControlAndOutputAct can be met. -/

theorem test_control_met :
    (engAt {}).dev.loopBad 0 0 = false ∧ ((State.tweak (engAt {}) (fun d => d.onCtx 0 0 (fun k => { k with pc := 5 }))).dev).loopBad 0 0 = true ∧
    ((engAt {}).dev.ectx 0 0).xfer = none ∧
    ((State.tweak (engAt {}) (fun d => d.onCtx 0 0 (fun k => { k with xfer := some {} }))).dev.ectx 0 0).xfer = some {} ∧
    (State.tweak (engAt {}) (fun d => d.fs F.TRG_PP_P 0 100)).dev.lateNow 0 0 = false ∧
    (State.tweak (engAt {}) (fun d => d.onCtx 0 0 (fun k => { k with wakeTick := 5 }))).dev.lateNow 0 0 = true ∧
    ((engAt {}).dev.eng 0).evq.length < 16 ∧ 16 ≤ ((engAt { evq := List.replicate 16 0 }).dev.eng 0).evq.length := by decide

/-! The hypotheses of MemoryPortsAct can be met. -/

/-- A comb of 2 channels whose channel 0 a GOOSE member maps, read from the tick in progress. -/
def combEng : State := State.tweak (engAt {}) (fun d =>
  ((d.fs F.CMB_CFG_CHANS 0 2).fs F.ING_STAT_NGOOSE 0 1).wr .ING_GD 6 0x1000000)

theorem test_ports_met :
    (65532 : Word).toNat + words 2 ≤ 65536 ∧ 65536 < (65533 : Word).toNat + words 2 ∧ 8192 < 8191 + words 1 ∧
    262144 < 262143 + words 1 ∧ (engAt {}).dev.ueIn 3 1 65532 (words 2) = false ∧ (engAt {}).dev.ueIn 4 0 0 1 = false ∧
    (engAt {}).dev.combFault 0 0 0 = some (3, 0) ∧
    combEng.dev.combFault 0 0 126 = some (3, 126 * 65536) ∧ combEng.dev.combFault 0 0 125 = none ∧ 125 < (combEng.dev.ectx 0 0).wakeTick := by decide

/-! The hypotheses of HiveDmaActs can be met. -/

theorem test_dma_met :
    ((engAt { latch := [(0xE0, 0)] }).dev.eng 0).dmaFault true 4096 = none ∧
    ((engAt { latch := [(0xE0, 0)] }).dev.eng 0).dmaFault true 4097 = some (2, 4097) ∧
    ((engAt { latch := [(0xE0, 0x80000)] }).dev.eng 0).dmaFault true 1 = some (5, 0x80000) ∧
    (List.range 4).find? (fun i => decide (((engAt {}).dev.eng 0).dmaSlot i ≠ 1)) = some 0 ∧
    (List.range 4).find? (fun i => decide (((engAt { dmaStat := [(0, 1), (1, 1), (2, 1), (3, 1)] }).dev.eng 0).dmaSlot i ≠ 1)) = none ∧
    (let d := (engAt {}).dev.onHive 0 (fun h => { h with dmaQ := [{ eng := 0, slot := 0, get := true, region := 0, laddr := 0, daddr := 0, len := 1 }] })
     (d.hive 0).dmaQ ≠ [] ∧ (d.dmaMove { eng := 0, slot := 0, get := true, region := 0, laddr := 0, daddr := 0, len := 1 }).2 = false ∧
     ((d.setRegion 0 0 0 (2 ^ 32)).dmaMove { eng := 0, slot := 0, get := true, region := 0, laddr := 0, daddr := 0, len := 1 }).2 = true) := by decide

/-! The hypotheses of BundleIssueInOrder can be met. -/

/-- Engine 0 with a bundle at PC 0: 0 a bundle of moves 0 -> E0, 1 an illegal one (header 3), 2 one that reads IALU0.Y,
3 one that triggers SQRT. -/
def bunAt (n : Nat) (x : Engine) : State :=
  engAt { x with prog := [(0, match n with
    | 1 => BitVec.allOnes 128
    | 2 => (Bundle.enc { hdr := 2, moves := [⟨0, 0x40, 0⟩, ⟨4, 0, 0⟩, ⟨4, 0, 0⟩, ⟨4, 0, 0⟩], imm := 0 })
    | 3 => (Bundle.enc { hdr := 2, moves := [⟨0, 0, 0xA3⟩, ⟨4, 0, 0⟩, ⟨4, 0, 0⟩, ⟨4, 0, 0⟩], imm := 0 })
    | _ => (Bundle.enc { hdr := 2, moves := [⟨0, 1, 0⟩, ⟨4, 0, 0⟩, ⟨4, 0, 0⟩, ⟨4, 0, 0⟩], imm := 0 }))] }

/-- The module at the issue. -/
def issAt (s : State) : Dev := ((s.dev.moveClk (s.dev.eng 0).lastIssue).commitDue 0).ePmuClocks 0

/-- What BundleIssueInOrder asks before the stalls: legal, no squash, no breakpoint, no switch due. -/
def issues (d : Dev) : Bool :=
  decide ((d.eng 0).windowAt = none) && decide ((d.eng 0).cur = some 0) && !(d.ectx 0 0).xfer.any (fun x => x.squash) &&
  decide (d.brkFires 0 0 = none) && !d.mem.ue.contains (3, 0, 0) && decide ((d.ectx 0 0).pc = 0)

/-- The faults of the bundle, and its stalls. -/
def bunOf (d : Dev) : Bundle := Bundle.dec ((d.eng 0).bundle 0)
def lowOf (d : Dev) : Option Nat :=
  lowest (((bunOf d).illegal profileE (d.ectx 0 0).g).toList ++ ((bunOf d).delayCtl profileE (d.ectx 0 0).g false).toList)

theorem test_issue_met :
    issues (issAt (bunAt 0 {})) = true ∧ lowOf (issAt (bunAt 0 {})) = none ∧
    ((issAt (bunAt 0 {})).eng 0).resStall 0 ((bunOf (issAt (bunAt 0 {}))).live 0) = false ∧
    ((issAt (bunAt 0 {})).eng 0).unitStall 0 ((bunOf (issAt (bunAt 0 {}))).live 0) = false ∧
    (lowOf (issAt (bunAt 1 {}))).isSome = true := by decide +kernel

theorem test_issue_stalls :
    (let d := issAt (bunAt 2 { fly := [{ unit := 0, ctx := 0, outs := [], ready := 2 ^ 70 }] })
     issues d = true ∧ lowOf d = none ∧ (d.eng 0).resStall 0 ((bunOf d).live 0) = true) ∧
    (let d := issAt (bunAt 3 { busy := [(4, 2 ^ 70)] })
     issues d = true ∧ lowOf d = none ∧ (d.eng 0).resStall 0 ((bunOf d).live 0) = false ∧ (d.eng 0).unitStall d.clk ((bunOf d).live 0) = true) ∧
    (let d := issAt (State.tweak (bunAt 0 {}) (fun d => d.onCtx 0 0 (fun k => { k with xfer := some { left := 2, squash := true } })))
     ((d.ectx 0 0).xfer.any (fun x => x.squash)) = true) ∧
    (let d := issAt (State.tweak (bunAt 0 {}) (fun d => (d.fs F.PE_BRK_EN 1 1).fs F.PE_BRK_ADDR 1 0))
     d.brkFires 0 0 = some 1) ∧
    ((engAt { sel := some (some 3, 77) }).dev.eng 0).windowAt = some 77 := by decide +kernel

/-! The hypotheses of EngineControlActs can be met. -/

theorem test_engine_control_met :
    let d := (engAt {}).dev
    d.domOn 9 = true ∧ d.running 0 = true ∧ d.running 1 = false ∧ (d.fs F.PE_CTL_ADMIT 1 1).fg F.PE_CTL_ADMIT 1 = 1 ∧
    tickAt d.F (d.runTick 1) ≤ d.time.now ∧ (let d := d.wr .PE_RUNTICK_LO 1 4001; d.time.now < tickAt d.F (d.runTick 1)) ∧
    ((d.onEng 2 (fun x => { x with runArmed := true, mailAt := [5] })).eng 2).runArmed = true ∧
    ((d.onEng 2 (fun x => { x with runArmed := true, mailAt := [5] })).eng 2).mailAt = [5] ∧ d.hiveWorld 0 = 0 ∧
    appCore.world = d.hiveWorld 0 ∧ sealedReq.port ≠ 2 ∧ sealedReq.world ≠ d.hiveWorld 0 ∧
    onesBelow 8 ((0x8000 : Word).toNat / 256) = [7] ∧ ((d.onCtx 0 7 (fun k => { k with held := true })).ectx 0 7).held = true := by decide

/-! The hypotheses of ProgramMemoryWriteRule can be met. -/

theorem test_program_write_met :
    (engAt {}).dev.domOn 9 = true ∧ svpReq.svp = true ∧ 0x1FFF8 < 0x20000 ∧ wordWidth 0x1FFF8 8 = true ∧
    (engAt {}).dev.running 0 = true ∧ (engAt {}).dev.running 7 = false := by decide

/-! The hypotheses of SettingsRegistersAct can be met. -/

theorem test_settings_met :
    (on 3).dev.domOn 17 = true ∧ (let d := (on 3).dev.wr .SET_PG_TICK_LO 15 4001; d.time.now < tickAt d.F (d.pgTick 15)) ∧
    tickAt (on 3).dev.F ((on 3).dev.pgTick 15) ≤ (on 3).dev.time.now ∧ (on 3).dev.domOn 16 = true ∧
    wordWidth 0x3FFE 2 = true ∧ (on 3).dev.oldUse 63 = false ∧ appCore.svp = false := by decide

/-! The hypotheses of GateAndJournalEventsAct can be met. -/

/-- Mode 3 with a publish point of pair 0 due at tick 4000, and control block 0 about to retransmit. -/
def gateAt : State := State.tweak (on 3) (fun s =>
  let s := ((s.fs F.TRG_PP_P 0 100).fs F.TRG_PCFG_EN 0 1).fs F.PUB_CFG_EN 0 1
  { s with time := { s.time with tickRaised := true }, pub := [(0, { next := some 2000000000 })] })

/-- Mode 3 with n staged records, and lost ones. -/
def jrnHolds (n o z : Nat) : State := State.tweak (on 3) (fun s =>
  { s with jrn := { s.jrn with staged := List.replicate n { index := 0 }, lostO := o, lostS := z } })

theorem test_gate_met :
    gateAt.dev.pointDue 0 = true ∧ gateAt.dev.trg.mapNext = none ∧ (gateAt.dev.pblk 0).next = some 2000000000 ∧
    gateAt.dev.fg F.PUB_CFG_EN 0 = 1 ∧ gateAt.dev.domOn 17 = true ∧ gateAt.dev.domOn 32 = true ∧
    1024 ≤ (jrnHolds 1024 0 0).dev.jrn.staged.length ∧ (jrnHolds 1023 0 0).dev.jrn.staged.length < 1024 ∧
    (jrnHolds 0 0 5).dev.jrnRoom 1 = true ∧
    (let d := (jrnHolds 0 5 0).dev
     (d.jrnAccept 0x0052 0 0 d.time.now (leBytes 4 5)).jrn.lostS = 0) ∧
    (on 3).dev.jrn.scrubAt + 1 < mramWords ∧ (on 3).dev.jrn.scrubAt ∉ (on 3).dev.jrn.ueWords := by decide

/-- A capture of one channel, to start, and one whose rows are copied. -/
def oneCap (st : Nat) : Capture :=
  { id := 1, st := st, world := 0, hives := 1, chans := [(0, 1)], pre := 1, startTick := 10,
    base := 0, firstTick := 9, rowsDone := if st = 1 then 1 else 0, incomplete := false }
def capsAt (st : Nat) : State := State.tweak (on 3) (fun s => { s with jrn := { s.jrn with caps := [oneCap st] } })

theorem test_journal_events_met :
    (on 3).dev.mramMay 0 0x1000000 = true ∧ (on 3).dev.mramBad 0x1000000 = false ∧ (on 3).dev.mramMay 0 0x2000000 = false ∧
    (on 3).dev.mramStaged 0x1000000 = false ∧ (on 3).dev.mramTag 0x1000000 = false ∧
    (let d : Dev := { (on 3).dev with jrn := { (on 3).dev.jrn with ueWords := [0x200000] } }
     d.mramMay 0 0x1000000 = true ∧ d.mramStaged 0x1000000 = false ∧ d.mramBad 0x1000000 = true) ∧
    ((capsAt 0).dev.findCap (fun c => decide (c.st = 0) && decide (c.startTick ≤ (capsAt 0).dev.tickNo))).isSome = true ∧
    ((capsAt 1).dev.findCap (fun c => decide (c.st = 1) && decide (c.rowsDone = c.rows))).isSome = true := by decide

/-! The hypotheses of InterruptControllerActs can be met. -/

/-- Mode 3 with source 512 of world 0 pending and enabled, for core 1 that is released; `a` says what it is: 0 unassigned,
1 assigned, 2 active. -/
def icAt (a : Nat) : State := State.tweak (on 3) (fun s =>
  let s := s.onCore 1 (fun c => { c with released := true })
  let s := (s.fs F.IC_SRC_TMASK 512 2).fs F.IC_SRC_CUR 512 (if a = 1 then 1 else 15)
  let s := (s.setIcBit .IC_PSET 512 (decide (a ≠ 2))).setIcBit .IC_ESET 512 true
  if a = 2 then (let s := s.setIcBit .IC_ACT 512 true; { s with ic := { s.ic with owner := [(512, 1)] } }) else s)

theorem test_interrupts_met :
    (icAt 0).dev.icRefresh 512 = (icAt 0).dev ∧ (icAt 0).dev.icWaits 512 = true ∧ (icAt 0).dev.fg F.IC_SRC_CUR 512 = 15 ∧
    (icAt 0).dev.icNext 512 = some 1 ∧ ((icAt 0).dev.fs F.IC_SRC_TMASK 512 0).icNext 512 = none ∧
    ((icAt 0).dev.fs F.IC_SRC_TMASK 512 0).icRefresh 512 = (icAt 0).dev.fs F.IC_SRC_TMASK 512 0 ∧
    ((icAt 0).dev.fs F.IC_SRC_TMASK 512 0).icWaits 512 = true ∧
    (icAt 1).dev.domOn 28 = true ∧ claimOwner appCore 1 = true ∧ (icAt 1).dev.icLine 1 false = some 512 ∧
    ((icAt 1).dev.fs F.IC_SRC_QUICK 512 1).icLine 1 true = some 512 ∧ (icAt 0).dev.icLine 1 false = none ∧
    (icAt 0).dev.icLine 1 true = none ∧ claimOwner sealedReq 1 = false ∧ appCore.debug = false := by decide +kernel

theorem test_completions_met :
    (icAt 2).dev.icActive 512 = true ∧ SMap.get (fun _ => 15) (icAt 2).dev.ic.owner 512 = 1 ∧ (icAt 1).dev.icActive 512 = false ∧
    ((icAt 2).dev.setIcBit .IC_ACT 512 false).icCond 512 = false ∧ icReserved 512 = false ∧ (icAt 1).dev.icMay appCore 512 = true ∧
    (let d := ((icAt 2).dev.fs F.TRG_EVT_ALM 0 1).fs F.TRG_IEN_EN 0 1
     let d := (d.setIcBit .IC_ACT 129 true)
     let d : Dev := { d with ic := { d.ic with owner := [(129, 1)] } }
     d.icActive 129 = true ∧ (d.setIcBit .IC_ACT 129 false).icCond 129 = true ∧ icReserved 129 = false ∧ d.icMay svpReq 129 = true) := by decide +kernel

/-! The hypotheses of WatchdogsAct can be met. -/

/-- Mode 3, watchdog 1 enabled with OPEN 10, CLOSE 20, GRACE 5 and a count, its first key received or not. -/
def wdgAt (n warn : Nat) (first : Bool) : State := State.tweak (on 3) (fun s =>
  let s := s.onCore 1 (fun c => { c with released := true })
  let s := ((s.fs F.WDG_CTL_EN 1 1).fs F.WDG_OPEN_US 1 10).fs F.WDG_CLOSE_US 1 20
  let s := (((s.fs F.WDG_GRACE_US 1 5).fs F.WDG_STAT_CNT 1 n).fs F.WDG_STAT_WARN 1 warn).fs F.WDG_CTL_LOCK 1 (if n = 0 then 1 else 0)
  let k := s.clk
  { s with wdg := { s.wdg with us := [(1, k)], first := [(1, first)] } })

theorem test_watchdogs_met :
    (wdgAt 10 0 true).dev.domOn (wdgDom 1) = true ∧ (wdgAt 10 0 true).dev.wdgMay appCore 1 true = true ∧
    (let d := (wdgAt 10 0 true).dev.wdgCatch 1
     SMap.get (fun _ => false) d.wdg.first 1 = true ∧
       (d.setFirst 1 false).fg F.WDG_OPEN_US 1 ≤ (d.setFirst 1 false).fg F.WDG_STAT_CNT 1) ∧
    (let d := (wdgAt 9 0 true).dev.wdgCatch 1
     (d.setFirst 1 false).fg F.WDG_STAT_CNT 1 < (d.setFirst 1 false).fg F.WDG_OPEN_US 1) ∧
    (wdgAt 19 0 false).dev.wdgCounts 1 = true ∧ (wdgAt 19 0 false).dev.fg F.WDG_STAT_WARN 1 = 0 ∧
    ((wdgAt 24 1 false).dev.wdgReach 1 25).fg F.WDG_STAT_WARN 1 = 1 ∧ (wdgAt 0 0 false).dev.fg F.WDG_CTL_LOCK 1 = 1 ∧
    (wdgAt 9 0 false).dev.fg F.WDG_CTL_LOCK 1 = 0 ∧ (wdgAt 9 0 false).dev.wdgMay appCore 1 false = true := by decide

/-! The hypotheses of CoreIntegerOperations can be met. -/

/-- Mode 3, DRAM of world O, core 1 released with a state. -/
def coreWith (f : ACore → ACore) : State := State.tweak (on 3) (fun s =>
  (s.setRegion 0 0 0 (2 ^ 32)).onCore 1 (fun c => f { c with released := true }))

/-- The core at its clock, and with the operations due completed and no barrier waited for. -/
def clockOf (f : ACore → ACore) : Dev := (coreWith f).dev.coreClock 1
def syncOf (f : ACore → ACore) : Dev := ((coreWith f).dev.coreSync 1).passFence 1

theorem test_core_units_met :
    wellFormed (.aIaluOp 1 1 7 9) = true ∧ wellFormed (.aMduMul 1 1 9) = true ∧ wellFormed (.aMduDiv 1 0 0) = true ∧
    (coreWith id).dev.coreLive 1 = true ∧ ((coreWith id).dev.core 1).ra = none ∧
    (List.range 4).all (fun u => decide ((clockOf id).aFree 1 u ≤ ((clockOf id).core 1).cyc)) = true ∧
    (let d := clockOf (fun c => { c with latch := [(0x40, 12), (0x70, 5)] })
     (12 : DWord).toNat = d.lat 1 0x40 ∧ (5 : DWord).toNat = d.lat 1 0x70) := by decide +kernel

/-! The hypotheses of FloatAndLoadStoreOperations can be met. -/

/-- What the check of an LSU trigger answers: the code of a fault, or 100 and the kind of plan. -/
def lsuSays (d : Dev) (code t : Nat) : Nat :=
  match ((d.noMiss 1).lsuCheck 1 (d.trigPc 1 code) 0 code (d.lat 1 0xA0) (d.lat 1 0xA1) (d.lat 1 0xA2) t).2 with
  | .error x => x.code
  | .ok (.load _) => 100
  | .ok (.at _) => 101
  | .ok (.multi _) => 102
  | .ok .plain => 103

theorem test_lsu_met :
    wellFormed (.aFpuOp 1 0 3 9) = true ∧ wellFormed (.aFpuDivSqrt 1 0 1 9) = true ∧ wellFormed (.aLoad 1 0 6 0) = true ∧
    wellFormed (.aStore 1 0 3 0) = true ∧
    (((coreWith id).dev.coreSync 1).core 1).fenceWait = none ∧ ((syncOf id).core 1).resumes ((syncOf id).trigPc 1 0xB9) = false ∧
    (List.range 33).all (fun k => (syncOf id).lsuWaits 1 0 (0xA3 + k) ((syncOf id).lat 1 0xA0) 0x1000 == false) = true ∧
    (List.range 33).all (fun k => decide ((syncOf id).trigStall 1 (0xA3 + k) 0x1000 = none)) = true := by decide +kernel

theorem test_lsu_plans :
    (List.range 33).map (fun k => lsuSays (syncOf id) (0xA3 + k) 0x1000) =
      List.replicate 7 100 ++ List.replicate 5 101 ++ [100, 101] ++ List.replicate 8 100 ++ [102, 102, 103, 103, 103, 103] ++
        List.replicate 4 101 ++ [103] := by decide +kernel

theorem test_lsu_faults :
    lsuSays (syncOf id) 0xA6 0x210000000 = 13 ∧
    lsuSays (syncOf (fun c => { c with sys := [(0, 0), (0x10, 1)] })) 0xAB 0x1000 ≠ 101 := by decide +kernel

/-! The hypotheses of ControlAndSystemOperations can be met. -/

/-- The faults that the check of a control transfer names, with STATUS and the two saved STATUS words given. -/
def ctlSays (f : ACore → ACore) (code t : Nat) : List Nat := ((syncOf f).ctlCheck 1 0 code t).2.map (fun x => x.code)

theorem test_ctl_met :
    ((syncOf id).core 1).xfer = none ∧
    (List.range 20).all (fun k => decide ((syncOf id).trigStall 1 (0xD1 + k) 0x1000 = none)) = true ∧
    (List.range 9).all (fun k => decide ((syncOf id).trigStall 1 (0xE1 + k) 1 = none)) = true ∧
    (List.range 9).all (fun k => decide ((syncOf id).sruCheck 1 0 (0xE1 + k) 1 = [])) = true ∧
    (Exc.first ((syncOf (fun c => { c with sys := [(0, 0)] })).sruCheck 1 0 0xE2 1)).isSome = true ∧
    ((syncOf id).flushCheck 1 0).2 = none := by decide +kernel

theorem test_ctl_plans :
    ctlSays id 0xD1 0x1000 = [] ∧ ctlSays id 0xD2 0x1000 = [] ∧
    ctlSays (fun c => { c with frames := [{}, {}] }) 0xD3 0 = [] ∧
    (List.range 4).all (fun k => decide (ctlSays id (0xD4 + k) 0x1000 = [])) = true ∧
    ctlSays (fun c => { c with sys := [(0, 0)] }) 0xD8 5 = [] ∧ ctlSays (fun c => { c with sys := [(0x31, 1)] }) 0xD9 0 = [] ∧
    ctlSays (fun c => { c with sys := [(0x21, 1)] }) 0xDA 0 = [] := by decide +kernel

theorem test_ctl_faults :
    ctlSays id 0xD1 0x1001 = [7] ∧ ctlSays id 0xD2 0x1001 = [7] ∧ ctlSays id 0xD3 0 = [5] ∧ ctlSays id 0xD8 0 = [5] ∧
    ctlSays (fun c => { c with sys := [(0x31, 0)] }) 0xD9 0 = [5] ∧ ctlSays (fun c => { c with sys := [(0x21, 0)] }) 0xDA 0 = [5] := by decide +kernel

/-! The hypotheses of CoreEventsAct can be met. -/

/-- Core 1 before a bundle, once the barriers are cleared. -/
def bndOf (s : State) : Dev := (s.dev.coreSync 1).passFence 1

/-- What the fetch of a state answers: 0 a fault, 1 an illegal bundle, 2 a legal one. -/
def fetchSays (s : State) : Nat :=
  match ((bndOf s).fetchNext 1 ((bndOf s).pc 1)).2 with
  | .error _ => 0
  | .ok w => if (Bundle.dec w).illegal profileA 0 = none then 2 else 1

/-- Core 1 at a legal bundle at address 0. -/
def legalAt : State := State.tweak (coreWith id) (fun d =>
  putBytes d 0 (leBytes 16 (Bundle.enc { hdr := 2, moves := [⟨0, 1, 0⟩, ⟨4, 0, 0⟩, ⟨4, 0, 0⟩, ⟨4, 0, 0⟩], imm := 0 }).toNat))

theorem test_abundle_met :
    (coreWith id).dev.coreLive 1 = true ∧ (((coreWith id).dev.coreSync 1).core 1).ra = none ∧
    (((coreWith id).dev.coreSync 1).core 1).xfer = none ∧ (((coreWith id).dev.coreSync 1).core 1).fenceWait = none ∧
    (bndOf (coreWith id)).trcStalls 1 = false ∧ (bndOf (coreWith id)).debugFirst 1 = none ∧
    (bndOf (coreWith id)).icLine 1 true = none ∧ (bndOf (coreWith id)).icLine 1 false = none ∧
    fetchSays (coreWith (fun c => { c with pc := 0x210000000 })) = 0 ∧ fetchSays (coreWith id) = 1 ∧ fetchSays legalAt = 2 := by
  decide +kernel

/-- The parts of the legal bundle. -/
def legalBun : Bundle := Bundle.dec (match ((bndOf legalAt).fetchNext 1 0).2 with | .ok w => w | .error _ => 0)
def legalDev : Dev := ((bndOf legalAt).fetchNext 1 0).1

theorem test_commit_met :
    legalDev.resWaits 1 (legalBun.live (legalDev.core 1).g) = false ∧
    (legalBun.live (legalDev.core 1).g).all (fun x => decide (aTrigUnit x.2.dst.toNat = none)) = true ∧
    (legalDev.plainFaults 1 false legalBun (legalBun.live (legalDev.core 1).g) []).2 = [] := by decide +kernel

/-- Source 512 waits for core 1, quick or not, with STATUS letting interrupts in. -/
def intAt (q : Nat) : State := State.tweak (icAt 1) (fun d =>
  (d.fs F.IC_SRC_QUICK 512 q).onCore 1 (fun c => { c with sys := [(0, 0xD)] }))

theorem test_entries_met :
    (intAt 0).dev.coreLive 1 = true ∧ (intAt 1).dev.coreLive 1 = true ∧
    ((intAt 0).dev.icLine 1 false).isSome = true ∧ ((intAt 1).dev.icLine 1 true).isSome = true ∧
    (((intAt 0).dev.endRunAhead 1).coreSync 1).debugFirst 1 = none ∧ (((intAt 1).dev.endRunAhead 1).coreSync 1).debugFirst 1 = none ∧
    ((((intAt 0).dev.endRunAhead 1).coreSync 1).core 1).multi = none ∧
    (((intAt 0).dev.endRunAhead 1).coreSync 1).mayInt 1 = true ∧ (((intAt 1).dev.endRunAhead 1).coreSync 1).mayQuick 1 = true ∧
    ((((intAt 0).dev.endRunAhead 1).coreSync 1).icLine 1 true).isSome = false ∧
    ((bndOf (intAt 1)).mayQuick 1 && ((bndOf (intAt 1)).icLine 1 true).isSome) = true ∧
    ((bndOf (intAt 0)).mayInt 1 && ((bndOf (intAt 0)).icLine 1 false).isSome) = true := by decide +kernel

theorem test_core_events_met :
    (let s := coreWith (fun c => { c with ra := some {} })
     (s.dev.core 1).ra.isSome = true) ∧
    (let s := coreWith (fun c => { c with fly := [{ unit := 0, outs := [(0x40, 1)], ready := 2 ^ 40 }] })
     (((s.dev.endRunAhead 1).coreSync 1).core 1).fly.length = 1) ∧
    (let s := State.tweak (intAt 0) (fun d => d.onCore 1 (fun c => { c with asleep := true }))
     (s.dev.core 1).asleep = true ∧ s.dev.icWakes 1 = true) ∧
    (let s := coreWith (fun c => { c with frames := [{}, {}], spill := true })
     s.dev.coreOn 1 = true ∧ (s.dev.core 1).spill = true ∧ 1 < s.dev.occupied 1) ∧
    (let s := coreWith (fun c => { c with fill := true, sys := [(0x65, 0x1000)] })
     (s.dev.core 1).fill = true ∧ s.dev.occupied 1 < 8 ∧ s.dev.hasRecord 1 (s.dev.backLvl 1) = true) ∧
    (let s := coreWith (fun c => { c with sb := [{ cells := [(0x1000, 1)] }], cb := [{ line := 1 }] })
     (s.dev.core 1).sb.length = 1 ∧ (s.dev.core 1).sbReady 0 = true ∧ s.dev.entryWaits 1 { cells := [(0x1000, 1)] } = false ∧
     (s.dev.core 1).cb.length = 1) := by decide +kernel


/-- Source 512 waits while core 1 stands between two registers of an LDM by itself. -/
def intMid : State := State.tweak (intAt 0) (fun d =>
  d.onCore 1 (fun c => { c with multi := some { start := 2 ^ 40, slots := [{ addr := 0x1008, reg := some 3 }], alone := true } }))

theorem test_between_registers_met :
    intMid.dev.coreLive 1 = true ∧ (intMid.dev.icLine 1 false).isSome = true ∧
    ((intMid.dev.endRunAhead 1).coreSync 1).debugFirst 1 = none ∧ ((intMid.dev.endRunAhead 1).coreSync 1).mayInt 1 = true ∧
    (((intMid.dev.endRunAhead 1).coreSync 1).icLine 1 true).isSome = false ∧
    (((intMid.dev.endRunAhead 1).coreSync 1).core 1).multi.any (fun r => r.alone && decide (r.slots.length = 1)) = true := by
  decide +kernel

/-! The hypotheses of HomeSlicesAct can be met. -/

/-- Mode 3 with DRAM of world O; line 0x40 held dirty by the L2 of cluster 1, which holds it until a clock if one is given. -/
def homeAt (hold : Nat) (busy : Bool) : State := State.tweak (on 3) (fun s =>
  let s := s.setRegion 0 0 0 (2 ^ 32)
  let s := s.setL2 1 0x40 { st := 3, world := 0, data := 7 }
  let until' := s.clk + hold
  s.onDir 0x40 (fun d => { d with st := 2, pres := 2, hold := if hold = 0 then [] else [(10, until')], busy := if busy then some ⟨0, 0, 0, 0x40, 0, 0⟩ else none }))
def homeReq (kind world : Nat) : HomeReq := { port := if kind = 4 then 1 else 0, world := world, kind := kind, line := 0x40, data := 5, mask := 1 }
def l2Held : State := homeAt 0 false

theorem test_home_free_met :
    (List.range 6).all (fun k => wellFormed (.homeSliceRequest (homeReq k 0)) && decide (l2Held.dev.homeOut (homeReq k 0).port < portLimit (homeReq k 0).port)) = true ∧
    (homeAt 0 true).dev.homeOut 0 = 1 ∧
    ((homeAt 0 true).dev.dirAt 0x40).busy.isSome = true ∧ (l2Held.dev.dirAt 0x40).busy = none ∧
    (homeAt 9 false).dev.clk < (homeAt 9 false).dev.reqHold (homeReq 0 0) ∧
    (List.range 6).all (fun k => decide (l2Held.dev.reqHold (homeReq k 0) ≤ l2Held.dev.clk)) = true := by decide +kernel

theorem test_home_answers_met :
    (l2Held.dev.l2Fill 0 0 0x40 false).2 = true ∧ (l2Held.dev.l2Fill 0 1 0x40 false).2 = false ∧
    ((l2Held.dev.stxSettle 0x40).l2Fill 0 0 0x40 true).2 = true ∧ ((l2Held.dev.stxSettle 0x40).l2Fill 0 1 0x40 true).2 = false ∧
    (l2Held.dev.uncRead 0 0 0x40).2 = some 7 ∧ (l2Held.dev.uncRead 0 1 0x40).2 = none ∧
    (l2Held.dev.uncWrite 0 0 0x40 5 (2 ^ 64 - 1) 9).2 = true ∧ (l2Held.dev.uncWrite 0 1 0x40 5 (2 ^ 64 - 1) 9).2 = false ∧
    (l2Held.dev.uncWrite 0 0 0x40 5 1 9).2 = true ∧ (l2Held.dev.uncWrite 0 1 0x40 5 1 9).2 = false := by decide +kernel

/-- A write-back of the line by cluster 1 that waits. -/
def backAt : State := State.tweak l2Held (fun d => d.onDir 0x40 (fun x => { x with waitq := [homeReq 4 0] }))

/-- The SVP with as many requests outstanding as it may have. -/
theorem test_home_limit_met : (State.tweak l2Held (fun d => d.onDir 0x40 (fun x =>
    { x with waitq := List.replicate 8 { homeReq 0 0 with port := 2 } }))).dev.homeOut 2 = portLimit 2 := by decide +kernel

theorem test_snoop_met :
    wellFormed (.snoop 1 0x40 1) = true ∧ wellFormed (.lineHoldEnd 0x40) = true ∧ wellFormed (.deadAgent 1) = true ∧
    wellFormed (.deadAgent 3) = true ∧ l2Held.dev.mem.deadL2.contains 1 = false ∧
    (State.tweak l2Held (fun d => { d with mem := { d.mem with deadL2 := [1] } })).dev.mem.deadL2.contains 1 = true ∧
    ((homeAt 9 false).dev.l2line 1 0x40).st ≠ 0 ∧ (homeAt 9 false).dev.clk < (homeAt 9 false).dev.holdEnd 0x40 (clusterHolders 1) ∧
    l2Held.dev.holdEnd 0x40 (clusterHolders 1) ≤ l2Held.dev.clk ∧ (l2Held.dev.dirAt 0x40).waitq = [] ∧
    ((backAt.dev.dirAt 0x40).waitq.find? (fun r => decide (r.kind = 4) && decide (r.port = 1))).isSome = true := by decide +kernel

theorem test_hold_met :
    l2Held.dev.nextHold 0x40 = none ∧ (homeAt 9 false).dev.nextHold 0x40 = some ((homeAt 9 false).dev.clk + 9) ∧
    (let d := (homeAt 9 false).dev.moveClk ((homeAt 9 false).dev.clk + 9)
     (d.dirAt 0x40).busy = none ∧ ((d.answerAll 0x40 (d.dirAt 0x40).snoops).dirAt 0x40).busy = none) ∧
    (let d := (homeAt 9 true).dev.moveClk ((homeAt 9 true).dev.clk + 9)
     (d.dirAt 0x40).busy = some ⟨0, 0, 0, 0x40, 0, 0⟩ ∧ d.reqHold ⟨0, 0, 0, 0x40, 0, 0⟩ ≤ d.clk ∧ (d.dirAt 0x40).waitq = []) := by
  decide +kernel

theorem test_dead_met :
    (l2Held.dev.snoopSent 1).isSome = true ∧ l2Held.dev.snoopSent 0 = none ∧
    ((State.tweak l2Held (fun d => d.onCore 5 (fun c => { c with l1d := [(0x40, 2)] }))).dev.snoopSent 7).isSome = true ∧
    (l2Held.dev.core 5).dead = false := by decide +kernel

/-! The hypotheses of FirewallAndDramAct can be met. -/

/-- Mode 3 with a read queued at channel 0, and its bank's row open or not. -/
def dramReq : DramReq := { port := 1, pa := 0x1000, write := false, hintOpen := true, at0 := 0, born := 0 }
def dramAt (isOpen : Bool) : State := State.tweak (on 3) (fun s =>
  let s := s.setRegion 0 0 0 (2 ^ 32)
  s.onDch 0 (fun x => { x with queue := [dramReq], rows := if isOpen then [(s.dramBank 0x1000, some (dramRow 0x1000, 3))] else [] }))

theorem test_fabric_met :
    (List.range 4).all (fun w => wellFormed (.nocFwWrite svpReq 5 w 0xFFFFFFFF)) = true ∧ (on 3).dev.domOn 28 = true ∧
    svpReq.svp = true ∧ appCore.svp = false ∧ wellFormed (.nocFwWrite appCore 5 0 1) = true ∧
    (on 3).dev.reaches svpReq 28 = true ∧ (on 3).dev.reaches appCore 28 = true ∧
    (on 3).dev.dramOut 1 < portLimit 1 ∧ portLimit 17 = 1 ∧
    portLimit 17 ≤ (State.tweak (on 3) (fun s => s.onDch 0 (fun x => { x with queue := [{ dramReq with port := 17 }] }))).dev.dramOut 17 ∧
    wellFormed (.dramRequest 1 0x1000 false true 0) = true ∧ (on 3).dev.domOn (29 + (on 3).dev.dramChan 0x1000) = true ∧
    (offDom 29).dev.domOn (29 + (offDom 29).dev.dramChan 0x1000) = false := by decide +kernel

theorem test_dram_met :
    wellFormed (.dramCommandIssue 0 0 0) = true ∧ ((dramAt true).dev.dramOrder 0)[0]? = some 0 ∧
    ((dramAt true).dev.dch 0).queue[0]? = some dramReq ∧ (dramAt true).dev.rowOpen 0 dramReq = true ∧
    (dramAt false).dev.rowOpen 0 dramReq = false ∧ dramReq.write = false ∧ (dramAt true).dev.poisoned (dramReq.pa / 64) = false ∧ ((on 3).dev.dramOrder 0)[0]? = none ∧
    wellFormed (.refresh 1) = true ∧ wellFormed (.activateTableClear 1) = true ∧ wellFormed (.rowIdleClose 0 0) = true ∧
    ((dramAt false).dev.dch 0).row ((on 3).dev.dramBank 0x1000) = none ∧
    ((dramAt true).dev.dch 0).row ((on 3).dev.dramBank 0x1000) = some (dramRow 0x1000, 3) ∧
    wellFormed (.patrolScrub 0 1) = true := by decide +kernel

theorem test_mask_met :
    wellFormed (.dmcMaskWrite svpReq 0x10 0x40) = true ∧ wellFormed (.dmcMaskWrite svpReq 0x34 1) = true ∧
    maskRegs[(0x10 - 0x10) / 8]? = some (.DMC_HCH_LO, .DMC_HCH_HI, 6) ∧
    maskRegs[(0x34 - 0x10) / 8]? = some (.DMC_HBA1_LO, .DMC_HBA1_HI, 10) ∧
    (on 3).dev.fg F.DMC_CTL_EN 0 = 0 ∧ (State.tweak (on 3) (fun d => d.fs F.DMC_CTL_EN 0 1)).dev.fg F.DMC_CTL_EN 0 = 1 ∧
    maskValid 6 (((on 3).dev.wr .DMC_HCH_LO 0 0x1040).rd64 .DMC_HCH_LO .DMC_HCH_HI 0) = true ∧
    maskValid 6 (((on 3).dev.wr .DMC_HCH_LO 0 0x80).rd64 .DMC_HCH_LO .DMC_HCH_HI 0) = false := by decide +kernel

/-! The hypotheses of EthernetPortsAct can be met. -/

/-- Mode 3, ports 0 and 1 of world O enabled, the pair redundant or not, with DRAM of world O. -/
def portAt (red : Nat) : State := State.tweak (on 3) (fun s =>
  (((s.setRegion 0 0 0 (2 ^ 32)).fs F.ETH_CFG_EN 0 1).fs F.ETH_CFG_EN 1 1).fs F.ETH_CFG_RED 0 red)

/-- A frame header, and a frame of a kind with it. -/
def ethHdr (len : Nat) (t : Option RedTag) : FrameHdr := { len := len, fcs := 0, dst := 1, src := 9, red := t }
def ethOf (x : EthPayload) : EthFrame := { hdr := ethHdr 100 none, payload := x, octets := [] }

theorem test_receive_met :
    wellFormed (.ethReceive 0 (ethOf .pause)) = true ∧ wellFormed (.ethReceive 0 (ethOf .supervision)) = true ∧
    wellFormed (.ethReceive 0 (ethOf (.other 0x0800))) = true ∧ wellFormed (.ethReceive 0 (ethOf (.ptp ⟨0, 0, false, none⟩))) = true ∧
    wellFormed (.ethReceive 0 (ethOf (.sv (svOf 100 7 false none)))) = true ∧
    wellFormed (.ethReceive 0 (ethOf (.goose (gooseOf 5 9)))) = true ∧
    (on 3).dev.portOn 0 = false ∧ (portAt 0).dev.portOn 0 = true ∧
    ((portAt 0).dev.rxCheck 0 (ethHdr 100 none) [] true).2 = .take ∧ ((portAt 1).dev.rxCheck 0 (ethHdr 100 none) [] false).2 = .take ∧
    ((portAt 0).dev.rxCheck 0 (ethHdr 63 none) [] false).2 = .drop ∧ ((portAt 0).dev.rxCheck 0 (ethHdr 1523 none) [] true).2 = .drop ∧
    (((portAt 1).dev.rxCheck 0 (ethHdr 100 (some ⟨false, 0, 5⟩)) [] false).1.rxCheck 1 (ethHdr 100 (some ⟨false, 1, 5⟩)) [] false).2 = .dup := by
  decide +kernel

/-- A port with frames that wait. -/
def queuedAt (f : EthPort → EthPort) : State := State.tweak (portAt 0) (fun s => s.onPort 0 f)

theorem test_transmit_met :
    wellFormed (.ethTransmit 0) = true ∧ wellFormed (.hsrForward 0) = true ∧
    (portAt 0).dev.txPick 0 = none ∧ ((portAt 0).dev.port 0).tx = none ∧
    (queuedAt (fun x => { x with pubq := [{}] })).dev.txPick 0 = some (.pub 0) ∧
    (queuedAt (fun x => { x with pubq := [{ kind := 3 }, { kind := 3, prio := 1 }] })).dev.txPick 0 = some (.pub 1) ∧
    (queuedAt (fun x => { x with fwq := [{ kind := 4 }, { kind := 1 }] })).dev.txPick 0 = some (.fw 1) ∧
    (queuedAt (fun x => { x with fwdq := [{ kind := 2 }] })).dev.txPick 0 = some .fwd := by decide +kernel

/-- Port 0's transmit ring at 0x1000 with one descriptor for a frame of `len` octets at 0x2000, and its world. -/
def ringTx (len world : Nat) (red : Nat) : State := State.tweak (portAt red) (fun s =>
  let s := (s.fs F.ETH_RING_TXEN 0 1).fs F.ETH_TXTAIL_IDX 0 1
  let s := (s.wr .ETH_TXBASE_LO 0 0x1000).fs F.ETH_CFG_WORLD 0 world
  putBytes s 0x1000 (leBytes 8 0x2000 ++ leBytes 8 0 ++ leBytes 2 len))
def descOf (s : State) : Dev × Option (List Byte) := s.dev.dmaRead 12 (s.dev.portWorld 0) (s.dev.txDescAt 0 (s.dev.fg F.ETH_TXHEAD_IDX 0)) 32
def descLen (s : State) : Option Nat := (descOf s).2.map (fun l => leNat ((l.drop 16).take 2))

theorem test_ring_met :
    (ringTx 100 0 0).dev.txPick 0 = some .ring ∧ (descOf (ringTx 100 1 0)).2 = none ∧ descLen (ringTx 0 0 0) = some 0 ∧
    descLen (ringTx 1519 0 0) = some 1519 ∧ descLen (ringTx 1513 0 1) = some 1513 ∧ (descOf (ringTx 1513 0 1)).1.redOf 0 ≠ 0 ∧
    descLen (ringTx 100 0 0) = some 100 ∧
    ((descOf (ringTx 0 0 0)).1.dmaWrite 12 0 (0x1000 + 18) [3]).2 = true ∧
    ((descOf (ringTx 100 0 0)).1.dmaRead 12 0 0x2000 100).2.isSome = true := by decide +kernel

theorem test_port_events_met :
    wellFormed (.linkChange 0 ⟨true, true⟩) = true ∧
    (let d := ((portAt 0).dev.fs F.ETH_STAT_LOCK 0 1).onPort 0 (fun x => { x with linkOk := true })
     d.linkHolds 0 = true ∧ d.fg F.ETH_CFG_EN 0 = 1 ∧ d.fg F.ETH_STAT_LINK 0 = 0) ∧
    (let d := ((portAt 0).dev.fs F.ETH_STAT_LOCK 0 1).onPort 0 (fun x => { x with linkOk := false })
     d.linkHolds 0 = false ∧ d.fg F.ETH_STAT_LINK 0 = 0) ∧
    wellFormed (.ethTxtail appCore 0 1) = true ∧ wellFormed (.ethRxtail svpReq 0 1) = true ∧
    (appCore.svp || appCore.ofWorld ((portAt 0).dev.portWorld 0)) = true ∧
    wellFormed (.duplicateEntryExpiry 0) = true ∧ ((portAt 1).dev.dupOf 0).entries = [] ∧
    (((portAt 1).dev.rxCheck 0 (ethHdr 100 (some ⟨false, 0, 5⟩)) [] false).1.dupOf 0).entries.length = 1 ∧
    wellFormed (.supervisionFrame 0) = true ∧ (portAt 0).dev.redOf 0 ≠ 1 ∧ (portAt 1).dev.redOf 0 = 1 := by decide +kernel

/-- A host frame of descriptor 0 on its way. -/
def sentAt : State := State.tweak (ringTx 100 0 0) (fun s => s.onPort 0 (fun x => { x with tx := some { kind := 5, desc := 0, len := 100 } }))

theorem test_complete_met :
    wellFormed (.frameTransmissionComplete 0) = true ∧
    (queuedAt (fun x => { x with tx := some { kind := 1 } })).dev.txPick 0 = none ∧
    (sentAt.dev.port 0).tx = some { kind := 5, desc := 0, len := 100 } ∧ (0 : Nat) ≠ noDesc ∧
    (let d := sentAt.dev.onPort 0 (fun x => { x with tx := none })
     let e := d.dmaWrite 12 (d.portWorld 0) (d.txDescAt 0 0 + 8) (leBytes 8 (stamp 0))
     e.2 = true ∧ (e.1.dmaWrite 12 (d.portWorld 0) (d.txDescAt 0 0 + 18) [1]).2 = true) := by decide +kernel

/-- A PTP port of a role, in a state. -/
def ptpAt (role st : Nat) : State := State.tweak (queuedAt (fun x => { x with ptp := st })) (fun s => s.fs F.ETH_PTPCFG_ROLE 0 role)

theorem test_ptp_met :
    (List.range 5).all (fun k => wellFormed (.ptpInterval 0 k)) = true ∧ (ptpAt 1 2).dev.fwRuns = true ∧ (ptpAt 1 2).dev.portOn 0 = true ∧
    (ptpAt 1 2).dev.ptpRole 0 ≠ 0 ∧ restarting.dev.fwRuns = false ∧
    (let s := ptpAt 2 3
     (s.dev.port 0).ptp = 3 ∧ s.dev.ptpRole 0 = 1) ∧
    (let s := State.tweak (portAt 0) (fun d => ((d.fs F.ETH_CFG_EN 2 1).fs F.ETH_PTPCFG_ROLE 2 2).onPort 2 (fun x => { x with ptp := 3 }))
     s.dev.portOn 2 = true ∧ s.dev.ptpRole 2 = 2 ∧ (s.dev.port 2).ptp = 3 ∧ ((s.dev.bmc 2).port 2).ptp = 3) := by decide +kernel

/-! The hypotheses of BayLinksAct can be met. -/

/-- Mode 3 with a tick raised and link 0 of world O enabled in a state, with so many misses. -/
def bayAt (st miss : Nat) : State := State.tweak (on 3) (fun s =>
  let s := ((s.fs F.BLK_LCFG_EN 0 1).fs F.BLK_LSTAT_STATE 0 st).onLnk 0 (fun b => { b with miss := miss })
  { s with time := { s.time with tickRaised := true, tickMode := 3 } })

/-- A good card frame of tick 0. -/
def cardOf (ok : Bool) : CardFrame :=
  let b := [0x81, 1, 0, 0, 3] ++ leBytes 75 0
  { octets := b ++ (if ok then leBytes 4 (crc32 b) else leBytes 4 0), arrival := 700 }

theorem test_bay_met :
    wellFormed (.tickFrame 0) = true ∧ (bayAt 2 0).dev.domOn 6 = true ∧ (on 3).dev.time.tickRaised = false ∧
    (bayAt 2 0).dev.time.tickRaised = true ∧ ((bayAt 2 0).dev.lnk 0).lastTick.map Prod.fst ≠ some (bayAt 2 0).dev.tickNo ∧
    (((bayAt 2 0).dev.moveTo ((bayAt 2 0).dev.tickTime + 200)).lnkRoll 0).lnkOn 0 = true ∧
    (((bayAt 2 0).dev.moveTo ((bayAt 2 0).dev.tickTime + 200)).lnkRoll 0).outputsLive = true ∧
    (let s := State.tweak (bayAt 2 0) (fun d => d.fs F.BLK_LCFG_EN 0 0)
     ((s.dev.moveTo (s.dev.tickTime + 200)).lnkRoll 0).lnkOn 0 = false) ∧
    wellFormed (.cardFrame 0 (cardOf true)) = true ∧ wellFormed (.cardFrame 0 (cardOf false)) = true ∧
    (on 3).dev.lnkOn 0 = false ∧ (bayAt 1 0).dev.lnkOn 0 = true ∧ (bayAt 1 0).dev.lnkState 0 ≠ 0 ∧
    ((bayAt 1 0).dev.moveTo (700 + 344)).cardGood (cardOf true) = true ∧
    ((bayAt 1 0).dev.moveTo (700 + 344)).cardGood (cardOf false) = false := by decide +kernel

theorem test_link_state_met :
    wellFormed (.linkLoss 0) = true ∧ wellFormed (.symbolLockLoss 0) = true ∧ wellFormed (.symbolLockAcquired 0) = true ∧
    (bayAt 2 9).dev.lnkState 0 = 2 ∧ (bayAt 2 99).dev.lossTicks 0 ≤ ((bayAt 2 99).dev.lnk 0).miss ∧
    ((bayAt 2 0).dev.lnk 0).miss < (bayAt 2 0).dev.lossTicks 0 ∧ (bayAt 1 0).dev.lnkState 0 ≠ 2 ∧ (bayAt 0 0).dev.lnkState 0 = 0 := by
  decide +kernel

/-! The hypotheses of DebugPortActs can be met. -/

/-- Mode m with an unlock in force, and a message in progress. -/
def dbgAt (m level : Nat) (code : Option Nat) (bs : List Byte) : State := State.tweak (on m) (fun d =>
  let d := (d.setRegion 0 0 0 (2 ^ 32)).fs F.LCS_DBG_UNLOCK 0 level
  { d with lcs := { d.lcs with mbBusy := code, mbi := ((List.range bs.length).zip bs).filter (fun x => decide (x.2 ≠ 0)) } })

theorem test_port_forms :
    wellFormed (.zdpRead4 false false 0 0x1000) = true ∧ wellFormed (.zdpRead4 true true 3 0x1001) = true ∧
    wellFormed (.zdpRead8 false false 0 0x1000) = true ∧ wellFormed (.zdpRead8 true true 3 0x1004) = true ∧
    wellFormed (.zdpWrite4 false false 0 0x1000 5) = true ∧ wellFormed (.zdpWrite4 true true 3 0x1001 5) = true ∧
    wellFormed (.zdpWrite8 false false 0 0x1000 5) = true ∧ wellFormed (.zdpWrite8 true true 3 0x1004 5) = true ∧
    wellFormed (.zdpMbwr 63 5) = true ∧ wellFormed (.zdpMbrd 63) = true ∧
    (List.range 7).all (fun k => wellFormed (.zdpMbgo k)) = true := by decide +kernel

theorem test_port_gates_met :
    (on 3).dev.domOn 1 = true ∧ (offDom 1).dev.domOn 1 = false ∧ (on 3).dev.zAddr false 0x1000 = 0x1000 ∧
    (on 3).dev.domOn 31 = true ∧ (offDom 31).dev.domOn 31 = false ∧ (dbgAt 3 1 none []).dev.unlockReach 0 = true ∧
    (on 3).dev.unlockReach 0 = false ∧ (dbgAt 3 1 none []).dev.windowGranted 0x1000 = true ∧
    (dbgAt 3 1 none []).dev.windowGranted 0x4200100000 = false := by decide +kernel

theorem test_port_answers_met :
    let d := (dbgAt 3 1 none []).dev
    (d.readAt { port := 17, world := 0, peek := false } 0x1000 4).resp.err = false ∧
    (d.readAt { port := 17, world := 0, peek := false } 0x4300000000 4).resp.err = true ∧
    (d.readAt { port := 17, world := 0, peek := false } 0x1000 8).resp.err = false ∧
    (d.readAt { port := 17, world := 0, peek := false } 0x4300000000 8).resp.err = true ∧
    (d.writeAt { port := 17, world := 0 } 0x1000 4 5).resp.err = false ∧
    (d.writeAt { port := 17, world := 0 } 0x4300000000 4 5).resp.err = true ∧
    (d.writeAt { port := 17, world := 0 } 0x1000 8 5).resp.err = false ∧
    (d.writeAt { port := 17, world := 0 } 0x4300000000 8 5).resp.err = true := by decide +kernel

theorem test_mailbox_met :
    (on 3).dev.lcs.mbBusy = none ∧ (dbgAt 3 0 (some 1) []).dev.lcs.mbBusy = some 1 ∧ (on 3).dev.fg F.SVP_STAT_DOWN 0 ≠ 1 ∧
    (on 3).dev.svp.restarting = false ∧ restarting.dev.svp.restarting = true ∧ restarting.dev.fg F.SVP_STAT_DOWN 0 ≠ 1 ∧
    (State.tweak (on 3) (fun d => d.fs F.SVP_STAT_DOWN 0 1)).dev.fg F.SVP_STAT_DOWN 0 = 1 := by decide +kernel

/-! The hypotheses of DebugMessagesAct can be met. -/

/-- A challenge of value 0 given at the present clock; the keys of the envelopes stand in slots 0 to 2. -/
def chalAt (level : Nat) (bs : List Byte) : State := State.tweak (dbgAt 3 level (some 3) bs) (fun d =>
  let k := d.clk
  { d with lcs := { d.lcs with chal := some (0, k), keys := (keyAt []).dev.lcs.keys } })

/-- An envelope that names a level, and nothing else. -/
def envLevel (n : Byte) : List Byte := List.replicate 0xCD 0 ++ [n] ++ List.replicate 50 0

theorem test_messages_met :
    (dbgAt 3 0 (some 1) []).dev.fwRuns = true ∧ (on 3).dev.lcs.mbBusy ≠ some 1 ∧
    debugGrant (on 3).dev.lcs.state 3 = 2 ∧ leNat ((dbgAt 3 0 (some 2) [2]).dev.mbiBytes 0 1) = 2 ∧
    leNat ((dbgAt 3 0 (some 2) [4]).dev.mbiBytes 0 1) = 4 ∧ leNat ((dbgAt 3 0 (some 2) []).dev.mbiBytes 0 1) = 0 ∧
    leNat ((dbgAt 3 0 (some 2) [3]).dev.mbiBytes 0 1) = 3 ∧ (on 3).dev.lockedOut = false ∧
    (let s := State.tweak (on 3) (fun d => { d with lcs := { d.lcs with lockAt := some d.clk } })
     s.dev.lockedOut = true ∧ s.dev.lcs.lockAt.isSome = true) ∧ (on 3).dev.lcs.lockAt = none ∧ (on 3).dev.lcs.chal = none ∧
    (chalAt 0 []).dev.lcs.chal.isSome = true ∧ (on 3).dev.mode = 3 := by decide +kernel

theorem test_unlock_met :
    objNat ((chalAt 0 envB).dev.mbiBytes 0 256) 0xCD 1 = 1 ∧ objNat ((chalAt 0 (envLevel 4)).dev.mbiBytes 0 256) 0xCD 1 = 4 ∧
    objNat ((chalAt 0 (envLevel 3)).dev.mbiBytes 0 256) 0xCD 1 = 3 ∧ debugGrant (chalAt 0 envB).dev.lcs.state 3 = 2 ∧
    (dbgAt 3 0 (some 3) envB).dev.validChal = none ∧ (chalAt 0 envB).dev.validChal = some 0 ∧
    (chalAt 0 envB).dev.lcs.state = 0 ∧ debugSlots 0 1 = [0, 1] ∧
    ({ (chalAt 0 []).dev with lcs := { (chalAt 0 []).dev.lcs with chal := none } } : Dev).envelopeWith [0, 1] (leBytes 1 1) (leBytes 16 0)
      (envLevel 1) ≠ none := by decide +kernel

theorem test_unlock_bytes : (chalAt 0 envB).dev.mbiBytes 0 256 = envB := by decide +kernel

theorem test_unlock_opens :
    ({ (chalAt 0 envB).dev with lcs := { (chalAt 0 envB).dev.lcs with chal := none } } : Dev).envelopeWith [0, 1] (leBytes 1 1)
      (leBytes 16 0) envB = none := by decide +kernel

theorem test_engine_messages_met :
    (let d := (dbgAt 3 2 (some 5) [1, 0, 0, 0, 5, 1, 0xFF, 0x1F, 1]).dev
     leNat (d.mbiBytes 0 1) = 1 ∧ d.mbArg 0 = 5 ∧ d.domOn (9 + 5 / 8) = true ∧ d.unlockReach (d.engWorld 5) = true ∧ d.mbArg 1 = 1 ∧
     leNat (d.mbiBytes 6 2) = 8191 ∧ d.mbArg 4 = 1) ∧
    (let d := (dbgAt 3 2 (some 5) [1, 0, 0, 0, 64, 2]).dev
     d.mbArg 0 = 64 ∧ d.mbArg 1 = 2) ∧
    (let d := (dbgAt 4 2 (some 5) [2, 0, 0, 0, 1, 0, 3]).dev
     leNat (d.mbiBytes 0 1) = 2 ∧ d.mode = 4 ∧ onesBelow 8 (d.mbArg 0) = [0] ∧ [0].any (fun h => !d.unlockReach (d.hiveWorld h)) = false) ∧
    (let d := (dbgAt 4 0 (some 5) [2, 0, 0, 0, 1, 0, 3]).dev
     [0].any (fun h => !d.unlockReach (d.hiveWorld h)) = true ∧ d.unlockReach (d.engWorld 5) = false) ∧
    leNat ((dbgAt 3 2 (some 5) [3, 0, 0, 0, 5, 1]).dev.mbiBytes 0 1) = 3 ∧ (offDom 9).dev.domOn (9 + 5 / 8) = false := by decide +kernel
/-- An envelope of level 1 over die 0, state END and nonce 0, signed under a Jalbiros key of its own. -/
def keyC : Nat :=
  0x044222bf8fb1038e49f1da462cbc8907265fbf1a7509f3078ab8f4ac4ab6c932f66ec5e3488de27efb45bd7598508cbf0cad15ad7646f69a7399b123989195ea44984a66378e839f2e1be12dd75d084f6e8f8699360ceb7fe1731f364e62a229d4
def envC : List Byte :=
  beBytes 97 keyC ++ [0, 0, 0] ++
    beBytes 48 0x283c1d7365ce4788f29f8ebf234edffead6fe997fbea5ffa2d58cc9dfa7b1c508b05526f55b9ebb2040f05b48fb6d0e1 ++
    beBytes 48 0x283c1d7365ce4788f29f8ebf234edffead6fe997fbea5ffa2d58cc9dfa7b1c508b05526f55b9ebb2040f05b48fb6d0e1 ++
    List.replicate 8 0 ++ [4, 1] ++ List.replicate 50 0

/-- A boot that found no firmware, in a life-cycle state, with a message in progress: BLANK's ROM answers, END's stub runs. -/
def failedBoot (life code : Nat) (bs : List Byte) : State := State.tweak (chalAt 0 bs) (fun d =>
  let d := (d.fs F.SVP_STAT_RUN 0 0).fs F.LCS_BOOT_FAIL 0 1
  let k : List (Nat × KeySlot) := [(0, { programmed := true, hash := BitVec.ofNat 384 (sha384 (beBytes 97 keyC)) })]
  let l : LcsSt := { d.lcs with state := life, mbBusy := some code, keys := k }
  { d with svp := { d.svp with bootFail := true }, lcs := l })

theorem test_stub_met :
    (failedBoot 0 2 [2]).dev.fwRuns = false ∧ (failedBoot 0 2 [2]).dev.romAnswers = true ∧
    debugGrant (failedBoot 0 2 [2]).dev.lcs.state (failedBoot 0 2 [2]).dev.mode ≠ 0 ∧ (failedBoot 0 3 envB).dev.stubRuns = false ∧
    (let d := (failedBoot 4 2 [2]).dev
     d.domOn 1 = true ∧ d.fwRuns = false ∧ d.romAnswers = false ∧ d.stubRuns = true ∧ d.lcs.mbBusy = some 2 ∧
     leNat (d.mbiBytes 0 1) = 2 ∧ d.lockedOut = false) ∧
    (let d := (failedBoot 4 3 envC).dev
     d.stubRuns = true ∧ d.mbiBytes 0 256 = envC ∧ d.validChal = some 0 ∧ debugSlots 4 1 = [0, 1]) := by decide +kernel

/-- The module of END with the challenge spent. -/
def stubSpent : Dev :=
  let d := (failedBoot 4 3 envC).dev
  { d with lcs := { d.lcs with chal := none } }

theorem test_stub_envelope : stubSpent.envelopeWith [0, 1] (leBytes 1 1) (leBytes 16 0) envC = none := by decide +kernel

/-! The hypotheses of DebugTraceAndHealthAct can be met. -/

def dbgReq : Req := { port := 17, world := 0 }

theorem test_debug_registers_met :
    wellFormed (.dbgCreqStop dbgReq 1 1) = true ∧ wellFormed (.dbgDtxWrite appCore 1 5) = true ∧ wellFormed (.dbgDrxWrite dbgReq 1 5) = true ∧
    wellFormed (.dbgDtxRead dbgReq 1) = true ∧ wellFormed (.dbgDrxRead appCore 1) = true ∧ wellFormed (.dbgDrxWrite svpReq 1 5) = true ∧
    ((dbgAt 3 1 none []).dev.dbgAdmits dbgReq ((dbgAt 3 1 none []).dev.core 1).world && (dbgReq.svp || dbgReq.debug)) = true ∧
    ((on 3).dev.dbgAdmits appCore ((on 3).dev.core 1).world && !appCore.debug) = true ∧
    ((on 3).dev.dbgAdmits svpReq ((on 3).dev.core 1).world && (svpReq.svp || svpReq.debug)) = true ∧
    (on 3).dev.domOn (18 + 1) = true ∧ appCore.ofCore 1 = true ∧ svpReq.ofCore 1 = false ∧ dbgReq.debug = true ∧ svpReq.debug = false ∧
    (dbgReq.debug && !dbgReq.peek) = true ∧ (appCore.debug && !appCore.peek) = false := by decide +kernel

theorem test_trace_health_met :
    wellFormed (.trcClear dbgReq 0) = true ∧ wellFormed (.trcSw appCore 1 5) = true ∧ wellFormed (.trcSw svpReq 1 5) = true ∧
    (dbgReq.svp || (dbgReq.debug && (List.range 3).all (fun w => !(on 3).dev.trc.worlds.testBit w || (on 3).dev.unlockReach w))) = true ∧
    wellFormed (.hltSample 3 900) = true ∧ wellFormed (.hltSample 70 0) = true ∧ unpowered.dev.pwr.powered = false ∧
    (on 3).dev.pwr.powered = true ∧
    wellFormed (.errValidClear svpReq 10 1) = true ∧ wellFormed (.errValidClear appCore 33 1) = true ∧
    (decide (32 ≤ 33) && decide (33 < 40) && appCore.ofCore (33 - 32)) = true ∧ (on 3).dev.domOn (errDom 33) = true ∧
    (offDom 8).dev.domOn (errDom 10) = false := by decide +kernel

/-! The hypotheses of RegisterAccessesAct can be met. -/

/-- The register that an access reaches, if it reaches one. -/
def reachOf (d : Dev) (rq : Req) (b off size addr : Nat) : Option (RName × Nat) := (d.reach rq b off size addr).toOption

theorem test_reg64_met :
    let d := (on 3).dev
    wellFormed (.reg64LoRead appCore (devAddr 18 0x110)) = true ∧ target (devAddr 18 0x110) = .dev 18 0x110 ∧
    reachOf d appCore 18 0x110 4 (devAddr 18 0x110) = some (.NOC_FW_BASE_LO, 1) ∧ RName.NOC_FW_BASE_LO.hiHalf = some .NOC_FW_BASE_HI ∧
    RName.NOC_FW_BASE_LO.loHalf = none ∧ RName.NOC_FW_BASE_LO.mask (fun a => decide (a = .rc)) = 0 ∧
    (d.regSync .NOC_FW_BASE_LO 1 (RName.clears .NOC_FW_BASE_LO .rc)).mayRead appCore .NOC_FW_BASE_LO 1 = true ∧
    wellFormed (.reg64HiRead appCore (devAddr 18 0x114)) = true ∧ target (devAddr 18 0x114) = .dev 18 0x114 ∧
    reachOf d appCore 18 0x114 4 (devAddr 18 0x114) = some (.NOC_FW_BASE_HI, 1) ∧ RName.NOC_FW_BASE_HI.hiHalf = none ∧
    RName.NOC_FW_BASE_HI.loHalf.isSome = true ∧ RName.NOC_FW_BASE_HI.mask (fun a => decide (a = .rc)) = 0 ∧
    (d.regSync .NOC_FW_BASE_HI 1 (RName.clears .NOC_FW_BASE_HI .rc)).latchOf 0 .NOC_FW_BASE_HI 1 = none ∧
    (d.setLatch 0 .NOC_FW_BASE_HI 1 (some 3)).latchOf 0 .NOC_FW_BASE_HI 1 = some 3 := by decide +kernel

theorem test_read_clears_met :
    let d := (on 3).dev
    wellFormed (.readClearsRead appCore (devAddr 8 0x14)) = true ∧ target (devAddr 8 0x14) = .dev 8 0x14 ∧
    reachOf d appCore 8 0x14 4 (devAddr 8 0x14) = some (.ING_BADPDU, 0) ∧ RName.ING_BADPDU.hiHalf = none ∧ RName.ING_BADPDU.loHalf = none ∧
    RName.ING_BADPDU.mask (fun a => decide (a = .rc)) ≠ 0 ∧ (d.regSync .ING_BADPDU 0 (RName.clears .ING_BADPDU .rc)).mayRead appCore .ING_BADPDU 0 = true ∧
    (appCore.debug && appCore.peek) = false ∧ (({ dbgReq with peek := true } : Req).debug && ({ dbgReq with peek := true } : Req).peek) = true ∧
    reachOf d appCore 8 0x14 2 (devAddr 8 0x14) = none ∧ reachOf d appCore 18 0xFFFC 4 (devAddr 18 0xFFFC) = none ∧
    reachOf d sealedReq 26 0x1240 4 (devAddr 26 0x1240) = some (.DBG_IAC_ALO_LO, 8) ∧
    (d.regSync .DBG_IAC_ALO_LO 8 (RName.clears .DBG_IAC_ALO_LO .rc)).mayRead sealedReq .DBG_IAC_ALO_LO 8 = false ∧
    reachOf d sealedReq 26 0x1244 4 (devAddr 26 0x1244) = some (.DBG_IAC_ALO_HI, 8) ∧
    (d.regSync .DBG_IAC_ALO_HI 8 (RName.clears .DBG_IAC_ALO_HI .rc)).mayRead sealedReq .DBG_IAC_ALO_HI 8 = false ∧
    reachOf d sealedReq 26 0x13E0 4 (devAddr 26 0x13E0) = some (.DBG_DTX, 1) ∧
    (d.regSync .DBG_DTX 1 (RName.clears .DBG_DTX .rc)).mayRead sealedReq .DBG_DTX 1 = false := by decide +kernel

theorem test_write_met :
    let d := (on 3).dev
    wellFormed (.registerWrite svpReq (devAddr 18 0x110) 4 0x10000) = true ∧ wellFormed (.registerWrite appCore 0x4300000000 4 0) = true ∧
    (d.regSync .NOC_FW_BASE_LO 1 (RName.clears .NOC_FW_BASE_LO .w1c)).mayWrite svpReq .NOC_FW_BASE_LO 1 0x10000 = true ∧
    (d.regSync .NOC_FW_BASE_LO 1 (RName.clears .NOC_FW_BASE_LO .w1c)).mayWrite appCore .NOC_FW_BASE_LO 1 0x10000 = false ∧
    ((d.regSync .NOC_FW_BASE_LO 1 (RName.clears .NOC_FW_BASE_LO .w1c)).writeTake svpReq 18 (devAddr 18 0x110) 0x110 .NOC_FW_BASE_LO 1 0x10000).resp.err = false ∧
    ((d.regSync .DMC_HCH_LO 0 (RName.clears .DMC_HCH_LO .w1c)).writeTake svpReq 20 (devAddr 20 0x10) 0x10 .DMC_HCH_LO 0 0x80).resp.err = true ∧
    target 0x4300000000 = .hole ∧ target 0x4010000010 = .hsm 0 0x10 ∧ wellFormed (.registerWrite appCore 0x4010000010 4 7) = true ∧
    d.domOn 9 = true ∧ wordWidth 0x10 4 = true ∧ d.hsmSees appCore 0 = true := by decide +kernel

/-! The hypotheses of CoreArithmeticFrame can be met. -/

theorem test_core_frame_met : wellFormed (.aIaluOp 1 0 0 5) = true ∧ wellFormed (.aMduMul 1 0 5) = true ∧
    wellFormed (.aMduDiv 1 0 5) = true ∧ wellFormed (.aFpuOp 1 0 0 5) = true ∧ wellFormed (.aFpuDivSqrt 1 0 0 5) = true := by decide

/-! The hypotheses of EngineArithmeticFrame can be met. -/

theorem test_engine_frame_met : wellFormed (.eIaluOp 1 0 0 5) = true ∧ wellFormed (.eFmacOp 1 0 0 5) = true ∧
    wellFormed (.eDsqDiv 1 0) = true ∧ wellFormed (.eDsqSqrt 1 0) = true ∧ wellFormed (.eRotOp 1 0 0) = true ∧
    wellFormed (.eSdftCfg 1 0) = true ∧ wellFormed (.eSdftUpd 1 0) = true ∧ wellFormed (.eSdftRd 1 0) = true ∧
    wellFormed (.eSdftLoad 1 0) = true := by decide

/-! The hypotheses of DramWriteFrame can be met. -/

theorem test_dram_write_met :
    wellFormed (.registerWrite svpReq 0x1000 4 5) = true ∧ (on 3).dev.fenced svpReq = false ∧ target 0x1000 = .dram ∧
    ((on 3).dev.dirAt 0x40).busy = none ∧ (List.range 9).all (fun m => ((on 3).dev.core m).sb.isEmpty) = true ∧
    (match exec (.registerWrite svpReq 0x1000 4 5) (on 3) with
     | .next t => decide (t.dev.resp.err = false) && decide (t.dev.dramByte 0x1000 = 5)
     | _ => false) = true := by decide +kernel

/-! The hypotheses of InterruptEntrySavesTheProcessor can be met. -/

theorem test_entry_saves_met :
    (let d := ((intAt 0).dev.endRunAhead 1).coreSync 1
     d.mayInt 1 = true ∧ (d.icLine 1 true).isSome = false ∧ d.debugFirst 1 = none ∧ (d.core 1).multi = none ∧
     (d.core 1).resumes (d.core 1).pc.toNat = false) ∧ wellFormed (.interruptEntry 1) = true ∧ (intAt 0).dev.coreLive 1 = true ∧
    ((intAt 0).dev.icLine 1 false).isSome = true := by decide +kernel

/-! The hypotheses of CoreMemoryOperationsComplete can be met. -/

/-- The line of address 0x1000, modified in the L2 of core 1's cluster for its world; O1 is 0x1000. -/
def restAt (f : ACore → ACore) : State := State.tweak (coreWith (fun c => f { c with latch := [(0xA0, 0x1000)] })) (fun d =>
  { d with mem := { d.mem with l2 := [(0, [(64, { st := 3, world := d.coreWorld 1 })])] } })
def restD (f : ACore → ACore) : Dev := ((restAt f).dev.coreClock 1).passFence 1

theorem at_rest (f : ACore → ACore) (h : (restAt f).dev.coreLive 1 = true)
    (n : (let c := (restAt f).dev.core 1
      c.ra = none ∧ c.fly = [] ∧ c.multi = none ∧ c.sb = [] ∧ c.cb = [] ∧ c.flush = false ∧ c.xfer = none ∧ c.progPc = none))
    (b : ((restD f).core 1).busy = []) : AtRest (restAt f).dev (restD f) 1 := by
  obtain ⟨a1, a2, a3, a4, a5, a6, a7, a8⟩ := n
  exact ⟨h, a1, a2, a3, a4, a5, a6, a7, a8, rfl, fun u => by
    unfold Dev.aFree
    rw [b]
    exact Nat.zero_le _⟩

theorem test_at_rest : AtRest (restAt id).dev (restD id) 1 := at_rest id (by decide +kernel) (by decide +kernel) (by decide +kernel)

theorem unwatched {d : Dev} {m pc : Nat} (h : d.dbgMay m = false) : Unwatched d m pc := fun a => by
  unfold Dev.watch Dev.dwpFires
  rw [h]
  rfl

theorem test_rest_watch :
    Unwatched ((restD id).noMiss 1) 1 (prevPc (restD id) 1) ∧
    Unwatched (((restD id).noMiss 1).bringLine 1 64 false).1 1 (prevPc (restD id) 1) ∧
    Unwatched (((restD id).noMiss 1).bringLine 1 64 true).1 1 (prevPc (restD id) 1) ∧
    Unwatched (((((restD id).noMiss 1).notAlone 1).bringLine 1 64 false).1) 1 (prevPc (restD id) 1) ∧
    Unwatched ((((restD id).noMiss 1).prefetchAt 1 1 (oldCode ((restD id).pc 1))).notAlone 1) 1 (prevPc (restD id) 1) :=
  ⟨unwatched (by decide +kernel), unwatched (by decide +kernel), unwatched (by decide +kernel), unwatched (by decide +kernel),
    unwatched (by decide +kernel)⟩

theorem test_rest_line :
    (∀ e, LineReady (restD id) 1 64 e) ∧ (restD id).stTE 1 = false ∧ (restD id).lvl 1 ≠ 0 ∧ (restD id).lat 1 0xA0 = 0x1000 ∧
    (let c := ((restD id).noMiss 1).notAlone 1
     c.stTE 1 = false ∧ c.lvl 1 ≠ 0 ∧ (c.core 1).cb = []) ∧
    (let c := (((restD id).noMiss 1).prefetchAt 1 1 (oldCode ((restD id).pc 1))).notAlone 1
     c.stTE 1 = false ∧ c.lvl 1 ≠ 0 ∧ (c.core 1).progPc = none) ∧ (8 : DWord).toNat % 65536 = 2 ^ 3 :=
  ⟨fun e => ⟨by decide, by cases e <;> decide +kernel, by cases e <;> decide +kernel⟩, by decide +kernel⟩

theorem in_line {d : Dev} {n : Nat} {a : AccKind} (h : d.stTE 1 = false) (l : d.lvl 1 ≠ 0) (k : n ≤ 8) :
    InLine d 1 0x1000 n a ⟨0x1000, 0⟩ :=
  ⟨Or.inl ⟨h, l, by decide, rfl⟩, rfl, rfl, by omega⟩

theorem test_rest_in_line :
    (∀ n a, n ≤ 8 → InLine (restD id) 1 0x1000 n a ⟨0x1000, 0⟩) ∧ (List.range 7).all (fun k => decide (lsuSize (0xA3 + k) ≤ 8)) = true ∧
    (List.range 4).all (fun k => decide (lsuSize (0xAA + k) ≤ 8)) = true :=
  ⟨fun _ _ k => in_line test_rest_line.2.1 test_rest_line.2.2.1 k, by decide, by decide⟩

/-- A page mapped by an L1 TLB entry. -/
def pageAt : TlbEntry := { vpage := 0x1000, glob := true, ppage := 0x1000, perm := 0xDD }

theorem test_rest_mapped : Mapped (restD (fun c => { c with sys := [(0, 0x81)], dtlb := [pageAt] })) 1 0x1000 .load (pageAt.phys 0x1000) :=
  Or.inr ⟨by decide +kernel, by decide, pageAt, by decide +kernel, by decide +kernel, by decide⟩

theorem test_at_rest_reserved : AtRest (restAt (fun c => { c with resv := some 64 })).dev (restD (fun c => { c with resv := some 64 })) 1 :=
  at_rest _ (by decide +kernel) (by decide +kernel) (by decide +kernel)

theorem test_rest_reservation :
    ((restD (fun c => { c with resv := some 64 })).core 1).resv = some 64 ∧ ((restD id).core 1).resv ≠ some 64 := by decide +kernel

/-! The hypotheses of CoreControlAndSystemComplete can be met. -/

theorem test_at_rest_frames :
    AtRest (restAt (fun c => { c with frames := [{}, {}] })).dev (restD (fun c => { c with frames := [{}, {}] })) 1 ∧
    AtRest (restAt (fun c => { c with sys := [(0, 0)] })).dev (restD (fun c => { c with sys := [(0, 0)] })) 1 ∧
    (let f := fun (c : ACore) => { c with frames := [{ lvl := 1 }], sys := [(0, 1), (0x21, 1), (0x31, 1)] }
     AtRest (restAt f).dev (restD f) 1) ∧
    (let f := fun (c : ACore) => { c with frames := [{}, { lvl := 1 }], sys := [(0, 1), (0x65, 0x1000), (0x66, 0x2000)] }
     AtRest (restAt f).dev (restD f) 1) :=
  ⟨at_rest _ (by decide +kernel) (by decide +kernel) (by decide +kernel), at_rest _ (by decide +kernel) (by decide +kernel) (by decide +kernel),
    at_rest _ (by decide +kernel) (by decide +kernel) (by decide +kernel), at_rest _ (by decide +kernel) (by decide +kernel) (by decide +kernel)⟩

theorem test_rest_control :
    (0x1000 : DWord).toNat % 16 = 0 ∧ (restD id).stQB 1 = false ∧ ((restD id).core 1).frames.length < 5 ∧
    ((restD (fun c => { c with frames := [{}, {}] })).core 1).frames.length = 2 ∧
    (restD (fun c => { c with sys := [(0, 0)] })).lvl 1 = 0 ∧ (restD id).lvl 1 ≠ 0 ∧
    (let d := restD (fun c => { c with frames := [{ lvl := 1 }], sys := [(0, 1), (0x21, 1), (0x31, 1)] })
     d.srf 1 0x31 1 0 = 1 ∧ d.lvl 1 ≠ 0 ∧ d.stDFL 1 = false ∧ d.stQB 1 = false ∧ d.srf 1 0x21 1 0 = 1) ∧
    srExists 1 ((0x10 : DWord).toNat % 4096) = true ∧ (3 : DWord).toNat % 4096 = 3 ∧ srExists 1 3 = true := by decide +kernel

theorem test_rest_flush :
    (let d := restD (fun c => { c with frames := [{}, { lvl := 1 }], sys := [(0, 1), (0x65, 0x1000), (0x66, 0x2000)] })
     d.stTE 1 = false ∧ d.sr 1 (srFsPtr 1) + recordLen ≤ d.sr 1 (srFsLim 1) ∧ d.sr 1 (srFsPtr 1) + recordLen ≤ dramSize) ∧
    ((restD id).core 1).frames = [{ lvl := 1 }] := by decide +kernel

/-! The hypotheses of FencedRequestersDrawErrors can be met. -/

theorem test_fence_met :
    (State.tweak (on 3) (fun d => { d with mem := { d.mem with deadL2 := [0] } })).dev.fenced { appCore with port := 0 } = true ∧
    (State.tweak (on 3) (fun d => d.onCore 1 (fun c => { c with dead := true }))).dev.fenced appCore = true ∧
    wellFormed (.icClaim appCore 1) = true ∧ wellFormed (.registerWrite appCore 0x1000 4 5) = true ∧
    (on 3).dev.fenced appCore = false := by decide +kernel

/-- Every domain of mode 3 is reached by the SVP and by core 1, which nothing fences. -/
theorem test_reach_met : (on 3).dev.fenced svpReq = false ∧
    (List.range 33).all (fun k => !(on 3).dev.domOn k || ((on 3).dev.reaches svpReq k && (on 3).dev.reaches appCore k)) = true := by
  decide +kernel

/-! ## Worked examples of the spec -/

/-- Table 5.3: instants at 4,800 Hz, and the absolute number of tick 2 of second 1,900,000,000. -/
theorem test_tick_instants :
    [0, 1, 2, 3, 4799, 4800].map (tickAt 4800) = [0, 208333, 416667, 625000, 999791667, 1000000000] ∧
    [0, 1, 2, 4799].map (halfAt 4800) = [104167, 312500, 520833, 999895833] ∧
    tickAt 4800 9120000000002 = 1900000000 * nsPerSec + 416667 := by decide

/-- Table 7.10: the encoding of the example bundle, both ways. -/
theorem test_bundle_example :
    let b : Bundle := ⟨1, [⟨0, 0x1FD, 1⟩, ⟨1, 2, 3⟩, ⟨6, 0xFF, 4⟩, ⟨4, 0, 0⟩, ⟨4, 0, 0⟩], 0x1234⟩
    Bundle.enc b = 0x47F40240403CFF024000020000001234 ∧ Bundle.dec 0x47F40240403CFF024000020000001234 = b := by decide +kernel

/-- The example after R388: channel, bank and row of two addresses under the default masks. -/
theorem test_dram_map_example :
    [0x12345678, 0x12385678].map (fun a => ((on 3).dev.dramChan a, (on 3).dev.dramBank a, dramRow a)) =
      [(1, 1, 0x48D), (0, 7, 0x48E)] := by decide +kernel

/-- The example after R331: EDLY of a taken branch to 0x40002000 before its second delay bundle. -/
theorem test_edly_example :
    edlyOf (some { target := 0x40002000, taken := true, left := 1, kind := 0 }) = 0x400020003 := by decide

/-- Table 17.6: DELTA of a branch sixteen bundles back. -/
theorem test_delta_example : traceDelta 0x4000100 0x40000F0 = 31 ∧ leb128 10 31 = [0x1F] := by decide

/-- A timer in up/down mode at 900, counting up, as Table 5.4 has it after TOP = 600 is written. -/
def turnAt : State := State.tweak (on 3) (fun s =>
  [(0x104, 1000), (0x108, 900), (0x130, 2), (0x100, 3), (0x104, 600)].foldl (fun s w => s.writeAt svpReq (devAddr 6 w.1) 4 w.2) s)

/-- Table 5.4, cycle 1: the timer turns, counts 899 down, and sets TURN and SHORTTOP. -/
theorem test_timer_turn_example :
    (match exec (.timerCount 0) turnAt with
     | .next t => [(t.dev.rd .TMR_CNT 0).toNat, t.dev.fg F.TMR_STAT_TURN 0, t.dev.fg F.TMR_STAT_SHORTTOP 0, t.dev.fg F.TMR_STAT_DIR 0]
     | _ => []) = [899, 1, 1, 1] := by decide +kernel

/-! ## Form: every check of WellFormed refuses an ill-formed command -/

def badReq : Req := { port := 18, world := 0 }
def badHdr : CmdHdr := { ring := 16, tag := 0, seq := 0, world := 0, fence := false }
def badRef : BulkRef := { addr := 2 ^ 64, length := 64, digest := 0 }

theorem test_form_parts :
    Req.ok { port := 0, world := 3 } = false ∧ Req.ok { port := 0, world := 0, core := some 8 } = false ∧
    CmdHdr.ok { ring := 0, tag := 65536, seq := 0 } = false ∧ CmdHdr.ok { ring := 0, tag := 0, seq := 2 ^ 32 } = false ∧
    CmdHdr.ok { ring := 0, tag := 0, seq := 0, world := 2 } = false ∧ BulkRef.ok { addr := 0, length := 2 ^ 64, digest := 0 } = false ∧
    badReq.ok = false ∧ badHdr.ok = false ∧ badRef.ok = false := by decide

/-- Every check of a request to a home slice; a fill or a write-back comes from a cluster alone. -/
theorem test_form_home :
    List.all ([⟨18, 0, 2, 0, 0, 0⟩, ⟨0, 3, 2, 0, 0, 0⟩, ⟨0, 0, 6, 0, 0, 0⟩, ⟨0, 0, 2, 268435456, 0, 0⟩, ⟨2, 0, 0, 0, 0, 0⟩, ⟨2, 0, 1, 0, 0, 0⟩,
      ⟨2, 0, 4, 0, 0, 0⟩] : List HomeReq) (fun r => !wellFormed (.homeSliceRequest r)) = true := by decide

/-- An ill-formed command faults as a command to no unit, and a step on it faults. -/
theorem test_form_fault : exec (.wake 9) (on 3) = .fault .noUnit ∧
    step { on 3 with pending := [.wake 9] } = .fault .noUnit := ⟨rfl, rfl⟩

/-- Family Power: each command in form, and refused for each of its checks. -/
theorem test_form_1 :
    List.all ([
      (.pwrHuack svpReq 0, [.pwrHuack badReq 0]),
      (.holdupDrainWindowEnd [], [.holdupDrainWindowEnd [8]]),
      (.pwrDon svpReq 0 0, [.pwrDon badReq 0 0, .pwrDon svpReq 2 0]),
      (.pwrDoff svpReq 0 0, [.pwrDoff badReq 0 0, .pwrDoff svpReq 2 0])] : List (Instr × List Instr))
      (fun p => wellFormed p.1 && p.2.all (fun i => !wellFormed i)) = true := by decide

/-- Family Supervisor: each command in form, and refused for each of its checks. -/
theorem test_form_2 :
    List.all ([
      (.lockstepMismatch 0, [.lockstepMismatch 8])] : List (Instr × List Instr))
      (fun p => wellFormed p.1 && p.2.all (fun i => !wellFormed i)) = true := by decide

/-- Family Rings: each command in form, and refused for each of its checks. -/
theorem test_form_3 :
    List.all ([
      (.cmdDb svpReq 0 0, [.cmdDb badReq 0 0, .cmdDb svpReq 16 0]),
      (.cmdPhead svpReq 0 0, [.cmdPhead badReq 0 0, .cmdPhead svpReq 16 0]),
      (.cmdRseq svpReq 0 0, [.cmdRseq badReq 0 0, .cmdRseq svpReq 16 0]),
      (.cmdRctlRst svpReq 0 0, [.cmdRctlRst badReq 0 0, .cmdRctlRst svpReq 16 0])] : List (Instr × List Instr))
      (fun p => wellFormed p.1 && p.2.all (fun i => !wellFormed i)) = true := by decide

/-- Family Commands: each command in form, and refused for each of its checks. -/
theorem test_form_4 :
    List.all ([
      (.modeSet (cmdHdr 0) 0, [.modeSet badHdr 0, .modeSet (cmdHdr 0) 256]),
      (.modeGet (cmdHdr 0), [.modeGet badHdr]),
      (.domainOn (cmdHdr 0) 0, [.domainOn badHdr 0]),
      (.domainOff (cmdHdr 0) 0, [.domainOff badHdr 0]),
      (.worldAssign (cmdHdr 0) 0 0 0, [.worldAssign badHdr 0 0 0, .worldAssign (cmdHdr 0) 256 0 0, .worldAssign (cmdHdr 0) 0 256 0, .worldAssign (cmdHdr 0) 0 0 256]),
      (.worldStart (cmdHdr 0) 0 0, [.worldStart badHdr 0 0, .worldStart (cmdHdr 0) 256 0]),
      (.worldRegion (cmdHdr 0) 0 0 0 0, [.worldRegion badHdr 0 0 0 0, .worldRegion (cmdHdr 0) 256 0 0 0, .worldRegion (cmdHdr 0) 0 256 0 0]),
      (.worldRingcfg (cmdHdr 0) 0 0 0, [.worldRingcfg badHdr 0 0 0, .worldRingcfg (cmdHdr 0) 256 0 0, .worldRingcfg (cmdHdr 0) 0 256 0, .worldRingcfg (cmdHdr 0) 0 0 256]),
      (.castLoad (cmdHdr 0) 0 (refOf []), [.castLoad badHdr 0 (refOf []), .castLoad (cmdHdr 0) 256 (refOf []), .castLoad (cmdHdr 0) 0 badRef]),
      (.castHalt (cmdHdr 0) 0, [.castHalt badHdr 0, .castHalt (cmdHdr 0) 256]),
      (.castRun (cmdHdr 0) 0, [.castRun badHdr 0, .castRun (cmdHdr 0) 256]),
      (.bindSet (cmdHdr 0) 0 0 0 0 0, [.bindSet badHdr 0 0 0 0 0, .bindSet (cmdHdr 0) 256 0 0 0 0, .bindSet (cmdHdr 0) 0 256 0 0 0, .bindSet (cmdHdr 0) 0 0 256 0 0, .bindSet (cmdHdr 0) 0 0 0 65536 0, .bindSet (cmdHdr 0) 0 0 0 0 256]),
      (.bindClear (cmdHdr 0) 0 0, [.bindClear badHdr 0 0, .bindClear (cmdHdr 0) 256 0, .bindClear (cmdHdr 0) 0 256]),
      (.streamTable (cmdHdr 0) (refOf []), [.streamTable badHdr (refOf []), .streamTable (cmdHdr 0) badRef]),
      (.streamEnable (cmdHdr 0) 0 0, [.streamEnable badHdr 0 0, .streamEnable (cmdHdr 0) 65536 0, .streamEnable (cmdHdr 0) 0 256]),
      (.streamSimsel (cmdHdr 0) 0 0, [.streamSimsel badHdr 0 0, .streamSimsel (cmdHdr 0) 65536 0, .streamSimsel (cmdHdr 0) 0 256]),
      (.combConfig (cmdHdr 0) 0 0 0 0, [.combConfig badHdr 0 0 0 0, .combConfig (cmdHdr 0) 65536 0 0 0, .combConfig (cmdHdr 0) 0 65536 0 0, .combConfig (cmdHdr 0) 0 0 256 0, .combConfig (cmdHdr 0) 0 0 0 256]),
      (.setsStage (cmdHdr 0) 0 (refOf []), [.setsStage badHdr 0 (refOf []), .setsStage (cmdHdr 0) 0 badRef]),
      (.pourGroup (cmdHdr 0) 0 0, [.pourGroup badHdr 0 0, .pourGroup (cmdHdr 0) 256 0]),
      (.pourArm (cmdHdr 0) 0 0, [.pourArm badHdr 0 0, .pourArm (cmdHdr 0) 256 0]),
      (.pourDisarm (cmdHdr 0) 0, [.pourDisarm badHdr 0, .pourDisarm (cmdHdr 0) 256]),
      (.tripgatePair (cmdHdr 0) 0 0 0 0, [.tripgatePair badHdr 0 0 0 0, .tripgatePair (cmdHdr 0) 256 0 0 0, .tripgatePair (cmdHdr 0) 0 256 0 0, .tripgatePair (cmdHdr 0) 0 0 4294967296 0, .tripgatePair (cmdHdr 0) 0 0 0 256]),
      (.tripgateSolo (cmdHdr 0) 0 0, [.tripgateSolo badHdr 0 0, .tripgateSolo (cmdHdr 0) 256 0, .tripgateSolo (cmdHdr 0) 0 256]),
      (.tripgateMap (cmdHdr 0) (refOf []), [.tripgateMap badHdr (refOf []), .tripgateMap (cmdHdr 0) badRef])] : List (Instr × List Instr))
      (fun p => wellFormed p.1 && p.2.all (fun i => !wellFormed i)) = true := by decide

/-- Family Commands: each command in form, and refused for each of its checks. -/
theorem test_form_5 :
    List.all ([
      (.publishTable (cmdHdr 0) (refOf []), [.publishTable badHdr (refOf []), .publishTable (cmdHdr 0) badRef]),
      (.publishEnable (cmdHdr 0) 0 0, [.publishEnable badHdr 0 0, .publishEnable (cmdHdr 0) 256 0, .publishEnable (cmdHdr 0) 0 256]),
      (.timeSource (cmdHdr 0) (List.replicate 8 0), [.timeSource badHdr (List.replicate 8 0), .timeSource (cmdHdr 0) [], .timeSource (cmdHdr 0) (List.replicate 8 256)]),
      (.timeFreerun (cmdHdr 0) 0, [.timeFreerun badHdr 0, .timeFreerun (cmdHdr 0) 256]),
      (.timeRate (cmdHdr 0) 0, [.timeRate badHdr 0, .timeRate (cmdHdr 0) 256]),
      (.timeUtcofs (cmdHdr 0) 0, [.timeUtcofs badHdr 0]),
      (.journalMark (cmdHdr 0) (List.replicate 32 0), [.journalMark badHdr (List.replicate 32 0), .journalMark (cmdHdr 0) []]),
      (.journalSeal (cmdHdr 0) 0, [.journalSeal badHdr 0, .journalSeal (cmdHdr 0) 4294967296]),
      (.journalTrigger (cmdHdr 0) 0 0, [.journalTrigger badHdr 0 0, .journalTrigger (cmdHdr 0) 256 0, .journalTrigger (cmdHdr 0) 0 65536]),
      (.keysRevoke (cmdHdr 0) 0 (refOf []), [.keysRevoke badHdr 0 (refOf []), .keysRevoke (cmdHdr 0) 256 (refOf []), .keysRevoke (cmdHdr 0) 0 badRef]),
      (.keysArb (cmdHdr 0) 0 (refOf []), [.keysArb badHdr 0 (refOf []), .keysArb (cmdHdr 0) 256 (refOf []), .keysArb (cmdHdr 0) 0 badRef]),
      (.keysSealput (cmdHdr 0) 0 (refOf []), [.keysSealput badHdr 0 (refOf []), .keysSealput (cmdHdr 0) 256 (refOf []), .keysSealput (cmdHdr 0) 0 badRef]),
      (.lifeGo (cmdHdr 0) 0 (refOf []), [.lifeGo badHdr 0 (refOf []), .lifeGo (cmdHdr 0) 256 (refOf []), .lifeGo (cmdHdr 0) 0 badRef]),
      (.healthThresh (cmdHdr 0) 0 0 0, [.healthThresh badHdr 0 0 0, .healthThresh (cmdHdr 0) 256 0 0]),
      (.healthPolicy (cmdHdr 0) 0 0, [.healthPolicy badHdr 0 0, .healthPolicy (cmdHdr 0) 256 0, .healthPolicy (cmdHdr 0) 0 256]),
      (.healthRead (cmdHdr 0) 0, [.healthRead badHdr 0, .healthRead (cmdHdr 0) 256]),
      (.resetRing (cmdHdr 0) 0, [.resetRing badHdr 0, .resetRing (cmdHdr 0) 256]),
      (.resetHive (cmdHdr 0) 0, [.resetHive badHdr 0, .resetHive (cmdHdr 0) 256]),
      (.resetCore (cmdHdr 0) 0, [.resetCore badHdr 0, .resetCore (cmdHdr 0) 256]),
      (.resetModule (cmdHdr 0), [.resetModule badHdr]),
      (.debugEngbrk (cmdHdr 0) 0 0 0 0, [.debugEngbrk badHdr 0 0 0 0, .debugEngbrk (cmdHdr 0) 256 0 0 0, .debugEngbrk (cmdHdr 0) 0 256 0 0, .debugEngbrk (cmdHdr 0) 0 0 65536 0, .debugEngbrk (cmdHdr 0) 0 0 0 256]),
      (.debugStep (cmdHdr 0) 0 0, [.debugStep badHdr 0 0, .debugStep (cmdHdr 0) 256 0, .debugStep (cmdHdr 0) 0 65536])] : List (Instr × List Instr))
      (fun p => wellFormed p.1 && p.2.all (fun i => !wellFormed i)) = true := by decide

/-- Family Time: each command in form, and refused for each of its checks. -/
theorem test_form_6 :
    List.all ([
      (.tmbMeas svpReq 0, [.tmbMeas badReq 0]),
      (.timeSourceLoss 0, [.timeSourceLoss 256])] : List (Instr × List Instr))
      (fun p => wellFormed p.1 && p.2.all (fun i => !wellFormed i)) = true := by decide

/-- Family Tick: each command in form, and refused for each of its checks. -/
theorem test_form_7 :
    List.all ([
      (.tkgCtlArm svpReq 0, [.tkgCtlArm badReq 0])] : List (Instr × List Instr))
      (fun p => wellFormed p.1 && p.2.all (fun i => !wellFormed i)) = true := by decide

/-- Family Timers: each command in form, and refused for each of its checks. -/
theorem test_form_8 :
    List.all ([
      (.timerCount 0, [.timerCount 16]),
      (.tmrCntRead svpReq 0, [.tmrCntRead badReq 0, .tmrCntRead svpReq 16]),
      (.tsuSwtrig svpReq 0 0, [.tsuSwtrig badReq 0 0, .tsuSwtrig svpReq 2 0])] : List (Instr × List Instr))
      (fun p => wellFormed p.1 && p.2.all (fun i => !wellFormed i)) = true := by decide

/-- Family Ingest: each command in form, and refused for each of its checks. -/
theorem test_form_9 :
    List.all ([
      (.svFrame 0 (svOf 100 7 false none), [.svFrame 4 (svOf 100 7 false none)]),
      (.gooseFrame 0 (gooseOf 5 9), [.gooseFrame 4 (gooseOf 5 9)]),
      (.validityWindowClose 0, [.validityWindowClose 256]),
      (.combWindowRead svpReq 0 0, [.combWindowRead badReq 0 0, .combWindowRead svpReq 4294967296 0, .combWindowRead svpReq 0 33])] : List (Instr × List Instr))
      (fun p => wellFormed p.1 && p.2.all (fun i => !wellFormed i)) = true := by decide

/-- Family EngineIssue: each command in form, and refused for each of its checks. -/
theorem test_form_10 :
    List.all ([
      (.eBundle 0, [.eBundle 64]),
      (.operationComplete 0 0, [.operationComplete 73 0])] : List (Instr × List Instr))
      (fun p => wellFormed p.1 && p.2.all (fun i => !wellFormed i)) = true := by decide

/-- Family EngineUnits: each command in form, and refused for each of its checks. -/
theorem test_form_11 :
    List.all ([
      (.eIaluOp 0 0 0 0, [.eIaluOp 64 0 0 0, .eIaluOp 0 2 0 0, .eIaluOp 0 0 18 0]),
      (.eFmacOp 0 0 0 0, [.eFmacOp 64 0 0 0, .eFmacOp 0 2 0 0, .eFmacOp 0 0 15 0]),
      (.eDsqDiv 0 0, [.eDsqDiv 64 0]),
      (.eDsqSqrt 0 0, [.eDsqSqrt 64 0]),
      (.eRotOp 0 0 0, [.eRotOp 64 0 0, .eRotOp 0 3 0]),
      (.eSdftCfg 0 0, [.eSdftCfg 64 0]),
      (.eSdftUpd 0 0, [.eSdftUpd 64 0]),
      (.eSdftRd 0 0, [.eSdftRd 64 0]),
      (.eSdftLoad 0 0, [.eSdftLoad 64 0]),
      (.eLoopArm 0 0 0, [.eLoopArm 64 0 0, .eLoopArm 0 2 0]),
      (.eLoopClr 0 0, [.eLoopClr 64 0]),
      (.eJmp 0 0, [.eJmp 64 0]),
      (.eCall 0 0, [.eCall 64 0]),
      (.eBranch 0 0 0, [.eBranch 64 0 0, .eBranch 0 4 0]),
      (.eDone 0 0, [.eDone 64 0]),
      (.eTrip 0 0, [.eTrip 64 0]),
      (.eEvt 0 0, [.eEvt 64 0])] : List (Instr × List Instr))
      (fun p => wellFormed p.1 && p.2.all (fun i => !wellFormed i)) = true := by decide

/-- Family EngineMem: each command in form, and refused for each of its checks. -/
theorem test_form_12 :
    List.all ([
      (.eDmaGet 0 0, [.eDmaGet 64 0]),
      (.eDmaPut 0 0, [.eDmaPut 64 0]),
      (.eDmaStat 0 0, [.eDmaStat 64 0]),
      (.dmaTransferEnd 0 false, [.dmaTransferEnd 8 false]),
      (.eLsuLoad 0 0 0, [.eLsuLoad 64 0 0, .eLsuLoad 0 3 0]),
      (.eLsuStore 0 0 0, [.eLsuStore 64 0 0, .eLsuStore 0 3 0]),
      (.eSetRead 0 0 0, [.eSetRead 64 0 0, .eSetRead 0 3 0]),
      (.eHsmLoad 0 0 0, [.eHsmLoad 64 0 0, .eHsmLoad 0 3 0]),
      (.eHsmStore 0 0 0, [.eHsmStore 64 0 0, .eHsmStore 0 3 0]),
      (.eHsmMail 0 0, [.eHsmMail 64 0]),
      (.eCmbRead 0 0, [.eCmbRead 64 0])] : List (Instr × List Instr))
      (fun p => wellFormed p.1 && p.2.all (fun i => !wellFormed i)) = true := by decide

/-- Family EngineSched: each command in form, and refused for each of its checks. -/
theorem test_form_13 :
    List.all ([
      (.hiveMail 0, [.hiveMail 64]),
      (.hivMail svpReq 0 0, [.hivMail badReq 0 0, .hivMail svpReq 8 0]),
      (.contextSwitch 0, [.contextSwitch 64]),
      (.peCtlHalt svpReq 0 0, [.peCtlHalt badReq 0 0, .peCtlHalt svpReq 64 0]),
      (.peCtlRun svpReq 0 0, [.peCtlRun badReq 0 0, .peCtlRun svpReq 64 0]),
      (.engineStart 0, [.engineStart 64]),
      (.programMemoryWrite svpReq 0 0 0 0, [.programMemoryWrite badReq 0 0 0 0, .programMemoryWrite svpReq 64 0 0 0, .programMemoryWrite svpReq 0 4294967296 0 0, .programMemoryWrite svpReq 0 0 33 0]),
      (.peDbgRelease svpReq 0 0, [.peDbgRelease badReq 0 0, .peDbgRelease svpReq 64 0])] : List (Instr × List Instr))
      (fun p => wellFormed p.1 && p.2.all (fun i => !wellFormed i)) = true := by decide

/-- Family Pour: each command in form, and refused for each of its checks. -/
theorem test_form_14 :
    List.all ([
      (.setPgArm svpReq 0 0, [.setPgArm badReq 0 0, .setPgArm svpReq 16 0]),
      (.shadowBankWrite svpReq 0 0 0 0, [.shadowBankWrite badReq 0 0 0 0, .shadowBankWrite svpReq 64 0 0 0, .shadowBankWrite svpReq 0 4294967296 0 0, .shadowBankWrite svpReq 0 0 33 0]),
      (.setValid svpReq 0 0, [.setValid badReq 0 0, .setValid svpReq 2 0])] : List (Instr × List Instr))
      (fun p => wellFormed p.1 && p.2.all (fun i => !wellFormed i)) = true := by decide

/-- Family TripGate: each command in form, and refused for each of its checks. -/
theorem test_form_15 :
    List.all ([
      (.publishPoint 0, [.publishPoint 32]),
      (.gooseRetransmission 0, [.gooseRetransmission 128])] : List (Instr × List Instr))
      (fun p => wellFormed p.1 && p.2.all (fun i => !wellFormed i)) = true := by decide

/-- Family Journal: each command in form, and refused for each of its checks. -/
theorem test_form_16 :
    List.all ([
      (.mramScrub 0, [.mramScrub 3]),
      (.journalWindowRead svpReq 0 0, [.journalWindowRead badReq 0 0, .journalWindowRead svpReq 4294967296 0, .journalWindowRead svpReq 0 33])] : List (Instr × List Instr))
      (fun p => wellFormed p.1 && p.2.all (fun i => !wellFormed i)) = true := by decide

/-- Family Interrupts: each command in form, and refused for each of its checks. -/
theorem test_form_17 :
    List.all ([
      (.icAssign 0, [.icAssign 1024]),
      (.icClaim svpReq 0, [.icClaim badReq 0, .icClaim svpReq 9]),
      (.icQclaim svpReq 0, [.icQclaim badReq 0, .icQclaim svpReq 9]),
      (.icCompl svpReq 0 0, [.icCompl badReq 0 0, .icCompl svpReq 9 0]),
      (.icRearm svpReq 0, [.icRearm badReq 0]),
      (.icPset svpReq 0 0, [.icPset badReq 0 0, .icPset svpReq 32 0])] : List (Instr × List Instr))
      (fun p => wellFormed p.1 && p.2.all (fun i => !wellFormed i)) = true := by decide

/-- Family CoreSystem: each command in form, and refused for each of its checks. -/
theorem test_form_18 :
    List.all ([
      (.interruptEntry 0, [.interruptEntry 9]),
      (.quickInterruptEntry 0, [.quickInterruptEntry 9]),
      (.wake 0, [.wake 9]),
      (.aSyscall 0 0, [.aSyscall 9 0]),
      (.aSysret 0 0, [.aSysret 9 0]),
      (.aEret 0 0, [.aEret 9 0]),
      (.aSruRd 0 0, [.aSruRd 9 0]),
      (.aSruWr 0 0, [.aSruWr 9 0]),
      (.aSruSet 0 0, [.aSruSet 9 0]),
      (.aSruClr 0 0, [.aSruClr 9 0]),
      (.aFlushw 0 0, [.aFlushw 9 0]),
      (.aSleep 0 0, [.aSleep 9 0]),
      (.aTlbiva 0 0, [.aTlbiva 9 0]),
      (.aTlbiasid 0 0, [.aTlbiasid 9 0]),
      (.aTlbiall 0 0, [.aTlbiall 9 0]),
      (.frameSpill 0, [.frameSpill 9]),
      (.frameFill 0, [.frameFill 9])] : List (Instr × List Instr))
      (fun p => wellFormed p.1 && p.2.all (fun i => !wellFormed i)) = true := by decide

/-- Family Watchdogs: each command in form, and refused for each of its checks. -/
theorem test_form_19 :
    List.all ([
      (.wdgSvc svpReq 0 0, [.wdgSvc badReq 0 0, .wdgSvc svpReq 10 0]),
      (.wdgWarning 0, [.wdgWarning 10]),
      (.wdgExpiry 0, [.wdgExpiry 10]),
      (.wdgLock svpReq 0 0, [.wdgLock badReq 0 0, .wdgLock svpReq 10 0])] : List (Instr × List Instr))
      (fun p => wellFormed p.1 && p.2.all (fun i => !wellFormed i)) = true := by decide

/-- Family CoreIssue: each command in form, and refused for each of its checks. -/
theorem test_form_20 :
    List.all ([
      (.aBundle 0, [.aBundle 9]),
      (.runAheadEnd 0, [.runAheadEnd 9])] : List (Instr × List Instr))
      (fun p => wellFormed p.1 && p.2.all (fun i => !wellFormed i)) = true := by decide

/-- Family CoreUnits: each command in form, and refused for each of its checks. -/
theorem test_form_21 :
    List.all ([
      (.aIaluOp 0 0 0 0, [.aIaluOp 9 0 0 0, .aIaluOp 0 2 0 0, .aIaluOp 0 0 23 0]),
      (.aMduMul 0 0 0, [.aMduMul 9 0 0, .aMduMul 0 4 0]),
      (.aMduDiv 0 0 0, [.aMduDiv 9 0 0, .aMduDiv 0 2 0]),
      (.aFpuOp 0 0 0 0, [.aFpuOp 9 0 0 0, .aFpuOp 0 1 0 0, .aFpuOp 0 0 20 0]),
      (.aFpuDivSqrt 0 0 0 0, [.aFpuDivSqrt 9 0 0 0, .aFpuDivSqrt 0 1 0 0, .aFpuDivSqrt 0 0 2 0]),
      (.aJmp 0 0, [.aJmp 9 0]),
      (.aCall 0 0, [.aCall 9 0]),
      (.aRet 0 0, [.aRet 9 0]),
      (.aBranch 0 0 0, [.aBranch 9 0 0, .aBranch 0 4 0])] : List (Instr × List Instr))
      (fun p => wellFormed p.1 && p.2.all (fun i => !wellFormed i)) = true := by decide

/-- Family CoreMem: each command in form, and refused for each of its checks. -/
theorem test_form_22 :
    List.all ([
      (.aLoad 0 0 0 0, [.aLoad 9 0 0 0, .aLoad 0 1 0 0, .aLoad 0 0 7 0]),
      (.aStore 0 0 0 0, [.aStore 9 0 0 0, .aStore 0 1 0 0, .aStore 0 0 4 0]),
      (.aStnt 0 0, [.aStnt 9 0]),
      (.aLdx 0 0, [.aLdx 9 0]),
      (.aStx 0 0, [.aStx 9 0]),
      (.aAtomic 0 0 0, [.aAtomic 9 0 0, .aAtomic 0 8 0]),
      (.aLdm 0 0, [.aLdm 9 0]),
      (.aStm 0 0, [.aStm 9 0]),
      (.aFenceL 0 0, [.aFenceL 9 0]),
      (.aFenceS 0 0, [.aFenceS 9 0]),
      (.aFenceLs 0 0, [.aFenceLs 9 0]),
      (.aIfence 0 0, [.aIfence 9 0]),
      (.aDccln 0 0, [.aDccln 9 0]),
      (.aDcinv 0 0, [.aDcinv 9 0]),
      (.aDcci 0 0, [.aDcci 9 0]),
      (.aIcinv 0 0, [.aIcinv 9 0]),
      (.aPref 0 0, [.aPref 9 0]),
      (.storePerformed 0 0, [.storePerformed 9 0]),
      (.combiningWriteOut 0, [.combiningWriteOut 9])] : List (Instr × List Instr))
      (fun p => wellFormed p.1 && p.2.all (fun i => !wellFormed i)) = true := by decide

/-- Family Coherence: each command in form, and refused for each of its checks. -/
theorem test_form_23 :
    List.all ([
      (.snoop 0 0 0, [.snoop 2 0 0, .snoop 0 268435456 0, .snoop 0 0 2]),
      (.lineHoldEnd 0, [.lineHoldEnd 268435456]),
      (.deadAgent 0, [.deadAgent 10])] : List (Instr × List Instr))
      (fun p => wellFormed p.1 && p.2.all (fun i => !wellFormed i)) = true := by decide

/-- Family Fabric: each command in form, and refused for each of its checks. -/
theorem test_form_24 :
    List.all ([
      (.nocFwWrite svpReq 0 0 0, [.nocFwWrite badReq 0 0 0, .nocFwWrite svpReq 16 0 0, .nocFwWrite svpReq 0 4 0]),
      (.dramRequest 0 0 false false 0, [.dramRequest 18 0 false false 0, .dramRequest 0 17179869184 false false 0, .dramRequest 0 0 false false 4294967296]),
      (.dramCommandIssue 0 0 0, [.dramCommandIssue 2 0 0, .dramCommandIssue 0 0 3]),
      (.refresh 0, [.refresh 2]),
      (.activateTableClear 0, [.activateTableClear 2]),
      (.rowIdleClose 0 0, [.rowIdleClose 2 0, .rowIdleClose 0 16]),
      (.patrolScrub 0 0, [.patrolScrub 2 0, .patrolScrub 0 3]),
      (.dmcMaskWrite svpReq 16 0, [.dmcMaskWrite badReq 16 0, .dmcMaskWrite svpReq 56 0, .dmcMaskWrite svpReq 12 0, .dmcMaskWrite svpReq 18 0])] : List (Instr × List Instr))
      (fun p => wellFormed p.1 && p.2.all (fun i => !wellFormed i)) = true := by decide

/-- Family Ethernet: each command in form, and refused for each of its checks. -/
theorem test_form_25 :
    List.all ([
      (.ethReceive 0 (ethOf .pause), [.ethReceive 4 (ethOf .pause)]),
      (.ethTransmit 0, [.ethTransmit 4]),
      (.linkChange 0 ⟨false, false⟩, [.linkChange 4 ⟨false, false⟩]),
      (.ethTxtail svpReq 0 0, [.ethTxtail badReq 0 0, .ethTxtail svpReq 4 0]),
      (.ethRxtail svpReq 0 0, [.ethRxtail badReq 0 0, .ethRxtail svpReq 4 0]),
      (.duplicateEntryExpiry 0, [.duplicateEntryExpiry 2]),
      (.supervisionFrame 0, [.supervisionFrame 2]),
      (.hsrForward 0, [.hsrForward 4]),
      (.frameTransmissionComplete 0, [.frameTransmissionComplete 4]),
      (.ptpInterval 0 0, [.ptpInterval 4 0, .ptpInterval 0 5])] : List (Instr × List Instr))
      (fun p => wellFormed p.1 && p.2.all (fun i => !wellFormed i)) = true := by decide

/-- Family BayLinks: each command in form, and refused for each of its checks. -/
theorem test_form_26 :
    List.all ([
      (.tickFrame 0, [.tickFrame 4]),
      (.cardFrame 0 (cardOf true), [.cardFrame 4 (cardOf true)]),
      (.linkLoss 0, [.linkLoss 4]),
      (.symbolLockLoss 0, [.symbolLockLoss 4]),
      (.symbolLockAcquired 0, [.symbolLockAcquired 4])] : List (Instr × List Instr))
      (fun p => wellFormed p.1 && p.2.all (fun i => !wellFormed i)) = true := by decide

/-- Family DebugPort: each command in form, and refused for each of its checks. -/
theorem test_form_27 :
    List.all ([
      (.zdpRead4 false false 0 0, [.zdpRead4 false false 4 0, .zdpRead4 false false 0 1099511627776]),
      (.zdpWrite4 false false 0 0 0, [.zdpWrite4 false false 4 0 0, .zdpWrite4 false false 0 1099511627776 0]),
      (.zdpRead8 false false 0 0, [.zdpRead8 false false 4 0, .zdpRead8 false false 0 1099511627776]),
      (.zdpWrite8 false false 0 0 0, [.zdpWrite8 false false 4 0 0, .zdpWrite8 false false 0 1099511627776 0]),
      (.zdpMbwr 0 0, [.zdpMbwr 64 0]),
      (.zdpMbrd 0, [.zdpMbrd 64]),
      (.zdpMbgo 0, [.zdpMbgo 256]),
      (.dbgCreqStop svpReq 0 0, [.dbgCreqStop badReq 0 0, .dbgCreqStop svpReq 8 0]),
      (.dbgDtxWrite svpReq 0 0, [.dbgDtxWrite badReq 0 0, .dbgDtxWrite svpReq 8 0]),
      (.dbgDtxRead svpReq 0, [.dbgDtxRead badReq 0, .dbgDtxRead svpReq 8]),
      (.dbgDrxWrite svpReq 0 0, [.dbgDrxWrite badReq 0 0, .dbgDrxWrite svpReq 8 0]),
      (.dbgDrxRead svpReq 0, [.dbgDrxRead badReq 0, .dbgDrxRead svpReq 8]),
      (.trcClear svpReq 0, [.trcClear badReq 0]),
      (.trcSw svpReq 0 0, [.trcSw badReq 0 0, .trcSw svpReq 8 0])] : List (Instr × List Instr))
      (fun p => wellFormed p.1 && p.2.all (fun i => !wellFormed i)) = true := by decide

/-- Family Health: each command in form, and refused for each of its checks. -/
theorem test_form_28 :
    List.all ([
      (.hltSample 0 0, [.hltSample 75 0]),
      (.errValidClear svpReq 0 0, [.errValidClear badReq 0 0, .errValidClear svpReq 42 0])] : List (Instr × List Instr))
      (fun p => wellFormed p.1 && p.2.all (fun i => !wellFormed i)) = true := by decide

/-- Family Access: each command in form, and refused for each of its checks. -/
theorem test_form_29 :
    List.all ([
      (.reg64LoRead svpReq 0, [.reg64LoRead badReq 0, .reg64LoRead svpReq 1099511627776]),
      (.reg64HiRead svpReq 0, [.reg64HiRead badReq 0, .reg64HiRead svpReq 1099511627776]),
      (.readClearsRead svpReq 0, [.readClearsRead badReq 0, .readClearsRead svpReq 1099511627776]),
      (.registerWrite svpReq 0 0 0, [.registerWrite badReq 0 0 0, .registerWrite svpReq 1099511627776 0 0, .registerWrite svpReq 0 33 0])] : List (Instr × List Instr))
      (fun p => wellFormed p.1 && p.2.all (fun i => !wellFormed i)) = true := by decide


end Sys2Proof.Tests
end

section
/-!
PROOFS. Register and window accesses (00 R2 to R5, 02 R34, 14 R373): what a read and a write answer for each way in which the
address, the register's domain and its rules meet the requester; and the state after reset (00 R8).
-/

namespace Sys2Proof.Machine

/-! ## The access commands -/

/-- REG64_LO_READ answers what the read answers. -/
theorem exec_reg64LoRead {s : State} {rq : Req} {addr : Nat} {d : Dev} (hw : wellFormed (.reg64LoRead rq addr) = true)
    (hd : s.dev.readAt rq addr 4 = d) : exec (.reg64LoRead rq addr) s = .next { s with dev := d } :=
  exec_eq (f := (·.readAt rq addr 4)) rfl hw hd

/-- REG64_HI_READ answers what the read answers. -/
theorem exec_reg64HiRead {s : State} {rq : Req} {addr : Nat} {d : Dev} (hw : wellFormed (.reg64HiRead rq addr) = true)
    (hd : s.dev.readAt rq addr 4 = d) : exec (.reg64HiRead rq addr) s = .next { s with dev := d } :=
  exec_eq (f := (·.readAt rq addr 4)) rfl hw hd

/-- READ_CLEARS_READ answers what the read answers. -/
theorem exec_readClearsRead {s : State} {rq : Req} {addr : Nat} {d : Dev} (hw : wellFormed (.readClearsRead rq addr) = true)
    (hd : s.dev.readAt rq addr 4 = d) : exec (.readClearsRead rq addr) s = .next { s with dev := d } :=
  exec_eq (f := (·.readAt rq addr 4)) rfl hw hd

/-- REGISTER_WRITE answers what the write answers. -/
theorem exec_registerWrite {s : State} {rq : Req} {addr size : Nat} {v : Word} {d : Dev}
    (hw : wellFormed (.registerWrite rq addr size v) = true) (hd : s.dev.writeAt rq addr size v.toNat = d) :
    exec (.registerWrite rq addr size v) s = .next { s with dev := d } :=
  exec_eq (f := (·.writeAt rq addr size v.toNat)) rfl hw hd

/-! ## What a plain read does with latches and read-clears fields (R2, R5) -/

/-- No half of a 64-bit pair reads a free value. -/
theorem RName.half_draws_nothing {r : RName} (h : r.hiHalf.isSome = true ∨ r.loHalf.isSome = true) :
    (decide (r = .PWR_INPUT) || decide (r = .NOC_MAXWAIT)) = false := by
  have hp : r ≠ .PWR_INPUT := by rintro rfl; simp [RName.hiHalf, RName.loHalf] at h
  have hn : r ≠ .NOC_MAXWAIT := by rintro rfl; simp [RName.hiHalf, RName.loHalf] at h
  simp [hp, hn]

/-- A read of a register without read-clears fields clears nothing, whether it is a PEEK read or not. -/
theorem Dev.cond_readClear_none {r : RName} (h : r.mask (fun a => decide (a = .rc)) = 0) (s : Dev) (b : Bool) (i : Nat) :
    s.cond b (fun s => s.readClear r i) = s := by
  cases b
  · exact Dev.cond_false s _
  · exact if_pos h

/-- A read of a register with read-clears fields puts them back to their reset values. -/
theorem Dev.readClear_some {r : RName} (h : r.mask (fun a => decide (a = .rc)) ≠ 0) (s : Dev) (i : Nat) :
    s.readClear r i = s.wr r i ((s.rd r i &&& ~~~(r.mask (fun a => decide (a = .rc)))) |||
      (r.reset i &&& r.mask (fun a => decide (a = .rc)))) := if_neg h

/-- A low half answers, and latches its high half for the port. -/
theorem Dev.readPlain_lo {r h : RName} (hh : r.hiHalf = some h) (hl : r.loHalf = none)
    (hm : r.mask (fun a => decide (a = .rc)) = 0) (s : Dev) (rq : Req) (i : Nat) :
    s.readPlain rq r i =
      (s.setLatch rq.port h i (some (BitVec.ofNat 32 (s.regValue rq h i)))).ok (s.regValue rq r i) := by
  have hd := RName.half_draws_nothing (.inl (by rw [hh]; rfl) : r.hiHalf.isSome = true ∨ r.loHalf.isSome = true)
  simp only [Dev.readPlain, hh, hl, hd, Dev.cond_false, Dev.cond_readClear_none hm]
  rfl

/-- A high half that the port has latched answers the latch and ends it. -/
theorem Dev.readPlain_hi_latched {r : RName} (hh : r.hiHalf = none) (hl : r.loHalf.isSome = true)
    (hm : r.mask (fun a => decide (a = .rc)) = 0) {s : Dev} {rq : Req} {i : Nat} {w : Word}
    (hw : s.latchOf rq.port r i = some w) : s.readPlain rq r i = (s.setLatch rq.port r i none).ok w.toNat := by
  have hd := RName.half_draws_nothing (.inr hl : r.hiHalf.isSome = true ∨ r.loHalf.isSome = true)
  simp only [Dev.readPlain, hh, hl, hd, Dev.cond_false, Dev.cond_readClear_none hm, if_true, hw]

/-- A high half that the port has not latched answers the register. -/
theorem Dev.readPlain_hi_free {r : RName} (hh : r.hiHalf = none) (hl : r.loHalf.isSome = true)
    (hm : r.mask (fun a => decide (a = .rc)) = 0) {s : Dev} {rq : Req} {i : Nat}
    (hn : s.latchOf rq.port r i = none) : s.readPlain rq r i = s.ok (s.regValue rq r i) := by
  have hd := RName.half_draws_nothing (.inr hl : r.hiHalf.isSome = true ∨ r.loHalf.isSome = true)
  simp only [Dev.readPlain, hh, hl, hd, Dev.cond_false, Dev.cond_readClear_none hm, if_true, hn]

/-- A register that is no half of a pair answers its value; a read that is no PEEK clears its read-clears fields. -/
theorem Dev.readPlain_single {r : RName} (hh : r.hiHalf = none) (hl : r.loHalf = none) {s e : Dev}
    (he : e = s.cond (decide (r = .PWR_INPUT) || decide (r = .NOC_MAXWAIT)) Dev.draw) (rq : Req) (i : Nat) :
    s.readPlain rq r i = (e.cond (!(rq.debug && rq.peek)) (fun s => s.readClear r i)).ok (s.regValue rq r i) := by
  subst he
  simp only [Dev.readPlain, hh, hl]
  rfl

/-! ## Reads and writes of register blocks -/

section
variable {s d : Dev} {rq : Req} {addr size b off i : Nat} {r : RName}

/-- A read of a device window by a requester that is not fenced. -/
theorem Dev.readAt_dev (ht : target addr = .dev b off) (hf : s.fenced rq = false) :
    s.readAt rq addr size = s.blockRead rq b off size addr := by
  simp only [Dev.readAt, Dev.byFence_free hf, Dev.readTarget, ht]

/-- A read that reaches no register gets the error response of R3, R34 or R373. -/
theorem Dev.readAt_unreached (ht : target addr = .dev b off) (hr : s.reach rq b off size addr = .error d)
    (hf : s.fenced rq = false) : s.readAt rq addr size = d := by
  simp only [Dev.readAt_dev ht hf, Dev.blockRead, hr]

/-- A read that the register's rules do not admit is refused. -/
theorem Dev.readAt_refused (ht : target addr = .dev b off) (hr : s.reach rq b off size addr = .ok (r, i))
    (hd : d = s.regSync r i (r.clears .rc)) (hm : d.mayRead rq r i = false) (hf : s.fenced rq = false) :
    s.readAt rq addr size = (d.regRefuse rq b addr off).regAfter r i (r.clears .rc) := by
  subst hd
  simp only [Dev.readAt_dev ht hf, Dev.blockRead, hr, hm, Bool.false_eq_true, if_false]

/-- A read that the register's rules admit, of a register whose read has no effect of its own. -/
theorem Dev.readAt_plain (ht : target addr = .dev b off) (hr : s.reach rq b off size addr = .ok (r, i))
    (hd : d = s.regSync r i (r.clears .rc)) (hm : d.mayRead rq r i = true) (hn : r ∉ readNames) (hf : s.fenced rq = false) :
    s.readAt rq addr size = (d.readPlain rq r i).regAfter r i (r.clears .rc) := by
  subst hd
  rw [Dev.readAt_dev ht hf, Dev.blockRead_admits hr hm, Dev.readTake_plain hn]

/-- A write of a device window by a requester that is not fenced. -/
theorem Dev.writeAt_dev (ht : target addr = .dev b off) (hf : s.fenced rq = false) (v : Nat) :
    s.writeAt rq addr size v = s.blockWrite rq b off size v addr := by
  simp only [Dev.writeAt, Dev.byFence_free hf, Dev.writeTarget, ht]

/-- A write that reaches no register gets the error response of R3, R34 or R373. -/
theorem Dev.writeAt_unreached (ht : target addr = .dev b off) (hr : s.reach rq b off size addr = .error d)
    (hf : s.fenced rq = false) (v : Nat) : s.writeAt rq addr size v = d := by
  simp only [Dev.writeAt_dev ht hf, Dev.blockWrite, hr]

/-- A write that the register's rules do not admit is refused. -/
theorem Dev.writeAt_refused {v : Word} (ht : target addr = .dev b off) (hr : s.reach rq b off size addr = .ok (r, i))
    (hd : d = s.regSync r i (r.clears .w1c)) (hm : d.mayWrite rq r i v = false) (hf : s.fenced rq = false) :
    s.writeAt rq addr size v.toNat = (d.regRefuse rq b addr off).regAfter r i (r.clears .w1c) := by
  subst hd
  simp only [Dev.writeAt_dev ht hf, Dev.blockWrite, hr, BitVec.ofNat_toNat, BitVec.setWidth_eq, hm, Bool.false_eq_true,
    if_false]

/-- A write that the register's rules admit has the register's effect, and ends the latches of its pair unless that effect is an
error response. -/
theorem Dev.writeAt_admits {v : Word} (ht : target addr = .dev b off) (hr : s.reach rq b off size addr = .ok (r, i))
    (hd : d = s.regSync r i (r.clears .w1c)) (hm : d.mayWrite rq r i v = true) {e : Dev}
    (he : e = d.writeTake rq b addr off r i v) (hf : s.fenced rq = false) :
    s.writeAt rq addr size v.toNat = (if e.resp.err then e else e.endLatches r i).regAfter r i (r.clears .w1c) := by
  subst hd he
  simp only [Dev.writeAt_dev ht hf, Dev.blockWrite, hr, BitVec.ofNat_toNat, BitVec.setWidth_eq, hm, if_true]

/-! ## Writes of hive shared memory and of nothing -/

/-- An access of hive shared memory that its domain, its width and the hive's world admit. -/
theorem Dev.hsmGate_admits {h : Nat} (hp : s.domOn (9 + h) = true) (hw : wordWidth off size = true)
    (hs : s.hsmSees rq h = true) (f : Dev → Dev) : s.hsmGate rq h off size addr f = f (s.serveHive h) := by
  simp [Dev.hsmGate, hp, hw, hs]

/-- A write of hive shared memory that is admitted stores its words in ascending order. -/
theorem Dev.writeAt_hsm {h : Nat} (ht : target addr = .hsm h off) (hp : s.domOn (9 + h) = true)
    (hw : wordWidth off size = true) (hs : s.hsmSees rq h = true) (hf : s.fenced rq = false) (v : Nat) :
    s.writeAt rq addr size v = ((s.serveHive h).each (List.range (size / 2))
      (fun x i => x.port2Hsm h (off / 2 + i) (BitVec.ofNat 16 (v / 2 ^ (16 * i))))).ok 0 := by
  simp only [Dev.writeAt, Dev.byFence_free hf, Dev.writeTarget, ht, Dev.hsmWrite, Dev.hsmGate_admits hp hw hs]

/-- A write where nothing stands gets the error response of R373. -/
theorem Dev.writeAt_hole (ht : target addr = .hole) (hf : s.fenced rq = false) (v : Nat) :
    s.writeAt rq addr size v = s.errResp 18 rq 0x03 addr 0 := by
  simp only [Dev.writeAt, Dev.byFence_free hf, Dev.writeTarget, ht]

end

/-! ## The state after reset -/

/-- DRAM that nothing has written and that has lost nothing reads 0 (log 3). -/
theorem Dev.dramByte_blank {s : Dev} (hl : s.mem.lost = []) (hd : s.mem.dram = []) (a : Nat) : s.dramByte a = 0 := by
  simp [Dev.dramByte, hl, hd, dramBlank]

/-- An empty queue is well-formed. -/
theorem queueOk_empty {s : State} (h : s.pending = []) : Safety.QueueOk s := by simp [Safety.QueueOk, h]

/-! ## The obligations -/

/-- Settles O51: each clause is its command's rule and the lemma about the access that the command makes. -/
theorem registerAccessesAct : Obligations.RegisterAccessesAct := by
  unfold Obligations.RegisterAccessesAct
  intro s
  refine ⟨?lo, ?hiLatched, ?hiFree, ?clears, ?peek, ?loUnreached, ?loRefused, ?hiUnreached, ?hiRefused, ?clearsUnreached,
    ?clearsRefused, ?write, ?writeErr, ?writeRefused, ?writeUnreached, ?hsm, ?hole⟩
  case lo =>
    intro rq addr b off i r d h hw ht hr hd hm hn hh hl hrc hf
    exact exec_reg64LoRead hw (by rw [Dev.readAt_plain ht hr hd hm hn hf, Dev.readPlain_lo hh hl hrc])
  case hiLatched =>
    intro rq addr b off i r d w hw ht hr hd hm hn hh hl hrc hq hf
    exact exec_reg64HiRead hw (by rw [Dev.readAt_plain ht hr hd hm hn hf, Dev.readPlain_hi_latched hh hl hrc hq])
  case hiFree =>
    intro rq addr b off i r d hw ht hr hd hm hn hh hl hrc hq hf
    exact exec_reg64HiRead hw (by rw [Dev.readAt_plain ht hr hd hm hn hf, Dev.readPlain_hi_free hh hl hrc hq])
  case clears =>
    intro rq addr b off i r d e hw ht hr hd hm hn hh hl he hrc hp hf
    exact exec_readClearsRead hw (by
      rw [Dev.readAt_plain ht hr hd hm hn hf, Dev.readPlain_single hh hl he, hp, Bool.not_false, Dev.cond_true,
        Dev.readClear_some hrc])
  case peek =>
    intro rq addr b off i r d e hw ht hr hd hm hn hh hl he hp hf
    exact exec_readClearsRead hw (by
      rw [Dev.readAt_plain ht hr hd hm hn hf, Dev.readPlain_single hh hl he, hp, Bool.not_true, Dev.cond_false])
  case loUnreached => exact fun rq addr b off d hw ht hr hf => exec_reg64LoRead hw (Dev.readAt_unreached ht hr hf)
  case loRefused =>
    exact fun rq addr b off i r d hw ht hr hd hm hf => exec_reg64LoRead hw (Dev.readAt_refused ht hr hd hm hf)
  case hiUnreached => exact fun rq addr b off d hw ht hr hf => exec_reg64HiRead hw (Dev.readAt_unreached ht hr hf)
  case hiRefused =>
    exact fun rq addr b off i r d hw ht hr hd hm hf => exec_reg64HiRead hw (Dev.readAt_refused ht hr hd hm hf)
  case clearsUnreached => exact fun rq addr b off d hw ht hr hf => exec_readClearsRead hw (Dev.readAt_unreached ht hr hf)
  case clearsRefused =>
    exact fun rq addr b off i r d hw ht hr hd hm hf => exec_readClearsRead hw (Dev.readAt_refused ht hr hd hm hf)
  case write =>
    intro rq addr size b off i v r d e hw ht hr hd hm he hok hf
    exact exec_registerWrite hw (by rw [Dev.writeAt_admits ht hr hd hm he hf, if_neg (by simp [hok])])
  case writeErr =>
    intro rq addr size b off i v r d e hw ht hr hd hm he herr hf
    exact exec_registerWrite hw (by rw [Dev.writeAt_admits ht hr hd hm he hf, if_pos herr])
  case writeRefused =>
    exact fun rq addr size b off i v r d hw ht hr hd hm hf => exec_registerWrite hw (Dev.writeAt_refused ht hr hd hm hf)
  case writeUnreached =>
    exact fun rq addr size b off v d hw ht hr hf => exec_registerWrite hw (Dev.writeAt_unreached ht hr hf _)
  case hsm =>
    exact fun rq addr size h off v hw ht hp hwid hs hf => exec_registerWrite hw (Dev.writeAt_hsm ht hp hwid hs hf _)
  case hole => exact fun rq addr size v hw ht hf => exec_registerWrite hw (Dev.writeAt_hole ht hf _)

/-- Settles O52: nothing waits and nothing is listed after reset, so the step is the idle one. -/
theorem resetMeetsInvariants : Obligations.ResetMeetsInvariants := by
  unfold Obligations.ResetMeetsInvariants
  exact ⟨queueOk_empty rfl, rfl, Dev.dramWf_reset, Dev.dramByte_blank rfl rfl, _, step_nil _, rfl⟩

end Sys2Proof.Machine
end

section
/-!
PROOFS. The supply, the module reset, the wake sequencer and HOLDUP (02 R25 to R27, R36, R41 to R47, R486, R487): what the
rows of the supply and of Table 2.5 do in the states that their obligations name.
-/

namespace Sys2Proof.Machine

/-- What a well-formed command answers, from what its effect makes of the module. -/
theorem run_eq {b : Bool} {f : Dev → Dev} (s : State) {d : Dev} (hw : b = true) (hd : f s.dev = d) :
    run b f s = .next { s with dev := d } := by rw [run_ok hw, hd]

/-! ## Input qualification and loss (R25, R27) -/

/-- PWR_STAT with the input qualified and the bulk at BULK_OK. -/
def Dev.inputQualified (s : Dev) : Dev :=
  (((s.fs F.PWR_STAT_INQ 0 1).fs F.PWR_STAT_PF 0 0).fs F.PWR_STAT_BULKOK 0 1).fs F.PWR_STAT_BULKWARN 0 0

/-- PWR_STAT with input loss declared. -/
def Dev.inputLost (s : Dev) : Dev := (s.fs F.PWR_STAT_INQ 0 0).fs F.PWR_STAT_PF 0 1

/-- The four supply flags are the only fields that an input qualification writes. -/
theorem Dev.fg_inputQualified (s : Dev) {g : Fld} (j : Nat) (hg : g.fits)
    (h : ∀ f ∈ [F.PWR_STAT_INQ, F.PWR_STAT_PF, F.PWR_STAT_BULKOK, F.PWR_STAT_BULKWARN], Fld.apart f g) :
    s.inputQualified.fg g j = s.fg g j := by
  unfold Dev.inputQualified
  rw [Dev.fg_fs_apart _ _ _ _ _ _ hg (h _ (by simp)), Dev.fg_fs_apart _ _ _ _ _ _ hg (h _ (by simp)),
    Dev.fg_fs_apart _ _ _ _ _ _ hg (h _ (by simp)), Dev.fg_fs_apart _ _ _ _ _ _ hg (h _ (by simp))]

/-- The mode stands. -/
theorem Dev.mode_inputQualified (s : Dev) : s.inputQualified.mode = s.mode := s.fg_inputQualified 0 (by decide) (by decide)

/-- INQ is set. -/
theorem Dev.inq_inputQualified (s : Dev) : s.inputQualified.fg F.PWR_STAT_INQ 0 = 1 := by
  unfold Dev.inputQualified
  rw [Dev.fg_fs_apart _ _ _ _ _ _ (by decide) (by decide), Dev.fg_fs_apart _ _ _ _ _ _ (by decide) (by decide),
    Dev.fg_fs_apart _ _ _ _ _ _ (by decide) (by decide), Dev.fg_fs_self _ _ _ _ (by decide)]
  rfl

/-- Every register but PWR_STAT stands. -/
theorem Dev.rd_inputQualified (s : Dev) {q : RName} (j : Nat) (h : q ≠ .PWR_STAT) : s.inputQualified.rd q j = s.rd q j := by
  unfold Dev.inputQualified
  rw [Dev.rd_fs_ne _ _ _ _ h, Dev.rd_fs_ne _ _ _ _ h, Dev.rd_fs_ne _ _ _ _ h, Dev.rd_fs_ne _ _ _ _ h]

theorem Dev.mode_inputLost (s : Dev) : s.inputLost.mode = s.mode := by
  unfold Dev.inputLost
  rw [Dev.mode_fs _ _ _ (by decide), Dev.mode_fs _ _ _ (by decide)]

theorem Dev.mode_bulkFlags (s : Dev) : s.bulkFlags.mode = s.mode := by
  unfold Dev.bulkFlags
  rw [Dev.mode_fs _ _ _ (by decide), Dev.mode_fs _ _ _ (by decide)]

theorem Dev.huStep_bulkFlags (s : Dev) : s.bulkFlags.fg F.PWR_STAT_HUSTEP 0 = s.fg F.PWR_STAT_HUSTEP 0 := by
  unfold Dev.bulkFlags
  rw [Dev.fg_fs_apart _ _ _ _ _ _ (by decide) (by decide), Dev.fg_fs_apart _ _ _ _ _ _ (by decide) (by decide)]

/-- HOLDUP starts from modes 1 to 4 alone. -/
theorem Dev.holdupFrom_iff (s : Dev) : s.holdupFrom = true ↔ 1 ≤ s.mode ∧ s.mode ≤ 4 := by simp [Dev.holdupFrom]

/-- Outside DORMANT a qualification of the input of a powered module sets the flags alone. -/
theorem exec_inputQualification_flags {s : State} (hp : s.dev.pwr.powered = true) (hm : s.dev.mode ≠ 0) :
    exec .inputQualification s = .next { s with dev := s.dev.inputQualified } := by
  show execInputQualification s = _
  refine run_eq s rfl ?_
  show (if (!s.dev.pwr.powered) = true then _ else if s.dev.inputQualified.mode = 0 then _ else s.dev.inputQualified) = _
  rw [hp, if_neg (by decide), if_neg (by rwa [Dev.mode_inputQualified])]

/-- An unpowered module powers up (R486). -/
theorem exec_inputQualification_powersUp {s : State} (hp : s.dev.pwr.powered = false) :
    exec .inputQualification s = .next { s with dev := s.dev.inputQualified.moduleReset 0 } := by
  show execInputQualification s = _
  exact run_eq s rfl (if_pos (by rw [hp]; rfl))

/-- A loss of the input of a powered module in DORMANT drives PF_N low. -/
theorem exec_inputLoss_dormant {s : State} (hp : s.dev.pwr.powered = true) (hm : s.dev.mode = 0) :
    exec .inputLoss s = .next { s with
      dev := { s.dev.inputLost with pwr := { s.dev.pwr with pfN := false, inputSeen := true } } } := by
  show execInputLoss s = _
  refine run_eq s rfl ?_
  show (if (!s.dev.pwr.powered) = true then s.dev else if s.dev.inputLost.mode = 0 then _ else _) = _
  rw [hp, if_neg (by decide), if_pos (by rwa [Dev.mode_inputLost])]
  rfl

/-- In modes 1 to 4 it starts HOLDUP with cause 0. -/
theorem exec_inputLoss_holdup {s : State} (hp : s.dev.pwr.powered = true) (h1 : 1 ≤ s.dev.mode) (h4 : s.dev.mode ≤ 4) :
    exec .inputLoss s = .next { s with dev := s.dev.inputLost.holdupStart 0 } := by
  show execInputLoss s = _
  refine run_eq s rfl ?_
  have hf : s.dev.inputLost.holdupFrom = true := by rw [Dev.holdupFrom_iff, Dev.mode_inputLost]; exact ⟨h1, h4⟩
  show (if (!s.dev.pwr.powered) = true then s.dev else if s.dev.inputLost.mode = 0 then _
    else s.dev.inputLost.cond s.dev.inputLost.holdupFrom (fun s => s.holdupStart 0)) = _
  rw [hp, if_neg (by decide), if_neg (by rw [Dev.mode_inputLost]; omega), hf, Dev.cond_true]

/-! ## The bulk (R26) -/

/-- The bulk below BULK_WARN: the flags, and HOLDUP from modes 1 to 4. -/
def Dev.bulkWarned (s : Dev) : Dev := s.bulkFlags.cond s.holdupFrom (fun s => s.holdupStart 1)

theorem Dev.bulkWarned_starts {s : Dev} (h1 : 1 ≤ s.mode) (h4 : s.mode ≤ 4) : s.bulkWarned = s.bulkFlags.holdupStart 1 := by
  rw [Dev.bulkWarned, s.holdupFrom_iff.2 ⟨h1, h4⟩, Dev.cond_true]

theorem Dev.bulkWarned_flags {s : Dev} (h : s.mode = 0 ∨ s.mode = 5) : s.bulkWarned = s.bulkFlags := by
  have hf : s.holdupFrom = false := by rw [Bool.eq_false_iff, ne_eq, Dev.holdupFrom_iff]; omega
  rw [Dev.bulkWarned, hf, Dev.cond_false]

/-- A fall of the bulk of a powered module below BULK_WARN. -/
theorem exec_bulkWarn_powered {s : State} (hp : s.dev.pwr.powered = true) :
    exec .bulkWarn s = .next { s with dev := s.dev.bulkWarned } := by
  show execBulkWarn s = _
  exact run_eq s rfl (if_neg (by rw [hp]; decide))

/-- A fall of the bulk of a powered module below BULK_LOW, which passes BULK_WARN too (log 24). -/
theorem exec_bulkLow_powered {s : State} (hp : s.dev.pwr.powered = true) :
    exec .bulkLow s = .next { s with
      dev := s.dev.bulkWarned.cond
        (decide (s.dev.bulkWarned.mode = 5) && decide (s.dev.bulkWarned.fg F.PWR_STAT_HUSTEP 0 < 6))
        (fun s => s.shutdownStart 0) } := by
  show execBulkLow s = _
  exact run_eq s rfl (if_neg (by rw [hp]; decide))

/-- In HOLDUP before step 6 it starts the shutdown. -/
theorem exec_bulkLow_holdup {s : State} (hp : s.dev.pwr.powered = true) (hm : s.dev.mode = 5)
    (hu : s.dev.fg F.PWR_STAT_HUSTEP 0 < 6) : exec .bulkLow s = .next { s with dev := s.dev.bulkFlags.shutdownStart 0 } := by
  rw [exec_bulkLow_powered hp, Dev.bulkWarned_flags (.inr hm), Dev.mode_bulkFlags, Dev.huStep_bulkFlags,
    decide_eq_true hm, decide_eq_true hu, Bool.and_self, Dev.cond_true]

/-- PD00 stops in DORMANT without input (R487). -/
theorem exec_pd00Stop_dormant {s : State} (hp : s.dev.pwr.powered = true) (hm : s.dev.mode = 0)
    (hi : s.dev.fg F.PWR_STAT_INQ 0 = 0) :
    exec .pd00Stop s = .next { s with dev := { s.dev with pwr := { s.dev.pwr with powered := false, pfN := false } } } := by
  show execPd00Stop s = _
  exact run_eq s rfl (if_pos (by simp [hp, hm, hi]))

/-- Settles O5: each clause is its row's rule, the tests of the mode read through the flags just written. -/
theorem supplyEventsAct : Obligations.SupplyEventsAct := by
  unfold Obligations.SupplyEventsAct
  intro s
  exact ⟨exec_inputQualification_flags, exec_inputQualification_powersUp, exec_inputLoss_dormant, exec_inputLoss_holdup,
    fun hp h1 h4 => by rw [exec_bulkWarn_powered hp, Dev.bulkWarned_starts h1 h4]; rfl,
    fun hp hm => by rw [exec_bulkWarn_powered hp, Dev.bulkWarned_flags hm]; rfl, exec_bulkLow_holdup, exec_pd00Stop_dormant⟩

/-! ## Module reset, shutdown and wake (R36, R41, R42, R47) -/

/-- A pulse of MRST_N resets a powered module when it lasts 1000 ns, and otherwise does nothing. -/
theorem exec_mrstNPulse (s : State) (ns : Nat) : exec (.mrstNPulse ns) s = .next { s with
    dev := if s.dev.pwr.powered && decide (1000 ≤ ns) then s.dev.moduleReset 1 else s.dev } := rfl

/-- The shutdown that the domain cuts end (R47): DORMANT, with the pins and causes that the shutdown leaves. -/
theorem exec_shutdownDomainCuts_step6 {s : State} (hm : s.dev.mode = 5) (hu : s.dev.fg F.PWR_STAT_HUSTEP 0 = 6) :
    exec .shutdownDomainCuts s = .next { s with dev := { s.dev.toDormant with pwr := { s.dev.toDormant.pwr with
      stay := decide (s.dev.pwr.shutCause = 1)
      inputSeen := decide (s.dev.fg F.PWR_STAT_INQ 0 = 0)
      wakeCause := if decide (s.dev.pwr.shutCause = 1) then 4 else 0
      pfN := s.dev.toDormant.pwr.pfN || (decide (s.dev.pwr.cause = 0) && decide (s.dev.fg F.PWR_STAT_PF 0 = 0)) } } } := by
  show execShutdownDomainCuts s = _
  exact run_eq s rfl (if_pos ⟨hm, hu⟩)

/-- The module leaves DORMANT only where the conditions of Table 2.5 are met. -/
theorem Dev.mayWake_of {s : Dev} (hp : s.pwr.powered = true) (hm : s.mode = 0) (hi : s.fg F.PWR_STAT_INQ 0 = 1)
    (hr : s.pwr.mrstLow = false) (hs : s.pwr.stay = false) (ho : s.fg F.PWR_STAT_OTL 0 = 0) : s.mayWake = true := by
  simp [Dev.mayWake, hp, hm, hi, hr, hs, ho]

/-- Settles O8: DORMANT's registers are those of `Dev.toDormant_stat`; the other clauses are a test of their row each. -/
theorem moduleResetAndWake : Obligations.ModuleResetAndWake := by
  unfold Obligations.ModuleResetAndWake
  intro s
  refine ⟨?reset, ?short, ?cuts, ?wake⟩
  case reset => exact fun ns hp hn => by rw [exec_mrstNPulse, if_pos (by simp [hp, hn])]
  case short => exact fun ns hn => by rw [exec_mrstNPulse, if_neg (by simp [hn])]
  case cuts =>
    intro hm hu
    obtain ⟨hmode, hstep, hdoms, hon, hstby⟩ := s.dev.toDormant_stat
    refine ⟨_, exec_shutdownDomainCuts_step6 hm hu, rfl, ?_, ?_, ?_, ?_, ?_, rfl⟩
    · exact (Dev.fg_congr (Dev.rd_pwr _ _ _ _)).trans hmode
    · exact (Dev.fg_congr (Dev.rd_pwr _ _ _ _)).trans hstep
    · exact (Dev.rd_pwr _ _ _ _).trans hdoms
    · exact (Dev.fg_congr (Dev.rd_pwr _ _ _ _)).trans hon
    · exact (Dev.fg_congr (Dev.rd_pwr _ _ _ _)).trans hstby
  case wake =>
    intro hp hm hi hr hs ho
    show execWakeSequencer s = _
    exact run_eq s rfl (if_pos (Dev.mayWake_of hp hm hi hr hs ho))

/-! ## The steps of HOLDUP (R43 to R45, R48) -/

/-- In step 2 a core's write of its own bit records its acknowledgement, and may end the drain window. -/
theorem Dev.huAck_own {s : Dev} {rq : Req} {v : Word} {m : Nat} (hc : rq.core = some m) (hv : v.getLsbD m = true)
    (hm : s.mode = 5) (hu : s.fg F.PWR_STAT_HUSTEP 0 = 2) :
    s.huAck rq v = { s with pwr := { s.pwr with
      ack := setBit s.pwr.ack m true
      winEnd := s.coresOn.all (fun i => (setBit s.pwr.ack m true).testBit i) } } := by
  unfold Dev.huAck
  rw [hc]
  exact if_pos ⟨hv, hm, hu⟩

/-- The drain window ends in step 3. -/
theorem Dev.huStep_windowEnd (s : Dev) (slow : List Nat) : (s.windowEnd slow).fg F.PWR_STAT_HUSTEP 0 = 3 := by
  unfold Dev.windowEnd
  exact Dev.huStep_step _ (by decide)

/-- The end of the drain window in step 2. -/
theorem exec_holdupDrainWindowEnd_step2 {s : State} {slow : List Nat} (hs : ∀ m ∈ slow, m < 8) (hm : s.dev.mode = 5)
    (hu : s.dev.fg F.PWR_STAT_HUSTEP 0 = 2) :
    exec (.holdupDrainWindowEnd slow) s = .next { s with dev := s.dev.windowEnd slow } := by
  show execHoldupDrainWindowEnd slow s = _
  exact run_eq s (List.all_eq_true.2 fun m h => decide_eq_true (hs m h)) (if_pos ⟨hm, hu⟩)

/-- The end of the write-back in step 3: the L2 domains are cut, and step 4 begins. -/
theorem exec_holdupWriteBackDone_step3 {s : State} (hm : s.dev.mode = 5) (hu : s.dev.fg F.PWR_STAT_HUSTEP 0 = 3) :
    exec .holdupWriteBackDone s = .next { s with
      dev := ((s.dev.each ([26, 27].filter s.dev.domOn) (fun x c => x.cutDom c true)).syscOut.capStop).huStep 4 } := by
  show execHoldupWriteBackDone s = _
  exact run_eq s rfl (if_pos ⟨hm, hu⟩)

/-- The module at the start of step 5: journal flushed, records sealed where HUSEAL asks for it, DRAM channels cut. -/
def Dev.journalFlushed (s : Dev) : Dev :=
  let t := s.jrnFlush
  let t := t.cond (decide (t.fg F.JRN_CFG_HUSEAL 0 = 1)) (fun x => x.huSeal (sealMost - 64 * s.jrn.staged.length) x.huSealList)
  let t := t.fs F.JRN_STAT_DIRECT 0 1
  (t.syscOut.each ([29, 30].filter t.domOn) (fun x d => x.cutDom d true)).huStep 5

theorem Dev.huStep_journalFlushed (s : Dev) : s.journalFlushed.fg F.PWR_STAT_HUSTEP 0 = 5 := by
  unfold Dev.journalFlushed
  exact Dev.huStep_step _ (by decide)

/-- The end of the journal flush in step 4: step 5 begins, and over-temperature goes on to the shutdown. -/
theorem exec_holdupJournalFlushDone_step4 {s : State} (hm : s.dev.mode = 5) (hu : s.dev.fg F.PWR_STAT_HUSTEP 0 = 4) :
    exec .holdupJournalFlushDone s = .next { s with
      dev := s.dev.journalFlushed.cond s.dev.journalFlushed.pwr.ot (fun x => x.shutdownStart 1) } := by
  show execHoldupJournalFlushDone s = _
  exact run_eq s rfl (if_pos ⟨hm, hu⟩)

/-- Before step 5 the return of the input is not acted on. -/
theorem exec_holdupReturn_early {s : State} (hu : s.dev.fg F.PWR_STAT_HUSTEP 0 ≠ 5) : exec .holdupReturn s = .next s := by
  show execHoldupReturn s = _
  exact run_eq (d := s.dev) s rfl (if_neg (fun h => hu h.2.1))

/-- In step 5 it is, once the input is qualified and no over-temperature stands: the domains come back, and the mode is the one
in PREV. -/
theorem exec_holdupReturn_leaves {s : State} (hm : s.dev.mode = 5) (hu : s.dev.fg F.PWR_STAT_HUSTEP 0 = 5)
    (hi : s.dev.fg F.PWR_STAT_INQ 0 = 1) (ho : s.dev.pwr.ot = false) (hp : s.dev.fg F.PWR_STAT_PREV 0 ≠ 1) :
    exec .holdupReturn s = .next { s with dev := (s.dev.huDomains.huLeave (s.dev.fg F.PWR_STAT_PREV 0)).ringWorlds } := by
  show execHoldupReturn s = _
  exact run_eq s rfl ((if_pos ⟨hm, hu, hi, by rw [ho]; rfl⟩).trans (by dsimp only; rw [if_neg hp, if_neg hp]))

/-- Settles O6: each step's row tests the mode and the step, and its work ends in the step that follows. -/
theorem holdupStepsFollow : Obligations.HoldupStepsFollow := by
  unfold Obligations.HoldupStepsFollow
  intro s hm
  refine ⟨?ack, ?window, ?writeBack, ?flush, exec_holdupReturn_leaves hm⟩
  case ack =>
    intro rq v m hw hc hv hr hu
    show execPwrHuack rq v s = _
    refine run_eq s hw ?_
    rw [Dev.gate_admits hr, Dev.huAck_own hc hv hm hu]
  case window => exact fun slow hs hu => ⟨exec_holdupDrainWindowEnd_step2 hs hm hu, Dev.huStep_windowEnd _ _⟩
  case writeBack => exact fun hu => ⟨_, exec_holdupWriteBackDone_step3 hm hu, rfl, Dev.huStep_step _ (by decide)⟩
  case flush => exact fun hu => ⟨s.dev.journalFlushed, exec_holdupJournalFlushDone_step4 hm hu, Dev.huStep_journalFlushed _⟩

/-- Settles O7: the return is tested for step 5, and a qualification writes the four supply flags alone. -/
theorem earlyReturnIsIgnored : Obligations.EarlyReturnIsIgnored := by
  unfold Obligations.EarlyReturnIsIgnored
  intro s hm hu hp
  refine ⟨exec_holdupReturn_early (by omega), _, exec_inputQualification_flags hp (by omega), ?mode, s.dev.inq_inputQualified,
    ?step, ?prev, fun q j h => s.dev.rd_inputQualified j h, rfl, rfl⟩
  case mode => exact s.dev.mode_inputQualified.trans hm
  case step => exact s.dev.fg_inputQualified 0 (by decide) (by decide)
  case prev => exact s.dev.fg_inputQualified 0 (by decide) (by decide)

end Sys2Proof.Machine
end

section
/-!
PROOFS. The domain sequencer (02 R28 to R31, R48): what one write of PWR_DON0 or PWR_DOFF0 makes of an idle sequencer, and
what ends the switch or the drain in progress.
-/

namespace Sys2Proof.Machine

/-! ## One request to an idle sequencer (R28, R29) -/

/-- A mask of one bit names its own domain alone. -/
theorem onesBelow_one_bit {d : Nat} (h : d < 32) : onesBelow 32 (BitVec.ofNat 32 (2 ^ d)).toNat = [d] := by
  have : ∀ d : Fin 32, onesBelow 32 (BitVec.ofNat 32 (2 ^ d.val)).toNat = [d.val] := by decide
  exact this ⟨d, h⟩

/-- Outside HOLDUP a switch-on is refused for want of a requirement alone. -/
theorem Dev.seqRefuses_on {s : Dev} (hm : s.mode ≠ 5) (d : Nat) : s.seqRefuses true d = !s.domReady d := by
  simp [Dev.seqRefuses, hm]

/-- A cut is refused for PD00, for PD28 and for a domain that another one which is on requires. -/
theorem Dev.seqRefuses_off {s : Dev} {d : Nat} (h0 : d ≠ 0) (h28 : d ≠ 28) : s.seqRefuses false d = s.domUsed d := by
  simp [Dev.seqRefuses, h0, h28]

section
variable {s : Dev} {d : Nat}

/-- One request in an empty queue is served at once. -/
theorem Dev.seqPut_one (hq : s.pwr.seqQ = []) (x : Bool × Nat) :
    s.seqPut [x] = ({ s with pwr := { s.pwr with seqQ := [x] } } : Dev).seqServe 34 := by
  unfold Dev.seqPut
  rw [List.foldl_cons, List.foldl_nil, hq]
  rfl

/-- A write with the bit of one domain, to an idle sequencer, for what is not so yet: refused, or started. -/
theorem Dev.seqWrite_idle (hd : d < 32) (ha : s.pwr.act = none) (hq : s.pwr.seqQ = []) {b : Bool} (h : s.domOn d ≠ b) :
    s.seqWrite b 0 (BitVec.ofNat 32 (2 ^ d)) = if s.seqRefuses b d = true then s.seqErr.seqSync
      else (Dev.cond { s with pwr := { s.pwr with act := some (b, d) } } (!b) (fun s => s.drainStart d)).seqSync := by
  unfold Dev.seqWrite
  rw [if_pos rfl, onesBelow_one_bit hd, List.map_singleton, Dev.seqPut_one hq]
  exact Dev.seqServe_one s 33 b d ha hq h

/-- The SVP's write of PWR_DON0 acts. -/
theorem exec_pwrDon_svp {s : State} {rq : Req} (hw : rq.ok = true) (hs : rq.svp = true) (hr : s.dev.reaches rq 0 = true)
    (v : Word) :
    exec (.pwrDon rq 0 v) s = .next { s with dev := (s.dev.seqWrite true 0 v).ok 0 } := by
  show execPwrDon rq 0 v s = _
  exact run_eq s (by simp [wellFormed, hw]) (by rw [hs, Dev.gate_admits hr])

/-- So does its write of PWR_DOFF0. -/
theorem exec_pwrDoff_svp {s : State} {rq : Req} (hw : rq.ok = true) (hs : rq.svp = true) (hr : s.dev.reaches rq 0 = true)
    (v : Word) :
    exec (.pwrDoff rq 0 v) s = .next { s with dev := (s.dev.seqWrite false 0 v).ok 0 } := by
  show execPwrDoff rq 0 v s = _
  exact run_eq s (by simp [wellFormed, hw]) (by rw [hs, Dev.gate_admits hr])

end

/-! ## The end of a switch or a drain (R28, R30, R31) -/

section
variable {s : State} {d : Nat}

/-- A switch-on ends with the domain on. -/
theorem exec_domainPowerGood_switching (h : s.dev.pwr.act = some (true, d)) :
    exec .domainPowerGood s = .next { s with dev := (s.dev.switchOn d).seqDone } := by
  show execDomainPowerGood s = _
  exact run_eq s rfl (by simp only [h])

/-- A drain ends with a clean cut, once nothing is left to drain. -/
theorem exec_domainDrainDone_draining (h : s.dev.pwr.act = some (false, d)) : exec .domainDrainDone s = .next { s with
    dev := if s.dev.drainOpen d then s.dev else (s.dev.drainCut d).seqDone } := by
  show execDomainDrainDone s = _
  exact run_eq s rfl (by simp only [h])

/-- At the drain limit the domain is cut anyway, unless its drain cannot pass the limit. -/
theorem exec_drainLimit_draining (h : s.dev.pwr.act = some (false, d)) : exec .drainLimit s = .next { s with
    dev := if drainBounded d then s.dev else ((s.dev.drainMiss d).cutDom d false).seqDone } := by
  show execDrainLimit s = _
  exact run_eq s rfl (by simp only [h])

end

/-- Settles O9: the two writes serve their one request, and each end is a case of its row. -/
theorem sequencerSwitchesOneDomain : Obligations.SequencerSwitchesOneDomain := by
  unfold Obligations.SequencerSwitchesOneDomain
  intro s
  refine ⟨?on, ?off, fun d => exec_domainPowerGood_switching, ?drained, ?waits, ?limit⟩
  case on =>
    intro rq d hw hs hr hd ha hq hm hoff
    rw [exec_pwrDon_svp hw hs hr, Dev.seqWrite_idle hd ha hq (by simp [hoff]), Dev.seqRefuses_on hm]
    cases s.dev.domReady d <;> rfl
  case off =>
    intro rq d hw hs hr hd h0 h28 ha hq hon hu
    rw [exec_pwrDoff_svp hw hs hr, Dev.seqWrite_idle hd ha hq (by simp [hon]), Dev.seqRefuses_off h0 h28, hu]
    rfl
  case drained => exact fun d h ho => by rw [exec_domainDrainDone_draining h, ho, if_neg (by decide)]
  case waits => exact fun d h ho => by rw [exec_domainDrainDone_draining h, ho, if_pos rfl]
  case limit => exact fun d h hb => by rw [exec_drainLimit_draining h, hb, if_neg (by decide)]

end Sys2Proof.Machine
end

section
/-!
PROOFS. The ends of long commands (04 R87): what the work of each opcode comes to, and when it goes on.
-/

namespace Sys2Proof.Machine

/-! ## When a work ends -/

/-- A DOMAIN command goes on while a domain of its mask is queued or under way. -/
theorem Dev.endDomain_waits {s : Dev} {k : LongCmd}
    (h : ∃ x ∈ s.pwr.seqQ ++ s.pwr.act.toList, k.arg.testBit x.2 = true) (on : Bool) : s.endDomain k on = none :=
  if_pos (List.any_eq_true.2 h)

/-- Otherwise it ends with the domains switched, and DOMAIN OFF with the count of what was not drained. -/
theorem Dev.endDomain_ends {s : Dev} {k : LongCmd}
    (h : ∀ x ∈ s.pwr.seqQ ++ s.pwr.act.toList, k.arg.testBit x.2 = false) (on : Bool) :
    s.endDomain k on = some (
      leBytes 8 (((onesBelow 33 k.arg2).filter (fun d => decide (s.domOn d = on))).foldl (fun a d => a + 2 ^ d) 0) ++
      (if on then [] else leBytes 4
        (((s.pwr.undrained.drop (leNat k.data)).filter (fun x => k.arg.testBit x.1)).foldl (fun a x => a + x.2) 0))) :=
  if_neg (by rw [Bool.not_eq_true, List.any_eq_false]; exact fun x hx => by rw [h x hx]; decide)

section
variable {s : Dev} {g : Nat}

/-- A POUR ARM goes on while ARM stands. -/
theorem Dev.endPour_waits (h : s.fg F.SET_PG_CTL_ARM g = 1) (n : Nat) : s.endPour g n = none := if_pos (decide_eq_true h)

/-- It ends once ARM is clear: swapped at its tick, refused for an invalid bank, or too late. -/
theorem Dev.endPour_ends (h : s.fg F.SET_PG_CTL_ARM g = 0) (n : Nat) : s.endPour g n =
    if s.fg F.SET_PG_CTL_DONE g = 1 ∧ s.rd64 .SET_PG_SWAP_LO .SET_PG_SWAP_HI g = n then some (stOK, 0, leBytes 8 n)
    else if s.fg F.SET_PG_CTL_INVAL g = 1 then some (stNotReady, s.fg F.SET_PG_CTL_BADENG g, [])
    else some (stTooLate, 0, []) := if_neg (by simp [Dev.pgArmed, h])

end

/-- A JOURNAL SEAL of a record that the capture unit holds. -/
theorem Dev.endSeal_found {s : Dev} {i n : Nat} {x : Capture} (h : s.findCap (fun y => decide (y.id = i)) = some (n, x)) :
    s.endSeal i = ((s.jrnFlush.sealRecord i).jrnFlush, leBytes 8 (s.jrnNext x.world)) := by
  unfold Dev.endSeal
  rw [h]

/-! ## The completion by opcode (R87) -/

section
variable {s : Dev} {idx : Nat} {k : LongCmd} (hk : s.cmd.long[idx]? = some k)
include hk

theorem Dev.completeLong_domainOn (ho : k.opcode = 0x0201) :
    s.completeLong idx = (s.endDomain k true).elim s (s.finishLong idx stOK) := by
  simp only [Dev.completeLong, hk, ho]
  cases s.endDomain k true <;> rfl

theorem Dev.completeLong_domainOff (ho : k.opcode = 0x0202) :
    s.completeLong idx = (s.endDomain k false).elim s (s.finishLong idx stOK) := by
  simp only [Dev.completeLong, hk, ho]
  cases s.endDomain k false <;> rfl

theorem Dev.completeLong_castLoad (ho : k.opcode = 0x0401) :
    s.completeLong idx = (s.castWrite k.arg k.data).finishLong idx stOK (castResult k.data) := by
  simp only [Dev.completeLong, hk, ho]

theorem Dev.completeLong_streamTable (ho : k.opcode = 0x0601) : s.completeLong idx =
    if s.ing.switches.any (fun x => decide (x.kind = 0)) then s else s.finishLong idx stOK (leBytes 2 k.arg) := by
  simp only [Dev.completeLong, hk, ho]

theorem Dev.completeLong_setsStage (ho : k.opcode = 0x0801) :
    s.completeLong idx = (s.setsWrite k.arg k.data).finishLong idx stOK [] := by
  simp only [Dev.completeLong, hk, ho]

theorem Dev.completeLong_pourArm (ho : k.opcode = 0x0902) : s.completeLong idx =
    (s.endPour k.arg k.arg2).elim s (fun x => s.finishLong idx x.1 x.2.2 x.2.1) := by
  simp only [Dev.completeLong, hk, ho]
  cases s.endPour k.arg k.arg2 <;> rfl

theorem Dev.completeLong_tripgateMap (ho : k.opcode = 0x0A03) : s.completeLong idx = s.finishLong idx stOK [] := by
  simp only [Dev.completeLong, hk, ho]

theorem Dev.completeLong_publishTable (ho : k.opcode = 0x0B01) :
    s.completeLong idx = (s.pubTable k.data).1.finishLong idx stOK (s.pubTable k.data).2 := by
  simp only [Dev.completeLong, hk, ho]

theorem Dev.completeLong_journalSeal (ho : k.opcode = 0x0D02) :
    s.completeLong idx = (s.endSeal k.arg).1.finishLong idx stOK (s.endSeal k.arg).2 := by
  simp only [Dev.completeLong, hk, ho]

theorem Dev.completeLong_keysRevoke (ho : k.opcode = 0x0E01) :
    s.completeLong idx = (s.onKey k.arg (fun x => { x with revoked := true })).endKeys idx [] := by
  simp only [Dev.completeLong, hk, ho]

theorem Dev.completeLong_keysArb (ho : k.opcode = 0x0E02) :
    s.completeLong idx = (s.advanceArb k.arg).1.endKeys idx (leBytes 1 (s.advanceArb k.arg).2) := by
  simp only [Dev.completeLong, hk, ho]

theorem Dev.completeLong_keysSealput (ho : k.opcode = 0x0E03) :
    s.completeLong idx = (s.sealSecret k.arg (k.data.drop 256)).endKeys idx [] := by
  simp only [Dev.completeLong, hk, ho]

theorem Dev.completeLong_lifeGo (ho : k.opcode = 0x0F01) : s.completeLong idx =
    if k.arg = 4 then ((s.lifeWork k.arg2 k.arg k.data).endKeys idx (leBytes 1 k.arg)).moduleReset 2
    else (s.lifeWork k.arg2 k.arg k.data).endKeys idx (leBytes 1 k.arg) := by
  simp only [Dev.completeLong, hk, ho]

theorem Dev.completeLong_resetHive (ho : k.opcode = 0x1102) : s.completeLong idx = (s.hiveReset k.arg).finishLong
    ((s.hiveReset k.arg).cmd.long.findIdx (fun x => decide (x.opcode = 0x1102) && decide (x.arg = k.arg))) stOK [] := by
  simp only [Dev.completeLong, hk, ho]

theorem Dev.completeLong_debugStep (ho : k.opcode = 0x1202) : s.completeLong idx =
    if k.arg2 ≤ s.tickNo then s.finishLong idx stOK (leBytes 8 k.arg2) else s := by
  simp only [Dev.completeLong, hk, ho]

end

/-- With PD01 on and firmware running, LONG_COMMAND_COMPLETION completes the entry. -/
theorem exec_longCommandCompletion_runs {s : State} {idx : Nat} {d : Dev} (h1 : s.dev.domOn 1 = true) (hf : s.dev.fwRuns = true)
    (hd : s.dev.completeLong idx = d) : exec (.longCommandCompletion idx) s = .next { s with dev := d } := by
  show execLongCommandCompletion idx s = _
  exact run_eq s rfl ((if_pos (by rw [h1, hf]; rfl)).trans hd)

/-- Settles O16: the completion of the entry's opcode, under the case that says whether its work has ended. -/
theorem longWorkEnds : Obligations.LongWorkEnds := by
  unfold Obligations.LongWorkEnds
  intro s idx k h1 hf hk
  have step {d : Dev} : s.dev.completeLong idx = d → exec (.longCommandCompletion idx) s = .next { s with dev := d } :=
    exec_longCommandCompletion_runs h1 hf
  refine ⟨?domOn, ?domOff, ?domWaits, ?castLoad, ?table, ?tableWaits, ?stage, ?pourWaits, ?poured, ?invalid, ?late, ?map,
    ?publish, ?sealed, ?revoke, ?arb, ?sealput, ?life, ?lifeEnd, ?hive, ?stepped, ?stepping⟩
  case domOn =>
    intro ho hq
    refine step ?_
    rw [Dev.completeLong_domainOn hk ho, Dev.endDomain_ends hq, if_pos rfl, List.append_nil, Option.elim_some]
  case domOff => exact fun ho hq => step (by rw [Dev.completeLong_domainOff hk ho, Dev.endDomain_ends hq]; rfl)
  case domWaits =>
    rintro (ho | ho) hq
    · exact step (d := s.dev) (by rw [Dev.completeLong_domainOn hk ho, Dev.endDomain_waits hq]; rfl)
    · exact step (d := s.dev) (by rw [Dev.completeLong_domainOff hk ho, Dev.endDomain_waits hq]; rfl)
  case castLoad => exact fun ho => step (Dev.completeLong_castLoad hk ho)
  case table =>
    intro ho hs
    refine step ((Dev.completeLong_streamTable hk ho).trans (if_neg ?_))
    simpa [List.any_eq_true] using hs
  case tableWaits =>
    intro ho hs
    refine step (d := s.dev) ((Dev.completeLong_streamTable hk ho).trans (if_pos ?_))
    simpa [List.any_eq_true] using hs
  case stage => exact fun ho => step (Dev.completeLong_setsStage hk ho)
  case pourWaits =>
    exact fun ho ha => step (d := s.dev) (by rw [Dev.completeLong_pourArm hk ho, Dev.endPour_waits ha]; rfl)
  case poured =>
    exact fun ho ha hd hn => step (by rw [Dev.completeLong_pourArm hk ho, Dev.endPour_ends ha, if_pos ⟨hd, hn⟩]; rfl)
  case invalid =>
    intro ho ha hd hi
    exact step (by rw [Dev.completeLong_pourArm hk ho, Dev.endPour_ends ha, if_neg (by omega), if_pos hi]; rfl)
  case late =>
    intro ho ha hd hi
    exact step (by rw [Dev.completeLong_pourArm hk ho, Dev.endPour_ends ha, if_neg (by omega), if_neg (by omega)]; rfl)
  case map => exact fun ho => step (Dev.completeLong_tripgateMap hk ho)
  case publish => exact fun ho => step (Dev.completeLong_publishTable hk ho)
  case sealed => exact fun ho n x hx => step (by rw [Dev.completeLong_journalSeal hk ho, Dev.endSeal_found hx])
  case revoke => exact fun ho => step (Dev.completeLong_keysRevoke hk ho)
  case arb => exact fun ho => step (Dev.completeLong_keysArb hk ho)
  case sealput => exact fun ho => step (Dev.completeLong_keysSealput hk ho)
  case life => exact fun ho ha => step ((Dev.completeLong_lifeGo hk ho).trans (if_neg ha))
  case lifeEnd => exact fun ho ha => step (by rw [Dev.completeLong_lifeGo hk ho, ha]; exact if_pos rfl)
  case hive => rintro ho d rfl; exact step (Dev.completeLong_resetHive hk ho)
  case stepped => exact fun ho ht => step ((Dev.completeLong_debugStep hk ho).trans (if_pos ht))
  case stepping => exact fun ho ht => step (d := s.dev) ((Dev.completeLong_debugStep hk ho).trans (if_neg (by omega)))

end Sys2Proof.Machine
end

section
/-!
PROOFS. MODE, DOMAIN and WORLD commands (02 R32, R36 to R39, 01 R17, 03 R63, 04 R72, 14 R376): what firmware's own work for
each comes to where none of its refusals applies.
-/

namespace Sys2Proof.Machine

open Sys2Proof.Safety

/-! ## The commands' own work, when nothing refuses it -/

section
variable {s : Dev} {c : Cid}

/-- Resources that no outstanding command holds. -/
theorem Dev.naming_free {l : List Nat} (h : s.resBusy l = false) (f : Dev → Dev) : s.naming c l f = f s :=
  if_neg (by rw [h]; decide)

/-- A change of mode that Table 2.5 has, whose conditions for SERVICE hold, waits for its tick (R36 to R38). -/
theorem Dev.cModeSet_accepts {m : Nat} (hp : s.pwr.pend = none) (hm : m < 6) (hmay : modeMay s.mode m = true)
    (hsvc : m = 3 → s.serviceUnmet = none) : s.cModeSet c m =
      (let e := s.done c (leBytes 8 s.tickIn20us)
       ({ e with pwr := { e.pwr with pend := some (m, s.tickIn20us) } } : Dev).setLong
        (e.cmd.long ++ [{ ring := c.hdr.ring, tag := c.hdr.tag, seq := c.hdr.seq, opcode := c.op }])) := by
  have hunmet : (if m = 3 then s.serviceUnmet else none) = none := ite_eq_right_iff.2 hsvc
  unfold Dev.cModeSet
  rw [hp, if_neg (by decide), if_neg (Nat.not_le.2 hm), if_neg (by rw [hmay]; decide), hunmet]

/-- A DOMAIN command on domains that it may name, none of which another command holds or a live resource keeps on (R32). -/
theorem Dev.cDomain_starts {on : Bool} {mask : Nat} (hmask : mask < 2 ^ 33) (hfix : (onesBelow 33 mask).any domFixed = false)
    (hboot : s.mode = 1 → ∀ x ∈ onesBelow 33 mask, x = 31) (hbusy : s.resBusy ((onesBelow 33 mask).map resDomain) = false)
    (hlive : on = false → (onesBelow 33 mask).any s.domLive = false) : s.cDomain c on mask =
      (let e := s.start c ((onesBelow 33 mask).map resDomain) mask
        (((onesBelow 33 mask).filter (fun d => decide (s.domOn d ≠ on))).foldl (fun a d => a + 2 ^ d) 0)
        (leBytes 4 s.pwr.undrained.length)
       e.seqPut ((e.domPlan on (onesBelow 33 mask)).map (fun d => (on, d)))) := by
  have hmode : ((onesBelow 33 mask).any domFixed ||
      (decide (s.mode = 1) && (onesBelow 33 mask).any (fun d => decide (d ≠ 31)))) = false := by
    by_cases h1 : s.mode = 1
    · simpa [hfix, h1] using hboot h1
    · simp [hfix, h1]
  have hkeep : (!on && (onesBelow 33 mask).any s.domLive) = false := by
    cases on
    · exact hlive rfl
    · rfl
  unfold Dev.cDomain
  dsimp only
  rw [if_neg (Nat.not_le.2 hmask), hmode, if_neg (by decide), Dev.naming_free hbusy, hkeep, if_neg (by decide)]

/-- Held cores and halted hives of worlds that the ring may name take the world given (R17, R90). -/
theorem Dev.cWorldAssign_assigns {cores hives world : Nat} (hw : world < 2)
    (hbusy : s.resBusy ((onesBelow 8 hives).map resHive) = false)
    (hheld : ∀ m ∈ onesBelow 8 cores, (s.core m).released = false)
    (hhalt : ∀ v ∈ onesBelow 8 hives, ∀ e ∈ hiveEngines v, s.engHalted e = true)
    (hcores : ∀ m ∈ onesBelow 8 cores, s.mayName c (s.core m).world = true)
    (hhives : ∀ v ∈ onesBelow 8 hives, s.mayName c (s.hiveWorld v) = true) : s.cWorldAssign c cores hives world =
      ((s.each (onesBelow 8 cores) (fun x m => x.onCore m (fun y => { y with world := world }))).each
        (onesBelow 8 hives) (fun x v => x.fs F.HIV_CTL_WORLD v world)).done c [] := by
  unfold Dev.cWorldAssign
  rw [if_neg (Nat.not_le.2 hw), if_neg (by simpa using hcores), if_neg (by simpa using hhives), Dev.naming_free hbusy,
    if_neg (by simpa using ⟨hheld, hhalt⟩)]

/-- A held core that is on runs from its entry (R63). -/
theorem Dev.cWorldStart_releases {m : Nat} {entry : DWord} (hm : m < 8) (hw : s.mayName c (s.core m).world = true)
    (hon : s.domOn (18 + m) = true) (hheld : (s.core m).released = false) :
    s.cWorldStart c m entry = (s.coreRelease m entry).done c [] := by
  unfold Dev.cWorldStart
  rw [if_neg (Nat.not_le.2 hm), hw, if_neg (by decide), hon, hheld, if_neg (by decide)]

/-- A ring that is disabled takes a world and a system bit (R72). -/
theorem Dev.cWorldRingcfg_writes {ring world system : Nat} (hr : ring < 16) (hw : world < 2) (hs : system < 2)
    (hen : s.fg F.CMD_RCTL_EN ring ≠ 1) : s.cWorldRingcfg c ring world system =
      ((s.fs F.CMD_RCFG_WORLD ring world).fs F.CMD_RCFG_SYS ring system).done c [] := by
  have hbad : firstBad [(decide (ring < 16), 0), (decide (world < 2), 1), (decide (system < 2), 2)] = none := by
    simp [firstBad, hr, hw, hs]
  unfold Dev.cWorldRingcfg
  rw [hbad]
  exact if_neg hen

end

/-- Settles O17: firmware takes the command (`takeCmd_taken`), and none of its own refusals applies. -/
theorem modeDomainWorldDo : Obligations.ModeDomainWorldDo := by
  unfold Obligations.ModeDomainWorldDo
  intro s h
  refine ⟨?modeSet, ?modeGet, ?domainOn, ?domainOff, ?assign, ?start, ?region, ?ringcfg⟩
  case modeSet =>
    rintro m d rfl ht hw hp hm hmay hsvc
    show execModeSet h m s = _
    exact run_eq s hw ((takeCmd_taken ht _).trans (Dev.cModeSet_accepts hp hm hmay hsvc))
  case modeGet =>
    rintro d rfl ht hw
    show execModeGet h s = _
    exact run_eq s hw (takeCmd_taken ht _)
  case domainOn =>
    rintro mask d rfl ht hw hmask hfix hboot hbusy
    show execDomainOn h mask s = _
    refine run_eq s hw ((takeCmd_taken ht _).trans ?_)
    rw [Dev.cDomain_starts (on := true) hmask hfix hboot hbusy nofun]
    simp
  case domainOff =>
    rintro mask d rfl ht hw hmask hfix hboot hbusy hlive
    show execDomainOff h mask s = _
    refine run_eq s hw ((takeCmd_taken ht _).trans ?_)
    rw [Dev.cDomain_starts hmask hfix hboot hbusy (fun _ => hlive)]
    simp
  case assign =>
    rintro cores hives world d rfl ht hw hworld hbusy hheld hhalt hcores hhives
    show execWorldAssign h cores hives world s = _
    exact run_eq s hw ((takeCmd_taken ht _).trans (Dev.cWorldAssign_assigns hworld hbusy hheld hhalt hcores hhives))
  case start =>
    rintro m entry d rfl ht hw hm hworld hon hheld
    show execWorldStart h m entry s = _
    exact run_eq s hw ((takeCmd_taken ht _).trans (Dev.cWorldStart_releases hm hworld hon hheld))
  case region =>
    rintro region world base size d rfl ht hw hok
    show execWorldRegion h region world base size s = _
    refine run_eq s hw ((takeCmd_taken ht _).trans ?_)
    unfold Dev.cWorldRegion
    dsimp only
    rw [hok]
  case ringcfg =>
    rintro ring world system d rfl ht hw hr hworld hs hen
    show execWorldRingcfg h ring world system s = _
    exact run_eq s hw ((takeCmd_taken ht _).trans (Dev.cWorldRingcfg_writes hr hworld hs hen))

end Sys2Proof.Machine
end

section
/-!
PROOFS. The tick grid (02 R37, 05 R114 to R117, R131, 09 R240): the arming of a rate and its change, the switch of mode at a
tick, TICK and HALF.
-/

namespace Sys2Proof.Machine

/-- An effect under a test of a proposition. -/
theorem Dev.cond_decide (s : Dev) (p : Prop) [Decidable p] (f : Dev → Dev) : s.cond (decide p) f = if p then f s else s := by
  by_cases h : p <;> simp [h]

/-! ## Arming a rate (R117) -/

/-- The bits of a word above bit 0 stand when bit 0 is set. -/
theorem bits_or_one (v : Word) : bits (v ||| 1).toNat 3 1 = bits v.toNat 3 1 := by
  simp [bits, Nat.shiftRight_or_distrib]

/-- A code in NEXT leaves the second of the change. -/
theorem Dev.effSec_fs (s : Dev) {f : Fld} (v : Nat) (h1 : f.reg ≠ .TKG_EFFSEC_LO) (h2 : f.reg ≠ .TKG_EFFSEC_HI) :
    (s.fs f 0 v).effSec = s.effSec := by
  unfold Dev.effSec
  rw [Dev.fg_congr (Dev.rd_fs_ne _ _ _ _ h1.symm), Dev.fg_congr (Dev.rd_fs_ne _ _ _ _ h2.symm)]

section
variable {s : Dev} {v : Word}

/-- A write with ARM of a code that names a rate: armed for a second ahead, late otherwise. -/
theorem Dev.tkgCtlWrite_arm (hn : bits v.toNat 3 1 < 6) : s.tkgCtlWrite (v ||| 1) =
    if s.effSec * nsPerSec ≤ s.time.now then
      ((s.fs F.TKG_CTL_NEXT 0 (bits v.toNat 3 1)).fs F.TKG_CTL_ARM 0 0).edge 10 (fun x => x.fs F.TKG_STAT_ARMLATE 0 1)
    else (s.fs F.TKG_CTL_NEXT 0 (bits v.toNat 3 1)).fs F.TKG_CTL_ARM 0 1 := by
  unfold Dev.tkgCtlWrite
  dsimp only
  rw [bits_or_one, if_pos ⟨by simp, hn⟩, Dev.effSec_fs _ _ (by decide) (by decide), Dev.time_fs]

/-- A code that names no rate leaves ARM clear. -/
theorem Dev.tkgCtlWrite_noRate (hn : 6 ≤ bits v.toNat 3 1) : s.tkgCtlWrite (v ||| 1) =
    (s.fs F.TKG_CTL_NEXT 0 (bits v.toNat 3 1)).fs F.TKG_CTL_ARM 0 0 := by
  unfold Dev.tkgCtlWrite
  dsimp only
  rw [bits_or_one, if_neg (fun h => Nat.not_lt.2 hn h.2)]

/-- The SVP's write acts. -/
theorem exec_tkgCtlArm_svp {s : State} {rq : Req} {v : Word} (hw : wellFormed (.tkgCtlArm rq v) = true) (hs : rq.svp = true)
    (hr : s.dev.reaches rq 2 = true) :
    exec (.tkgCtlArm rq v) s = .next { s with dev := (s.dev.tkgCtlWrite (v ||| 1)).ok 0 } := by
  show execTkgCtlArm rq v s = _
  exact run_eq s hw (by rw [hs, Dev.gate_admits hr])

/-! ## The change of rate (R117) -/

/-- An armed change to another rate, in BOOT or COMMISSION. -/
theorem Dev.applyRate_changes {old new : Nat} (ho : old = s.fg F.TKG_RATE_CODE 0) (hn : new = s.fg F.TKG_CTL_NEXT 0)
    (hne : new ≠ old) (hm : s.mode = 1 ∨ s.mode = 2) : s.applyRate =
      (let e := s.fs F.TKG_CTL_ARM 0 0
       let e := e.record 0x0012 0 0 (leBytes 4 old ++ leBytes 4 new ++ leBytes 8 e.effSec)
       let e := ((e.fs F.TKG_RATE_CODE 0 new).fs F.TKG_BUDGET_CYC 0 (nsPerSec / max 1 (rateHz new))).edge 10
         (fun x => x.fs F.TKG_STAT_CHANGED 0 1)
       { e with time := { e.time with rateDue := true, oldRate := old } }) := by
  subst ho hn
  refine if_neg ?_
  rw [Dev.mode_fs _ _ _ (by decide)]
  omega

/-- In another mode ARM is cleared, and the rate stays (log 44). -/
theorem Dev.applyRate_keeps (h1 : s.mode ≠ 1) (h2 : s.mode ≠ 2) : s.applyRate = s.fs F.TKG_CTL_ARM 0 0 := by
  refine if_pos (.inr ?_)
  rw [Dev.mode_fs _ _ _ (by decide)]
  exact ⟨h1, h2⟩

/-- RATE_CHANGE with a change armed moves the timebase to the top of EFFSEC. -/
theorem exec_rateChange_armed {s : State} (h2 : s.dev.domOn 2 = true) (ha : s.dev.fg F.TKG_CTL_ARM 0 = 1) :
    exec .rateChange s = .next { s with dev := (s.dev.moveTo (s.dev.effSec * nsPerSec)).applyRate } := by
  show execRateChange s = _
  exact run_eq s rfl (if_pos (by rw [h2, decide_eq_true ha]; rfl))

/-! ## The switch of mode (R37, R39, R240) -/

/-- The pending change taken up: its MODE SET command is no longer outstanding. -/
def Dev.pendTaken (s : Dev) : Dev :=
  ({ s with pwr := { s.pwr with pend := none } } : Dev).setLong (s.cmd.long.filter LongCmd.long)

/-- A switch to a mode other than DORMANT: an armed change of rate whose second lies ahead does not outlive COMMISSION, and TEST
ends step mode and simulated streams. -/
theorem Dev.switchMode_awake {m : Nat} (hm : m ≠ 0) (n : Nat) : s.switchMode m n =
    (let e := if s.mode = 2 ∧ s.pendTaken.time.now < s.pendTaken.effSec * nsPerSec then s.pendTaken.fs F.TKG_CTL_ARM 0 0
       else s.pendTaken
     let e := e.changeMode m trigCommand
     if s.mode = 4 then (e.stepEnd n).simStopAll else e) := by
  have hcond : s.switchMode m n = Dev.cond
      ((s.pendTaken.cond (decide (s.mode = 2) && decide (s.pendTaken.time.now < s.pendTaken.effSec * nsPerSec))
        (fun s => s.fs F.TKG_CTL_ARM 0 0)).changeMode m trigCommand)
      (decide (s.mode = 4)) (fun s => (s.stepEnd n).simStopAll) := if_neg hm
  rw [hcond, ← Bool.decide_and, Dev.cond_decide, Dev.cond_decide]

/-- A switch to DORMANT puts the module to sleep. -/
theorem Dev.switchMode_dormant {m : Nat} (hm : m = 0) (n : Nat) : s.switchMode m n = s.pendTaken.sleepModule := if_pos hm

/-- MODE_SWITCH with a change pending for the next tick. -/
theorem exec_modeSwitch_due {s : State} {m n : Nat} (h2 : s.dev.domOn 2 = true) (hp : s.dev.pwr.pend = some (m, n))
    (hn : n ≤ s.dev.nextTick) : exec .modeSwitch s = .next { s with
      dev := (s.dev.moveTo (tickAt s.dev.F s.dev.nextTick)).switchMode m s.dev.nextTick } := by
  show execModeSwitch s = _
  refine run_eq s rfl ((if_pos h2).trans ?_)
  dsimp only
  rw [hp]
  exact (if_pos hn).trans (Dev.pendMode_due (by rw [Dev.pwr_moveTo, hp]) hn)

/-! ## TICK and HALF (R114, R115) -/

/-- The module as tick n at instant x finds it: COMMAND frames dropped, the switches due made, the grid moved on. -/
def Dev.tickTaken (s : Dev) (n x : Nat) : Dev :=
  ((((s.each (List.range 4) Dev.cmdDrop).applySwitches x).gridTo n).pendMode n).takeMode

/-- Whether tick n flushes the comb. -/
def Dev.tickFlush (s : Dev) (x : Nat) : Bool :=
  let d := (s.each (List.range 4) Dev.cmdDrop).applySwitches x
  d.time.flushDue || d.time.rateDue || d.time.combDue

/-- Every output unit emptied, and event 3 captured. -/
def Dev.tickStamped (s : Dev) (n x : Nat) : Dev := ((s.tickTaken n x).each (List.range 64) Dev.outClear).tsuCap 0x03 x

/-- What tick n does after the timestamp unit's captures, up to the context events of the engines. -/
def Dev.tickWork (s : Dev) (n : Nat) (flush : Bool) : Dev :=
  let e := (s.icPend 11).tmrAll 1
  let e := if e.domOn 8 then e.combTick n flush else e
  let e := e.capTick
  let e := if e.domOn 17 then e.pourTick n else e
  let e := e.each (List.range 8) (fun y h => y.stepTick n h)
  let e := e.each ((List.range 64).filter (fun i => (e.eng i).runArmed && decide ((e.eng i).startTick ≤ n))) Dev.engineStartNow
  e.each (List.range 64) (fun y i => y.engTick i n e.clk)

/-- TICK with no change of rate armed. -/
theorem Dev.tickNow_unarmed {n x : Nat} (ha : s.fg F.TKG_CTL_ARM 0 = 0) (hn : n = s.nextTick) (hx : x = tickAt s.F n) :
    s.tickNow = if (s.tickTaken n x).mode = 0 then s.tickTaken n x
      else ((s.tickStamped n x).cond (decide (n % (s.tickStamped n x).F = 0)) (fun y => y.tsuCap 0x05 x)).tickWork n
        (s.tickFlush x) := by
  subst hn hx
  unfold Dev.tickNow
  rw [ha]
  rfl

/-- TICK. -/
theorem exec_tick_on {s : State} (h2 : s.dev.domOn 2 = true) : exec .tick s = .next { s with dev := s.dev.tickNow } := by
  show execTick s = _
  exact run_eq s rfl (if_pos h2)

/-- HALF, the first one of a tick. -/
theorem exec_half_first {s : State} (h2 : s.dev.domOn 2 = true) (hr : s.dev.time.tickRaised = true)
    (hh : s.dev.time.halfDone = false) :
    exec .half s = .next { s with dev := s.dev.halfNow } := by
  show execHalf s = _
  exact run_eq s rfl (if_pos (by rw [h2, hr, hh]; rfl))

/-- A second HALF of a tick does nothing. -/
theorem exec_half_again {s : State} (hh : s.dev.time.halfDone = true) : exec .half s = .next s := by
  show execHalf s = _
  exact run_eq (d := s.dev) s rfl (if_neg (by rw [hh]; simp))

end

/-- Settles O22: each row's rule, with what the effect that it calls comes to in the case named. -/
theorem tickGridActs : Obligations.TickGridActs := by
  unfold Obligations.TickGridActs
  intro s
  refine ⟨?armed, ?late, ?noRate, ?changes, ?keeps, ?switch, ?sleep, ?tick, ?tickAsleep,
    exec_tick_on, ?half, exec_half_again⟩
  case armed =>
    exact fun rq v hw hs hr hn ht => by rw [exec_tkgCtlArm_svp hw hs hr, Dev.tkgCtlWrite_arm hn, if_neg (Nat.not_le.2 ht)]
  case late => exact fun rq v hw hs hr hn ht => by rw [exec_tkgCtlArm_svp hw hs hr, Dev.tkgCtlWrite_arm hn, if_pos ht]
  case noRate => exact fun rq v hw hs hr hn => by rw [exec_tkgCtlArm_svp hw hs hr, Dev.tkgCtlWrite_noRate hn]
  case changes =>
    rintro d old new h2 ha rfl ho hn hne hm
    rw [exec_rateChange_armed h2 ha, Dev.applyRate_changes ho hn hne hm]
  case keeps => exact fun h2 ha hm1 hm2 => by rw [exec_rateChange_armed h2 ha, Dev.applyRate_keeps hm1 hm2]
  case switch =>
    rintro m n d h2 hp hn hm rfl
    rw [exec_modeSwitch_due h2 hp hn, Dev.switchMode_awake hm]
    rfl
  case sleep =>
    rintro n d e h2 hp hn rfl rfl
    rw [exec_modeSwitch_due h2 hp hn, Dev.switchMode_dormant rfl]
    rfl
  case tick =>
    rintro n x flush d0 d h2 ha hn hx rfl rfl rfl hm
    rw [exec_tick_on h2, Dev.tickNow_unarmed ha hn hx, if_neg (show (s.dev.tickTaken n x).mode ≠ 0 from hm), Dev.cond_decide]
    rfl
  case tickAsleep =>
    rintro n d h2 ha hn rfl hm
    rw [exec_tick_on h2, Dev.tickNow_unarmed ha hn rfl, if_pos (show (s.dev.tickTaken n _).mode = 0 from hm)]
    rfl
  case half =>
    rintro x d h2 hr hh rfl rfl
    rw [exec_half_first h2 hr hh]
    rfl

end Sys2Proof.Machine
end

section
/-!
PROOFS. Restarts of the supervisor pair and the steps of a boot (03 R50, R54, R56, R63, R64, R492).
-/

namespace Sys2Proof.Machine

/-! ## Restarts (R50, R54) -/

/-- A restart cause of a supervisor that is on and not DOWN: noted, and the pair stopped; the second one within 10 s is DOWN. -/
theorem Dev.svpRestart_counts {s : Dev} (h1 : s.domOn 1 = true) (hd : s.fg F.SVP_STAT_DOWN 0 ≠ 1) (cause : Nat) :
    s.svpRestart cause = s.faultEdge (fun d =>
      let r : Dev := { (d.restartNote cause).svpStop with
        svp := { ((d.restartNote cause).svpStop).svp with lastCause := some d.clk } }
      if d.secondCause then r.svpDown else r.svpBegin) :=
  if_neg (by simp [h1, hd])

/-- A code of Table 3.7 is a restart cause. -/
theorem exec_lockstepMismatch_cause {s : State} {cause : Nat} (h1 : 1 ≤ cause) (h4 : cause ≤ 4) :
    exec (.lockstepMismatch cause) s = .next { s with dev := s.dev.svpRestart cause } := by
  show execLockstepMismatch cause s = _
  exact run_eq s (decide_eq_true (by omega)) (if_pos ⟨h1, h4⟩)

/-- Another code changes nothing. -/
theorem exec_lockstepMismatch_other {s : State} {cause : Nat} (h : cause = 0 ∨ (4 < cause ∧ cause < 8)) :
    exec (.lockstepMismatch cause) s = .next s := by
  show execLockstepMismatch cause s = _
  exact run_eq (d := s.dev) s (decide_eq_true (by omega)) (if_neg (by omega))

/-- A restart outside BOOT ends with a search for firmware. -/
theorem exec_svpRestartComplete_restarting {s : State} (hr : s.dev.svp.restarting = true) (hm : s.dev.mode ≠ 1) :
    exec .svpRestartComplete s = .next { s with dev := s.dev.svpAgain } := by
  show execSvpRestartComplete s = _
  exact run_eq s rfl (if_pos (by rw [hr, decide_eq_true hm, Bool.and_self]))

/-- An accepted slot runs. -/
theorem Dev.svpAgain_starts {s : Dev} {i : Nat} {x : Image} (h : s.imagePick false = some (i, x)) :
    s.svpAgain = s.fwStart i x := by
  unfold Dev.svpAgain
  rw [h]

/-- Without one the restart goes on (log 29). -/
theorem Dev.svpAgain_stays {s : Dev} (h : s.imagePick false = none) : s.svpAgain = s := by
  unfold Dev.svpAgain
  rw [h]

/-! ## The boot (R63, R64) -/

/-- The work of a boot step goes by LCS_BOOT.STEP. -/
theorem Dev.bootStep_eq (s : Dev) (trained : Bool) : s.bootStep trained =
    if s.fg F.LCS_BOOT_STEP 0 = 1 then s.boot1
    else if s.fg F.LCS_BOOT_STEP 0 = 2 then s.boot2
    else if s.fg F.LCS_BOOT_STEP 0 = 3 then s.boot3 trained
    else if s.fg F.LCS_BOOT_STEP 0 = 4 then s.boot4
    else if s.fg F.LCS_BOOT_STEP 0 = 5 then s.boot5
    else if s.fg F.LCS_BOOT_STEP 0 = 6 then s.boot6 else s := by
  unfold Dev.bootStep
  generalize s.fg F.LCS_BOOT_STEP 0 = step
  match step with
  | 0 | 1 | 2 | 3 | 4 | 5 | 6 => rfl
  | _ + 7 => rfl

/-- BOOT_STEP while a boot is under way. -/
theorem exec_bootStep_booting {s : State} (hb : s.dev.booting = true) (trained : Bool) :
    exec (.bootStep trained) s = .next { s with dev := s.dev.bootStep trained } := by
  show execBootStep trained s = _
  exact run_eq s rfl (if_pos hb)

/-- BOOTWAIT_EXPIRY of a wait that began at clock k. -/
theorem exec_bootwaitExpiry_waiting {s : State} {k : Nat} (hb : s.dev.booting = true) (hk : s.dev.svp.waitAt = some k) :
    exec .bootwaitExpiry s = .next { s with dev := s.dev.waitOver k } := by
  show execBootwaitExpiry s = _
  exact run_eq s rfl (by rw [hk]; exact if_pos hb)

/-- Settles O10: a code of Table 3.7 restarts the pair, the end of a restart goes by the slot picked, a boot step by STEP. -/
theorem supervisorAndBootAct : Obligations.SupervisorAndBootAct := by
  unfold Obligations.SupervisorAndBootAct
  intro s
  refine ⟨?cause, fun cause => exec_lockstepMismatch_other, ?restarted, ?noSlot, ?step,
    fun k => exec_bootwaitExpiry_waiting⟩
  case cause =>
    intro cause h1 h4 hon hdown
    rw [exec_lockstepMismatch_cause h1 h4, Dev.svpRestart_counts hon hdown]
  case restarted =>
    intro i x hr hm hi
    rw [exec_svpRestartComplete_restarting hr hm, Dev.svpAgain_starts hi]
    rfl
  case noSlot =>
    intro hr hm hi
    rw [exec_svpRestartComplete_restarting hr hm, Dev.svpAgain_stays hi]
  case step =>
    intro trained hb
    rw [exec_bootStep_booting hb, Dev.bootStep_eq]

end Sys2Proof.Machine
end

section
/-!
PROOFS. STREAM, TRIPGATE MAP, PUBLISH, KEYS and LIFE commands that nothing refuses (03 R57, R58, R62, R65, R66; 06 R136, R156;
10 R259, R261, R262): each command's own work, and its taking by firmware.
-/

namespace Sys2Proof.Machine

open Sys2Proof.Safety

/-- A command that is taken and ends ACCEPTED spends no nonce yet (R65). -/
theorem takeCmd_starts {s t : Dev} {h : CmdHdr} {op : Nat} {body : Cid → Dev → Dev} {c : Cid} {res : List Nat} {arg arg2 : Nat}
    {data : List Byte} (ht : Taken s h op) (hb : body ⟨h, op⟩ (atHead s h op) = t.start c res arg arg2 data) :
    s.takeCmd h op body = t.start c res arg arg2 data := by
  rw [takeCmd_runs ht, hb, Dev.spendNonce_start]

section
variable {s t : Dev} {c : Cid} {b : BulkRef} {bs : List Byte}

/-! ## STREAM (R136, R156) -/

/-- A table that is copied and accepted is taken up at the switch scheduled. -/
theorem Dev.cStreamTable_starts (hbusy : s.resBusy [resTable kindStream] = false) (hcopy : Copied s t c b bs)
    (hok : t.tabCheck c bs = none) :
    s.cStreamTable c b = (t.scheduleSwitch { table := bs }).start c [resTable kindStream] (tabStreams bs) 0 [] := by
  unfold Dev.cStreamTable
  rw [Dev.naming_free hbusy, bulk_of hcopy, hok]

/-- A bit of a subscription that the ring may name is scheduled. -/
theorem Dev.cStreamBit_schedules {i on : Nat} (kind : Nat) (hi : i < 768) (hon : on < 2)
    (hw : s.mayName c (s.subWorld i) = true) : s.cStreamBit c kind i on =
      (s.scheduleSwitch { kind := kind, stream := i, on := decide (on = 1) }).done c [] := by
  unfold Dev.cStreamBit
  rw [if_neg (Nat.not_le.2 hi), if_neg (Nat.not_le.2 hon), hw, if_neg (by decide)]

/-! ## TRIPGATE MAP and PUBLISH (R259, R261, R262) -/

/-- A trip map that is copied and accepted waits for the first publish point at least 20 us away. -/
theorem Dev.cTripgateMap_starts (hbusy : s.resBusy [resTable kindMap] = false) (hcopy : Copied s t c b bs)
    (hok : t.mapCheck c bs = none) : s.cTripgateMap c b =
      ({ t with trg := { t.trg with mapNext := some (t.time.now + 20000, mapEntries bs) } } : Dev).start c [resTable kindMap] 0 0 [] := by
  unfold Dev.cTripgateMap
  rw [Dev.naming_free hbusy, bulk_of hcopy, hok]

/-- A control-block table that is copied and accepted is kept for the completion. -/
theorem Dev.cPublishTable_starts (hbusy : s.resBusy [resTable kindPub] = false) (hcopy : Copied s t c b bs)
    (hok : t.pubCheck c bs = none) : s.cPublishTable c b = t.start c [resTable kindPub] 0 0 bs := by
  unfold Dev.cPublishTable
  rw [Dev.naming_free hbusy, bulk_of hcopy, hok]

/-- A loaded block of a world that the ring may name starts or ends. -/
theorem Dev.cPublishEnable_switches {k on : Nat} (hk : k < 128) (hon : on < 2) (hl : (s.pblk k).loaded = true)
    (hw : s.mayName c (s.fg F.PUB_CFG_WORLD k) = true) :
    s.cPublishEnable c k on = (if on = 1 then s.pubEnable k else s.pubDisable k).done c [] := by
  unfold Dev.cPublishEnable
  rw [if_neg (Nat.not_le.2 hk), if_neg (Nat.not_le.2 hon), hl, if_neg (by decide), hw, if_neg (by decide)]

/-! ## KEYS and LIFE (R57, R58, R62, R65, R66) -/

/-- A command on a free fuse port whose envelope is copied and accepted goes on to its own work. -/
theorem Dev.signed_accepts {slots : List Nat} {op : List Byte} (hbusy : s.resBusy [resFuse] = false) (hcopy : Copied s t c b bs)
    (henv : t.envelope slots op bs = none) (f : Dev → List Byte → Dev) : s.signed c slots op b f = f t bs := by
  unfold Dev.signed
  rw [Dev.naming_free hbusy, bulk_of hcopy, henv]

/-- A slot whose other one is not revoked may be revoked. -/
theorem Dev.cKeysRevoke_starts {slot : Nat} (hslot : slot < 8) (hbusy : s.resBusy [resFuse] = false) (hcopy : Copied s t c b bs)
    (henv : t.envelope (if slot < 2 then [1 - slot] else [2, 3]) (leBytes 1 slot) bs = none)
    (hother : (t.keySlot (if slot % 2 = 0 then slot + 1 else slot - 1)).revoked = false) :
    s.cKeysRevoke c slot b = t.start c [resFuse] slot 0 [] := by
  unfold Dev.cKeysRevoke
  rw [if_neg (Nat.not_le.2 hslot), Dev.signed_accepts hbusy hcopy henv]
  exact if_neg (by rw [hother, Bool.and_false]; decide)

/-- A counter of the two that there are may advance. -/
theorem Dev.cKeysArb_starts {counter : Nat} (hn : counter < 2) (hbusy : s.resBusy [resFuse] = false) (hcopy : Copied s t c b bs)
    (henv : t.envelope [2, 3] (leBytes 1 counter) bs = none) : s.cKeysArb c counter b = t.start c [resFuse] counter 0 [] := by
  unfold Dev.cKeysArb
  rw [if_neg (Nat.not_le.2 hn), Dev.signed_accepts hbusy hcopy henv]

/-- A Sealed ring stores a secret. -/
theorem Dev.cKeysSealput_starts {slot : Nat} (hw : s.ringWorld c.hdr.ring = 1) (hcopy : Copied s t c b bs)
    (henv : t.envelope [2, 3] (leBytes 1 slot) bs = none) : s.cKeysSealput c slot b = t.start c [] slot 0 bs := by
  unfold Dev.cKeysSealput
  rw [if_neg (not_not_intro hw), bulk_of hcopy, henv]

/-- The module as a LIFE GO is accepted: RETPEND is blown where the target is RETURN. -/
def Dev.lifeBegun (s : Dev) (target : Nat) : Dev :=
  if target = 3 then { s with lcs := { s.lcs with retpend := true } } else s

/-- A transition of Table 3.5 in COMMISSION, signed as it says and with the keys that it programs, begins. -/
theorem Dev.cLifeGo_starts {target : Nat} {slots : List Nat} (htarget : target < 5) (hm : s.mode = 2)
    (hslots : lifeSlots s.lcs.state target = some slots) (hbusy : s.resBusy [resFuse] = false) (hcopy : Copied s t c b bs)
    (henv : t.envelope slots (leBytes 1 target) bs = none) (hkeys : target = 1 → keysGiven bs = true) :
    s.cLifeGo c target b = (t.lifeBegun target).start c [resFuse] target (t.lifeBegun target).lcs.state bs := by
  have hgiven : ¬ (target = 1 ∧ (!keysGiven bs) = true) := fun ⟨h1, h⟩ => by rw [hkeys h1] at h; cases h
  unfold Dev.cLifeGo
  rw [if_neg (Nat.not_le.2 htarget), if_pos hm, hslots]
  dsimp only
  rw [Dev.signed_accepts hbusy hcopy henv, if_neg hgiven, Dev.cond_decide]
  rfl

end

/-- Settles O20: firmware takes the command (`takeCmd_taken`, `takeCmd_starts`), and none of its own refusals applies. -/
theorem tableKeyLifeDo : Obligations.TableKeyLifeDo := by
  unfold Obligations.TableKeyLifeDo
  intro s h
  refine ⟨?table, ?enable, ?simsel, ?map, ?pubTable, ?pubEnable, ?revoke, ?arb, ?sealput, ?life⟩
  case table =>
    rintro b t bs d rfl ht hw hbusy hcopy hok
    show execStreamTable h b s = _
    exact run_eq s hw ((takeCmd_taken ht _).trans (Dev.cStreamTable_starts hbusy hcopy hok))
  case enable =>
    rintro i on d rfl ht hw hi hon hname
    show execStreamEnable h i on s = _
    exact run_eq s hw ((takeCmd_taken ht _).trans (Dev.cStreamBit_schedules 1 hi hon hname))
  case simsel =>
    rintro i on d rfl ht hw hi hon hname
    show execStreamSimsel h i on s = _
    exact run_eq s hw ((takeCmd_taken ht _).trans (Dev.cStreamBit_schedules 2 hi hon hname))
  case map =>
    rintro b t bs d rfl ht hw hbusy hcopy hok
    show execTripgateMap h b s = _
    exact run_eq s hw ((takeCmd_taken ht _).trans (Dev.cTripgateMap_starts hbusy hcopy hok))
  case pubTable =>
    rintro b t bs d rfl ht hw hbusy hcopy hok
    show execPublishTable h b s = _
    exact run_eq s hw ((takeCmd_taken ht _).trans (Dev.cPublishTable_starts hbusy hcopy hok))
  case pubEnable =>
    rintro b on d rfl ht hw hb hon hl hname
    show execPublishEnable h b on s = _
    exact run_eq s hw ((takeCmd_taken ht _).trans (Dev.cPublishEnable_switches hb hon hl hname))
  case revoke =>
    rintro slot b t bs d rfl ht hw hslot hbusy hcopy henv hother
    show execKeysRevoke h slot b s = _
    exact run_eq s hw (takeCmd_starts ht (Dev.cKeysRevoke_starts hslot hbusy hcopy henv hother))
  case arb =>
    rintro counter b t bs d rfl ht hw hn hbusy hcopy henv
    show execKeysArb h counter b s = _
    exact run_eq s hw (takeCmd_starts ht (Dev.cKeysArb_starts hn hbusy hcopy henv))
  case sealput =>
    rintro slot b t bs d rfl ht hw hworld hcopy henv
    show execKeysSealput h slot b s = _
    exact run_eq s hw (takeCmd_starts ht (Dev.cKeysSealput_starts hworld hcopy henv))
  case life =>
    rintro target slots b t bs d rfl ht hw htarget hm hslots hbusy hcopy henv hkeys
    show execLifeGo h target b s = _
    exact run_eq s hw (takeCmd_starts ht (Dev.cLifeGo_starts htarget hm hslots hbusy hcopy henv hkeys))

end Sys2Proof.Machine
end

section
/-!
PROOFS. The messages of the debug mailbox (03 R61, R67 to R69; 09 R238 to R240; 17 R440, R441): each message's own work in each
of its outcomes, and its service by firmware, by the ROM or by the stub of END.
-/

namespace Sys2Proof.Machine

/-! ## The rows -/

theorem exec_ident (s : State) : exec .ident s = .next { s with dev := s.dev.mbServe 1 Dev.mbIdent } := rfl

theorem exec_challenge (s : State) : exec .challenge s = .next { s with dev := s.dev.mbServe 2 Dev.mbChallenge } := rfl

theorem exec_unlock (s : State) : exec .unlock s = .next { s with dev := s.dev.mbServe 3 Dev.mbUnlock } := rfl

theorem exec_close (s : State) :
    exec .close s = .next { s with dev := s.dev.mbServe 4 (fun d => d.endUnlock.mbReply 4 stOK []) } := rfl

theorem exec_engineEngbrk (s : State) :
    exec .engineEngbrk s = .next { s with dev := s.dev.mbEngine 1 Dev.mbEngbrk } := rfl

theorem exec_engineStep (s : State) : exec .engineStep s = .next { s with dev := s.dev.mbEngine 2 Dev.mbStep } := rfl

theorem exec_engineRelease (s : State) :
    exec .engineRelease s = .next { s with dev := s.dev.mbEngine 3 Dev.mbRelease } := rfl

/-! ## CHALLENGE (R441) -/

section
variable {s : Dev} {level : Nat}

/-- In a lockout there is no challenge. -/
theorem Dev.mbChallenge_lockedOut (h : s.lockedOut = true) : s.mbChallenge = s.mbReply 2 stBusy [] := if_pos h

/-- A level that does not exist. -/
theorem Dev.mbChallenge_noLevel (hl : level = leNat (s.mbiBytes 0 1)) (h : s.lockedOut = false) (hr : level = 0 ∨ 3 < level) :
    s.mbChallenge = s.mbReply 2 stBadParam [] := by
  subst hl
  unfold Dev.mbChallenge
  rw [h, if_neg (by decide), if_pos hr]

/-- A level above those that a request may name. -/
theorem Dev.mbChallenge_above (hl : level = leNat (s.mbiBytes 0 1)) (h : s.lockedOut = false) (h1 : 1 ≤ level) (h3 : level ≤ 3)
    (hmost : s.levelMost < level) : s.mbChallenge = s.mbReply 2 stDenied [] := by
  subst hl
  unfold Dev.mbChallenge
  rw [h, if_neg (by decide), if_neg (by omega), if_pos hmost]

/-- A new challenge is drawn, and sent with the die's identity. -/
theorem Dev.mbChallenge_draws (hl : level = leNat (s.mbiBytes 0 1)) (h : s.lockedOut = false) (h1 : 1 ≤ level) (h3 : level ≤ 3)
    (hmost : level ≤ s.levelMost) : s.mbChallenge =
      (({ s with lcs := { s.lcs with chal := some (Config.random128 s.freeCtr, s.clk) } } : Dev).draw).mbReply 2 stOK
        (leBytes 8 s.lcs.dieId.toNat ++ leBytes 16 (Config.random128 s.freeCtr).toNat) := by
  subst hl
  unfold Dev.mbChallenge
  rw [h, if_neg (by decide), if_neg (by omega), if_neg (by omega)]

/-- In front of the stub of END a request may name any level (R67). -/
theorem Dev.levelMost_stub (h : s.stubRuns = true) : s.levelMost = 3 := if_pos h

/-! ## UNLOCK (R68, R69, R441) -/

/-- The module with its challenge spent. -/
def Dev.chalSpent (s : Dev) : Dev := { s with lcs := { s.lcs with chal := none } }

/-- A level that may not be asked for: above the highest one, or level 2 in FIELD without an unlock before it (Table 3.6). -/
def Dev.unlockBarred (s : Dev) (level : Nat) : Prop :=
  s.levelMost < level ∨ (s.lcs.state = 2 ∧ level = 2 ∧ s.fg F.LCS_DBG_UNLOCK 0 = 0)

/-- The stub of END bars no level that exists. -/
theorem Dev.unlockBarred_stub (h : s.stubRuns = true) (h3 : level ≤ 3) : ¬ s.unlockBarred level := by
  have hend : s.lcs.state = 4 := of_decide_eq_true (Bool.and_eq_true_iff.1 h).1
  rw [Dev.unlockBarred, Dev.levelMost_stub h, hend]
  omega

/-- A level that does not exist. -/
theorem Dev.mbUnlock_noLevel (hl : level = objNat (s.mbiBytes 0 256) 0xCD 1) (hr : level = 0 ∨ 3 < level) :
    s.mbUnlock = s.chalSpent.mbReply 3 stBadParam [] := by
  subst hl
  exact if_pos hr

/-- A level that is barred. -/
theorem Dev.mbUnlock_barred (hl : level = objNat (s.mbiBytes 0 256) 0xCD 1) (h1 : 1 ≤ level) (h3 : level ≤ 3)
    (hb : s.chalSpent.unlockBarred level) : s.mbUnlock = s.chalSpent.mbReply 3 stDenied [] := by
  subst hl
  exact (if_neg (by omega)).trans (if_pos hb)

/-- An UNLOCK of a level that may be asked for, by the challenge that its envelope answers: without one, or with an envelope that
does not hold, it is refused; otherwise the stub of END answers, or the level opens. -/
def Dev.unlockTry (s : Dev) (level : Nat) (b : List Byte) : Option (BitVec 128) → Dev
  | none => s.mbRefusal stAuthFail
  | some n =>
    match s.envelopeWith (debugSlots s.lcs.state level) (leBytes 1 level) (leBytes 16 n.toNat) b with
    | some status => s.mbRefusal status
    | none => if s.stubRuns then s.stubStatus else s.openUnlock level

/-- Any other level is tried, with the challenge spent. -/
theorem Dev.mbUnlock_tries (hl : level = objNat (s.mbiBytes 0 256) 0xCD 1) (h1 : 1 ≤ level) (h3 : level ≤ 3)
    (hb : ¬ s.chalSpent.unlockBarred level) :
    s.mbUnlock = s.chalSpent.unlockTry level (s.mbiBytes 0 256) s.validChal := by
  subst hl
  refine (if_neg (by omega)).trans ((if_neg hb).trans ?_)
  cases s.validChal <;> rfl

section
variable {b : List Byte} {n : BitVec 128}

theorem Dev.unlockTry_none : s.unlockTry level b none = s.mbRefusal stAuthFail := rfl

theorem Dev.unlockTry_refused {status : Nat} (h : s.envelopeWith (debugSlots s.lcs.state level) (leBytes 1 level)
    (leBytes 16 n.toNat) b = some status) : s.unlockTry level b (some n) = s.mbRefusal status := by
  rw [Dev.unlockTry, h]

theorem Dev.unlockTry_holds (h : s.envelopeWith (debugSlots s.lcs.state level) (leBytes 1 level) (leBytes 16 n.toNat) b = none) :
    s.unlockTry level b (some n) = if s.stubRuns then s.stubStatus else s.openUnlock level := by
  rw [Dev.unlockTry, h]

end

/-! ## ENGINE (R238 to R240) -/

section
variable {sub : Nat} (f : Dev → Dev)

/-- An ENGINE message in progress with the operation's number is served. -/
theorem Dev.mbEngine_runs (h1 : s.domOn 1 = true) (h2 : s.lcs.mbBusy = some 5) (h3 : s.fwRuns = true ∨ s.romAnswers = true)
    (h4 : debugGrant s.lcs.state s.mode ≠ 0) (hsub : leNat (s.mbiBytes 0 1) = sub) : s.mbEngine sub f = f s :=
  (if_pos hsub).trans (Dev.mbServe_runs h1 h2 h3 (.inr h4) f)

variable {e : Nat}

/-- An engine that does not exist. -/
theorem Dev.mbOnEngine_noEngine (h : 64 ≤ e) : s.mbOnEngine e f = s.mbReply 5 stBadParam [] := if_pos h

/-- An engine of a hive that is off. -/
theorem Dev.mbOnEngine_off (he : e < 64) (h : s.domOn (9 + e / 8) = false) : s.mbOnEngine e f = s.mbReply 5 stNotReady [] := by
  unfold Dev.mbOnEngine
  rw [if_neg (Nat.not_le.2 he), h, if_pos (by decide)]

/-- An engine of a world that the unlock does not cover. -/
theorem Dev.mbOnEngine_uncovered (he : e < 64) (hon : s.domOn (9 + e / 8) = true) (h : s.unlockReach (s.engWorld e) = false) :
    s.mbOnEngine e f = s.mbReply 5 stDenied [] := by
  unfold Dev.mbOnEngine
  rw [if_neg (Nat.not_le.2 he), hon, if_neg (by decide), h, if_pos (by decide)]

/-- An engine that is on and covered. -/
theorem Dev.mbOnEngine_runs (he : e < 64) (hon : s.domOn (9 + e / 8) = true) (h : s.unlockReach (s.engWorld e) = true) :
    s.mbOnEngine e f = f s := by
  unfold Dev.mbOnEngine
  rw [if_neg (Nat.not_le.2 he), hon, if_neg (by decide), h, if_neg (by decide)]

end

/-- ENGBRK on an engine that is on and covered sets the breakpoint, or refuses its arguments. -/
theorem Dev.mbEngbrk_runs (he : s.mbArg 0 < 64) (hon : s.domOn (9 + s.mbArg 0 / 8) = true)
    (hu : s.unlockReach (s.engWorld (s.mbArg 0)) = true) : s.mbEngbrk =
      if 2 ≤ s.mbArg 1 ∨ 8192 ≤ leNat (s.mbiBytes 6 2) ∨ 2 ≤ s.mbArg 4 then s.mbReply 5 stBadParam []
      else ((s.fs F.PE_BRK_ADDR (2 * s.mbArg 0 + s.mbArg 1) (leNat (s.mbiBytes 6 2))).fs F.PE_BRK_EN
        (2 * s.mbArg 0 + s.mbArg 1) (s.mbArg 4)).mbReply 5 stOK [] := by
  rw [Dev.mbEngbrk, Dev.mbOnEngine_runs _ he hon hu]

/-- RELEASE on an engine that is on and covered. -/
theorem Dev.mbRelease_runs (he : s.mbArg 0 < 64) (hon : s.domOn (9 + s.mbArg 0 / 8) = true)
    (hu : s.unlockReach (s.engWorld (s.mbArg 0)) = true) : s.mbRelease =
      (s.each (onesBelow 8 (s.mbArg 1)) (fun x c => x.releaseCtx (s.mbArg 0) c)).mbReply 5 stOK [] := by
  rw [Dev.mbRelease, Dev.mbOnEngine_runs _ he hon hu]

/-- Step mode is entered in TEST alone. -/
theorem Dev.mbStep_otherMode (h : s.mode ≠ 4) : s.mbStep = s.mbReply 5 stBadMode [] := if_pos h

/-- In TEST, on hives of worlds that the unlock covers. -/
theorem Dev.mbStep_test (h : s.mode = 4) : s.mbStep =
    if (onesBelow 8 (s.mbArg 0)).any (fun k => !s.unlockReach (s.hiveWorld k)) = true then s.mbReply 5 stDenied []
    else (s.each (onesBelow 8 (s.mbArg 0)) (fun x k =>
      x.onHive k (fun y => { y with stepStart := some (s.tickIn20us, leNat (s.mbiBytes 6 2)) }))).mbReply 5 stAccepted [] :=
  if_neg (not_not_intro h)

end

/-! ## The ends of a challenge and of a lockout (R441) -/

section
variable {s : State}

theorem exec_challengeExpiry_given {n : BitVec 128} {k : Nat} (h : s.dev.lcs.chal = some (n, k)) :
    exec .challengeExpiry s = .next { s with dev := (s.dev.moveClk (k + 60 * nsPerSec)).chalSpent } := by
  show execChallengeExpiry s = _
  exact run_eq s rfl (by rw [h]; rfl)

theorem exec_challengeExpiry_none (h : s.dev.lcs.chal = none) : exec .challengeExpiry s = .next s := by
  show execChallengeExpiry s = _
  exact run_eq (d := s.dev) s rfl (by rw [h])

theorem exec_lockoutEnd_locked {k : Nat} (h : s.dev.lcs.lockAt = some k) :
    exec .lockoutEnd s = .next { s with
      dev :=
        let d := s.dev.moveClk (k + 60 * nsPerSec)
        { d with lcs := { d.lcs with lockAt := none, refusals := 0 } } } := by
  show execLockoutEnd s = _
  exact run_eq s rfl (by rw [h]; rfl)

theorem exec_lockoutEnd_none (h : s.dev.lcs.lockAt = none) : exec .lockoutEnd s = .next s := by
  show execLockoutEnd s = _
  exact run_eq (d := s.dev) s rfl (by rw [h])

end

/-- Settles O49: who serves a message is `Dev.mbServe`'s rule; each clause is then one outcome of the message's own work. -/
theorem debugMessagesAct : Obligations.DebugMessagesAct := by
  unfold Obligations.DebugMessagesAct
  intro s
  refine ⟨?ident, ?noIdent, ?noChallenge, ?noUnlock, ?noClose, ?chalBusy, ?chalLevel, ?chalDenied, ?chalDrawn, ?unlockLevel,
    ?unlockBarred, ?unlockNoChal, ?unlockRefused, ?unlockOpens, ?stubChal, ?stubUnlock, ?stubIdent, ?stubClose, ?close,
    fun n k => exec_challengeExpiry_given, exec_challengeExpiry_none, fun k => exec_lockoutEnd_locked, exec_lockoutEnd_none,
    ?brkSet, ?brkArgs, ?release, ?brkNoEngine, ?brkOff, ?brkUncovered, ?relNoEngine, ?relOff, ?relUncovered, ?stepMode,
    ?stepUncovered, ?stepStarts⟩
  case ident => exact fun h1 h2 h3 => by rw [exec_ident, Dev.mbServe_runs h1 h2 h3 (.inl rfl)]; rfl
  case noIdent => exact fun h => by rw [exec_ident, Dev.mbServe_waits h]
  case noChallenge => exact fun h => by rw [exec_challenge, Dev.mbServe_waits h]
  case noUnlock => exact fun h => by rw [exec_unlock, Dev.mbServe_waits h]
  case noClose => exact fun h => by rw [exec_close, Dev.mbServe_waits h]
  case chalBusy =>
    intro level h1 h2 h3 h4 _ hlock
    rw [exec_challenge, Dev.mbServe_runs h1 h2 h3 (.inr h4), Dev.mbChallenge_lockedOut hlock]
  case chalLevel =>
    intro level h1 h2 h3 h4 hl hlock hr
    rw [exec_challenge, Dev.mbServe_runs h1 h2 h3 (.inr h4), Dev.mbChallenge_noLevel hl hlock hr]
  case chalDenied =>
    intro level h1 h2 h3 h4 hl hlock hlo hhi hmost
    rw [exec_challenge, Dev.mbServe_runs h1 h2 h3 (.inr h4), Dev.mbChallenge_above hl hlock hlo hhi hmost]
  case chalDrawn =>
    rintro level n h1 h2 h3 h4 hl hlock hlo hhi hmost rfl
    rw [exec_challenge, Dev.mbServe_runs h1 h2 h3 (.inr h4), Dev.mbChallenge_draws hl hlock hlo hhi hmost]
  case unlockLevel =>
    rintro level d h1 h2 h3 h4 hl (rfl : d = s.dev.chalSpent) hr
    rw [exec_unlock, Dev.mbServe_runs h1 h2 h3 (.inr h4), Dev.mbUnlock_noLevel hl hr]
  case unlockBarred =>
    rintro level d h1 h2 h3 h4 hl (rfl : d = s.dev.chalSpent) hlo hhi hb
    rw [exec_unlock, Dev.mbServe_runs h1 h2 h3 (.inr h4), Dev.mbUnlock_barred hl hlo hhi hb]
  case unlockNoChal =>
    rintro level d h1 h2 h3 h4 hl (rfl : d = s.dev.chalSpent) hlo hhi hb hc
    rw [exec_unlock, Dev.mbServe_runs h1 h2 h3 (.inr h4), Dev.mbUnlock_tries hl hlo hhi hb, hc, Dev.unlockTry_none]
  case unlockRefused =>
    rintro level d n k h1 h2 h3 h4 hl (rfl : d = s.dev.chalSpent) hlo hhi hb hc henv
    rw [exec_unlock, Dev.mbServe_runs h1 h2 h3 (.inr h4), Dev.mbUnlock_tries hl hlo hhi hb, hc, Dev.unlockTry_refused henv]
  case unlockOpens =>
    rintro level d n h1 h2 h3 h4 hl (rfl : d = s.dev.chalSpent) hlo hhi hb hc henv hstub
    rw [exec_unlock, Dev.mbServe_runs h1 h2 h3 (.inr h4), Dev.mbUnlock_tries hl hlo hhi hb, hc,
      Dev.unlockTry_holds henv, hstub, if_neg (by decide)]
  case stubChal =>
    rintro level n h1 hf hr hs h2 hl hlock hlo hhi rfl
    rw [exec_challenge, Dev.mbServe_stub h1 h2 hf hr hs (.inl rfl),
      Dev.mbChallenge_draws hl hlock hlo hhi (by rwa [Dev.levelMost_stub hs])]
  case stubUnlock =>
    rintro level d n h1 hf hr hs h2 hl (rfl : d = s.dev.chalSpent) hlo hhi hc henv
    have hspent : s.dev.chalSpent.stubRuns = true := hs
    rw [exec_unlock, Dev.mbServe_stub h1 h2 hf hr hs (.inr rfl),
      Dev.mbUnlock_tries hl hlo hhi (Dev.unlockBarred_stub hspent hhi), hc, Dev.unlockTry_holds henv, if_pos hspent]
    rfl
  case stubIdent => exact fun h1 hf hr hs h2 => by rw [exec_ident, Dev.mbServe_stub_denies h1 h2 hf hr hs (by decide)]
  case stubClose => exact fun h1 hf hr hs h2 => by rw [exec_close, Dev.mbServe_stub_denies h1 h2 hf hr hs (by decide)]
  case close => exact fun h1 h2 h3 h4 => by rw [exec_close, Dev.mbServe_runs h1 h2 h3 (.inr h4)]
  case brkSet =>
    rintro e slot k n h1 h2 h3 h4 hsub rfl he hon hu rfl rfl rfl hslot hk hn
    rw [exec_engineEngbrk, Dev.mbEngine_runs _ h1 h2 h3 h4 hsub, Dev.mbEngbrk_runs he hon hu, if_neg (by omega)]
  case brkArgs =>
    rintro e slot k n h1 h2 h3 h4 hsub rfl he hon hu rfl rfl rfl hbad
    rw [exec_engineEngbrk, Dev.mbEngine_runs _ h1 h2 h3 h4 hsub, Dev.mbEngbrk_runs he hon hu, if_pos hbad]
  case release =>
    rintro e h1 h2 h3 h4 hsub rfl he hon hu
    rw [exec_engineRelease, Dev.mbEngine_runs _ h1 h2 h3 h4 hsub, Dev.mbRelease_runs he hon hu]
  case brkNoEngine =>
    intro h1 h2 h3 h4 hsub he
    rw [exec_engineEngbrk, Dev.mbEngine_runs _ h1 h2 h3 h4 hsub, Dev.mbEngbrk, Dev.mbOnEngine_noEngine _ he]
  case brkOff =>
    intro h1 h2 h3 h4 hsub he hoff
    rw [exec_engineEngbrk, Dev.mbEngine_runs _ h1 h2 h3 h4 hsub, Dev.mbEngbrk, Dev.mbOnEngine_off _ he hoff]
  case brkUncovered =>
    intro h1 h2 h3 h4 hsub he hon hu
    rw [exec_engineEngbrk, Dev.mbEngine_runs _ h1 h2 h3 h4 hsub, Dev.mbEngbrk, Dev.mbOnEngine_uncovered _ he hon hu]
  case relNoEngine =>
    intro h1 h2 h3 h4 hsub he
    rw [exec_engineRelease, Dev.mbEngine_runs _ h1 h2 h3 h4 hsub, Dev.mbRelease, Dev.mbOnEngine_noEngine _ he]
  case relOff =>
    intro h1 h2 h3 h4 hsub he hoff
    rw [exec_engineRelease, Dev.mbEngine_runs _ h1 h2 h3 h4 hsub, Dev.mbRelease, Dev.mbOnEngine_off _ he hoff]
  case relUncovered =>
    intro h1 h2 h3 h4 hsub he hon hu
    rw [exec_engineRelease, Dev.mbEngine_runs _ h1 h2 h3 h4 hsub, Dev.mbRelease, Dev.mbOnEngine_uncovered _ he hon hu]
  case stepMode =>
    intro h1 h2 h3 h4 hsub hm
    rw [exec_engineStep, Dev.mbEngine_runs _ h1 h2 h3 h4 hsub, Dev.mbStep_otherMode hm]
  case stepUncovered =>
    rintro hs h1 h2 h3 h4 hsub hm rfl hany
    rw [exec_engineStep, Dev.mbEngine_runs _ h1 h2 h3 h4 hsub, Dev.mbStep_test hm, if_pos hany]
  case stepStarts =>
    rintro hs h1 h2 h3 h4 hsub hm rfl hany
    rw [exec_engineStep, Dev.mbEngine_runs _ h1 h2 h3 h4 hsub, Dev.mbStep_test hm, if_neg (by rw [hany]; decide)]

end Sys2Proof.Machine
end

section
/-!
PROOFS. The queue of waiting commands (04 R72, log 1): a step runs the command at its front, and one that holds well-formed
commands never stops the block.
-/

namespace Sys2Proof.Machine

open Sys2Proof.Safety

/-- Settles O1: the step's case of a queue that is not empty. -/
theorem stepRunsFront : Obligations.StepRunsFront := by
  unfold Obligations.StepRunsFront
  exact fun c s => step_cons c s.pending s.dev

/-- A step answers a next state, whose queue is the rest of the one before and well-formed too. -/
theorem step_keeps_queueOk {s : State} (h : QueueOk s) : ∃ t, step s = .next t ∧ QueueOk t ∧ t.pending = s.pending.tail := by
  obtain ⟨pending, dev⟩ := s
  cases pending with
  | nil => exact ⟨_, step_nil dev, h, rfl⟩
  | cons c rest =>
    have hrest : ∀ x ∈ rest, wellFormed x = true := fun x hx => h x (List.mem_cons_of_mem c hx)
    obtain ⟨t, ht, hp⟩ := exec_next (h c List.mem_cons_self) ⟨rest, dev⟩
    refine ⟨t, (step_cons c rest dev).trans ht, ?_, hp⟩
    unfold QueueOk
    rwa [hp]

/-- From a well-formed queue every run goes on, since the step keeps it well-formed. -/
theorem runs_of_queueOk (k : Nat) : ∀ {s : State}, QueueOk s → Runs k s := by
  induction k with
  | zero => exact fun {s} _ => ⟨s, rfl⟩
  | succ k ih =>
    intro s h
    obtain ⟨t, ht, hok, -⟩ := step_keeps_queueOk h
    obtain ⟨u, hu⟩ := ih hok
    exact ⟨u, (core_run_succ Sys2Proof.core k s t ht).trans hu⟩

/-- Settles O3: the step keeps the queue well-formed, and so every run goes on. -/
theorem queueInvariantKept : Obligations.QueueInvariantKept := by
  unfold Obligations.QueueInvariantKept
  exact fun s h => ⟨step_keeps_queueOk h, fun k => runs_of_queueOk k h⟩

end Sys2Proof.Machine
end

section
/-!
PROOFS. The registers of a ring that act when written (04 R73, R74, R76, R79, R97): doorbells, PHEAD, RSEQ and the ring's reset,
and the answer to a requester that may not write them.
-/

namespace Sys2Proof.Machine

/-! ## The rows -/

section
variable {s : State} {rq : Req} {r : Nat} (v : Word) (hq : rq.ok = true) (hr : r < 16)
include hq hr

theorem exec_cmdDb : exec (.cmdDb rq r v) s = .next { s with
    dev := s.dev.ringGate rq 0x18 r (fun s => (s.doorbell r (v.toNat % 65536)).ok 0) } := by
  show execCmdDb rq r v s = _
  exact run_eq s (by simp [wellFormed, hq, hr]) rfl

theorem exec_cmdPhead : exec (.cmdPhead rq r v) s = .next { s with
    dev := s.dev.ringGate rq 0x28 r (fun s => (s.pheadWrite rq r (v.toNat % 65536)).ok 0) } := by
  show execCmdPhead rq r v s = _
  exact run_eq s (by simp [wellFormed, hq, hr]) rfl

theorem exec_cmdRseq : exec (.cmdRseq rq r v) s = .next { s with
    dev := s.dev.ringIdle rq 0x30 r (fun s => (s.wr .CMD_RSEQ r v).ok 0) } := by
  show execCmdRseq rq r v s = _
  exact run_eq s (by simp [wellFormed, hq, hr]) rfl

theorem exec_cmdRctlRst : exec (.cmdRctlRst rq r v) s = .next { s with
    dev := s.dev.ringGate rq 0x14 r (fun s => (s.rctlWrite r (v ||| 2)).ok 0) } := by
  show execCmdRctlRst rq r v s = _
  exact run_eq s (by simp [wellFormed, hq, hr]) rfl

end

/-! ## Who may write a ring's registers (R73) -/

section
variable {s : Dev} {rq : Req} {r : Nat} (hr : s.reaches rq 1 = true)
include hr

/-- The SVP and the requesters of the ring's world. -/
theorem Dev.ringGate_admits (hw : (rq.svp || rq.ofWorld (s.fg F.CMD_RCFG_WORLD r)) = true) (off : Nat) (f : Dev → Dev) :
    s.ringGate rq off r f = f s := by
  unfold Dev.ringGate Dev.ringWorld
  rw [hw, Dev.gate_admits hr]

/-- Any other one gets an error response. -/
theorem Dev.ringGate_denies (hw : (rq.svp || rq.ofWorld (s.fg F.CMD_RCFG_WORLD r)) = false) (off : Nat) (f : Dev → Dev) :
    s.ringGate rq off r f = s.errResp 3 rq 0x01 (devAddr 3 (ringOff off r)) (ringOff off r) := by
  unfold Dev.ringGate Dev.ringWorld
  rw [hw, Dev.gate_denies hr]

/-- A register that takes writes only while the ring is disabled is written then. -/
theorem Dev.ringIdle_admits (hw : (rq.svp || rq.ofWorld (s.fg F.CMD_RCFG_WORLD r)) = true) (he : s.fg F.CMD_RCTL_EN r = 0)
    (off : Nat) (f : Dev → Dev) : s.ringIdle rq off r f = f s := by
  unfold Dev.ringIdle Dev.ringWorld
  rw [hw, he, decide_eq_true rfl, Bool.and_self, Dev.gate_admits hr]

/-- It refuses writes to an enabled ring, and those of a requester that may not write the ring. -/
theorem Dev.ringIdle_denies
    (hw : (rq.svp || rq.ofWorld (s.fg F.CMD_RCFG_WORLD r)) = false ∨ s.fg F.CMD_RCTL_EN r ≠ 0) (off : Nat) (f : Dev → Dev) :
    s.ringIdle rq off r f = s.errResp 3 rq 0x01 (devAddr 3 (ringOff off r)) (ringOff off r) := by
  have h : ((rq.svp || rq.ofWorld (s.ringWorld r)) && decide (s.fg F.CMD_RCTL_EN r = 0)) = false := by
    rw [Bool.and_eq_false_iff, decide_eq_false_iff_not]
    exact hw
  unfold Dev.ringIdle
  rw [h, Dev.gate_denies hr]

end

/-! ## Doorbells (R74) -/

section
variable {s : Dev} {r t : Nat}

/-- A doorbell of a disabled ring sets IDLEDB. -/
theorem Dev.doorbell_idle (he : s.fg F.CMD_RCTL_EN r = 0) : s.doorbell r t = s.fs F.CMD_RSTAT_IDLEDB r 1 := if_pos he

/-- A tail between the one in force and one whole ring past HEAD is accepted. -/
theorem Dev.doorbell_accepts (he : s.fg F.CMD_RCTL_EN r ≠ 0)
    (ht : idxDiff (s.fg F.CMD_TAIL_IDX r) (s.fg F.CMD_HEAD_IDX r) ≤ idxDiff t (s.fg F.CMD_HEAD_IDX r) ∧
      idxDiff t (s.fg F.CMD_HEAD_IDX r) ≤ s.ringN r) : s.doorbell r t = (s.fs F.CMD_TAIL_IDX r t).proxyAll :=
  (if_neg he).trans (if_pos ht)

/-- The module with an overflow of ring r noted. -/
def Dev.ringOverflow (s : Dev) (r : Nat) : Dev :=
  s.edge (96 + r) (fun s => (s.fs F.CMD_RSTAT_OVF r 1).inc F.CMD_OVFCNT_COUNT r)

/-- Any other one is an overflow. -/
theorem Dev.doorbell_refuses (he : s.fg F.CMD_RCTL_EN r ≠ 0)
    (ht : ¬ (idxDiff (s.fg F.CMD_TAIL_IDX r) (s.fg F.CMD_HEAD_IDX r) ≤ idxDiff t (s.fg F.CMD_HEAD_IDX r) ∧
      idxDiff t (s.fg F.CMD_HEAD_IDX r) ≤ s.ringN r)) :
    s.doorbell r t = s.ringOverflow r :=
  (if_neg he).trans (if_neg ht)

/-- While firmware serves, the CMD block answers nothing. -/
theorem Dev.proxyAll_serving (h : s.proxyStatus = none) : s.proxyAll = s := by
  unfold Dev.proxyAll
  rw [h]

/-- Whether it answers does not depend on the ring's TAIL. -/
theorem Dev.proxyStatus_setTail (s : Dev) (r t : Nat) : (s.fs F.CMD_TAIL_IDX r t).proxyStatus = s.proxyStatus := by
  unfold Dev.proxyStatus
  rw [Dev.fg_fs_apart _ _ F.SVP_STAT_DOWN _ _ _ (by decide) (by decide)]
  rfl

/-- Its answers leave the TAIL of every ring. -/
theorem Dev.tail_proxyAll (s : Dev) (r : Nat) : s.proxyAll.fg F.CMD_TAIL_IDX r = s.fg F.CMD_TAIL_IDX r :=
  Dev.fg_congr (Dev.rd_proxyAll s r (by decide) (by decide) (by decide) (by decide) (by decide))

/-- An increment leaves the parts of the module other than its registers. -/
theorem Dev.inc_keeps {α : Type} (p : Dev → α) (hw : ∀ s r i v, p (Dev.wr s r i v) = p s) (s : Dev) (f : Fld) (i : Nat) :
    p (s.inc f i) = p s := by
  unfold Dev.inc
  split
  · exact hw _ _ _ _
  · rfl

/-- An overflow sets OVF. -/
theorem Dev.ovf_ringOverflow (s : Dev) (r : Nat) : (s.ringOverflow r).fg F.CMD_RSTAT_OVF r = 1 := by
  unfold Dev.ringOverflow
  rw [Dev.fg_congr (Dev.rd_edge _ _ _ _ (by decide)), Dev.fg_congr (Dev.rd_inc_ne _ _ _ (by decide)),
    Dev.fg_fs_self _ _ _ _ (by decide)]
  rfl

/-- It counts in OVFCNT. -/
theorem Dev.ovfcnt_ringOverflow (s : Dev) (r : Nat) : (s.ringOverflow r).fg F.CMD_OVFCNT_COUNT r =
    min (s.fg F.CMD_OVFCNT_COUNT r + 1) F.CMD_OVFCNT_COUNT.max := by
  unfold Dev.ringOverflow
  rw [Dev.fg_congr (Dev.rd_edge _ _ _ _ (by decide)), Dev.fg_inc_self _ _ _ (by decide) (by decide),
    Dev.fg_fs_apart _ _ _ _ _ _ (by decide) (by decide)]

/-- It leaves every register but RSTAT, OVFCNT and the interrupt bits. -/
theorem Dev.rd_ringOverflow (s : Dev) (r : Nat) {q : RName} (j : Nat) (h1 : q ≠ .CMD_RSTAT) (h2 : q ≠ .CMD_OVFCNT)
    (h3 : q ≠ .IC_PSET) : (s.ringOverflow r).rd q j = s.rd q j := by
  unfold Dev.ringOverflow
  rw [Dev.rd_edge _ _ _ _ h3, Dev.rd_inc_ne _ _ _ h2, Dev.rd_fs_ne _ _ _ _ h1]

/-- It leaves the parts of the module other than the registers. -/
theorem Dev.ringOverflow_keeps {α : Type} (p : Dev → α) (hw : ∀ s r i v, p (Dev.wr s r i v) = p s) (s : Dev) (r : Nat) :
    p (s.ringOverflow r) = p s :=
  Dev.edge_keeps p hw s _ _ ((Dev.inc_keeps p hw _ _ _).trans (hw _ _ _ _))

end

/-- Settles O11: the three cases of `Dev.doorbell`; the addresses are the definitions of the entries. -/
theorem doorbellRule : Obligations.DoorbellRule := by
  unfold Obligations.DoorbellRule
  intro s rq r v hq hr16 hr hwho
  have hw : (rq.svp || rq.ofWorld (s.dev.fg F.CMD_RCFG_WORLD r)) = true := Bool.or_eq_true_iff.2 hwho
  have hrun : exec (.cmdDb rq r v) s = .next { s with dev := (s.dev.doorbell r (v.toNat % 65536)).ok 0 } := by
    rw [exec_cmdDb v hq hr16, Dev.ringGate_admits hr hw]
  refine ⟨fun i => ⟨rfl, rfl⟩, ?idle, ?accepts, ?refuses⟩
  case idle => exact fun he => by rw [hrun, Dev.doorbell_idle he]
  case accepts =>
    intro he ht
    rw [Dev.doorbell_accepts he ht] at hrun
    refine ⟨_, hrun, ?tail, ?serving⟩
    case tail =>
      rw [Dev.fg_ok, Dev.tail_proxyAll, Dev.fg_fs_self _ _ _ _ (by decide)]
      exact Nat.mod_mod _ _
    case serving =>
      intro hp
      rw [Dev.proxyAll_serving (by rwa [Dev.proxyStatus_setTail])]
  case refuses =>
    intro he ht
    rw [Dev.doorbell_refuses he ht] at hrun
    exact ⟨_, hrun, Dev.ovf_ringOverflow _ _, Dev.ovfcnt_ringOverflow _ _,
      Dev.rd_ringOverflow _ _ _ (by decide) (by decide) (by decide), Dev.ringOverflow_keeps (·.mem) (fun _ _ _ _ => rfl) _ _,
      Dev.ringOverflow_keeps (·.cmd) (fun _ _ _ _ => rfl) _ _, fun q j h1 h2 h3 => Dev.rd_ringOverflow _ _ j h1 h2 h3⟩

/-! ## The ring's reset (R97) -/

/-- The module with ring r's interrupt enables as a write of CMD_RCTL gives them. -/
def Dev.rctlEnables (s : Dev) (r : Nat) (v : Word) : Dev :=
  s.edge (96 + r) (fun s => (s.fs F.CMD_RCTL_RIEN r (bits v.toNat 2 2)).fs F.CMD_RCTL_OVFIEN r (bits v.toNat 3 3))

/-- A write of CMD_RCTL with RST writes the enables and resets the ring. -/
theorem Dev.rctlWrite_rst (s : Dev) (r : Nat) (v : Word) : s.rctlWrite r (v ||| 2) = (s.rctlEnables r (v ||| 2)).ringReset r := by
  have hrst : (v ||| 2).getLsbD 1 = true := by simp
  exact if_pos hrst

/-- A ring that is reset is disabled. -/
theorem Dev.en_ringReset (s : Dev) (r : Nat) : (s.ringReset r).fg F.CMD_RCTL_EN r = 0 := by
  rw [Dev.fg_congr (Dev.rd_ringReset_ne s r r (by decide) (by decide) (by decide) (by decide) (by decide)),
    Dev.fg_fs_self _ _ _ _ (by decide)]
  rfl

/-- Its outstanding commands are marked for discard. -/
theorem Dev.discard_ringReset {s : Dev} {r : Nat} {k : LongCmd} (hk : k ∈ (s.ringReset r).cmd.long) (hr : k.ring = r) :
    k.discard = true := by
  rw [Dev.ringReset_long, List.mem_map] at hk
  obtain ⟨c, -, rfl⟩ := hk
  by_cases hc : c.ring = r
  · rw [if_pos hc]
  · rw [if_neg hc] at hr
    exact absurd hr hc

/-- Settles O12: who may write (`Dev.ringGate`, `Dev.ringIdle`), and what each write does. -/
theorem ringRegisterWrites : Obligations.RingRegisterWrites := by
  unfold Obligations.RingRegisterWrites
  intro s rq r v hq hr16 hr
  refine ⟨fun hw => ⟨?phead, ?rseq, ?rseqEnabled, ?rst⟩, fun hw => ⟨?_, ?_, ?_, ?_⟩⟩
  case phead =>
    rw [exec_cmdPhead v hq hr16, Dev.ringGate_admits hr hw]
    rfl
  case rseq => exact fun he => by rw [exec_cmdRseq v hq hr16, Dev.ringIdle_admits hr hw he]
  case rseqEnabled => exact fun he => by rw [exec_cmdRseq v hq hr16, Dev.ringIdle_denies hr (.inr he)]
  case rst =>
    have hrun := exec_cmdRctlRst (s := s) v hq hr16
    rw [Dev.ringGate_admits hr hw, Dev.rctlWrite_rst] at hrun
    obtain ⟨hhead, htail, hptail, hphead⟩ := Dev.ringReset_idx (s.dev.rctlEnables r (v ||| 2)) r
    refine ⟨_, hrun, ?_⟩
    simp only [Dev.fg_ok, Dev.cmd_ok]
    exact ⟨Dev.en_ringReset _ _, hhead, htail, hptail, hphead, fun k hk => Dev.discard_ringReset hk⟩
  · rw [exec_cmdDb v hq hr16, Dev.ringGate_denies hr hw]
  · rw [exec_cmdPhead v hq hr16, Dev.ringGate_denies hr hw]
  · rw [exec_cmdRseq v hq hr16, Dev.ringIdle_denies hr (.inl hw)]
  · rw [exec_cmdRctlRst v hq hr16, Dev.ringGate_denies hr hw]

end Sys2Proof.Machine
end

section
/-!
PROOFS. The service of the rings and the rules that all commands share (04 R78, R79, R84 to R86, R89): whose turn it is, what a
command with another SEQ than the one expected leaves, and what the shared rules refuse in their order.
-/

namespace Sys2Proof.Machine

open Sys2Proof.Safety

/-! ## The turn of the service (R85) -/

section
variable {s d : Dev} {r : Nat} {b : List Byte} {l : List Nat}

/-- Rings that are not served are passed over. -/
theorem Dev.serviceRings_passes : ∀ {m : List Nat}, (∀ x ∈ m, s.ringUp x = false) → s.serviceRings (m ++ l) = s.serviceRings l
  | [], _ => rfl
  | x :: m, h => by
    have hx : (!s.ringUp x) = true := by rw [h x List.mem_cons_self]; rfl
    rw [List.cons_append, Dev.serviceRings, if_pos hx]
    exact Dev.serviceRings_passes (fun y hy => h y (List.mem_cons_of_mem x hy))

/-- A ring that is served and holds no whole command stalls. -/
theorem Dev.serviceRings_empty (hu : s.ringUp r = true) (hp : s.ringPeek r = (d, none)) :
    s.serviceRings (r :: l) = (d.fs F.CMD_RSTAT_STALL r 1).serviceRings l := by
  rw [Dev.serviceRings, if_neg (by rw [hu]; decide), hp]

/-- One that lacks the entries for the reply stalls. -/
theorem Dev.serviceRings_noRoom (hu : s.ringUp r = true) (hp : s.ringPeek r = (d, some b)) (hr : d.ringHasRoom r = false) :
    s.serviceRings (r :: l) = (d.fs F.CMD_RSTAT_STALL r 1).serviceRings l := by
  rw [Dev.serviceRings, if_neg (by rw [hu]; decide), hp]
  exact if_pos (by rw [hr]; rfl)

/-- One whose command waits at a fence is passed over without a stall. -/
theorem Dev.serviceRings_fenced (hu : s.ringUp r = true) (hp : s.ringPeek r = (d, some b)) (hr : d.ringHasRoom r = true)
    (hf : objNat b 5 1 % 2 = 1 ∧ 0 < d.ringLongs r) :
    s.serviceRings (r :: l) = (d.fs F.CMD_RSTAT_STALL r 0).serviceRings l := by
  rw [Dev.serviceRings, if_neg (by rw [hu]; decide), hp]
  exact (if_neg (by rw [hr]; decide)).trans (if_pos hf)

/-- Any other command is taken, and ends the turn. -/
theorem Dev.serviceRings_takes (hu : s.ringUp r = true) (hp : s.ringPeek r = (d, some b)) (hr : d.ringHasRoom r = true)
    (hf : ¬ (objNat b 5 1 % 2 = 1 ∧ 0 < d.ringLongs r)) : s.serviceRings (r :: l) = d.takePacket r b := by
  rw [Dev.serviceRings, if_neg (by rw [hu]; decide), hp]
  exact (if_neg (by rw [hr]; decide)).trans (if_neg hf)

end

/-- The rings in the order of their turns, from the one after the ring served last. -/
def Dev.ringOrder (s : Dev) : List Nat := (List.range 16).map (fun i => (s.fg F.CMD_STAT_LAST 0 + 1 + i) % 16)

/-- Ring k of that order stands between those before it and those after it. -/
theorem Dev.ringOrder_split (s : Dev) {k : Nat} (hk : k < 16) : s.ringOrder =
    (List.range k).map (fun i => (s.fg F.CMD_STAT_LAST 0 + 1 + i) % 16) ++
      (s.fg F.CMD_STAT_LAST 0 + 1 + k) % 16 :: s.ringOrder.drop (k + 1) := by
  have hlen : k < s.ringOrder.length := by simpa [Dev.ringOrder] using hk
  have hget : s.ringOrder[k] = (s.fg F.CMD_STAT_LAST 0 + 1 + k) % 16 := by simp [Dev.ringOrder]
  have htake : s.ringOrder.take k = (List.range k).map (fun i => (s.fg F.CMD_STAT_LAST 0 + 1 + i) % 16) := by
    rw [Dev.ringOrder, ← List.map_take, List.take_range, Nat.min_eq_left (Nat.le_of_lt hk)]
  rw [← htake, ← hget, ← List.drop_eq_getElem_cons hlen, List.take_append_drop]

/-- While firmware runs, a turn comes to the first ring of the order that is served. -/
theorem exec_ringService_turn {s : State} {k : Nat} (hf : s.dev.fwRuns = true) (hk : k < 16)
    (hskip : ∀ j : Nat, j < k → s.dev.ringUp ((s.dev.fg F.CMD_STAT_LAST 0 + 1 + j) % 16) = false) :
    exec .ringService s = .next { s with
      dev := s.dev.serviceRings ((s.dev.fg F.CMD_STAT_LAST 0 + 1 + k) % 16 :: s.dev.ringOrder.drop (k + 1)) } := by
  have hpass : ∀ x ∈ (List.range k).map (fun i => (s.dev.fg F.CMD_STAT_LAST 0 + 1 + i) % 16), s.dev.ringUp x = false := by
    intro x hx
    obtain ⟨j, hj, rfl⟩ := List.mem_map.1 hx
    exact hskip j (List.mem_range.1 hj)
  show execRingService s = _
  exact run_eq s rfl ((if_pos hf).trans
    ((congrArg s.dev.serviceRings (s.dev.ringOrder_split hk)).trans (Dev.serviceRings_passes hpass)))

/-- Settles O15: the turn comes to the ring given, and goes by what the ring holds. -/
theorem ringsServedInTurn : Obligations.RingsServedInTurn := by
  unfold Obligations.RingsServedInTurn
  intro s k d hf hk hskip hup
  have hturn := exec_ringService_turn hf hk hskip
  refine ⟨fun b hpeek => ⟨?takes, ?fenced, ?noRoom⟩, ?empty⟩
  case takes => exact fun hroom hfence => by rw [hturn, Dev.serviceRings_takes hup hpeek hroom hfence]
  case fenced =>
    intro hroom hfence
    rw [hturn, Dev.serviceRings_fenced hup hpeek hroom hfence]
    rfl
  case noRoom =>
    intro hroom
    rw [hturn, Dev.serviceRings_noRoom hup hpeek hroom]
    rfl
  case empty =>
    intro hpeek
    rw [hturn, Dev.serviceRings_empty hup hpeek]
    rfl

/-! ## A command with another SEQ (R79) -/

/-- The parts of the module that no reply reaches. -/
def Dev.apartFromReplies (s : Dev) : PowerSt × SMap Engine × SMap Hive × JrnSt × TrgSt × SMap PubBlk × IngSt × LcsSt × List LongCmd :=
  (s.pwr, s.engines, s.hives, s.jrn, s.trg, s.pub, s.ing, s.lcs, s.cmd.long)

/-- They lie apart from memory. -/
theorem Dev.apartFromReplies_memApart : MemApart Dev.apartFromReplies where
  mem _ _ := rfl
  cores _ _ := rfl
  ctr _ _ := rfl
  resp _ _ := rfl
  clk s k := by simp [Dev.apartFromReplies]
  regs _ _ _ _ _ := rfl

/-- A refusal leaves them. -/
theorem Dev.apartFromReplies_refuse (s : Dev) (c : Cid) (status detail : Nat) :
    (s.refuse c status detail).apartFromReplies = s.apartFromReplies :=
  Dev.putReply_keeps Dev.apartFromReplies Dev.apartFromReplies_memApart (fun _ _ _ _ => rfl) (fun _ _ => rfl) s _

/-- A refusal leaves every register but its ring's PTAIL and REPLY, memory's logs and the interrupt bits. -/
theorem Dev.rd_refuse (s : Dev) (c : Cid) (status detail : Nat) {q : RName} (j : Nat) (h : q ∉ logNames) (h1 : q ≠ .CMD_PTAIL)
    (h2 : q ≠ .CMD_RSTAT) : (s.refuse c status detail).rd q j = s.rd q j :=
  Dev.rd_putReply s _ j (by simpa [memNames, errNames, logNames] using h) h1 h2

/-- Settles O13: the refusal by SEQ (`takeCmd_badSeq`) marks the ring served and writes its reply. -/
theorem badSeqHasNoEffect : Obligations.BadSeqHasNoEffect := by
  unfold Obligations.BadSeqHasNoEffect
  intro i h op s hc hw hs hq
  obtain ⟨body, hl, hexec⟩ := commandOf_exec i h op hc
  have hrun := (hexec s).trans (run_eq s hw (takeCmd_badSeq hs hl hq body))
  have hrest := Dev.apartFromReplies_refuse (s.dev.servedNow h.ring) ⟨h, op⟩ stBadSeq 0
  have hrd : ∀ (q : RName) (j : Nat), q ∉ logNames → q ≠ .CMD_STAT → q ≠ .CMD_RSTAT → q ≠ .CMD_PTAIL →
      ((s.dev.servedNow h.ring).refuse ⟨h, op⟩ stBadSeq 0).rd q j = s.dev.rd q j := fun q j h0 h1 h2 h3 => by
    rw [Dev.rd_refuse _ _ _ _ _ h0 h3 h2, Dev.rd_servedNow _ _ _ h1 h2]
  simp only [Dev.apartFromReplies, Prod.mk.injEq] at hrest
  exact ⟨_, hrun, rfl, Dev.last_putReply _ _, hrd _ _ (by decide) (by decide) (by decide) (by decide), hrd, hrest⟩

/-! ## The shared rules in their order (R78, R86, R89) -/

section
variable {s : Dev} {h : CmdHdr} {op n : Nat} {sys long : Bool} {modes : List Nat}
  (ho : opInfo op = some (sys, long, n, modes))

/-- A command whose class the ring admits. -/
theorem Dev.ringSys_suffices (hsys : sys = true → s.ringSys h.ring = true) : (sys && !s.ringSys h.ring) = false := by
  cases sys
  · rfl
  · rw [hsys rfl]; rfl

/-- Another world than the ring's is refused first. -/
theorem Dev.refusal_badWorld (hw : h.world ≠ s.ringWorld h.ring) (len : Nat) :
    s.refusal ⟨h, op⟩ len true = some stBadWorld := by
  simp [Dev.refusal, hw]

include ho

/-- Then a command of the system class on another ring. -/
theorem Dev.refusal_denied (hw : h.world = s.ringWorld h.ring) (hsys : sys = true) (hring : s.ringSys h.ring = false) (len : Nat) :
    s.refusal ⟨h, op⟩ len true = some stDenied := by
  simp [Dev.refusal, hw, ho, hsys, hring]

/-- Then a mode that the table does not list. -/
theorem Dev.refusal_badMode (hw : h.world = s.ringWorld h.ring) (hsys : sys = true → s.ringSys h.ring = true)
    (hm : s.modeIn modes = false) (len : Nat) : s.refusal ⟨h, op⟩ len true = some stBadMode := by
  simp [Dev.refusal, hw, ho, Dev.ringSys_suffices hsys, hm]

/-- Last, a fifth long command. -/
theorem Dev.refusal_busy (hw : h.world = s.ringWorld h.ring) (hsys : sys = true → s.ringSys h.ring = true)
    (hm : s.modeIn modes = true) (hlong : long = true) (h4 : 4 ≤ s.ringLongs h.ring) :
    s.refusal ⟨h, op⟩ n true = some stBusy := by
  simp [Dev.refusal, hw, ho, Dev.ringSys_suffices hsys, hm, hlong, h4]

end

/-- A command of Table 4.5 that the shared rules refuse is taken and answered with their status, no more. -/
theorem exec_refused {i : Instr} {h : CmdHdr} {op st n : Nat} {s : State} {sys long : Bool} {modes : List Nat}
    (hc : commandOf i = some (h, op)) (hw : wellFormed i = true) (hs : Served s.dev h)
    (ho : opInfo op = some (sys, long, n, modes)) (hq : s.dev.rd .CMD_RSEQ h.ring = BitVec.ofNat 32 h.seq)
    (hst : s.dev.refusal ⟨h, op⟩ n true = some st) :
    exec i s = .next { s with dev := ((atHead s.dev h op).refuse ⟨h, op⟩ st 0).spendNonce ⟨h, op⟩ } := by
  obtain ⟨body, hl, hexec⟩ := commandOf_exec i h op hc
  have hlen : ((opInfo op).map (fun x => x.2.2.1)).getD 0 = n := by rw [ho]; rfl
  refine (hexec s).trans (run_eq s hw ?_)
  rw [takeCmd_served hs hl hq body, refusal_atHead, hlen, hst]

/-- Settles O14: each clause is a status of `Dev.refusal`, which the command is answered with (`exec_refused`). -/
theorem sharedRefusals : Obligations.SharedRefusals := by
  unfold Obligations.SharedRefusals
  intro i h op s sys long n modes hc hw hs ho hq
  have refused {st : Nat} (hst : s.dev.refusal ⟨h, op⟩ n true = some st) := exec_refused hc hw hs ho hq hst
  exact ⟨fun hworld => refused (Dev.refusal_badWorld hworld n),
    fun hworld hsys hring => refused (Dev.refusal_denied ho hworld hsys hring n),
    fun hworld hsys hm => refused (Dev.refusal_badMode ho hworld hsys hm n),
    fun hworld hsys hm hlong h4 => refused (Dev.refusal_busy ho hworld hsys hm hlong h4)⟩

end Sys2Proof.Machine
end

section
/-!
PROOFS. TIME, JOURNAL, HEALTH and RESET commands that nothing refuses (04 R92, R93, R96, R97; 05 R103, R110, R117, R118;
10 R270, R272, R490; 18 R466): each command's own work, and its taking by firmware.
-/

namespace Sys2Proof.Machine

open Sys2Proof.Safety

section
variable {s : Dev} {c : Cid}

/-! ## TIME (R103, R110, R117, R118) -/

/-- A priority list of the sources that there are is written, and the search starts anew. -/
theorem Dev.cTimeSource_selects {prio : List Nat} (h : ∀ x ∈ prio, x ≤ 6) : s.cTimeSource c prio =
    (((s.wr .TMB_SRC0 0 (BitVec.ofNat 32 (leNat ((prio.take 4).map (BitVec.ofNat 8))))).wr .TMB_SRC1 0
      (BitVec.ofNat 32 (leNat (((prio.drop 4).take 4).map (BitVec.ofNat 8))))).reselect).done c [] :=
  if_neg (by simpa using h)

/-- A rate that no armed pour, declared worst case or publish point bars is armed for the first second at least 20 us away. -/
theorem Dev.cTimeRate_arms {code : Nat} (hcode : code < 6) (hp : s.pourArmed = false)
    (hb : s.overBudget (nsPerSec / rateHz code) = none) (hl : s.latePair (rateHz code) = none) : s.cTimeRate c code =
      (((s.fs F.TKG_EFFSEC_LO_SEC 0 s.secIn20us).fs F.TKG_EFFSEC_HI_SEC 0 (s.secIn20us / 2 ^ 32)).tkgCtlWrite
        (BitVec.ofNat 32 (1 + 2 * code))).done c (leBytes 8 s.secIn20us) := by
  unfold Dev.cTimeRate
  rw [if_neg (Nat.not_le.2 hcode), hp, if_neg (by decide), hb, hl]

/-! ## JOURNAL (R270, R272, R490) -/

/-- A mark with room for its record is written and answers its index. -/
theorem Dev.cJournalMark_records {text : List Byte} (h : s.jrnRoom 1 = true) : s.cJournalMark c text =
    (s.record 0x0050 c.hdr.ring (s.ringWorld c.hdr.ring) text).done c (leBytes 8 (s.jrnNext (s.ringWorld c.hdr.ring))) :=
  if_neg (by rw [h]; decide)

/-- A finished record of a world that the ring may name is sealed. -/
theorem Dev.cJournalSeal_starts {rec k : Nat} {x : Capture} (hf : s.findCap (fun y => decide (y.id = rec)) = some (k, x))
    (hw : s.mayName c x.world = true) (hs : s.sealable rec = true) : s.cJournalSeal c rec = s.start c [] rec 0 [] := by
  unfold Dev.cJournalSeal
  rw [hf]
  dsimp only
  rw [hw, if_neg (by decide), hs, if_neg (by decide)]

/-- The world of a capture: that of its first hive, and the ring's where it names none. -/
def Dev.capWorld (s : Dev) (c : Cid) (hives : Nat) : Nat :=
  match onesBelow 8 hives with
  | v :: _ => s.hiveWorld v
  | [] => s.ringWorld c.hdr.ring

/-- The capture that a JOURNAL TRIGGER schedules. -/
def Dev.capTriggered (s : Dev) (c : Cid) (hives pre : Nat) : Capture :=
  { id := s.fg F.JRN_DRLAST_ID 0 + 1, hives := hives, pre := pre, post := s.fg F.JRN_DRPOST_POST 0, startTick := s.tickIn20us,
    base := s.capRoom.1, chans := (onesBelow 8 hives).map (fun v => (s.fg F.JRN_DRCH_FIRST v, s.fg F.JRN_DRCH_COUNT v)),
    world := s.capWorld c hives }

/-- A capture of hives of the ring's world, which the comb and the capture area hold, is scheduled. -/
theorem Dev.cJournalTrigger_schedules {hives pre : Nat} {x : Capture} (hx : x = s.capTriggered c hives pre) (hpre : 1 ≤ pre)
    (hcomb : pre + s.cmbL + 1 ≤ s.cmbD) (hhives : ∀ v ∈ onesBelow 8 hives, s.hiveWorld v = s.capWorld c hives)
    (hring : s.ringWorld c.hdr.ring = s.capWorld c hives) (hbusy : s.resBusy ((onesBelow 8 hives).map resHive) = false)
    (hroom : x.size ≤ s.capRoom.2) (hfew : (s.jrn.caps.filter (fun y => decide (y.st < 2))).length < 16) :
    s.cJournalTrigger c hives pre =
      (let e := s.fs F.JRN_DRLAST_ID 0 x.id
       ({ e with jrn := { e.jrn with caps := e.jrn.caps ++ [x] } } : Dev).done c (leBytes 4 x.id)) := by
  subst hx
  have hworld : ((onesBelow 8 hives).any (fun h => decide (s.hiveWorld h ≠ s.capWorld c hives)) ||
      decide (s.ringWorld c.hdr.ring ≠ s.capWorld c hives)) = false := by
    simpa using ⟨hhives, hring⟩
  show (if pre < 1 ∨ s.cmbD < pre + s.cmbL + 1 then _ else
    if ((onesBelow 8 hives).any (fun h => decide (s.hiveWorld h ≠ s.capWorld c hives)) ||
      decide (s.ringWorld c.hdr.ring ≠ s.capWorld c hives)) = true then _ else _) = _
  rw [if_neg (by omega), hworld, if_neg (by decide), Dev.naming_free hbusy]
  exact (if_neg (Nat.not_lt.2 hroom)).trans (if_neg (Nat.not_le.2 hfew))

/-! ## HEALTH (R466) -/

/-- Thresholds in range and in order are written. -/
theorem Dev.cHealthThresh_writes {n warn alarm : Nat} (hn : n ≤ 66)
    (htemp : n < 16 → tempOk warn = true ∧ tempOk alarm = true ∧ sext 16 warn ≤ sext 16 alarm)
    (hrise : 16 ≤ n → n < 55 → warn ≤ alarm) (hfall : 55 ≤ n → alarm ≤ warn) : s.cHealthThresh c n warn alarm =
      ((s.fs F.HLT_MON_THRESH_WARN n warn).fs F.HLT_MON_THRESH_ALARM n alarm).done c [] := by
  have inRange {b : Bool} (hb : n < 16 → b = true) : (!decide (n < 16) || b) = true := by
    by_cases h : n < 16
    · rw [hb h, Bool.or_true]
    · rw [decide_eq_false h]; rfl
  have hwarn := inRange fun h => (htemp h).1
  have halarm := inRange fun h => (htemp h).2.1
  have horder : (if n < 16 then decide (sext 16 warn ≤ sext 16 alarm) else if n < 55 then decide (warn ≤ alarm)
      else decide (alarm ≤ warn)) = true := by
    split
    · exact decide_eq_true (htemp ‹_›).2.2
    · split
      · exact decide_eq_true (hrise (by omega) ‹_›)
      · exact decide_eq_true (hfall (by omega))
  unfold Dev.cHealthThresh
  simp only [hwarn, halarm, horder, decide_eq_true hn]
  rfl

/-- A policy of a monitor is written. -/
theorem Dev.cHealthPolicy_writes {n action : Nat} (hn : n ≤ 74) (ha : action < 4) :
    s.cHealthPolicy c n action = (s.faultEdge (fun x => x.fs F.HLT_MON_CFG_ACTION n action)).done c [] :=
  (if_neg (Nat.not_lt.2 hn)).trans (if_neg (Nat.not_le.2 ha))

/-! ## RESET (R96, R97) -/

/-- Another ring than the issuing one is reset. -/
theorem Dev.cResetRing_resets {ring : Nat} (hr : ring < 16) (hne : ring ≠ c.hdr.ring) :
    s.cResetRing c ring = (s.ringReset ring).done c [] := if_neg (by omega)

/-- The reset of a hive that is on begins, unless one is under way. -/
theorem Dev.cResetHive_starts {v : Nat} (hv : v < 8) (hw : s.mayName c (s.hiveWorld v) = true)
    (hone : s.cmd.long.any (fun k => decide (k.opcode = 0x1102) && decide (k.arg = v)) = false) (hon : s.domOn (9 + v) = true) :
    s.cResetHive c v = s.start c [resHive v] v 0 [] := by
  unfold Dev.cResetHive
  rw [if_neg (Nat.not_le.2 hv), hw, if_neg (by decide), hone, if_neg (by decide), hon, if_neg (by decide)]

/-- A core that is on is held at reset. -/
theorem Dev.cResetCore_holds {m : Nat} (hm : m < 8) (hw : s.mayName c (s.core m).world = true) (hon : s.domOn (18 + m) = true) :
    s.cResetCore c m = (s.coreReset m).done c [] := by
  unfold Dev.cResetCore
  rw [if_neg (Nat.not_le.2 hm), hw, if_neg (by decide), hon, Dev.cond_true]

end

/-- Settles O18: firmware takes the command (`takeCmd_taken`), and none of its own refusals applies. -/
theorem timeJournalHealthResetDo : Obligations.TimeJournalHealthResetDo := by
  unfold Obligations.TimeJournalHealthResetDo
  intro s h
  refine ⟨?source, ?freerun, ?rate, ?utcofs, ?mark, ?sealRecord, ?trigger, ?thresh, ?policy, ?read, ?ring, ?hive, ?core,
    ?reset⟩
  case source =>
    rintro prio d rfl ht hw hprio
    show execTimeSource h prio s = _
    exact run_eq s hw ((takeCmd_taken ht _).trans (Dev.cTimeSource_selects hprio))
  case freerun =>
    rintro p d rfl ht hw hp
    show execTimeFreerun h p s = _
    exact run_eq s hw ((takeCmd_taken ht _).trans (if_neg (Nat.not_le.2 hp)))
  case rate =>
    rintro code d rfl ht hw hcode hpour hbudget hlate
    show execTimeRate h code s = _
    exact run_eq s hw ((takeCmd_taken ht _).trans (Dev.cTimeRate_arms hcode hpour hbudget hlate))
  case utcofs =>
    rintro ofs d rfl ht hw
    show execTimeUtcofs h ofs s = _
    exact run_eq s hw (takeCmd_taken ht _)
  case mark =>
    rintro text d rfl ht hw hroom
    show execJournalMark h text s = _
    exact run_eq s hw ((takeCmd_taken ht _).trans (Dev.cJournalMark_records hroom))
  case sealRecord =>
    rintro rec k x d rfl ht hw hfind hname hseal
    show execJournalSeal h rec s = _
    exact run_eq s hw ((takeCmd_taken ht _).trans (Dev.cJournalSeal_starts hfind hname hseal))
  case trigger =>
    rintro hives pre w base room x d rfl ht hw rfl hcap hx hpre hcomb hhives hring hbusy hroom hfew
    obtain ⟨rfl, rfl⟩ := Prod.mk.inj hcap
    show execJournalTrigger h hives pre s = _
    exact run_eq s hw ((takeCmd_taken ht _).trans
      (Dev.cJournalTrigger_schedules hx hpre hcomb hhives hring hbusy hroom hfew))
  case thresh =>
    rintro n warn alarm d rfl ht hw hn htemp hrise hfall
    show execHealthThresh h n warn alarm s = _
    exact run_eq s hw ((takeCmd_taken ht _).trans (Dev.cHealthThresh_writes hn htemp hrise hfall))
  case policy =>
    rintro n action d rfl ht hw hn ha
    show execHealthPolicy h n action s = _
    exact run_eq s hw ((takeCmd_taken ht _).trans (Dev.cHealthPolicy_writes hn ha))
  case read =>
    rintro n d rfl ht hw hn
    show execHealthRead h n s = _
    exact run_eq s hw ((takeCmd_taken ht _).trans (if_neg (Nat.not_lt.2 hn)))
  case ring =>
    rintro ring d rfl ht hw hring hne
    show execResetRing h ring s = _
    exact run_eq s hw ((takeCmd_taken ht _).trans (Dev.cResetRing_resets hring hne))
  case hive =>
    rintro v d rfl ht hw hv hname hone hon
    show execResetHive h v s = _
    exact run_eq s hw ((takeCmd_taken ht _).trans (Dev.cResetHive_starts hv hname hone hon))
  case core =>
    rintro m d rfl ht hw hm hname hon
    show execResetCore h m s = _
    exact run_eq s hw ((takeCmd_taken ht _).trans (Dev.cResetCore_holds hm hname hon))
  case reset =>
    rintro d rfl ht hw
    show execResetModule h s = _
    exact run_eq s hw (takeCmd_taken ht _)

end Sys2Proof.Machine
end

section
/-!
PROOFS. CAST, BIND, COMB, SETS, POUR, TRIPGATE PAIR, TRIPGATE SOLO and DEBUG commands that nothing refuses (04 R92; 06 R140;
08 R211 to R215, R222; 09 R238, R240; 10 R245 to R254): each command's own work, and its taking by firmware.
-/

namespace Sys2Proof.Machine

open Sys2Proof.Safety

section
variable {s t : Dev} {c : Cid} {b : BulkRef} {bs : List Byte} {e : Nat}

/-! ## CAST (R211 to R215) -/

/-- An image that is copied and accepted is kept for the completion; the halted engine is not admitted meanwhile. -/
theorem Dev.cCastLoad_starts (he : MayEngine s c e true) (hh : s.engHalted e = true) (hcopy : Copied s t c b bs)
    (hok : t.castCheck e bs = none) :
    s.cCastLoad c e b = ((t.peHalt e).fs F.PE_CTL_ADMIT e 0).start c [resEngine e] e 0 bs := by
  unfold Dev.cCastLoad
  rw [onLive_of he, hh, if_neg (by decide), bulk_of hcopy, hok]

/-- An engine that the ring may name halts. -/
theorem Dev.cCastHalt_halts (he : MayEngine s c e true) : s.cCastHalt c e = (s.peHalt e).done c [] := onLive_of he _

/-- An admitted engine that does not run starts from the first tick at least 20 us away. -/
theorem Dev.cCastRun_starts (he : MayEngine s c e false) (ha : s.fg F.PE_CTL_ADMIT e ≠ 0) (hr : s.running e = false) :
    s.cCastRun c e =
      ((s.wr64 .PE_RUNTICK_LO .PE_RUNTICK_HI e s.tickIn20us).peRun e).done c (leBytes 8 s.tickIn20us) := by
  unfold Dev.cCastRun
  rw [onLive_of he, if_neg ha, hr, if_neg (by decide)]

/-! ## BIND (R222) -/

/-- A binding in range is written to a halted engine; K counts in class 2 alone. -/
theorem Dev.cBindSet_writes {x cls k policy : Nat} (he : MayEngine s c e true) (hh : s.engHalted e = true) (hx : x < 8)
    (hcls : cls ≤ 6) (hk : cls = 2 → 2 ≤ k ∧ k ≤ 256) (hp : policy < 2) : s.cBindSet c e x cls k policy =
      ((((s.fs F.PE_CTX_BIND_CLASS (8 * e + x) cls).fs F.PE_CTX_BIND_POLICY (8 * e + x) policy).fs F.PE_CTX_BIND_BOUND
        (8 * e + x) 1).fs F.PE_CTX_BIND_K (8 * e + x) (if cls = 2 then k else 0)).done c [] := by
  have hrange : (decide (cls ≠ 2) || (decide (2 ≤ k) && decide (k ≤ 256))) = true := by
    by_cases h2 : cls = 2
    · simp [hk h2]
    · simp [h2]
  have hgood : firstBad [(decide (x < 8), 1), (decide (cls ≤ 6), 2),
      (decide (cls ≠ 2) || (decide (2 ≤ k) && decide (k ≤ 256)), 3), (decide (policy < 2), 4)] = none := by
    simp only [hrange, decide_eq_true hx, decide_eq_true hcls, decide_eq_true hp]
    rfl
  unfold Dev.cBindSet
  rw [onLive_of he, hh, if_neg (by decide), hgood]

/-- A binding of a halted engine is cleared. -/
theorem Dev.cBindClear_clears {x : Nat} (he : MayEngine s c e true) (hh : s.engHalted e = true) (hx : x < 8) :
    s.cBindClear c e x = (s.fs F.PE_CTX_BIND_BOUND (8 * e + x) 0).done c [] := by
  unfold Dev.cBindClear
  rw [onLive_of he, hh, if_neg (by decide), if_neg (Nat.not_le.2 hx)]

/-! ## COMB (R140, R156) -/

/-- With every engine halted a geometry in range is written, and the comb flushed. -/
theorem Dev.cCombConfig_writes {chans depth lag fill k : Nat} (hh : ∀ e : Nat, e < 64 → s.engHalted e = true) (hc : 1 ≤ chans)
    (hc' : chans ≤ 4096) (hd : combLog depth = some k) (hsize : chans * depth ≤ 1048576) (hl : 1 ≤ lag) (hl' : lag ≤ 64)
    (hf : fill < 2) : s.cCombConfig c chans depth lag fill =
      (((((s.fs F.CMB_CFG_CHANS 0 chans).fs F.CMB_CFG_DLOG 0 k).fs F.CMB_CFG_LAG 0 lag).fs F.CMB_CFG_FILL 0 fill).combFlush).done
        c [] := by
  have hhalt : ¬ ((List.range 64).any (fun e => !s.engHalted e)) = true := by simpa using hh
  have hgood : firstBad [(decide (1 ≤ chans) && decide (chans ≤ 4096), 0), ((combLog depth).isSome, 1),
      (decide (chans * depth ≤ 1048576), 1), (decide (1 ≤ lag) && decide (lag ≤ 64), 2), (decide (fill < 2), 3)] = none := by
    simp only [decide_eq_true hc, decide_eq_true hc', hd, decide_eq_true hsize, decide_eq_true hl, decide_eq_true hl',
      decide_eq_true hf]
    rfl
  unfold Dev.cCombConfig
  rw [if_neg hhalt, hgood, hd]
  rfl

/-! ## SETS (R245) -/

/-- A settings image that is copied and accepted is kept for the completion; the shadow banks named are invalid meanwhile. -/
theorem Dev.cSetsStage_starts {mask : Nat} (hbusy : s.resBusy ((onesBelow 64 mask).map resEngine) = false)
    (hcopy : Copied s t c b bs) (hok : setsCheck bs = none)
    (hmay : (onesBelow 64 mask).findSome? (t.setsRefuse c (objNat bs 6 2)) = none) : s.cSetsStage c mask b =
      (t.each (onesBelow 64 mask) (fun x e => x.fs F.SET_ESTAT_SHVALID e 0)).start c ((onesBelow 64 mask).map resEngine)
        mask 0 bs := by
  unfold Dev.cSetsStage
  dsimp only
  rw [Dev.naming_free hbusy, bulk_of hcopy, hok]
  dsimp only
  rw [hmay]

/-! ## POUR (R248 to R251) -/

section
variable {g : Nat} (hg : g < 16) (hw : ∀ e ∈ s.pgEngines g, s.mayName c (s.engWorld e) = true)
include hg hw

/-- A group whose engines the ring may name. -/
theorem Dev.onGroup_runs (f : Dev → Dev) : s.onGroup c g f = f s := by
  unfold Dev.onGroup
  rw [if_neg (Nat.not_le.2 hg), if_neg (by simpa using hw)]

/-- Engines of groups that are not armed move to the group given. -/
theorem Dev.cPourGroup_moves {mask : Nat} (hm : ∀ e ∈ onesBelow 64 mask, s.mayName c (s.engWorld e) = true)
    (hbusy : s.resBusy (resGroup g :: (onesBelow 64 mask).map resEngine) = false) (ha : s.pgArmed g = false)
    (hea : (onesBelow 64 mask).any s.engArmed = false) : s.cPourGroup c g mask =
      ((s.each ((List.range 16).filter (fun x => decide (x ≠ g))) (fun y x => y.setMask x
        ((y.pgEngines x).foldl (fun a e => if mask.testBit e then a else a + 2 ^ e) 0))).setMask g mask).done c [] := by
  unfold Dev.cPourGroup
  dsimp only
  rw [Dev.onGroup_runs hg hw, if_neg (by simpa using hm), Dev.naming_free hbusy, ha, hea, Bool.or_self, if_neg (by decide)]

/-- A group whose shadow banks are valid is armed for a tick at least 20 us away. -/
theorem Dev.cPourArm_starts {n : Nat} (hbusy : s.resBusy [resGroup g] = false) (ha : s.pgArmed g = false)
    (hv : ∀ e ∈ s.pgEngines g, s.fg F.SET_ESTAT_SHVALID e ≠ 0) (hn : s.time.now + 20000 ≤ tickAt s.F n) : s.cPourArm c g n =
      ((s.wr64 .SET_PG_TICK_LO .SET_PG_TICK_HI g n).pgArm g).start c [resGroup g] g n [] := by
  have hvalid : (s.pgEngines g).find? (fun e => decide (s.fg F.SET_ESTAT_SHVALID e = 0)) = none := by simpa using hv
  unfold Dev.cPourArm
  rw [Dev.onGroup_runs hg hw, Dev.naming_free hbusy, ha, if_neg (by decide), hvalid]
  exact if_neg (Nat.not_lt.2 hn)

/-- An armed group is disarmed, which ends its command; another one answers 0. -/
theorem Dev.cPourDisarm_runs : s.cPourDisarm c g =
    if s.pgArmed g then ((s.fs F.SET_PG_CTL_ARM g 0).done c (leBytes 1 1)).abortLongs (fun k => k.poursGroup g) stDisarmed
    else s.done c (leBytes 1 0) := Dev.onGroup_runs hg hw _

end

/-! ## TRIPGATE (R252 to R257) -/

section
variable {k : Nat} (hk : k < 32) (hw : s.mayName c (s.pairWorld k) = true) (hbusy : s.resBusy [resPair k] = false)
include hk hw hbusy

/-- A pair that the ring may name. -/
theorem Dev.onPair_runs (f : Dev → Dev) : s.onPair c k f = f s := by
  unfold Dev.onPair
  rw [if_neg (Nat.not_le.2 hk), hw, if_neg (by decide), Dev.naming_free hbusy]

/-- A policy and a publish point in range are written. -/
theorem Dev.cTripgatePair_writes {policy pp enable : Nat} (hp : policy < 3) (hlo : 2000 ≤ pp)
    (hhi : pp + 2000 ≤ nsPerSec / s.F) (hen : enable < 2) : s.cTripgatePair c k policy pp enable =
      (((((s.fs F.TRG_PCFG_POLICY k policy).fs F.TRG_PCFG_VOTER k (if policy = 0 then 0 else 2)).pairRises k
        (fun x => x.fs F.TRG_PCFG_EN k enable)).fs F.TRG_PP_P k pp).fs F.TRG_PSOLO_PEND k 0).done c [] := by
  have hgood : firstBad [(decide (policy < 3), 1), (decide (2000 ≤ pp) && decide (pp + 2000 ≤ nsPerSec / s.F), 2),
      (decide (enable < 2), 3)] = none := by
    simp only [decide_eq_true hp, decide_eq_true hlo, decide_eq_true hhi, decide_eq_true hen]
    rfl
  unfold Dev.cTripgatePair
  rw [Dev.onPair_runs hk hw hbusy, hgood]

/-- A voter that the pair's policy admits waits for the first tick at least 20 us away. -/
theorem Dev.cTripgateSolo_schedules {voter : Nat} (hv : voter < 3) (hp : voter = 2 → s.fg F.TRG_PCFG_POLICY k ≠ 0) :
    s.cTripgateSolo c k voter =
      (((s.fs F.TRG_PSOLO_NVOTER k voter).fs F.TRG_PSOLO_PEND k 1).wr64 .TRG_STICK_LO .TRG_STICK_HI k s.tickIn20us).done
        c (leBytes 8 s.tickIn20us) := by
  have hgood : ¬ (3 ≤ voter ∨ (voter = 2 ∧ s.fg F.TRG_PCFG_POLICY k = 0)) := by
    rintro (h3 | ⟨h2, h0⟩)
    · omega
    · exact hp h2 h0
  unfold Dev.cTripgateSolo
  rw [Dev.onPair_runs hk hw hbusy, if_neg hgood]

end

/-! ## DEBUG (R238, R240) -/

/-- A breakpoint in range is written to an engine that the unlock covers. -/
theorem Dev.cDebugEngbrk_writes {slot addr enable : Nat} (he : MayEngine s c e false) (hu : s.unlockReach (s.engWorld e) = true)
    (hs : slot < 2) (ha : addr < 8192) (hen : enable < 2) : s.cDebugEngbrk c e slot addr enable =
      ((s.fs F.PE_BRK_ADDR (2 * e + slot) addr).fs F.PE_BRK_EN (2 * e + slot) enable).done c [] := by
  have hgood : firstBad [(decide (slot < 2), 1), (decide (addr < 8192), 2), (decide (enable < 2), 3)] = none := by
    simp only [decide_eq_true hs, decide_eq_true ha, decide_eq_true hen]
    rfl
  unfold Dev.cDebugEngbrk
  rw [onLive_of he, hu, if_neg (by decide), hgood]

/-- Hives that the ring may name and the unlock covers step from the first tick at least 20 us away. -/
theorem Dev.cDebugStep_starts {hives ticks : Nat} (hw : ∀ v ∈ onesBelow 8 hives, s.mayName c (s.hiveWorld v) = true)
    (hu : ∀ v ∈ onesBelow 8 hives, s.unlockReach (s.hiveWorld v) = true)
    (hbusy : s.resBusy ((onesBelow 8 hives).map resHive) = false) : s.cDebugStep c hives ticks =
      (s.each (onesBelow 8 hives) (fun x v => x.onHive v (fun y => { y with stepStart := some (s.tickIn20us, ticks) }))).start
        c ((onesBelow 8 hives).map resHive) hives (s.tickIn20us + ticks - 1 + b2n (decide (ticks = 0))) [] := by
  unfold Dev.cDebugStep
  dsimp only
  rw [if_neg (by simpa using hw), if_neg (by simpa using hu), Dev.naming_free hbusy]

end

/-- Settles O19: firmware takes the command (`takeCmd_taken`), and none of its own refusals applies. -/
theorem engineCommandsDo : Obligations.EngineCommandsDo := by
  unfold Obligations.EngineCommandsDo
  intro s h
  refine ⟨?castLoad, ?castHalt, ?castRun, ?bindSet, ?bindClear, ?comb, ?stage, ?group, ?arm, ?disarm, ?pair, ?solo, ?engbrk,
    ?step⟩
  case castLoad =>
    rintro e b t bs d rfl ht hw he hh hcopy hok
    show execCastLoad h e b s = _
    exact run_eq s hw ((takeCmd_taken ht _).trans (Dev.cCastLoad_starts he hh hcopy hok))
  case castHalt =>
    rintro e d rfl ht hw he
    show execCastHalt h e s = _
    exact run_eq s hw ((takeCmd_taken ht _).trans (Dev.cCastHalt_halts he))
  case castRun =>
    rintro e d rfl ht hw he ha hr
    show execCastRun h e s = _
    exact run_eq s hw ((takeCmd_taken ht _).trans (Dev.cCastRun_starts he ha hr))
  case bindSet =>
    rintro e x cls k policy d rfl ht hw he hh hx hcls hk hp
    show execBindSet h e x cls k policy s = _
    exact run_eq s hw ((takeCmd_taken ht _).trans (Dev.cBindSet_writes he hh hx hcls hk hp))
  case bindClear =>
    rintro e x d rfl ht hw he hh hx
    show execBindClear h e x s = _
    exact run_eq s hw ((takeCmd_taken ht _).trans (Dev.cBindClear_clears he hh hx))
  case comb =>
    rintro chans depth lag fill k d rfl ht hw hh hc hc' hd hsize hl hl' hf
    show execCombConfig h chans depth lag fill s = _
    exact run_eq s hw ((takeCmd_taken ht _).trans (Dev.cCombConfig_writes hh hc hc' hd hsize hl hl' hf))
  case stage =>
    rintro mask b t bs d rfl ht hw hbusy hcopy hok hmay
    show execSetsStage h mask b s = _
    exact run_eq s hw ((takeCmd_taken ht _).trans (Dev.cSetsStage_starts hbusy hcopy hok hmay))
  case group =>
    rintro g mask d rfl ht hw hg hname hm hbusy ha hea
    show execPourGroup h g mask s = _
    exact run_eq s hw ((takeCmd_taken ht _).trans (Dev.cPourGroup_moves hg hname hm hbusy ha hea))
  case arm =>
    rintro g n d rfl ht hw hg hname hbusy ha hv hn
    show execPourArm h g n s = _
    exact run_eq s hw ((takeCmd_taken ht _).trans (Dev.cPourArm_starts hg hname hbusy ha hv hn))
  case disarm =>
    rintro g d rfl ht hw hg hname
    show execPourDisarm h g s = _
    exact run_eq s hw ((takeCmd_taken ht _).trans (Dev.cPourDisarm_runs hg hname))
  case pair =>
    rintro k policy pp enable d rfl ht hw hk hname hbusy hp hlo hhi hen
    show execTripgatePair h k policy pp enable s = _
    exact run_eq s hw ((takeCmd_taken ht _).trans (Dev.cTripgatePair_writes hk hname hbusy hp hlo hhi hen))
  case solo =>
    rintro k voter d rfl ht hw hk hname hbusy hv hp
    show execTripgateSolo h k voter s = _
    exact run_eq s hw ((takeCmd_taken ht _).trans (Dev.cTripgateSolo_schedules hk hname hbusy hv hp))
  case engbrk =>
    rintro e slot addr enable d rfl ht hw he hu hs ha hen
    show execDebugEngbrk h e slot addr enable s = _
    exact run_eq s hw ((takeCmd_taken ht _).trans (Dev.cDebugEngbrk_writes he hu hs ha hen))
  case step =>
    rintro hives ticks d rfl ht hw hname hu hbusy
    show execDebugStep h hives ticks s = _
    exact run_eq s hw ((takeCmd_taken ht _).trans (Dev.cDebugStep_starts hname hu hbusy))

end Sys2Proof.Machine
end

section
/-!
PROOFS. The sources of time (05 R102 to R111): TMB_MEAS, IRIG-B frames, PPS edges, a source lost, the limit of HOLDOVER, leap
seconds and PPS_OUT.
-/

namespace Sys2Proof.Machine

/-! ## TMB_MEAS (R107) -/

section
variable {s : Dev} {v : Word}

/-- With MEASSRC 1 to 4 it is a measurement of that source. -/
theorem Dev.tmbMeasWrite_measures (h1 : 1 ≤ s.fg F.TMB_MEASSRC_SRC 0) (h4 : s.fg F.TMB_MEASSRC_SRC 0 ≤ 4) :
    s.tmbMeasWrite v = s.measure (s.fg F.TMB_MEASSRC_SRC 0) (sext 32 v.toNat) true := if_pos ⟨h1, h4⟩

/-- With another code it is logged. -/
theorem Dev.tmbMeasWrite_logs (h : ¬ (1 ≤ s.fg F.TMB_MEASSRC_SRC 0 ∧ s.fg F.TMB_MEASSRC_SRC 0 ≤ 4)) :
    s.tmbMeasWrite v = s.errCap 4 { ty := 0x10, addr := devAddr 4 0x3C, info := s.fg F.TMB_MEASSRC_SRC 0 } := if_neg h

/-- The SVP's write acts. -/
theorem exec_tmbMeas_svp {s : State} {rq : Req} (hw : wellFormed (.tmbMeas rq v) = true) (hs : rq.svp = true)
    (hr : s.dev.reaches rq 2 = true) : exec (.tmbMeas rq v) s = .next { s with dev := (s.dev.tmbMeasWrite v).ok 0 } := by
  show execTmbMeas rq v s = _
  exact run_eq s hw (by rw [hs, Dev.gate_admits hr])

end

/-! ## IRIG-B (R108, R110) -/

section
variable {s : Dev} {f : IrigFrame}

/-- A frame with bad position markers is invalid. -/
theorem Dev.irigOk_badMarkers (h : f.markersOk = false) : s.irigOk f = false := by simp [Dev.irigOk, h]

/-- A frame with bad position markers captures nothing, counts in BADCNT and breaks the source's count; the lock counter stands,
since source 5 is not selected. -/
theorem Dev.irig_badMarkers (h : f.markersOk = false) (hs : s.fg F.TMB_STAT_SRC 0 ≠ 5) :
    s.irig f = (s.inc F.TMB_IRIGST_BADCNT 0).setSrcCnt 5 0 := by
  have hsel : ((s.inc F.TMB_IRIGST_BADCNT 0).setSrcCnt 5 0).fg F.TMB_STAT_SRC 0 = s.fg F.TMB_STAT_SRC 0 :=
    Dev.fg_congr (Dev.rd_inc_ne s 0 0 (by decide))
  unfold Dev.irig
  simp only [h, Dev.cond_false, Dev.irigOk_badMarkers h]
  exact if_neg (fun h5 => hs (hsel.symm.trans h5))

/-- A valid frame captures event 2, updates IRIGST, may announce a leap second, and is a measurement with the time of day. -/
theorem Dev.irig_valid {d : Dev} (h : f.markersOk = true) (hd : d = s.tsuCap 0x02 (f.edge - s.fg F.TMB_IRIGDLY_DLY 0))
    (hok : d.irigOk f = true) :
    s.irig f =
      ((((d.fs F.TMB_IRIGST_TQ 0 f.tq).fs F.TMB_IRIGST_LSP 0 (b2n f.lsp)).fs F.TMB_IRIGST_LSS 0 (b2n f.lss)).irigLeap f
        (d.irigLocal f + f.utcOfs)).measure 5 (((f.edge - s.fg F.TMB_IRIGDLY_DLY 0 : Nat) : Int) -
          (d.irigLocal f + f.utcOfs + sext 16 (d.fg F.TMB_UTCOFS_OFS 0)) * (nsPerSec : Int)) true := by
  subst hd
  unfold Dev.irig
  simp only [h, Dev.cond_true, hok]
  rfl

end

/-- IRIG_FRAME while the timebase is on. -/
theorem exec_irigFrame_on {s : State} (h2 : s.dev.domOn 2 = true) (f : IrigFrame) :
    exec (.irigFrame f) s = .next { s with dev := s.dev.irig f } := by
  show execIrigFrame f s = _
  exact run_eq s rfl (if_pos h2)

/-! ## PPS_IN (R109) -/

/-- The nanosecond part of a timestamp, folded into half a second about the top of the second. -/
def foldNs (x : Nat) : Int :=
  if 500000000 < x % nsPerSec then ((x % nsPerSec : Nat) : Int) - nsPerSec else ((x % nsPerSec : Nat) : Int)

/-- Whether an edge now comes less than 900 ms after the latest accepted one. -/
def Dev.ppsEarly (s : Dev) : Bool :=
  match s.time.lastPps with
  | some k => decide (s.clk < k + 900000000)
  | none => false

/-- The module with an edge of PPS_IN accepted now. -/
def Dev.ppsAccepted (s : Dev) : Dev := { s with time := { s.time with lastPps := some s.clk } }

/-- 900 ms after the latest accepted edge, none is early. -/
theorem Dev.ppsEarly_false {s : Dev} (h : ∀ k, s.time.lastPps = some k → k + 900000000 ≤ s.clk) : s.ppsEarly = false := by
  unfold Dev.ppsEarly
  split
  next k hk => exact decide_eq_false (Nat.not_lt.2 (h k hk))
  next => rfl

/-- An edge at least 900 ms after the latest accepted one, in a valid second, is a measurement of source 6. -/
theorem Dev.ppsIn_measures {s d : Dev} {x : Nat} (hx : x = s.time.now - s.fg F.TMB_PPSDLY_DLY 0) (hd : d = s.tsuCap 0x01 x)
    (hlast : ∀ k, d.time.lastPps = some k → k + 900000000 ≤ d.clk) (hsec : d.ppsAccepted.fg F.TMB_STAT_SECVALID 0 = 1) :
    s.ppsIn = d.ppsAccepted.measure 6 (foldNs x) false := by
  have hin : s.ppsIn = if d.ppsEarly then d
      else if d.ppsAccepted.fg F.TMB_STAT_SECVALID 0 = 1 then d.ppsAccepted.measure 6 (foldNs x) false else d.ppsAccepted := by
    subst hd hx
    rfl
  rw [hin, Dev.ppsEarly_false hlast, if_neg (by decide), if_pos hsec]

/-- PPS_IN_EDGE while the timebase is on. -/
theorem exec_ppsInEdge_on {s : State} (h2 : s.dev.domOn 2 = true) :
    exec .ppsInEdge s = .next { s with dev := s.dev.ppsIn } := by
  show execPpsInEdge s = _
  exact run_eq s rfl (if_pos h2)

/-! ## A source lost, HOLDOVER, leap seconds and PPS_OUT (R103, R104, R110, R111) -/

/-- The module without a latest measurement of a source; the selection is made anew if it was selected. -/
def Dev.sourceLost (s : Dev) (src : Nat) : Dev :=
  let e : Dev := { s with time := { s.time with lastMeas := SMap.set (fun _ => none) s.time.lastMeas src none } }
  if e.fg F.TMB_STAT_SRC 0 = src then e.reselect else e

section
variable {s : State}

/-- TIME_SOURCE_LOSS of a source measured last at clock k. -/
theorem exec_timeSourceLoss_measured {src k : Nat} (hw : wellFormed (.timeSourceLoss src) = true) (h2 : s.dev.domOn 2 = true)
    (hk : s.dev.lastMeas src = some k) : exec (.timeSourceLoss src) s = .next { s with
      dev := ((s.dev.moveClk (k + s.dev.lossTo)).setSrcCnt src 0).sourceLost src } := by
  show execTimeSourceLoss src s = _
  exact run_eq s hw (by rw [hk]; exact if_pos h2)

/-- HOLDOVER_LIMIT in HOLDOVER. -/
theorem exec_holdoverLimit_holdover (h2 : s.dev.domOn 2 = true) (h3 : s.dev.fg F.TMB_STAT_STATE 0 = 3) :
    exec .holdoverLimit s = .next { s with
      dev := (s.dev.moveClk (s.dev.time.holdAt + s.dev.fg F.TMB_HOLD_HOLDLIM 0 * nsPerSec)).setLock 0 } := by
  show execHoldoverLimit s = _
  exact run_eq s rfl (if_pos ⟨h2, h3⟩)

/-- LEAP_SECOND with a change pending whose second is not past. -/
theorem exec_leapSecond_pending (h2 : s.dev.domOn 2 = true) (hu : s.dev.utcSec ≠ 0)
    (hn : s.dev.time.now ≤ s.dev.utcSec * nsPerSec) :
    exec .leapSecond s = .next { s with dev := (s.dev.moveTo (s.dev.utcSec * nsPerSec)).applyLeap } := by
  show execLeapSecond s = _
  exact run_eq s rfl (if_pos ⟨h2, hu, hn⟩)

/-- PPS_OUT_PULSE while PPS_OUT pulses. -/
theorem exec_ppsOutPulse_live (h2 : s.dev.domOn 2 = true) (hl : s.dev.ppsLive = true) :
    exec .ppsOutPulse s = .next { s with dev :=
      (let e := s.dev.moveTo ((s.dev.time.now + nsPerSec - 1) / nsPerSec * nsPerSec)
       { e with time := { e.time with ppsHigh := true, ppsAt := (s.dev.time.now + nsPerSec - 1) / nsPerSec * nsPerSec } }) } := by
  show execPpsOutPulse s = _
  exact run_eq s rfl (if_pos ⟨h2, hl⟩)

/-- PPS_OUT_END with the pin high. -/
theorem exec_ppsOutEnd_high (h : s.dev.time.ppsHigh = true) :
    exec .ppsOutEnd s = .next { s with dev :=
      (let e := s.dev.moveTo s.dev.ppsEnd
       { e with time := { e.time with ppsHigh := false } }) } := by
  show execPpsOutEnd s = _
  exact run_eq s rfl (if_pos h)

end

/-- Settles O21: each clause is its row's rule, with what the row's effect comes to in the case named. -/
theorem timeSourcesAct : Obligations.TimeSourcesAct := by
  unfold Obligations.TimeSourcesAct
  intro s
  refine ⟨?measures, ?logs, ?irigBad, ?irigValid, ?pps, ?loss, exec_holdoverLimit_holdover, exec_leapSecond_pending,
    exec_ppsOutPulse_live, exec_ppsOutEnd_high⟩
  case measures =>
    exact fun rq v hw hs hr h1 h4 => by rw [exec_tmbMeas_svp hw hs hr, Dev.tmbMeasWrite_measures h1 h4]
  case logs => exact fun rq v hw hs hr h => by rw [exec_tmbMeas_svp hw hs hr, Dev.tmbMeasWrite_logs h]
  case irigBad => exact fun f _ h2 hm hs => by rw [exec_irigFrame_on h2, Dev.irig_badMarkers hm hs]
  case irigValid => exact fun f d _ h2 hm hd hok => by rw [exec_irigFrame_on h2, Dev.irig_valid hm hd hok]
  case pps =>
    intro d x h2 hx hd hlast hsec
    rw [exec_ppsInEdge_on h2, Dev.ppsIn_measures hx hd hlast hsec]
    rfl
  case loss =>
    rintro src k d hw h2 hk rfl
    exact exec_timeSourceLoss_measured hw h2 hk

end Sys2Proof.Machine
end

section
/-!
PROOFS. Timers and the timestamp unit (05 R120 to R130): the counter clock from the divider, a read of TMR_CNT, and TSU_SWTRIG.
-/

namespace Sys2Proof.Machine

/-! ## The divided clock (R120, log 45) -/

/-- The multiple of p that lies less than p at or above m is m rounded up. -/
theorem roundUp_eq_of_multiple {m p e : Nat} (hp : p ∣ e) (hlo : m ≤ e) (hhi : e < m + p) : (m + p - 1) / p * p = e := by
  obtain ⟨q, rfl⟩ := hp
  have hq : (m + p - 1) / p = q :=
    Nat.div_eq_of_lt_le (by rw [Nat.mul_comm]; omega) (by rw [Nat.add_mul, Nat.mul_comm q p]; omega)
  rw [hq, Nat.mul_comm]

section
variable {s : Dev} {k : Nat}

/-- The first multiple of 2 ^ PRE clocks not yet counted is the next edge. -/
theorem Dev.tmrEdge_eq {e : Nat} (hm : e % 2 ^ s.fg F.TMR_CTL_PRE k = 0) (hlo : max s.clk ((s.tmr k).lastClk + 1) ≤ e)
    (hhi : e < max s.clk ((s.tmr k).lastClk + 1) + 2 ^ s.fg F.TMR_CTL_PRE k) : s.tmrEdge k = e :=
  roundUp_eq_of_multiple (Nat.dvd_of_mod_eq_zero hm) hlo hhi

/-! ## A counter clock (R121 to R127) -/

/-- Step 2 of R121 on timer k, with what was written taken into effect. -/
def Dev.tmrStepOf (s : Dev) (k : Nat) : TmrStep :=
  if s.fg F.TMR_CTL_MODE k = 0 then upStep (decide (s.fg F.TMR_CTL_TOPBUF k = 0)) (s.rd .TMR_CNT k).toNat (s.tmr k).top.toNat
  else upDownStep (decide (s.fg F.TMR_CTL_TOPBUF k = 0)) (!(s.tmr k).startUp && decide (s.fg F.TMR_STAT_DIR k = 1))
    (s.rd .TMR_CNT k).toNat (s.tmr k).top.toNat

/-- Steps 2 to 4 of R121 on timer k: the count written, the compare units, the events, and a buffered TOP loaded at a wrap. -/
def Dev.tmrStepped (s : Dev) (k : Nat) (st : TmrStep) : Dev :=
  let y := ((s.wr .TMR_CNT k (BitVec.ofNat 32 st.cnt)).fs F.TMR_STAT_DIR k (b2n st.nextDown)).onTmr k
    (fun z => { z with startUp := false })
  let y := y.each (List.range 4) (fun z c => z.tmrCompare k st c)
  let y := y.cond st.wrap (fun z => z.tmrEvt k 4 (0x10 + k))
  let y := y.cond st.turn (fun z => z.tmrEvt k 5 (0x20 + k))
  let y := y.cond st.short (fun z => z.tmrEvt k 6 0xFFFF)
  if st.wrap && !decide (s.fg F.TMR_CTL_TOPBUF k = 0) then
    (y.onTmr k (fun z => { z with top := z.pTop.getD z.top, pTop := none })).fs F.TMR_STAT_TOPPEND k 0
  else y

/-- A counter clock steps the timer, and clocks the next one where that counts the event (R125). -/
theorem Dev.tmrClock_succ {d : Dev} {st : TmrStep} (hd : d = s.tmrPending k) (hst : st = d.tmrStepOf k) (n : Nat) :
    s.tmrClock k (n + 1) =
      (let y := d.tmrStepped k st
       let casc := y.fg F.TMR_CTL_CASC (k + 1)
       if k + 1 < 16 ∧ y.fg F.TMR_CTL_EN (k + 1) = 1 ∧ y.fg F.TMR_CTL_CLKSEL (k + 1) = 3 ∧
          (decide (casc = 0) && st.wrap || decide (casc = 1) && st.turn || decide (casc = 2) && (st.wrap || st.turn))
       then y.tmrClock (k + 1) n else y) := by
  subst hst hd
  rfl

end

section
variable {s : State} {k : Nat}

/-- TIMER_COUNT of an enabled timer on the divided clock passes to that clock's next edge. -/
theorem exec_timerCount_divided {e : Nat} (hw : wellFormed (.timerCount k) = true) (h2 : s.dev.domOn 2 = true)
    (hen : s.dev.fg F.TMR_CTL_EN k = 1) (hsel : s.dev.fg F.TMR_CTL_CLKSEL k = 0) (he : s.dev.tmrEdge k = e) :
    exec (.timerCount k) s = .next { s with
      dev := ((s.dev.moveClk e).onTmr k (fun y => { y with lastClk := e })).tmrClock k 16 } := by
  subst he
  show execTimerCount k s = _
  exact run_eq s hw (if_pos (by simp [Dev.tmrOn, h2, hen, hsel]))

/-- TIMER_COUNT of a disabled timer, or one that counts something else, changes nothing. -/
theorem exec_timerCount_other (hw : wellFormed (.timerCount k) = true)
    (h : s.dev.fg F.TMR_CTL_EN k ≠ 1 ∨ s.dev.fg F.TMR_CTL_CLKSEL k ≠ 0) : exec (.timerCount k) s = .next s := by
  have hoff : s.dev.tmrOn 0 k = false := by simpa [Dev.tmrOn, Decidable.imp_iff_not_or] using h
  show execTimerCount k s = _
  exact run_eq (d := s.dev) s hw (if_neg (by simp [hoff]))

/-! ## A read of TMR_CNT and a write of TSU_SWTRIG (R125, R129, R130) -/

variable {rq : Req}

/-- TMR_CNT_READ. -/
theorem exec_tmrCntRead_reached (hw : wellFormed (.tmrCntRead rq k) = true) (hr : s.dev.reaches rq 2 = true) :
    exec (.tmrCntRead rq k) s = .next { s with dev := s.dev.tmrCntRead k } := by
  show execTmrCntRead rq k s = _
  exact run_eq s hw (Dev.gate_admits hr _ _ _)

/-- TSU_SWTRIG. -/
theorem exec_tsuSwtrig_reached {half : Nat} {v : Word} (hw : wellFormed (.tsuSwtrig rq half v) = true)
    (hr : s.dev.reaches rq 2 = true) :
    exec (.tsuSwtrig rq half v) s = .next { s with dev := (s.dev.swTrig rq half v).ok 0 } := by
  show execTsuSwtrig rq half v s = _
  exact run_eq s hw (Dev.gate_admits hr _ _ _)

end

/-- Settles O23: the counter clock comes at the edge that the bounds name, and steps the timer (`Dev.tmrClock_succ`). -/
theorem timersAct : Obligations.TimersAct := by
  unfold Obligations.TimersAct
  intro s
  refine ⟨?counts, fun k => exec_timerCount_other, fun rq k => exec_tmrCntRead_reached,
    fun rq half v => exec_tsuSwtrig_reached⟩
  case counts =>
    intro k e d st hw h2 hen hsel hm hlo hhi hd hst
    rw [exec_timerCount_divided hw h2 hen hsel (Dev.tmrEdge_eq hm hlo hhi), Dev.tmrClock_succ hd hst]
    rfl

end Sys2Proof.Machine
end

section
/-!
PROOFS. Ingest and the comb window (06 R134 to R138, R153 to R156): the checks that end a sampled-value or GOOSE frame, what an
accepted GOOSE frame does, the close of a validity window, stream switches, and reads of the comb window.
-/

namespace Sys2Proof.Machine

/-! ## Steps 1 and 2 of Table 6.3 -/

section
variable {s : Dev} {p : Nat} {h : FrameHdr} {o : List Byte}

/-- A length outside 64 to 1,522 octets drops the frame, whatever its FCS. -/
theorem Dev.rxCheck_badLength (hlen : h.len < 64 ∨ 1522 < h.len) (ptp : Bool) :
    s.rxCheck p h o ptp = (s.inc F.ETH_RXLEN_COUNT p, .drop) := if_pos hlen

/-- A frame of good length with a bad FCS or a symbol error is dropped. -/
theorem Dev.rxCheck_badFcs (hlo : 64 ≤ h.len) (hhi : h.len ≤ 1522) (hfcs : fcsOk h o = false) (ptp : Bool) :
    s.rxCheck p h o ptp = (s.inc F.ETH_RXFCS_COUNT p, .drop) := by
  have hlen : ¬ (h.len < 64 ∨ 1522 < h.len) := by omega
  rw [Dev.rxCheck, if_neg hlen, hfcs]
  rfl

end

/-! ## Sampled values: step 3 (R135) -/

section
variable {s d : Dev} {p st : Nat} {f : SvFrame} {o : List Byte}

/-- A frame that the port drops leaves what the port counted. -/
theorem Dev.svArrive_dropped (hp : s.portOn p = true) (hc : s.rxCheck p f.hdr o false = (d, .drop)) : s.svArrive p f o = d := by
  rw [Dev.svArrive, hp, hc]
  rfl

/-- A first copy comes to ingest, after it was offered to the other port of an HSR ring. -/
theorem Dev.svArrive_taken (hp : s.portOn p = true) (hc : s.rxCheck p f.hdr o false = (d, .take)) :
    s.svArrive p f o = (d.hsrOffer p f.hdr o).svIngest p f o := by
  rw [Dev.svArrive, hp, hc]
  rfl

/-- A frame of no stream counts in ING_UNSUB and goes to the host path. -/
theorem Dev.svIngest_unsubscribed (h2 : p < 2) (hm : (List.range s.nStream).find? (s.svMatch p f) = none) :
    s.svIngest p f o = (s.inc F.ING_UNSUB_COUNT 0).hostOrFilt p f.hdr o := by
  rw [Dev.svIngest, if_neg (Nat.not_le.2 h2), hm]

/-- A frame of stream st goes to that stream alone while COPYSUB is clear. -/
theorem Dev.svIngest_matched (h2 : p < 2) (hm : (List.range s.nStream).find? (s.svMatch p f) = some st)
    (hcopy : s.fg F.ETH_CFG_COPYSUB p ≠ 1) : s.svIngest p f o = s.svTake p st f := by
  rw [Dev.svIngest, if_neg (Nat.not_le.2 h2), hm]
  simp only [decide_eq_false hcopy, Dev.cond_false]

end

/-! ## Sampled values: steps 4 to 7 (R136 to R138) -/

/-- A frame is not the first simulated one if it is not simulated, or if simulated ones are taken already. -/
theorem notFirstSim {sim : Bool} {taken : Prop} [Decidable taken] (h : sim = false ∨ taken) : (sim && !decide taken) = false := by
  rcases h with h | h <;> simp [h]

/-- The ASDUs of a frame of stream st, in order. -/
def Dev.svSamples (s : Dev) (p st : Nat) (f : SvFrame) : Dev :=
  (List.range f.asdus.length).foldl (fun y i => (f.asdus[i]?).elim y (fun a => y.svSample p st f.sim i a)) s

section
variable {s x : Dev} {p st : Nat} {f : SvFrame}

/-- Step 4 fails. -/
theorem Dev.svTake_badPdu (hpdu : s.svPduOk st f = false) : s.svTake p st f = s.badPdu F.ALN_SDROP_COUNT st := by
  rw [Dev.svTake, hpdu]
  rfl

variable (hpdu : s.svPduOk st f = true)
include hpdu

/-- Step 5 fails. -/
theorem Dev.svTake_authFail (ha : s.authOk (s.sdAuth st) (s.sdKey st) (s.sdWorld st) f.ext f.octets = false) :
    s.svTake p st f = s.authFail F.ALN_SDROP_COUNT st := by
  rw [Dev.svTake, hpdu, ha]
  rfl

variable (ha : s.authOk (s.sdAuth st) (s.sdKey st) (s.sdWorld st) f.ext f.octets = true)
include ha

/-- Step 6 fails. -/
theorem Dev.svTake_simDrop
    (hs : s.simPass (s.sdSimsel st) (decide (s.fg F.ALN_SSTAT_SIMTAKEN st = 1)) f.sim = false) :
    s.svTake p st f = s.inc F.ING_SIMDROP_COUNT 0 := by
  simp only [Dev.svTake, hpdu, ha, hs]
  rfl

variable (hs : s.simPass (s.sdSimsel st) (decide (s.fg F.ALN_SSTAT_SIMTAKEN st = 1)) f.sim = true)
  (hsim : f.sim = false ∨ s.fg F.ALN_SSTAT_SIMTAKEN st = 1)
include hs hsim

/-- Step 7 fails. -/
theorem Dev.svTake_policed (hcr : s.svCredit st = (x, false)) : s.svTake p st f = x.policed F.ALN_SDROP_COUNT st := by
  simp only [Dev.svTake, hpdu, ha, hs, notFirstSim hsim, Dev.cond_false, hcr]
  rfl

/-- A frame that passes every step has its samples taken. -/
theorem Dev.svTake_samples (hcr : s.svCredit st = (x, true)) : s.svTake p st f = x.svSamples p st f := by
  simp only [Dev.svTake, hpdu, ha, hs, notFirstSim hsim, Dev.cond_false, hcr]
  refine congrArg (fun g => List.foldl g x (List.range f.asdus.length)) (funext fun y => funext fun i => ?_)
  cases f.asdus[i]? <;> rfl

end

section
variable {s : State} {d e x : Dev} {p st : Nat} {f : SvFrame}

/-- SV_FRAME of a frame that the port drops. -/
theorem exec_svFrame_dropped (hw : wellFormed (.svFrame p f) = true) (hp : s.dev.portOn p = true)
    (hc : s.dev.rxCheck p f.hdr f.octets false = (d, .drop)) : exec (.svFrame p f) s = .next { s with dev := d } := by
  show execSvFrame p f s = _
  exact run_eq s hw (Dev.svArrive_dropped hp hc)

/-- SV_FRAME of a first copy is what ingest makes of it. -/
theorem exec_svFrame_taken (hw : wellFormed (.svFrame p f) = true) (hp : s.dev.portOn p = true)
    (hc : s.dev.rxCheck p f.hdr f.octets false = (d, .take)) (he : e = d.hsrOffer p f.hdr f.octets)
    (hx : e.svIngest p f f.octets = x) : exec (.svFrame p f) s = .next { s with dev := x } := by
  subst he
  show execSvFrame p f s = _
  exact run_eq s hw ((Dev.svArrive_taken hp hc).trans hx)

/-- SV_FRAME of a first copy that matches stream st is what steps 4 to 7 make of it. -/
theorem exec_svFrame_matched (hw : wellFormed (.svFrame p f) = true) (hp : s.dev.portOn p = true)
    (hc : s.dev.rxCheck p f.hdr f.octets false = (d, .take)) (he : e = d.hsrOffer p f.hdr f.octets) (h2 : p < 2)
    (hm : (List.range e.nStream).find? (e.svMatch p f) = some st) (hcopy : e.fg F.ETH_CFG_COPYSUB p ≠ 1)
    (hx : e.svTake p st f = x) : exec (.svFrame p f) s = .next { s with dev := x } :=
  exec_svFrame_taken hw hp hc he ((Dev.svIngest_matched h2 hm hcopy).trans hx)

end

/-! ## GOOSE (R134, R135, R154) -/

section
variable {s d x : Dev} {p g : Nat} {f : GooseFrame} {o : List Byte}

/-- A first copy comes to ingest, after it was offered to the other port of an HSR ring. -/
theorem Dev.gooseArrive_taken (hp : s.portOn p = true) (hc : s.rxCheck p f.hdr o false = (d, .take)) :
    s.gooseArrive p f o = (d.hsrOffer p f.hdr o).gooseIngest p f o := by
  rw [Dev.gooseArrive, hp, hc]
  rfl

/-- A frame of subscription g goes to that subscription alone while COPYSUB is clear. -/
theorem Dev.gooseIngest_matched (hm : (List.range s.nGoose).find? (s.gooseMatch p f) = some g)
    (hcopy : s.fg F.ETH_CFG_COPYSUB p ≠ 1) : s.gooseIngest p f o = s.gooseTake p g f := by
  rw [Dev.gooseIngest, hm]
  simp only [decide_eq_false hcopy, Dev.cond_false]

/-- A frame that is not simulated and passes steps 4 to 7 comes to the state of the subscription. -/
theorem Dev.gooseTake_accepted (hpdu : s.goosePduOk g f = true)
    (ha : s.authOk (s.gdAuth g) (s.gdKey g) (s.gdWorld g) f.ext f.octets = true)
    (hs : s.simPass (s.gdSimsel g) (decide (s.fg F.ALN_GSTAT_SIMTAKEN g = 1)) f.sim = true) (hsim : f.sim = false)
    (hcr : s.gooseCredit g = (x, true)) : s.gooseTake p g f = x.gooseState p g f := by
  rw [hsim] at hs
  simp only [Dev.gooseTake, hpdu, ha, hsim, hs, Dev.cond_false, hcr, Bool.not_true, Bool.false_eq_true, if_false]

/-- Whether frame f replaces the state of subscription g: the first one, one that a change of table forced, one after the window
closed, or one with a higher stNum. -/
def Dev.gooseNew (s : Dev) (g : Nat) (f : GooseFrame) : Prop :=
  (s.gst g).got = false ∨ (s.gst g).force = true ∨ (s.gst g).closed = true ∨
    numHigher f.stNum (s.rd .ALN_STNUM g).toNat = true

/-- The model's test of a replacing frame. -/
theorem Dev.gooseNew_iff : s.gooseNew g f ↔ (!(s.gst g).got || (s.gst g).force || (s.gst g).closed ||
    numHigher f.stNum (s.rd .ALN_STNUM g).toNat) = true := by
  simp [Dev.gooseNew, or_assoc]

section
variable (hdue : s.gooseDue g = false)
include hdue

/-- A replacing frame replaces the state. -/
theorem Dev.gooseState_new (h : s.gooseNew g f) : s.gooseState p g f = s.gooseReplace p g f := by
  rw [Dev.gooseState, hdue]
  exact if_pos (Dev.gooseNew_iff.1 h)

variable (h : ¬ s.gooseNew g f)
include h

/-- The same stNum with a higher sqNum refreshes the window. -/
theorem Dev.gooseState_repeat (hst : f.stNum = (s.rd .ALN_STNUM g).toNat)
    (hsq : numHigher f.sqNum (s.rd .ALN_SQNUM g).toNat = true) : s.gooseState p g f = s.gooseWindow p g f := by
  rw [Dev.gooseState, hdue]
  exact (if_neg (mt Dev.gooseNew_iff.2 h)).trans (if_pos ⟨hst, hsq⟩)

/-- Any other frame is dropped. -/
theorem Dev.gooseState_stale
    (hn : ¬ (f.stNum = (s.rd .ALN_STNUM g).toNat ∧ numHigher f.sqNum (s.rd .ALN_SQNUM g).toNat = true)) :
    s.gooseState p g f = s.inc F.ALN_GDROP_COUNT g := by
  rw [Dev.gooseState, hdue]
  exact (if_neg (mt Dev.gooseNew_iff.2 h)).trans (if_neg hn)

end
end

/-- GOOSE_FRAME of a first copy that subscription g accepts is what the subscription's state makes of it. -/
theorem exec_gooseFrame_accepted {s : State} {d e x y : Dev} {p g : Nat} {f : GooseFrame}
    (hw : wellFormed (.gooseFrame p f) = true) (hp : s.dev.portOn p = true)
    (hc : s.dev.rxCheck p f.hdr f.octets false = (d, .take)) (he : e = d.hsrOffer p f.hdr f.octets)
    (hm : (List.range e.nGoose).find? (e.gooseMatch p f) = some g) (hcopy : e.fg F.ETH_CFG_COPYSUB p ≠ 1)
    (hpdu : e.goosePduOk g f = true) (ha : e.authOk (e.gdAuth g) (e.gdKey g) (e.gdWorld g) f.ext f.octets = true)
    (hs : e.simPass (e.gdSimsel g) (decide (e.fg F.ALN_GSTAT_SIMTAKEN g = 1)) f.sim = true) (hsim : f.sim = false)
    (hcr : e.gooseCredit g = (x, true)) (hy : x.gooseState p g f = y) :
    exec (.gooseFrame p f) s = .next { s with dev := y } := by
  subst he
  show execGooseFrame p f s = _
  refine run_eq s hw ?_
  rw [Dev.gooseArrive_taken hp hc, Dev.gooseIngest_matched hm hcopy, Dev.gooseTake_accepted hpdu ha hs hsim hcr, hy]

/-! ## The close of a validity window and stream switches (R154, R156) -/

section
variable {s : State}

/-- VALIDITY_WINDOW_CLOSE with an open window of subscription g. -/
theorem exec_validityWindowClose_open {g : Nat} (hw : wellFormed (.validityWindowClose g) = true) (h7 : s.dev.domOn 7 = true)
    (hgot : (s.dev.gst g).got = true) (hopen : (s.dev.gst g).closed = false) :
    exec (.validityWindowClose g) s = .next { s with dev := (s.dev.moveTo (s.dev.gst g).closeAt).gooseClose g } := by
  show execValidityWindowClose g s = _
  exact run_eq s hw (if_pos ⟨h7, hgot, by rw [hopen]; rfl⟩)

variable {x : StreamSwitch} {l : List StreamSwitch} (hl : s.dev.ing.switches = x :: l)
include hl

/-- STREAM_SWITCH with a change for the next tick moves on to that tick. -/
theorem exec_streamSwitch_next {k : Nat} (hk : k = tickAt s.dev.F (tickFrom s.dev.F x.due)) (hlo : s.dev.tickTime < k)
    (hhi : k ≤ tickAt s.dev.tickF (s.dev.tickNo + 1)) :
    exec .streamSwitch s = .next { s with dev := (s.dev.moveTo k).applySwitches k } := by
  subst hk
  show execStreamSwitch s = _
  refine run_eq s rfl ?_
  simp only [hl]
  rw [if_neg (Nat.not_le.2 hlo), if_pos hhi]

/-- STREAM_SWITCH with a change for the tick in progress applies it at once. -/
theorem exec_streamSwitch_now (hk : tickAt s.dev.F (tickFrom s.dev.F x.due) ≤ s.dev.tickTime) :
    exec .streamSwitch s = .next { s with dev := s.dev.applySwitches s.dev.tickTime } := by
  show execStreamSwitch s = _
  refine run_eq s rfl ?_
  simp only [hl]
  exact if_pos hk

end

/-! ## The comb window (R153) -/

section
variable {s : Dev} {rq : Req} {off size : Nat}
variable (h8 : s.domOn 8 = true) (hsz : size = 4 ∨ size = 8) (hal : off % size = 0)
include h8 hsz hal

/-- An aligned read of 4 or 8 bytes with PD08 on passes the checks of the domain and of the width. -/
theorem Dev.combWindow_aligned : s.combWindow rq off size =
    if s.cmbC = 0 ∨ s.cmbC * s.cmbD ≤ off / 8 then s.ok 0
    else if rq.world < 2 ∧ s.chanWorld (off / 8 % s.cmbC) ≠ rq.world then s.errResp 10 rq 0x05 (0x4000000000 + off) 0
    else
      let v := (if s.mem.ue.contains (5, off / 8 / s.cmbC, off / 8 % s.cmbC) then mkCell flAbsent 0x0041 0
        else s.windowCell (off / 8 / s.cmbC) (off / 8 % s.cmbC)).toNat
      s.ok (if size = 8 then v else if off % 8 = 0 then v % 2 ^ 32 else v / 2 ^ 32) := by
  have hwidth : ¬ (size ≠ 4 ∧ size ≠ 8 ∨ off % size ≠ 0) := by omega
  rw [Dev.combWindow, if_neg (by simp [h8]), if_neg hwidth]

/-- Outside the geometry it reads zero. -/
theorem Dev.combWindow_outside (h : s.cmbC = 0 ∨ s.cmbC * s.cmbD ≤ off / 8) : s.combWindow rq off size = s.ok 0 := by
  rw [Dev.combWindow_aligned h8 hsz hal, if_pos h]

variable (hC : s.cmbC ≠ 0) (hin : off / 8 < s.cmbC * s.cmbD)
include hC hin

/-- A requester of the other world gets an error response. -/
theorem Dev.combWindow_otherWorld (hlow : rq.world < 2) (hne : s.chanWorld (off / 8 % s.cmbC) ≠ rq.world) :
    s.combWindow rq off size = s.errResp 10 rq 0x05 (0x4000000000 + off) 0 := by
  have hgeo : ¬ (s.cmbC = 0 ∨ s.cmbC * s.cmbD ≤ off / 8) := by omega
  rw [Dev.combWindow_aligned h8 hsz hal, if_neg hgeo, if_pos ⟨hlow, hne⟩]

/-- A requester of the channel's world, or of level M, reads the cell where no word is uncorrectable. -/
theorem Dev.combWindow_cell (hwld : rq.world = 2 ∨ s.chanWorld (off / 8 % s.cmbC) = rq.world) (hue : s.mem.ue = []) :
    s.combWindow rq off size =
      (let v := (s.windowCell (off / 8 / s.cmbC) (off / 8 % s.cmbC)).toNat
       s.ok (if size = 8 then v else if off % 8 = 0 then v % 2 ^ 32 else v / 2 ^ 32)) := by
  have hgeo : ¬ (s.cmbC = 0 ∨ s.cmbC * s.cmbD ≤ off / 8) := by omega
  have hadm : ¬ (rq.world < 2 ∧ s.chanWorld (off / 8 % s.cmbC) ≠ rq.world) := by omega
  rw [Dev.combWindow_aligned h8 hsz hal, if_neg hgeo, if_neg hadm, hue]
  rfl

end

/-- COMB_WINDOW_READ of a requester that is not fenced. -/
theorem exec_combWindowRead_free {s : State} {rq : Req} {off size : Nat} {d : Dev}
    (hw : wellFormed (.combWindowRead rq off size) = true) (hf : s.dev.fenced rq = false)
    (hd : s.dev.combWindow rq off size = d) : exec (.combWindowRead rq off size) s = .next { s with dev := d } := by
  show execCombWindowRead rq off size s = _
  exact run_eq s hw ((Dev.byFence_free hf _).trans hd)

/-! ## The obligations -/

/-- Settles O24: the clauses follow the rows of Table 6.3, each the lemma about the step that fails, and last about none. -/
theorem svChecksInOrder : Obligations.SvChecksInOrder := by
  unfold Obligations.SvChecksInOrder
  intro s
  refine ⟨?length, ?fcs, ?unsubscribed, ?badPdu, ?authFail, ?simDrop, ?policed, ?samples⟩
  case length => exact fun p f hw hp hlen => exec_svFrame_dropped hw hp (Dev.rxCheck_badLength hlen false)
  case fcs => exact fun p f hw hp hlo hhi hfcs => exec_svFrame_dropped hw hp (Dev.rxCheck_badFcs hlo hhi hfcs false)
  case unsubscribed =>
    exact fun p f d e hw hp hc he h2 hm => exec_svFrame_taken hw hp hc he (Dev.svIngest_unsubscribed h2 hm)
  case badPdu =>
    exact fun p st f d e hw hp hc he h2 hm hcopy hpdu =>
      exec_svFrame_matched hw hp hc he h2 hm hcopy (Dev.svTake_badPdu hpdu)
  case authFail =>
    exact fun p st f d e hw hp hc he h2 hm hcopy hpdu ha =>
      exec_svFrame_matched hw hp hc he h2 hm hcopy (Dev.svTake_authFail hpdu ha)
  case simDrop =>
    exact fun p st f d e hw hp hc he h2 hm hcopy hpdu ha hs =>
      exec_svFrame_matched hw hp hc he h2 hm hcopy (Dev.svTake_simDrop hpdu ha hs)
  case policed =>
    exact fun p st f d e x hw hp hc he h2 hm hcopy hpdu ha hs hsim hcr =>
      exec_svFrame_matched hw hp hc he h2 hm hcopy (Dev.svTake_policed hpdu ha hs hsim hcr)
  case samples =>
    exact fun p st f d e x hw hp hc he h2 hm hcopy hpdu ha hs hsim hcr =>
      exec_svFrame_matched hw hp hc he h2 hm hcopy (Dev.svTake_samples hpdu ha hs hsim hcr)

/-- Settles O25: an accepted frame comes to the subscription's state, which tells the three cases apart (`Dev.gooseNew`). -/
theorem gooseFrameReplacesOrRefreshes : Obligations.GooseFrameReplacesOrRefreshes := by
  unfold Obligations.GooseFrameReplacesOrRefreshes
  intro s
  refine ⟨?replaces, ?refreshes, ?drops⟩
  case replaces =>
    exact fun p g f d e x hw hp hc he hm hcopy hpdu ha hs hsim hcr hdue hnew =>
      exec_gooseFrame_accepted hw hp hc he hm hcopy hpdu ha hs hsim hcr (Dev.gooseState_new hdue hnew)
  case refreshes =>
    exact fun p g f d e x hw hp hc he hm hcopy hpdu ha hs hsim hcr hdue hold hst hsq =>
      exec_gooseFrame_accepted hw hp hc he hm hcopy hpdu ha hs hsim hcr (Dev.gooseState_repeat hdue hold hst hsq)
  case drops =>
    exact fun p g f d e x hw hp hc he hm hcopy hpdu ha hs hsim hcr hdue hold hn =>
      exec_gooseFrame_accepted hw hp hc he hm hcopy hpdu ha hs hsim hcr (Dev.gooseState_stale hdue hold hn)

/-- Settles O26: each clause is its row's rule, with what the comb window answers in the case named. -/
theorem ingestEventsAct : Obligations.IngestEventsAct := by
  unfold Obligations.IngestEventsAct
  intro s
  refine ⟨fun g => exec_validityWindowClose_open, fun x l k hl => exec_streamSwitch_next hl,
    fun x l => exec_streamSwitch_now, ?cell, ?outside, ?otherWorld⟩
  case cell =>
    exact fun rq off size hw h8 hsz hal hC hin hwld hue hf =>
      exec_combWindowRead_free hw hf (Dev.combWindow_cell h8 hsz hal hC hin hwld hue)
  case outside =>
    exact fun rq off size hw h8 hsz hal h hf => exec_combWindowRead_free hw hf (Dev.combWindow_outside h8 hsz hal h)
  case otherWorld =>
    exact fun rq off size hw h8 hsz hal hC hin hlow hne hf =>
      exec_combWindowRead_free hw hf (Dev.combWindow_otherWorld h8 hsz hal hC hin hlow hne)

end Sys2Proof.Machine
end

section
/-!
PROOFS. The encoding of the move set (07 R159 to R161, Tables 7.2 and 7.3): a bundle's fields stand apart in its 128 bits, and
together they are all of them.
-/

namespace Sys2Proof.Machine

/-! ## Moves -/

/-- The three fields of a move are read back from its slot. -/
theorem Move.dec_enc (m : Move) : Move.dec m.enc = m := by
  obtain ⟨g, x, y⟩ := m
  have hg : (g ++ x ++ y).extractLsb' 18 3 = g := by
    rw [BitVec.extractLsb'_append_eq_of_le (by decide)]
    exact BitVec.extractLsb'_append_eq_left
  have hx : (g ++ x ++ y).extractLsb' 9 9 = x := by
    rw [BitVec.extractLsb'_append_eq_of_le (by decide)]
    exact BitVec.extractLsb'_append_eq_right
  have hy : (g ++ x ++ y).extractLsb' 0 9 = y := BitVec.extractLsb'_append_eq_right
  simp only [Move.dec, Move.enc, hg, hx, hy]

/-- The three fields of a slot are its 21 bits. -/
theorem Move.enc_dec (v : BitVec 21) : (Move.dec v).enc = v := by
  have h : v.extractLsb' 18 3 ++ v.extractLsb' 9 9 = v.extractLsb' 9 12 := BitVec.extractLsb'_append_extractLsb'_eq_extractLsb' rfl
  unfold Move.enc Move.dec
  rw [h, BitVec.extractLsb'_append_extractLsb']

/-- The four header codes of Table 7.3. -/
theorem header_cases (h : BitVec 2) : h = 0 ∨ h = 1 ∨ h = 2 ∨ h = 3 := by
  revert h
  decide

/-! ## The fields of an encoded bundle -/

/-- The header code stands in bits [127:126]. -/
theorem Bundle.header_enc (b : Bundle) : b.enc.extractLsb' 126 2 = b.hdr := by
  unfold Bundle.enc
  split
  all_goals
    simp only [BitVec.extractLsb'_append_eq_of_le, Nat.reduceLeDiff, Nat.reduceSub, -Nat.reduceAdd]
    exact BitVec.extractLsb'_eq_self

/-- Slot s of the header's slots stands in bits [125 - 21 s : 105 - 21 s] (R159). -/
theorem Bundle.slotBits_enc (b : Bundle) {s : Nat} (h : s < slotsOf b.hdr) : slotBits b.enc s = slotOf b.moves s := by
  unfold slotsOf at h
  unfold slotBits Bundle.enc
  split at h
  case h_1 h0 =>
    obtain rfl | rfl | rfl | rfl | rfl | rfl : s = 0 ∨ s = 1 ∨ s = 2 ∨ s = 3 ∨ s = 4 ∨ s = 5 := by omega
    all_goals
      simp only [h0]
      repeat rw [BitVec.extractLsb'_append_eq_of_le (by decide)]
      exact BitVec.extractLsb'_append_eq_right
  case h_2 h1 =>
    obtain rfl | rfl | rfl | rfl | rfl : s = 0 ∨ s = 1 ∨ s = 2 ∨ s = 3 ∨ s = 4 := by omega
    all_goals
      simp only [h1]
      repeat rw [BitVec.extractLsb'_append_eq_of_le (by decide)]
      exact BitVec.extractLsb'_append_eq_right
  case h_3 h2 =>
    obtain rfl | rfl | rfl | rfl : s = 0 ∨ s = 1 ∨ s = 2 ∨ s = 3 := by omega
    all_goals
      simp only [h2]
      repeat rw [BitVec.extractLsb'_append_eq_of_le (by decide)]
      exact BitVec.extractLsb'_append_eq_right
  case h_4 => exact absurd h (Nat.not_lt_zero _)

/-- A short immediate stands in bits [20:0]. -/
theorem Bundle.shortImm_enc {b : Bundle} (h : b.hdr = 1) : b.enc.extractLsb' 0 21 = b.imm.setWidth 21 := by
  have h1 : b.hdr.toNat = 1 := by rw [h]; rfl
  unfold Bundle.enc
  simp only [h1]
  exact BitVec.extractLsb'_append_eq_right

/-- A long immediate stands in bits [41:0]. -/
theorem Bundle.longImm_enc {b : Bundle} (h : b.hdr = 2) : b.enc.extractLsb' 0 42 = b.imm := by
  have h2 : b.hdr.toNat = 2 := by rw [h]; rfl
  unfold Bundle.enc
  simp only [h2]
  exact BitVec.extractLsb'_append_eq_right

/-- The moves of a list, decoded from their slots. -/
theorem moves_slotOf (l : List Move) : (List.range l.length).map (fun s => Move.dec (slotOf l s)) = l := by
  apply List.ext_getElem (by simp)
  intro i hi hi'
  simp [slotOf, hi', Move.dec_enc]

/-- The moves are read back. -/
theorem Bundle.moves_dec_enc {b : Bundle} (h : b.moves.length = slotsOf b.hdr) : (Bundle.dec b.enc).moves = b.moves := by
  have hm : ∀ s ∈ List.range (slotsOf b.hdr), Move.dec (slotBits b.enc s) = Move.dec (slotOf b.moves s) :=
    fun s hs => by rw [b.slotBits_enc (List.mem_range.mp hs)]
  unfold Bundle.dec
  dsimp only
  rw [b.header_enc, List.map_congr_left hm, ← h, moves_slotOf]

/-- A header code without an immediate allows none. -/
theorem Bundle.imm_none {b : Bundle} (h : b.wf = true) (hd : b.hdr = 0 ∨ b.hdr = 3) : b.imm = 0 := by
  obtain ⟨_, hi⟩ := Bool.and_eq_true_iff.mp h
  rcases hd with hd | hd <;> rw [hd] at hi <;> exact of_decide_eq_true hi

/-- Header code 01 allows an immediate of 21 bits. -/
theorem Bundle.imm_short {b : Bundle} (h : b.wf = true) (hd : b.hdr = 1) : b.imm.toNat < 2 ^ 21 := by
  obtain ⟨_, hi⟩ := Bool.and_eq_true_iff.mp h
  rw [hd] at hi
  exact of_decide_eq_true hi

/-- An immediate of the header's width is read back. -/
theorem Bundle.imm_dec_enc {b : Bundle} (h : b.wf = true) : (Bundle.dec b.enc).imm = b.imm := by
  unfold Bundle.dec
  dsimp only
  rw [b.header_enc]
  obtain h0 | h1 | h2 | h3 := header_cases b.hdr
  · rw [h0, imm_none h (.inl h0)]
    rfl
  · have hi := imm_short h h1
    rw [h1, shortImm_enc h1]
    show (b.imm.setWidth 21).setWidth 42 = b.imm
    apply BitVec.eq_of_toNat_eq
    rw [BitVec.toNat_setWidth, BitVec.toNat_setWidth]
    omega
  · rw [h2, longImm_enc h2]
    rfl
  · rw [h3, imm_none h (.inr h3)]
    rfl

/-- Decoding the encoding of a bundle that its header allows gives the bundle. -/
theorem Bundle.dec_enc {b : Bundle} (h : b.wf = true) : Bundle.dec b.enc = b := by
  have hh : (Bundle.dec b.enc).hdr = b.hdr := b.header_enc
  have hm : (Bundle.dec b.enc).moves = b.moves := moves_dec_enc (by simp [wf] at h; exact h.1)
  have hi := imm_dec_enc h
  cases b
  cases hd : Bundle.dec _
  simp_all

/-! ## The encoding of a decoded bundle -/

/-- The slots of a decoded bundle are the word's. -/
theorem slotOf_dec {w : BitVec 128} {s : Nat} (h : s < slotsOf (w.extractLsb' 126 2)) :
    slotOf (Bundle.dec w).moves s = slotBits w s := by
  simp [slotOf, Bundle.dec, h, Move.enc_dec]

/-- The header code and the first four slots are the word's upper 86 bits. -/
theorem upper_slotBits (w : BitVec 128) :
    w.extractLsb' 126 2 ++ slotBits w 0 ++ slotBits w 1 ++ slotBits w 2 ++ slotBits w 3 = w.extractLsb' 42 86 := by
  show w.extractLsb' 126 2 ++ w.extractLsb' 105 21 ++ w.extractLsb' 84 21 ++ w.extractLsb' 63 21 ++ w.extractLsb' 42 21 = _
  repeat rw [BitVec.extractLsb'_append_extractLsb'_eq_extractLsb' (by rfl)]

/-- The short immediate of a decoded bundle is the word's lowest slot. -/
theorem Bundle.shortImm_dec {w : BitVec 128} (h : w.extractLsb' 126 2 = 1) :
    (Bundle.dec w).imm.setWidth 21 = w.extractLsb' 0 21 := by
  unfold Bundle.dec
  dsimp only
  rw [h]
  exact BitVec.setWidth_setWidth_of_le _ (by decide)

/-- The long immediate of a decoded bundle is the word's lowest two slots. -/
theorem Bundle.longImm_dec {w : BitVec 128} (h : w.extractLsb' 126 2 = 2) : (Bundle.dec w).imm = w.extractLsb' 0 42 := by
  unfold Bundle.dec
  dsimp only
  rw [h]
  rfl

/-- Encoding a decoded bundle with a legal header code gives its word. -/
theorem Bundle.enc_dec {w : BitVec 128} (h : w.extractLsb' 126 2 ≠ 3) : (Bundle.dec w).enc = w := by
  have up (hs : 4 ≤ slotsOf (w.extractLsb' 126 2)) : (Bundle.dec w).hdr ++ slotOf (Bundle.dec w).moves 0 ++
      slotOf (Bundle.dec w).moves 1 ++ slotOf (Bundle.dec w).moves 2 ++ slotOf (Bundle.dec w).moves 3 = w.extractLsb' 42 86 := by
    rw [slotOf_dec (by omega), slotOf_dec (by omega), slotOf_dec (by omega), slotOf_dec (by omega)]
    exact upper_slotBits w
  have hd : (Bundle.dec w).hdr = w.extractLsb' 126 2 := rfl
  unfold Bundle.enc
  obtain h0 | h1 | h2 | h3 := header_cases (w.extractLsb' 126 2)
  · have hs : slotsOf (w.extractLsb' 126 2) = 6 := by rw [h0]; rfl
    dsimp only
    rw [up (by omega), slotOf_dec (by omega), slotOf_dec (by omega), hd, h0]
    show w.extractLsb' 42 86 ++ w.extractLsb' 21 21 ++ w.extractLsb' 0 21 = w
    rw [BitVec.extractLsb'_append_extractLsb'_eq_extractLsb' (by rfl)]
    exact BitVec.extractLsb'_append_extractLsb'
  · have hs : slotsOf (w.extractLsb' 126 2) = 5 := by rw [h1]; rfl
    dsimp only
    rw [up (by omega), slotOf_dec (by omega), shortImm_dec h1, hd, h1]
    show w.extractLsb' 42 86 ++ w.extractLsb' 21 21 ++ w.extractLsb' 0 21 = w
    rw [BitVec.extractLsb'_append_extractLsb'_eq_extractLsb' (by rfl)]
    exact BitVec.extractLsb'_append_extractLsb'
  · have hs : slotsOf (w.extractLsb' 126 2) = 4 := by rw [h2]; rfl
    dsimp only
    rw [up (by omega), longImm_dec h2, hd, h2]
    exact BitVec.extractLsb'_append_extractLsb'
  · exact absurd h3 h

/-- Settles O4: each field is read back from its place (`Bundle.dec_enc`), and the places are all 128 bits (`Bundle.enc_dec`). -/
theorem bundleRoundTrip : Obligations.BundleRoundTrip := by
  unfold Obligations.BundleRoundTrip
  exact ⟨fun _ h => Bundle.dec_enc h, fun _ h => Bundle.enc_dec h⟩

end Sys2Proof.Machine
end

section
/-!
PROOFS. The units of an engine (08 R197 to R203): when an operation of the running context starts, and what it puts in flight,
arms or writes.
-/

namespace Sys2Proof.Machine

/-! ## The commands of a free unit -/

section
variable {s : State} {e c : Nat} {t : Word}

/-- A multiply-add unit that is free starts its operation. -/
theorem exec_eFmacOp_free (s : State) (op : Nat) : ∀ (e u c a b d : Nat) (t : Word), wellFormed (.eFmacOp e u op t) = true →
    (s.dev.eng e).cur = some c → s.dev.running e = true → (s.dev.eng e).freeAt (2 + u) ≤ s.dev.clk →
    a = ((s.dev.eng e).lat (0x70 + 0x18 * u)).toNat → b = ((s.dev.eng e).lat (0x70 + 0x18 * u + 1)).toNat →
    d = ((s.dev.eng e).lat (0x70 + 0x18 * u + 2)).toNat →
    exec (.eFmacOp e u op t) s = .next { s with
      dev := s.dev.onEng e (fun x => x.push
        { unit := (2 + u), ctx := c, outs := [(0x42 + u, fmac op a b d)], ready := s.dev.clk + 4 }) } := by
  intro e u c a b d t hw hc hr hf ha hb hd
  subst ha hb hd
  exact exec_eq (f := fun s => s.unitOp e (2 + u) (fun s c => s.fmacStart e c u op)) rfl hw (Dev.unitOp_runs hc hr hf _)

/-- A divide starts when its unit is free. -/
theorem exec_eDsqDiv_free (hw : wellFormed (.eDsqDiv e t) = true) (hc : (s.dev.eng e).cur = some c) (hr : s.dev.running e = true)
    (hf : (s.dev.eng e).freeAt 4 ≤ s.dev.clk) : exec (.eDsqDiv e t) s = .next { s with dev := s.dev.divStart e c } :=
  exec_eq (f := fun s => s.unitOp e 4 (fun s c => s.divStart e c)) rfl hw (Dev.unitOp_runs hc hr hf _)

/-- A square root starts when its unit is free. -/
theorem exec_eDsqSqrt_free (hw : wellFormed (.eDsqSqrt e t) = true) (hc : (s.dev.eng e).cur = some c)
    (hr : s.dev.running e = true) (hf : (s.dev.eng e).freeAt 4 ≤ s.dev.clk) :
    exec (.eDsqSqrt e t) s = .next { s with dev := s.dev.sqrtStart e c } :=
  exec_eq (f := fun s => s.unitOp e 4 (fun s c => s.sqrtStart e c)) rfl hw (Dev.unitOp_runs hc hr hf _)

/-- A rotation starts when its unit is free. -/
theorem exec_eRotOp_free {op : Nat} (hw : wellFormed (.eRotOp e op t) = true) (hc : (s.dev.eng e).cur = some c)
    (hr : s.dev.running e = true) (hf : (s.dev.eng e).freeAt 5 ≤ s.dev.clk) :
    exec (.eRotOp e op t) s = .next { s with dev := s.dev.rotStart e c op } :=
  exec_eq (f := fun s => s.unitOp e 5 (fun s c => s.rotStart e c op)) rfl hw (Dev.unitOp_runs hc hr hf _)

/-- The loop unit arms a loop that R201 allows. -/
theorem exec_eLoopArm_arms {l : Nat} (hw : wellFormed (.eLoopArm e l t) = true) (hc : (s.dev.eng e).cur = some c)
    (hr : s.dev.running e = true) (hf : (s.dev.eng e).freeAt 11 ≤ s.dev.clk) (hb : s.dev.loopBad e c = false) :
    exec (.eLoopArm e l t) s = .next { s with dev := s.dev.loopArm e c l t } :=
  exec_eq (f := fun s => s.unitOp e 11 (fun s c => if s.loopBad e c then s.opFault e c 1 0 else s.loopArm e c l t)) rfl hw
    ((Dev.unitOp_runs hc hr hf _).trans (if_neg (by simp [hb])))

/-- The loop unit faults where R201 allows no loop. -/
theorem exec_eLoopArm_faults {l : Nat} (hw : wellFormed (.eLoopArm e l t) = true) (hc : (s.dev.eng e).cur = some c)
    (hr : s.dev.running e = true) (hf : (s.dev.eng e).freeAt 11 ≤ s.dev.clk) (hb : s.dev.loopBad e c = true) :
    exec (.eLoopArm e l t) s = .next { s with dev := s.dev.opFault e c 1 0 } :=
  exec_eq (f := fun s => s.unitOp e 11 (fun s c => if s.loopBad e c then s.opFault e c 1 0 else s.loopArm e c l t)) rfl hw
    ((Dev.unitOp_runs hc hr hf _).trans (if_pos hb))

/-- The loop unit disarms. -/
theorem exec_eLoopClr_free (hw : wellFormed (.eLoopClr e t) = true) (hc : (s.dev.eng e).cur = some c)
    (hr : s.dev.running e = true) (hf : (s.dev.eng e).freeAt 11 ≤ s.dev.clk) :
    exec (.eLoopClr e t) s = .next { s with dev := s.dev.loopClr e c t } :=
  exec_eq (f := fun s => s.unitOp e 11 (fun s c => s.loopClr e c t)) rfl hw (Dev.unitOp_runs hc hr hf _)

/-- A jump starts where no transfer is pending. -/
theorem exec_eJmp_starts (hw : wellFormed (.eJmp e t) = true) (hc : (s.dev.eng e).cur = some c) (hr : s.dev.running e = true)
    (hf : (s.dev.eng e).freeAt 12 ≤ s.dev.clk) (hx : (s.dev.ectx e c).xfer = none) :
    exec (.eJmp e t) s = .next { s with dev := s.dev.eJmpStart e c t } :=
  exec_eq (f := fun s => s.ctlOp e (fun s c => s.eJmpStart e c t)) rfl hw (Dev.ctlOp_runs hc hr hf hx _)

/-- A transfer triggered while one is pending is an illegal bundle (Table 7.7). -/
theorem Dev.ctlOp_faults {s : Dev} {x : PendXfer} (hc : (s.eng e).cur = some c) (hr : s.running e = true)
    (hf : (s.eng e).freeAt 12 ≤ s.clk) (hx : (s.ectx e c).xfer = some x) (f : Dev → Nat → Dev) :
    s.ctlOp e f = s.opFault e c 1 0 := by
  unfold Dev.ctlOp
  rw [Dev.unitOp_runs hc hr hf, hx]
  rfl

/-- A jump faults while a transfer is pending. -/
theorem exec_eJmp_faults {x : PendXfer} (hw : wellFormed (.eJmp e t) = true) (hc : (s.dev.eng e).cur = some c)
    (hr : s.dev.running e = true) (hf : (s.dev.eng e).freeAt 12 ≤ s.dev.clk) (hx : (s.dev.ectx e c).xfer = some x) :
    exec (.eJmp e t) s = .next { s with dev := s.dev.opFault e c 1 0 } :=
  exec_eq (f := fun s => s.ctlOp e (fun s c => s.eJmpStart e c t)) rfl hw (Dev.ctlOp_faults hc hr hf hx _)

/-- A call starts where no transfer is pending. -/
theorem exec_eCall_starts (hw : wellFormed (.eCall e t) = true) (hc : (s.dev.eng e).cur = some c) (hr : s.dev.running e = true)
    (hf : (s.dev.eng e).freeAt 12 ≤ s.dev.clk) (hx : (s.dev.ectx e c).xfer = none) :
    exec (.eCall e t) s = .next { s with dev := s.dev.eCallStart e c t } :=
  exec_eq (f := fun s => s.ctlOp e (fun s c => s.eCallStart e c t)) rfl hw (Dev.ctlOp_runs hc hr hf hx _)

/-- A branch starts where no transfer is pending. -/
theorem exec_eBranch_starts {kind : Nat} (hw : wellFormed (.eBranch e kind t) = true) (hc : (s.dev.eng e).cur = some c)
    (hr : s.dev.running e = true) (hf : (s.dev.eng e).freeAt 12 ≤ s.dev.clk) (hx : (s.dev.ectx e c).xfer = none) :
    exec (.eBranch e kind t) s = .next { s with dev := s.dev.eBranchStart e c kind t } :=
  exec_eq (f := fun s => s.ctlOp e (fun s c => s.eBranchStart e c kind t)) rfl hw (Dev.ctlOp_runs hc hr hf hx _)

/-- The end of a run starts where no transfer is pending. -/
theorem exec_eDone_starts (hw : wellFormed (.eDone e t) = true) (hc : (s.dev.eng e).cur = some c) (hr : s.dev.running e = true)
    (hf : (s.dev.eng e).freeAt 12 ≤ s.dev.clk) (hx : (s.dev.ectx e c).xfer = none) :
    exec (.eDone e t) s = .next { s with dev := s.dev.eDoneStart e c } :=
  exec_eq (f := fun s => s.ctlOp e (fun s c => s.eDoneStart e c)) rfl hw (Dev.ctlOp_runs hc hr hf hx _)

/-- The output unit takes a trip write. -/
theorem exec_eTrip_free (hw : wellFormed (.eTrip e t) = true) (hc : (s.dev.eng e).cur = some c) (hr : s.dev.running e = true)
    (hf : (s.dev.eng e).freeAt 13 ≤ s.dev.clk) : exec (.eTrip e t) s = .next { s with dev := s.dev.tripStart e c t } :=
  exec_eq (f := fun s => s.unitOp e 13 (fun s c => s.tripStart e c t)) rfl hw (Dev.unitOp_runs hc hr hf _)

/-- The output unit takes an event word. -/
theorem exec_eEvt_free (hw : wellFormed (.eEvt e t) = true) (hc : (s.dev.eng e).cur = some c) (hr : s.dev.running e = true)
    (hf : (s.dev.eng e).freeAt 13 ≤ s.dev.clk) : exec (.eEvt e t) s = .next { s with dev := s.dev.evtStart e c t } :=
  exec_eq (f := fun s => s.unitOp e 13 (fun s c => s.evtStart e c t)) rfl hw (Dev.unitOp_runs hc hr hf _)

end

/-! ## What loops, branches and outputs come to -/

section
variable {s : Dev} {e c : Nat} {t : Word}

/-- A loop armed with a count other than 0. -/
theorem Dev.loopArm_counts (hn : t.toNat % 65536 ≠ 0) (l : Nat) : s.loopArm e c l t = s.onCtx e c (fun k =>
    let lp : LoopSt := { start := k.pc, fin := (s.eng e).loopEnd, count := t.toNat % 65536 }
    if l = 0 then { k with l0 := lp } else { k with l1 := lp }) := by
  simp only [Dev.loopArm, if_neg hn]

/-- A loop armed with a count of 0 goes past its end. -/
theorem Dev.loopArm_skips (hn : t.toNat % 65536 = 0) (l : Nat) : s.loopArm e c l t = s.onCtx e c (fun k =>
    let lp : LoopSt := { start := k.pc, fin := (s.eng e).loopEnd, count := 0 }
    { (if l = 0 then { k with l0 := lp } else { k with l1 := lp }) with pc := ((s.eng e).loopEnd + 1) % 8192 }) := by
  simp only [Dev.loopArm, hn, if_true]

/-- BZ and BZA go where CTL.O1 is zero. -/
theorem Dev.eBranchStart_zero {kind : Nat} {z : Bool} (hz : z = decide ((s.eng e).lat 0xD0 = 0)) (hk : kind < 2) :
    s.eBranchStart e c kind t = s.transfer e c
      { target := t.toNat % 8192, left := 2, taken := z, squash := !z && decide (kind % 2 = 1) } := by
  subst hz
  simp only [Dev.eBranchStart, if_pos hk]

/-- BNZ and BNZA go where CTL.O1 is not zero. -/
theorem Dev.eBranchStart_nonzero {kind : Nat} {z : Bool} (hz : z = decide ((s.eng e).lat 0xD0 = 0)) (hk : 2 ≤ kind) :
    s.eBranchStart e c kind t = s.transfer e c
      { target := t.toNat % 8192, left := 2, taken := !z, squash := z && decide (kind % 2 = 1) } := by
  subst hz
  simp only [Dev.eBranchStart, if_neg (Nat.not_lt.mpr hk), Bool.not_not]

/-- A trip write in time is ORed into the trip word. -/
theorem Dev.tripStart_inTime (hl : s.lateNow e c = false) :
    s.tripStart e c t = s.onEng e (fun x => { x with tripWord := x.tripWord ||| t, tripWritten := true }) :=
  if_neg (by simp [hl])

theorem Dev.tripStart_late (hl : s.lateNow e c = true) : s.tripStart e c t = s.lateOutput e c 0 t := if_pos hl

/-- An event word in time is queued while there is room. -/
theorem Dev.evtStart_queued (hl : s.lateNow e c = false) (hq : (s.eng e).evq.length < 16) :
    s.evtStart e c t = s.onEng e (fun x => { x with evq := x.evq ++ [t] }) := by
  simp only [Dev.evtStart, hl, hq, Bool.false_eq_true, if_false, if_true]

/-- An event word in time is dropped and counted where there is no room. -/
theorem Dev.evtStart_dropped (hl : s.lateNow e c = false) (hq : 16 ≤ (s.eng e).evq.length) :
    s.evtStart e c t = s.inc F.PE_EVTDROP_COUNT e := by
  simp only [Dev.evtStart, hl, Nat.not_lt.mpr hq, Bool.false_eq_true, if_false]

theorem Dev.evtStart_late (hl : s.lateNow e c = true) : s.evtStart e c t = s.lateOutput e c 1 t := if_pos hl

end

/-! ## The obligations -/

/-- Settles O28: a free unit starts its operation, whose results and latency its definition gives. -/
theorem floatingUnitOperations : Obligations.FloatingUnitOperations := by
  unfold Obligations.FloatingUnitOperations
  intro s
  have fmac := exec_eFmacOp_free s
  refine ⟨fmac 0, fmac 1, fmac 2, fmac 3, fmac 4, fmac 5, fmac 6, fmac 7, fmac 8, fmac 9, fmac 10, fmac 11, fmac 12, fmac 13,
    fmac 14, ?div, ?sqrt, ?rot⟩
  case div => exact fun e c t hw hc hr hf => exec_eDsqDiv_free hw hc hr hf
  case sqrt => exact fun e c t hw hc hr hf => exec_eDsqSqrt_free hw hc hr hf
  case rot =>
    intro e op c t y z hw hc hr hf hyz
    obtain ⟨hy, hz⟩ := Prod.mk.inj hyz
    subst hy hz
    exact exec_eRotOp_free hw hc hr hf

/-- Settles O30: each clause is its unit's rule, with what the operation comes to in the case named. -/
theorem controlAndOutputAct : Obligations.ControlAndOutputAct := by
  unfold Obligations.ControlAndOutputAct
  intro s
  refine ⟨?arm0, ?arm1, ?skip0, ?armFaults, ?clr, ?jmp, ?call, ?bz, ?bnz, ?done, ?jmpFaults, ?trip, ?tripLate, ?evt, ?evtDrop,
    ?evtLate⟩
  case arm0 =>
    exact fun e c t hw hc hr hf hb hn => by rw [exec_eLoopArm_arms hw hc hr hf hb, Dev.loopArm_counts hn]; rfl
  case arm1 =>
    exact fun e c t hw hc hr hf hb hn => by rw [exec_eLoopArm_arms hw hc hr hf hb, Dev.loopArm_counts hn]; rfl
  case skip0 =>
    exact fun e c t hw hc hr hf hb hn => by rw [exec_eLoopArm_arms hw hc hr hf hb, Dev.loopArm_skips hn]; rfl
  case armFaults => exact fun e c l t hw hc hr hf hb => exec_eLoopArm_faults hw hc hr hf hb
  case clr => exact fun e c t hw hc hr hf => exec_eLoopClr_free hw hc hr hf
  case jmp => exact fun e c t hw hc hr hf hx => exec_eJmp_starts hw hc hr hf hx
  case call => exact fun e c t hw hc hr hf hx => exec_eCall_starts hw hc hr hf hx
  case bz =>
    exact fun e k c t z hw hc hr hf hx hz hk => by rw [exec_eBranch_starts hw hc hr hf hx, Dev.eBranchStart_zero hz hk]; rfl
  case bnz =>
    exact fun e k c t z hw hc hr hf hx hz hk => by rw [exec_eBranch_starts hw hc hr hf hx, Dev.eBranchStart_nonzero hz hk]; rfl
  case done => exact fun e c t hw hc hr hf hx => exec_eDone_starts hw hc hr hf hx
  case jmpFaults => exact fun e c t x hw hc hr hf hx => exec_eJmp_faults hw hc hr hf hx
  case trip => exact fun e c t hw hc hr hf hl => by rw [exec_eTrip_free hw hc hr hf, Dev.tripStart_inTime hl]
  case tripLate => exact fun e c t hw hc hr hf hl => by rw [exec_eTrip_free hw hc hr hf, Dev.tripStart_late hl]
  case evt => exact fun e c t hw hc hr hf hl hq => by rw [exec_eEvt_free hw hc hr hf, Dev.evtStart_queued hl hq]
  case evtDrop => exact fun e c t hw hc hr hf hl hq => by rw [exec_eEvt_free hw hc hr hf, Dev.evtStart_dropped hl hq]
  case evtLate => exact fun e c t hw hc hr hf hl => by rw [exec_eEvt_free hw hc hr hf, Dev.evtStart_late hl]

end Sys2Proof.Machine
end

section
/-!
PROOFS. The memory ports of an engine (08 R206 to R210, 07 R187, R188): the whole access is checked first, then its words are
read or written.
-/

namespace Sys2Proof.Machine

/-! ## The check of the whole access -/

section
variable {s : Dev} {e u c size cause limit a : Nat} {addr : Dev → Nat}

/-- A free port starts an access whose words all lie inside the memory. -/
theorem Dev.portOp_inside (hc : (s.eng e).cur = some c) (hr : s.running e = true) (hf : (s.eng e).freeAt u ≤ s.clk)
    (hin : addr s + words size ≤ limit) (f : Dev → Nat → Dev) :
    s.portOp e u (fun s _ => rangeFault cause (addr s) size limit) f = f s c :=
  Dev.portOp_runs hc hr hf (rangeFault_inside hin cause) f

/-- A free port faults for an access with a word beyond the memory. -/
theorem Dev.portOp_beyond (hc : (s.eng e).cur = some c) (hr : s.running e = true) (hf : (s.eng e).freeAt u ≤ s.clk)
    (hout : limit < addr s + words size) (f : Dev → Nat → Dev) :
    s.portOp e u (fun s _ => rangeFault cause (addr s) size limit) f = s.opFault e c cause (addr s) :=
  Dev.portOp_faults hc hr hf (rangeFault_beyond hout cause) f

end

/-! ## The commands of a free port -/

section
variable {s : State} {e c size : Nat} {t : Word} {d : Dev}

/-- A load of data memory by a free port. -/
theorem exec_eLsuLoad (hw : wellFormed (.eLsuLoad e size t) = true) (hd : s.dev.portOp e 7
    (fun s _ => rangeFault 2 ((s.eng e).addr 0xB0 t) size dataWords) (fun s c => s.lsuLoad e c size t) = d) :
    exec (.eLsuLoad e size t) s = .next { s with dev := d } :=
  exec_eq (f := fun s => s.portOp e 7 (fun s _ => rangeFault 2 ((s.eng e).addr 0xB0 t) size dataWords)
    (fun s c => s.lsuLoad e c size t)) rfl hw hd

/-- A store to data memory by a free port. -/
theorem exec_eLsuStore (hw : wellFormed (.eLsuStore e size t) = true) (hd : s.dev.portOp e 7
    (fun s _ => rangeFault 2 ((s.eng e).addr 0xB0 t) size dataWords) (fun s _ => s.lsuStore e size t) = d) :
    exec (.eLsuStore e size t) s = .next { s with dev := d } :=
  exec_eq (f := fun s => s.portOp e 7 (fun s _ => rangeFault 2 ((s.eng e).addr 0xB0 t) size dataWords)
    (fun s _ => s.lsuStore e size t)) rfl hw hd

/-- A read of a settings bank by a free port. -/
theorem exec_eSetRead (hw : wellFormed (.eSetRead e size t) = true) (hd : s.dev.portOp e 9
    (fun s _ => rangeFault 4 ((s.eng e).addr 0xBB t) size bankWords) (fun s c => s.setRead e c size t) = d) :
    exec (.eSetRead e size t) s = .next { s with dev := d } :=
  exec_eq (f := fun s => s.portOp e 9 (fun s _ => rangeFault 4 ((s.eng e).addr 0xBB t) size bankWords)
    (fun s c => s.setRead e c size t)) rfl hw hd

/-- A load of hive shared memory by a free port. -/
theorem exec_eHsmLoad (hw : wellFormed (.eHsmLoad e size t) = true) (hd : s.dev.portOp e 10
    (fun s _ => rangeFault 2 ((s.eng e).addr 0xC0 t) size hsmWords) (fun s c => s.hsmLoad e c size t) = d) :
    exec (.eHsmLoad e size t) s = .next { s with dev := d } :=
  exec_eq (f := fun s => s.portOp e 10 (fun s _ => rangeFault 2 ((s.eng e).addr 0xC0 t) size hsmWords)
    (fun s c => s.hsmLoad e c size t)) rfl hw hd

/-- A store to hive shared memory by a free port. -/
theorem exec_eHsmStore (hw : wellFormed (.eHsmStore e size t) = true) (hd : s.dev.portOp e 10
    (fun s _ => rangeFault 2 ((s.eng e).addr 0xC0 t) size hsmWords) (fun s c => s.hsmStart e c size 2 t) = d) :
    exec (.eHsmStore e size t) s = .next { s with dev := d } :=
  exec_eq (f := fun s => s.portOp e 10 (fun s _ => rangeFault 2 ((s.eng e).addr 0xC0 t) size hsmWords)
    (fun s c => s.hsmStart e c size 2 t)) rfl hw hd

/-- A post of the running context. -/
theorem exec_eHsmMail_running (hw : wellFormed (.eHsmMail e t) = true) (hc : (s.dev.eng e).cur = some c)
    (hr : s.dev.running e = true) :
    exec (.eHsmMail e t) s = .next { s with dev := s.dev.postMail (e / 8) (t.toNat % 256) } :=
  exec_eq (f := fun s => if s.running e && (s.eng e).cur.isSome then s.postMail (e / 8) (t.toNat % 256) else s) rfl hw
    (if_pos (by simp [hr, hc]))

/-- A read of the comb by a free port. -/
theorem exec_eCmbRead (hw : wellFormed (.eCmbRead e t) = true)
    (hd : s.dev.portOp e 8 (fun s c => s.combFault e c t) (fun s c => s.cmbStart e c t) = d) :
    exec (.eCmbRead e t) s = .next { s with dev := d } :=
  exec_eq (f := fun s => s.portOp e 8 (fun s c => s.combFault e c t) (fun s c => s.cmbStart e c t)) rfl hw hd

end

/-! ## Stores -/

section
variable {s : Dev} {e c size a : Nat} {t : Word}

/-- Two changes of an engine that agree on it are one. -/
theorem Dev.onEng_congr {f g : Engine → Engine} (h : f (s.eng e) = g (s.eng e)) : s.onEng e f = s.onEng e g := by
  unfold Dev.eng at h
  unfold Dev.onEng SMap.mod
  rw [h]

/-- A store to data memory writes its words lowest first. -/
theorem Dev.lsuStore_words (ha : a = ((s.eng e).lat 0xB0 + t).toNat) : s.lsuStore e size t = s.onEng e (fun x =>
    ((List.range (words size)).foldl (fun x i =>
      x.storeWord s.clk (a + i) (BitVec.ofNat 16 ((s.eng e).storeData 0xB1 size / 2 ^ (16 * i)))) x).hold 7
      (s.clk + 1 + b2n (!aligned a size))) := by
  subst ha
  exact Dev.onEng_congr rfl

/-- A store to hive shared memory waits for its slots with its data. -/
theorem Dev.hsmStart_store {w two : Nat} (ha : a = ((s.eng e).lat 0xC0 + t).toNat)
    (hw : w = hsmWait (a / 4 % 8) (e % 8) (s.phi (e / 8))) (htwo : two = b2n (spansGroups a size)) :
    s.hsmStart e c size 2 t = (s.ePmu e 0x06 c w).onEng e (fun x =>
      ({ x with fly := x.fly ++ [{ unit := 10, ctx := c, kind := 2, want := hsmWant s.clk w a size, ready := s.clk + w + two + 0
                                   outs := [], data := (s.eng e).storeData 0xC1 size }] } : Engine).hold 10
        (s.clk + w + 1 + two)) := by
  subst htwo hw ha
  simp only [Dev.hsmStart, Engine.addr, Nat.reduceEqDiff, if_false]

end

/-! ## Reads without an uncorrectable error -/

section
variable {s : Dev} {e c size a : Nat} {t : Word}

/-- A load of data memory takes its words, one clock longer and held when unaligned (R207). -/
theorem Dev.lsuLoad_clean (ha : a = ((s.eng e).lat 0xB0 + t).toNat) (hu : s.ueIn 3 (4 * e + 1) a (words size) = false) :
    s.lsuLoad e c size t = (s.onEng e (fun x => x.push
      { unit := 7, ctx := c, outs := loadOuts 0x49 size (gather ((s.eng e).dataSeen s.clk) a size)
        ready := s.clk + (2 + b2n (!aligned a size)) })).onEng e (fun x => x.hold 7 (s.clk + 1 + b2n (!aligned a size))) := by
  subst ha
  exact if_neg (Bool.eq_false_iff.mp hu)

/-- A settings read takes its words from the bank of the wake tick (R208, R246). -/
theorem Dev.setRead_clean {b : Nat} (ha : a = ((s.eng e).lat 0xBB + t).toNat) (hb : b = s.readBank e (s.ectx e c).wakeTick)
    (hu : s.ueIn 3 (4 * e + 2 + b) a (words size) = false) :
    s.setRead e c size t = (s.onEng e (fun x => x.push
      { unit := 9, ctx := c, outs := loadOuts 0x4D size (gather ((s.eng e).bankWord b) a size)
        ready := s.clk + (2 + b2n (!aligned a size)) })).onEng e (fun x => x.hold 9 (s.clk + 1 + b2n (!aligned a size))) := by
  subst ha hb
  exact if_neg (Bool.eq_false_iff.mp hu)

/-- A load of hive shared memory takes the slots of its banks (R209). -/
theorem Dev.hsmLoad_clean (ha : a = ((s.eng e).lat 0xC0 + t).toNat) (hu : s.ueIn 4 (e / 8) a (words size) = false) :
    s.hsmLoad e c size t = s.hsmStart e c size 1 t := by
  subst ha
  exact if_neg (Bool.eq_false_iff.mp hu)

/-- A comb read that reaches back to a row from the first on. -/
theorem Dev.cmbStart_row {row : Nat} (h : row + (s.cmbL + t.toNat % 4096) = (s.ectx e c).wakeTick) :
    (if s.cmbL + t.toNat % 4096 ≤ (s.ectx e c).wakeTick then (s.ectx e c).wakeTick - (s.cmbL + t.toNat % 4096) else 2 ^ 64) = row := by
  rw [if_pos (by omega)]
  omega

end

/-! ## The obligation -/

/-- Settles O31: a port's access is checked whole (`Dev.portOp_inside`, `Dev.portOp_beyond`), and then starts. -/
theorem memoryPortsAct : Obligations.MemoryPortsAct := by
  unfold Obligations.MemoryPortsAct
  intro s
  refine ⟨?load, ?loadOut, ?store, ?storeOut, ?set, ?setOut, ?hsmLoad, ?hsmLoadOut, ?hsmStore, ?hsmStoreOut, ?mail, ?comb,
    ?combOut⟩
  case load =>
    intro e size c a t hw hc hr hf ha hin hu
    subst ha
    exact exec_eLsuLoad hw ((Dev.portOp_inside hc hr hf hin _).trans (Dev.lsuLoad_clean rfl hu))
  case loadOut =>
    intro e size c a t hw hc hr hf ha hout
    subst ha
    exact exec_eLsuLoad hw (Dev.portOp_beyond hc hr hf hout _)
  case store =>
    intro e size c a t hw hc hr hf ha hin
    subst ha
    exact exec_eLsuStore hw ((Dev.portOp_inside hc hr hf hin _).trans (Dev.lsuStore_words rfl))
  case storeOut =>
    intro e size c a t hw hc hr hf ha hout
    subst ha
    exact exec_eLsuStore hw (Dev.portOp_beyond hc hr hf hout _)
  case set =>
    intro e size c a t hw hc hr hf ha hin hu
    subst ha
    exact exec_eSetRead hw ((Dev.portOp_inside hc hr hf hin _).trans (Dev.setRead_clean rfl rfl hu))
  case setOut =>
    intro e size c a t hw hc hr hf ha hout
    subst ha
    exact exec_eSetRead hw (Dev.portOp_beyond hc hr hf hout _)
  case hsmLoad =>
    intro e size c a t hw hc hr hf ha hin hu
    subst ha
    exact exec_eHsmLoad hw ((Dev.portOp_inside hc hr hf hin _).trans (Dev.hsmLoad_clean rfl hu))
  case hsmLoadOut =>
    intro e size c a t hw hc hr hf ha hout
    subst ha
    exact exec_eHsmLoad hw (Dev.portOp_beyond hc hr hf hout _)
  case hsmStore =>
    intro e size c a t hw hc hr hf ha hin
    subst ha
    exact exec_eHsmStore hw ((Dev.portOp_inside hc hr hf hin _).trans (Dev.hsmStart_store rfl rfl rfl))
  case hsmStoreOut =>
    intro e size c a t hw hc hr hf ha hout
    subst ha
    exact exec_eHsmStore hw (Dev.portOp_beyond hc hr hf hout _)
  case mail => exact fun e c t hw hc hr => exec_eHsmMail_running hw hc hr
  case comb =>
    intro e c ch row w t hw hc hr hf hok hch hrow hwait
    subst hch hwait
    refine exec_eCmbRead hw ((Dev.portOp_runs hc hr hf hok _).trans ?_)
    simp only [Dev.cmbStart, Dev.cmbStart_row hrow]
  case combOut =>
    exact fun e c cause info t hw hc hr hf hbad => exec_eCmbRead hw (Dev.portOp_faults hc hr hf hbad _)

end Sys2Proof.Machine
end

section
/-!
PROOFS. The issue of a bundle by an engine (07 R172 to R180, 09 R226, R238): what the running context does with the bundle at
its PC, in the order in which R176 asks.
-/

namespace Sys2Proof.Machine

/-! ## The running context at its bundle -/

section
variable {s : Dev} {e c : Nat}

/-- A squashed delay bundle only advances (R180). -/
theorem Dev.issueCtx_squashed (hs : (s.ectx e c).xfer.any (fun x => x.squash) = true) : s.issueCtx e c =
    (((s.onCtx e c (fun k => { k with pc := ((s.ectx e c).pc + 1) % 8192 })).ePmu e 0x0E c 1).afterBundle e c (s.ectx e c).pc
      (s.ectx e c).xfer, true) := if_pos hs

variable (hs : (s.ectx e c).xfer.any (fun x => x.squash) = false)
include hs

/-- An armed breakpoint at the PC holds the context (R238). -/
theorem Dev.issueCtx_held {j : Nat} (hb : s.brkFires e c = some j) : s.issueCtx e c = (s.holdCtx e c j, false) := by
  simp only [Dev.issueCtx, hs, hb, Bool.false_eq_true, if_false]

variable (hb : s.brkFires e c = none) (hu : s.mem.ue.contains (3, 4 * e, (s.ectx e c).pc) = false) {bun : Bundle}
  (hbun : bun = Bundle.dec ((s.eng e).bundle (s.ectx e c).pc))
include hb hu hbun

/-- An illegal bundle faults with its lowest slot (R177). -/
theorem Dev.issueCtx_illegal {slot : Nat} (hl : lowest ((bun.illegal profileE (s.ectx e c).g).toList ++
    (bun.delayCtl profileE (s.ectx e c).g (s.ectx e c).xfer.isSome).toList) = some slot) :
    s.issueCtx e c = (s.engineFault e c 1 slot 0, false) := by
  subst hbun
  simp only [Dev.issueCtx, hs, hb, hu, hl, Bool.false_eq_true, if_false]

variable (hl : lowest ((bun.illegal profileE (s.ectx e c).g).toList ++
  (bun.delayCtl profileE (s.ectx e c).g (s.ectx e c).xfer.isSome).toList) = none)
include hl

/-- A legal bundle that reads a result in flight stalls (R172). -/
theorem Dev.issueCtx_resStall (hr : (s.eng e).resStall c (bun.live (s.ectx e c).g) = true) :
    s.issueCtx e c = (s.ePmu e 0x04 c 1, false) := by
  subst hbun
  simp only [Dev.issueCtx, hs, hb, hu, hl, hr, Bool.false_eq_true, if_false, if_true]

variable (hr : (s.eng e).resStall c (bun.live (s.ectx e c).g) = false)
include hr

/-- A legal bundle that triggers a held unit stalls (R173). -/
theorem Dev.issueCtx_unitStall (ht : (s.eng e).unitStall s.clk (bun.live (s.ectx e c).g) = true) :
    s.issueCtx e c = (s.ePmu e 0x05 c 1, false) := by
  subst hbun
  simp only [Dev.issueCtx, hs, hb, hu, hl, hr, ht, Bool.false_eq_true, if_false, if_true]

/-- A legal bundle that waits for nothing takes effect (R176). -/
theorem Dev.issueCtx_commits (ht : (s.eng e).unitStall s.clk (bun.live (s.ectx e c).g) = false) :
    s.issueCtx e c = s.commitBundle e c (s.ectx e c).pc bun (bun.live (s.ectx e c).g) := by
  subst hbun
  simp only [Dev.issueCtx, hs, hb, hu, hl, hr, ht, Bool.false_eq_true, if_false]

end

/-! ## The commands -/

section
variable {s : State}

/-- E_BUNDLE of a running engine with no switch due issues the running context's bundle. -/
theorem exec_eBundle_issues {e c : Nat} {d x : Dev} {took : Bool} (hw : wellFormed (.eBundle e) = true)
    (hon : s.dev.domOn (9 + e / 8) = true) (hr : s.dev.running e = true)
    (hd : d = ((s.dev.moveClk (s.dev.eng e).lastIssue).commitDue e).ePmuClocks e)
    (hf : ∀ f, (d.eng e).windowAt = some f → d.clk < f) (hc : (d.eng e).cur = some c) (hi : d.issueCtx e c = (x, took)) :
    exec (.eBundle e) s = .next { s with
      dev := (x.ePmuClock e ((d.eng e).incoming.getD c) took).onEng e (fun x => { x with lastIssue := d.clk + 1 }) } := by
  show execEBundle e s = _
  refine run_eq s hw ?_
  rw [if_pos (by simp [hon, hr]), Dev.issue_runs hd hf hc, hi]

/-- OPERATION_COMPLETE of an engine's operation in flight, at its clock. -/
theorem exec_operationComplete_engine {e i : Nat} {f : InFlight} (hw : wellFormed (.operationComplete e i) = true) (he : e < 64)
    (hf : (s.dev.eng e).fly[i]? = some f) :
    exec (.operationComplete e i) s = .next { s with dev := (s.dev.moveClk f.ready).commitDue e } := by
  show execOperationComplete e i s = _
  exact run_eq s hw (by simp only [he, if_true, hf])

/-- CONTEXT_SWITCH of a running engine with an open window. -/
theorem exec_contextSwitch_due {e f : Nat} (hw : wellFormed (.contextSwitch e) = true) (hf : (s.dev.eng e).windowAt = some f)
    (hr : s.dev.running e = true) : exec (.contextSwitch e) s = .next { s with dev := (s.dev.moveClk f).issue e } := by
  show execContextSwitch e s = _
  exact run_eq s hw (by simp only [hf, hr, if_true])

end

/-- Settles O33: the issue is that of the running context (`exec_eBundle_issues`), which asks in the order of R176. -/
theorem bundleIssueInOrder : Obligations.BundleIssueInOrder := by
  unfold Obligations.BundleIssueInOrder
  intro s
  refine ⟨?squashed, ?held, ?illegal, ?resStall, ?unitStall, ?commits, ?complete, ?switch⟩
  case squashed =>
    exact fun e c d hw hon hr hd hf hc hs => exec_eBundle_issues hw hon hr hd hf hc (Dev.issueCtx_squashed hs)
  case held =>
    exact fun e c d j hw hon hr hd hf hc hs hb => exec_eBundle_issues hw hon hr hd hf hc (Dev.issueCtx_held hs hb)
  case illegal =>
    exact fun e c d bun slot hw hon hr hd hf hc hs hb hu hbun hl =>
      exec_eBundle_issues hw hon hr hd hf hc (Dev.issueCtx_illegal hs hb hu hbun hl)
  case resStall =>
    exact fun e c d bun hw hon hr hd hf hc hs hb hu hbun hl hres =>
      exec_eBundle_issues hw hon hr hd hf hc (Dev.issueCtx_resStall hs hb hu hbun hl hres)
  case unitStall =>
    exact fun e c d bun hw hon hr hd hf hc hs hb hu hbun hl hres ht =>
      exec_eBundle_issues hw hon hr hd hf hc (Dev.issueCtx_unitStall hs hb hu hbun hl hres ht)
  case commits =>
    exact fun e c d bun hw hon hr hd hf hc hs hb hu hbun hl hres ht =>
      exec_eBundle_issues hw hon hr hd hf hc (Dev.issueCtx_commits hs hb hu hbun hl hres ht)
  case complete => exact fun e i f hw he hf => exec_operationComplete_engine hw he hf
  case switch => exact fun e f hw hf hr => exec_contextSwitch_due hw hf hr

end Sys2Proof.Machine
end

section
/-!
PROOFS. What the arithmetic commands of an engine leave alone (08 R195, R197 to R200): every other engine, the rest of the
module, and of the engine itself all but its operations in flight, its busy units and its DFT slots.
-/

namespace Sys2Proof.Machine

/-- `t` is `s` with no more changed than the operations in flight, the busy units and the DFT slots of engine e. -/
def Dev.UnitsOnly (e : Nat) (s t : Dev) : Prop :=
  t = { s with engines := t.engines } ∧ (∀ j, j ≠ e → t.eng j = s.eng j) ∧
  t.eng e = { s.eng e with fly := (t.eng e).fly, busy := (t.eng e).busy, sdft := (t.eng e).sdft }

/-- The DFT slots of engine e are as they were. -/
def Dev.KeepsSlots (e : Nat) (s t : Dev) : Prop := (t.eng e).sdft = (s.eng e).sdft

/-! ## Changes of the engine -/

section
variable {e : Nat} {s t : Dev}

theorem Dev.UnitsOnly.refl (e : Nat) (s : Dev) : Dev.UnitsOnly e s s := ⟨rfl, fun _ _ => rfl, rfl⟩

theorem Dev.KeepsSlots.refl (e : Nat) (s : Dev) : Dev.KeepsSlots e s s := rfl

/-- A further change of the engine's units. -/
theorem Dev.UnitsOnly.onEng (h : Dev.UnitsOnly e s t) {f : Engine → Engine}
    (hf : ∀ x, f x = { x with fly := (f x).fly, busy := (f x).busy, sdft := (f x).sdft }) : Dev.UnitsOnly e s (t.onEng e f) := by
  obtain ⟨hrest, hother, heng⟩ := h
  refine ⟨?_, ?_, ?_⟩
  · exact congrArg (fun y : Dev => { y with engines := (t.onEng e f).engines }) hrest
  · intro j hj
    rw [Dev.eng_onEng, if_neg hj, hother j hj]
  · rw [Dev.eng_onEng_self]
    exact (hf (t.eng e)).trans (congrArg (fun y : Engine =>
      { y with fly := (f (t.eng e)).fly, busy := (f (t.eng e)).busy, sdft := (f (t.eng e)).sdft }) heng)

/-- A further change of the engine that leaves its DFT slots. -/
theorem Dev.KeepsSlots.onEng (h : Dev.KeepsSlots e s t) {f : Engine → Engine} (hf : ∀ x, (f x).sdft = x.sdft) :
    Dev.KeepsSlots e s (t.onEng e f) := by
  unfold Dev.KeepsSlots
  rw [Dev.eng_onEng_self, hf]
  exact h

theorem Dev.UnitsOnly.launch (h : Dev.UnitsOnly e s t) (c u : Nat) (outs : List (Nat × Nat)) (lat : Nat) :
    Dev.UnitsOnly e s (t.launch e c u outs lat) := h.onEng (fun _ => rfl)

theorem Dev.UnitsOnly.launchHeld (h : Dev.UnitsOnly e s t) (c u : Nat) (outs : List (Nat × Nat)) (lat : Nat) :
    Dev.UnitsOnly e s (t.launchHeld e c u outs lat) := (h.launch c u outs lat).onEng (fun _ => rfl)

theorem Dev.UnitsOnly.setBin (h : Dev.UnitsOnly e s t) (c k : Nat) (b : SdftBin) (lat : Nat) :
    Dev.UnitsOnly e s (t.setBin e c k b lat) := (h.onEng (fun _ => rfl)).launch c 6 _ lat

theorem Dev.KeepsSlots.launch (h : Dev.KeepsSlots e s t) (c u : Nat) (outs : List (Nat × Nat)) (lat : Nat) :
    Dev.KeepsSlots e s (t.launch e c u outs lat) := h.onEng (fun _ => rfl)

theorem Dev.KeepsSlots.launchHeld (h : Dev.KeepsSlots e s t) (c u : Nat) (outs : List (Nat × Nat)) (lat : Nat) :
    Dev.KeepsSlots e s (t.launchHeld e c u outs lat) := (h.launch c u outs lat).onEng (fun _ => rfl)

end

/-! ## Operations of a unit -/

/-- A unit's operation starts for some context, or nothing happens. -/
theorem Dev.unitOp_cases (s : Dev) (e u : Nat) (f : Dev → Nat → Dev) : s.unitOp e u f = s ∨ ∃ c, s.unitOp e u f = f s c := by
  unfold Dev.unitOp
  split
  · split
    · exact .inr ⟨_, rfl⟩
    · exact .inl rfl
  · exact .inl rfl

/-- What holds where nothing happens and where the operation starts, holds of the command. -/
theorem unitOp_next {P : Dev → Dev → Prop} (hrefl : ∀ s, P s s) {f : Dev → Nat → Dev} (hf : ∀ s c, P s (f s c)) {i : Instr}
    {s t : State} {e u : Nat} (hx : exec i s = run (wellFormed i) (fun s => s.unitOp e u f) s) (h : exec i s = .next t) :
    P s.dev t.dev := by
  obtain ⟨_, _, hdev⟩ := run_next (hx.symm.trans h)
  rw [hdev]
  rcases s.dev.unitOp_cases e u f with hu | ⟨c, hu⟩
  · rw [hu]
    exact hrefl _
  · rw [hu]
    exact hf _ _

/-- Settles O54: each command starts an operation of one unit, or nothing. -/
theorem engineArithmeticFrame : Obligations.EngineArithmeticFrame := by
  unfold Obligations.EngineArithmeticFrame
  intro s t e
  have refl := Dev.UnitsOnly.refl e
  have slots := Dev.KeepsSlots.refl e
  constructor
  · rintro (⟨u, op, v, h⟩ | ⟨u, op, v, h⟩ | ⟨v, h⟩ | ⟨v, h⟩ | ⟨op, v, h⟩)
    · exact unitOp_next slots (f := fun s c => s.ialuStart e c u op v) (fun s _ => (slots s).launch ..) rfl h
    · exact unitOp_next slots (f := fun s c => s.fmacStart e c u op) (fun s _ => (slots s).launch ..) rfl h
    · exact unitOp_next slots (f := fun s c => s.divStart e c) (fun s _ => (slots s).launchHeld ..) rfl h
    · exact unitOp_next slots (f := fun s c => s.sqrtStart e c) (fun s _ => (slots s).launchHeld ..) rfl h
    · exact unitOp_next slots (f := fun s c => s.rotStart e c op) (fun s _ => (slots s).launchHeld ..) rfl h
  · rintro (⟨u, op, v, h⟩ | ⟨u, op, v, h⟩ | ⟨v, h⟩ | ⟨v, h⟩ | ⟨op, v, h⟩ | ⟨v, h⟩ | ⟨v, h⟩ | ⟨v, h⟩ | ⟨v, h⟩)
    · exact unitOp_next refl (f := fun s c => s.ialuStart e c u op v) (fun s _ => (refl s).launch ..) rfl h
    · exact unitOp_next refl (f := fun s c => s.fmacStart e c u op) (fun s _ => (refl s).launch ..) rfl h
    · exact unitOp_next refl (f := fun s c => s.divStart e c) (fun s _ => (refl s).launchHeld ..) rfl h
    · exact unitOp_next refl (f := fun s c => s.sqrtStart e c) (fun s _ => (refl s).launchHeld ..) rfl h
    · exact unitOp_next refl (f := fun s c => s.rotStart e c op) (fun s _ => (refl s).launchHeld ..) rfl h
    · exact unitOp_next refl (f := fun s c => s.sdftCfg e c v) (fun s _ => ((refl s).setBin ..).onEng (fun _ => rfl)) rfl h
    · exact unitOp_next refl (f := fun s c => s.sdftUpd e c v) (fun s _ => (refl s).setBin ..) rfl h
    · exact unitOp_next refl (f := fun s c => s.sdftRd e c v) (fun s _ => (refl s).setBin ..) rfl h
    · exact unitOp_next refl (f := fun s c => s.sdftLoad e c v) (fun s _ => (refl s).setBin ..) rfl h

end Sys2Proof.Machine
end

section
/-!
PROOFS. What the arithmetic commands of a core leave alone (11 R276 to R278, 17 R457, R458): every other processor, the rest of
the module, and of the processor itself all but its cycles, its operations in flight and its busy units.
-/

namespace Sys2Proof.Machine

/-! ## Counts of a core's events (R457, R458) -/

/-- The registers that a count of a core's events may write. -/
def pmuNames : List RName := [.PMU_CNT_LO, .PMU_CNT_HI, .PMU_OVF, .PMU_CTL, .IC_PSET]

section
variable {α : Type} (p : Dev → α) (hw : ∀ s r i v, r ∈ pmuNames → p (Dev.wr s r i v) = p s)
include hw

/-- What writes of those registers keep, a step of a counter keeps. -/
theorem Dev.cPmuStep_keeps (s : Dev) (m k n : Nat) : p (s.cPmuStep m k n) = p s := by
  have cnt : ∀ v, p (s.wr64 .PMU_CNT_LO .PMU_CNT_HI (8 * m + k) v) = p s := fun v =>
    (hw _ _ _ _ (by decide)).trans (hw _ _ _ _ (by decide))
  have ovf : ∀ s : Dev, p (s.setEvtBit (260 + m) F.PMU_OVF_OVF m k) = p s := by
    intro s
    unfold Dev.setEvtBit
    rcases Dev.edge_cases s (260 + m) (fun s => s.fs F.PMU_OVF_OVF m (setBit (s.fg F.PMU_OVF_OVF m) k true)) with ⟨e, _⟩ | ⟨e, _⟩ <;>
      rw [e]
    · exact hw _ _ _ _ (by decide)
    · exact (hw _ _ _ _ (by decide)).trans (hw _ _ _ _ (by decide))
  unfold Dev.cPmuStep
  dsimp only
  split
  · exact (Dev.cond_keeps p (fun s => hw _ _ _ _ (by decide)) _ _).trans ((ovf _).trans (cnt _))
  · exact cnt _

/-- What writes of those registers keep, a count keeps. -/
theorem Dev.cPmu_keeps (s : Dev) (m ev n : Nat) : p (s.cPmu m ev n) = p s := by
  unfold Dev.cPmu
  split
  · refine Dev.each_keeps p (fun s k => ?_) _ _
    split
    · exact Dev.cPmuStep_keeps p hw _ _ _ _
    · rfl
  · rfl

/-- What those writes, the processor's cycles and the module's clock keep, the processor's present keeps. -/
theorem Dev.coreClock_keeps_of (hc : ∀ (s : Dev) m f, p (Dev.onCore s m f) = p s) (hm : ∀ s c, p (Dev.moveClk s c) = p s) (s : Dev)
    (m : Nat) : p (s.coreClock m) = p s := by
  have count := fun s ev n => Dev.cPmu_keeps p hw s m ev n
  unfold Dev.coreClock
  exact (hm _ _).trans ((Dev.cond_keeps p (fun s => count _ _ _) _ _).trans ((count _ _ _).trans (hc _ _ _)))

end

/-! ## The frame -/

/-- The module apart from its registers, its clock and its processors. -/
def Dev.apartFromClock (s : Dev) : Dev := { s with regs := State.reset.dev.regs, clk := 0, time := State.reset.dev.time, cores := [] }

/-- `t` is `s` with no more changed than the module's clock, the cycles, operations in flight and busy units of processor m, and
what a count of its events may write. -/
def Dev.CoreUnitsOnly (m : Nat) (s t : Dev) : Prop :=
  t = { s with regs := t.regs, clk := t.clk, time := t.time, cores := t.cores } ∧
  (∀ j, j ≠ m → t.core j = s.core j) ∧
  t.core m = { s.core m with cyc := (t.core m).cyc, nextAt := (t.core m).nextAt
                             fly := (t.core m).fly, seqno := (t.core m).seqno, busy := (t.core m).busy } ∧
  ∀ r j, r ∉ pmuNames → t.rd r j = s.rd r j

theorem Dev.CoreUnitsOnly.refl (m : Nat) (s : Dev) : Dev.CoreUnitsOnly m s s := ⟨rfl, fun _ _ => rfl, rfl, fun _ _ _ => rfl⟩

theorem Dev.apartFromClock_moveClk (s : Dev) (c : Nat) : (s.moveClk c).apartFromClock = s.apartFromClock := by
  unfold Dev.moveClk
  split <;> rfl

/-- The processor's present is such a change. -/
theorem Dev.CoreUnitsOnly.coreClock (m : Nat) (s : Dev) : Dev.CoreUnitsOnly m s (s.coreClock m) := by
  refine ⟨?_, ?_, ?_, ?_⟩
  · have h : (s.coreClock m).apartFromClock = s.apartFromClock :=
      Dev.coreClock_keeps_of Dev.apartFromClock (fun _ _ _ _ _ => rfl) (fun _ _ _ => rfl) Dev.apartFromClock_moveClk s m
    exact congrArg (fun y : Dev => { y with regs := (s.coreClock m).regs, clk := (s.coreClock m).clk
                                            time := (s.coreClock m).time, cores := (s.coreClock m).cores }) h
  · intro j hj
    have count : ∀ (s : Dev) ev n, (s.cPmu m ev n).core j = s.core j := fun s ev n =>
      Dev.cPmu_keeps (fun s => s.core j) (fun _ _ _ _ _ => rfl) s m ev n
    unfold Dev.coreClock
    dsimp only
    unfold Dev.core
    rw [Dev.cores_moveClk]
    refine (Dev.cond_keeps (fun s : Dev => s.core j) (fun s => count s _ _) _ _).trans ((count _ _ _).trans ?_)
    rw [Dev.core_onCore, if_neg hj]
    rfl
  · exact congrArg (fun c : ACore => { c with
      cyc := ((s.coreClock m).core m).cyc, nextAt := ((s.coreClock m).core m).nextAt, fly := ((s.coreClock m).core m).fly
      seqno := ((s.coreClock m).core m).seqno, busy := ((s.coreClock m).core m).busy }) (Dev.calm_coreClock s m)
  · intro r j hr
    refine Dev.coreClock_keeps_of (fun s => s.rd r j) (fun s q i v hq => ?_) (fun _ _ _ => rfl) (fun s c => Dev.rd_moveClk s c r j) s m
    exact Dev.rd_wr_ne s i j v (fun h => hr (h ▸ hq))

section
variable {m : Nat} {s t : Dev}

/-- A further change of the processor's units. -/
theorem Dev.CoreUnitsOnly.onCore (h : Dev.CoreUnitsOnly m s t) {f : ACore → ACore}
    (hf : ∀ c, f c = { c with cyc := (f c).cyc, nextAt := (f c).nextAt, fly := (f c).fly, seqno := (f c).seqno, busy := (f c).busy }) :
    Dev.CoreUnitsOnly m s (t.onCore m f) := by
  obtain ⟨hrest, hother, hcore, hregs⟩ := h
  refine ⟨?_, ?_, ?_, hregs⟩
  · exact congrArg (fun y : Dev => { y with cores := (t.onCore m f).cores }) hrest
  · intro j hj
    rw [Dev.core_onCore, if_neg hj, hother j hj]
  · rw [Dev.core_onCore_self]
    exact (hf (t.core m)).trans (congrArg (fun y : ACore => { y with
      cyc := (f (t.core m)).cyc, nextAt := (f (t.core m)).nextAt, fly := (f (t.core m)).fly
      seqno := (f (t.core m)).seqno, busy := (f (t.core m)).busy }) hcore)

theorem Dev.CoreUnitsOnly.aLaunch (h : Dev.CoreUnitsOnly m s t) (u : Nat) (outs : List (Nat × Nat)) (lat flags : Nat) :
    Dev.CoreUnitsOnly m s (t.aLaunch m u outs lat flags) := h.onCore (fun _ => rfl)

theorem Dev.CoreUnitsOnly.aBusy (h : Dev.CoreUnitsOnly m s t) (u n : Nat) : Dev.CoreUnitsOnly m s (t.aBusy m u n) :=
  h.onCore (fun _ => rfl)

theorem Dev.CoreUnitsOnly.aDivStart (h : Dev.CoreUnitsOnly m s t) (op v : Nat) : Dev.CoreUnitsOnly m s (t.aDivStart m op v) :=
  (h.aLaunch ..).aBusy ..

theorem Dev.CoreUnitsOnly.aFpuStart (h : Dev.CoreUnitsOnly m s t) (op : Nat) : Dev.CoreUnitsOnly m s (t.aFpuStart m op) := by
  unfold Dev.aFpuStart
  dsimp only
  split
  · exact (h.aLaunch ..).aBusy ..
  · exact h.aLaunch ..

/-- A unit's operation is one of the processor's present, or nothing more than that. -/
theorem Dev.CoreUnitsOnly.aUnitOp (s : Dev) (u : Nat) {f : Dev → Dev}
    (hf : ∀ {t : Dev}, Dev.CoreUnitsOnly m s t → Dev.CoreUnitsOnly m s (f t)) : Dev.CoreUnitsOnly m s (s.aUnitOp m u f) := by
  unfold Dev.aUnitOp
  dsimp only
  split
  · split
    · exact hf (.coreClock m s)
    · exact .coreClock m s
  · exact .refl m s

end

/-- The effect of a command that answers a next state. -/
theorem dev_of_next {i : Instr} {f : Dev → Dev} {s t : State} (hx : exec i s = run (wellFormed i) f s) (h : exec i s = .next t) :
    t.dev = f s.dev := (run_next (hx.symm.trans h)).2.2

/-- Settles O53: each command is a unit's operation at the processor's present. -/
theorem coreArithmeticFrame : Obligations.CoreArithmeticFrame := by
  unfold Obligations.CoreArithmeticFrame
  intro s t m h
  show Dev.CoreUnitsOnly m s.dev t.dev
  rcases h with ⟨u, op, v, h⟩ | ⟨op, v, h⟩ | ⟨op, v, h⟩ | ⟨u, op, v, h⟩ | ⟨u, op, v, h⟩
  · rw [dev_of_next (f := fun s => s.aUnitOp m u (fun s => s.aIaluStart m u op v.toNat)) rfl h]
    exact .aUnitOp _ _ (fun h => h.aLaunch ..)
  · rw [dev_of_next (f := fun s => s.aUnitOp m 2 (fun s => s.aMulStart m op v.toNat)) rfl h]
    exact .aUnitOp _ _ (fun h => h.aLaunch ..)
  · rw [dev_of_next (f := fun s => s.aUnitOp m 2 (fun s => s.aDivStart m op v.toNat)) rfl h]
    exact .aUnitOp _ _ (fun h => h.aDivStart ..)
  · rw [dev_of_next (f := fun s => s.aUnitOp m 3 (fun s => s.aFpuStart m op)) rfl h]
    exact .aUnitOp _ _ (fun h => h.aFpuStart _)
  · rw [dev_of_next (f := fun s => s.aUnitOp m 3 (fun s => s.aFpuStart m (6 + op))) rfl h]
    exact .aUnitOp _ _ (fun h => h.aFpuStart _)

end Sys2Proof.Machine
end

section
/-!
PROOFS. Control transfers and system operations of a core (11 R288, R295, R311, R339): their effect where the trigger runs and its
check finds no fault, the fault otherwise, and operands on which the check finds none.
-/

namespace Sys2Proof.Machine

open Sys2Proof.Safety

/-! ## A trigger that runs -/

/-- Processor m runs, `c` is its present, `d` the state after a barrier that is over, and the trigger does not stall there. -/
structure Dev.TrigReady (s c d : Dev) (m code : Nat) (t : DWord) : Prop where
  live : s.coreLive m = true
  ahead : (s.core m).ra = none
  sync : c = s.coreSync m
  fence : (c.core m).fenceWait = none
  now : d = c.passFence m
  stall : d.trigStall m code t.toNat = none

section
variable {s c d e : Dev} {m code : Nat} {t : DWord} {l : List Exc} {x : Exc}

theorem Dev.ctlFaults (hc : aTrigUnit code = some 5) (hx : (d.core m).xfer = none) (h : d.ctlCheck m 0 code t.toNat = (e, l)) :
    d.plainFaults m (d.core m).xfer.isSome ⟨0, [], 0⟩ [] [(0, code, t.toNat)] = (e, l) := by
  rw [hx]
  exact (Dev.plainFaults_ctl d m _ _ hc).trans h

/-- A control transfer whose check finds no fault acts. -/
theorem Dev.TrigReady.ctl (r : s.TrigReady c d m code t) (hc : aTrigUnit code = some 5) (hx : (d.core m).xfer = none)
    (h : d.ctlCheck m 0 code t.toNat = (e, [])) :
    s.trigOp m code t = ((e.passBy m).ctlGo m (d.trigPc m code) code t.toNat).settleFrames m := by
  rw [Dev.trigOp_runs r.live r.ahead r.sync r.fence r.now r.stall (Dev.ctlFaults hc hx h) (fun _ => hx) (by rw [hc]; decide)]
  unfold Dev.aTrig
  rw [hc]
  rfl

/-- A control transfer whose check finds a fault raises it at the bundle before the PC. -/
theorem Dev.TrigReady.ctl_faults (r : s.TrigReady c d m code t) (hc : aTrigUnit code = some 5) (hx : (d.core m).xfer = none)
    (h : d.ctlCheck m 0 code t.toNat = (e, l)) (hl : Exc.first l = some x) :
    s.trigOp m code t = (e.setPc m (d.trigPc m code)).raiseExc m x :=
  Dev.trigOp_faults r.live r.ahead r.sync r.fence r.now r.stall (Dev.ctlFaults hc hx h) (fun _ => hx) hl

/-- A trigger of the system-register unit whose check finds no fault acts, once its operands' state is in place. -/
theorem Dev.TrigReady.sru_of (r : s.TrigReady c d m code t) (hc : aTrigUnit code = some 6) (hk : profileA.control code = false)
    (h : d.plainFaults m (d.core m).xfer.isSome ⟨0, [], 0⟩ [] [(0, code, t.toNat)] = (e, [])) :
    s.trigOp m code t = ((e.passBy m).sruGo m code t.toNat).settleFrames m := by
  rw [Dev.trigOp_runs r.live r.ahead r.sync r.fence r.now r.stall h (fun g => absurd g (by rw [hk]; decide)) (by rw [hc]; decide)]
  unfold Dev.aTrig
  rw [hc]
  rfl

theorem Dev.TrigReady.sru (r : s.TrigReady c d m code t) (hc : aTrigUnit code = some 6) (hn : code ≠ 0xE5)
    (hk : profileA.control code = false) (h : d.sruCheck m 0 code t.toNat = []) (he : e = d.passBy m) :
    s.trigOp m code t = (e.sruGo m code t.toNat).settleFrames m :=
  he ▸ r.sru_of hc hk ((Dev.plainFaults_sru d m _ _ _ hc hn).trans (by rw [h]))

theorem Dev.TrigReady.sru_faults (r : s.TrigReady c d m code t) (hc : aTrigUnit code = some 6) (hn : code ≠ 0xE5)
    (hk : profileA.control code = false) (h : Exc.first (d.sruCheck m 0 code t.toNat) = some x) :
    s.trigOp m code t = (d.setPc m (d.trigPc m code)).raiseExc m x :=
  Dev.trigOp_faults r.live r.ahead r.sync r.fence r.now r.stall (Dev.plainFaults_sru d m _ _ _ hc hn)
    (fun g => absurd g (by rw [hk]; decide)) h

end

theorem Dev.frames_passBy (s : Dev) (m : Nat) : ((s.passBy m).core m).frames = (s.core m).frames := by
  unfold Dev.passBy Dev.notAlone Dev.noProg
  rw [Dev.core_onCore_self, Dev.core_onCore_self]

/-- A RET goes to the link of the current frame. -/
theorem Dev.ctlGo_ret {s : Dev} {m pc t : Nat} {f : Frame} {l : List Frame} (h : (s.core m).frames = f :: l) :
    s.ctlGo m pc 0xD3 t = s.startXfer m pc f.link.toNat 2 0 true false := by
  show s.startXfer m pc _ 2 0 true false = _
  rw [h]

/-- Settles O42: each trigger runs, and its unit's table gives its effect. -/
theorem controlAndSystemOperations : Obligations.ControlAndSystemOperations := by
  unfold Obligations.ControlAndSystemOperations
  intro s
  refine ⟨?jmp, ?call, ?ret, ?br0, ?br1, ?br2, ?br3, ?syscall, ?sysret, ?eret, ?jmpF, ?callF, ?retF, ?syscallF, ?sysretF, ?eretF,
    ?rd, ?wr, ?set, ?clr, ?wrF, ?flushw, ?sleep, ?tlbiva, ?tlbiasid, ?tlbiall⟩
  case jmp =>
    intro m c d e t hw h1 h2 h3 hf hd h4 hx h
    exact exec_eq (f := (·.trigOp m 0xD1 t)) rfl hw (Dev.TrigReady.ctl ⟨h1, h2, h3, hf, hd, h4⟩ rfl hx h)
  case call =>
    intro m c d e t hw h1 h2 h3 hf hd h4 hx h
    exact exec_eq (f := (·.trigOp m 0xD2 t)) rfl hw (Dev.TrigReady.ctl ⟨h1, h2, h3, hf, hd, h4⟩ rfl hx h)
  case ret =>
    intro m c d e t f l hw h1 h2 h3 hf hd h4 hx h hl
    refine exec_eq (f := (·.trigOp m 0xD3 t)) rfl hw ((Dev.TrigReady.ctl ⟨h1, h2, h3, hf, hd, h4⟩ rfl hx h).trans ?_)
    rw [Dev.ctlGo_ret ((Dev.frames_passBy e m).trans hl)]
    rfl
  case br0 =>
    intro m c d e t hw h1 h2 h3 hf hd h4 hx h
    exact exec_eq (f := (·.trigOp m 0xD4 t)) rfl hw (Dev.TrigReady.ctl ⟨h1, h2, h3, hf, hd, h4⟩ rfl hx h)
  case br1 =>
    intro m c d e t hw h1 h2 h3 hf hd h4 hx h
    exact exec_eq (f := (·.trigOp m 0xD5 t)) rfl hw (Dev.TrigReady.ctl ⟨h1, h2, h3, hf, hd, h4⟩ rfl hx h)
  case br2 =>
    intro m c d e t hw h1 h2 h3 hf hd h4 hx h
    exact exec_eq (f := (·.trigOp m 0xD6 t)) rfl hw (Dev.TrigReady.ctl ⟨h1, h2, h3, hf, hd, h4⟩ rfl hx h)
  case br3 =>
    intro m c d e t hw h1 h2 h3 hf hd h4 hx h
    exact exec_eq (f := (·.trigOp m 0xD7 t)) rfl hw (Dev.TrigReady.ctl ⟨h1, h2, h3, hf, hd, h4⟩ rfl hx h)
  case syscall =>
    intro m c d e t hw h1 h2 h3 hf hd h4 hx h
    exact exec_eq (f := (·.trigOp m 0xD8 t)) rfl hw (Dev.TrigReady.ctl ⟨h1, h2, h3, hf, hd, h4⟩ rfl hx h)
  case sysret =>
    intro m c d e t hw h1 h2 h3 hf hd h4 hx h
    exact exec_eq (f := (·.trigOp m 0xD9 t)) rfl hw (Dev.TrigReady.ctl ⟨h1, h2, h3, hf, hd, h4⟩ rfl hx h)
  case eret =>
    intro m c d e t hw h1 h2 h3 hf hd h4 hx h
    exact exec_eq (f := (·.trigOp m 0xDA t)) rfl hw (Dev.TrigReady.ctl ⟨h1, h2, h3, hf, hd, h4⟩ rfl hx h)
  case jmpF =>
    intro m c d e t l x hw h1 h2 h3 hf hd h4 hx h hl
    exact exec_eq (f := (·.trigOp m 0xD1 t)) rfl hw (Dev.TrigReady.ctl_faults ⟨h1, h2, h3, hf, hd, h4⟩ rfl hx h hl)
  case callF =>
    intro m c d e t l x hw h1 h2 h3 hf hd h4 hx h hl
    exact exec_eq (f := (·.trigOp m 0xD2 t)) rfl hw (Dev.TrigReady.ctl_faults ⟨h1, h2, h3, hf, hd, h4⟩ rfl hx h hl)
  case retF =>
    intro m c d e t l x hw h1 h2 h3 hf hd h4 hx h hl
    exact exec_eq (f := (·.trigOp m 0xD3 t)) rfl hw (Dev.TrigReady.ctl_faults ⟨h1, h2, h3, hf, hd, h4⟩ rfl hx h hl)
  case syscallF =>
    intro m c d e t l x hw h1 h2 h3 hf hd h4 hx h hl
    exact exec_eq (f := (·.trigOp m 0xD8 t)) rfl hw (Dev.TrigReady.ctl_faults ⟨h1, h2, h3, hf, hd, h4⟩ rfl hx h hl)
  case sysretF =>
    intro m c d e t l x hw h1 h2 h3 hf hd h4 hx h hl
    exact exec_eq (f := (·.trigOp m 0xD9 t)) rfl hw (Dev.TrigReady.ctl_faults ⟨h1, h2, h3, hf, hd, h4⟩ rfl hx h hl)
  case eretF =>
    intro m c d e t l x hw h1 h2 h3 hf hd h4 hx h hl
    exact exec_eq (f := (·.trigOp m 0xDA t)) rfl hw (Dev.TrigReady.ctl_faults ⟨h1, h2, h3, hf, hd, h4⟩ rfl hx h hl)
  case rd =>
    intro m c d e t hw h1 h2 h3 hf hd h4 h he
    exact exec_eq (f := (·.trigOp m 0xE1 t)) rfl hw (Dev.TrigReady.sru ⟨h1, h2, h3, hf, hd, h4⟩ rfl (by decide) rfl h he)
  case wr =>
    intro m c d e t hw h1 h2 h3 hf hd h4 h he
    exact exec_eq (f := (·.trigOp m 0xE2 t)) rfl hw (Dev.TrigReady.sru ⟨h1, h2, h3, hf, hd, h4⟩ rfl (by decide) rfl h he)
  case set =>
    intro m c d e t hw h1 h2 h3 hf hd h4 h he
    exact exec_eq (f := (·.trigOp m 0xE3 t)) rfl hw (Dev.TrigReady.sru ⟨h1, h2, h3, hf, hd, h4⟩ rfl (by decide) rfl h he)
  case clr =>
    intro m c d e t hw h1 h2 h3 hf hd h4 h he
    exact exec_eq (f := (·.trigOp m 0xE4 t)) rfl hw (Dev.TrigReady.sru ⟨h1, h2, h3, hf, hd, h4⟩ rfl (by decide) rfl h he)
  case wrF =>
    intro m c d t x hw h1 h2 h3 hf hd h4 h
    exact exec_eq (f := (·.trigOp m 0xE2 t)) rfl hw (Dev.TrigReady.sru_faults ⟨h1, h2, h3, hf, hd, h4⟩ rfl (by decide) rfl h)
  case flushw =>
    intro m c d e t hw h1 h2 h3 hf hd h4 h
    exact exec_eq (f := (·.trigOp m 0xE5 t)) rfl hw
      (Dev.TrigReady.sru_of ⟨h1, h2, h3, hf, hd, h4⟩ rfl rfl (Dev.plainFaults_flushw d e m _ _ h))
  case sleep =>
    intro m c d e t hw h1 h2 h3 hf hd h4 h he
    exact exec_eq (f := (·.trigOp m 0xE6 t)) rfl hw (Dev.TrigReady.sru ⟨h1, h2, h3, hf, hd, h4⟩ rfl (by decide) rfl h he)
  case tlbiva =>
    intro m c d e t hw h1 h2 h3 hf hd h4 h he
    exact exec_eq (f := (·.trigOp m 0xE7 t)) rfl hw (Dev.TrigReady.sru ⟨h1, h2, h3, hf, hd, h4⟩ rfl (by decide) rfl h he)
  case tlbiasid =>
    intro m c d e t hw h1 h2 h3 hf hd h4 h he
    exact exec_eq (f := (·.trigOp m 0xE8 t)) rfl hw (Dev.TrigReady.sru ⟨h1, h2, h3, hf, hd, h4⟩ rfl (by decide) rfl h he)
  case tlbiall =>
    intro m c d e t hw h1 h2 h3 hf hd h4 h he
    exact exec_eq (f := (·.trigOp m 0xE9 t)) rfl hw (Dev.TrigReady.sru ⟨h1, h2, h3, hf, hd, h4⟩ rfl (by decide) rfl h he)

/-! ## Operands on which the checks find no fault -/

section
variable {d : Dev} {m t : Nat}

/-- A jump or a branch to a multiple of 16. -/
theorem Dev.ctlCheck_jump {code : Nat} (hc : code = 0xD1 ∨ (0xD4 ≤ code ∧ code ≤ 0xD7)) (h : t % 16 = 0) :
    d.ctlCheck m 0 code t = (d, []) := by
  unfold Dev.ctlCheck
  dsimp only
  rw [if_pos hc, if_pos h]

/-- A call to a multiple of 16 with a frame to spare. -/
theorem Dev.ctlCheck_call (h : t % 16 = 0) (q : d.stQB m = false) (hl : (d.core m).frames.length < 5) :
    d.ctlCheck m 0 0xD2 t = (d, []) := by
  have c : d.callCheck m 0 = (d, none) := by
    unfold Dev.callCheck
    dsimp only
    rw [if_pos (by omega)]
  unfold Dev.ctlCheck
  simp [q, c, h]

/-- A return with a second frame on chip. -/
theorem Dev.ctlCheck_ret {f g : Frame} {l : List Frame} (q : d.stQB m = false) (hl : (d.core m).frames = f :: g :: l) :
    d.ctlCheck m 0 0xD3 t = (d, []) := by
  have o : 1 < d.occupied m := by
    unfold Dev.occupied
    rw [hl]
    simp
  have c : d.retCheck m 0 = (d, none) := by
    unfold Dev.retCheck
    rw [if_pos o]
  have n : d.occupied m ≠ 1 := by omega
  unfold Dev.ctlCheck
  simp [q, c, n]

theorem Dev.ctlCheck_syscall (h : d.lvl m = 0) : d.ctlCheck m 0 0xD8 t = (d, []) := by
  unfold Dev.ctlCheck
  simp [h]

/-- A SYSRET above U to the saved level of the current frame. -/
theorem Dev.ctlCheck_sysret {f : Frame} {l : List Frame} (hl : (d.core m).frames = f :: l) (h : d.lvl m ≠ 0)
    (hf : f.lvl = d.srf m 0x31 1 0) : d.ctlCheck m 0 0xD9 t = (d, []) := by
  unfold Dev.ctlCheck
  simp [hl, h, hf]

/-- An ERET above U to the saved level of the current frame. -/
theorem Dev.ctlCheck_eret {f : Frame} {l : List Frame} (hl : (d.core m).frames = f :: l) (h : d.lvl m ≠ 0)
    (hf : f.lvl = d.srf m (if d.stDFL m then 0x51 else if d.stQB m then 0x41 else 0x21) 1 0) :
    d.ctlCheck m 0 0xDA t = (d, []) := by
  unfold Dev.ctlCheck
  simp [hl, h, hf]

/-- An access to a system register that exists, above U or to a register that U may access. -/
theorem Dev.sruCheck_register {code : Nat} (hc : 0xE1 ≤ code ∧ code ≤ 0xE4) (he : srExists m (t % 4096) = true)
    (hp : d.lvl m ≠ 0 ∨ t % 4096 = 3 ∨ (t % 4096 = 2 ∧ code = 0xE1)) : d.sruCheck m 0 code t = [] := by
  unfold Dev.sruCheck
  dsimp only
  rw [if_pos hc, if_pos he, if_neg, List.append_nil]
  simp only [Bool.and_eq_true, Bool.not_eq_true', Bool.or_eq_false_iff, Bool.and_eq_false_iff, decide_eq_true_eq,
    decide_eq_false_iff_not]
  omega

/-- A SLEEP at any level. -/
theorem Dev.sruCheck_sleep : d.sruCheck m 0 0xE6 t = [] := by
  unfold Dev.sruCheck
  simp

/-- A TLB operation above U. -/
theorem Dev.sruCheck_above {code : Nat} (hc : 0xE5 ≤ code) (h : d.lvl m ≠ 0) : d.sruCheck m 0 code t = [] := by
  unfold Dev.sruCheck
  dsimp only
  rw [if_neg (by omega), if_neg (by simp [h])]

end

/-! ## The check of the spills of a FLUSHW (R294) -/

/-- An address of DRAM without translation, above U, is itself. -/
theorem Dev.translate_dram {d : Dev} {m va lvl : Nat} {a : AccKind} (te : d.stTE m = false) (hl : lvl ≠ 0) (hv : va < dramSize) :
    d.translate m va lvl a = (d, .ok ⟨va, 0⟩) := by
  have i : inDram va = true := decide_eq_true hv
  have l2 : ¬ 2 ^ 40 ≤ va := by unfold dramSize at hv; omega
  unfold Dev.translate
  rw [te, if_neg Bool.false_ne_true, if_neg hl, if_neg l2, i, if_pos rfl]

/-- The translation of a page of the frame area, kept for the spills of processor m. -/
def Dev.mapPage (m : Nat) (s : Dev) (v : Nat) : Dev :=
  s.onCore m (fun c => { c with fsMap := SMap.set (fun _ => 0) c.fsMap (v / 4096) (v / 4096 + 1) })

theorem Dev.stTE_mapPage (s : Dev) (m v : Nat) : (s.mapPage m v).stTE m = s.stTE m := by
  unfold Dev.mapPage Dev.stTE Dev.sr
  rw [Dev.core_onCore_self]

/-- The check of a frame's record within DRAM, without translation and above U. -/
theorem Dev.checkRecord_dram {d : Dev} {m slot a lvl : Nat} {k : AccKind} (te : d.stTE m = false) (hl : lvl ≠ 0)
    (ha : a + recordLen ≤ dramSize) : d.checkRecord m slot a lvl k = ((recordPages a).foldl (Dev.mapPage m) d, none) := by
  have len : recordLen = 144 := rfl
  have p1 := Dev.translate_dram (m := m) (a := k) te hl (show a < dramSize by omega)
  have p2 := Dev.translate_dram (m := m) (a := k) ((Dev.stTE_mapPage d m a).trans te) hl (show a + recordLen - 1 < dramSize by omega)
  unfold Dev.checkRecord recordPages
  simp only [List.foldl_cons, List.foldl_nil, p1]
  rw [show d.onCore m (fun c => { c with fsMap := SMap.set (fun _ => 0) c.fsMap (a / 4096) (a / 4096 + 1) }) = d.mapPage m a from rfl,
    p2]
  rfl

/-- FLUSHW of the current frame alone spills nothing. -/
theorem Dev.flushCheck_one {d : Dev} {m : Nat} {f : Frame} (h : (d.core m).frames = [f]) : d.flushCheck m 0 = (d, none) := by
  unfold Dev.flushCheck
  rw [h]
  rfl

/-- FLUSHW of one frame more, whose record lies below the limit of its level and within DRAM. -/
theorem Dev.flushCheck_two {d : Dev} {m : Nat} {f g : Frame} (h : (d.core m).frames = [f, g]) (te : d.stTE m = false)
    (hl : g.lvl ≠ 0) (lim : d.sr m (srFsPtr g.lvl) + recordLen ≤ d.sr m (srFsLim g.lvl))
    (ha : d.sr m (srFsPtr g.lvl) + recordLen ≤ dramSize) :
    d.flushCheck m 0 = ((recordPages (d.sr m (srFsPtr g.lvl))).foldl (Dev.mapPage m) d, none) := by
  unfold Dev.flushCheck
  rw [h, show spillList [f, g] 1 = [g] from rfl]
  unfold Dev.checkSpills
  dsimp only
  rw [if_neg (Nat.not_lt.mpr lim), Dev.checkRecord_dram te hl ha]
  rfl

/-- Settles O58: the check of each trigger finds no fault at such operands, and nothing stalls at rest. -/
theorem coreControlAndSystemComplete : Obligations.CoreControlAndSystemComplete := by
  unfold Obligations.CoreControlAndSystemComplete
  intro s
  refine ⟨?jmp, ?call, ?ret, ?br0, ?br1, ?br2, ?br3, ?syscall, ?sysret, ?eret, ?rd, ?wr, ?set, ?clr, ?flush1, ?flush2, ?sleep, ?tlbiva,
    ?tlbiasid, ?tlbiall⟩
  case jmp =>
    intro m d t hw h ht
    exact exec_eq (f := (·.trigOp m 0xD1 t)) rfl hw (trigOp_rest_ctl h rfl (Dev.ctlCheck_jump (by decide) ht))
  case call =>
    intro m d t hw h ht hq hl
    exact exec_eq (f := (·.trigOp m 0xD2 t)) rfl hw (trigOp_rest_ctl h rfl (Dev.ctlCheck_call ht hq hl))
  case ret =>
    intro m d t f g l hw h hl hq
    refine exec_eq (f := (·.trigOp m 0xD3 t)) rfl hw ((trigOp_rest_ctl h rfl (Dev.ctlCheck_ret hq hl)).trans ?_)
    rw [Dev.ctlGo_ret ((Dev.frames_passBy d m).trans hl)]
    rfl
  case br0 =>
    intro m d t hw h ht
    exact exec_eq (f := (·.trigOp m 0xD4 t)) rfl hw (trigOp_rest_ctl h rfl (Dev.ctlCheck_jump (by decide) ht))
  case br1 =>
    intro m d t hw h ht
    exact exec_eq (f := (·.trigOp m 0xD5 t)) rfl hw (trigOp_rest_ctl h rfl (Dev.ctlCheck_jump (by decide) ht))
  case br2 =>
    intro m d t hw h ht
    exact exec_eq (f := (·.trigOp m 0xD6 t)) rfl hw (trigOp_rest_ctl h rfl (Dev.ctlCheck_jump (by decide) ht))
  case br3 =>
    intro m d t hw h ht
    exact exec_eq (f := (·.trigOp m 0xD7 t)) rfl hw (trigOp_rest_ctl h rfl (Dev.ctlCheck_jump (by decide) ht))
  case syscall =>
    intro m d t hw h hl
    exact exec_eq (f := (·.trigOp m 0xD8 t)) rfl hw (trigOp_rest_ctl h rfl (Dev.ctlCheck_syscall hl))
  case sysret =>
    intro m d t f l hw h hf hl hs
    exact exec_eq (f := (·.trigOp m 0xD9 t)) rfl hw (trigOp_rest_ctl h rfl (Dev.ctlCheck_sysret hf hl hs))
  case eret =>
    intro m d t f l hw h hf hl hs
    exact exec_eq (f := (·.trigOp m 0xDA t)) rfl hw (trigOp_rest_ctl h rfl (Dev.ctlCheck_eret hf hl hs))
  case rd =>
    rintro m d _ t hw h he hp rfl
    exact exec_eq (f := (·.trigOp m 0xE1 t)) rfl hw (trigOp_rest_sru h rfl (by decide) rfl
      (Dev.sruCheck_register (by decide) he (hp.imp_right (Or.imp_right (⟨·, rfl⟩)))))
  case wr =>
    rintro m d _ t hw h he hp rfl
    exact exec_eq (f := (·.trigOp m 0xE2 t)) rfl hw (trigOp_rest_sru h rfl (by decide) rfl
      (Dev.sruCheck_register (by decide) he (hp.imp_right .inl)))
  case set =>
    rintro m d _ t hw h he hp rfl
    exact exec_eq (f := (·.trigOp m 0xE3 t)) rfl hw (trigOp_rest_sru h rfl (by decide) rfl
      (Dev.sruCheck_register (by decide) he (hp.imp_right .inl)))
  case clr =>
    rintro m d _ t hw h he hp rfl
    exact exec_eq (f := (·.trigOp m 0xE4 t)) rfl hw (trigOp_rest_sru h rfl (by decide) rfl
      (Dev.sruCheck_register (by decide) he (hp.imp_right .inl)))
  case flush1 =>
    intro m d t f hw h hf
    exact exec_eq (f := (·.trigOp m 0xE5 t)) rfl hw (trigOp_rest_flushw h (Dev.flushCheck_one hf))
  case flush2 =>
    rintro m d _ t f g hw h hf te hl lim hd rfl
    exact exec_eq (f := (·.trigOp m 0xE5 t)) rfl hw (trigOp_rest_flushw h (Dev.flushCheck_two hf te hl lim hd))
  case sleep =>
    rintro m d _ t hw h rfl
    exact exec_eq (f := (·.trigOp m 0xE6 t)) rfl hw (trigOp_rest_sru h rfl (by decide) rfl Dev.sruCheck_sleep)
  case tlbiva =>
    rintro m d _ t hw h hl rfl
    exact exec_eq (f := (·.trigOp m 0xE7 t)) rfl hw (trigOp_rest_sru h rfl (by decide) rfl (Dev.sruCheck_above (by decide) hl))
  case tlbiasid =>
    rintro m d _ t hw h hl rfl
    exact exec_eq (f := (·.trigOp m 0xE8 t)) rfl hw (trigOp_rest_sru h rfl (by decide) rfl (Dev.sruCheck_above (by decide) hl))
  case tlbiall =>
    rintro m d _ t hw h hl rfl
    exact exec_eq (f := (·.trigOp m 0xE9 t)) rfl hw (trigOp_rest_sru h rfl (by decide) rfl (Dev.sruCheck_above (by decide) hl))

end Sys2Proof.Machine
end

section
/-!
PROOFS. Load-store operations of a core at rest (11 R279 to R285, R362): on a place within one line of normal memory that the core may
access, nothing holds the operation back, its check finds no fault, and it takes effect.
-/

namespace Sys2Proof.Machine

open Sys2Proof.Safety

/-! ## States that differ in what a check does not read -/

theorem inLine_noMiss {d : Dev} {m va n : Nat} {a : AccKind} {p : Phys} (h : InLine d m va n a p) : InLine (d.noMiss m) m va n a p :=
  ⟨mapped_noMiss h.mapped, h.normal, h.same, h.fits⟩

theorem Dev.cb_noMiss (d : Dev) (m : Nat) : ((d.noMiss m).core m).cb = (d.core m).cb := by
  unfold Dev.noMiss
  rw [Dev.core_onCore_self]

theorem Dev.resv_noMiss (d : Dev) (m : Nat) : ((d.noMiss m).core m).resv = (d.core m).resv := by
  unfold Dev.noMiss
  rw [Dev.core_onCore_self]

theorem Dev.progPc_noMiss (d : Dev) (m : Nat) : ((d.noMiss m).core m).progPc = (d.core m).progPc := by
  unfold Dev.noMiss
  rw [Dev.core_onCore_self]

theorem Dev.progPc_notAlone (d : Dev) (m : Nat) : ((d.notAlone m).core m).progPc = (d.core m).progPc := by
  unfold Dev.notAlone
  rw [Dev.core_onCore_self]

theorem Dev.l2Hit_notAlone (d : Dev) (m l : Nat) (excl : Bool) :
    (d.notAlone m).l2Hit m ((d.notAlone m).coreWorld m) l excl = d.l2Hit m (d.coreWorld m) l excl := by
  have w : (d.notAlone m).coreWorld m = d.coreWorld m := by
    unfold Dev.notAlone Dev.coreWorld
    rw [Dev.core_onCore_self]
  rw [w]
  exact l2Hit_mem rfl ..

/-! ## The check and the effect of each kind of operation -/

section
variable {x e : Dev} {m pc code o1 o2 o3 t : Nat}

theorem isAtomic_false (h : ¬ (0xB1 ≤ code ∧ code ≤ 0xB8)) : isAtomic code = false := by
  unfold isAtomic
  simp
  omega

/-- Only loads, LDX, STX and atomics wait for a line. -/
theorem lsuWaits_other (h : ¬ (code ≤ 0xA9 ∨ 0xAF ≤ code ∧ code ≤ 0xB8)) : x.lsuWaits m 0 code o1 t = false := by
  unfold Dev.lsuWaits
  rw [if_neg h]

theorem lsuCheck_load {p : LoadPlan} (hc : code ≤ 0xA9 ∨ code = 0xAF)
    (h : x.loadCheck m pc 0 code ((o1 + t) % 2 ^ 64) (lsuSize code) (decide (code = 0xAF)) = (e, .ok p)) :
    x.lsuCheck m pc 0 code o1 o2 o3 t = (e, .ok (.load p)) := by
  unfold Dev.lsuCheck
  dsimp only
  rw [if_pos hc, h]

theorem lsuCheck_store {p : Place} (hc : 0xAA ≤ code ∧ code ≤ 0xAE)
    (h : x.storeCheck m pc 0 ((o1 + t) % 2 ^ 64) (lsuSize code) o2 (decide (code = 0xAE)) = (e, .ok p)) :
    x.lsuCheck m pc 0 code o1 o2 o3 t = (e, .ok (.at p)) := by
  unfold Dev.lsuCheck
  dsimp only
  rw [if_neg (by omega), if_pos hc.2, h]

theorem lsuCheck_stx {p : Place} (h : x.stxCheck m pc 0 ((o1 + t) % 2 ^ 64) o2 = (e, .ok p)) :
    x.lsuCheck m pc 0 0xB0 o1 o2 o3 t = (e, .ok (.at p)) := by
  unfold Dev.lsuCheck
  dsimp only
  rw [if_neg (by omega), if_neg (by omega), if_pos rfl, h]

theorem isAtomic_of {op : Nat} (h : op < 8) : isAtomic (0xB1 + op) = true := by
  unfold isAtomic
  simp
  omega

theorem lsuCheck_atomic {op : Nat} {p : LoadPlan} (ho : op < 8)
    (h : x.atomicCheck m pc 0 op ((o1 + t) % 2 ^ 64) o2 o3 = (e, .ok p)) :
    x.lsuCheck m pc 0 (0xB1 + op) o1 o2 o3 t = (e, .ok (.load p)) := by
  unfold Dev.lsuCheck
  dsimp only
  rw [if_neg (by omega), if_neg (by omega), if_neg (by omega), if_pos (isAtomic_of ho), Nat.add_sub_cancel_left, h]

theorem lsuCheck_maint {p : Place} (hc : 0xBF ≤ code ∧ code ≤ 0xC2)
    (h : x.maintCheck m 0 code ((o1 + t) % 2 ^ 64) = (e, .ok p)) : x.lsuCheck m pc 0 code o1 o2 o3 t = (e, .ok (.at p)) := by
  have a : isAtomic code = false := isAtomic_false (by omega)
  unfold Dev.lsuCheck
  dsimp only
  rw [if_neg (by omega), if_neg (by omega), if_neg (by omega), a, if_neg Bool.false_ne_true, if_neg (by omega), if_pos hc, h]

/-- A multi-register transfer that is not resumed. -/
theorem lsuCheck_multi (hc : code = 0xB9 ∨ code = 0xBA) (hp : (x.core m).progPc = none)
    (h : x.multiCheck m 0 ⟨o1, t % 65536, bits t 16 16, decide (code = 0xBA)⟩ false = (e, none)) :
    x.lsuCheck m pc 0 code o1 o2 o3 t = (e, .ok (.multi ⟨o1, t % 65536, bits t 16 16, decide (code = 0xBA)⟩)) := by
  have a : isAtomic code = false := isAtomic_false (by omega)
  have g : (x.core m).resumes pc = false := by unfold ACore.resumes; rw [hp]; rfl
  unfold Dev.lsuCheck Dev.multiOf
  dsimp only
  rw [if_neg (by omega), if_neg (by omega), if_neg (by omega), a, if_neg Bool.false_ne_true, if_pos hc, g, if_neg Bool.false_ne_true, h]

theorem storesCode_false (hc : ¬ (0xAA ≤ code ∧ code ≤ 0xAE) ∧ ¬ (0xB0 ≤ code ∧ code ≤ 0xB8) ∧ code ≠ 0xBA) :
    storesCode code = false := by
  unfold storesCode
  simp
  omega

theorem storesCode_store (hc : 0xAA ≤ code ∧ code ≤ 0xAE) : storesCode code = true := by
  unfold storesCode
  simp [hc]

theorem storesCode_atomic {op : Nat} (ho : op < 8) : storesCode (0xB1 + op) = true := by
  unfold storesCode
  simp
  omega

theorem lsuGo_load {p : LoadPlan} (hc : code ≤ 0xA9) : x.lsuGo m pc 0 code o1 o2 o3 t (.load p) = (x.loadGo m code p, none) := by
  have a : isAtomic code = false := isAtomic_false (by omega)
  unfold Dev.lsuGo
  dsimp only
  rw [if_neg (by omega), a, if_neg Bool.false_ne_true]

theorem lsuGo_atomic {op : Nat} {p : LoadPlan} (ho : op < 8) :
    x.lsuGo m pc 0 (0xB1 + op) o1 o2 o3 t (.load p) = (x.atomicGo m op p o2 o3, none) := by
  unfold Dev.lsuGo
  dsimp only
  rw [if_neg (by omega), if_pos (isAtomic_of ho), Nat.add_sub_cancel_left]

theorem lsuGo_stnt {p : Place} : x.lsuGo m pc 0 0xAE o1 o2 o3 t (.at p) = (x.stntGo m p o2, none) := by
  unfold Dev.lsuGo
  dsimp only
  rw [if_neg (by decide), if_pos rfl]

theorem lsuGo_store {p : Place} (hc : code ≤ 0xAD) : x.lsuGo m pc 0 code o1 o2 o3 t (.at p) = (x.storeGo m p o2, none) := by
  unfold Dev.lsuGo
  dsimp only
  rw [if_pos hc]

end

/-! ## Accesses at rest -/

section
variable {s d e : Dev} {m code va : Nat} {t : DWord} {p : Phys}

/-- A load within a line that the L2 holds. -/
theorem trigOp_rest_load (h : AtRest s d m) (hc : 0xA3 ≤ code ∧ code ≤ 0xA9) (hv : va = (d.lat m 0xA0 + t.toNat) % 2 ^ 64)
    (hi : InLine d m va (lsuSize code) .load p) (hl : LineReady d m (p.pa / 64) false)
    (he : e = ((d.noMiss m).bringLine m (p.pa / 64) false).1) (hu : Unwatched e m (prevPc d m)) :
    s.trigOp m code t =
      (((e.notAlone m).loadGo m code (linePlan (d.noMiss m) m p.pa (lsuSize code))).setPc m (d.pc m)).noProg m := by
  subst hv
  have ex : decide (code = 0xAF) = false := by simp; omega
  have st : lsuStrict code = false := by unfold lsuStrict; simp; omega
  have ki : lsuKind code = .load := by unfold lsuKind; rw [if_pos (by omega)]
  have tk : decide (0xAF ≤ code) = false := by simp; omega
  have n0 : 0 < lsuSize code := by unfold lsuSize; split <;> decide
  refine trigOp_rest_lsu h (by omega)
    (lsuWaits_ready (by rw [ki]; exact hi) (by rw [st]; exact fun h => nomatch h) n0 (by rw [tk]; exact hl.free))
    (lsuCheck_load (.inl hc.2) (loadCheck_inLine (inLine_noMiss hi) (Nat.mod_lt _ (by decide)) n0 (by rw [ex]; exact fun h => nomatch h) hl.core
      (by rw [ex]; exact lineReady_bring hl) ((Dev.cb_noMiss d m).trans (atRest_cb h)) (by rw [ex]; exact he) hu)) ?_
  rw [storesCode_false (by omega), Dev.cond_false, lsuGo_load hc.2]

/-- A store within a line. -/
theorem trigOp_rest_store (h : AtRest s d m) (hc : 0xAA ≤ code ∧ code ≤ 0xAE) (hv : va = (d.lat m 0xA0 + t.toNat) % 2 ^ 64)
    (hi : InLine d m va (lsuSize code) .store p) (al : decide (code = 0xAE) = true → va % lsuSize code = 0)
    (hu : Unwatched (d.noMiss m) m (prevPc d m)) {f : Dev}
    (hg : (((d.noMiss m).prefetchAt m 1 (oldCode (d.pc m))).notAlone m).lsuGo m (prevPc d m) 0 code (d.lat m 0xA0) (d.lat m 0xA1)
      (d.lat m 0xA2) t.toNat (.at ⟨bytesAt p.pa (lsuSize code), 0⟩) = (f, none)) :
    s.trigOp m code t = (f.setPc m (d.pc m)).noProg m := by
  subst hv
  refine trigOp_rest_lsu h (by omega) (lsuWaits_other (by omega))
    (lsuCheck_store hc (storeCheck_inLine (inLine_noMiss hi) (Nat.mod_lt _ (by decide)) al hu)) ?_
  rw [storesCode_store hc, Dev.cond_true]
  exact hg

/-- An LDX of a line held to be changed. -/
theorem trigOp_rest_ldx (h : AtRest s d m) (hv : va = (d.lat m 0xA0 + t.toNat) % 2 ^ 64) (hi : InLine d m va 8 .load p)
    (al : va % 8 = 0) (hl : LineReady d m (p.pa / 64) true) (he : e = ((d.noMiss m).bringLine m (p.pa / 64) true).1)
    (hu : Unwatched e m (prevPc d m)) :
    s.trigOp m 0xAF t = (((e.notAlone m).ldxGo m (linePlan (d.noMiss m) m p.pa 8)).setPc m (d.pc m)).noProg m := by
  subst hv
  exact trigOp_rest_lsu h (by decide) (lsuWaits_ready hi (fun _ => al) (by decide) hl.free)
    (lsuCheck_load (.inr rfl) (loadCheck_inLine (inLine_noMiss hi) (Nat.mod_lt _ (by decide)) (by decide) (fun _ => al) hl.core
      (lineReady_bring hl) ((Dev.cb_noMiss d m).trans (atRest_cb h)) he hu)) rfl

/-- An STX, its reservation held or lost, that waits for nothing. -/
theorem trigOp_rest_stx (h : AtRest s d m) (hv : va = (d.lat m 0xA0 + t.toNat) % 2 ^ 64) (hi : InLine d m va 8 .store p)
    (al : va % 8 = 0) (hw : d.lsuWaits m 0 0xB0 (d.lat m 0xA0) t.toNat = false)
    (he : ((d.core m).resv ≠ some (p.pa / 64) ∧ e = d.noMiss m) ∨
      ((d.core m).resv = some (p.pa / 64) ∧ LineReady d m (p.pa / 64) true ∧ e = ((d.noMiss m).bringLine m (p.pa / 64) true).1))
    (hu : Unwatched e m (prevPc d m)) :
    s.trigOp m 0xB0 t =
      ((((e.prefetchAt m 1 (oldCode (d.pc m))).notAlone m).stxGo m ⟨bytesAt p.pa 8, 0⟩ (d.lat m 0xA1)).setPc m (d.pc m)).noProg m := by
  subst hv
  refine trigOp_rest_lsu h (by decide) hw (lsuCheck_stx (stxCheck_inLine (inLine_noMiss hi) (Nat.mod_lt _ (by decide)) al
    ((Dev.cb_noMiss d m).trans (atRest_cb h)) ?_ hu)) rfl
  rw [Dev.resv_noMiss]
  exact he.imp_right fun ⟨r, hl, he⟩ => ⟨r, hl.core, lineReady_bring hl, he⟩

/-- An atomic of a line held to be changed. -/
theorem trigOp_rest_atomic {op : Nat} (ho : op < 8) (h : AtRest s d m) (hv : va = (d.lat m 0xA0 + t.toNat) % 2 ^ 64)
    (hi : InLine d m va 8 .atomic p) (al : va % 8 = 0) (hl : LineReady d m (p.pa / 64) true)
    (he : e = ((d.noMiss m).bringLine m (p.pa / 64) true).1) (hu : Unwatched e m (prevPc d m)) :
    s.trigOp m (0xB1 + op) t = ((((e.prefetchAt m 1 (oldCode (d.pc m))).notAlone m).atomicGo m op
      ⟨⟨bytesAt p.pa 8, 0⟩, some (leNat ((bytesAt p.pa 8).map (fun a => e.loadByte m a))), 0⟩ (d.lat m 0xA1) (d.lat m 0xA2)).setPc m
        (d.pc m)).noProg m := by
  subst hv
  have sz : lsuSize (0xB1 + op) = 8 := by
    have : ∀ op : Fin 8, lsuSize (0xB1 + op) = 8 := by decide
    exact this ⟨op, ho⟩
  have ki : lsuKind (0xB1 + op) = .atomic := by unfold lsuKind; rw [if_neg (by omega), if_pos (isAtomic_of ho)]
  have tk : decide (0xAF ≤ 0xB1 + op) = true := by simp; omega
  refine trigOp_rest_lsu h (by omega)
    (lsuWaits_ready (by rw [ki, sz]; exact hi) (fun _ => by rw [sz]; exact al) (by rw [sz]; decide) (by rw [tk]; exact hl.free))
    (lsuCheck_atomic ho (atomicCheck_inLine (inLine_noMiss hi) (Nat.mod_lt _ (by decide)) al hl.core (lineReady_bring hl) he hu)) ?_
  rw [storesCode_atomic ho, Dev.cond_true, lsuGo_atomic ho]

/-- A barrier, an IFENCE or a PREF, which has no check. -/
theorem trigOp_rest_plain {f : Dev} (h : AtRest s d m) (hc : (0xBB ≤ code ∧ code ≤ 0xBE) ∨ code = 0xC3)
    (hg : ((d.noMiss m).notAlone m).lsuGo m (prevPc d m) 0 code (d.lat m 0xA0) (d.lat m 0xA1) (d.lat m 0xA2) t.toNat .plain = (f, none)) :
    s.trigOp m code t = (f.setPc m (d.pc m)).noProg m := by
  have a : isAtomic code = false := isAtomic_false (by omega)
  have n : storesCode code = false := storesCode_false (by omega)
  have c : (d.noMiss m).lsuCheck m (prevPc d m) 0 code (d.lat m 0xA0) (d.lat m 0xA1) (d.lat m 0xA2) t.toNat = (d.noMiss m, .ok .plain) := by
    unfold Dev.lsuCheck
    dsimp only
    rw [if_neg (by omega), if_neg (by omega), if_neg (by omega), a, if_neg Bool.false_ne_true, if_neg (by omega), if_neg (by omega)]
  refine trigOp_rest_lsu h (by omega) (lsuWaits_other (by omega)) c ?_
  rw [n, Dev.cond_false]
  exact hg

/-- A maintenance operation on an address that it may access. -/
theorem trigOp_rest_maint {f : Dev} (h : AtRest s d m) (hc : 0xBF ≤ code ∧ code ≤ 0xC2) (hv : va = (d.lat m 0xA0 + t.toNat) % 2 ^ 64)
    (hp : Mapped (d.noMiss m) m va ((d.noMiss m).maintKind m code) p)
    (hg : ((d.noMiss m).notAlone m).lsuGo m (prevPc d m) 0 code (d.lat m 0xA0) (d.lat m 0xA1) (d.lat m 0xA2) t.toNat (.at ⟨[p.pa], p.mt⟩) =
      (f, none)) : s.trigOp m code t = (f.setPc m (d.pc m)).noProg m := by
  subst hv
  have n : storesCode code = false := storesCode_false (by omega)
  refine trigOp_rest_lsu h (by omega) (lsuWaits_other (by omega)) (lsuCheck_maint hc (maintCheck_mapped hp (Nat.mod_lt _ (by decide)))) ?_
  rw [n, Dev.cond_false]
  exact hg

/-- An LDM or STM of one register whose slot's check finds no fault. -/
theorem trigOp_rest_multi {c g : Dev} {r : Nat} {y : MultiSlot} (h : AtRest s d m) (hc : code = 0xB9 ∨ code = 0xBA)
    (ht : t.toNat % 65536 = 2 ^ r)
    (hi : InLine d m (d.lat m 0xA0) 8 (if decide (code = 0xBA) then .store else .load) p) (al : d.lat m 0xA0 % 8 = 0)
    (hn : c = ((d.noMiss m).cond (storesCode code) (fun s => s.prefetchAt m 1 (oldCode (d.pc m)))).notAlone m)
    (hp : (c.core m).progPc = none)
    (hs : c.slotCheck m (prevPc d m) 0 (16 * bits t.toNat 16 16 + r) ⟨d.lat m 0xA0, 2 ^ r, bits t.toNat 16 16, decide (code = 0xBA)⟩ =
      (e, .ok y))
    (hg : g = e.onCore m (fun c => { c with
      multi := some { pc := prevPc d m, xfer := c.xfer, stm := decide (code = 0xBA), bank := bits t.toNat 16 16, start := c.cyc, slots := [y] } })) :
    s.trigOp m code t = (((g.multiStep m false 16).aBusy m 4 (1 + g.tlbCost m)).setPc m (d.pc m)).noProg m := by
  have hr : r < 16 := by
    refine Nat.lt_of_not_le fun hr => ?_
    have := Nat.pow_le_pow_right (n := 2) (by decide) hr
    omega
  have va : d.lat m 0xA0 < 2 ^ 64 := BitVec.isLt _
  refine trigOp_rest_lsu h (by omega) (lsuWaits_other (by omega))
    (lsuCheck_multi hc ((Dev.progPc_noMiss d m).trans (atRest_prog h)) (multiCheck_inLine (inLine_noMiss hi) va al false)) ?_
  rw [← hn, ht]
  unfold Dev.lsuGo
  dsimp only
  rw [show (c.core m).resumes (prevPc d m) = false by unfold ACore.resumes; rw [hp]; rfl]
  exact multiGo_one hr hs hg

end

/-- The check of one slot of an LDM within a line that the L2 holds. -/
theorem slotCheck_ldm {c e : Dev} {m pc va mask bank k : Nat} {p : Phys} (hi : InLine c m va 8 .load p) (hv : va < 2 ^ 64)
    (al : va % 8 = 0) (hm : m < 8) (hl : c.l2Hit m (c.coreWorld m) (p.pa / 64) false = true) (cb : (c.core m).cb = [])
    (he : e = (c.bringLine m (p.pa / 64) false).1) (hu : Unwatched e m pc) :
    c.slotCheck m pc 0 k ⟨va, mask, bank, false⟩ =
      (e, .ok ⟨some k, va, bytesAt p.pa 8, 0, none, c.loadReach m (c.coreWorld m) (p.pa / 64)⟩) := by
  unfold Dev.slotCheck
  rw [if_neg Bool.false_ne_true]
  dsimp only
  rw [loadCheck_inLine (op := 0xA9) hi hv (by decide) (fun _ => al) hm hl cb he hu]
  rfl

/-- The check of one slot of an STM within a line. -/
theorem slotCheck_stm {c : Dev} {m pc va mask bank k : Nat} {p : Phys} (hi : InLine c m va 8 .store p) (hv : va < 2 ^ 64)
    (al : va % 8 = 0) (hu : Unwatched c m pc) :
    c.slotCheck m pc 0 k ⟨va, mask, bank, true⟩ = (c, .ok ⟨some k, va, bytesAt p.pa 8, 0, some (c.regRead m k), 0⟩) := by
  unfold Dev.slotCheck
  rw [if_pos rfl]
  dsimp only
  rw [storeCheck_inLine hi hv (fun _ => al) hu]

/-- What an STX waits for, with its line ready or its reservation lost. -/
theorem lsuWaits_stx {d : Dev} {m o1 t : Nat} {p : Phys} (h : InLine d m ((o1 + t) % 2 ^ 64) 8 .store p) (al : (o1 + t) % 2 ^ 64 % 8 = 0)
    (hr : (d.core m).resv ≠ some (p.pa / 64)) : d.lsuWaits m 0 0xB0 o1 t = false := by
  have fit : p.pa % 64 + 8 ≤ 64 := by rw [h.same]; exact h.fits
  have ln := bytesAt_lines fit (by decide)
  unfold Dev.lsuWaits
  rw [show lsuSize 0xB0 = 8 from rfl, show lsuKind 0xB0 = .store from rfl,
    placeOf_inLine h (Nat.mod_lt _ (by decide)) 0 _ (fun _ => al)]
  dsimp only
  rw [ln, show nth [p.pa / 64] 0 = p.pa / 64 from rfl]
  simp [hr]

/-- Settles O57: at rest each operation waits for nothing, and its check finds no fault on such a place. -/
theorem coreMemoryOperationsComplete : Obligations.CoreMemoryOperationsComplete := by
  unfold Obligations.CoreMemoryOperationsComplete
  intro s
  refine ⟨?load, ?store, ?stnt, ?ldx, ?stx, ?stxLost, ?atomic, ?ldm, ?stm, ?fenceL, ?fenceS, ?fenceLs, ?ifence, ?pref, ?dccln, ?dcinv,
    ?dcci, ?icinv⟩
  case load =>
    intro m op va d e t p hw h hv hi hl he hu
    have ho : op < 7 := by simp [wellFormed] at hw; exact hw.2
    exact exec_eq (f := (·.trigOp m (0xA3 + op) t)) rfl hw (trigOp_rest_load h (by omega) hv hi hl he hu)
  case store =>
    intro m op va d t p hw h hv hi hu
    have ho : op < 4 := by simp [wellFormed] at hw; exact hw.2
    exact exec_eq (f := (·.trigOp m (0xAA + op) t)) rfl hw
      (trigOp_rest_store h (by omega) hv hi (fun h => by simp at h; omega) hu (lsuGo_store (by omega)))
  case stnt =>
    intro m va d t p hw h hv hi al hu
    exact exec_eq (f := (·.trigOp m 0xAE t)) rfl hw (trigOp_rest_store (code := 0xAE) h (by decide) hv hi (fun _ => al) hu
      lsuGo_stnt)
  case ldx =>
    intro m va d e t p hw h hv hi al hl he hu
    exact exec_eq (f := (·.trigOp m 0xAF t)) rfl hw (trigOp_rest_ldx h hv hi al hl he hu)
  case stx =>
    intro m va d e t p hw h hv hi al hr hl he hu
    exact exec_eq (f := (·.trigOp m 0xB0 t)) rfl hw (trigOp_rest_stx h hv hi al
      (lsuWaits_ready (hv ▸ hi) (fun _ => hv ▸ al) (by decide) hl.free) (.inr ⟨hr, hl, he⟩) hu)
  case stxLost =>
    intro m va d t p hw h hv hi al hr hu
    exact exec_eq (f := (·.trigOp m 0xB0 t)) rfl hw
      (trigOp_rest_stx h hv hi al (lsuWaits_stx (hv ▸ hi) (hv ▸ al) hr) (.inl ⟨hr, rfl⟩) hu)
  case atomic =>
    intro m op va d e t p hw h hv hi al hl he hu
    have ho : op < 8 := by simp [wellFormed] at hw; exact hw.2
    exact exec_eq (f := (·.trigOp m (0xB1 + op) t)) rfl hw (trigOp_rest_atomic ho h hv hi al hl he hu)
  case ldm =>
    intro m r c d e t p hw h ht hi al hn hc cb hl he hu
    have pr : (c.core m).progPc = none := by rw [hn, Dev.progPc_notAlone, Dev.progPc_noMiss, atRest_prog h]
    have hit : c.l2Hit m (c.coreWorld m) (p.pa / 64) false = true := by rw [hn, Dev.l2Hit_notAlone]; exact lineReady_bring hl
    exact exec_eq (f := (·.trigOp m 0xB9 t)) rfl hw (trigOp_rest_multi (code := 0xB9) h (.inl rfl) ht hi al hn pr
      (slotCheck_ldm hc (BitVec.isLt _) al hl.core hit cb he hu) rfl)
  case stm =>
    intro m r c d t p hw h ht hi al hn hc pr hu
    exact exec_eq (f := (·.trigOp m 0xBA t)) rfl hw (trigOp_rest_multi (code := 0xBA) h (.inr rfl) ht hi al hn pr
      (slotCheck_stm hc (BitVec.isLt _) al hu) rfl)
  case fenceL =>
    intro m d t hw h
    exact exec_eq (f := (·.trigOp m 0xBB t)) rfl hw (trigOp_rest_plain (code := 0xBB) h (by decide) rfl)
  case fenceS =>
    intro m d t hw h
    exact exec_eq (f := (·.trigOp m 0xBC t)) rfl hw (trigOp_rest_plain (code := 0xBC) h (by decide) rfl)
  case fenceLs =>
    intro m d t hw h
    exact exec_eq (f := (·.trigOp m 0xBD t)) rfl hw (trigOp_rest_plain (code := 0xBD) h (by decide) rfl)
  case ifence =>
    intro m d t hw h
    exact exec_eq (f := (·.trigOp m 0xBE t)) rfl hw (trigOp_rest_plain (code := 0xBE) h (by decide) rfl)
  case pref =>
    intro m d t hw h
    exact exec_eq (f := (·.trigOp m 0xC3 t)) rfl hw (trigOp_rest_plain (code := 0xC3) h (by decide) rfl)
  case dccln =>
    intro m va d t p hw h hv hp
    exact exec_eq (f := (·.trigOp m 0xBF t)) rfl hw (trigOp_rest_maint (code := 0xBF) h (by decide) hv hp rfl)
  case dcinv =>
    intro m va d t p hw h hv hp
    exact exec_eq (f := (·.trigOp m 0xC0 t)) rfl hw (trigOp_rest_maint (code := 0xC0) h (by decide) hv hp rfl)
  case dcci =>
    intro m va d t p hw h hv hp
    exact exec_eq (f := (·.trigOp m 0xC1 t)) rfl hw (trigOp_rest_maint (code := 0xC1) h (by decide) hv hp rfl)
  case icinv =>
    intro m va d t p hw h hv hp
    exact exec_eq (f := (·.trigOp m 0xC2 t)) rfl hw (trigOp_rest_maint (code := 0xC2) h (by decide) hv hp rfl)

end Sys2Proof.Machine
end

section
/-!
PROOFS. What a core does at a bundle boundary (11 R176, R314, R317), and the other events of cores: completions, run-ahead ends,
interrupt entries, wakes, frames and buffers.
-/

namespace Sys2Proof.Machine

/-! ## A bundle boundary -/

/-- Processor m is at a bundle boundary outside run-ahead: `d` is its present, `e` the state after a barrier that is over, and no
stall, squash or debug event comes first. -/
structure Dev.AtBoundary (s d e : Dev) (m : Nat) : Prop where
  live : s.coreLive m = true
  sync : d = s.coreSync m
  ahead : (d.core m).ra = none
  xfer : ∀ x, (d.core m).xfer = some x → x.left ≠ 0
  fence : (d.core m).fenceWait = none
  now : e = d.passFence m
  trace : e.trcStalls m = false
  squash : (d.core m).xfer.any (fun x => x.squash) = false
  debug : e.debugFirst m = none

section
variable {s d e f : Dev} {m : Nat}

theorem Dev.AtBoundary.issues (h : s.AtBoundary d e m) : s.bundleNow m = d.issueCore m :=
  Dev.bundleNow_issues h.live h.sync h.ahead h.xfer

/-- A quick interrupt that may be taken is entered first. -/
theorem Dev.AtBoundary.quick (h : s.AtBoundary d e m) (hq : (e.mayQuick m && (e.icLine m true).isSome) = true) :
    s.bundleNow m = e.enterQ m (exc cQuick 0 0) := by
  rw [h.issues, Dev.issueCore_interrupts h.fence h.now h.trace h.squash h.debug (.inl hq), if_pos hq]

/-- An ordinary interrupt that may be taken is entered next. -/
theorem Dev.AtBoundary.interrupt (h : s.AtBoundary d e m) (hq : (e.mayQuick m && (e.icLine m true).isSome) = false)
    (hi : (e.mayInt m && (e.icLine m false).isSome) = true) : s.bundleNow m = e.takeInt m := by
  rw [h.issues, Dev.issueCore_interrupts h.fence h.now h.trace h.squash h.debug (.inr hi), if_neg (by rw [hq]; exact Bool.false_ne_true)]

/-- Otherwise a fetch fault is raised. -/
theorem Dev.AtBoundary.fetch_faults {x : Exc} (h : s.AtBoundary d e m) (hq : (e.mayQuick m && (e.icLine m true).isSome) = false)
    (hi : (e.mayInt m && (e.icLine m false).isSome) = false) (hf : e.fetchNext m (d.pc m) = (f, .error x)) :
    s.bundleNow m = f.raiseExc m x := by
  rw [h.issues, Dev.issueCore_fetches h.fence h.now h.trace h.squash h.debug hq hi, hf]

/-- Otherwise the word fetched issues. -/
theorem Dev.AtBoundary.fetch {w : BitVec 128} (h : s.AtBoundary d e m) (hq : (e.mayQuick m && (e.icLine m true).isSome) = false)
    (hi : (e.mayInt m && (e.icLine m false).isSome) = false) (hf : e.fetchNext m (d.pc m) = (f, .ok w)) :
    s.bundleNow m = f.issueBundle m (d.pc m) ((d.core m).queued (d.pc m)).isSome w := by
  rw [h.issues, Dev.issueCore_fetches h.fence h.now h.trace h.squash h.debug hq hi, hf]

end

/-! ## Completions, run-ahead, interrupt entries, wakes -/

/-- The end of a run-ahead restores the checkpoint (R303). -/
theorem Dev.endRunAhead_some {s d : Dev} {m : Nat} {k : Snap} (h : (s.core m).ra = some k)
    (hd : d = (s.cPmu m 0x20 1).cPmu m 0x23 ((s.core m).cyc - (s.core m).raCyc)) :
    s.endRunAhead m =
      (d.trcEmit m (d.syncBytes m (d.trcSrc m).pos) (traceHead 7 m :: leBytes 2 (min (s.core m).raCount 65535))).onCore m (fun c =>
        { c with frames := k.frames, x := k.x, q := k.q, g := k.g, res := k.res, xfer := k.xfer, pc := k.pc, sys := k.sys
                 resv := k.resv, latch := k.latch, fly := k.fly, ra := none, raCount := 0, raPoison := [], raOver := true }) := by
  unfold Dev.endRunAhead
  rw [h, hd]

theorem Dev.coreOpComplete_some {s d : Dev} {m i : Nat} {f : InFlight} (hd : d = (s.endRunAhead m).coreSync m)
    (hf : (d.core m).fly[i]? = some f) : s.coreOpComplete m i = (d.coreTick m (f.ready - (d.core m).cyc)).completeOp m i := by
  unfold Dev.coreOpComplete
  dsimp only
  rw [← hd, hf]

/-- OPERATION_COMPLETE of a core's operation in flight, at its cycle. -/
theorem exec_operationComplete_core {s : State} {m i : Nat} {d : Dev} {f : InFlight}
    (hw : wellFormed (.operationComplete (64 + m) i) = true) (hd : d = (s.dev.endRunAhead m).coreSync m)
    (hf : (d.core m).fly[i]? = some f) :
    exec (.operationComplete (64 + m) i) s =
      .next { s with dev := (d.coreTick m (f.ready - (d.core m).cyc)).completeOp m i } := by
  show execOperationComplete (64 + m) i s = _
  refine run_eq s hw ?_
  rw [if_neg (by omega), Nat.add_sub_cancel_left]
  exact Dev.coreOpComplete_some hd hf

/-- An interrupt that a core takes with no transfer in progress keeps EPROG (R287, R314). -/
theorem Dev.takeInt_none {s : Dev} {m : Nat} (h : (s.core m).multi = none) : s.takeInt m = s.enterE m (s.keepProg m (exc cInterrupt 0 0)) := by
  unfold Dev.takeInt Dev.multiStop
  dsimp only
  rw [h]

/-- The registers left to a multi-register transfer, as a mask. -/
def slotMask (l : List MultiSlot) : Nat :=
  l.foldl (fun k y => match y.reg with
    | some g => setBit k (g % 16) true
    | none => k) 0

/-- An interrupt that stops a transfer after which no bundle has issued records what is left of it (R287). -/
theorem Dev.takeInt_alone {s e : Dev} {m : Nat} {r : MultiRun} {y : MultiSlot} {l : List MultiSlot} (h : (s.core m).multi = some r)
    (ha : r.alone = true) (hl : r.slots = y :: l)
    (he : e = s.onCore m (fun c => { c with multi := none, pc := BitVec.ofNat 64 r.pc, xfer := r.xfer })) :
    s.takeInt m = e.enterE m { (exc cInterrupt 0 0) with
      addr := y.addr, prog := (MultiXfer.mk y.addr (slotMask (y :: l)) r.bank r.stm).prog } := by
  unfold Dev.takeInt Dev.multiStop
  dsimp only
  rw [h]
  dsimp only
  rw [ha, hl, he]
  rfl

/-- INTERRUPT_ENTRY with the line asserted and neither a debug event nor a quick interrupt first. -/
theorem Dev.interruptNow_takes {s d : Dev} {m : Nat} (h1 : s.coreLive m = true) (h2 : (s.icLine m false).isSome = true)
    (hd : d = (s.endRunAhead m).coreSync m) (h3 : d.debugFirst m = none) (h4 : d.mayInt m = true)
    (h5 : (d.icLine m true).isSome = false ∨ d.mayQuick m = false) : s.interruptNow m = d.takeInt m := by
  have q : ((d.icLine m true).isSome && d.mayQuick m) = false := by
    rcases h5 with h | h <;> rw [h]
    · rfl
    · exact Bool.and_false _
  unfold Dev.interruptNow
  rw [if_pos (by simp only [h1, h2, Bool.and_self]), ← hd]
  dsimp only
  rw [h3]
  dsimp only
  rw [if_pos (by simp only [h4, q, Bool.not_false, Bool.and_self])]

/-- QUICK_INTERRUPT_ENTRY with the line asserted and no debug event first. -/
theorem Dev.quickNow_enters {s d : Dev} {m : Nat} (h1 : s.coreLive m = true) (h2 : (s.icLine m true).isSome = true)
    (hd : d = (s.endRunAhead m).coreSync m) (h3 : d.debugFirst m = none) (h4 : d.mayQuick m = true) :
    s.quickNow m = d.enterQ m (exc cQuick 0 0) := by
  unfold Dev.quickNow
  rw [if_pos (by simp only [h1, h2, Bool.and_self]), ← hd]
  dsimp only
  rw [h3]
  dsimp only
  rw [if_pos h4]

/-- WAKE of a processor asleep that an interrupt wakes. -/
theorem Dev.wakeNow_wakes {s d : Dev} {m : Nat} (h1 : (s.core m).asleep = true) (h2 : s.icWakes m = true)
    (hd : d = (s.coreClock m).onCore m (fun c => { c with asleep := false })) :
    s.wakeNow m = (d.trcEmit m (d.syncBytes m (d.trcSrc m).pos) (traceHead 6 m :: leBytes 4 (d.time.now % nsPerSec))).onTrc m (fun x =>
      { x with needSync := true }) := by
  unfold Dev.wakeNow
  rw [if_pos (by simp only [h1, h2, Bool.true_or, Bool.and_self]), hd]

theorem Dev.storePerformedNow_ready {s : Dev} {m i : Nat} {e : SbEntry} (h : (s.core m).sb[i]? = some e)
    (hr : (s.core m).sbReady i = true) (hw : s.entryWaits m e = false) : s.storePerformedNow m i = s.performStore m i := by
  unfold Dev.storePerformedNow
  rw [h]
  dsimp only
  rw [if_pos (by simp only [hr, hw, Bool.not_false, Bool.and_self])]

/-- Settles O43: the order of a bundle boundary, and each event under its conditions. -/
theorem coreEventsAct : Obligations.CoreEventsAct := by
  unfold Obligations.CoreEventsAct
  intro s
  refine ⟨?quick, ?int, ?fetch, ?illegal, ?commit, ?ra, ?complete, ?entry, ?entryMulti, ?quickEntry, ?wake, ?spill, ?fill, ?store, ?cb⟩
  case quick =>
    intro m d e hw h1 h2 h3 h4 h5 h6 h7 h8 h9 hq
    exact exec_eq (f := (·.bundleNow m)) rfl hw (Dev.AtBoundary.quick ⟨h1, h2, h3, h4, h5, h6, h7, h8, h9⟩ hq)
  case int =>
    intro m d e hw h1 h2 h3 h4 h5 h6 h7 h8 h9 hq hi
    exact exec_eq (f := (·.bundleNow m)) rfl hw (Dev.AtBoundary.interrupt ⟨h1, h2, h3, h4, h5, h6, h7, h8, h9⟩ hq hi)
  case fetch =>
    intro m d e f x hw h1 h2 h3 h4 h5 h6 h7 h8 h9 hq hi hf
    exact exec_eq (f := (·.bundleNow m)) rfl hw (Dev.AtBoundary.fetch_faults ⟨h1, h2, h3, h4, h5, h6, h7, h8, h9⟩ hq hi hf)
  case illegal =>
    intro m slot d e f w hw h1 h2 h3 h4 h5 h6 h7 h8 h9 hq hi hf hb
    exact exec_eq (f := (·.bundleNow m)) rfl hw
      ((Dev.AtBoundary.fetch ⟨h1, h2, h3, h4, h5, h6, h7, h8, h9⟩ hq hi hf).trans (Dev.issueBundle_illegal rfl hb))
  case commit =>
    intro m d e f g w bun vals trig hw h1 h2 h3 h4 h5 h6 h7 h8 h9 hq hi hf hbun hb hr hv ht hs hp hl
    exact exec_eq (f := (·.bundleNow m)) rfl hw
      ((Dev.AtBoundary.fetch ⟨h1, h2, h3, h4, h5, h6, h7, h8, h9⟩ hq hi hf).trans
        (Dev.issueBundle_commits hbun hb hr hv ht hs hp hl))
  case ra =>
    intro m k d hw h hd
    exact exec_eq (f := (·.endRunAhead m)) rfl hw (Dev.endRunAhead_some h hd)
  case complete => exact fun m i d f hw hd hf => exec_operationComplete_core hw hd hf
  case entry =>
    intro m d hw h1 h2 hd h3 h4 h5 hm
    exact exec_eq (f := (·.interruptNow m)) rfl hw ((Dev.interruptNow_takes h1 h2 hd h3 h4 h5).trans (Dev.takeInt_none hm))
  case entryMulti =>
    intro m d e r y l hw h1 h2 hd h3 h4 h5 hm ha hl he
    exact exec_eq (f := (·.interruptNow m)) rfl hw
      ((Dev.interruptNow_takes h1 h2 hd h3 h4 h5).trans (Dev.takeInt_alone hm ha hl he))
  case quickEntry =>
    intro m d hw h1 h2 hd h3 h4
    exact exec_eq (f := (·.quickNow m)) rfl hw (Dev.quickNow_enters h1 h2 hd h3 h4)
  case wake =>
    intro m d hw h1 h2 hd
    exact exec_eq (f := (·.wakeNow m)) rfl hw (Dev.wakeNow_wakes h1 h2 hd)
  case spill =>
    intro m hw h1 h2 h3
    show execFrameSpill m s = _
    exact run_eq s hw (by simp only [h1, h2, h3, decide_true, Bool.and_self, if_true])
  case fill =>
    intro m hw h1 h2 h3 h4
    show execFrameFill m s = _
    exact run_eq s hw (by simp only [h1, h2, h3, h4, decide_true, Bool.and_self, if_true])
  case store =>
    intro m i e hw h hr hn
    exact exec_eq (f := (·.storePerformedNow m i)) rfl hw (Dev.storePerformedNow_ready h hr hn)
  case cb =>
    intro m x hw h
    show execCombiningWriteOut m s = _
    exact run_eq s hw (by simp only [h])

end Sys2Proof.Machine
end

section
/-!
PROOFS. The integer units, the sliding DFT and the DMA of an engine's hive (08 R197, R200, R204, R205): what a free unit's
operation comes to, and how a transfer ends.
-/

namespace Sys2Proof.Machine

/-! ## A free unit -/

/-- A command of one unit's operation starts it where the unit is free. -/
theorem exec_unitOp_free {i : Instr} {s : State} {e u c : Nat} {f : Dev → Nat → Dev}
    (hi : exec i s = run (wellFormed i) (fun s => s.unitOp e u f) s) (hw : wellFormed i = true)
    (hc : (s.dev.eng e).cur = some c) (hr : s.dev.running e = true) (hf : (s.dev.eng e).freeAt u ≤ s.dev.clk) :
    exec i s = .next { s with dev := f s.dev c } :=
  exec_eq hi hw (Dev.unitOp_runs hc hr hf f)

/-! ## The results of the integer units (Table 8.3) -/

section
variable (a t : Word)

/-- The upper half of a 64-bit number is its quotient by 2^32. -/
theorem upperHalf_ofInt (p : Int) : (BitVec.ofInt 64 p).extractLsb' 32 32 = BitVec.ofInt 32 (p / 2 ^ 32) := by
  apply BitVec.eq_of_toNat_eq
  rw [BitVec.extractLsb'_toNat, BitVec.toNat_ofInt, BitVec.toNat_ofInt, Nat.shiftRight_eq_div_pow]
  omega

/-- MULH is the upper half of the signed product. -/
theorem ialu_mulh : ialu 9 a t = (a.signExtend 64 * t.signExtend 64).extractLsb' 32 32 := by
  have hprod : a.signExtend 64 * t.signExtend 64 = BitVec.ofInt 64 (a.toInt * t.toInt) := (BitVec.ofInt_mul ..).symm
  rw [hprod, upperHalf_ofInt]
  rfl

/-- MULHU is the upper half of the unsigned product. -/
theorem ialu_mulhu : ialu 10 a t = (a.setWidth 64 * t.setWidth 64).extractLsb' 32 32 := by
  have hprod : a.setWidth 64 * t.setWidth 64 = BitVec.ofInt 64 (a.toNat * t.toNat : Nat) := by
    rw [BitVec.ofInt_natCast, BitVec.ofNat_mul, BitVec.ofNat_toNat, BitVec.ofNat_toNat]
  rw [hprod, upperHalf_ofInt]
  exact (BitVec.ofInt_natCast ..).symm

/-- A choice between two values goes by either condition where the two agree on distinct values. -/
theorem ite_eq_ite_of_ne {p q : Prop} [Decidable p] [Decidable q] (h : a ≠ t → (p ↔ q)) :
    (if p then t else a) = if q then t else a := by
  by_cases heq : a = t
  · rw [heq, ite_self, ite_self]
  · simp only [h heq]

/-- MIN keeps O1 unless T is less as a signed number. -/
theorem ialu_min : ialu 11 a t = if t.slt a then t else a := by
  simp only [ialu, BitVec.slt_iff_toInt_lt, ← Int.not_lt, ite_not]

/-- MAX keeps O1 unless T is greater as a signed number. -/
theorem ialu_max : ialu 12 a t = if a.slt t then t else a := by
  refine ite_eq_ite_of_ne a t fun hne => ?_
  have hkey : a.toInt ≠ t.toInt := fun h => hne (BitVec.eq_of_toInt_eq h)
  rw [BitVec.slt_iff_toInt_lt]
  omega

/-- MINU keeps O1 unless T is less as an unsigned number. -/
theorem ialu_minu : ialu 13 a t = if t < a then t else a := by
  simp only [ialu, BitVec.lt_def, ← Nat.not_lt, ite_not]

/-- MAXU keeps O1 unless T is greater as an unsigned number. -/
theorem ialu_maxu : ialu 14 a t = if a < t then t else a := by
  refine ite_eq_ite_of_ne a t fun hne => ?_
  have hkey : a.toNat ≠ t.toNat := fun h => hne (BitVec.eq_of_toNat_eq h)
  rw [BitVec.lt_def]
  omega

/-- LT compares signed numbers. -/
theorem ialu_lt : ialu 16 a t = if a.slt t then 1 else 0 := by
  simp only [ialu, BitVec.slt_iff_toInt_lt]

end

/-- An integer unit that is free starts its operation, whose result and latency are those given. -/
theorem exec_eIaluOp_free (s : State) {op lat : Nat} {y : Word → Word → Word} (hy : ∀ a t, ialu op a t = y a t)
    (hlat : ialuLat op = lat) : ∀ (e u c : Nat) (a t : Word), wellFormed (.eIaluOp e u op t) = true →
    (s.dev.eng e).cur = some c → s.dev.running e = true → (s.dev.eng e).freeAt u ≤ s.dev.clk →
    a = (s.dev.eng e).lat (0x40 + 0x18 * u) →
    exec (.eIaluOp e u op t) s = .next { s with
      dev := s.dev.onEng e (fun x => x.push
        { unit := u, ctx := c, outs := [(0x40 + u, (y a t).toNat)], ready := s.dev.clk + lat }) } := by
  intro e u c a t hw hc hr hf ha
  subst ha hlat
  rw [← hy]
  exact exec_unitOp_free (f := fun s c => s.ialuStart e c u op t) rfl hw hc hr hf

/-- Settles O27: a free unit starts its operation (`exec_eIaluOp_free`), whose result the lemma of its operation gives. -/
theorem integerUnitOperations : Obligations.IntegerUnitOperations := by
  unfold Obligations.IntegerUnitOperations
  intro s
  refine ⟨?add, ?sub, ?and, ?or, ?xor, ?shl, ?shr, ?sra, ?mul, ?mulh, ?mulhu, ?min, ?max, ?minu, ?maxu, ?eq, ?lt, ?ltu⟩
  case mulh => exact exec_eIaluOp_free s ialu_mulh rfl
  case mulhu => exact exec_eIaluOp_free s ialu_mulhu rfl
  case min => exact exec_eIaluOp_free s ialu_min rfl
  case max => exact exec_eIaluOp_free s ialu_max rfl
  case minu => exact exec_eIaluOp_free s ialu_minu rfl
  case maxu => exact exec_eIaluOp_free s ialu_maxu rfl
  case lt => exact exec_eIaluOp_free s ialu_lt rfl
  all_goals exact exec_eIaluOp_free s (fun _ _ => rfl) rfl


/-! ## The sliding DFT -/

/-- Settles O29: the SDFT unit starts its operation when it is free (`exec_unitOp_free`), and what that does is its definition. -/
theorem sdftOperationsAct : Obligations.SdftOperationsAct := by
  unfold Obligations.SdftOperationsAct
  intro s
  refine ⟨?cfg, ?upd, ?rd, ?load⟩
  case cfg =>
    intro e c t w z hw hc hr hf hwz
    obtain ⟨hre, him⟩ := Prod.mk.inj hwz
    subst hre him
    exact exec_unitOp_free (f := fun s c => s.sdftCfg e c t) rfl hw hc hr hf
  case upd => exact fun e c t hw hc hr hf => exec_unitOp_free (f := fun s c => s.sdftUpd e c t) rfl hw hc hr hf
  case rd => exact fun e c t hw hc hr hf => exec_unitOp_free (f := fun s c => s.sdftRd e c t) rfl hw hc hr hf
  case load => exact fun e c t hw hc hr hf => exec_unitOp_free (f := fun s c => s.sdftLoad e c t) rfl hw hc hr hf

/-! ## The hive DMA -/

section
variable {s : Dev} {e c : Nat} {get : Bool} {t : Word}

/-- A transfer takes the lowest slot that is not pending and is queued at its hive. -/
theorem Dev.dmaStart_queues {i : Nat} (h : (List.range 4).find? (fun i => decide ((s.eng e).dmaSlot i ≠ 1)) = some i) :
    s.dmaStart e c get t =
      ((s.onEng e (fun x => { x with dmaStat := SMap.set (fun _ => 0) x.dmaStat i 1 })).onHive (e / 8) (fun h =>
        { h with dmaQ := h.dmaQ ++ [{ eng := e, slot := i, get := get, region := bits ((s.eng e).lat 0xE0).toNat 19 18
                                      laddr := ((s.eng e).lat 0xE0).toNat % 2 ^ 18
                                      daddr := ((s.eng e).lat 0xE1).toNat + ((s.eng e).lat 0xE2).toNat % 256 * 2 ^ 32 -
                                        (((s.eng e).lat 0xE1).toNat + ((s.eng e).lat 0xE2).toNat % 256 * 2 ^ 32) % 2
                                      len := t.toNat % 8192 }] })).launch e c 14 [(0x5A, i)] 1 := by
  simp only [Dev.dmaStart, h]

/-- With four transfers pending nothing starts. -/
theorem Dev.dmaStart_full (h : (List.range 4).find? (fun i => decide ((s.eng e).dmaSlot i ≠ 1)) = none) :
    s.dmaStart e c get t = s.launch e c 14 [(0x5A, 0xFFFFFFFF)] 1 := by
  simp only [Dev.dmaStart, h]

end

section
variable {s : State} {e : Nat} {t : Word} {d : Dev}

/-- A GET, as the DMA unit answers it. -/
theorem exec_eDmaGet (hw : wellFormed (.eDmaGet e t) = true)
    (hd : s.dev.portOp e 14 (fun s _ => (s.eng e).dmaFault true t) (fun s c => s.dmaStart e c true t) = d) :
    exec (.eDmaGet e t) s = .next { s with dev := d } :=
  exec_eq (f := fun s => s.portOp e 14 (fun s _ => (s.eng e).dmaFault true t) (fun s c => s.dmaStart e c true t)) rfl hw hd

/-- A PUT, as the DMA unit answers it. -/
theorem exec_eDmaPut (hw : wellFormed (.eDmaPut e t) = true)
    (hd : s.dev.portOp e 14 (fun s _ => (s.eng e).dmaFault false t) (fun s c => s.dmaStart e c false t) = d) :
    exec (.eDmaPut e t) s = .next { s with dev := d } :=
  exec_eq (f := fun s => s.portOp e 14 (fun s _ => (s.eng e).dmaFault false t) (fun s c => s.dmaStart e c false t)) rfl hw hd

end

section
variable {s d : Dev} {h : Nat} {tr : DmaXfer} {l : List DmaXfer}

/-- The first transfer of a hive ends in error: its slot says so, it counts in DMAERR, and the event bit of its engine is set. -/
theorem Dev.dmaEnd_error (hq : (s.hive h).dmaQ = tr :: l) : s.dmaEnd h true =
    ((((s.onHive h (fun x => { x with dmaQ := l })).onEng tr.eng (fun x =>
      { x with dmaStat := SMap.set (fun _ => 0) x.dmaStat tr.slot 3 })).ePmu tr.eng 0x0F 8 1).inc F.HIV_DMAERR_COUNT h).setEvtBit
      (120 + h) F.HIV_EVT_DMAERR h (tr.eng % 8) := by
  simp only [Dev.dmaEnd, hq, if_true, Bool.false_eq_true, if_false]

/-- The first transfer of a hive ends with its data moved. -/
theorem Dev.dmaEnd_done (hq : (s.hive h).dmaQ = tr :: l)
    (hm : (s.onHive h (fun x => { x with dmaQ := l })).dmaMove tr = (d, true)) : s.dmaEnd h false =
    (d.onEng tr.eng (fun x => { x with dmaStat := SMap.set (fun _ => 0) x.dmaStat tr.slot 2 })).ePmu tr.eng 0x0F 8 1 := by
  simp only [Dev.dmaEnd, hq, hm, if_true, Bool.false_eq_true, if_false]

end

/-- Settles O32: a trigger is checked first (`Dev.portOp_runs`, `Dev.portOp_faults`); a transfer that passes takes a slot, or
finds none; the end goes by what the data's move says. -/
theorem hiveDmaActs : Obligations.HiveDmaActs := by
  unfold Obligations.HiveDmaActs
  intro s
  refine ⟨?get, ?getFull, ?getFaults, ?put, ?putFull, ?putFaults, ?stat, ?error, ?done⟩
  case get =>
    exact fun e c i t hw hc hr hf hok hi => exec_eDmaGet hw ((Dev.portOp_runs hc hr hf hok _).trans (Dev.dmaStart_queues hi))
  case getFull =>
    exact fun e c t hw hc hr hf hok hi => exec_eDmaGet hw ((Dev.portOp_runs hc hr hf hok _).trans (Dev.dmaStart_full hi))
  case getFaults =>
    exact fun e c cause info t hw hc hr hf hbad => exec_eDmaGet hw (Dev.portOp_faults hc hr hf hbad _)
  case put =>
    exact fun e c i t hw hc hr hf hok hi => exec_eDmaPut hw ((Dev.portOp_runs hc hr hf hok _).trans (Dev.dmaStart_queues hi))
  case putFull =>
    exact fun e c t hw hc hr hf hok hi => exec_eDmaPut hw ((Dev.portOp_runs hc hr hf hok _).trans (Dev.dmaStart_full hi))
  case putFaults =>
    exact fun e c cause info t hw hc hr hf hbad => exec_eDmaPut hw (Dev.portOp_faults hc hr hf hbad _)
  case stat => exact fun e c t hw hc hr hf => exec_unitOp_free (f := fun s c => s.dmaStatStart e c t) rfl hw hc hr hf
  case error =>
    exact fun h tr l hw hq => exec_eq (f := fun s => s.dmaEnd h true) rfl hw (Dev.dmaEnd_error hq)
  case done =>
    exact fun h tr l d hw hq hm => exec_eq (f := fun s => s.dmaEnd h false) rfl hw (Dev.dmaEnd_done hq hm)

end Sys2Proof.Machine
end

section
/-!
PROOFS. Writes in an engine's window and the events of its schedule (08 R209, R214, R215, R219, 09 R223, R239): what the
SVP's write of PE_CTL, of program memory and of PE_DBG does, how an armed engine starts, and where posts go.
-/

namespace Sys2Proof.Machine

/-! ## The SVP's write in an engine's window -/

/-- The SVP's write reaches the window of an engine whose hive is on, unless R371 fences it. -/
theorem Dev.engWrite_free {s : Dev} {rq : Req} {e : Nat} (hf : s.fenced rq = false) (hon : s.domOn (9 + e / 8) = true)
    (hsvp : rq.svp = true) (off : Nat) (f : Dev → Dev) : s.byFence rq (fun s => s.engWriteGate rq e off f) = f s :=
  (Dev.byFence_free hf _).trans (Dev.engWriteGate_admits hon hsvp off f)

section
variable {s : State} {rq : Req} {e : Nat} {v : Word} {d : Dev}

/-- PE_CTL_HALT of the SVP. -/
theorem exec_peCtlHalt_svp (hw : wellFormed (.peCtlHalt rq e v) = true) (hf : s.dev.fenced rq = false)
    (hon : s.dev.domOn (9 + e / 8) = true) (hsvp : rq.svp = true) :
    exec (.peCtlHalt rq e v) s = .next { s with dev := (s.dev.peCtlWrite e (v ||| 1)).ok 0 } :=
  exec_eq (f := fun s => s.byFence rq (fun s => s.engWriteGate rq e 0xC0004 (fun s => (s.peCtlWrite e (v ||| 1)).ok 0))) rfl hw
    (Dev.engWrite_free hf hon hsvp _ _)

/-- PE_CTL_RUN of the SVP. -/
theorem exec_peCtlRun_svp (hw : wellFormed (.peCtlRun rq e v) = true) (hf : s.dev.fenced rq = false)
    (hon : s.dev.domOn (9 + e / 8) = true) (hsvp : rq.svp = true) :
    exec (.peCtlRun rq e v) s = .next { s with dev := (s.dev.peCtlWrite e (v ||| 2)).ok 0 } :=
  exec_eq (f := fun s => s.byFence rq (fun s => s.engWriteGate rq e 0xC0004 (fun s => (s.peCtlWrite e (v ||| 2)).ok 0))) rfl hw
    (Dev.engWrite_free hf hon hsvp _ _)

/-- PE_DBG_RELEASE of the SVP. -/
theorem exec_peDbgRelease_svp (hw : wellFormed (.peDbgRelease rq e v) = true) (hf : s.dev.fenced rq = false)
    (hon : s.dev.domOn (9 + e / 8) = true) (hsvp : rq.svp = true) :
    exec (.peDbgRelease rq e v) s = .next { s with dev := (s.dev.peDbgWrite e v).ok 0 } :=
  exec_eq (f := fun s => s.byFence rq (fun s => s.engWriteGate rq e 0xC0038 (fun s => (s.peDbgWrite e v).ok 0))) rfl hw
    (Dev.engWrite_free hf hon hsvp _ _)

end

/-! ## PE_CTL (R215) -/

section
variable {s d : Dev} {e : Nat} {v : Word}

/-- A write of PE_CTL: ADMIT takes its bit, then HALT acts, then RUN. -/
theorem Dev.peCtlWrite_eq (s : Dev) (e : Nat) (v : Word) : s.peCtlWrite e v =
    ((s.fs F.PE_CTL_ADMIT e (b2n (v.getLsbD 2))).cond (v.getLsbD 0) (fun s => s.peHalt e)).cond (v.getLsbD 1)
      (fun s => s.peRun e) := rfl

/-- PE_CTL written with HALT and without RUN: ADMIT takes its bit, then HALT acts. -/
theorem Dev.peCtlWrite_halt (hd : d = s.fs F.PE_CTL_ADMIT e (b2n (v.getLsbD 2))) (hrun : v.getLsbD 1 = false) :
    s.peCtlWrite e (v ||| 1) = d.peHalt e := by
  have hadmit : (v ||| 1).getLsbD 2 = v.getLsbD 2 := by simp
  have hhalt : (v ||| 1).getLsbD 0 = true := by simp
  have hrun' : (v ||| 1).getLsbD 1 = false := by rw [BitVec.getLsbD_or, hrun]; rfl
  rw [Dev.peCtlWrite_eq, hadmit, hhalt, hrun', ← hd, Dev.cond_true, Dev.cond_false]

/-- PE_CTL written with RUN and without HALT: ADMIT takes its bit, then RUN acts. -/
theorem Dev.peCtlWrite_run (hd : d = s.fs F.PE_CTL_ADMIT e (b2n (v.getLsbD 2))) (hhalt : v.getLsbD 0 = false) :
    s.peCtlWrite e (v ||| 2) = d.peRun e := by
  have hadmit : (v ||| 2).getLsbD 2 = v.getLsbD 2 := by simp
  have hhalt' : (v ||| 2).getLsbD 0 = false := by rw [BitVec.getLsbD_or, hhalt]; rfl
  have hrun : (v ||| 2).getLsbD 1 = true := by simp
  rw [Dev.peCtlWrite_eq, hadmit, hhalt', hrun, ← hd, Dev.cond_false, Dev.cond_true]

/-- HALT stops a running engine. -/
theorem Dev.peHalt_running (h : s.running e = true) : s.peHalt e = s.stopEngine e 0 := if_pos h

/-- HALT drops the armed start of an engine that does not run. -/
theorem Dev.peHalt_idle (h : s.running e = false) : s.peHalt e = s.onEng e (fun x => { x with runArmed := false }) :=
  if_neg (by simp [h])

/-- RUN is ignored without ADMIT, and by a running engine. -/
theorem Dev.peRun_ignored (h : s.fg F.PE_CTL_ADMIT e = 0 ∨ s.running e = true) : s.peRun e = s := if_pos h

/-- RUN arms the start of an admitted engine that does not run, unless the start tick's instant has passed. -/
theorem Dev.peRun_takes (ha : s.fg F.PE_CTL_ADMIT e = 1) (hr : s.running e = false) : s.peRun e =
    (s.onEng e (fun x => { x with runArmed := !decide (tickAt s.F (s.runTick e) ≤ s.time.now), startTick := s.runTick e })).cond
      (decide (tickAt s.F (s.runTick e) ≤ s.time.now)) (fun s => s.fs F.PE_STAT_RUNLATE e 1) :=
  if_neg (by simp [ha, hr])

/-- RUN before the start tick arms the start. -/
theorem Dev.peRun_arms (ha : s.fg F.PE_CTL_ADMIT e = 1) (hr : s.running e = false)
    (ht : s.time.now < tickAt s.F (s.runTick e)) :
    s.peRun e = s.onEng e (fun x => { x with runArmed := true, startTick := s.runTick e }) := by
  rw [Dev.peRun_takes ha hr, decide_eq_false (Nat.not_le.mpr ht)]
  rfl

/-- RUN after the start tick is late and arms nothing. -/
theorem Dev.peRun_late (ha : s.fg F.PE_CTL_ADMIT e = 1) (hr : s.running e = false)
    (ht : tickAt s.F (s.runTick e) ≤ s.time.now) : s.peRun e =
      (s.onEng e (fun x => { x with runArmed := false, startTick := s.runTick e })).fs F.PE_STAT_RUNLATE e 1 := by
  rw [Dev.peRun_takes ha hr, decide_eq_true ht]
  rfl

end

/-! ## PE_DBG (R239) -/

/-- A held context that is released is ready, and its next issue fires no breakpoint. -/
theorem Dev.releaseCtx_held {s a d : Dev} {e c : Nat} (hh : (s.ectx e c).held = true)
    (ha : a = (s.ePmuClocks e).onCtx e c (fun k => { k with held := false, skipBrk := true, st := 1 }))
    (hd : d = a.fs F.PE_DBG_HELD e (setBit (a.fg F.PE_DBG_HELD e) c false)) : s.releaseCtx e c = d.schedEvent e d.clk := by
  subst hd ha
  exact if_pos hh

/-- PE_DBG written with one RELEASE bit, and BRKHIT left. -/
theorem Dev.peDbgWrite_one {s : Dev} {e c : Nat} {v : Word} (hc : onesBelow 8 (v.toNat / 256) = [c]) (hv : v.getLsbD 16 = false) :
    s.peDbgWrite e v = s.releaseCtx e c := by
  simp only [Dev.peDbgWrite, hc, hv, Dev.each_cons, Dev.each_nil, Dev.cond_false]

/-! ## HIV_MAIL (R219) -/

section
variable {s : Dev} {rq : Req} {h : Nat} {v : Word} (hon : s.domOn (9 + h) = true)
include hon

/-- A post of the SVP or of the hive's world is taken. -/
theorem Dev.hivMailWrite_posts (hrq : rq.port = 2 ∨ rq.world = s.hiveWorld h) :
    s.hivMailWrite rq h v = (s.postMail h (v.toNat % 256)).ok 0 := by
  have hmay : ¬ (rq.port ≠ 2 ∧ rq.world ≠ s.hiveWorld h) := fun ⟨hport, hworld⟩ => hrq.elim hport hworld
  simp only [Dev.hivMailWrite, hon, if_neg hmay, Bool.not_true, Bool.false_eq_true, if_false]

/-- A post of anyone else is refused. -/
theorem Dev.hivMailWrite_refuses (hport : rq.port ≠ 2) (hworld : rq.world ≠ s.hiveWorld h) :
    s.hivMailWrite rq h v = s.errResp 11 rq 0x01 (0x41000B000C + h * 0x100) (h * 0x100 + 0xC) := by
  simp only [Dev.hivMailWrite, hon, if_pos (And.intro hport hworld), Bool.not_true, Bool.false_eq_true, if_false]

end

/-- HIV_MAIL of a requester that R371 does not fence. -/
theorem exec_hivMail_free {s : State} {rq : Req} {h : Nat} {v : Word} {d : Dev} (hw : wellFormed (.hivMail rq h v) = true)
    (hf : s.dev.fenced rq = false) (hd : s.dev.hivMailWrite rq h v = d) : exec (.hivMail rq h v) s = .next { s with dev := d } :=
  exec_eq (f := fun s => s.byFence rq (fun s => s.hivMailWrite rq h v)) rfl hw ((Dev.byFence_free hf _).trans hd)

/-! ## The events of the schedule -/

/-- ENGINE_START of an armed engine. -/
theorem exec_engineStart_armed {s : State} {e : Nat} (hw : wellFormed (.engineStart e) = true)
    (ha : (s.dev.eng e).runArmed = true) : exec (.engineStart e) s = .next { s with dev := s.dev.engineStartNow e } :=
  exec_eq (f := fun s => if (s.eng e).runArmed then s.engineStartNow e else s) rfl hw (if_pos ha)

/-- HIVE_MAIL of an engine with a post under way. -/
theorem exec_hiveMail_arrives {s : State} {e k : Nat} {l : List Nat} (hw : wellFormed (.hiveMail e) = true)
    (hk : (s.dev.eng e).mailAt = k :: l) : exec (.hiveMail e) s = .next { s with
      dev := ((s.dev.moveClk k).onEng e (fun x => { x with mailAt := l })).engMail e (max k s.dev.clk) } := by
  show execHiveMail e s = _
  exact run_eq s hw (by simp only [hk])

/-! ## The obligations -/

/-- Settles O34: a write of PE_CTL is its HALT or its RUN on the module with ADMIT written (`Dev.peCtlWrite_halt`,
`Dev.peCtlWrite_run`); each other clause is its command's rule. -/
theorem engineControlActs : Obligations.EngineControlActs := by
  unfold Obligations.EngineControlActs
  intro s
  refine ⟨?halt, ?drop, ?arm, ?late, ?ignored, ?start, ?mail, ?post, ?refused, ?release⟩
  case halt =>
    intro rq e v d hw hon hsvp hd hv hr hf
    rw [exec_peCtlHalt_svp hw hf hon hsvp, Dev.peCtlWrite_halt hd hv, Dev.peHalt_running hr]
  case drop =>
    intro rq e v d hw hon hsvp hd hv hr hf
    rw [exec_peCtlHalt_svp hw hf hon hsvp, Dev.peCtlWrite_halt hd hv, Dev.peHalt_idle hr]
  case arm =>
    intro rq e v d hw hon hsvp hd hv ha hr ht hf
    rw [exec_peCtlRun_svp hw hf hon hsvp, Dev.peCtlWrite_run hd hv, Dev.peRun_arms ha hr ht]
  case late =>
    intro rq e v d hw hon hsvp hd hv ha hr ht hf
    rw [exec_peCtlRun_svp hw hf hon hsvp, Dev.peCtlWrite_run hd hv, Dev.peRun_late ha hr ht]
  case ignored =>
    intro rq e v d hw hon hsvp hd hv h hf
    rw [exec_peCtlRun_svp hw hf hon hsvp, Dev.peCtlWrite_run hd hv, Dev.peRun_ignored h]
  case start => exact fun e hw ha => exec_engineStart_armed hw ha
  case mail => exact fun e k l hw hk => exec_hiveMail_arrives hw hk
  case post => exact fun rq h v hw hon hrq hf => exec_hivMail_free hw hf (Dev.hivMailWrite_posts hon hrq)
  case refused =>
    exact fun rq h v hw hon hp hworld hf => exec_hivMail_free hw hf (Dev.hivMailWrite_refuses hon hp hworld)
  case release =>
    intro rq e c v hw hon hsvp hc hv hh hf
    rw [exec_peDbgRelease_svp hw hf hon hsvp, Dev.peDbgWrite_one hc hv, Dev.releaseCtx_held hh rfl rfl]

/-- PROGRAM_MEMORY_WRITE of the SVP, inside the memory and of a width that suits it: accepted unless the engine runs. -/
theorem exec_programMemoryWrite_svp {s : State} {rq : Req} {e off size : Nat} {data : BitVec 128}
    (hw : wellFormed (.programMemoryWrite rq e off size data) = true) (hf : s.dev.fenced rq = false)
    (hon : s.dev.domOn (9 + e / 8) = true) (hsvp : rq.svp = true) (hoff : off < 0x20000) (hsize : wordWidth off size = true) :
    exec (.programMemoryWrite rq e off size data) s = .next { s with
      dev := if s.dev.running e then s.dev.errResp 11 rq 0x01 (engAddr e off) off
        else ((s.dev.fs F.PE_CTL_ADMIT e 0).onEng e (fun x => x.setProg off size data.toNat)).ok 0 } := by
  refine exec_eq (f := fun s => s.byFence rq (fun s => s.progWrite rq e off size data.toNat)) rfl hw
    ((Dev.engWrite_free hf hon hsvp off _).trans ?_)
  rw [if_neg (Nat.not_le.mpr hoff), hsize]
  rfl

/-- Settles O35: an accepted write goes by whether the engine runs; RUN finds the ADMIT that its own write cleared. -/
theorem programMemoryWriteRule : Obligations.ProgramMemoryWriteRule := by
  unfold Obligations.ProgramMemoryWriteRule
  intro s
  refine ⟨?accepted, ?refused, ?run⟩
  case accepted =>
    intro rq e off size data hw hon hsvp hoff hsize hr hf
    rw [exec_programMemoryWrite_svp hw hf hon hsvp hoff hsize, if_neg (by simp [hr])]
  case refused =>
    intro rq e off size data hw hon hsvp hoff hsize hr hf
    rw [exec_programMemoryWrite_svp hw hf hon hsvp hoff hsize, if_pos hr]
    rfl
  case run =>
    intro rq e v hw hon hsvp hhalt hadmit hf
    have hd : s.dev.fs F.PE_CTL_ADMIT e 0 = s.dev.fs F.PE_CTL_ADMIT e (b2n (v.getLsbD 2)) := by rw [hadmit]; rfl
    have hclear : (s.dev.fs F.PE_CTL_ADMIT e 0).fg F.PE_CTL_ADMIT e = 0 := Dev.fg_fs_self _ _ _ _ (by decide)
    rw [exec_peCtlRun_svp hw hf hon hsvp, Dev.peCtlWrite_run hd hhalt, Dev.peRun_ignored (.inl hclear)]

end Sys2Proof.Machine
end

section
/-!
PROOFS. Settings banks (10 R243, R244, R247, R249): a write that arms a pour group, writes of the shadow view, and SET_VALID.
-/

namespace Sys2Proof.Machine

/-! ## Arming a group (R249) -/

section
variable {s : Dev} {c : Nat} {v : Word}

/-- A write with ARM that clears none of LATE, INVAL and DONE arms the group and does no more. -/
theorem Dev.pgCtlWrite_arm (hlate : v.getLsbD 1 = false) (hinval : v.getLsbD 2 = false) (hdone : v.getLsbD 3 = false) :
    s.pgCtlWrite c (v ||| 1) = s.pgArm c := by
  have harm : (v ||| 1).getLsbD 0 = true := by simp
  have hlate' : (v ||| 1).getLsbD 1 = false := by rw [BitVec.getLsbD_or, hlate]; rfl
  have hinval' : (v ||| 1).getLsbD 2 = false := by rw [BitVec.getLsbD_or, hinval]; rfl
  have hdone' : (v ||| 1).getLsbD 3 = false := by rw [BitVec.getLsbD_or, hdone]; rfl
  simp only [Dev.pgCtlWrite, harm, hlate', hinval', hdone', Dev.cond_false, if_true]

/-- The timebase has not reached the group's tick. -/
theorem Dev.pgArm_early (h : s.time.now < tickAt s.F (s.pgTick c)) : s.pgArm c = s.fs F.SET_PG_CTL_ARM c 1 :=
  if_neg (Nat.not_le.2 h)

/-- It has: the group is late. -/
theorem Dev.pgArm_late (h : tickAt s.F (s.pgTick c) ≤ s.time.now) :
    s.pgArm c = ((s.fs F.SET_PG_CTL_ARM c 0).fs F.SET_PG_CTL_LATE c 1).setEvtBit 128 F.SET_EVT_FAIL 0 c := if_pos h

end

/-- SET_PG_ARM of the SVP, with the other bits of the write 0. -/
theorem exec_setPgArm_svp {s : State} {rq : Req} {g : Nat} {v : Word} {d : Dev} (hw : wellFormed (.setPgArm rq g v) = true)
    (hr : s.dev.reaches rq 17 = true) (hsvp : rq.svp = true) (hlate : v.getLsbD 1 = false) (hinval : v.getLsbD 2 = false)
    (hdone : v.getLsbD 3 = false) (hd : s.dev.pgArm g = d) : exec (.setPgArm rq g v) s = .next { s with dev := d.ok 0 } := by
  show execSetPgArm rq g v s = _
  exact run_eq s hw (by rw [hsvp, Dev.gate_admits hr, Dev.pgCtlWrite_arm hlate hinval hdone, hd])

/-! ## The shadow view (R243, R244, R247) -/

section
variable {s : Dev} {rq : Req} {e off size : Nat} (hon : s.domOn (9 + e / 8) = true) (hoff : off < 0x4000)
  (hsize : wordWidth off size = true)
include hon hoff hsize

/-- A write inside the view of an engine whose hive is on, of a width that suits it, goes by its requester and OLDUSE. -/
theorem Dev.shadowWrite_inside (v : Nat) : s.shadowWrite rq e off size v =
    if !rq.svp || s.oldUse e then s.errResp 12 rq 0x01 (engAddr e (0x80000 + off)) (0x80000 + off)
    else ((s.fs F.SET_ESTAT_SHVALID e 0).onEng e
      (fun x => x.setBankBytes (1 - s.fg F.SET_ESTAT_ACTIVE e) off size v)).ok 0 := by
  have hin : ¬ bankBytes ≤ off := Nat.not_le.2 hoff
  rw [Dev.shadowWrite, hon, if_neg hin, hsize]
  rfl

/-- The SVP's, while no context reads the bank. -/
theorem Dev.shadowWrite_svp (hsvp : rq.svp = true) (hold : s.oldUse e = false) (v : Nat) : s.shadowWrite rq e off size v =
    ((s.fs F.SET_ESTAT_SHVALID e 0).onEng e
      (fun x => x.setBankBytes (1 - s.fg F.SET_ESTAT_ACTIVE e) off size v)).ok 0 := by
  rw [Dev.shadowWrite_inside hon hoff hsize, hsvp, hold]
  rfl

/-- Another requester's, or one while OLDUSE is 1. -/
theorem Dev.shadowWrite_refused (h : rq.svp = false ∨ s.oldUse e = true) (v : Nat) : s.shadowWrite rq e off size v =
    s.errResp 12 rq 0x01 (engAddr e (0x80000 + off)) (0x80000 + off) := by
  rw [Dev.shadowWrite_inside hon hoff hsize, if_pos (by simpa using h)]

end

/-- SHADOW_BANK_WRITE of a requester that is not fenced. -/
theorem exec_shadowBankWrite_free {s : State} {rq : Req} {e off size : Nat} {data : DWord} {d : Dev}
    (hw : wellFormed (.shadowBankWrite rq e off size data) = true) (hf : s.dev.fenced rq = false)
    (hd : s.dev.shadowWrite rq e off size data.toNat = d) :
    exec (.shadowBankWrite rq e off size data) s = .next { s with dev := d } := by
  show execShadowBankWrite rq e off size data s = _
  exact run_eq s hw ((Dev.byFence_free hf _).trans hd)

/-- SET_VALID of the SVP. -/
theorem exec_setValid_svp {s : State} {rq : Req} {half : Nat} {v : Word} (hw : wellFormed (.setValid rq half v) = true)
    (hr : s.dev.reaches rq 17 = true) (hsvp : rq.svp = true) :
    exec (.setValid rq half v) s = .next { s with dev := (s.dev.setValidWrite half v).ok 0 } := by
  show execSetValid rq half v s = _
  exact run_eq s hw (by rw [hsvp, Dev.gate_admits hr])

/-- Settles O36: an arming write goes by the timebase, a write of the shadow view by its requester and OLDUSE, and SET_VALID
is the SVP's. -/
theorem settingsRegistersAct : Obligations.SettingsRegistersAct := by
  unfold Obligations.SettingsRegistersAct
  intro s
  refine ⟨?arms, ?late, ?shadow, ?refused, ?valid⟩
  case arms =>
    exact fun rq g v hw hr hsvp hlate hinval hdone ht =>
      exec_setPgArm_svp hw hr hsvp hlate hinval hdone (Dev.pgArm_early ht)
  case late =>
    exact fun rq g v hw hr hsvp hlate hinval hdone ht =>
      exec_setPgArm_svp hw hr hsvp hlate hinval hdone (Dev.pgArm_late ht)
  case shadow =>
    exact fun rq e off size data hw hon hsvp hoff hsize hold hf =>
      exec_shadowBankWrite_free hw hf (Dev.shadowWrite_svp hon hoff hsize hsvp hold _)
  case refused =>
    exact fun rq e off size data hw hon h hoff hsize hf =>
      exec_shadowBankWrite_free hw hf (Dev.shadowWrite_refused hon hoff hsize h _)
  case valid => exact fun rq half v => exec_setValid_svp

end Sys2Proof.Machine
end

section
/-!
PROOFS. The trip gate's publish point, GOOSE retransmissions and the journal (10 R252, R262, R266 to R271, R490): flushes, LOST
records, the scrub, reads of the MRAM window, and the start and end of a capture.
-/

namespace Sys2Proof.Machine

/-! ## The publish point (R252) -/

/-- With no map waiting, the map in force stands. -/
theorem Dev.mapApply_none {s : Dev} (h : s.trg.mapNext = none) : s.mapApply = s := by rw [Dev.mapApply, h]

/-- The blocks that have a member mapped to a pair of list l. -/
def Dev.blocksOf (s : Dev) (l : List Nat) : List Nat :=
  (List.range 128).filter (fun i => s.trg.map.any (fun w => l.contains (tmPair w) && decide (tmKind w = 0) && decide (tmBlock w = i)))

/-- The links that have an output mapped to a pair of list l. -/
def Dev.linksOf (s : Dev) (l : List Nat) : List Nat :=
  (List.range 4).filter (fun i => s.trg.map.any (fun w => l.contains (tmPair w) && decide (tmKind w = 1) && decide (tmLink w = i)))

/-- The pairs of list l take their voter changes, decide if they are enabled, and have their events taken. -/
def Dev.pairsDecide (s : Dev) (l : List Nat) : Dev :=
  let v := s.each l Dev.soloApply
  let a := v.each (l.filter (fun j => decide (v.fg F.TRG_PCFG_EN j = 1))) Dev.decide1
  a.each l (fun d j => (d.takeEvents (2 * j)).takeEvents (2 * j + 1))

/-- The blocks and the links mapped to the pairs of list l are brought up to date at x. -/
def Dev.pairsPublish (s : Dev) (x : Nat) (l : List Nat) : Dev :=
  let c := s.each (s.blocksOf l) (fun d i => d.pubRecompute x i)
  c.each (c.linksOf l) (fun d i => d.linkOutput x i)

/-- A due publish point with no map waiting: the pairs of its clock decide, and what is mapped to them is published. -/
theorem Dev.publishPoint_due {s d : Dev} {k : Nat} (hp : s.pointDue k = true) (hm : s.trg.mapNext = none)
    (hd : d = s.moveTo (s.pairPoint k)) :
    s.publishPoint k = (d.pairsDecide (d.pointPairs k)).pairsPublish (s.pairPoint k) (d.pointPairs k) := by
  have hm' : d.trg.mapNext = none := by rw [hd, Dev.trg_moveTo, hm]
  simp only [Dev.publishPoint, hp, ← hd, hm', Dev.mapApply_none hm', Bool.false_or]
  rfl

/-- PUBLISH_POINT. -/
theorem exec_publishPoint {s : State} {k : Nat} {d : Dev} (hw : wellFormed (.publishPoint k) = true)
    (hd : s.dev.publishPoint k = d) : exec (.publishPoint k) s = .next { s with dev := d } := by
  show execPublishPoint k s = _
  exact run_eq s hw hd

/-! ## Retransmission (R262) -/

/-- An enabled block with a next frame retransmits at its time while PD17 is on. -/
theorem exec_gooseRetransmission_enabled {s : State} {b x : Nat} (hw : wellFormed (.gooseRetransmission b) = true)
    (hx : (s.dev.pblk b).next = some x) (hen : s.dev.fg F.PUB_CFG_EN b = 1) (hon : s.dev.domOn 17 = true) {d : Dev}
    (hd : d = s.dev.moveTo x) :
    exec (.gooseRetransmission b) s = .next { s with dev :=
      (let iv := min (2 * (d.pblk b).interval) (max (d.tmax b) (d.tmin b))
       ((d.wr .PUB_SQNUM b (BitVec.ofNat 32 (nextNum (d.rd .PUB_SQNUM b).toNat))).onPub b
         (fun p => { p with interval := iv, next := some (x + iv) })).pubSend b 3) } := by
  subst hd
  show execGooseRetransmission b s = _
  refine run_eq s hw ?_
  have hlive : ¬ (s.dev.fg F.PUB_CFG_EN b = 0 ∨ (!s.dev.domOn 17) = true) := by simp [hen, hon]
  rw [Dev.pubRetransmit, hx]
  exact if_neg hlive

/-! ## Flush and LOST records (R268, R490) -/

section
variable {s : State} (h32 : s.dev.domOn 32 = true)
include h32

/-- JOURNAL_FLUSH with PD32 on. -/
theorem exec_journalFlush_on : exec .journalFlush s = .next { s with dev := s.dev.jrnFlushEvent } := by
  show execJournalFlush s = _
  exact run_eq s rfl (if_pos h32)

/-- LOST_RECORD with PD32 on: the Open partition's record, then the Sealed one's. -/
theorem exec_lostRecord_on {d e : Dev} (ho : s.dev.lostRecord 0 = d) (hs : d.lostRecord 1 = e) :
    exec .lostRecord s = .next { s with dev := e } := by
  show execLostRecord s = _
  exact run_eq s rfl ((if_pos h32).trans (by rw [ho, hs]))

/-- MRAM_SCRUB with PD32 on. -/
theorem exec_mramScrub_on {flips : Nat} (hw : wellFormed (.mramScrub flips) = true) :
    exec (.mramScrub flips) s = .next { s with dev := s.dev.mramScrubWord flips } := by
  show execMramScrub flips s = _
  exact run_eq s hw (if_pos h32)

end

section
variable {s : Dev}

/-- 64 KiB of staged records are flushed at once. -/
theorem Dev.jrnFlushEvent_full {r : JRec} {l : List JRec} (hl : s.jrn.staged = r :: l) (hn : 1024 ≤ s.jrn.staged.length) :
    s.jrnFlushEvent = s.jrnFlush := by
  rw [hl] at hn
  rw [Dev.jrnFlushEvent, hl]
  exact congrArg Dev.jrnFlush (if_pos hn)

/-- Fewer are flushed when the oldest has waited its time. -/
theorem Dev.jrnFlushEvent_aged {r : JRec} {l : List JRec} (hl : s.jrn.staged = r :: l) (hn : s.jrn.staged.length < 1024) :
    s.jrnFlushEvent = (s.moveTo (r.time + s.flushNs)).jrnFlush := by
  rw [hl] at hn
  rw [Dev.jrnFlushEvent, hl]
  exact congrArg Dev.jrnFlush (if_neg (Nat.not_le.2 hn))

/-- An Open partition that has lost no record gets no LOST record. -/
theorem Dev.lostRecord_open_none (h : s.jrn.lostO = 0) : s.lostRecord 0 = s := if_pos (.inl h)

/-- Nor does such a Sealed partition. -/
theorem Dev.lostRecord_sealed_none (h : s.jrn.lostS = 0) : s.lostRecord 1 = s := if_pos (.inl h)

variable (hroom : s.jrnRoom 1 = true)
include hroom

/-- With room, lost records of the Open partition are told and their count cleared. -/
theorem Dev.lostRecord_open (h : s.jrn.lostO ≠ 0) {d : Dev}
    (hd : d = s.jrnAccept 0x0052 0 0 s.time.now (leBytes 4 s.jrn.lostO)) :
    s.lostRecord 0 = { d with jrn := { d.jrn with lostO := 0 } } := by
  subst hd
  exact if_neg (by simp [h, hroom])

/-- With room, lost records of the Sealed partition are told and their count cleared. -/
theorem Dev.lostRecord_sealed (h : s.jrn.lostS ≠ 0) {d : Dev}
    (hd : d = s.jrnAccept 0x0052 0 1 s.time.now (leBytes 4 s.jrn.lostS)) :
    s.lostRecord 1 = { d with jrn := { d.jrn with lostS := 0 } } := by
  subst hd
  exact if_neg (by simp [h, hroom])

end

/-! ## The scrub (R269) -/

section
variable {s : Dev} (hlast : s.jrn.scrubAt + 1 < mramWords)
include hlast

/-- A word without a flip passes. -/
theorem Dev.mramScrubWord_clean (hue : s.jrn.scrubAt ∉ s.jrn.ueWords) : s.mramScrubWord 0 =
    Dev.fs { s with jrn := { s.jrn with scrubAt := s.jrn.scrubAt + 1 } } F.JRN_STAT_SCRUB 0 1 := by
  have hgood : ¬ (2 ≤ 0 ∨ s.jrn.scrubAt ∈ s.jrn.ueWords) := by simp [hue]
  rw [Dev.mramScrubWord, if_neg Nat.zero_ne_one, if_neg hgood]
  exact if_pos hlast

/-- A word with one flip is corrected and counted. -/
theorem Dev.mramScrubWord_corrected {d : Dev} (hd : d = (s.errCe 15).setEvt 131 F.JRN_EVT_ECC 0) : s.mramScrubWord 1 =
    Dev.fs { d with jrn := { d.jrn with scrubAt := s.jrn.scrubAt + 1 } } F.JRN_STAT_SCRUB 0 1 := by
  subst hd
  exact if_pos hlast

/-- A word with two flips is marked and reported. -/
theorem Dev.mramScrubWord_marks (hue : s.jrn.scrubAt ∉ s.jrn.ueWords) {d : Dev}
    (hd : d = Dev.mramUe { s with jrn := { s.jrn with ueWords := s.jrn.ueWords ++ [s.jrn.scrubAt] } } none
      (8 * s.jrn.scrubAt) 0) : s.mramScrubWord 2 =
    Dev.fs { d with jrn := { d.jrn with scrubAt := s.jrn.scrubAt + 1 } } F.JRN_STAT_SCRUB 0 1 := by
  have hbad : 2 ≤ 2 ∨ s.jrn.scrubAt ∈ s.jrn.ueWords := .inl (Nat.le_refl 2)
  subst hd
  rw [Dev.mramScrubWord, if_neg (Nat.succ_ne_self 1), if_pos hbad, if_neg hue]
  exact if_pos hlast

end

/-! ## The MRAM window (R59, R266, R268, R269) -/

section
variable {s : Dev} {rq : Req} {off size : Nat}
variable (h32 : s.domOn 32 = true) (hsz : size = 4 ∨ size = 8) (hal : off % size = 0)
include h32 hsz hal

/-- An aligned read of 4 or 8 bytes with PD32 on passes the checks of the domain and of the width. -/
theorem Dev.mramRead_aligned : s.mramRead rq off size =
    if !s.mramMay rq.world off then s.errResp 15 rq 0x05 (0x4400000000 + off) 0
    else if !s.mramStaged off && s.mramBad off then s.mramUe (some rq) off 0
    else if !s.mramStaged off && s.mramTag off then s.mramUe (some rq) off 1
    else s.ok (leNat ((List.range size).map (fun i => s.mramByte (off + i)))) := by
  have hwidth : ¬ ((size ≠ 4 ∧ size ≠ 8) ∨ off % size ≠ 0) := by omega
  rw [Dev.mramRead, h32, if_neg (by decide), if_neg hwidth]

/-- A world that may not read. -/
theorem Dev.mramRead_otherWorld (hmay : s.mramMay rq.world off = false) :
    s.mramRead rq off size = s.errResp 15 rq 0x05 (0x4400000000 + off) 0 := by
  rw [Dev.mramRead_aligned h32 hsz hal, hmay]
  rfl

variable (hmay : s.mramMay rq.world off = true)
include hmay

/-- A staged record, or a good word of MRAM, is read. -/
theorem Dev.mramRead_bytes (h : s.mramStaged off = true ∨ (s.mramBad off = false ∧ s.mramTag off = false)) :
    s.mramRead rq off size = s.ok (leNat ((List.range size).map (fun i => s.mramByte (off + i)))) := by
  have hbad : (!s.mramStaged off && s.mramBad off) = false := by rcases h with h | ⟨h, _⟩ <;> simp [h]
  have htag : (!s.mramStaged off && s.mramTag off) = false := by rcases h with h | ⟨_, h⟩ <;> simp [h]
  rw [Dev.mramRead_aligned h32 hsz hal, hmay, hbad, htag]
  rfl

variable (hst : s.mramStaged off = false)
include hst

/-- An uncorrectable word. -/
theorem Dev.mramRead_uncorrectable (hbad : s.mramBad off = true) :
    s.mramRead rq off size = (s.setEvt 131 F.JRN_EVT_UE 0).errResp 15 rq 0x09 (0x4400000000 + off) 0 := by
  rw [Dev.mramRead_aligned h32 hsz hal, hmay, hst, hbad]
  rfl

/-- A sealed message whose tag fails. -/
theorem Dev.mramRead_tagFails (hbad : s.mramBad off = false) (htag : s.mramTag off = true) :
    s.mramRead rq off size = (s.setEvt 131 F.JRN_EVT_UE 0).errResp 15 rq 0x09 (0x4400000000 + off) 1 := by
  rw [Dev.mramRead_aligned h32 hsz hal, hmay, hst, hbad, htag]
  rfl

end

/-- JOURNAL_WINDOW_READ of a requester that is not fenced. -/
theorem exec_journalWindowRead_free {s : State} {rq : Req} {off size : Nat} {d : Dev}
    (hw : wellFormed (.journalWindowRead rq off size) = true) (hf : s.dev.fenced rq = false)
    (hd : s.dev.mramRead rq off size = d) : exec (.journalWindowRead rq off size) s = .next { s with dev := d } := by
  show execJournalWindowRead rq off size s = _
  exact run_eq s hw ((Dev.byFence_free hf _).trans hd)

/-! ## Captures (R270, R271) -/

section
variable {s : State} {i : Nat} {c : Capture}

/-- A capture whose tick has come starts with the rows presented before. -/
theorem exec_disturbanceCaptureStart_due {e : Capture} {d : Dev}
    (hc : s.dev.findCap (fun c => decide (c.st = 0) && decide (c.startTick ≤ s.dev.tickNo)) = some (i, c))
    (hd : s.dev.capRows { c with st := 1, firstTick := c.startTick - s.dev.cmbL - (c.pre - 1) } c.rows = (d, e)) :
    exec .disturbanceCaptureStart s = .next { s with dev := d.setCap i e } := by
  have hrows : Capture.rows { c with st := 1, firstTick := c.startTick - s.dev.cmbL - (c.pre - 1) } = c.rows := rfl
  show execDisturbanceCaptureStart s = _
  refine run_eq s rfl ?_
  simp only [Dev.capStart, hc, hrows, hd]

/-- A capture whose rows are all copied ends. -/
theorem exec_disturbanceCaptureEnd_copied
    (hc : s.dev.findCap (fun c => decide (c.st = 1) && decide (c.rowsDone = c.rows)) = some (i, c)) :
    exec .disturbanceCaptureEnd s = .next { s with dev := s.dev.capFinish i c } := by
  show execDisturbanceCaptureEnd s = _
  refine run_eq s rfl ?_
  rw [Dev.capEnd, hc]

end

/-- Settles O37: each clause is its row's rule in the state named; a read of the MRAM window goes by the first check that fails. -/
theorem gateAndJournalEventsAct : Obligations.GateAndJournalEventsAct := by
  unfold Obligations.GateAndJournalEventsAct
  intro s
  refine ⟨?publish, fun b x d => ?retransmits, ?flushFull, ?flushAged, ?lostSealed, ?lostOpen, ?scrubClean, ?scrubCorrects,
    ?scrubMarks, ?bytes, ?otherWorld, ?uncorrectable, ?tagFails, fun i c e d => exec_disturbanceCaptureStart_due,
    fun i c => exec_disturbanceCaptureEnd_copied⟩
  case publish =>
    intro k d v a b c l hw hp hm hd hl hv ha hb hc
    subst hl hv ha hb hc
    exact exec_publishPoint hw (Dev.publishPoint_due hp hm hd)
  case retransmits => exact fun hw hx hen hon => exec_gooseRetransmission_enabled hw hx hen hon
  case flushFull =>
    intro r l h32 hl hn
    rw [exec_journalFlush_on h32, Dev.jrnFlushEvent_full hl hn]
  case flushAged =>
    intro r l h32 hl hn
    rw [exec_journalFlush_on h32, Dev.jrnFlushEvent_aged hl hn]
  case lostSealed =>
    rintro n h32 ho rfl hn hroom
    exact exec_lostRecord_on h32 (Dev.lostRecord_open_none ho) (Dev.lostRecord_sealed hroom hn rfl)
  case lostOpen =>
    rintro n d h32 rfl hn hroom hd hs
    exact exec_lostRecord_on h32 (Dev.lostRecord_open hroom hn hd) (Dev.lostRecord_sealed_none hs)
  case scrubClean =>
    intro hw h32 hlast hue
    rw [exec_mramScrub_on h32 hw, Dev.mramScrubWord_clean hlast hue]
  case scrubCorrects =>
    intro d hw h32 hlast hd
    rw [exec_mramScrub_on h32 hw, Dev.mramScrubWord_corrected hlast hd]
  case scrubMarks =>
    intro d hw h32 hlast hue hd
    rw [exec_mramScrub_on h32 hw, Dev.mramScrubWord_marks hlast hue hd]
  case bytes =>
    exact fun rq off size hw h32 hsz hal hmay h hf =>
      exec_journalWindowRead_free hw hf (Dev.mramRead_bytes h32 hsz hal hmay h)
  case otherWorld =>
    exact fun rq off size hw h32 hsz hal hmay hf =>
      exec_journalWindowRead_free hw hf (Dev.mramRead_otherWorld h32 hsz hal hmay)
  case uncorrectable =>
    exact fun rq off size hw h32 hsz hal hmay hst hbad hf =>
      exec_journalWindowRead_free hw hf (Dev.mramRead_uncorrectable h32 hsz hal hmay hst hbad)
  case tagFails =>
    exact fun rq off size hw h32 hsz hal hmay hst hbad htag hf =>
      exec_journalWindowRead_free hw hf (Dev.mramRead_tagFails h32 hsz hal hmay hst hbad htag)

end Sys2Proof.Machine
end

section
/-!
PROOFS. The Ethernet ports (15 R399 to R408, 10 R263): where a received frame goes, the frame that a free port starts, host
frames and their return, link status, ring tails, duplicate entries, supervision frames and PTP intervals.
-/

namespace Sys2Proof.Machine

/-! ## Reception (R400) -/

section
variable {s d : Dev} {p : Nat} {f : EthFrame}

/-- A port that is off receives nothing. -/
theorem Dev.ethReceive_off (hp : s.portOn p = false) : s.ethReceive p f = s := by
  rw [Dev.ethReceive, hp]
  rfl

variable (hp : s.portOn p = true)
include hp

/-- A sampled-value frame goes to ingest. -/
theorem Dev.ethReceive_sv {g : SvFrame} (hk : f.payload = .sv g) :
    s.ethReceive p f = s.svArrive p { g with hdr := f.hdr } f.octets := by
  simp [Dev.ethReceive, hp, hk]

/-- A GOOSE frame goes to ingest. -/
theorem Dev.ethReceive_goose {g : GooseFrame} (hk : f.payload = .goose g) :
    s.ethReceive p f = s.gooseArrive p { g with hdr := f.hdr } f.octets := by
  simp [Dev.ethReceive, hp, hk]

/-- A PTP frame that passes the port's checks goes to firmware. -/
theorem Dev.ethReceive_ptp {m : PtpMsg} (hk : f.payload = .ptp m) (hc : s.rxCheck p f.hdr f.octets true = (d, .take)) :
    s.ethReceive p f = d.ptpArrive p f.hdr.len m := by
  simp [Dev.ethReceive, hp, hk, hc]

/-- A pause frame that passes them is counted. -/
theorem Dev.ethReceive_pause (hk : f.payload = .pause) (hc : s.rxCheck p f.hdr f.octets true = (d, .take)) :
    s.ethReceive p f = d.inc F.ETH_RXPAUSE_COUNT p := by
  simp [Dev.ethReceive, hp, hk, hc]

/-- A supervision frame is taken by the verdict of the port's checks, and counted when it is a first copy. -/
theorem Dev.ethReceive_supervision {c : RxCheck} (hk : f.payload = .supervision)
    (hc : s.rxCheck p f.hdr f.octets false = (d, c)) :
    s.ethReceive p f = d.portTake p f.hdr f.octets c (fun s => s.inc F.ETH_SUPRX_COUNT p) := by
  simp [Dev.ethReceive, hp, hk, hc]

/-- Any other frame is taken by that verdict, and goes to the host path when it is a first copy. -/
theorem Dev.ethReceive_other {ty : Nat} {c : RxCheck} (hk : f.payload = .other ty)
    (hc : s.rxCheck p f.hdr f.octets false = (d, c)) :
    s.ethReceive p f = d.portTake p f.hdr f.octets c (fun s => s.hostOrFilt p f.hdr f.octets) := by
  simp [Dev.ethReceive, hp, hk, hc]

/-- A duplicate of either kind is only offered to the other port of an HSR ring. -/
theorem Dev.ethReceive_dup {ty : Nat} (hk : f.payload = .other ty ∨ f.payload = .supervision)
    (hc : s.rxCheck p f.hdr f.octets false = (d, .dup)) : s.ethReceive p f = d.hsrOffer p f.hdr f.octets := by
  rcases hk with hk | hk
  · exact Dev.ethReceive_other hp hk hc
  · exact Dev.ethReceive_supervision hp hk hc

/-- A frame of either kind that the checks drop leaves what they counted. -/
theorem Dev.ethReceive_drop {ty : Nat} (hk : f.payload = .other ty ∨ f.payload = .supervision)
    (hc : s.rxCheck p f.hdr f.octets false = (d, .drop)) : s.ethReceive p f = d := by
  rcases hk with hk | hk
  · exact Dev.ethReceive_other hp hk hc
  · exact Dev.ethReceive_supervision hp hk hc

end

/-- ETH_RECEIVE. -/
theorem exec_ethReceive {s : State} {p : Nat} {f : EthFrame} {d : Dev} (hw : wellFormed (.ethReceive p f) = true)
    (hd : s.dev.ethReceive p f = d) : exec (.ethReceive p f) s = .next { s with dev := d } := by
  show execEthReceive p f s = _
  exact run_eq s hw hd

/-! ## The frame that a free port starts (R401) -/

section
variable {s : Dev} {p : Nat} {only : TxPick → Bool}

/-- A port that is off or sending, or that no frame waits for, starts none. -/
theorem Dev.transmit_none (h : s.portOn p = false ∨ (s.port p).tx.isSome = true ∨ s.txPick p = none) :
    s.transmit p only = s := by
  unfold Dev.transmit
  rcases h with h | h | h <;> simp [h]

/-- Nor does one whose first frame is not admitted. -/
theorem Dev.transmit_other (h : ∀ c, s.txPick p = some c → only c = false) : s.transmit p only = s := by
  unfold Dev.transmit
  split
  · rfl
  · split
    next c hc => rw [h c hc]; rfl
    next => rfl

variable (hp : s.portOn p = true) (hfree : (s.port p).tx = none)
include hp hfree

/-- A free port takes the frame of highest rank if it is admitted. -/
theorem Dev.transmit_takes {c : TxPick} (hc : s.txPick p = some c) (honly : only c = true) :
    s.transmit p only = s.txTake p c := by
  simp [Dev.transmit, hp, hfree, hc, honly]

end

section
variable {s : Dev} {p i : Nat} {f : TxFrame}

/-- A publisher frame leaves its queue and is started. -/
theorem Dev.txTake_pub (hf : (s.port p).pubq[i]? = some f) :
    s.txTake p (.pub i) = (s.onPort p (fun x => { x with pubq := dropAt x.pubq i })).txStart p f := by
  simp only [Dev.txTake, hf]

/-- A firmware frame leaves its queue and is started. -/
theorem Dev.txTake_fw (hf : (s.port p).fwq[i]? = some f) :
    s.txTake p (.fw i) = (s.onPort p (fun x => { x with fwq := dropAt x.fwq i })).txStart p f := by
  simp only [Dev.txTake, hf]

/-- The oldest forwarded frame leaves its queue and is started without a tag of the port's own, and is counted. -/
theorem Dev.txTake_fwd {l : List TxFrame} (hf : (s.port p).fwdq = f :: l) :
    s.txTake p .fwd = ((s.onPort p (fun x => { x with fwdq := l })).txStart p { f with prpSeq := none }).inc
      F.ETH_HSRFWD_COUNT p := by
  simp only [Dev.txTake, hf]

end

section
variable {s : State} {p : Nat} {d : Dev}

/-- ETH_TRANSMIT. -/
theorem exec_ethTransmit (hw : wellFormed (.ethTransmit p) = true) (hd : s.dev.transmit p (fun _ => true) = d) :
    exec (.ethTransmit p) s = .next { s with dev := d } := by
  show execEthTransmit p s = _
  exact run_eq s hw hd

/-- ETH_TRANSMIT of a free port takes the frame of highest rank. -/
theorem exec_ethTransmit_takes {c : TxPick} (hw : wellFormed (.ethTransmit p) = true) (hp : s.dev.portOn p = true)
    (hfree : (s.dev.port p).tx = none) (hc : s.dev.txPick p = some c) (hd : s.dev.txTake p c = d) :
    exec (.ethTransmit p) s = .next { s with dev := d } :=
  exec_ethTransmit hw ((Dev.transmit_takes hp hfree hc rfl).trans hd)

/-- HSR_FORWARD. -/
theorem exec_hsrForward (hw : wellFormed (.hsrForward p) = true)
    (hd : s.dev.transmit p (fun c => decide (c = .fwd)) = d) : exec (.hsrForward p) s = .next { s with dev := d } := by
  show execHsrForward p s = _
  exact run_eq s hw hd

/-- FRAME_TRANSMISSION_COMPLETE. -/
theorem exec_frameTransmissionComplete (hw : wellFormed (.frameTransmissionComplete p) = true)
    (hd : s.dev.txComplete p = d) : exec (.frameTransmissionComplete p) s = .next { s with dev := d } := by
  show execFrameTransmissionComplete p s = _
  exact run_eq s hw hd

end

/-! ## Host frames (R401, R402) -/

/-- Octets in the frame that descriptor bytes l name. -/
def descLength (l : List Byte) : Nat := leNat ((l.drop 16).take 2)

/-- Whether port p may not send the frame that descriptor bytes l name: it is empty, or too long. -/
def Dev.descIllegal (s : Dev) (p : Nat) (l : List Byte) : Prop :=
  descLength l = 0 ∨ 1518 < descLength l ∨ (s.redOf (p / 2) ≠ 0 ∧ 1516 < descLength l + 4)

section
variable {s d e : Dev} {p : Nat} {l : List Byte}

/-- A descriptor that cannot be read stops the ring. -/
theorem Dev.txTake_ring_fails
    (hr : s.dmaRead (12 + p) (s.portWorld p) (s.txDescAt p (s.fg F.ETH_TXHEAD_IDX p)) 32 = (d, none)) :
    s.txTake p .ring = (d.fs F.ETH_RING_TXEN p 0).setEvt (136 + p) F.ETH_EVT_DMAERR p := by
  show Dev.txRead p _ _ = _
  rw [hr, Dev.txRead_err]
  rfl

variable (hr : s.dmaRead (12 + p) (s.portWorld p) (s.txDescAt p (s.fg F.ETH_TXHEAD_IDX p)) 32 = (d, some l))
include hr

/-- A descriptor that is read names the frame. -/
theorem Dev.txTake_ring_reads : s.txTake p .ring = d.hostFrame p (s.portWorld p) l := by
  show Dev.txRead p _ _ = _
  rw [hr, Dev.txRead_ok]

/-- A frame of no legal length is returned with an error. -/
theorem Dev.txTake_ring_returns (hlen : d.descIllegal p l)
    (hwr : d.dmaWrite (12 + p) (d.portWorld p) (d.txDescAt p (d.fg F.ETH_TXHEAD_IDX p) + 18) [3] = (e, true)) :
    s.txTake p .ring = e.txAdvance p := by
  have hrej : d.hostFrame p (s.portWorld p) l = d.txReject p := if_pos hlen
  rw [Dev.txTake_ring_reads hr, hrej, Dev.txReject, hwr, Dev.txWrote_ok]

/-- A frame of legal length whose octets are read is sent. -/
theorem Dev.txTake_ring_sends {o : List Byte} (hlen : ¬ d.descIllegal p l)
    (hrd : d.dmaRead (12 + p) (s.portWorld p) (leNat (l.take 8) / 64 * 64) (descLength l) = (e, some o)) :
    s.txTake p .ring = e.hostSend p o := by
  have hgo : d.hostFrame p (s.portWorld p) l = Dev.txRead p (fun s l => s.hostSend p l)
      (d.dmaRead (12 + p) (s.portWorld p) (leNat (l.take 8) / 64 * 64) (descLength l)) := if_neg hlen
  rw [Dev.txTake_ring_reads hr, hgo, hrd, Dev.txRead_ok]

end

section
variable {s d e g : Dev} {p : Nat} {f : TxFrame}

/-- A free port completes nothing. -/
theorem Dev.txComplete_free (h : (s.port p).tx = none) : s.txComplete p = s := by rw [Dev.txComplete, h]

variable (h : (s.port p).tx = some f)
include h

/-- A frame without a descriptor on the port leaves it free. -/
theorem Dev.txComplete_plain (hf : f.kind ≠ 5 ∨ f.desc = noDesc) :
    s.txComplete p = s.onPort p (fun x => { x with tx := none }) := by
  rw [Dev.txComplete, h]
  exact if_pos hf

/-- A host frame's stamp is written back, then its flags, and its descriptor is done. -/
theorem Dev.txComplete_host (hk : f.kind = 5) (hdesc : f.desc ≠ noDesc) (hd : d = s.onPort p (fun x => { x with tx := none }))
    (hstamp : d.dmaWrite (12 + p) (d.portWorld p) (d.txDescAt p f.desc + 8) (leBytes 8 (stamp (d.txStamp p f.born))) = (e, true))
    (hflags : e.dmaWrite (12 + p) (d.portWorld p) (d.txDescAt p f.desc + 18) [1] = (g, true)) :
    s.txComplete p = g.txAdvance p := by
  have hhost : ¬ (f.kind ≠ 5 ∨ f.desc = noDesc) := fun hn => hn.elim (fun h => h hk) hdesc
  subst hd
  rw [Dev.txComplete, h]
  refine (if_neg hhost).trans ?_
  rw [Dev.txReturn, hstamp, Dev.txWrote_ok, hflags, Dev.txWrote_ok]

end

/-! ## Link status (R399) and ring tails (R402, R420) -/

/-- LINK as it stands is no change. -/
theorem Dev.setLink_same {s : Dev} {p v : Nat} (h : s.fg F.ETH_STAT_LINK p = v) : s.setLink p v = s := if_pos h

/-- A change of LINK sets LINKCHG. -/
theorem Dev.setLink_change {s : Dev} {p v : Nat} (h : s.fg F.ETH_STAT_LINK p ≠ v) :
    s.setLink p v = (s.fs F.ETH_STAT_LINK p v).setEvt (136 + p) F.ETH_EVT_LINKCHG p := if_neg h

section
variable {s : State} {p : Nat}

/-- LINK_CHANGE while the port's domain is on: LOCK and the link's condition, then LINK. -/
theorem exec_linkChange_on {n : Nat} {up : LinkCond} {d e : Dev} (hw : wellFormed (.linkChange p up) = true)
    (hon : s.dev.domOn (portDom p) = true)
    (hd : d = (s.dev.fs F.ETH_STAT_LOCK p (b2n up.lock)).onPort p (fun x => { x with linkOk := up.good }))
    (hn : n = b2n (decide (d.fg F.ETH_CFG_EN p = 1) && d.linkHolds p)) (he : d.setLink p n = e) :
    exec (.linkChange p up) s = .next { s with dev := e } := by
  subst hn hd
  show execLinkChange p up s = _
  exact run_eq s hw ((if_pos hon).trans he)

variable {rq : Req} {v : Word} (hr : s.dev.reaches rq (portDom p) = true)
  (hadm : (rq.svp || rq.ofWorld (s.dev.portWorld p)) = true)
include hr hadm

/-- The SVP and requesters of the port's world write a host ring register. -/
theorem Dev.hostRingGate_admits (off : Nat) (f : Dev → Dev) : s.dev.hostRingGate rq p off f = f s.dev := by
  rw [Dev.hostRingGate, hadm, Dev.gate_admits hr]

/-- ETH_TXTAIL of such a requester. -/
theorem exec_ethTxtail_admitted (hw : wellFormed (.ethTxtail rq p v) = true) :
    exec (.ethTxtail rq p v) s = .next { s with dev := (s.dev.fs F.ETH_TXTAIL_IDX p v.toNat).ok 0 } := by
  show execEthTxtail rq p v s = _
  exact run_eq s hw (Dev.hostRingGate_admits hr hadm _ _)

/-- ETH_RXTAIL of such a requester. -/
theorem exec_ethRxtail_admitted (hw : wellFormed (.ethRxtail rq p v) = true) :
    exec (.ethRxtail rq p v) s = .next { s with dev := (s.dev.fs F.ETH_RXTAIL_IDX p v.toNat).ok 0 } := by
  show execEthRxtail rq p v s = _
  exact run_eq s hw (Dev.hostRingGate_admits hr hadm _ _)

end

/-! ## Redundancy (R407) -/

section
variable {s : State} {pair : Nat}

/-- DUPLICATE_ENTRY_EXPIRY moves on to the end of the oldest entry of the pair. -/
theorem exec_duplicateEntryExpiry_oldest {e : Nat × Nat × Nat} {l : List (Nat × Nat × Nat)}
    (hw : wellFormed (.duplicateEntryExpiry pair) = true) (hl : (s.dev.dupOf pair).entries = e :: l) :
    exec (.duplicateEntryExpiry pair) s = .next { s with dev := (s.dev.moveClk (e.2.2 + dupKeep)).dupPurge pair } := by
  show execDuplicateEntryExpiry pair s = _
  exact run_eq s hw (by rw [hl])

/-- With no entry it does nothing. -/
theorem exec_duplicateEntryExpiry_none (hw : wellFormed (.duplicateEntryExpiry pair) = true)
    (hl : (s.dev.dupOf pair).entries = []) : exec (.duplicateEntryExpiry pair) s = .next s := by
  show execDuplicateEntryExpiry pair s = _
  exact run_eq s hw (d := s.dev) (by rw [hl])

/-- SUPERVISION_FRAME. -/
theorem exec_supervisionFrame {d : Dev} (hw : wellFormed (.supervisionFrame pair) = true) (hd : s.dev.supervise pair = d) :
    exec (.supervisionFrame pair) s = .next { s with dev := d } := by
  show execSupervisionFrame pair s = _
  exact run_eq s hw hd

end

/-- A supervision frame of sequence number n waits on port p. -/
def Dev.superviseOn (n : Nat) (s : Dev) (p : Nat) : Dev :=
  s.onPort p (fun y => { y with fwq := y.fwq ++ [{ kind := 4, octets := [0x88, 0xFB], len := 64, dst := supervisionDst
                                                   src := BitVec.ofNat 48 (s.portMac p), prpSeq := some n, born := s.time.now }] })

/-- A pair that runs PRP sends a supervision frame of the pair's next sequence number on each of its ports that is on. -/
theorem Dev.supervise_prp {s d : Dev} {pair n : Nat} (hred : s.redOf pair = 1) (hn : (s.superviseAt pair).redSeq pair = (d, n)) :
    s.supervise pair = d.each ((List.range 4).filter (fun p => decide (p / 2 = pair) && d.portOn p)) (Dev.superviseOn n) := by
  rw [Dev.supervise, if_neg (not_not_intro hred), hn]
  rfl

/-! ## PTP intervals (R404, R405) -/

/-- PTP_INTERVAL. -/
theorem exec_ptpInterval {s : State} {p kind : Nat} {d : Dev} (hw : wellFormed (.ptpInterval p kind) = true)
    (hd : s.dev.ptpInterval p kind = d) : exec (.ptpInterval p kind) s = .next { s with dev := d } := by
  show execPtpInterval p kind s = _
  exact run_eq s hw hd

section
variable {s : Dev} {p : Nat}

/-- A port that is off sends nothing, nor does firmware that does not run. -/
theorem Dev.ptpInterval_idle (kind : Nat) (h : s.portOn p = false ∨ s.fwRuns = false) : s.ptpInterval p kind = s := by
  rw [Dev.ptpInterval, if_pos (by simpa using h)]

variable (hp : s.portOn p = true) (hfw : s.fwRuns = true)
include hp hfw

/-- A master of a master-capable port sends Sync and its follow-up. -/
theorem Dev.ptpInterval_sync (hm : (s.port p).ptp = 3) (hrole : s.ptpRole p = 2) : s.ptpInterval p 0 =
    (s.fwSend p 1 (64 + s.ptpTag p) ptpDst []).fwSend p 4 (64 + s.ptpTag p) ptpDst [] := by
  have hmaster : (s.port p).ptp = 3 ∧ s.ptpRole p = 2 := ⟨hm, hrole⟩
  rw [Dev.ptpInterval, hp, hfw]
  exact if_pos hmaster

/-- A port that the best master clock algorithm makes or leaves a master sends Announce. -/
theorem Dev.ptpInterval_announce (hm : ((s.bmc p).port p).ptp = 3) : s.ptpInterval p 1 =
    (s.bmc p).fwSend p 4 (82 + s.ptpTag p) ptpDst ((s.bmc p).announceBody p) := by
  rw [Dev.ptpInterval, hp, hfw]
  exact if_pos hm

/-- A port that runs PTP sends Pdelay_Req. -/
theorem Dev.ptpInterval_pdelay (hrole : s.ptpRole p ≠ 0) :
    s.ptpInterval p 2 = s.fwSend p 1 (72 + s.ptpTag p) ptpPeerDst [] := by
  rw [Dev.ptpInterval, hp, hfw]
  exact if_pos hrole

/-- The announce receipt timeout. -/
theorem Dev.ptpInterval_timeout : s.ptpInterval p 3 = s.announceTimeout p := by
  rw [Dev.ptpInterval, hp, hfw]
  rfl

/-- The state decision. -/
theorem Dev.ptpInterval_decision : s.ptpInterval p 4 = s.bmc p := by
  rw [Dev.ptpInterval, hp, hfw]
  rfl

end

/-- Settles O46: each clause is its row's exec lemma with the rule of the case named: the kind and verdict of a received frame,
the pick of a free port, the state of its ring, the kind of a PTP interval. -/
theorem ethernetPortsAct : Obligations.EthernetPortsAct := by
  unfold Obligations.EthernetPortsAct
  intro s
  refine ⟨?off, ?sv, ?goose, ?ptp, ?pause, ?supervision, ?other, ?dup, ?drop, ?startNone, ?startPub, ?startFw, ?startFwd,
    ?forwards, ?forwardNone, ?ringFails, ?ringReturns, ?ringSends, ?linkSame, ?linkChanges, ?txtail, ?rxtail, ?expires, ?noEntry,
    ?notPrp, ?supervises, ?completeFree, ?completePlain, ?completeHost, ?ptpIdle, ?ptpSync, ?ptpAnnounce, ?ptpPdelay,
    ?ptpTimeout, ?ptpDecision⟩
  case off => exact fun p f hw hp => exec_ethReceive hw (Dev.ethReceive_off hp)
  case sv => exact fun p f g hw hp hk => exec_ethReceive hw (Dev.ethReceive_sv hp hk)
  case goose => exact fun p f g hw hp hk => exec_ethReceive hw (Dev.ethReceive_goose hp hk)
  case ptp => exact fun p f d m hw hp hk hc => exec_ethReceive hw (Dev.ethReceive_ptp hp hk hc)
  case pause => exact fun p f d hw hp hk hc => exec_ethReceive hw (Dev.ethReceive_pause hp hk hc)
  case supervision => exact fun p f d hw hp hk hc => exec_ethReceive hw (Dev.ethReceive_supervision hp hk hc)
  case other => exact fun p f d ty hw hp hk hc => exec_ethReceive hw (Dev.ethReceive_other hp hk hc)
  case dup => exact fun p f d ty hw hp hk hc => exec_ethReceive hw (Dev.ethReceive_dup hp hk hc)
  case drop => exact fun p f d ty hw hp hk hc => exec_ethReceive hw (Dev.ethReceive_drop hp hk hc)
  case startNone => exact fun p hw h => exec_ethTransmit hw (Dev.transmit_none h)
  case startPub => exact fun p i f hw hp hfree hc hf => exec_ethTransmit_takes hw hp hfree hc (Dev.txTake_pub hf)
  case startFw => exact fun p i f hw hp hfree hc hf => exec_ethTransmit_takes hw hp hfree hc (Dev.txTake_fw hf)
  case startFwd => exact fun p f l hw hp hfree hc hf => exec_ethTransmit_takes hw hp hfree hc (Dev.txTake_fwd hf)
  case forwards =>
    exact fun p f l hw hp hfree hc hf =>
      exec_hsrForward hw ((Dev.transmit_takes hp hfree hc rfl).trans (Dev.txTake_fwd hf))
  case forwardNone =>
    refine fun p hw h => exec_hsrForward hw (h.elim (fun hoff => Dev.transmit_none (.inl hoff)) fun hne => ?_)
    refine Dev.transmit_other fun c hc => decide_eq_false ?_
    rintro rfl
    exact hne hc
  case ringFails => exact fun p d hw hp hfree hc hr => exec_ethTransmit_takes hw hp hfree hc (Dev.txTake_ring_fails hr)
  case ringReturns =>
    exact fun p d e l hw hp hfree hc hr hlen hwr =>
      exec_ethTransmit_takes hw hp hfree hc (Dev.txTake_ring_returns hr hlen hwr)
  case ringSends =>
    exact fun p d e l o hw hp hfree hc hr hlen hrd =>
      exec_ethTransmit_takes hw hp hfree hc (Dev.txTake_ring_sends hr hlen hrd)
  case linkSame => exact fun p n up d hw hon hd hn h => exec_linkChange_on hw hon hd hn (Dev.setLink_same h)
  case linkChanges => exact fun p n up d hw hon hd hn h => exec_linkChange_on hw hon hd hn (Dev.setLink_change h)
  case txtail => exact fun rq p v hw hr hadm => exec_ethTxtail_admitted hr hadm hw
  case rxtail => exact fun rq p v hw hr hadm => exec_ethRxtail_admitted hr hadm hw
  case expires => exact fun pair e l => exec_duplicateEntryExpiry_oldest
  case noEntry => exact fun pair => exec_duplicateEntryExpiry_none
  case notPrp => exact fun pair hw hred => exec_supervisionFrame hw (if_pos hred)
  case supervises => exact fun pair n d hw hred hn => exec_supervisionFrame hw (Dev.supervise_prp hred hn)
  case completeFree => exact fun p hw h => exec_frameTransmissionComplete hw (Dev.txComplete_free h)
  case completePlain => exact fun p f hw h hf => exec_frameTransmissionComplete hw (Dev.txComplete_plain h hf)
  case completeHost =>
    exact fun p f d e g hw h hk hdesc hd hstamp hflags =>
      exec_frameTransmissionComplete hw (Dev.txComplete_host h hk hdesc hd hstamp hflags)
  case ptpIdle => exact fun p kind hw h => exec_ptpInterval hw (Dev.ptpInterval_idle kind h)
  case ptpSync => exact fun p hw hp hfw hm hrole => exec_ptpInterval hw (Dev.ptpInterval_sync hp hfw hm hrole)
  case ptpAnnounce => exact fun p hw hp hfw hm => exec_ptpInterval hw (Dev.ptpInterval_announce hp hfw hm)
  case ptpPdelay => exact fun p hw hp hfw hrole => exec_ptpInterval hw (Dev.ptpInterval_pdelay hp hfw hrole)
  case ptpTimeout => exact fun p hw hp hfw => exec_ptpInterval hw (Dev.ptpInterval_timeout hp hfw)
  case ptpDecision => exact fun p hw hp hfw => exec_ptpInterval hw (Dev.ptpInterval_decision hp hfw)

end Sys2Proof.Machine
end

section
/-!
PROOFS. The integer, multiply and divide units of a core (11 R276, R277, Tables 11.2 and 11.3): what a free unit puts in flight, and
the tables' results as arithmetic of 64-bit words.
-/

namespace Sys2Proof.Machine

/-! ## Numbers read as words -/

/-- The low w bits of a number, read as two's complement, are the integer of its word. -/
theorem sext_eq_toInt (w v : Nat) : sext w v = (BitVec.ofNat w v).toInt := by
  rw [BitVec.toInt_eq_toNat_cond, BitVec.toNat_ofNat]
  rfl

/-- The pattern of an integer is its word. -/
theorem toBits_eq_toNat (w : Nat) (x : Int) : toBits w x = (BitVec.ofInt w x).toNat := (BitVec.toNat_ofInt ..).symm

theorem s64_toNat (a : DWord) : s64 a.toNat = a.toInt := by
  rw [s64, sext_eq_toInt, BitVec.ofNat_toNat, BitVec.setWidth_eq]

/-- The low w bits of a number, sign-extended to 64, are its word extended. -/
theorem toBits_sext (w v : Nat) : toBits 64 (sext w v) = ((BitVec.ofNat w v).signExtend 64).toNat := by
  rw [toBits_eq_toNat, sext_eq_toInt]
  rfl

/-- The W form of a number is the lower half of any word that is congruent to it. -/
theorem sx32_eq {x : Nat} {a : DWord} (h : a.toNat = x % 2 ^ 64) : sx32 x = ((a.setWidth 32).signExtend 64).toNat := by
  have hlow : BitVec.ofNat 32 x = a.setWidth 32 := by
    apply BitVec.eq_of_toNat_eq
    rw [BitVec.toNat_ofNat, BitVec.toNat_setWidth, h]
    omega
  rw [sx32, toBits_sext, hlow]

/-- A choice by the signed order of two words. -/
theorem toNat_ite_slt (a t x y : DWord) :
    (if a.slt t then x else y).toNat = if s64 a.toNat < s64 t.toNat then x.toNat else y.toNat := by
  simp only [apply_ite BitVec.toNat, BitVec.slt_iff_toInt_lt, s64_toNat]

/-- A choice by the unsigned order of two words. -/
theorem toNat_ite_lt (a t x y : DWord) :
    (if a < t then x else y).toNat = if a.toNat < t.toNat then x.toNat else y.toNat :=
  apply_ite BitVec.toNat ..

/-- A truth value as a number. -/
theorem b2n_decide (p : Prop) [Decidable p] : b2n (decide p) = if p then (1 : DWord).toNat else (0 : DWord).toNat := by
  rw [b2n]
  simp only [decide_eq_true_eq]
  rfl

/-! ## Table 11.2 -/

section
variable (a t : DWord)

theorem aIalu_sub : aIalu 1 a.toNat t.toNat = (a - t).toNat := by
  rw [BitVec.toNat_sub, aIalu]
  omega

theorem aIalu_and : aIalu 2 a.toNat t.toNat = (a &&& t).toNat := BitVec.toNat_mod_cancel (a &&& t)

theorem aIalu_or : aIalu 3 a.toNat t.toNat = (a ||| t).toNat := BitVec.toNat_mod_cancel (a ||| t)

theorem aIalu_xor : aIalu 4 a.toNat t.toNat = (a ^^^ t).toNat := BitVec.toNat_mod_cancel (a ^^^ t)

theorem aIalu_shl : aIalu 5 a.toNat t.toNat = (a <<< (t.toNat % 64)).toNat := by
  rw [BitVec.toNat_shiftLeft, Nat.shiftLeft_eq]
  rfl

theorem aIalu_shr : aIalu 6 a.toNat t.toNat = (a >>> (t.toNat % 64)).toNat := by
  rw [aIalu, ← Nat.shiftRight_eq_div_pow, ← BitVec.toNat_ushiftRight, BitVec.toNat_mod_cancel]

/-- The arithmetic shift divides the integer, rounding down. -/
theorem aIalu_sra : aIalu 7 a.toNat t.toNat = (a.sshiftRight (t.toNat % 64)).toNat := by
  rw [aIalu, s64_toNat, toBits_eq_toNat, ← Int.shiftRight_eq_div_pow, BitVec.toNat_mod_cancel, BitVec.sshiftRight]

theorem aIalu_min : aIalu 8 a.toNat t.toNat = (if a.slt t then a else t).toNat := by
  rw [aIalu, ← toNat_ite_slt, BitVec.toNat_mod_cancel]

theorem aIalu_max : aIalu 9 a.toNat t.toNat = (if a.slt t then t else a).toNat := by
  rw [aIalu, ← toNat_ite_slt, BitVec.toNat_mod_cancel]

theorem aIalu_minu : aIalu 10 a.toNat t.toNat = (if t < a then t else a).toNat := by
  rw [toNat_ite_lt, aIalu]
  split <;> omega

theorem aIalu_maxu : aIalu 11 a.toNat t.toNat = (if a < t then t else a).toNat := by
  rw [toNat_ite_lt, aIalu]
  split <;> omega

theorem aIalu_eq : aIalu 12 a.toNat t.toNat = (if a = t then (1 : DWord) else 0).toNat := by
  rw [aIalu, b2n_decide, apply_ite BitVec.toNat]
  simp only [BitVec.toNat_inj]
  split <;> rfl

theorem aIalu_lt : aIalu 13 a.toNat t.toNat = (if a.slt t then (1 : DWord) else 0).toNat := by
  rw [aIalu, b2n_decide, ← toNat_ite_slt, BitVec.toNat_mod_cancel]

theorem aIalu_ltu : aIalu 14 a.toNat t.toNat = (if a < t then (1 : DWord) else 0).toNat := by
  rw [aIalu, b2n_decide, ← toNat_ite_lt, BitVec.toNat_mod_cancel]

theorem aIalu_addw : aIalu 15 a.toNat t.toNat = (((a + t).setWidth 32).signExtend 64).toNat := by
  rw [aIalu, sx32_eq (BitVec.toNat_add a t), BitVec.toNat_mod_cancel]

theorem aIalu_subw : aIalu 16 a.toNat t.toNat = (((a - t).setWidth 32).signExtend 64).toNat := by
  have hsub : (a - t).toNat = (a.toNat + (2 ^ 64 - t.toNat % 2 ^ 64)) % 2 ^ 64 := (aIalu_sub a t).symm
  rw [aIalu, sx32_eq hsub, BitVec.toNat_mod_cancel]

theorem aIalu_shlw : aIalu 17 a.toNat t.toNat = (((a.setWidth 32) <<< (t.toNat % 32)).signExtend 64).toNat := by
  have hshl : (a <<< (t.toNat % 32)).toNat = a.toNat * 2 ^ (t.toNat % 32) % 2 ^ 64 := by
    rw [BitVec.toNat_shiftLeft, Nat.shiftLeft_eq]
  rw [aIalu, sx32_eq hshl, BitVec.setWidth_shiftLeft_of_le (by decide), BitVec.toNat_mod_cancel]

end

/-- The width goes by T[1:0] alone. -/
theorem extWidth_of_mod {n k : Nat} (h : n % 4 = k) : extWidth n = extWidth k := by
  subst h
  rw [extWidth, extWidth, Nat.mod_mod]

section
variable {a t : DWord} {w : Nat} (h : extWidth t.toNat = w)
include h

/-- SXT extends the low part of O1 whose width T[1:0] names by its sign. -/
theorem aIalu_sxt : aIalu 18 a.toNat t.toNat = ((a.setWidth w).signExtend 64).toNat := by
  rw [aIalu, h, toBits_sext, BitVec.ofNat_toNat, BitVec.toNat_mod_cancel]

/-- ZXT extends it by zeros. -/
theorem aIalu_zxt : aIalu 19 a.toNat t.toNat = ((a.setWidth w).setWidth 64).toNat := by
  rw [aIalu, h, BitVec.toNat_setWidth, BitVec.toNat_setWidth]

end

/-- The whole of O1 stays as it is. -/
theorem aIalu_sxt_whole {a t : DWord} (h : extWidth t.toNat = 64) : aIalu 18 a.toNat t.toNat = a.toNat := by
  rw [aIalu_sxt h, BitVec.setWidth_eq, BitVec.signExtend_eq]

theorem aIalu_zxt_whole {a t : DWord} (h : extWidth t.toNat = 64) : aIalu 19 a.toNat t.toNat = a.toNat := by
  rw [aIalu_zxt h, BitVec.setWidth_eq, BitVec.setWidth_eq]

/-! ## Table 11.3 -/

/-- The upper half of a 128-bit number is its quotient by 2^64. -/
theorem upperHalf_ofInt_128 (p : Int) : (BitVec.ofInt 128 p).extractLsb' 64 64 = BitVec.ofInt 64 (p / 2 ^ 64) := by
  apply BitVec.eq_of_toNat_eq
  rw [BitVec.extractLsb'_toNat, BitVec.toNat_ofInt, BitVec.toNat_ofInt, Nat.shiftRight_eq_div_pow]
  omega

section
variable (a t : DWord)

theorem aMul_mulh :
    aMul 1 a.toNat t.toNat = ((a.signExtend 128 * t.signExtend 128).extractLsb' 64 64).toNat := by
  have hprod : a.signExtend 128 * t.signExtend 128 = BitVec.ofInt 128 (a.toInt * t.toInt) := (BitVec.ofInt_mul ..).symm
  rw [hprod, upperHalf_ofInt_128, aMul, s64_toNat, s64_toNat, toBits_eq_toNat]
  rfl

theorem aMul_mulhu : aMul 2 a.toNat t.toNat = ((a.setWidth 128 * t.setWidth 128).extractLsb' 64 64).toNat := by
  have hprod : a.toNat * t.toNat < 2 ^ 128 := by
    have hmul := Nat.mul_lt_mul'' a.isLt t.isLt
    omega
  rw [aMul, BitVec.extractLsb'_toNat, BitVec.toNat_mul, BitVec.toNat_setWidth_of_le (by decide),
    BitVec.toNat_setWidth_of_le (by decide), Nat.mod_eq_of_lt hprod, Nat.shiftRight_eq_div_pow]

theorem aMul_mulw : aMul 3 a.toNat t.toNat = (((a * t).setWidth 32).signExtend 64).toNat :=
  sx32_eq (BitVec.toNat_mul a t)

/-- A zero divisor gives all ones and the dividend. -/
theorem aDiv_zero (op x : Nat) : aDiv op x (0 : DWord).toNat = (2 ^ 64 - 1, x) := rfl

variable {t}

/-- The signed quotient and remainder are truncated towards zero. -/
theorem aDiv_signed (h : t ≠ 0) : aDiv 0 a.toNat t.toNat = ((a.sdiv t).toNat, (a.srem t).toNat) := by
  have hne : t.toNat ≠ 0 := fun h0 => h (BitVec.eq_of_toNat_eq h0)
  have hquot : BitVec.ofInt 64 (a.toInt.tdiv t.toInt) = a.sdiv t :=
    BitVec.eq_of_toInt_eq (by rw [BitVec.toInt_ofInt, BitVec.toInt_sdiv])
  have hrem : BitVec.ofInt 64 (a.toInt.tmod t.toInt) = a.srem t := by rw [← BitVec.toInt_srem, BitVec.ofInt_toInt]
  rw [aDiv, if_neg hne, if_pos rfl, s64_toNat, s64_toNat, toBits_eq_toNat, toBits_eq_toNat, hquot, hrem]

theorem aDiv_unsigned (h : t ≠ 0) : aDiv 1 a.toNat t.toNat = ((a / t).toNat, (a % t).toNat) := by
  have hne : t.toNat ≠ 0 := fun h0 => h (BitVec.eq_of_toNat_eq h0)
  rw [aDiv, if_neg hne, if_neg Nat.one_ne_zero, BitVec.toNat_udiv, BitVec.toNat_umod]

end

/-! ## A free unit -/

/-- A command of one unit's operation starts it at the processor's present, where the unit is free. -/
theorem exec_aUnitOp_free {i : Instr} {s : State} {m u : Nat} {f : Dev → Dev} {d e : Dev}
    (hi : exec i s = run (wellFormed i) (fun s => s.aUnitOp m u f) s) (he : f d = e) (hw : wellFormed i = true)
    (hl : s.dev.coreLive m = true) (hr : (s.dev.core m).ra = none) (hd : d = s.dev.coreClock m)
    (hf : d.aFree m u ≤ (d.core m).cyc) : exec i s = .next { s with dev := e } :=
  exec_eq hi hw ((Dev.aUnitOp_runs hl hr hd hf f).trans he)

section
variable (s : State) {op : Nat}

/-- What a free integer unit puts in flight. -/
theorem exec_aIaluOp_free {m u : Nat} {d : Dev} {a t : DWord} {y : Nat} (hy : aIalu op a.toNat t.toNat = y)
    (hw : wellFormed (.aIaluOp m u op t) = true) (hl : s.dev.coreLive m = true) (hr : (s.dev.core m).ra = none)
    (hd : d = s.dev.coreClock m) (hf : d.aFree m u ≤ (d.core m).cyc) (ha : a.toNat = d.lat m (0x40 + 0x18 * u)) :
    exec (.aIaluOp m u op t) s = .next { s with dev := d.aLaunch m u [(0x40 + u, y)] 1 0 } := by
  rw [← hy, ha]
  exact exec_aUnitOp_free (f := fun s => s.aIaluStart m u op t.toNat) rfl rfl hw hl hr hd hf

/-- An operation of Table 11.2 whose result is `y` for all operands. -/
theorem exec_aIaluOp_total {y : DWord → DWord → Nat} (hy : ∀ a t, aIalu op a.toNat t.toNat = y a t) :
    ∀ (m u : Nat) (d : Dev) (a t : DWord), wellFormed (.aIaluOp m u op t) = true → s.dev.coreLive m = true →
    (s.dev.core m).ra = none → d = s.dev.coreClock m → d.aFree m u ≤ (d.core m).cyc →
    a.toNat = d.lat m (0x40 + 0x18 * u) →
    exec (.aIaluOp m u op t) s = .next { s with dev := d.aLaunch m u [(0x40 + u, y a t)] 1 0 } :=
  fun _ _ _ a t => exec_aIaluOp_free s (hy a t)

/-- SXT and ZXT, whose result is `y` where T[1:0] is k. -/
theorem exec_aIaluOp_extends {k w : Nat} {y : DWord → Nat} (hk : extWidth k = w)
    (hy : ∀ {a t : DWord}, extWidth t.toNat = w → aIalu op a.toNat t.toNat = y a) :
    ∀ (m u : Nat) (d : Dev) (a t : DWord), wellFormed (.aIaluOp m u op t) = true → s.dev.coreLive m = true →
    (s.dev.core m).ra = none → d = s.dev.coreClock m → d.aFree m u ≤ (d.core m).cyc →
    a.toNat = d.lat m (0x40 + 0x18 * u) → t.toNat % 4 = k →
    exec (.aIaluOp m u op t) s = .next { s with dev := d.aLaunch m u [(0x40 + u, y a)] 1 0 } :=
  fun _ _ _ _ _ hw hl hr hd hf ha ht =>
    exec_aIaluOp_free s (hy ((extWidth_of_mod ht).trans hk)) hw hl hr hd hf ha

/-- A multiply of Table 11.3 whose result is `y` for all operands. -/
theorem exec_aMduMul_total {y : DWord → DWord → Nat} (hy : ∀ a t, aMul op a.toNat t.toNat = y a t) :
    ∀ (m : Nat) (d : Dev) (a t : DWord), wellFormed (.aMduMul m op t) = true → s.dev.coreLive m = true →
    (s.dev.core m).ra = none → d = s.dev.coreClock m → d.aFree m 2 ≤ (d.core m).cyc → a.toNat = d.lat m 0x70 →
    exec (.aMduMul m op t) s = .next { s with dev := d.aLaunch m 2 [(0x42, y a t)] 3 0 } := by
  intro m d a t hw hl hr hd hf ha
  rw [← hy, ha]
  exact exec_aUnitOp_free (f := fun s => s.aMulStart m op t.toNat) rfl rfl hw hl hr hd hf

/-- What a free divider puts in flight; the unit is held. -/
theorem exec_aMduDiv_free {m q r : Nat} {d : Dev} {a t : DWord} (hy : aDiv op a.toNat t.toNat = (q, r))
    (hw : wellFormed (.aMduDiv m op t) = true) (hl : s.dev.coreLive m = true) (hr : (s.dev.core m).ra = none)
    (hd : d = s.dev.coreClock m) (hf : d.aFree m 2 ≤ (d.core m).cyc) (ha : a.toNat = d.lat m 0x70) :
    exec (.aMduDiv m op t) s =
      .next { s with dev := (d.aLaunch m 2 [(0x42, q), (0x43, r)] 34 0).aBusy m 2 34 } := by
  have hstart : d.aDivStart m op t.toNat = (d.aLaunch m 2 [(0x42, q), (0x43, r)] 34 0).aBusy m 2 34 := by
    rw [Dev.aDivStart, ← ha, hy]
  exact exec_aUnitOp_free rfl hstart hw hl hr hd hf

end

/-- Settles O40: a free unit starts its operation, whose result is that of its line of Table 11.2 or 11.3. -/
theorem coreIntegerOperations : Obligations.CoreIntegerOperations := by
  unfold Obligations.CoreIntegerOperations
  intro s
  refine ⟨?add, ?sub, ?and, ?or, ?xor, ?shl, ?shr, ?sra, ?min, ?max, ?minu, ?maxu, ?eq, ?lt, ?ltu, ?addw, ?subw, ?shlw, ?sxt8, ?zxt8,
    ?sxt16, ?zxt16, ?sxt32, ?zxt32, ?sxt64, ?zxt64, ?clz, ?popc, ?bswap, ?mul, ?mulh, ?mulhu, ?mulw, ?div0, ?div, ?divu⟩
  case add => exact exec_aIaluOp_total s fun a t => (BitVec.toNat_add a t).symm
  case sub => exact exec_aIaluOp_total s aIalu_sub
  case and => exact exec_aIaluOp_total s aIalu_and
  case or => exact exec_aIaluOp_total s aIalu_or
  case xor => exact exec_aIaluOp_total s aIalu_xor
  case shl => exact exec_aIaluOp_total s aIalu_shl
  case shr => exact exec_aIaluOp_total s aIalu_shr
  case sra => exact exec_aIaluOp_total s aIalu_sra
  case min => exact exec_aIaluOp_total s aIalu_min
  case max => exact exec_aIaluOp_total s aIalu_max
  case minu => exact exec_aIaluOp_total s aIalu_minu
  case maxu => exact exec_aIaluOp_total s aIalu_maxu
  case eq => exact exec_aIaluOp_total s aIalu_eq
  case lt => exact exec_aIaluOp_total s aIalu_lt
  case ltu => exact exec_aIaluOp_total s aIalu_ltu
  case addw => exact exec_aIaluOp_total s aIalu_addw
  case subw => exact exec_aIaluOp_total s aIalu_subw
  case shlw => exact exec_aIaluOp_total s aIalu_shlw
  case sxt8 => exact exec_aIaluOp_extends s rfl (aIalu_sxt (w := 8))
  case zxt8 => exact exec_aIaluOp_extends s rfl (aIalu_zxt (w := 8))
  case sxt16 => exact exec_aIaluOp_extends s rfl (aIalu_sxt (w := 16))
  case zxt16 => exact exec_aIaluOp_extends s rfl (aIalu_zxt (w := 16))
  case sxt32 => exact exec_aIaluOp_extends s rfl (aIalu_sxt (w := 32))
  case zxt32 => exact exec_aIaluOp_extends s rfl (aIalu_zxt (w := 32))
  case sxt64 => exact exec_aIaluOp_extends s rfl aIalu_sxt_whole
  case zxt64 => exact exec_aIaluOp_extends s rfl aIalu_zxt_whole
  case clz => exact exec_aIaluOp_total s fun _ _ => rfl
  case popc => exact exec_aIaluOp_total s fun _ _ => rfl
  case bswap => exact exec_aIaluOp_total s fun _ _ => rfl
  case mul => exact exec_aMduMul_total s fun a t => (BitVec.toNat_mul a t).symm
  case mulh => exact exec_aMduMul_total s aMul_mulh
  case mulhu => exact exec_aMduMul_total s aMul_mulhu
  case mulw => exact exec_aMduMul_total s aMul_mulw
  case div0 => exact fun m op d a => exec_aMduDiv_free s (aDiv_zero op a.toNat)
  case div => exact fun m d a t hw hl hr hd hf ha ht => exec_aMduDiv_free s (aDiv_signed a ht) hw hl hr hd hf ha
  case divu => exact fun m d a t hw hl hr hd hf ha ht => exec_aMduDiv_free s (aDiv_unsigned a ht) hw hl hr hd hf ha

end Sys2Proof.Machine
end

section
/-!
PROOFS. The binary64 unit and the load-store unit of a core where nothing holds a trigger back (11 R278 to R285, R305, 13 R349,
R362): what the trigger does when its check finds no fault, and the fault otherwise.
-/

namespace Sys2Proof.Machine

/-! ## The binary64 unit (Table 11.4) -/

section
variable {d : Dev} {m op : Nat} {r : FRes}
  (hr : r = aFpu op (d.srf m 3 1 0) (d.lat m 0x80) (d.lat m 0x81) (d.lat m 0x82))
include hr

/-- A pipelined operation puts its result in flight. -/
theorem Dev.aFpuStart_pipelined (h6 : op ≠ 6) (h7 : op ≠ 7) :
    d.aFpuStart m op = d.aLaunch m 3 [(0x44, r.bits)] (aFpuLat op) r.flags := by
  subst hr
  exact if_neg (not_or.mpr ⟨h6, h7⟩)

/-- A divide or a square root holds the unit as well. -/
theorem Dev.aFpuStart_held (h : op = 6 ∨ op = 7) :
    d.aFpuStart m op = (d.aLaunch m 3 [(0x44, r.bits)] (aFpuLat op) r.flags).aBusy m 3 (aFpuLat op) := by
  subst hr
  exact if_pos h

end

/-! ## Triggers of the load-store unit -/

/-- The check of a load-store trigger on the latches as they stand. -/
def Dev.lsuVerdict (d : Dev) (m code : Nat) (t : DWord) : Dev × Except Exc LsuPlan :=
  (d.noMiss m).lsuCheck m (d.trigPc m code) 0 code (d.lat m 0xA0) (d.lat m 0xA1) (d.lat m 0xA2) t.toNat

/-- What a checked load-store trigger does in state `g`, with the bundle and the latches of `d`. -/
def Dev.lsuEffect (d g : Dev) (m code : Nat) (t : DWord) (p : LsuPlan) : Dev × Option Exc :=
  g.lsuGo m (d.trigPc m code) 0 code (d.lat m 0xA0) (d.lat m 0xA1) (d.lat m 0xA2) t.toNat p

/-- A barrier or a PREF, which accesses no place, has nothing to check. -/
theorem Dev.lsuVerdict_plain {d : Dev} {m code : Nat} {t : DWord} (hc : (0xBB ≤ code ∧ code ≤ 0xBE) ∨ code = 0xC3) :
    d.lsuVerdict m code t = (d.noMiss m, .ok .plain) := by
  have hatomic : isAtomic code = false := isAtomic_false (by omega)
  unfold Dev.lsuVerdict Dev.lsuCheck
  dsimp only
  rw [if_neg (by omega), if_neg (by omega), if_neg (by omega), hatomic, if_neg Bool.false_ne_true, if_neg (by omega),
    if_neg (by omega)]

section
variable {i : Instr} {s : State} {c d e f : Dev} {m code : Nat} {t : DWord} {p : LsuPlan}
  (hi : exec i s = run (wellFormed i) (fun s => s.trigOp m code t) s)
include hi

/-- A trigger that is no store and that its check lets through takes effect; the bundle after its own is next. -/
theorem exec_lsu_runs (hc : 0xA3 ≤ code ∧ code ≤ 0xC3) (hs : storesCode code = false)
    (hgo : d.lsuEffect (e.notAlone m) m code t p = (f, none))
    (hw : wellFormed i = true) (hl : s.dev.coreLive m = true) (hr : (s.dev.core m).ra = none) (hsync : c = s.dev.coreSync m)
    (hf : (c.core m).fenceWait = none) (hd : d = c.passFence m) (hstall : d.trigStall m code t.toNat = none)
    (hlines : d.lsuWaits m 0 code (d.lat m 0xA0) t.toNat = false) (hp : d.lsuVerdict m code t = (e, .ok p)) :
    exec i s = .next { s with dev := (f.setPc m ((d.trigPc m code + 16) % 2 ^ 64)).noProg m } :=
  exec_eq hi hw (Dev.trigOp_lsu hl hr hsync hf hd hstall hc hlines hp (by rw [hs]; exact hgo))

/-- A store that its check lets through does so after the bundles that may still execute their old contents have been fetched
(R305). -/
theorem exec_lsu_stores (hc : 0xA3 ≤ code ∧ code ≤ 0xC3) (hs : storesCode code = true)
    (hgo : d.lsuEffect ((e.prefetchAt m 1 (oldCode ((d.trigPc m code + 16) % 2 ^ 64))).notAlone m) m code t p = (f, none))
    (hw : wellFormed i = true) (hl : s.dev.coreLive m = true) (hr : (s.dev.core m).ra = none) (hsync : c = s.dev.coreSync m)
    (hf : (c.core m).fenceWait = none) (hd : d = c.passFence m) (hstall : d.trigStall m code t.toNat = none)
    (hlines : d.lsuWaits m 0 code (d.lat m 0xA0) t.toNat = false) (hp : d.lsuVerdict m code t = (e, .ok p)) :
    exec i s = .next { s with dev := (f.setPc m ((d.trigPc m code + 16) % 2 ^ 64)).noProg m } :=
  exec_eq hi hw (Dev.trigOp_lsu hl hr hsync hf hd hstall hc hlines hp (by rw [hs]; exact hgo))

/-- A trigger whose check finds a fault raises it at its bundle. -/
theorem exec_lsu_faults {x : Exc} (hc : 0xA3 ≤ code ∧ code ≤ 0xC3) (hw : wellFormed i = true)
    (hl : s.dev.coreLive m = true) (hr : (s.dev.core m).ra = none)
    (hsync : c = s.dev.coreSync m) (hf : (c.core m).fenceWait = none) (hd : d = c.passFence m)
    (hstall : d.trigStall m code t.toNat = none) (hlines : d.lsuWaits m 0 code (d.lat m 0xA0) t.toNat = false)
    (hp : d.lsuVerdict m code t = (e, .error x)) :
    exec i s = .next { s with dev := (e.setPc m (d.trigPc m code)).raiseExc m x } :=
  exec_eq hi hw (Dev.trigOp_lsu_faults hl hr hsync hf hd hstall hc hlines hp)

/-- A barrier or a PREF takes effect where the trigger runs. -/
theorem exec_lsu_plain (hplain : (0xBB ≤ code ∧ code ≤ 0xBE) ∨ code = 0xC3)
    (hgo : d.lsuEffect ((d.noMiss m).notAlone m) m code t .plain = (f, none)) (hw : wellFormed i = true)
    (hl : s.dev.coreLive m = true) (hr : (s.dev.core m).ra = none) (hsync : c = s.dev.coreSync m)
    (hf : (c.core m).fenceWait = none) (hd : d = c.passFence m) (hstall : d.trigStall m code t.toNat = none) :
    exec i s = .next { s with dev := (f.setPc m ((d.trigPc m code + 16) % 2 ^ 64)).noProg m } :=
  exec_lsu_runs hi (by omega) (storesCode_false (by omega)) hgo hw hl hr hsync hf hd hstall (lsuWaits_other (by omega))
    (Dev.lsuVerdict_plain hplain)

end

/-! ## The operations that a well-formed command names -/

section
variable {m op : Nat} {t : DWord}

theorem aLoad_op_lt (hw : wellFormed (.aLoad m 0 op t) = true) : op < 7 := of_decide_eq_true (Bool.and_eq_true_iff.mp hw).2

theorem aStore_op_lt (hw : wellFormed (.aStore m 0 op t) = true) : op < 4 := of_decide_eq_true (Bool.and_eq_true_iff.mp hw).2

theorem aAtomic_op_lt (hw : wellFormed (.aAtomic m op t) = true) : op < 8 := of_decide_eq_true (Bool.and_eq_true_iff.mp hw).2

end

/-- Settles O41: a free binary64 unit starts its operation; a load-store trigger that is ready acts or faults as its check says. -/
theorem floatAndLoadStoreOperations : Obligations.FloatAndLoadStoreOperations := by
  unfold Obligations.FloatAndLoadStoreOperations
  intro s
  refine ⟨?fpu, ?fpuHeld, ?div, ?sqrt, ?load, ?loadF, ?store, ?storeF, ?stnt, ?ldx, ?stx, ?atomic, ?ldm, ?stm, ?fenceL, ?fenceS,
    ?fenceLs, ?ifence, ?pref, ?dccln, ?dcinv, ?dcci, ?icinv⟩
  case fpu =>
    exact fun m op d t hw hl hr hd hf h6 h7 => exec_aUnitOp_free rfl (Dev.aFpuStart_pipelined rfl h6 h7) hw hl hr hd hf
  case fpuHeld => exact fun m op d t hw hl hr hd hf h => exec_aUnitOp_free rfl (Dev.aFpuStart_held rfl h) hw hl hr hd hf
  case div => exact fun m d t => exec_aUnitOp_free rfl (Dev.aFpuStart_held (op := 6) rfl (.inl rfl))
  case sqrt => exact fun m d t => exec_aUnitOp_free rfl (Dev.aFpuStart_held (op := 7) rfl (.inr rfl))
  case load =>
    intro m op c d e t p hw
    have hop := aLoad_op_lt hw
    exact exec_lsu_runs rfl (by omega) (storesCode_false (by omega)) (lsuGo_load (by omega)) hw
  case loadF =>
    intro m op c d e t x hw
    have hop := aLoad_op_lt hw
    exact exec_lsu_faults rfl (by omega) hw
  case store =>
    intro m op c d e t p hw
    have hop := aStore_op_lt hw
    exact exec_lsu_stores rfl (by omega) (storesCode_store (by omega)) (lsuGo_store (by omega)) hw
  case storeF =>
    intro m op c d e t x hw
    have hop := aStore_op_lt hw
    exact exec_lsu_faults rfl (by omega) hw
  case atomic =>
    intro m op c d e t p hw
    have hop := aAtomic_op_lt hw
    exact exec_lsu_stores rfl (by omega) (storesCode_atomic hop) (lsuGo_atomic hop) hw
  case stnt => exact fun m c d e t p => exec_lsu_stores (code := 0xAE) rfl (by decide) rfl rfl
  case ldx => exact fun m c d e t p => exec_lsu_runs (code := 0xAF) rfl (by decide) rfl rfl
  case stx => exact fun m c d e t p => exec_lsu_stores (code := 0xB0) rfl (by decide) rfl rfl
  case ldm =>
    exact fun m c d e t f x hw hl hr hsync hf hd hstall hlines hp hgo =>
      exec_lsu_runs (e := e) (code := 0xB9) (p := .multi x) rfl (by decide) rfl hgo hw hl hr hsync hf hd hstall hlines hp
  case stm =>
    exact fun m c d e t f x hw hl hr hsync hf hd hstall hlines hp hgo =>
      exec_lsu_stores (e := e) (code := 0xBA) (p := .multi x) rfl (by decide) rfl hgo hw hl hr hsync hf hd hstall hlines hp
  case fenceL => exact fun m c d t => exec_lsu_plain (code := 0xBB) rfl (by decide) rfl
  case fenceS => exact fun m c d t => exec_lsu_plain (code := 0xBC) rfl (by decide) rfl
  case fenceLs => exact fun m c d t => exec_lsu_plain (code := 0xBD) rfl (by decide) rfl
  case ifence => exact fun m c d t => exec_lsu_plain (code := 0xBE) rfl (by decide) rfl
  case pref => exact fun m c d t => exec_lsu_plain (code := 0xC3) rfl (by decide) rfl
  case dccln => exact fun m c d e t p => exec_lsu_runs (code := 0xBF) rfl (by decide) rfl rfl
  case dcinv => exact fun m c d e t p => exec_lsu_runs (code := 0xC0) rfl (by decide) rfl rfl
  case dcci => exact fun m c d e t p => exec_lsu_runs (code := 0xC1) rfl (by decide) rfl rfl
  case icinv => exact fun m c d e t p => exec_lsu_runs (code := 0xC2) rfl (by decide) rfl rfl

end Sys2Proof.Machine
end

section
/-!
PROOFS. The entry of an ordinary interrupt (11 R287, 12 R314, R315, R317): what it saves, what STATUS becomes, where it goes on, and
what it leaves alone.
-/

namespace Sys2Proof.Machine

/-! ## What stops between two registers of a transfer (R287) -/

/-- An ordinary interrupt, which keeps where a transfer stands. -/
def Exc.Interrupt (x : Exc) : Prop := ∃ a p, x = { exc cInterrupt 0 0 with addr := a, prog := p }

/-- It is one whatever it stops. -/
theorem Dev.multiStop_interrupt (s : Dev) (m : Nat) : (s.multiStop m).2.Interrupt := by
  unfold Dev.multiStop Dev.keepProg
  dsimp only
  split
  · split <;> exact ⟨_, _, rfl⟩
  · split <;> exact ⟨_, _, rfl⟩

/-- Its cause has no slot and no flag, in delay bundles neither. -/
theorem causeOf_interrupt {x : Exc} (hx : x.Interrupt) (delay : Bool) :
    causeOf x (delay && decide (x.code ≠ cInterrupt)) = cInterrupt := by
  obtain ⟨a, p, rfl⟩ := hx
  exact congrArg (causeOf (exc cInterrupt 0 0)) (Bool.and_false delay)

/-- With no transfer in progress and none to continue, nothing stops. -/
theorem Dev.multiStop_idle {s : Dev} {m : Nat} (hm : (s.core m).multi = none) (hr : (s.core m).resumes (s.core m).pc.toNat = false) :
    s.multiStop m = (s, exc cInterrupt 0 0) := by
  unfold Dev.multiStop Dev.keepProg
  dsimp only
  rw [hm, hr]
  rfl

/-! ## STATUS after an entry (Table 12.2) -/

/-- STATUS v after an entry to level l: LVL is l, IE 0, EXL 1. -/
def entryStatus (v l : Nat) : Nat := setBits (setBits (setBits v 1 0 l % 2 ^ 64) 2 2 0 % 2 ^ 64) 4 4 1 % 2 ^ 64

/-- The bits of it. -/
theorem testBit_entryStatus (v l : Nat) {i : Nat} (hi : i < 64) : (entryStatus v l).testBit i =
    if i ≤ 1 then l.testBit i else if i = 2 then false else if i = 4 then true else v.testBit i := by
  have field : ∀ v lo hi x, lo ≤ hi → (setBits v hi lo x % 2 ^ 64).testBit i =
      if lo ≤ i ∧ i ≤ hi then x.testBit (i - lo) else v.testBit i := by
    intro v lo hi x h
    rw [Nat.testBit_mod_two_pow, testBit_setBits v hi lo x i h, decide_eq_true (show i < 64 from ‹_›), Bool.true_and]
  unfold entryStatus
  rw [field _ 4 4 1 (by decide), field _ 2 2 0 (by decide), field _ 0 1 l (by decide)]
  rcases (show i ≤ 1 ∨ i = 2 ∨ i = 4 ∨ (2 < i ∧ i ≠ 4) by omega) with h | h | h | h
  · rw [if_neg (by omega), if_neg (by omega), if_pos (by omega), if_pos h, Nat.sub_zero]
  · subst h; rfl
  · subst h; rfl
  · rw [if_neg (by omega), if_neg (by omega), if_neg (by omega), if_neg (by omega), if_neg (by omega), if_neg (by omega)]

theorem bits_entryStatus (v : Nat) {l : Nat} (hl : l < 2 ^ 2) : bits (entryStatus v l) 1 0 = l := by
  have hlow : bits (entryStatus v l) 1 0 = l % 2 ^ 2 := by
    apply Nat.eq_of_testBit_eq
    intro i
    rw [bits, Nat.shiftRight_zero, Nat.testBit_mod_two_pow, Nat.testBit_mod_two_pow]
    by_cases hi : i < 2
    · rw [testBit_entryStatus v l (by omega), if_pos (by omega)]
    · rw [decide_eq_false hi, Bool.false_and, Bool.false_and]
  rw [hlow, Nat.mod_eq_of_lt hl]

theorem topLvl_lt (m : Nat) : topLvl m < 2 ^ 2 := by
  unfold topLvl
  split <;> decide

section
variable {e t : Dev} {m : Nat} (h : t.sr m 0 = entryStatus (e.sr m 0) (topLvl m))
include h

/-- What the fields of STATUS read after an entry. -/
theorem Dev.status_entered :
    t.lvl m = topLvl m ∧ t.stIE m = false ∧ t.stEXL m = true ∧ t.stQIE m = e.stQIE m ∧ t.stTE m = e.stTE m := by
  unfold Dev.lvl Dev.srf Dev.stIE Dev.stEXL Dev.stQIE Dev.stTE
  rw [h]
  exact ⟨bits_entryStatus _ (topLvl_lt m), testBit_entryStatus _ _ (by decide), testBit_entryStatus _ _ (by decide),
    testBit_entryStatus _ _ (by decide), testBit_entryStatus _ _ (by decide)⟩

end

/-! ## The entry of an interrupt (R314) -/

section
variable {s e : Dev} {m : Nat} {x : Exc} (he : e = s.drainOps m)
include he

/-- STATUS after an entry. -/
theorem Dev.enterE_status : (s.enterE m x).sr m 0 = entryStatus (e.sr m 0) (topLvl m) := by
  subst he
  rw [Dev.sr_enterE, Dev.sr_entryOf, if_pos rfl]
  rfl

/-- The processor's state that an interrupt saves. -/
theorem Dev.enterE_saves (hx : x.Interrupt) :
    (s.enterE m x).sr m 0x20 = e.pc m ∧ (s.enterE m x).sr m 0x21 = e.savedStatus m ∧ (s.enterE m x).sr m 0x22 = cInterrupt ∧
      (s.enterE m x).sr m 0x23 = x.addr % 2 ^ 64 ∧ (s.enterE m x).sr m 0x24 = x.prog % 2 ^ 64 ∧
      (s.enterE m x).sr m 0x25 = edlyOf (e.core m).xfer % 2 ^ 64 := by
  subst he
  simp only [Dev.sr_enterE, Dev.sr_entryOf]
  exact ⟨rfl, rfl, congrArg (· % 2 ^ 64) (causeOf_interrupt hx _), rfl, rfl, rfl⟩

/-- The result ports are saved after every operation in flight has completed. -/
theorem Dev.enterE_ports {k : Nat} (hk : k < 7) : (s.enterE m x).sr m (0x28 + k) = e.resPort m (nth shadowPorts k) := by
  subst he
  rw [Dev.sr_enterE, Dev.sr_entryOf, if_neg (by omega), if_neg (by omega), if_neg (by omega), if_neg (by omega), if_neg (by omega),
    if_neg (by omega), if_neg (by omega), if_pos (by omega), Nat.add_sub_cancel_left]

/-- The other system registers stay. -/
theorem Dev.enterE_keeps_sr {n : Nat} (h0 : n ≠ 0) (hn : n < 0x20 ∨ 0x2E < n) : (s.enterE m x).sr m n = e.sr m n := by
  subst he
  rw [Dev.sr_enterE, Dev.sr_entryOf, if_neg h0, if_neg (by omega), if_neg (by omega), if_neg (by omega), if_neg (by omega),
    if_neg (by omega), if_neg (by omega), if_neg (by omega)]

/-- The operand latches are zero, the reservation is lost, and the next bundle is at EVEC. -/
theorem Dev.enterE_restarts : ((s.enterE m x).core m).latch = [] ∧ ((s.enterE m x).core m).resv = none ∧
    (s.enterE m x).pc m = e.sr m 0x10 := by
  subst he
  refine ⟨Dev.core_enterE ACore.latch (fun _ => rfl) s m x, Dev.core_enterE ACore.resv (fun _ => rfl) s m x, ?_⟩
  rw [Dev.pc, Dev.core_enterE ACore.pc (fun _ => rfl)]
  exact (BitVec.toNat_ofNat ..).trans (Nat.mod_eq_of_lt (Dev.sr_lt _ _ _))

/-- Frames, X and Q registers, guards and result ports stay. -/
theorem Dev.enterE_keeps_registers : ((s.enterE m x).core m).frames = (e.core m).frames ∧ ((s.enterE m x).core m).x = (e.core m).x ∧
    ((s.enterE m x).core m).q = (e.core m).q ∧ ((s.enterE m x).core m).g = (e.core m).g ∧
    ((s.enterE m x).core m).res = (e.core m).res := by
  subst he
  exact ⟨Dev.core_enterE ACore.frames (fun _ => rfl) s m x, Dev.core_enterE ACore.x (fun _ => rfl) s m x,
    Dev.core_enterE ACore.q (fun _ => rfl) s m x, Dev.core_enterE ACore.g (fun _ => rfl) s m x,
    Dev.core_enterE ACore.res (fun _ => rfl) s m x⟩

end

/-- Settles O56: the command enters with what stops (`Dev.interruptNow_takes`), and each clause is what an entry does. -/
theorem interruptEntrySavesTheProcessor : Obligations.InterruptEntrySavesTheProcessor := by
  unfold Obligations.InterruptEntrySavesTheProcessor
  intro s m d e i hw hlive hline hd hdebug hint hquick hi he
  have hentry : exec (.interruptEntry m) s = .next { s with dev := i.1.enterE m i.2 } :=
    exec_eq (f := (·.interruptNow m)) rfl hw
      ((Dev.interruptNow_takes hlive hline hd hdebug hint hquick).trans (by rw [hi]; rfl))
  have hsaved := Dev.enterE_saves he (hi ▸ Dev.multiStop_interrupt d m)
  refine ⟨_, hentry, hsaved, ?ports, ?status, ?restart, ?registers, ?other, ?idle⟩
  case ports => exact fun k => Dev.enterE_ports he
  case status => exact Dev.status_entered (Dev.enterE_status he)
  case restart => exact Dev.enterE_restarts he
  case registers => exact Dev.enterE_keeps_registers he
  case other => exact fun n => Dev.enterE_keeps_sr he
  case idle =>
    intro hm hr
    obtain ⟨-, -, -, haddr, hprog, -⟩ := hsaved
    rw [Dev.multiStop_idle hm hr] at hi
    subst hi
    exact ⟨he, haddr, hprog⟩

end Sys2Proof.Machine
end

section
/-!
PROOFS. A bus write to DRAM (13 R341, R364, R374): its bytes stand in DRAM, the lines it does not touch stay, and DRAM keeps its
canonical form.
-/

namespace Sys2Proof.Machine

/-! ## DRAM and its observers depend on memory alone -/

theorem Dev.dramByte_of_mem {s t : Dev} (h : t.mem = s.mem) (b : Nat) : t.dramByte b = s.dramByte b := by
  simp only [Dev.dramByte, h]

theorem Dev.memByte_of_mem {s t : Dev} (h : t.mem = s.mem) (b : Nat) : t.memByte b = s.memByte b := by
  unfold Dev.memByte Dev.l2line Dev.sysLine Dev.dramByte
  rw [h]

/-! ## The answer of a write -/

/-- The answer of a write: none but its end, or an error response. -/
def Dev.writeAnswer (q : Dev × Bool) : Dev := if q.2 then q.1.ok 0 else q.1.bad

/-- The answer leaves memory. -/
theorem Dev.mem_writeAnswer (q : Dev × Bool) : (Dev.writeAnswer q).mem = q.1.mem := by
  unfold Dev.writeAnswer
  split <;> rfl

/-- A write that is answered without an error was made. -/
theorem Dev.made_of_writeAnswer {q : Dev × Bool} (h : (Dev.writeAnswer q).resp.err = false) : q.2 = true := by
  obtain ⟨t, made⟩ := q
  cases made with
  | true => rfl
  | false => cases h

/-- A write at a DRAM address by a requester that is not fenced is a write without a cache (R341). -/
theorem Dev.writeAt_dram {s : Dev} {rq : Req} {a : Nat} (ht : target a = .dram) (hf : s.fenced rq = false) (size v : Nat) :
    s.writeAt rq a size v = Dev.writeAnswer (s.dmaWrite rq.port rq.world a (leBytes size v)) := by
  simp only [Dev.writeAt, Dev.byFence_free hf, Dev.writeTarget, ht, Dev.writeAnswer]
  rcases s.dmaWrite rq.port rq.world a (leBytes size v) with ⟨t, _ | _⟩ <;> rfl

/-! ## The obligation -/

/-- Settles O55: what the write of the bytes leaves and stores is `dmaWrite_spec`, and on lines where nothing waits nothing comes
first (`freeLines_quiet`). -/
theorem dramWriteFrame : Obligations.DramWriteFrame := by
  unfold Obligations.DramWriteFrame
  intro s rq a size v hw hf ht
  have hexec := exec_registerWrite hw (Dev.writeAt_dram ht hf size v.toNat)
  obtain ⟨houtside, hwf, hstored⟩ := dmaWrite_spec s.dev rq.port rq.world a (leBytes size v.toNat)
  rw [leBytes_length] at houtside
  generalize s.dev.dmaWrite rq.port rq.world a (leBytes size v.toNat) = q at *
  have hmem := Dev.mem_writeAnswer q
  have hframe : ∀ b, b / 64 < a / 64 ∨ (a + size - 1) / 64 < b / 64 →
      (Dev.writeAnswer q).dramByte b = (s.dev.freeLines (linesOf a size) true).dramByte b ∧
      (Dev.writeAnswer q).memByte b = (s.dev.freeLines (linesOf a size) true).memByte b := by
    intro b hb
    rw [Dev.dramByte_of_mem hmem, Dev.memByte_of_mem hmem]
    exact houtside b fun hl => by rw [mem_linesOf] at hl; omega
  refine ⟨_, hexec, hframe, ?quiet, ?canonical, ?stored⟩
  case quiet =>
    intro hquiet b hb
    obtain ⟨hdram, hseen⟩ := hframe b hb
    have hfirst : (s.dev.freeLines (linesOf a size) true).mem = s.dev.mem := freeLines_quiet true _ _ fun l hl => by
      obtain ⟨-, hlo, hhi⟩ := (mem_linesOf a size l).1 hl
      exact hquiet l hlo hhi
    exact ⟨hdram.trans (Dev.dramByte_of_mem hfirst b), hseen.trans (Dev.memByte_of_mem hfirst b)⟩
  case canonical =>
    intro h
    have := hwf h
    rwa [Dev.dramWf, ← hmem] at this
  case stored =>
    intro herr i hi
    have hi' : i < (leBytes size v.toNat).length := by rwa [leBytes_length]
    obtain ⟨hdram, hseen⟩ := hstored (Dev.made_of_writeAnswer herr) i hi'
    rw [leBytes_get] at hdram hseen
    exact ⟨(Dev.dramByte_of_mem hmem _).trans hdram, (Dev.memByte_of_mem hmem _).trans hseen⟩

end Sys2Proof.Machine
end

section
/-!
PROOFS. The home slices (13 R363 to R371): what HOME_SLICE_REQUEST, SNOOP, LINE_HOLD_END and DEAD_AGENT do to a line and to the
requests, snoops and holds of it.
-/

namespace Sys2Proof.Machine

/-! ## The rows -/

/-- HOME_SLICE_REQUEST is the arrival of its request. -/
theorem exec_homeSliceRequest {s : State} {rq : HomeReq} {d : Dev} (hw : wellFormed (.homeSliceRequest rq) = true)
    (hd : s.dev.homeArrive rq = d) : exec (.homeSliceRequest rq) s = .next { s with dev := d } :=
  exec_eq (f := (·.homeArrive rq)) rfl hw hd

/-- SNOOP is the arrival of a snoop, which invalidates with kind 1. -/
theorem exec_snoop {s : State} {c line kind : Nat} {d : Dev} (hw : wellFormed (.snoop c line kind) = true)
    (hd : s.dev.snoopArrive c line (decide (kind = 1)) = d) : exec (.snoop c line kind) s = .next { s with dev := d } :=
  exec_eq (f := (·.snoopArrive c line (decide (kind = 1)))) rfl hw hd

/-- LINE_HOLD_END is the end of the earliest hold. -/
theorem exec_lineHoldEnd {s : State} {line : Nat} {d : Dev} (hw : wellFormed (.lineHoldEnd line) = true)
    (hd : s.dev.holdOver line = d) : exec (.lineHoldEnd line) s = .next { s with dev := d } :=
  exec_eq (f := (·.holdOver line)) rfl hw hd

/-- DEAD_AGENT is the end of the 4,096 clocks of a snoop without an answer. -/
theorem exec_deadAgent {s : State} {a : Nat} {d : Dev} (hw : wellFormed (.deadAgent a) = true)
    (hd : s.dev.declareDead a = d) : exec (.deadAgent a) s = .next { s with dev := d } :=
  exec_eq (f := (·.declareDead a)) rfl hw hd

/-! ## Requests (R364, R376, R383) -/

section
variable {s d : Dev} {rq : HomeReq}

/-- A port with as many requests outstanding as it may have sends no other. -/
theorem Dev.homeArrive_full (hout : portLimit rq.port ≤ s.homeOut rq.port) : s.homeArrive rq = s := if_pos hout

/-- A request to a Busy line waits behind those that came before it. -/
theorem Dev.homeArrive_queues (hbusy : (s.dirAt rq.line).busy.isSome = true) (hout : s.homeOut rq.port < portLimit rq.port) :
    s.homeArrive rq = s.onDir rq.line (fun d => { d with waitq := d.waitq ++ [rq] }) := by
  rw [Dev.homeArrive, if_neg (Nat.not_le.2 hout), if_pos hbusy]

/-- A request to a line that is not Busy is started. -/
theorem Dev.homeArrive_starts (hbusy : (s.dirAt rq.line).busy = none) (hout : s.homeOut rq.port < portLimit rq.port) :
    s.homeArrive rq = s.startHome rq := by
  rw [Dev.homeArrive, if_neg (Nat.not_le.2 hout), hbusy]
  rfl

/-- A started request that a hold keeps makes the line Busy and sends its snoops. -/
theorem Dev.startHome_waits (hd : d = s.cond (reqTakes rq) (fun x => x.stxSettle rq.line)) (hhold : d.clk < d.reqHold rq) :
    s.startHome rq = d.onDir rq.line (fun x => { x with busy := some rq, snoops := x.snoops ++ d.snoopsFor rq }) := by
  subst hd
  exact if_pos hhold

/-- A started request that no hold keeps is served. -/
theorem Dev.startHome_serves (hd : d = s.cond (reqTakes rq) (fun x => x.stxSettle rq.line)) (hhold : d.reqHold rq ≤ d.clk) :
    s.startHome rq = d.serveHome rq := by
  subst hd
  exact if_neg (Nat.not_lt.2 hhold)

end

/-- A request to a line that is not Busy, which no hold keeps, does what its service does. -/
theorem exec_homeSliceRequest_served {s : State} {rq : HomeReq} {d x : Dev} (hw : wellFormed (.homeSliceRequest rq) = true)
    (hbusy : (s.dev.dirAt rq.line).busy = none) (hd : d = s.dev.cond (reqTakes rq) (fun x => x.stxSettle rq.line))
    (hhold : d.reqHold rq ≤ d.clk) (hout : s.dev.homeOut rq.port < portLimit rq.port) (hx : d.serveHome rq = x) :
    exec (.homeSliceRequest rq) s = .next { s with dev := x } :=
  exec_homeSliceRequest hw ((Dev.homeArrive_starts hbusy hout).trans ((Dev.startHome_serves hd hhold).trans hx))

/-- The answer to a request that was served or refused: the newest copy of its line, or an error response. -/
def Dev.homeAnswer (s : Dev) (line : Nat) (ok : Bool) : Dev := if ok then s.ok (s.newest line % 2 ^ 64) else s.bad

section
variable {d e : Dev} {rq : HomeReq} {ok : Bool}

/-- A shared fill is answered. -/
theorem Dev.serveHome_shared (hk : rq.kind = 0) (hf : d.l2Fill rq.port rq.world rq.line false = (e, ok)) :
    d.serveHome rq = e.homeAnswer rq.line ok := by
  simp only [Dev.serveHome, hk, hf, Dev.homeAnswer]

/-- An exclusive fill is answered. -/
theorem Dev.serveHome_exclusive (hk : rq.kind = 1) (hf : d.l2Fill rq.port rq.world rq.line true = (e, ok)) :
    d.serveHome rq = e.homeAnswer rq.line ok := by
  simp only [Dev.serveHome, hk, hf, Dev.homeAnswer]

/-- An uncached read is answered. -/
theorem Dev.serveHome_uncRead {v : Option Nat} (hk : rq.kind = 2) (hr : d.uncRead rq.port rq.world rq.line = (e, v)) :
    d.serveHome rq = e.homeAnswer rq.line v.isSome := by
  simp only [Dev.serveHome, hk, hr, Dev.homeAnswer]

/-- A write of a whole line is answered. -/
theorem Dev.serveHome_writeLine (hk : rq.kind = 3)
    (hu : d.uncWrite rq.port rq.world rq.line rq.data.toNat (2 ^ 64 - 1) 9 = (e, ok)) :
    d.serveHome rq = e.homeAnswer rq.line ok := by
  simp only [Dev.serveHome, hk, hu, Dev.homeAnswer]

/-- A partial write is answered. -/
theorem Dev.serveHome_writePart (hk : rq.kind = 5)
    (hu : d.uncWrite rq.port rq.world rq.line rq.data.toNat rq.mask.toNat 9 = (e, ok)) :
    d.serveHome rq = e.homeAnswer rq.line ok := by
  simp only [Dev.serveHome, hk, hu, Dev.homeAnswer]

/-- A write-back takes the line out of its cluster's L2. -/
theorem Dev.serveHome_writeBack (hk : rq.kind = 4) : d.serveHome rq =
    ((d.setL2 rq.port rq.line { d.l2line rq.port rq.line with st := 3, data := rq.data, world := rq.world }).l2Evict
      rq.port rq.line).ok 0 := by
  simp only [Dev.serveHome, hk]

end

/-! ## Snoops (R365 to R367) -/

section
variable {s d : Dev} {c l : Nat} {inv : Bool}

/-- A dead L2 takes no snoop. -/
theorem Dev.snoopArrive_dead (h : s.mem.deadL2.contains c = true) : s.snoopArrive c l inv = s := if_pos h

/-- A snoop of a line that its cluster holds is deferred. -/
theorem Dev.snoopArrive_deferred (hlive : s.mem.deadL2.contains c = false) (hst : (s.l2line c l).st ≠ 0)
    (hhold : s.clk < s.holdEnd l (clusterHolders c)) : s.snoopArrive c l inv =
      s.onDir l (fun d => { d with snoops := d.snoops ++ [{ cluster := c, inv := inv, sent := s.clk }] }) := by
  rw [Dev.snoopArrive, hlive, decide_eq_true hst, decide_eq_true hhold]
  rfl

/-- Any other snoop is answered, and the request that waits goes on where no hold keeps it. -/
theorem Dev.snoopArrive_answered (hlive : s.mem.deadL2.contains c = false)
    (hfree : (s.l2line c l).st = 0 ∨ s.holdEnd l (clusterHolders c) ≤ s.clk) :
    s.snoopArrive c l inv = (s.answerSnoop c l inv).resumeHome l := by
  have hnot : (decide ((s.l2line c l).st ≠ 0) && decide (s.clk < s.holdEnd l (clusterHolders c))) = false := by
    rcases hfree with h | h
    · rw [decide_eq_false fun hne => hne h, Bool.false_and]
    · rw [decide_eq_false (Nat.not_lt.2 h), Bool.and_false]
  rw [Dev.snoopArrive, hlive, hnot]
  rfl

section
variable (hd : d = ((s.cond inv (fun x => x.stxSettle l)).onDir l
  (fun x => { x with snoops := x.snoops.filter (fun y => decide (y.cluster ≠ c)) })).snoopNext c l)
include hd

/-- A snoop whose cluster has no write-back of the line on its way is answered by the caches. -/
theorem Dev.answerSnoop_caches (hq : (d.dirAt l).waitq.find? (fun r => decide (r.kind = 4) && decide (r.port = c)) = none) :
    s.answerSnoop c l inv = d.snoopL2 c l inv := by
  subst hd
  simp only [Dev.answerSnoop, hq]

/-- A write-back of the line that is on its way is the answer (R366). -/
theorem Dev.answerSnoop_writeBack {r : HomeReq}
    (hq : (d.dirAt l).waitq.find? (fun r => decide (r.kind = 4) && decide (r.port = c)) = some r) :
    s.answerSnoop c l inv =
      (d.onDir l (fun x => { x with waitq := x.waitq.filter (fun r => !(decide (r.kind = 4) && decide (r.port = c))) })).serveHome
        r := by
  subst hd
  simp only [Dev.answerSnoop, hq]

end

end

/-! ## Ends of holds (R364, R367) -/

section
variable {s d e : Dev} {l k : Nat} {rq : HomeReq}

/-- Nothing waits on a line that is not Busy. -/
theorem Dev.resumeHome_free (hbusy : (s.dirAt l).busy = none) : s.resumeHome l = s := by rw [Dev.resumeHome, hbusy]

/-- The request that waits stays while a hold keeps it. -/
theorem Dev.resumeHome_held (hbusy : (s.dirAt l).busy = some rq) (hhold : s.clk < s.reqHold rq) : s.resumeHome l = s := by
  rw [Dev.resumeHome, hbusy]
  exact if_pos hhold

/-- The request that waits completes once no hold keeps it. -/
theorem Dev.resumeHome_over (hbusy : (s.dirAt l).busy = some rq) (hhold : s.reqHold rq ≤ s.clk) :
    s.resumeHome l = s.finishHome l := by
  rw [Dev.resumeHome, hbusy]
  exact if_neg (Nat.not_lt.2 hhold)

/-- Where no write-back waits, the transaction completes and then the queue is served as it stands. -/
theorem Dev.finishHome_noWriteBack (hbusy : (s.dirAt l).busy = some rq)
    (hq : (s.dirAt l).waitq.find? (fun x => decide (x.kind = 4)) = none) : s.finishHome l =
      ((s.onDir l (fun x => { x with busy := none, snoops := [], waitq := (s.dirAt l).waitq })).serveHome rq).drainHome l
        (s.dirAt l).waitq.length := by
  rw [List.find?_eq_none] at hq
  have hback : (s.dirAt l).waitq.filter (fun x => decide (x.kind = 4)) = [] := List.filter_eq_nil_iff.2 hq
  have hrest : (s.dirAt l).waitq.filter (fun x => decide (x.kind ≠ 4)) = (s.dirAt l).waitq :=
    List.filter_eq_self.2 fun x hx => decide_eq_true fun h4 => hq x hx (decide_eq_true h4)
  simp only [Dev.finishHome, hbusy, hback, hrest, List.foldl_nil]

/-- With no hold of the line running nothing ends. -/
theorem Dev.holdOver_none (hn : s.nextHold l = none) : s.holdOver l = s := by rw [Dev.holdOver, hn]

section
variable (hn : s.nextHold l = some k) (hd : d = s.moveClk k)
include hn hd

/-- At the end of a hold of a line that is not Busy the deferred snoops are answered. -/
theorem Dev.holdOver_answers (hbusy : (d.dirAt l).busy = none) (he : e = d.answerAll l (d.dirAt l).snoops)
    (hfree : (e.dirAt l).busy = none) : s.holdOver l = e := by
  subst hd he
  simp only [Dev.holdOver, hn, hbusy]
  exact Dev.resumeHome_free hfree

/-- At the end of a hold of a Busy line its request goes on, if no other hold keeps it. -/
theorem Dev.holdOver_resumes (hbusy : (d.dirAt l).busy = some rq) : s.holdOver l = d.resumeHome l := by
  subst hd
  simp only [Dev.holdOver, hn, hbusy]
  rfl

end

end

/-! ## Dead agents (R368 to R371) -/

section
variable {s e : Dev} {a k : Nat}

/-- An agent that leaves no snoop without an answer is not declared dead. -/
theorem Dev.declareDead_none (hs : s.snoopSent a = none) : s.declareDead a = s := by rw [Dev.declareDead, hs]

section
variable (hs : s.snoopSent a = some k) (he : e = s.moveClk (k + 4096))
include hs he

/-- Agents 0 and 1 are the L2s. -/
theorem Dev.declareDead_l2 (ha : a < 2) : s.declareDead a = e.deadL2 a := by
  subst he
  rw [Dev.declareDead, hs]
  exact if_pos ha

/-- The agents from 2 on are the cores. -/
theorem Dev.declareDead_core (ha : 2 ≤ a) : s.declareDead a = e.deadCore (a - 2) := by
  subst he
  rw [Dev.declareDead, hs]
  exact if_neg (Nat.not_lt.2 ha)

end

/-- An L2 that is dead already stays as it is. -/
theorem Dev.deadL2_again (h : s.mem.deadL2.contains a = true) : s.deadL2 a = s := if_pos h

/-- A core that is dead already stays as it is. -/
theorem Dev.deadCore_again (h : (s.core a).dead = true) : s.deadCore a = s := if_pos h

/-- A core that dies is logged and fenced, and its modified lines are poisoned. -/
theorem Dev.deadCore_first (h : (s.core a).dead = false) : s.deadCore a =
    (((s.poisonCore a).errCap (40 + clusterOf a) { ty := 0x0B, info := a }).onCore a (fun c => { c with dead := true })).icDrop
      a :=
  if_neg (by rw [h]; decide)

end

/-! ## The obligation -/

/-- Settles O44: each clause is its row (`exec_homeSliceRequest` and its like) and the lemma about the branch of the arrival, the
service, the answer or the declaration that the clause's hypotheses select. -/
theorem homeSlicesAct : Obligations.HomeSlicesAct := by
  unfold Obligations.HomeSlicesAct
  intro s
  refine ⟨?queues, ?waits, ?shared, ?sharedBad, ?exclusive, ?exclusiveBad, ?read, ?readBad, ?line, ?lineBad, ?part, ?partBad,
    ?back, ?full, ?snoopDead, ?snoopDefers, ?snoopCaches, ?snoopBack, ?holdNone, ?holdSnoops, ?holdServes, ?holdKeeps,
    ?deadNone, ?deadL2, ?deadCore, ?deadAgain⟩
  case queues => exact fun rq hw hbusy hout => exec_homeSliceRequest hw (Dev.homeArrive_queues hbusy hout)
  case waits =>
    exact fun rq d hw hbusy hd hhold hout =>
      exec_homeSliceRequest hw ((Dev.homeArrive_starts hbusy hout).trans (Dev.startHome_waits hd hhold))
  case shared | sharedBad =>
    exact fun rq d e hw hbusy hd hhold hk hf hout =>
      exec_homeSliceRequest_served hw hbusy hd hhold hout (Dev.serveHome_shared hk hf)
  case exclusive | exclusiveBad =>
    exact fun rq d e hw hbusy hd hhold hk hf hout =>
      exec_homeSliceRequest_served hw hbusy hd hhold hout (Dev.serveHome_exclusive hk hf)
  case read =>
    exact fun rq d e v hw hbusy hd hhold hk hr hout =>
      exec_homeSliceRequest_served hw hbusy hd hhold hout (Dev.serveHome_uncRead hk hr)
  case readBad =>
    exact fun rq d e hw hbusy hd hhold hk hr hout =>
      exec_homeSliceRequest_served hw hbusy hd hhold hout (Dev.serveHome_uncRead hk hr)
  case line | lineBad =>
    exact fun rq d e hw hbusy hd hhold hk hu hout =>
      exec_homeSliceRequest_served hw hbusy hd hhold hout (Dev.serveHome_writeLine hk hu)
  case part | partBad =>
    exact fun rq d e hw hbusy hd hhold hk hu hout =>
      exec_homeSliceRequest_served hw hbusy hd hhold hout (Dev.serveHome_writePart hk hu)
  case back =>
    exact fun rq d hw hbusy hd hhold hk hout =>
      exec_homeSliceRequest_served hw hbusy hd hhold hout (Dev.serveHome_writeBack hk)
  case full => exact fun rq hw hout => exec_homeSliceRequest hw (Dev.homeArrive_full hout)
  case snoopDead => exact fun c l kind hw hdead => exec_snoop hw (Dev.snoopArrive_dead hdead)
  case snoopDefers => exact fun c l kind hw hlive hst hhold => exec_snoop hw (Dev.snoopArrive_deferred hlive hst hhold)
  case snoopCaches =>
    exact fun c l kind d hw hlive hfree hd hq => exec_snoop hw
      ((Dev.snoopArrive_answered hlive hfree).trans (congrArg (·.resumeHome l) (Dev.answerSnoop_caches hd hq)))
  case snoopBack =>
    exact fun c l kind d r hw hlive hfree hd hq => exec_snoop hw
      ((Dev.snoopArrive_answered hlive hfree).trans (congrArg (·.resumeHome l) (Dev.answerSnoop_writeBack hd hq)))
  case holdNone => exact fun l hw hn => exec_lineHoldEnd hw (Dev.holdOver_none hn)
  case holdSnoops =>
    exact fun l k d e hw hn hd hbusy he hfree => exec_lineHoldEnd hw (Dev.holdOver_answers hn hd hbusy he hfree)
  case holdServes =>
    exact fun l k d rq hw hn hd hbusy hhold hq => exec_lineHoldEnd hw ((Dev.holdOver_resumes hn hd hbusy).trans
      ((Dev.resumeHome_over hbusy hhold).trans (Dev.finishHome_noWriteBack hbusy hq)))
  case holdKeeps =>
    exact fun l k d rq hw hn hd hbusy hhold =>
      exec_lineHoldEnd hw ((Dev.holdOver_resumes hn hd hbusy).trans (Dev.resumeHome_held hbusy hhold))
  case deadNone => exact fun a hw hs => exec_deadAgent hw (Dev.declareDead_none hs)
  case deadL2 =>
    intro a k d e hw hs he ha hlive hd
    subst hd
    exact exec_deadAgent hw ((Dev.declareDead_l2 hs he ha).trans (if_neg (by rw [hlive]; decide)))
  case deadCore =>
    exact fun a k e hw hs he ha hlive =>
      exec_deadAgent hw ((Dev.declareDead_core hs he ha).trans (Dev.deadCore_first hlive))
  case deadAgain =>
    rintro a k e hw hs he (⟨ha, hdead⟩ | ⟨ha, hdead⟩)
    · exact exec_deadAgent hw ((Dev.declareDead_l2 hs he ha).trans (Dev.deadL2_again hdead))
    · exact exec_deadAgent hw ((Dev.declareDead_core hs he ha).trans (Dev.deadCore_again hdead))

end Sys2Proof.Machine
end

section
/-!
PROOFS. Fenced requesters (13 R371): every row by which a requester reads or writes asks first whether the requester is fenced.
-/

namespace Sys2Proof.Machine

/-- A write of ERR_STAT goes through the gate of its block. -/
theorem Dev.errStatWrite_fenced {s : Dev} {rq : Req} (h : s.fenced rq = true) (j : Nat) (v : Word) :
    s.errStatWrite rq j v = s.bad := by
  rw [Dev.errStatWrite, Dev.gate_fenced h]

/-- A write of WDG_CTL goes through the gate of its watchdog. -/
theorem Dev.wdgCtlWrite_fenced {s : Dev} {rq : Req} (h : s.fenced rq = true) (w : Nat) (v : Word) :
    s.wdgCtlWrite rq w v = s.bad := by
  rw [Dev.wdgCtlWrite, Dev.wdgGate, Dev.gate_fenced h]

/-- Settles O59: each row asks for the fence first, in its window or at the gate of its register block. -/
theorem fencedRequestersDrawErrors : Obligations.FencedRequestersDrawErrors := by
  unfold Obligations.FencedRequestersDrawErrors
  intro s
  refine ⟨?combWindowRead, ?hivMail, ?peCtlHalt, ?peCtlRun, ?programMemoryWrite, ?peDbgRelease, ?shadowBankWrite,
    ?journalWindowRead, ?reg64LoRead, ?reg64HiRead, ?readClearsRead, ?registerWrite, ?pwrHuack, ?pwrDon, ?pwrDoff,
    ?cmdDb, ?cmdPhead, ?cmdRseq, ?cmdRctlRst, ?tmbMeas, ?tkgCtlArm, ?tmrCntRead, ?tsuSwtrig, ?setPgArm, ?setValid,
    ?icClaim, ?icQclaim, ?icCompl, ?icRearm, ?icPset, ?wdgSvc, ?wdgLock, ?nocFwWrite, ?dmcMaskWrite, ?ethTxtail,
    ?ethRxtail, ?dbgCreqStop, ?dbgDtxWrite, ?dbgDtxRead, ?dbgDrxWrite, ?dbgDrxRead, ?trcClear, ?trcSw, ?errValidClear⟩
  case combWindowRead | journalWindowRead | reg64LoRead | reg64HiRead | readClearsRead | hivMail | peCtlHalt | peCtlRun |
      peDbgRelease | programMemoryWrite | shadowBankWrite | registerWrite =>
    intros
    rename_i hw hf
    refine exec_eq (by delta exec; rfl) hw ?_
    exact Dev.byFence_fenced hf _
  case pwrHuack | pwrDon | pwrDoff | cmdDb | cmdPhead | cmdRseq | cmdRctlRst | tmbMeas | tkgCtlArm | tmrCntRead | tsuSwtrig |
      setPgArm | setValid | icClaim | icQclaim | icCompl | icRearm | icPset | wdgSvc | nocFwWrite |
      dmcMaskWrite | ethTxtail | ethRxtail | dbgCreqStop | dbgDtxWrite | dbgDtxRead | dbgDrxWrite | dbgDrxRead |
      trcClear | trcSw =>
    intros
    rename_i hw hf
    refine exec_eq (by delta exec; rfl) hw ?_
    exact Dev.gate_fenced hf ..
  case wdgLock =>
    exact fun rq w v hw hf => exec_eq (f := (·.wdgCtlWrite rq w (v ||| 8))) rfl hw (Dev.wdgCtlWrite_fenced hf w _)
  case errValidClear =>
    exact fun rq j v hw hf => exec_eq (f := (·.errStatWrite rq j v)) rfl hw (Dev.errStatWrite_fenced hf j v)

end Sys2Proof.Machine
end

section
/-!
PROOFS. The answer to a command (log 1, log 2): a well-formed one answers a next state, an ill-formed one the fault noUnit.
-/

namespace Sys2Proof.Machine

/-- Settles O2: every command is an effect under the test of its operands (`exec_is_run`), which decides between the
two outcomes. -/
theorem everyCommandCompletes : Obligations.EveryCommandCompletes := by
  unfold Obligations.EveryCommandCompletes
  exact fun c s => ⟨fun hw => exec_next hw s, fun hill => exec_ill hill s⟩

end Sys2Proof.Machine
end

section
/-!
PROOFS. The interrupt controller (16 R421 to R428): the assignment of a source that waits, claims and completions of the targets,
re-arms and writes of pending bits.
-/

namespace Sys2Proof.Machine

/-! ## The rows -/

section
variable {s : State} {d : Dev}

/-- IC_ASSIGN. -/
theorem exec_icAssign {n : Nat} (hw : wellFormed (.icAssign n) = true) (hd : s.dev.icAssignNow n = d) :
    exec (.icAssign n) s = .next { s with dev := d } :=
  exec_eq (f := (·.icAssignNow n)) rfl hw hd

variable {rq : Req} (hr : s.dev.reaches rq 28 = true)
include hr

/-- IC_CLAIM of a requester that reaches the block reads its target's ordinary line. -/
theorem exec_icClaim_reached {t : Nat} (hw : wellFormed (.icClaim rq t) = true) (hd : s.dev.icClaimRead rq t false = d) :
    exec (.icClaim rq t) s = .next { s with dev := d } :=
  exec_eq (f := fun s => s.gate rq 16 (0x400 + 0x10 * t) 28 true (·.icClaimRead rq t false)) rfl hw
    ((Dev.gate_admits hr ..).trans hd)

/-- IC_QCLAIM of such a requester reads the quick line. -/
theorem exec_icQclaim_reached {t : Nat} (hw : wellFormed (.icQclaim rq t) = true) (hd : s.dev.icClaimRead rq t true = d) :
    exec (.icQclaim rq t) s = .next { s with dev := d } :=
  exec_eq (f := fun s => s.gate rq 16 (0x404 + 0x10 * t) 28 true (·.icClaimRead rq t true)) rfl hw
    ((Dev.gate_admits hr ..).trans hd)

/-- IC_COMPL of such a requester answers 0 after the completion. -/
theorem exec_icCompl_reached {t : Nat} {v : Word} (hw : wellFormed (.icCompl rq t v) = true)
    (hd : s.dev.icComplete rq t v = d) : exec (.icCompl rq t v) s = .next { s with dev := d.ok 0 } :=
  exec_eq (f := fun s => s.gate rq 16 (0x408 + 0x10 * t) 28 true (fun s => (s.icComplete rq t v).ok 0)) rfl hw
    ((Dev.gate_admits hr ..).trans (congrArg (·.ok 0) hd))

/-- IC_REARM of such a requester answers 0 after the re-arm. -/
theorem exec_icRearm_reached {v : Word} (hw : wellFormed (.icRearm rq v) = true) (hd : s.dev.icRearmWrite rq v = d) :
    exec (.icRearm rq v) s = .next { s with dev := d.ok 0 } :=
  exec_eq (f := fun s => s.gate rq 16 0x280 28 true (fun s => (s.icRearmWrite rq v).ok 0)) rfl hw
    ((Dev.gate_admits hr ..).trans (congrArg (·.ok 0) hd))

/-- IC_PSET of such a requester sets the bits that it may write. -/
theorem exec_icPset_reached {w : Nat} {v : Word} (hw : wellFormed (.icPset rq w v) = true) :
    exec (.icPset rq w v) s = .next { s with dev := (s.dev.icBankWrite rq .IC_PSET true w v).ok 0 } :=
  exec_eq (f := fun s => s.gate rq 16 (4 * w) 28 true (fun s => (s.icBankWrite rq .IC_PSET true w v).ok 0)) rfl hw
    (Dev.gate_admits hr ..)

end

/-! ## Assignment (R425) -/

section
variable {s : Dev} {n : Nat} (hr : s.icRefresh n = s) (hwait : s.icWaits n = true) (hcur : s.fg F.IC_SRC_CUR n = 15)
include hr hwait hcur

/-- A source that waits and has no target goes to the next eligible one. -/
theorem Dev.icAssignNow_some {t : Nat} (hn : s.icNext n = some t) : s.icAssignNow n = s.fs F.IC_SRC_CUR n t := by
  simp [Dev.icAssignNow, hr, hwait, hcur, hn]

/-- With no eligible target it stays as it is. -/
theorem Dev.icAssignNow_none (hn : s.icNext n = none) : s.icAssignNow n = s := by
  simp [Dev.icAssignNow, hr, hwait, hcur, hn]

end

/-! ## Claims (R427) -/

section
variable {s : Dev} {rq : Req} {t : Nat} {quick : Bool}

/-- A debug PEEK returns the value alone. -/
theorem Dev.icClaimRead_peek (hdebug : rq.debug = true) (hpeek : rq.peek = true) :
    s.icClaimRead rq t quick = s.ok (claimValue (s.icLine t quick)) := by
  simp [Dev.icClaimRead, hdebug, hpeek]

/-- Any other read by a requester that is not the target draws an error response. -/
theorem Dev.icClaimRead_denied (hplain : rq.debug = false ∨ rq.peek = false) (hown : claimOwner rq t = false) :
    s.icClaimRead rq t quick = s.errResp 16 rq 0x05 (devAddr 16 (0x400 + 0x10 * t + 4 * b2n quick)) 0 := by
  have hplain' : (rq.debug && rq.peek) = false := Bool.and_eq_false_iff.2 hplain
  simp [Dev.icClaimRead, hplain', hown]

variable (hdebug : rq.debug = false) (hown : claimOwner rq t = true)
include hdebug hown

/-- The target takes the source that its line gives. -/
theorem Dev.icClaimRead_takes {n : Nat} (hline : s.icLine t quick = some n) :
    s.icClaimRead rq t quick = (s.icTake t n).ok (n + 2 ^ 31) := by
  simp [Dev.icClaimRead, hdebug, hown, hline, claimValue]

/-- It reads 0 from a line that is not asserted. -/
theorem Dev.icClaimRead_none (hline : s.icLine t quick = none) : s.icClaimRead rq t quick = s.ok 0 := by
  simp [Dev.icClaimRead, hdebug, hown, hline]

end

/-! ## Completions and re-arms (R422, R428) -/

/-- A source whose condition is 1 is pending after its re-arm. -/
theorem Dev.icRearmNow_true {s : Dev} {n : Nat} (h : s.icCond n = true) : s.icRearmNow n = s.icPend n := if_pos h

/-- One whose condition is 0 is left. -/
theorem Dev.icRearmNow_false {s : Dev} {n : Nat} (h : s.icCond n = false) : s.icRearmNow n = s :=
  if_neg (by rw [h]; decide)

section
variable {s d : Dev} {rq : Req} {t : Nat} {v : Word}

/-- A completion of a source that is active for the target clears its active bit, and with REARM arms it again. -/
theorem Dev.icComplete_owned (hact : s.icActive (v.toNat % 1024) = true)
    (hown : SMap.get (fun _ => 15) s.ic.owner (v.toNat % 1024) = t) :
    s.icComplete rq t v =
      (s.setIcBit .IC_ACT (v.toNat % 1024) false).cond (v.getLsbD 31) (·.icRearmNow (v.toNat % 1024)) := by
  simp [Dev.icComplete, hact, hown]

/-- Any other completion is logged. -/
theorem Dev.icComplete_unowned
    (h : s.icActive (v.toNat % 1024) = false ∨ SMap.get (fun _ => 15) s.ic.owner (v.toNat % 1024) ≠ t) :
    s.icComplete rq t v = s.errCap 16 { ty := 0x10, addr := devAddr 16 (0x408 + 0x10 * t), port := rq.port, world := rq.world
                                        info := v.toNat } := by
  rcases h with h | h <;> simp [Dev.icComplete, h]

/-- A write of IC_REARM arms a source that the requester may write. -/
theorem Dev.icRearmWrite_may (hres : icReserved (v.toNat % 1024) = false) (hmay : s.icMay rq (v.toNat % 1024) = true) :
    s.icRearmWrite rq v = s.icRearmNow (v.toNat % 1024) := by
  simp [Dev.icRearmWrite, hres, hmay]

/-- It leaves a reserved source, one that the requester may not write, and one whose condition is 0. -/
theorem Dev.icRearmWrite_leaves
    (h : icReserved (v.toNat % 1024) = true ∨ s.icMay rq (v.toNat % 1024) = false ∨ s.icCond (v.toNat % 1024) = false) :
    s.icRearmWrite rq v = s := by
  rcases h with h | h | h <;> simp [Dev.icRearmWrite, Dev.icRearmNow, h]

end

/-! ## The obligation -/

/-- Settles O38: each clause is its row's rule for a requester that reaches the block, with the branch of the assignment, the claim,
the completion or the re-arm that its hypotheses select. -/
theorem interruptControllerActs : Obligations.InterruptControllerActs := by
  unfold Obligations.InterruptControllerActs
  intro s
  refine ⟨?assigns, ?staysUnassigned, ?claims, ?claimNone, ?claimPeek, ?claimDenied, ?qclaims, ?qclaimNone, ?qclaimPeek,
    ?qclaimDenied, ?completes, ?rearmsPending, ?rearmsNot, ?logs, ?rearm, ?rearmLeaves, ?pset⟩
  case assigns => exact fun n t hw hr hwait hcur hn => exec_icAssign hw (Dev.icAssignNow_some hr hwait hcur hn)
  case staysUnassigned => exact fun n hw hr hwait hcur hn => exec_icAssign hw (Dev.icAssignNow_none hr hwait hcur hn)
  case claims =>
    exact fun rq t n hw hr hdebug hown hline => exec_icClaim_reached hr hw (Dev.icClaimRead_takes hdebug hown hline)
  case claimNone =>
    exact fun rq t hw hr hdebug hown hline => exec_icClaim_reached hr hw (Dev.icClaimRead_none hdebug hown hline)
  case claimPeek => exact fun rq t hw hr hdebug hpeek => exec_icClaim_reached hr hw (Dev.icClaimRead_peek hdebug hpeek)
  case claimDenied => exact fun rq t hw hr hplain hown => exec_icClaim_reached hr hw (Dev.icClaimRead_denied hplain hown)
  case qclaims =>
    exact fun rq t n hw hr hdebug hown hline => exec_icQclaim_reached hr hw (Dev.icClaimRead_takes hdebug hown hline)
  case qclaimNone =>
    exact fun rq t hw hr hdebug hown hline => exec_icQclaim_reached hr hw (Dev.icClaimRead_none hdebug hown hline)
  case qclaimPeek => exact fun rq t hw hr hdebug hpeek => exec_icQclaim_reached hr hw (Dev.icClaimRead_peek hdebug hpeek)
  case qclaimDenied => exact fun rq t hw hr hplain hown => exec_icQclaim_reached hr hw (Dev.icClaimRead_denied hplain hown)
  case completes =>
    exact fun rq t v hw hr hact hown hv =>
      exec_icCompl_reached hr hw ((Dev.icComplete_owned hact hown).trans (by rw [hv, Dev.cond_false]))
  case rearmsPending =>
    exact fun rq t v d hw hr hact hown hv hd hcond =>
      exec_icCompl_reached hr hw ((Dev.icComplete_owned hact hown).trans
        (by rw [hv, Dev.cond_true, ← hd, Dev.icRearmNow_true hcond]))
  case rearmsNot =>
    exact fun rq t v d hw hr hact hown hv hd hcond =>
      exec_icCompl_reached hr hw ((Dev.icComplete_owned hact hown).trans
        (by rw [hv, Dev.cond_true, ← hd, Dev.icRearmNow_false hcond]))
  case logs => exact fun rq t v hw hr h => exec_icCompl_reached hr hw (Dev.icComplete_unowned h)
  case rearm =>
    exact fun rq v hw hr hres hmay hcond =>
      exec_icRearm_reached hr hw ((Dev.icRearmWrite_may hres hmay).trans (Dev.icRearmNow_true hcond))
  case rearmLeaves => exact fun rq v hw hr h => exec_icRearm_reached hr hw (Dev.icRearmWrite_leaves h)
  case pset => exact fun rq w v hw hr => exec_icPset_reached hr hw

end Sys2Proof.Machine
end

section
/-!
PROOFS. The watchdogs (16 R430 to R437): the keys of a service, the instants at which the count reaches CLOSE and CLOSE + GRACE, and
LOCK.
-/

namespace Sys2Proof.Machine

/-- A write of a watchdog's register by a requester that reaches its domain and may write it. -/
theorem Dev.wdgGate_admits {s : Dev} {rq : Req} {w off : Nat} (hr : s.reaches rq (wdgDom w) = true)
    (hmay : s.wdgMay rq w (decide (off = 0x10)) = true) (f : Dev → Dev) : s.wdgGate rq w off f = f s := by
  rw [Dev.wdgGate, hmay, Dev.gate_admits hr]

/-! ## Services (R431) -/

/-- WDG_SVC of such a requester answers 0 after the service. -/
theorem exec_wdgSvc_admitted {s : State} {rq : Req} {w : Nat} {v : Word} {d : Dev} (hw : wellFormed (.wdgSvc rq w v) = true)
    (hr : s.dev.reaches rq (wdgDom w) = true) (hmay : s.dev.wdgMay rq w true = true) (hd : s.dev.wdgService w v = d) :
    exec (.wdgSvc rq w v) s = .next { s with dev := d.ok 0 } :=
  exec_eq (f := fun s => s.wdgGate rq w 0x10 (fun s => (s.wdgService w v).ok 0)) rfl hw
    ((Dev.wdgGate_admits (off := 0x10) hr hmay _).trans (congrArg (·.ok 0) hd))

section
variable {s d : Dev} {w : Nat} (hd : d = s.wdgCatch w)
include hd

/-- The first key is remembered. -/
theorem Dev.wdgService_firstKey : s.wdgService w 0x0000C35A = d.setFirst w true := by
  subst hd
  rfl

/-- The second key after the first, in the open window, restarts the count and clears WARN and FAULT. -/
theorem Dev.wdgService_secondKey (hfirst : SMap.get (fun _ => false) d.wdg.first w = true)
    (hopen : (d.setFirst w false).fg F.WDG_OPEN_US w ≤ (d.setFirst w false).fg F.WDG_STAT_CNT w) :
    s.wdgService w 0x00005AC3 = (((d.setFirst w false).wdgZero w).fs F.WDG_STAT_WARN w 0).fs F.WDG_STAT_FAULT w 0 := by
  subst hd
  simp [Dev.wdgService, hfirst, hopen]

/-- Any other word, the second key alone and the second key before the window opens are bad services. -/
theorem Dev.wdgService_bad {v : Word} (hv : v ≠ 0x0000C35A)
    (h : v ≠ 0x00005AC3 ∨ SMap.get (fun _ => false) d.wdg.first w = false ∨
      (d.setFirst w false).fg F.WDG_STAT_CNT w < (d.setFirst w false).fg F.WDG_OPEN_US w) :
    s.wdgService w v = (d.setFirst w false).wdgBad w := by
  subst hd
  have hnot : ¬ (v = 0x00005AC3 && SMap.get (fun _ => false) (s.wdgCatch w).wdg.first w &&
      decide (((s.wdgCatch w).setFirst w false).fg F.WDG_OPEN_US w ≤ ((s.wdgCatch w).setFirst w false).fg F.WDG_STAT_CNT w)) =
      true := by
    simp only [Bool.and_eq_true, decide_eq_true_eq, not_and]
    rintro ⟨hk, hf⟩ hle
    rcases h with h | h | h
    · exact h hk
    · rw [hf] at h
      exact Bool.noConfusion h
    · exact Nat.not_lt.2 hle h
  exact (if_neg hv).trans (if_neg hnot)

end

/-! ## Warnings and expiries (R432) -/

/-- WDG_WARNING of a watchdog that counts and has not warned. -/
theorem exec_wdgWarning_first {s : State} {w : Nat} (hw : wellFormed (.wdgWarning w) = true) (hc : s.dev.wdgCounts w = true)
    (hwarn : s.dev.fg F.WDG_STAT_WARN w = 0) :
    exec (.wdgWarning w) s = .next { s with dev := (s.dev.wdgReach w (s.dev.wdgClose w)).wdgWarn w } := by
  show execWdgWarning w s = _
  exact run_eq s hw (if_pos (by rw [hc, hwarn]; rfl))

/-- WDG_EXPIRY of a watchdog that counts and has warned by then. -/
theorem exec_wdgExpiry_warned {s : State} {w : Nat} {d : Dev} (hw : wellFormed (.wdgExpiry w) = true)
    (hc : s.dev.wdgCounts w = true) (hd : d = s.dev.wdgReach w (s.dev.wdgEnd w)) (hwarn : d.fg F.WDG_STAT_WARN w = 1) :
    exec (.wdgExpiry w) s = .next { s with dev := d.wdgExpire w } := by
  subst hd
  show execWdgExpiry w s = _
  refine run_eq s hw ((if_pos hc).trans ?_)
  simp only [hwarn, Nat.one_ne_zero, decide_false, Dev.cond_false]

/-! ## LOCK (R435) -/

/-- The bits of WDG_CTL below LOCK are those of the word written. -/
theorem lockWord_low (v : Word) {i : Nat} (h : i < 3) : (v ||| 8).getLsbD i = v.getLsbD i := by
  interval_cases i <;> simp

/-- Bit LOCK is set. -/
theorem lockWord_lock (v : Word) : (v ||| 8).getLsbD 3 = true := by simp

section
variable {s d : Dev} {rq : Req} {w : Nat} {v : Word} (hr : s.reaches rq (wdgDom w) = true) (hmay : s.wdgMay rq w false = true)
include hr hmay

/-- WDG_CTL of a locked watchdog is refused. -/
theorem Dev.wdgCtlWrite_locked (hlock : s.fg F.WDG_CTL_LOCK w = 1) : s.wdgCtlWrite rq w v =
    s.errResp 17 rq 0x01 (devAddr 17 (0x20 * w + 0)) (0x20 * w + 0) :=
  (Dev.wdgGate_admits (off := 0) hr hmay _).trans (if_pos (by rw [hlock]; rfl))

/-- WDG_CTL of the watchdog of a core, written with LOCK and without EN. -/
theorem Dev.wdgCtlWrite_locks (hlock : s.fg F.WDG_CTL_LOCK w = 0) (hd : d = s.wdgCatch w) (hcore : w < 8)
    (hen : v.getLsbD 0 = false) : s.wdgCtlWrite rq w (v ||| 8) =
    ((((d.fs F.WDG_CTL_EN w 0).fs F.WDG_CTL_DBGPAUSE w (b2n (v.getLsbD 1))).fs F.WDG_CTL_ACT w (b2n (v.getLsbD 2))).fs
      F.WDG_CTL_LOCK w 1).ok 0 := by
  subst hd
  have hnine : w ≠ 9 := by omega
  refine (Dev.wdgGate_admits (off := 0) hr hmay _).trans ((if_neg (by rw [hlock]; decide)).trans ?_)
  simp only [lockWord_low v (by decide : 0 < 3), lockWord_low v (by decide : 1 < 3), lockWord_low v (by decide : 2 < 3),
    lockWord_lock, hen, hcore, hnine, decide_true, decide_false, Bool.false_and, Dev.cond_true, Dev.cond_false]
  rfl

end

/-- WDG_LOCK writes WDG_CTL with LOCK. -/
theorem exec_wdgLock {s : State} {rq : Req} {w : Nat} {v : Word} {d : Dev} (hw : wellFormed (.wdgLock rq w v) = true)
    (hd : s.dev.wdgCtlWrite rq w (v ||| 8) = d) : exec (.wdgLock rq w v) s = .next { s with dev := d } :=
  exec_eq (f := (·.wdgCtlWrite rq w (v ||| 8))) rfl hw hd

/-! ## The obligation -/

/-- Settles O39: each clause is its row, with the case of the key, the instant that the count reaches, or the case of LOCK. -/
theorem watchdogsAct : Obligations.WatchdogsAct := by
  unfold Obligations.WatchdogsAct
  intro s
  refine ⟨?firstKey, ?secondKey, ?badService, ?warns, ?expires, ?locked, ?locks⟩
  case firstKey => exact fun rq w d hw hr hmay hd => exec_wdgSvc_admitted hw hr hmay (Dev.wdgService_firstKey hd)
  case secondKey =>
    exact fun rq w d hw hr hmay hd hfirst hopen =>
      exec_wdgSvc_admitted hw hr hmay (Dev.wdgService_secondKey hd hfirst hopen)
  case badService =>
    exact fun rq w d v hw hr hmay hd hv h => exec_wdgSvc_admitted hw hr hmay (Dev.wdgService_bad hd hv h)
  case warns => exact fun w hw hc hwarn => exec_wdgWarning_first hw hc hwarn
  case expires => exact fun w d hw hc hd hwarn => exec_wdgExpiry_warned hw hc hd hwarn
  case locked => exact fun rq w v hw hr hmay hlock => exec_wdgLock hw (Dev.wdgCtlWrite_locked hr hmay hlock)
  case locks =>
    exact fun rq w v d hw hr hmay hlock hd hcore hen =>
      exec_wdgLock hw (Dev.wdgCtlWrite_locks hr hmay hlock hd hcore hen)

end Sys2Proof.Machine
end

section
/-!
PROOFS. The firewall's registers and the DRAM controllers (14 R379, R388 to R396): requests and their column commands, refresh, the
ends of rows and of activate windows, the patrol scrub, and the mask registers.
-/

namespace Sys2Proof.Machine

/-! ## Firewall regions (R379) -/

/-- NOC_FW_WRITE is a write of a region register. -/
theorem exec_nocFwWrite {s : State} {rq : Req} {r w : Nat} {v : Word} {d : Dev}
    (hw : wellFormed (.nocFwWrite rq r w v) = true) (hd : s.dev.fwWrite rq r w v = d) :
    exec (.nocFwWrite rq r w v) s = .next { s with dev := d } :=
  exec_eq (f := (·.fwWrite rq r w v)) rfl hw hd

/-- A requester other than the SVP gets an access error. -/
theorem Dev.fwWrite_denied {s : Dev} {rq : Req} {r w : Nat} {v : Word} (hr : s.reaches rq 28 = true) (hsvp : rq.svp = false) :
    s.fwWrite rq r w v = s.errResp 18 rq 0x01 (devAddr 18 (0x100 + 16 * r + 4 * w)) (0x100 + 16 * r + 4 * w) := by
  rw [Dev.fwWrite, hsvp, Dev.gate_denies hr]

/-! ## Requests (R383, R390) -/

/-- DRAM_REQUEST is the arrival of a request. -/
theorem exec_dramRequest {s : State} {port pa wait : Nat} {write hintOpen : Bool} {d : Dev}
    (hw : wellFormed (.dramRequest port pa write hintOpen wait) = true)
    (hd : s.dev.dramArrive port pa write hintOpen wait = d) :
    exec (.dramRequest port pa write hintOpen wait) s = .next { s with dev := d } :=
  exec_eq (f := (·.dramArrive port pa write hintOpen wait)) rfl hw hd

section
variable {s : Dev} {port pa wait : Nat} {write hintOpen : Bool}

/-- A port at its limit issues no other request. -/
theorem Dev.dramArrive_full (hout : portLimit port ≤ s.dramOut port) : s.dramArrive port pa write hintOpen wait = s :=
  if_pos hout

variable (hout : s.dramOut port < portLimit port)
include hout

/-- A channel that is off refuses. -/
theorem Dev.dramArrive_off (hoff : s.domOn (29 + s.dramChan pa) = false) :
    s.dramArrive port pa write hintOpen wait = (s.dramOffRefuse port 3 pa).bad :=
  (if_neg (Nat.not_le.2 hout)).trans (if_pos (by rw [hoff]; rfl))

/-- A channel that is on queues the request. -/
theorem Dev.dramArrive_queues (hon : s.domOn (29 + s.dramChan pa) = true) : s.dramArrive port pa write hintOpen wait =
    s.onDch (s.dramChan pa) (fun x => { x with queue := x.queue ++
      [{ port := port, pa := pa, write := write, hintOpen := pageHint port write hintOpen, at0 := s.clk
         born := s.clk - wait }] }) :=
  (if_neg (Nat.not_le.2 hout)).trans (if_neg (by rw [hon]; decide))

end

/-! ## Column commands (R390 to R392, R395) -/

/-- The column command of request r, at place i of channel c, made on d, which is s with the row of r open: the request leaves the
queue, its row stays open or closes, and its waits are counted. -/
def Dev.columnIssued (s d : Dev) (c i : Nat) (r : DramReq) : Dev :=
  let age := s.clk - r.at0
  let T := s.fg F.DMC_PTGT_NS r.port
  let open' := if d.keepsOpen r then some (dramRow r.pa, d.clk) else none
  let x := d.onDch c (fun x =>
    { x with queue := dropAt x.queue i, rows := SMap.set (fun _ => none) x.rows (s.dramBank r.pa) open' })
  let x := x.cond (decide (T ≠ 0) && decide (T ≤ age)) (fun y => y.inc F.DMC_PMISS_COUNT r.port)
  let x := x.fs F.DMC_PMAX_NS r.port (max (x.fg F.DMC_PMAX_NS r.port) (min age F.DMC_PMAX_NS.max))
  x.fs F.NOC_MAXWAIT_NS r.port (max (x.fg F.NOC_MAXWAIT_NS r.port) (min (x.clk - r.born) F.NOC_MAXWAIT_NS.max))

section
variable {s d x : Dev} {c i flips : Nat} {r : DramReq} (hq : (s.dch c).queue[i]? = some r)
  (hd : d = s.cond (!s.rowOpen c r) (fun x => x.activate c (s.dramBank r.pa) (dramRow r.pa))) (hx : x = s.columnIssued d c i r)
include hq hd hx

/-- The column command of a queued request is followed by the check of what it reads. -/
theorem Dev.dramServe_issues : s.dramServe c i flips =
    if r.write then x
    else if decide (2 ≤ flips) || x.poisoned (r.pa / 64) then ((x.dramUe c r.pa r.port).poisonRefuse r.port 3 r.pa).bad
    else x.dramCheck c r.pa r.port flips := by
  subst hd hx
  rw [Dev.dramServe, hq]
  rfl

/-- A write reads nothing. -/
theorem Dev.dramServe_write (hwr : r.write = true) : s.dramServe c i flips = x :=
  (Dev.dramServe_issues hq hd hx).trans (if_pos hwr)

variable (hwr : r.write = false)
include hwr

/-- A read that finds an uncorrectable word or a poisoned line gets an error response. -/
theorem Dev.dramServe_uncorrectable (hbad : 2 ≤ flips ∨ x.poisoned (r.pa / 64) = true) :
    s.dramServe c i flips = ((x.dramUe c r.pa r.port).poisonRefuse r.port 3 r.pa).bad := by
  rw [Dev.dramServe_issues hq hd hx, hwr, if_neg Bool.false_ne_true]
  exact if_pos (by simpa using hbad)

/-- Any other read is checked. -/
theorem Dev.dramServe_read (hflips : flips < 2) (hclean : x.poisoned (r.pa / 64) = false) :
    s.dramServe c i flips = x.dramCheck c r.pa r.port flips := by
  rw [Dev.dramServe_issues hq hd hx, hwr, if_neg Bool.false_ne_true]
  exact if_neg (by rw [hclean, decide_eq_false (Nat.not_le.2 hflips)]; decide)

end

section
variable {s : State} {c idx flips : Nat}

/-- DRAM_COMMAND_ISSUE serves the request that stands at place idx in the order of R390. -/
theorem exec_dramCommandIssue_serves {i : Nat} {d : Dev} (hw : wellFormed (.dramCommandIssue c idx flips) = true)
    (hon : s.dev.domOn (29 + c) = true) (hi : (s.dev.dramOrder c)[idx]? = some i) (hd : s.dev.dramServe c i flips = d) :
    exec (.dramCommandIssue c idx flips) s = .next { s with dev := d } := by
  show execDramCommandIssue c idx flips s = _
  exact run_eq s hw ((if_pos hon).trans (by rw [hi]; exact hd))

/-- While the channel is off, or where no request stands at that place, nothing is issued. -/
theorem exec_dramCommandIssue_none (hw : wellFormed (.dramCommandIssue c idx flips) = true)
    (h : s.dev.domOn (29 + c) = false ∨ (s.dev.dramOrder c)[idx]? = none) :
    exec (.dramCommandIssue c idx flips) s = .next s := by
  show execDramCommandIssue c idx flips s = _
  refine run_eq s hw (d := s.dev) ?_
  rcases h with h | h
  · exact if_neg (by rw [h]; decide)
  · rw [h]
    exact ite_self _

end

/-! ## Refresh, windows, idle rows, scrub (R392 to R394, R396) -/

section
variable {s : State} {c : Nat} {d : Dev}

/-- REFRESH of a channel that is on closes every row at its instant. -/
theorem exec_refresh_on (hw : wellFormed (.refresh c) = true) (hon : s.dev.domOn (29 + c) = true)
    (hd : d = s.dev.moveClk ((s.dev.dch c).refAt + s.dev.refreshNs c)) :
    exec (.refresh c) s = .next { s with
      dev := d.onDch c (fun x => { x with rows := [], refreshes := x.refreshes + 1, refAt := d.clk }) } := by
  subst hd
  show execRefresh c s = _
  exact run_eq s hw (if_pos hon)

/-- ACTIVATE_TABLE_CLEAR of a channel that is on clears its tables at the end of the window. -/
theorem exec_activateTableClear_on (hw : wellFormed (.activateTableClear c) = true) (hon : s.dev.domOn (29 + c) = true)
    (hd : d = s.dev.moveClk (s.dev.actWindowEnd c)) :
    exec (.activateTableClear c) s = .next { s with dev := d.onDch c (fun x => { x with acts := [], winAt := d.clk }) } := by
  subst hd
  show execActivateTableClear c s = _
  exact run_eq s hw (if_pos hon)

/-- While the channel is off it does nothing. -/
theorem exec_activateTableClear_off (hw : wellFormed (.activateTableClear c) = true) (hoff : s.dev.domOn (29 + c) = false) :
    exec (.activateTableClear c) s = .next s := by
  show execActivateTableClear c s = _
  exact run_eq s hw (d := s.dev) (if_neg (by rw [hoff]; decide))

/-- ROW_IDLE_CLOSE of a bank without an open row does nothing. -/
theorem exec_rowIdleClose_closed {b : Nat} (hw : wellFormed (.rowIdleClose c b) = true) (hrow : (s.dev.dch c).row b = none) :
    exec (.rowIdleClose c b) s = .next s := by
  show execRowIdleClose c b s = _
  exact run_eq s hw (d := s.dev) (by rw [hrow])

/-- That of a bank with an open row closes it IDLE ns after its latest column command. -/
theorem exec_rowIdleClose_open {b row k : Nat} (hw : wellFormed (.rowIdleClose c b) = true)
    (hrow : (s.dev.dch c).row b = some (row, k)) :
    exec (.rowIdleClose c b) s = .next { s with
      dev := (s.dev.moveClk (k + s.dev.fg F.DMC_CFG_IDLE 0)).onDch c
        (fun x => { x with rows := SMap.set (fun _ => none) x.rows b none }) } := by
  show execRowIdleClose c b s = _
  exact run_eq s hw (by rw [hrow])

/-- PATROL_SCRUB of a channel that is on checks its next line and moves on. -/
theorem exec_patrolScrub_on {flips : Nat} (hw : wellFormed (.patrolScrub c flips) = true) (hon : s.dev.domOn (29 + c) = true)
    (hd : d = s.dev.dramCheck c (s.dev.chanLine c (s.dev.fg F.DMC_SCRUBPOS_LINE c % chanLines)) 31 flips) :
    exec (.patrolScrub c flips) s = .next { s with
      dev := d.fs F.DMC_SCRUBPOS_LINE c ((s.dev.fg F.DMC_SCRUBPOS_LINE c + 1) % chanLines) } := by
  subst hd
  show execPatrolScrub c flips s = _
  exact run_eq s hw (if_pos hon)

end

/-! ## Mask registers (R388) -/

/-- DMC_MASK_WRITE is a write of a mask register. -/
theorem exec_dmcMaskWrite {s : State} {rq : Req} {off : Nat} {v : Word} {d : Dev}
    (hw : wellFormed (.dmcMaskWrite rq off v) = true) (hd : s.dev.maskWrite rq off v = d) :
    exec (.dmcMaskWrite rq off v) s = .next { s with dev := d } :=
  exec_eq (f := (·.maskWrite rq off v)) rfl hw hd

section
variable {s d : Dev} {rq : Req} {off base : Nat} {v : Word} {lo hi : RName} (hr : s.reaches rq 28 = true)
  (hsvp : rq.svp = true) (hreg : maskRegs[(off - 0x10) / 8]? = some (lo, hi, base))
  (hd : d = if off % 8 = 0 then s.wr lo 0 v else s.wr hi 0 (v &&& 0xFF))
include hr hsvp hreg hd

/-- The SVP's write goes by EN and by the mask that it would leave. -/
theorem Dev.maskWrite_svp : s.maskWrite rq off v =
    if s.fg F.DMC_CTL_EN 0 = 1 ∨ !maskValid base (d.rd64 lo hi 0) then s.errResp 20 rq 0x10 (devAddr 20 off) v.toNat
    else (d.endLatches lo 0).ok 0 := by
  subst hd
  rw [Dev.maskWrite, hsvp, Dev.gate_admits hr, hreg]

/-- A valid mask is taken while the controller is off. -/
theorem Dev.maskWrite_takes (hen : s.fg F.DMC_CTL_EN 0 = 0) (hvalid : maskValid base (d.rd64 lo hi 0) = true) :
    s.maskWrite rq off v = (d.endLatches lo 0).ok 0 := by
  rw [Dev.maskWrite_svp hr hsvp hreg hd]
  exact if_neg (by simp [hen, hvalid])

/-- A write while it is on, and an invalid mask, are errors. -/
theorem Dev.maskWrite_errs (h : s.fg F.DMC_CTL_EN 0 = 1 ∨ maskValid base (d.rd64 lo hi 0) = false) :
    s.maskWrite rq off v = s.errResp 20 rq 0x10 (devAddr 20 off) v.toNat := by
  rw [Dev.maskWrite_svp hr hsvp hreg hd]
  exact if_pos (h.imp_right fun hinv => by rw [hinv]; rfl)

end

/-! ## The obligation -/

/-- Settles O45: each clause is its row, with the word of a region, the case of an arrival, what a column command reads, or the case
of a mask. -/
theorem firewallAndDramAct : Obligations.FirewallAndDramAct := by
  unfold Obligations.FirewallAndDramAct
  intro s
  refine ⟨?baseLo, ?baseHi, ?size, ?ctl, ?fwDenied, ?full, ?off, ?queues, ?write, ?uncorrectable, ?read, ?issuesNone, ?refresh,
    ?window, ?windowOff, ?rowClosed, ?rowOpen, ?patrol, ?maskTakes, ?maskErrs⟩
  case baseLo | baseHi | size | ctl =>
    exact fun rq r v hw hr hsvp => exec_nocFwWrite hw (by rw [Dev.fwWrite, hsvp, Dev.gate_admits hr]; rfl)
  case fwDenied => exact fun rq r w v hw hr hsvp => exec_nocFwWrite hw (Dev.fwWrite_denied hr hsvp)
  case full => exact fun port pa write hintOpen wait hw hout => exec_dramRequest hw (Dev.dramArrive_full hout)
  case off => exact fun port pa write hintOpen wait hw hout hoff => exec_dramRequest hw (Dev.dramArrive_off hout hoff)
  case queues => exact fun port pa write hintOpen wait hw hout hon => exec_dramRequest hw (Dev.dramArrive_queues hout hon)
  case write =>
    exact fun c idx flips i r d x hw hon hi hq hd hx hwr =>
      exec_dramCommandIssue_serves hw hon hi (Dev.dramServe_write hq hd hx hwr)
  case uncorrectable =>
    exact fun c idx flips i r d x hw hon hi hq hd hx hwr hbad =>
      exec_dramCommandIssue_serves hw hon hi (Dev.dramServe_uncorrectable hq hd hx hwr hbad)
  case read =>
    exact fun c idx flips i r d x hw hon hi hq hd hx hwr hflips hclean =>
      exec_dramCommandIssue_serves hw hon hi (Dev.dramServe_read hq hd hx hwr hflips hclean)
  case issuesNone => exact fun c idx flips hw h => exec_dramCommandIssue_none hw h
  case refresh => exact fun c d hw hon hd => exec_refresh_on hw hon hd
  case window => exact fun c d hw hon hd => exec_activateTableClear_on hw hon hd
  case windowOff => exact fun c hw hoff => exec_activateTableClear_off hw hoff
  case rowClosed => exact fun c b hw hrow => exec_rowIdleClose_closed hw hrow
  case rowOpen => exact fun c b row k hw hrow => exec_rowIdleClose_open hw hrow
  case patrol => exact fun c flips d hw hon hd => exec_patrolScrub_on hw hon hd
  case maskTakes =>
    exact fun rq off base v lo hi d hw hr hsvp hreg hd hen hvalid =>
      exec_dmcMaskWrite hw (Dev.maskWrite_takes hr hsvp hreg hd hen hvalid)
  case maskErrs =>
    exact fun rq off base v lo hi d hw hr hsvp hreg hd h =>
      exec_dmcMaskWrite hw (Dev.maskWrite_errs hr hsvp hreg hd h)

end Sys2Proof.Machine
end

section
/-!
PROOFS. The bay links (15 R409 to R417): the TICK frame of a tick, card frames, the loss of a link and its symbol lock.
-/

namespace Sys2Proof.Machine

/-! ## TICK frames (R410) -/

/-- TICK_FRAME. -/
theorem exec_tickFrame {s : State} {l : Nat} {d : Dev} (hw : wellFormed (.tickFrame l) = true) (hd : s.dev.tickFrame l = d) :
    exec (.tickFrame l) s = .next { s with dev := d } :=
  exec_eq (f := (·.tickFrame l)) rfl hw hd

section
variable {s d : Dev} {l : Nat}

/-- While PD06 is off, before the first tick, and once a tick's frame has left, none leaves. -/
theorem Dev.tickFrame_none
    (h : s.domOn 6 = false ∨ s.time.tickRaised = false ∨ (s.lnk l).lastTick.map Prod.fst = some s.tickNo) :
    s.tickFrame l = s := by
  rcases h with h | h | h <;> simp [Dev.tickFrame, h]

variable (hon : s.domOn 6 = true) (hraised : s.time.tickRaised = true)
include hon hraised

/-- With PD06 on and a tick in progress its frame is due. -/
theorem Dev.tickFrame_due : ¬ (!s.domOn 6 || !s.time.tickRaised) = true := by
  rw [hon, hraised]
  decide

variable (hnew : (s.lnk l).lastTick.map Prod.fst ≠ some s.tickNo)
  (hd : d = (s.moveTo (s.tickTime + 200)).lnkRoll l)
include hnew hd

/-- A link that is off at that instant, 200 ns after the tick, sends nothing. -/
theorem Dev.tickFrame_off (hoff : d.lnkOn l = false) : s.tickFrame l = d := by
  subst hd
  exact (if_neg (Dev.tickFrame_due hon hraised)).trans ((if_neg hnew).trans (if_pos (congrArg (!·) hoff)))

/-- A link that is on sends every output bit of it, 0 while outputs are not live. -/
theorem Dev.tickFrame_sends {o : BitVec 32} (hlink : d.lnkOn l = true) (ho : o = if d.outputsLive then (d.lnk l).out else 0) :
    s.tickFrame l = (d.wr .BLK_OUT l o).onLnk l (fun b =>
      { b with out := o, lastTick := some (d.tickNo, o.toNat), flags := d.lnkFlags
               sent := linkFrame 1 d.lnkFlags (d.lnk l).eack d.tickNo o.toNat 0 (stamp d.tickTime) }) := by
  subst ho hd
  exact (if_neg (Dev.tickFrame_due hon hraised)).trans ((if_neg hnew).trans
    (if_neg (Bool.eq_false_iff.1 (congrArg (!·) hlink))))

end

/-! ## Card frames (R413 to R415) -/

/-- CARD_FRAME. -/
theorem exec_cardFrame {s : State} {l : Nat} {f : CardFrame} {d : Dev} (hw : wellFormed (.cardFrame l f) = true)
    (hd : s.dev.cardFrame l f = d) : exec (.cardFrame l f) s = .next { s with dev := d } :=
  exec_eq (f := (·.cardFrame l f)) rfl hw hd

section
variable {s d : Dev} {l : Nat} {f : CardFrame}

/-- A link that is off or DOWN takes no frame. -/
theorem Dev.cardFrame_none (h : s.lnkOn l = false ∨ s.lnkState l = 0) : s.cardFrame l f = s := by
  rcases h with h | h <;> simp [Dev.cardFrame, h]

variable (hon : s.lnkOn l = true) (hup : s.lnkState l ≠ 0) (hd : d = s.moveTo (f.arrival + 344))
include hon hup hd

/-- Any other link takes a frame once it has arrived whole, by whether it is good. -/
theorem Dev.cardFrame_arrived : s.cardFrame l f = if d.cardGood f then d.cardTake l f else d.inc F.BLK_BADCNT_COUNT l := by
  subst hd
  exact if_neg (by rw [hon, decide_eq_false hup]; decide)

/-- A bad frame is counted. -/
theorem Dev.cardFrame_bad (hbad : d.cardGood f = false) : s.cardFrame l f = d.inc F.BLK_BADCNT_COUNT l :=
  (Dev.cardFrame_arrived hon hup hd).trans (if_neg (by rw [hbad]; decide))

/-- A good one is taken. -/
theorem Dev.cardFrame_good (hgood : d.cardGood f = true) : s.cardFrame l f = d.cardTake l f :=
  (Dev.cardFrame_arrived hon hup hd).trans (if_pos hgood)

end

/-! ## Losses and symbol lock (R416) -/

section
variable {s : State} {l : Nat}

/-- LINK_LOSS of an UP link without a good frame for LOSS ticks. -/
theorem exec_linkLoss_loses (hw : wellFormed (.linkLoss l) = true) (hon : s.dev.domOn 6 = true) (hup : s.dev.lnkState l = 2)
    (hmiss : s.dev.lossTicks l ≤ (s.dev.lnk l).miss) :
    exec (.linkLoss l) s = .next { s with dev := s.dev.lnkLose l 1 } := by
  show execLinkLoss l s = _
  exact run_eq s hw (if_pos ⟨hon, hup, hmiss⟩)

/-- A link that is not UP, or that has missed fewer, is not lost. -/
theorem exec_linkLoss_none (hw : wellFormed (.linkLoss l) = true)
    (h : s.dev.lnkState l ≠ 2 ∨ (s.dev.lnk l).miss < s.dev.lossTicks l) : exec (.linkLoss l) s = .next s := by
  show execLinkLoss l s = _
  refine run_eq s hw (d := s.dev) (if_neg ?_)
  rintro ⟨-, hup, hmiss⟩
  rcases h with h | h
  · exact h hup
  · exact Nat.not_lt.2 hmiss h

/-- SYMBOL_LOCK_LOSS of an UP link loses it. -/
theorem exec_symbolLockLoss_up (hw : wellFormed (.symbolLockLoss l) = true) (hon : s.dev.domOn 6 = true)
    (hup : s.dev.lnkState l = 2) : exec (.symbolLockLoss l) s = .next { s with dev := s.dev.lnkLose l 0 } := by
  show execSymbolLockLoss l s = _
  exact run_eq s hw ((if_neg (by rw [hon]; decide)).trans (if_pos hup))

/-- That of any other link makes it DOWN. -/
theorem exec_symbolLockLoss_other (hw : wellFormed (.symbolLockLoss l) = true) (hon : s.dev.domOn 6 = true)
    (hup : s.dev.lnkState l ≠ 2) : exec (.symbolLockLoss l) s = .next { s with
      dev := (s.dev.fs F.BLK_LSTAT_STATE l 0).onLnk l (fun b => { b with good := 0 }) } := by
  show execSymbolLockLoss l s = _
  exact run_eq s hw ((if_neg (by rw [hon]; decide)).trans (if_neg hup))

/-- SYMBOL_LOCK_ACQUIRED raises a DOWN link to SYNC. -/
theorem exec_symbolLockAcquired_down (hw : wellFormed (.symbolLockAcquired l) = true) (hon : s.dev.domOn 6 = true)
    (hdown : s.dev.lnkState l = 0) :
    exec (.symbolLockAcquired l) s = .next { s with dev := s.dev.fs F.BLK_LSTAT_STATE l 1 } := by
  show execSymbolLockAcquired l s = _
  exact run_eq s hw (if_pos ⟨hon, hdown⟩)

/-- It leaves any other link. -/
theorem exec_symbolLockAcquired_other (hw : wellFormed (.symbolLockAcquired l) = true) (hdown : s.dev.lnkState l ≠ 0) :
    exec (.symbolLockAcquired l) s = .next s := by
  show execSymbolLockAcquired l s = _
  exact run_eq s hw (d := s.dev) (if_neg fun h => hdown h.2)

end

/-! ## The obligation -/

/-- Settles O47: each clause is its row in the state of the link that it names. -/
theorem bayLinksAct : Obligations.BayLinksAct := by
  unfold Obligations.BayLinksAct
  intro s
  refine ⟨?tickNone, ?tickOff, ?tickSends, ?cardNone, ?cardBad, ?cardGood, ?loses, ?losesNone, ?lockLostUp, ?lockLost,
    ?lockRaises, ?lockLeaves⟩
  case tickNone => exact fun l hw h => exec_tickFrame hw (Dev.tickFrame_none h)
  case tickOff =>
    exact fun l d hw hon hraised hnew hd hoff => exec_tickFrame hw (Dev.tickFrame_off hon hraised hnew hd hoff)
  case tickSends =>
    exact fun l d o hw hon hraised hnew hd hlink ho =>
      exec_tickFrame hw (Dev.tickFrame_sends hon hraised hnew hd hlink ho)
  case cardNone => exact fun l f hw h => exec_cardFrame hw (Dev.cardFrame_none h)
  case cardBad => exact fun l f d hw hon hup hd hbad => exec_cardFrame hw (Dev.cardFrame_bad hon hup hd hbad)
  case cardGood =>
    intro l f d a b hw hon hup hd hgood ha hb
    subst ha hb
    exact exec_cardFrame hw (Dev.cardFrame_good hon hup hd hgood)
  case loses => exact fun l hw hon hup hmiss => exec_linkLoss_loses hw hon hup hmiss
  case losesNone => exact fun l hw h => exec_linkLoss_none hw h
  case lockLostUp => exact fun l hw hon hup => exec_symbolLockLoss_up hw hon hup
  case lockLost => exact fun l hw hon hup => exec_symbolLockLoss_other hw hon hup
  case lockRaises => exact fun l hw hon hdown => exec_symbolLockAcquired_down hw hon hdown
  case lockLeaves => exact fun l hw hdown => exec_symbolLockAcquired_other hw hdown

end Sys2Proof.Machine
end

section
/-!
PROOFS. The debug port (17 R438 to R443): Test-Logic-Reset, NOP, the accesses of the debug master, and the words and messages of the
mailbox.
-/

namespace Sys2Proof.Machine

/-! ## The port (R438, R439) -/

/-- A row of the debug port acts while PD01 is on. -/
theorem exec_atPort_on {c : Instr} {s : State} {f : Dev → Dev} {d : Dev} (hrow : exec c s = run (wellFormed c) (·.atPort f) s)
    (hw : wellFormed c = true) (hon : s.dev.domOn 1 = true) (hd : f s.dev = d) : exec c s = .next { s with dev := d } :=
  exec_eq hrow hw ((Dev.atPort_on hon f).trans hd)

/-- TAP_RESET does nothing while PD01 is off. -/
theorem exec_tapReset_off {s : State} (hoff : s.dev.domOn 1 = false) : exec .tapReset s = .next s :=
  exec_eq (f := (·.atPort fun s => { s with zdp := { s.zdp with instr := 2 } })) rfl rfl (Dev.atPort_off hoff _)

/-! ## The debug master (R443) -/

section
variable {s t : Dev} {inc : Bool} {world addr size a : Nat} {f : Dev → Nat → Dev} (ha : a = s.zAddr inc addr)
  (hworld : world ≠ 3) (hsize : a % size = 0) (hpow : s.domOn 31 = true) (hun : s.unlockReach world = true)
  (hwin : s.windowGranted a = true) (ht : t = f s a)
include ha hworld hsize hpow hun hwin ht

/-- An access that is made answers OK with its data, and the next address follows it. -/
theorem Dev.zAccess_ok (hok : t.resp.err = false) : s.zAccess false inc world addr size f =
    { t.zAnswer zOK a t.resp.val.toNat with zdp := { (t.zAnswer zOK a t.resp.val.toNat).zdp with next := a + size } } := by
  subst ht
  rw [Dev.zAccess_makes ha hworld hsize hpow hun hwin, hok, if_neg Bool.false_ne_true]

/-- One that draws an error response answers ERROR. -/
theorem Dev.zAccess_error (herr : t.resp.err = true) : s.zAccess false inc world addr size f = t.zAnswer zError a 0 := by
  subst ht
  rw [Dev.zAccess_makes ha hworld hsize hpow hun hwin, if_pos herr]

end

section
variable {s : Dev} {bad inc : Bool} {world addr size a : Nat} {f : Dev → Nat → Dev} (ha : a = s.zAddr inc addr)
include ha

/-- A request that is no operation, of no world or misaligned answers BADOP. -/
theorem Dev.zAccess_badOp (h : bad = true ∨ world = 3 ∨ a % size ≠ 0) :
    s.zAccess bad inc world addr size f = s.zAnswer zBadOp a 0 :=
  (Dev.zAccess_refuses ha f).1 h

variable (hworld : world ≠ 3) (hsize : a % size = 0)
include hworld hsize

/-- While PD31 is off the answer is NOPWR. -/
theorem Dev.zAccess_noPwr (hpow : s.domOn 31 = false) : s.zAccess false inc world addr size f = s.zAnswer zNoPwr a 0 :=
  (Dev.zAccess_refuses ha f).2.1 rfl hworld hsize hpow

/-- Outside the unlock it is DENIED. -/
theorem Dev.zAccess_denied (hpow : s.domOn 31 = true) (h : s.unlockReach world = false ∨ s.windowGranted a = false) :
    s.zAccess false inc world addr size f = s.zAnswer zDenied a 0 :=
  (Dev.zAccess_refuses ha f).2.2 rfl hworld hsize hpow h

end

/-! ## The mailbox (R439, R440, R442) -/

section
variable {s : Dev} {word : Nat} {data : DWord}

/-- MBWR stores its word while no message is in progress. -/
theorem Dev.zMbwr_free (hfree : s.lcs.mbBusy = none) : s.zMbwr word data =
    ({ s with lcs := { s.lcs with mbi := mbPut s.lcs.mbi (4 * word) (leBytes 4 data.toNat) } } : Dev).zAnswer zOK (4 * word) 0 :=
  if_neg (by rw [hfree]; decide)

/-- While one is, it answers MBFULL. -/
theorem Dev.zMbwr_full (hbusy : s.lcs.mbBusy.isSome = true) : s.zMbwr word data = s.zAnswer zMbFull (4 * word) 0 := if_pos hbusy

variable {code : Nat}

/-- A supervisor that is down does not take a message. -/
theorem Dev.mbGo_down (hdown : s.fg F.SVP_STAT_DOWN 0 = 1) : s.mbGo code = s.mbReply code stSvpDown [] := if_pos hdown

variable (hup : s.fg F.SVP_STAT_DOWN 0 ≠ 1)
include hup

/-- Nor does one that restarts. -/
theorem Dev.mbGo_restarting (hre : s.svp.restarting = true) : s.mbGo code = s.mbReply code stSvpRestart [] :=
  (if_neg hup).trans (if_pos hre)

variable (hrun : s.svp.restarting = false)
include hrun

/-- A code that does not exist is answered at once. -/
theorem Dev.mbGo_unknown (hcode : code = 0 ∨ 5 < code) : s.mbGo code = s.mbReply code stBadOpcode [] :=
  (if_neg hup).trans ((if_neg (by rw [hrun]; decide)).trans (if_pos hcode))

/-- Codes 1 to 4 are handed over. -/
theorem Dev.mbGo_hands (hlo : 1 ≤ code) (hhi : code ≤ 4) :
    s.mbGo code = { s with lcs := { s.lcs with mbBusy := some code, mboWait := false } } := by
  have hknown : ¬ (code = 0 ∨ 5 < code) := by omega
  have hnotEngine : ∀ p : Prop, ¬ (code = 5 ∧ p) := fun p h => by omega
  exact (if_neg hup).trans ((if_neg (by rw [hrun]; decide)).trans ((if_neg hknown).trans (if_neg (hnotEngine _))))

end

section
variable {s : State} {code : Nat} (hw : wellFormed (.zdpMbgo code) = true) (hon : s.dev.domOn 1 = true)
include hw hon

/-- ZDP_MBGO answers MBFULL while a message is in progress. -/
theorem exec_zdpMbgo_full (hbusy : s.dev.lcs.mbBusy.isSome = true) :
    exec (.zdpMbgo code) s = .next { s with dev := s.dev.zAnswer zMbFull 0 0 } :=
  exec_atPort_on rfl hw hon (if_pos hbusy)

/-- Otherwise it hands the message over, and answers OK. -/
theorem exec_zdpMbgo_free {d : Dev} (hfree : s.dev.lcs.mbBusy = none) (hd : s.dev.mbGo code = d) :
    exec (.zdpMbgo code) s = .next { s with dev := d.zAnswer zOK 0 0 } :=
  exec_atPort_on rfl hw hon ((if_neg (by rw [hfree]; decide)).trans (congrArg (·.zAnswer zOK 0 0) hd))

end

/-! ## The obligation -/

/-- Settles O48: each clause is its row while PD01 is on, with the answer of the debug master's access or of the mailbox. -/
theorem debugPortActs : Obligations.DebugPortActs := by
  unfold Obligations.DebugPortActs
  intro s
  refine ⟨?reset, ?resetOff, ?nop, ?read4, ?read4Error, ?read4BadOp, ?read4NoPwr, ?read4Denied, ?write4, ?write4Error,
    ?write4BadOp, ?write4NoPwr, ?write4Denied, ?read8, ?read8Error, ?read8BadOp, ?read8NoPwr, ?read8Denied, ?write8,
    ?write8Error, ?write8BadOp, ?write8NoPwr, ?write8Denied, ?mbwr, ?mbwrFull, ?mbrd, ?mbgoFull, ?mbgoDown, ?mbgoRestart,
    ?mbgoUnknown, ?mbgoHands⟩
  case reset => exact fun hon => exec_atPort_on rfl rfl hon rfl
  case resetOff => exact exec_tapReset_off
  case nop => exact fun hon => exec_atPort_on rfl rfl hon rfl
  case read4 | read8 =>
    exact fun peek inc world addr a d hw hon ha hworld hsize hpow hun hwin hd hok =>
      exec_atPort_on rfl hw hon (Dev.zAccess_ok ha hworld hsize hpow hun hwin hd hok)
  case read4Error | read8Error =>
    exact fun peek inc world addr a d hw hon ha hworld hsize hpow hun hwin hd herr =>
      exec_atPort_on rfl hw hon (Dev.zAccess_error ha hworld hsize hpow hun hwin hd herr)
  case read4BadOp | read8BadOp =>
    exact fun peek inc world addr a hw hon ha h => exec_atPort_on rfl hw hon (Dev.zAccess_badOp ha (.inr h))
  case read4NoPwr | read8NoPwr =>
    exact fun peek inc world addr a hw hon ha hworld hsize hpow =>
      exec_atPort_on rfl hw hon (Dev.zAccess_noPwr ha hworld hsize hpow)
  case read4Denied | read8Denied =>
    exact fun peek inc world addr a hw hon ha hworld hsize hpow h =>
      exec_atPort_on rfl hw hon (Dev.zAccess_denied ha hworld hsize hpow h)
  case write4 | write8 =>
    exact fun inc world addr a data d hw hon ha hworld hsize hpow hun hwin hd hok =>
      exec_atPort_on rfl hw hon (Dev.zAccess_ok ha hworld hsize hpow hun hwin hd hok)
  case write4Error | write8Error =>
    exact fun inc world addr a data d hw hon ha hworld hsize hpow hun hwin hd herr =>
      exec_atPort_on rfl hw hon (Dev.zAccess_error ha hworld hsize hpow hun hwin hd herr)
  case write4BadOp | write8BadOp =>
    exact fun peek inc world addr a data hw hon ha h => exec_atPort_on rfl hw hon (Dev.zAccess_badOp ha h)
  case write4NoPwr | write8NoPwr =>
    exact fun inc world addr a data hw hon ha hworld hsize hpow =>
      exec_atPort_on rfl hw hon (Dev.zAccess_noPwr ha hworld hsize hpow)
  case write4Denied | write8Denied =>
    exact fun inc world addr a data hw hon ha hworld hsize hpow h =>
      exec_atPort_on rfl hw hon (Dev.zAccess_denied ha hworld hsize hpow h)
  case mbwr =>
    exact fun word data hw hon hfree => exec_atPort_on rfl hw hon (Dev.zMbwr_free hfree)
  case mbwrFull =>
    exact fun word data hw hon hbusy => exec_atPort_on rfl hw hon (Dev.zMbwr_full hbusy)
  case mbrd =>
    exact fun word hw hon => exec_atPort_on rfl hw hon rfl
  case mbgoFull => exact fun code hw hon hbusy => exec_zdpMbgo_full hw hon hbusy
  case mbgoDown => exact fun code hw hon hfree hdown => exec_zdpMbgo_free hw hon hfree (Dev.mbGo_down hdown)
  case mbgoRestart =>
    exact fun code hw hon hfree hup hre => exec_zdpMbgo_free hw hon hfree (Dev.mbGo_restarting hup hre)
  case mbgoUnknown =>
    exact fun code hw hon hfree hup hrun hcode => exec_zdpMbgo_free hw hon hfree (Dev.mbGo_unknown hup hrun hcode)
  case mbgoHands =>
    exact fun code hw hon hfree hup hrun hlo hhi => exec_zdpMbgo_free hw hon hfree (Dev.mbGo_hands hup hrun hlo hhi)

end Sys2Proof.Machine
end

section
/-!
PROOFS. The DBG registers of a core, the trace unit, the health monitors and the error logs (17 R451 to R456, R462; 18 R463 to
R474).
-/

namespace Sys2Proof.Machine

/-! ## The channel of a core (R451, R452) -/

/-- A row of a per-core DBG register acts for a requester that its block admits, while its domains are on. -/
theorem exec_dbgGate_admits {c : Instr} {s : State} {rq : Req} {m o : Nat} {only : Bool} {f : Dev → Dev} {d : Dev}
    (hrow : exec c s = run (wellFormed c) (fun s => s.dbgGate rq m o only f) s) (hw : wellFormed c = true)
    (hr : s.dev.reaches rq 31 = true) (hadm : (s.dev.dbgAdmits rq (s.dev.core m).world && only) = true)
    (hon : s.dev.domOn (18 + m) = true) (hd : f s.dev = d) : exec c s = .next { s with dev := d } :=
  exec_eq hrow hw ((Dev.dbgGate_admits hr hadm hon o f).trans hd)

section
variable {s : Dev} {m : Nat} {v : Word}

/-- STOP requests a halt. -/
theorem Dev.creqWrite_stop (hstop : v.getLsbD 0 = true) : s.creqWrite m v = s.fs F.DBG_CSTAT_HALTREQ m 1 := if_pos hstop

/-- A write without STOP does nothing. -/
theorem Dev.creqWrite_none (hstop : v.getLsbD 0 = false) : s.creqWrite m v = s := if_neg (by rw [hstop]; decide)

variable {rq : Req}

/-- The core's own write of DTX sets DTXF. -/
theorem Dev.dtxWrite_own (hown : rq.ofCore m = true) : s.dtxWrite rq m v = s.dccPut m .DBG_DTX F.DBG_DCCSTAT_DTXF v :=
  if_pos hown

/-- Another one's does not. -/
theorem Dev.dtxWrite_other (hown : rq.ofCore m = false) : s.dtxWrite rq m v = s.dccOver m .DBG_DTX F.DBG_DCCSTAT_DTXF v :=
  if_neg (by rw [hown]; decide)

/-- The debug master's write of DRX sets DRXF and its event. -/
theorem Dev.drxWrite_debug (hdebug : rq.debug = true) :
    s.drxWrite rq m v = (s.dccPut m .DBG_DRX F.DBG_DCCSTAT_DRXF v).setEvtBit 257 F.DBG_EVT_DRX 0 m := if_pos hdebug

/-- Another one's sets neither. -/
theorem Dev.drxWrite_other (hdebug : rq.debug = false) : s.drxWrite rq m v = s.dccOver m .DBG_DRX F.DBG_DCCSTAT_DRXF v :=
  if_neg (by rw [hdebug]; decide)

/-- A PEEK of DTX clears nothing. -/
theorem Dev.dtxRead_peek (hpeek : (rq.debug && rq.peek) = true) : s.dtxRead rq m = s.ok (s.rd .DBG_DTX m).toNat := if_pos hpeek

/-- Any other read of DTX clears the word, and the debug master's the flag too. -/
theorem Dev.dtxRead_clears (hpeek : (rq.debug && rq.peek) = false) : s.dtxRead rq m =
    ((s.wr .DBG_DTX m 0).cond rq.debug (fun s => (s.fs F.DBG_DCCSTAT_DTXF m 0).setEvtBit 257 F.DBG_EVT_DTX 0 m)).ok
      (s.rd .DBG_DTX m).toNat := if_neg (by rw [hpeek]; decide)

/-- A PEEK of DRX clears nothing. -/
theorem Dev.drxRead_peek (hpeek : (rq.debug && rq.peek) = true) : s.drxRead rq m = s.ok (s.rd .DBG_DRX m).toNat := if_pos hpeek

/-- Any other read of DRX clears the word, and the core's own the flag too. -/
theorem Dev.drxRead_clears (hpeek : (rq.debug && rq.peek) = false) : s.drxRead rq m =
    ((s.wr .DBG_DRX m 0).cond (rq.ofCore m) (fun s => s.fs F.DBG_DCCSTAT_DRXF m 0)).ok (s.rd .DBG_DRX m).toNat :=
  if_neg (by rw [hpeek]; decide)

end

/-! ## The trace unit (R454, R456, R462) -/

section
variable {s : State} {rq : Req} {v : Word} (hr : s.dev.reaches rq 31 = true)
include hr

/-- TRC_CLEAR of a requester that the block admits is a write of TRC_CTL with CLEAR. -/
theorem exec_trcClear_admitted (hw : wellFormed (.trcClear rq v) = true)
    (hadm : (rq.svp || (rq.debug && (List.range 3).all (fun w => !s.dev.trc.worlds.testBit w || s.dev.unlockReach w))) = true) :
    exec (.trcClear rq v) s = .next { s with dev := (s.dev.trcCtlWrite (v ||| 8)).ok 0 } :=
  exec_eq (f := fun s => s.trcGate rq 0 (fun s => (s.trcCtlWrite (v ||| 8)).ok 0)) rfl hw
    (by rw [Dev.trcGate, hadm, Dev.gate_admits hr])

variable {m : Nat} (hw : wellFormed (.trcSw rq m v) = true)
include hw

/-- TRC_SW of the core emits its packet. -/
theorem exec_trcSw_own (hown : rq.ofCore m = true) : exec (.trcSw rq m v) s = .next { s with dev := (s.dev.trcSw m v).ok 0 } :=
  exec_eq (f := (·.trcSwWrite rq m v)) rfl hw (by rw [Dev.trcSwWrite, hown, Dev.gate_admits hr])

/-- That of another requester is refused. -/
theorem exec_trcSw_other (hown : rq.ofCore m = false) : exec (.trcSw rq m v) s = .next { s with
    dev := s.dev.errResp 27 rq 0x01 (devAddr 27 (trcSwOff m)) (trcSwOff m) } :=
  exec_eq (f := (·.trcSwWrite rq m v)) rfl hw (by rw [Dev.trcSwWrite, hown, Dev.gate_denies hr])

end

/-! ## Health samples (R463 to R468) -/

/-- HLT_SAMPLE of a module without power does nothing. -/
theorem exec_hltSample_off {s : State} {n : Nat} {v : BitVec 16} (hw : wellFormed (.hltSample n v) = true)
    (hoff : s.dev.pwr.powered = false) : exec (.hltSample n v) s = .next s := by
  show execHltSample n v s = _
  exact run_eq s hw (d := s.dev) (if_neg (by rw [hoff]; decide))

/-- That of a powered one is the sample. -/
theorem exec_hltSample_on {s : State} {n : Nat} {v : BitVec 16} {d : Dev} (hw : wellFormed (.hltSample n v) = true)
    (hon : s.dev.pwr.powered = true) (hd : s.dev.hltSample n v.toNat = d) :
    exec (.hltSample n v) s = .next { s with dev := d } := by
  show execHltSample n v s = _
  exact run_eq s hw ((if_pos hon).trans hd)

/-- The stage of monitor n after a sample of value v, which d holds: 0 where nothing is measured. -/
def Dev.sampleStage (s d : Dev) (n v : Nat) : Nat :=
  if s.monLive n = true then
    monStage (monKind n) (s.fg F.HLT_MON_VAL_STATE n) (d.monMeasure n (s.monValue n v))
      (monThreshold n (d.fg F.HLT_MON_THRESH_WARN n)) (monThreshold n (d.fg F.HLT_MON_THRESH_ALARM n))
  else 0

section
variable {s d : Dev} {n v k : Nat}
  (hd : d = (s.fs F.HLT_MON_VAL_VALUE n (s.monValue n v)).fs F.HLT_MON_VAL_SAMPLED n (b2n (s.monLive n)))
  (hk : k = s.sampleStage d n v)
include hd hk

/-- A sample moves its monitor's stage; one of the first twelve monitors moves Tj and the trip as well. -/
theorem Dev.hltSample_eq : s.hltSample n v =
    if n < 12 then ((d.monChange n (s.fg F.HLT_MON_VAL_STATE n) k (s.monValue n v)).tjUpdate).otSample n (s.monValue n v)
    else d.monChange n (s.fg F.HLT_MON_VAL_STATE n) k (s.monValue n v) := by
  subst hd hk
  rfl

/-- A sample of a monitor that is no die sensor. -/
theorem Dev.hltSample_other (hn : 12 ≤ n) :
    s.hltSample n v = d.monChange n (s.fg F.HLT_MON_VAL_STATE n) k (s.monValue n v) :=
  (Dev.hltSample_eq hd hk).trans (if_neg (Nat.not_lt.2 hn))

/-- A sample of a die sensor. -/
theorem Dev.hltSample_die (hn : n < 12) : s.hltSample n v =
    ((d.monChange n (s.fg F.HLT_MON_VAL_STATE n) k (s.monValue n v)).tjUpdate).otSample n (s.monValue n v) :=
  (Dev.hltSample_eq hd hk).trans (if_pos hn)

end

/-! ## Error logs (R471, R474) -/

/-- ERR_VALID_CLEAR is a write of ERR_STAT. -/
theorem exec_errValidClear {s : State} {rq : Req} {j : Nat} {v : Word} {d : Dev}
    (hw : wellFormed (.errValidClear rq j v) = true) (hd : s.dev.errStatWrite rq j v = d) :
    exec (.errValidClear rq j v) s = .next { s with dev := d } :=
  exec_eq (f := (·.errStatWrite rq j v)) rfl hw hd

section
variable {s d : Dev} {rq : Req} {j : Nat} {v : Word} (hr : s.reaches rq 28 = true)
include hr

/-- The SVP's write of a log that is on sets IEN, and clears VALID. -/
theorem Dev.errStatWrite_svp (hsvp : rq.svp = true) (hon : s.domOn (errDom j) = true)
    (hd : d = s.edge (192 + j) (fun x => x.fs F.ERR_STAT_IEN j (bits v.toNat 2 2))) :
    s.errStatWrite rq j v = (if v.getLsbD 0 then d.fs F.ERR_STAT_VALID j 0 else d).ok 0 := by
  subst hd
  simp [Dev.errStatWrite, hsvp, Dev.gate_admits hr, hon]

/-- A core's write of its own log clears VALID alone. -/
theorem Dev.errStatWrite_own (hsvp : rq.svp = false) (hown : (decide (32 ≤ j) && decide (j < 40) && rq.ofCore (j - 32)) = true)
    (hon : s.domOn (errDom j) = true) :
    s.errStatWrite rq j v = (if v.getLsbD 0 then s.fs F.ERR_STAT_VALID j 0 else s).ok 0 := by
  simp only [Dev.errStatWrite, hsvp, hown, Bool.false_or, Dev.gate_admits hr, hon]
  rfl

/-- A log whose domain is off ignores a write. -/
theorem Dev.errStatWrite_off (hsvp : rq.svp = true) (hoff : s.domOn (errDom j) = false) : s.errStatWrite rq j v = s.ok 0 := by
  simp [Dev.errStatWrite, hsvp, Dev.gate_admits hr, hoff]

end

/-! ## The obligation -/

/-- Settles O50: each clause is its row for a requester that is admitted, with what the register, the sample or the log does in the
case named. -/
theorem debugTraceAndHealthAct : Obligations.DebugTraceAndHealthAct := by
  unfold Obligations.DebugTraceAndHealthAct
  intro s
  refine ⟨?creqStop, ?creqNone, ?dtxPut, ?dtxOver, ?drxPut, ?drxOver, ?dtxTaken, ?dtxPeek, ?dtxCleared, ?drxTaken, ?drxCleared,
    ?drxPeek, ?trcClear, ?trcSw, ?trcSwOther, ?sampleOff, ?sampleOther, ?sampleDie, ?errSvp, ?errOwn, ?errOff⟩
  case creqStop =>
    exact fun rq m v hw hr hadm hon hstop =>
      exec_dbgGate_admits rfl hw hr hadm hon (congrArg (·.ok 0) (Dev.creqWrite_stop hstop))
  case creqNone =>
    exact fun rq m v hw hr hadm hon hstop =>
      exec_dbgGate_admits rfl hw hr hadm hon (congrArg (·.ok 0) (Dev.creqWrite_none hstop))
  case dtxPut =>
    exact fun rq m v hw hr hadm hon hown =>
      exec_dbgGate_admits rfl hw hr hadm hon (congrArg (·.ok 0) (Dev.dtxWrite_own hown))
  case dtxOver =>
    exact fun rq m v hw hr hadm hon hown =>
      exec_dbgGate_admits rfl hw hr hadm hon (congrArg (·.ok 0) (Dev.dtxWrite_other hown))
  case drxPut =>
    exact fun rq m v hw hr hadm hon hdebug =>
      exec_dbgGate_admits rfl hw hr hadm hon (congrArg (·.ok 0) (Dev.drxWrite_debug hdebug))
  case drxOver =>
    exact fun rq m v hw hr hadm hon hdebug =>
      exec_dbgGate_admits rfl hw hr hadm hon (congrArg (·.ok 0) (Dev.drxWrite_other hdebug))
  case dtxTaken =>
    exact fun rq m hw hr hadm hon hdebug hpeek => exec_dbgGate_admits rfl hw hr hadm hon
      ((Dev.dtxRead_clears (by rw [hpeek, Bool.and_false])).trans (by rw [hdebug, Dev.cond_true]))
  case dtxPeek =>
    exact fun rq m hw hr hadm hon hdebug hpeek => exec_dbgGate_admits rfl hw hr hadm hon
      (Dev.dtxRead_peek (by rw [hdebug, hpeek, Bool.and_self]))
  case dtxCleared =>
    exact fun rq m hw hr hadm hon hdebug => exec_dbgGate_admits rfl hw hr hadm hon
      ((Dev.dtxRead_clears (by rw [hdebug, Bool.false_and])).trans (by rw [hdebug, Dev.cond_false]))
  case drxTaken =>
    exact fun rq m hw hr hadm hon hpeek hown => exec_dbgGate_admits rfl hw hr hadm hon
      ((Dev.drxRead_clears hpeek).trans (by rw [hown, Dev.cond_true]))
  case drxCleared =>
    exact fun rq m hw hr hadm hon hpeek hown => exec_dbgGate_admits rfl hw hr hadm hon
      ((Dev.drxRead_clears hpeek).trans (by rw [hown, Dev.cond_false]))
  case drxPeek =>
    exact fun rq m hw hr hadm hon hpeek => exec_dbgGate_admits rfl hw hr hadm hon (Dev.drxRead_peek hpeek)
  case trcClear => exact fun rq v hw hr hadm => exec_trcClear_admitted hr hw hadm
  case trcSw => exact fun rq m v hw hr hown => exec_trcSw_own hr hw hown
  case trcSwOther => exact fun rq m v hw hr hown => exec_trcSw_other hr hw hown
  case sampleOff => exact fun n v hw hoff => exec_hltSample_off hw hoff
  case sampleOther =>
    exact fun n k v d hw hon hd hk hn => exec_hltSample_on hw hon (Dev.hltSample_other hd hk hn)
  case sampleDie => exact fun n k v d hw hon hd hk hn => exec_hltSample_on hw hon (Dev.hltSample_die hd hk hn)
  case errSvp =>
    exact fun rq j v d hw hr hsvp hon hd => exec_errValidClear hw (Dev.errStatWrite_svp hr hsvp hon hd)
  case errOwn =>
    intro rq j v d hw hr hsvp hown hon hd
    subst hd
    exact exec_errValidClear hw (Dev.errStatWrite_own hr hsvp hown hon)
  case errOff => exact fun rq j v hw hr hsvp hoff => exec_errValidClear hw (Dev.errStatWrite_off hr hsvp hoff)

end Sys2Proof.Machine
end
